-- ==== Sys2Proof/Word.lean ====
section
/-! DEFINITION. The word types of the Caerel-9 (spec/02 R19, R33; spec/01 R6) and the names of its registers. -/

namespace Sys2Proof

/-- One byte of memory. -/
abbrev Byte := BitVec 8
/-- One lane's value of a vector register (R33), also a 32-bit lane mask (R41). -/
abbrev Word := BitVec 32
/-- A scalar register (R33), an instruction word (R19), a program counter (R24). -/
abbrev DWord := BitVec 64
/-- A mask of the 32 lanes of a group: bit L is lane L (R41). -/
abbrev LaneMask := BitVec 32

/-- Vector register index v0 to v255 (R33). -/
abbrev VReg := Fin 256
/-- Scalar register index s0 to s63 (R33). -/
abbrev SReg := Fin 64
/-- Lane predicate index p0 to p7 (R33). -/
abbrev PReg := Fin 8
/-- Group predicate index q0 to q3 (R33). -/
abbrev QReg := Fin 4

/-- A register by file and index, as windows and pending masks name it (R30). -/
inductive Reg where
  | v (i : Nat)
  | s (i : Nat)
  | p (i : Nat)
  | q (i : Nat)
deriving DecidableEq, Repr

/-- The lanes of a mask in increasing order (R39, Active). -/
def lanesOf (m : LaneMask) : List Nat :=
  (List.range 32).filter (fun l => m.getLsbD l)

/-- The mask that holds exactly the lanes of a list. -/
def maskOf (ls : List Nat) : LaneMask :=
  ls.foldl (fun m l => m ||| (1#32 <<< l)) 0#32

/-- All 32 lanes. -/
def allLanes : LaneMask := 0xFFFFFFFF#32

end Sys2Proof
end

