-- ==== Sys2Proof/Syntax.lean ====
section
/-! DEFINITION. The instruction set as syntax: one constructor of Instr per row of spec/opcode_table.json. The
rows of classes 0x01 to 0x10 carry the fields of their word (spec/02 R19, R20 and the class chapters); the other
rows are steps of the ordering machine, the engines, the control plane, the host and the management controller
(spec/09 R167, spec/95), and carry the component they act on. -/

namespace Sys2Proof

/-- Guard predicate p[pg], inverted when pn (spec/02 R29). -/
structure Guard where
  pg : PReg
  pn : Bool
deriving DecidableEq, Repr

/-- Width and signedness of an integer operation (spec/05 R69). -/
inductive IntTy where
  | i32 | u32 | i64 | u64
deriving DecidableEq, Repr

/-- Conditions of scmp and vcmp (spec/05 R72). -/
inductive ICond where
  | eq | ne | ltS | leS | gtS | geS | ltU | leU | gtU | geU
deriving DecidableEq, Repr

/-- Segment sizes (spec/05 R78). -/
inductive Seg where
  | w32 | w16 | w8 | w4 | w2
deriving DecidableEq, Repr

/-- Reductions of redux (spec/05 R81). -/
inductive RedOp where
  | add | minI | maxI | minU | maxU | and | or | xor
deriving DecidableEq, Repr

/-- Format codes (spec/06 R85); b8 u x p is binary8pP with P = p + 1, unsigned when u, extended when x. -/
inductive Fmt where
  | f32 | f16 | bf16 | e4m3 | e5m2 | e8m0
  | b8 (u x : Bool) (p : Fin 7)
deriving DecidableEq, Repr

/-- Float type field FT of class 0x05 (spec/06 R97). -/
inductive FT where
  | f32 | f16 | bf16
deriving DecidableEq, Repr

/-- Rounding field RND (spec/06 R97). -/
inductive Rnd where
  | rne | rtz | rup | rdn | sr | dyn
deriving DecidableEq, Repr

/-- Conditions of fcmp (spec/06 R100). -/
inductive FCond where
  | eq | ne | lt | le | gt | ge | un | ord
deriving DecidableEq, Repr

/-- Size field of loads, stores and copies (spec/02 R22). -/
inductive MSize where
  | u8 | s8 | u16 | s16 | b32 | b64 | b128
deriving DecidableEq, Repr

/-- Size field of atomics (spec/02 R22). -/
inductive ASize where
  | u32 | s32 | u64 | s64
deriving DecidableEq, Repr

/-- Order field (spec/02 R22). -/
inductive Order where
  | relaxed | acquire | release | acqRel
deriving DecidableEq, Repr

/-- Scopes from narrowest to widest (spec/01 R12). -/
inductive Scope where
  | core | quad | die | pkg | pod | sys
deriving DecidableEq, Repr

/-- Index kind IX of a memory operand (spec/07 R110). -/
inductive Ix where
  | s32 | u32 | pair | none
deriving DecidableEq, Repr

/-- Memory paths (spec/09 R184). -/
inductive Path where
  | group | copy | tile | coll | shard
deriving DecidableEq, Repr

/-- Copy levels (spec/10 R194). -/
inductive CpyLvl where
  | scratch | die | pks | global
deriving DecidableEq, Repr

/-- A memory operand: index kind, scalar base, vector index, 12-bit offset (spec/07 R110). -/
structure MAddr where
  ix : Ix
  base : SReg
  idx : VReg
  off : BitVec 12
deriving DecidableEq, Repr

/-- Scalar integer, V format (spec/05 R70, R71). -/
structure SInt where
  ty : IntTy
  sat : Bool
  n : Fin 64
  d : SReg
  a : SReg
  b : SReg
  c : SReg
deriving DecidableEq, Repr

/-- Vector integer, V format (spec/05 R70, R71); when sb, field B names a scalar register. -/
structure VInt where
  g : Guard
  ty : IntTy
  sat : Bool
  sb : Bool
  n : Fin 64
  d : VReg
  a : VReg
  b : VReg
  c : VReg
deriving DecidableEq, Repr

/-- scmp, register form (spec/05 R72). -/
structure SCmpF where
  cond : ICond
  w64 : Bool
  q : QReg
  a : SReg
  b : SReg
deriving DecidableEq, Repr

/-- vcmp, register form (spec/05 R72). -/
structure VCmpF where
  g : Guard
  cond : ICond
  w64 : Bool
  p : PReg
  sb : Bool
  a : VReg
  b : VReg
deriving DecidableEq, Repr

/-- ssel (spec/05 R73). -/
structure SSelF where
  ty : IntTy
  d : SReg
  a : SReg
  b : SReg
  q : QReg
deriving DecidableEq, Repr

/-- vsel (spec/05 R73). -/
structure VSelF where
  g : Guard
  ty : IntTy
  sb : Bool
  d : VReg
  a : VReg
  b : VReg
  p : PReg
deriving DecidableEq, Repr

/-- smovw (spec/05 R74). -/
structure SMovwF where
  ty : IntTy
  d : SReg
  imm : DWord
deriving DecidableEq, Repr

/-- vmovw (spec/05 R74). -/
structure VMovwF where
  g : Guard
  ty : IntTy
  d : VReg
  imm : DWord
deriving DecidableEq, Repr

/-- Scalar I format (spec/05 R75). -/
structure SImmF where
  d : SReg
  a : SReg
  imm : BitVec 28
deriving DecidableEq, Repr

/-- scmp with an immediate (spec/05 R72, R75). -/
structure SCmpImmF where
  cond : ICond
  w64 : Bool
  q : QReg
  a : SReg
  imm : BitVec 28
deriving DecidableEq, Repr

/-- Vector I format (spec/05 R75). -/
structure VImmF where
  g : Guard
  d : VReg
  a : VReg
  imm : BitVec 28
deriving DecidableEq, Repr

/-- vcmp with an immediate (spec/05 R72, R75). -/
structure VCmpImmF where
  g : Guard
  cond : ICond
  w64 : Bool
  p : PReg
  a : VReg
  imm : BitVec 28
deriving DecidableEq, Repr

/-- The shuffles (spec/05 R78). -/
structure ShflF where
  la : Fin 16
  g : Guard
  w64 : Bool
  seg : Seg
  sb : Bool
  k : Fin 32
  d : VReg
  a : VReg
  b : VReg
  pv : PReg
deriving DecidableEq, Repr

/-- vote.any and vote.all (spec/05 R78, R80). -/
structure VoteF where
  la : Fin 16
  g : Guard
  seg : Seg
  d : PReg
  a : PReg
deriving DecidableEq, Repr

/-- vote.bal (spec/05 R78, R80). -/
structure BalF where
  la : Fin 16
  g : Guard
  d : SReg
  a : PReg
deriving DecidableEq, Repr

/-- redux (spec/05 R78, R81). -/
structure ReduxF where
  la : Fin 16
  g : Guard
  w64 : Bool
  op : RedOp
  d : SReg
  a : VReg
deriving DecidableEq, Repr

/-- vtos (spec/05 R78, R82). -/
structure VtosF where
  la : Fin 16
  g : Guard
  w64 : Bool
  fa : Bool
  k : Fin 32
  d : SReg
  a : VReg
deriving DecidableEq, Repr

/-- stov (spec/05 R78, R82). -/
structure StovF where
  la : Fin 16
  g : Guard
  w64 : Bool
  d : VReg
  a : SReg
deriving DecidableEq, Repr

/-- Vector float arithmetic (spec/06 R97, R98). -/
structure FltF where
  la : Fin 16
  g : Guard
  ft : FT
  rnd : Rnd
  sat : Bool
  sb : Bool
  d : VReg
  a : VReg
  b : VReg
  c : VReg
deriving DecidableEq, Repr

/-- fmin and fmax (spec/06 R98, R100). -/
structure FMinF where
  g : Guard
  ft : FT
  sb : Bool
  d : VReg
  a : VReg
  b : VReg
deriving DecidableEq, Repr

/-- fcmp (spec/06 R100). -/
structure FCmpF where
  g : Guard
  ft : FT
  sb : Bool
  cond : FCond
  p : PReg
  a : VReg
  b : VReg
deriving DecidableEq, Repr

/-- fdot4 (spec/06 R101). -/
structure FDotF where
  g : Guard
  fmt : Fmt
  d : VReg
  a : VReg
  b : VReg
  c : VReg
deriving DecidableEq, Repr

/-- cvt (spec/06 R103). -/
structure CvtF where
  g : Guard
  sfmt : Fmt
  dfmt : Fmt
  rnd : Rnd
  sat : Bool
  bsel : Fin 4
  d : VReg
  a : VReg
deriving DecidableEq, Repr

/-- cvt.fi (spec/06 R103). -/
structure CvtFiF where
  g : Guard
  sfmt : Fmt
  ty : IntTy
  rnd : Rnd
  bsel : Fin 4
  d : VReg
  a : VReg
deriving DecidableEq, Repr

/-- cvt.if (spec/06 R103). -/
structure CvtIfF where
  g : Guard
  ty : IntTy
  dfmt : Fmt
  rnd : Rnd
  sat : Bool
  bsel : Fin 4
  d : VReg
  a : VReg
deriving DecidableEq, Repr

/-- qblk.hist (spec/06 R105). -/
structure QHistF where
  la : Fin 16
  g : Guard
  d : VReg
  a : VReg
deriving DecidableEq, Repr

/-- qblk.clip (spec/06 R105). -/
structure QClipF where
  la : Fin 16
  g : Guard
  d : SReg
  a : VReg
  b : SReg
deriving DecidableEq, Repr

/-- qblk.q (spec/06 R105). -/
structure QQuantF where
  la : Fin 16
  g : Guard
  fmt : Fmt
  bsel : Fin 4
  d : VReg
  c : SReg
  a : VReg
  b : SReg
deriving DecidableEq, Repr

/-- Loads and stores of classes 0x07 and 0x08, and st.ack (spec/07 R110, R113; spec/11 R234). -/
structure MemF where
  la : Fin 16
  g : Guard
  d : VReg
  addr : MAddr
  scope : Scope
  order : Order
  size : MSize
deriving DecidableEq, Repr

/-- pf, cwb and cinv (spec/07 R113). -/
structure LineF where
  g : Guard
  addr : MAddr
  scope : Scope
  order : Order
deriving DecidableEq, Repr

/-- Integer atomics and reductions (spec/08 R140 to R142). -/
structure AtomF where
  la : Fin 16
  g : Guard
  d : VReg
  addr : MAddr
  scope : Scope
  order : Order
  size : ASize
deriving DecidableEq, Repr

/-- Float atomics and reductions; their size is fixed (spec/08 R141). -/
structure AtomFF where
  la : Fin 16
  g : Guard
  d : VReg
  addr : MAddr
  scope : Scope
  order : Order
deriving DecidableEq, Repr

/-- lck and lck.try (spec/08 R140, R141): order acquire, no index. -/
structure LckF where
  la : Fin 16
  g : Guard
  d : SReg
  base : SReg
  off : BitVec 12
  scope : Scope
deriving DecidableEq, Repr

/-- unlk (spec/08 R140, R141): order release, no index. -/
structure UnlkF where
  g : Guard
  base : SReg
  off : BitVec 12
  scope : Scope
deriving DecidableEq, Repr

/-- Barrier instructions (spec/09 R177). -/
structure BarF where
  la : Fin 16
  d : SReg
  base : SReg
  off : BitVec 12
  b : SReg
  scope : Scope
  order : Order
deriving DecidableEq, Repr

/-- cpy and cpy.2d with their descriptor (spec/10 R195). -/
structure CpyF where
  d : SReg
  a : SReg
  b : SReg
  c : SReg
  dlv : CpyLvl
  slv : CpyLvl
  dstride : BitVec 24
  sstride : BitVec 24
  cnt : Bool
  rmt : Bool
  objmod : BitVec 10
deriving DecidableEq, Repr

/-- tld and tst (spec/10 R209, R210). -/
structure TileMvF where
  t : Fin 8
  base : SReg
  off : BitVec 12
  pitch : SReg
  side : Bool
deriving DecidableEq, Repr

/-- tacc.ld and tacc.st (spec/10 R209, R210). -/
structure AccMvF where
  acc : Fin 4
  base : SReg
  off : BitVec 12
  pitch : SReg
deriving DecidableEq, Repr

/-- mmac (spec/10 R209, R212). -/
structure MmacF where
  clr : Bool
  acc : Fin 4
  ha : Bool
  ta : Bool
  tA : Fin 8
  hb : Bool
  tb : Bool
  tB : Fin 8
  fa : Fmt
  fb : Fmt
  mx : Bool
deriving DecidableEq, Repr

/-- mmacg (spec/10 R209, R215). -/
structure MmacgF where
  tb : Bool
  ta : Bool
  mx : Bool
  clr : Bool
  acc : Fin 4
  a : SReg
  b : SReg
  c : SReg
  fa : Fmt
  fb : Fmt
  apitch : BitVec 24
  bpitch : BitVec 24
deriving DecidableEq, Repr

/-- tcvt (spec/10 R209, R220). -/
structure TcvtF where
  h : Bool
  t : Fin 8
  acc : Fin 4
  b : SReg
  fmt : Fmt
  rnd : Rnd
  sat : Bool
  mx : Bool
deriving DecidableEq, Repr

/-- ffl (spec/11 R234, R237); for ffl.arr the data register is absent (0). -/
structure FflF where
  g : Guard
  d : VReg
  addr : MAddr
  scope : Scope
deriving DecidableEq, Repr

/-- shtl and shtl.t (spec/11 R234): the widths of steps 0 to 5, 6 bits each. -/
structure ShtlF where
  la : Fin 16
  g : Guard
  d : VReg
  a : VReg
  b : SReg
  c : VReg
  nstep : Fin 8
  stepw : BitVec 36
deriving DecidableEq, Repr

/-! Names of the components that the machine steps act on. -/

/-- A core: module (pod number) and package core number (spec/01 R5). -/
structure CoreKey where
  m : Nat
  c : Nat
deriving DecidableEq, Repr

/-- A C-die of a module (spec/01 R5). -/
structure DieKey where
  m : Nat
  d : Nat
deriving DecidableEq, Repr

/-- A context on a module. -/
structure CtxKey where
  m : Nat
  ctx : Nat
deriving DecidableEq, Repr

/-- A resident group: its core and core group number (spec/03 R60). -/
structure GKey where
  m : Nat
  c : Nat
  g : Nat
deriving DecidableEq, Repr

/-- The two fragment slots (spec/03 R41). -/
inductive Slot where
  | f0 | f1
deriving DecidableEq, Repr

/-- A fragment slot of a resident group. -/
structure FragRef where
  k : GKey
  slot : Slot
deriving DecidableEq, Repr

/-- The kinds of access a walk serves (spec/15 R293). -/
inductive AccKind where
  | read | write | fetch
deriving DecidableEq, Repr

/-- What a PERFORM step performs (spec/09 R167): a store-buffer entry, one lane of an atomic, a store of a local
level, or the write of a fabric request that has arrived. -/
inductive PerfRef where
  | entry (k : GKey) (e : Nat)
  | lane (k : GKey) (fl part : Nat)
  | loc (k : GKey) (e : Nat)
deriving DecidableEq, Repr

/-- The engine operation that an ENGINE step advances (spec/09 R169): a copy of a core's queue, a collective of a
die, a gather or a drain of a shard engine, the matrix operation at the head of a core's queue. -/
inductive EngRef where
  | copy (k : CoreKey) (op : Nat)
  | tile (k : CoreKey)
  | coll (op : Nat)
  | gather (op : Nat)
  | drain (op : Nat)
deriving DecidableEq, Repr

/-- Causes of a failed collective (spec/11 R249). -/
inductive CollCause where
  | deadline | lost | noPeer | mismatch | translation
deriving DecidableEq, Repr

/-- A host access through the Ndosen link: to device memory (spec/01 R12), or to a queue's window (spec/14 R278). -/
inductive HostAcc where
  | load (m addr len : Nat)
  | store (m addr : Nat) (bytes : List Byte)
  | windowRead (k : CtxKey) (q : Nat) (progress : Bool)
  | windowProgress (k : CtxKey) (q : Nat)
deriving DecidableEq, Repr

/-- Life-cycle states (spec/19 R346). -/
inductive LifeCycle where
  | provision | operate | recovery | retired
deriving DecidableEq, Repr

/-- Causes of a team stop (spec/18 R329, R323, R336). -/
inductive StopCause where
  | brk | bkpt (code : BitVec 12) | watch | step
deriving DecidableEq, Repr

/-- What svdb cont continues (spec/18 R329, R336). -/
inductive ContTarget where
  | team (t : Nat)
  | ctx (k : CtxKey)
deriving DecidableEq, Repr

/-- Where an uncorrectable error strikes (spec/19 R347). -/
inductive ErrSite where
  | l1Copy (d : DieKey) (line : Nat)
  | l2Clean (line : Nat)
  | proxyCopy (m line : Nat)
  | icache (k : CoreKey) (blk : DWord)
  | transl (k : CoreKey)
  | walker (d : DieKey)
  | directory (line : Nat)
  | l2Dirty (line : Nat) (reader : Option GKey)
  | storeEntry (k : GKey) (e : Nat)
  | dram (pa : Nat) (len : Nat) (k : GKey) (fl part : Nat)
  | vreg (k : GKey) (reg lane : Nat)
  | reg (k : GKey) (r : Reg) (lane : Nat)
  | scratch (k : CoreKey) (off : Nat) (reader : GKey)
  | pks (k : CtxKey) (off : Nat) (reader : GKey)
  | lanePriv (k : GKey) (off : Nat)
  | tile (k : CoreKey) (off : Nat)
  | lockTable (line : Nat)
  | eyelet (k : CoreKey) (e : Nat)
deriving DecidableEq, Repr

/-- What the control plane fixes at context creation (spec/14 R265, R273, R275, R288; spec/07 R119; spec/08 R159;
spec/15 R290, R297, R298, R302; spec/18 R321). -/
structure CtxParams where
  k : CtxKey
  ptroot : Nat
  handler : DWord
  quantumUs : Nat
  locklim : Nat
  mind : Nat
  weight : Nat
  pksMib : Nat
  poolBase : Nat
  poolN : Nat
  lowat : Nat
  sgTable : Nat
  shardStaging : Nat
  dbgBase : Nat
  errBase : Nat
  collBase : Nat
  shardBase : Nat
  saveBase : Nat
  saveLen : Nat
  peers : List (Nat × Nat)
deriving DecidableEq, Repr

/-- What the control plane fixes at queue creation (spec/14 R277). -/
structure QueueParams where
  k : CtxKey
  q : Nat
  block : Nat
  ring : Nat
  logsz : Nat
  prio : Nat
  data : Bool
  devpush : Bool
deriving DecidableEq, Repr

/-- One Alarik port of a membership record (spec/19 R344). -/
structure PortInfo where
  port : Nat
  status : Nat
  partner : Nat
  partnerPort : Nat
  partnerDev : DWord
deriving DecidableEq, Repr

/-- A member of a job: its pod number, the rack groups of its connected optical group, what authentication found at its ports
(spec/01 R8, spec/19 R344). -/
structure JobMember where
  pod : Nat
  optgrp : BitVec 16
  ports : List PortInfo
deriving DecidableEq, Repr

/-- What an island is set to: frequency in MHz, 0 for off, and voltage in mV (spec/01 R15, R18). -/
structure IslandLevel where
  mhz : Nat
  mv : Nat
deriving DecidableEq, Repr

/-- Job formation: the job, the module and the other members (spec/01 R8, spec/19 R344). -/
structure JobParams where
  jobid : DWord
  self : JobMember
  others : List JobMember
deriving DecidableEq, Repr

/-- The instructions and machine steps: one constructor per row of spec/opcode_table.json, in its order. Each
constructor names the rule that governs it. -/
inductive Instr where
  /-- R49. -/
  | bra (t : BitVec 24)
  /-- R53. -/
  | braDiv (g : Guard) (t : BitVec 24) (r : BitVec 16)
  /-- R49. -/
  | brq (t : BitVec 24) (q : QReg) (qn : Bool)
  /-- R49. -/
  | brx (a : SReg)
  /-- R50. -/
  | call (t : BitVec 24)
  /-- R50. -/
  | callx (d : VReg) (a : SReg)
  /-- R51. -/
  | ret (a : VReg)
  /-- R54. -/
  | join
  /-- R55. -/
  | exit
  /-- R52. -/
  | nop
  /-- R71. -/
  | sadd (f : SInt)
  /-- R71. -/
  | ssub (f : SInt)
  /-- R71. -/
  | smulLo (f : SInt)
  /-- R71. -/
  | smulHi (f : SInt)
  /-- R71. -/
  | smad (f : SInt)
  /-- R71. -/
  | smin (f : SInt)
  /-- R71. -/
  | smax (f : SInt)
  /-- R71. -/
  | sabs (f : SInt)
  /-- R71. -/
  | sand (f : SInt)
  /-- R71. -/
  | sor (f : SInt)
  /-- R71. -/
  | sxor (f : SInt)
  /-- R71. -/
  | sandn (f : SInt)
  /-- R71. -/
  | snot (f : SInt)
  /-- R71. -/
  | sshl (f : SInt)
  /-- R71. -/
  | sshr (f : SInt)
  /-- R71. -/
  | ssar (f : SInt)
  /-- R71. -/
  | srot (f : SInt)
  /-- R71. -/
  | spopc (f : SInt)
  /-- R71. -/
  | sclz (f : SInt)
  /-- R71. -/
  | sctz (f : SInt)
  /-- R71. -/
  | sbrev (f : SInt)
  /-- R71. -/
  | sbfe (f : SInt)
  /-- R71. -/
  | sbfi (f : SInt)
  /-- R72. -/
  | scmp (f : SCmpF)
  /-- R73. -/
  | ssel (f : SSelF)
  /-- R71. -/
  | smov (f : SInt)
  /-- R74. -/
  | smovw (f : SMovwF)
  /-- R71. -/
  | slea (f : SInt)
  /-- R71. -/
  | ssext (f : SInt)
  /-- R71. -/
  | szext (f : SInt)
  /-- R75. -/
  | saddImm (f : SImmF)
  /-- R75. -/
  | sandImm (f : SImmF)
  /-- R75. -/
  | sorImm (f : SImmF)
  /-- R75. -/
  | sxorImm (f : SImmF)
  /-- R75. -/
  | sshlImm (f : SImmF)
  /-- R75. -/
  | sshrImm (f : SImmF)
  /-- R75. -/
  | ssarImm (f : SImmF)
  /-- R75. -/
  | scmpImm (f : SCmpImmF)
  /-- R75. -/
  | smovImm (f : SImmF)
  /-- R71. -/
  | vadd (f : VInt)
  /-- R71. -/
  | vsub (f : VInt)
  /-- R71. -/
  | vmulLo (f : VInt)
  /-- R71. -/
  | vmulHi (f : VInt)
  /-- R71. -/
  | vmad (f : VInt)
  /-- R71. -/
  | vmin (f : VInt)
  /-- R71. -/
  | vmax (f : VInt)
  /-- R71. -/
  | vabs (f : VInt)
  /-- R71. -/
  | vand (f : VInt)
  /-- R71. -/
  | vor (f : VInt)
  /-- R71. -/
  | vxor (f : VInt)
  /-- R71. -/
  | vandn (f : VInt)
  /-- R71. -/
  | vnot (f : VInt)
  /-- R71. -/
  | vshl (f : VInt)
  /-- R71. -/
  | vshr (f : VInt)
  /-- R71. -/
  | vsar (f : VInt)
  /-- R71. -/
  | vrot (f : VInt)
  /-- R71. -/
  | vpopc (f : VInt)
  /-- R71. -/
  | vclz (f : VInt)
  /-- R71. -/
  | vctz (f : VInt)
  /-- R71. -/
  | vbrev (f : VInt)
  /-- R71. -/
  | vbfe (f : VInt)
  /-- R71. -/
  | vbfi (f : VInt)
  /-- R72. -/
  | vcmp (f : VCmpF)
  /-- R73. -/
  | vsel (f : VSelF)
  /-- R71. -/
  | vmov (f : VInt)
  /-- R74. -/
  | vmovw (f : VMovwF)
  /-- R71. -/
  | vlea (f : VInt)
  /-- R71. -/
  | vsext (f : VInt)
  /-- R71. -/
  | vzext (f : VInt)
  /-- R75. -/
  | vaddImm (f : VImmF)
  /-- R75. -/
  | vandImm (f : VImmF)
  /-- R75. -/
  | vorImm (f : VImmF)
  /-- R75. -/
  | vxorImm (f : VImmF)
  /-- R75. -/
  | vshlImm (f : VImmF)
  /-- R75. -/
  | vshrImm (f : VImmF)
  /-- R75. -/
  | vsarImm (f : VImmF)
  /-- R75. -/
  | vcmpImm (f : VCmpImmF)
  /-- R75. -/
  | vmovImm (f : VImmF)
  /-- R79. -/
  | shflIdx (f : ShflF)
  /-- R79. -/
  | shflUp (f : ShflF)
  /-- R79. -/
  | shflDn (f : ShflF)
  /-- R79. -/
  | shflXor (f : ShflF)
  /-- R80. -/
  | voteAny (f : VoteF)
  /-- R80. -/
  | voteAll (f : VoteF)
  /-- R80. -/
  | voteBal (f : BalF)
  /-- R81. -/
  | redux (f : ReduxF)
  /-- R82. -/
  | vtos (f : VtosF)
  /-- R82. -/
  | stov (f : StovF)
  /-- R99. -/
  | fadd (f : FltF)
  /-- R99. -/
  | fsub (f : FltF)
  /-- R99. -/
  | fmul (f : FltF)
  /-- R99. -/
  | fma (f : FltF)
  /-- R100. -/
  | fmin (f : FMinF)
  /-- R100. -/
  | fmax (f : FMinF)
  /-- R100. -/
  | fcmp (f : FCmpF)
  /-- R99. -/
  | frcp (f : FltF)
  /-- R99. -/
  | frsq (f : FltF)
  /-- R99. -/
  | fsqrt (f : FltF)
  /-- R99. -/
  | fex2 (f : FltF)
  /-- R99. -/
  | flg2 (f : FltF)
  /-- R99. -/
  | ftanh (f : FltF)
  /-- R101. -/
  | fdot4 (f : FDotF)
  /-- R104. -/
  | cvt (f : CvtF)
  /-- R104. -/
  | cvtFi (f : CvtFiF)
  /-- R104. -/
  | cvtIf (f : CvtIfF)
  /-- R106. -/
  | qblkHist (f : QHistF)
  /-- R107. -/
  | qblkClip (f : QClipF)
  /-- R108. -/
  | qblkQ (f : QQuantF)
  /-- R121. -/
  | ldl (f : MemF)
  /-- R121. -/
  | stl (f : MemF)
  /-- R121. -/
  | lds (f : MemF)
  /-- R121. -/
  | sts (f : MemF)
  /-- R121. -/
  | ldd (f : MemF)
  /-- R121. -/
  | std (f : MemF)
  /-- R121. -/
  | ldk (f : MemF)
  /-- R121. -/
  | stk (f : MemF)
  /-- R125. -/
  | ldg (f : MemF)
  /-- R126. -/
  | stg (f : MemF)
  /-- R132. -/
  | ldSpec (f : MemF)
  /-- R134. -/
  | chk (t : BitVec 24)
  /-- R137. -/
  | pf (f : LineF) (l2 : Bool)
  /-- R138. -/
  | cwb (f : LineF)
  /-- R139. -/
  | cinv (f : LineF)
  /-- R144. -/
  | atomAdd (f : AtomF)
  /-- R144. -/
  | atomMin (f : AtomF)
  /-- R144. -/
  | atomMax (f : AtomF)
  /-- R144. -/
  | atomAnd (f : AtomF)
  /-- R144. -/
  | atomOr (f : AtomF)
  /-- R144. -/
  | atomXor (f : AtomF)
  /-- R144. -/
  | atomSwap (f : AtomF)
  /-- R144. -/
  | atomCas (f : AtomF)
  /-- R145. -/
  | atomFaddF32 (f : AtomFF)
  /-- R145. -/
  | atomFaddBf16 (f : AtomFF)
  /-- R146. -/
  | redAdd (f : AtomF)
  /-- R146. -/
  | redMin (f : AtomF)
  /-- R146. -/
  | redMax (f : AtomF)
  /-- R146. -/
  | redAnd (f : AtomF)
  /-- R146. -/
  | redOr (f : AtomF)
  /-- R146. -/
  | redXor (f : AtomF)
  /-- R146. -/
  | redFaddF32 (f : AtomFF)
  /-- R146. -/
  | redFaddBf16 (f : AtomFF)
  /-- R153. -/
  | lck (f : LckF)
  /-- R153. -/
  | lckTry (f : LckF)
  /-- R156. -/
  | unlk (f : UnlkF)
  /-- R178. -/
  | barInit (f : BarF)
  /-- R179. -/
  | barArrive (f : BarF)
  /-- R180. -/
  | barExpect (f : BarF)
  /-- R181. -/
  | barWait (f : BarF)
  /-- R182. -/
  | barTest (f : BarF)
  /-- R185. -/
  | fenceAcq (sc : Scope)
  /-- R186. -/
  | fenceRel (sc : Scope)
  /-- R188. -/
  | fenceFull (sc : Scope)
  /-- R187. -/
  | fenceX (src dst : Path) (sc : Scope)
  /-- R197. -/
  | cpy (f : CpyF)
  /-- R197. -/
  | cpy2d (f : CpyF)
  /-- R202. -/
  | cpyWait (d : SReg) (n : Fin 16)
  /-- R210. -/
  | tld (f : TileMvF)
  /-- R210. -/
  | tst (f : TileMvF)
  /-- R211. -/
  | tzero (acc : Bool) (i : Fin 8)
  /-- R213. -/
  | mmac (f : MmacF)
  /-- R215. -/
  | mmacg (f : MmacgF)
  /-- R210. -/
  | taccLd (f : AccMvF)
  /-- R210. -/
  | taccSt (f : AccMvF)
  /-- R220. -/
  | tcvt (f : TcvtF)
  /-- R207. -/
  | tileOpExecute (k : CoreKey)
  /-- R216. -/
  | mmacgChunk (k : CoreKey)
  /-- R235. -/
  | stAck (f : MemF)
  /-- R237. -/
  | fflArr (f : FflF)
  /-- R237. -/
  | fflB32 (f : FflF)
  /-- R237. -/
  | fflB64 (f : FflF)
  /-- R239. -/
  | shtl (f : ShtlF)
  /-- R242. -/
  | shtlT (f : ShtlF)
  /-- R244. -/
  | collAg (d p : SReg)
  /-- R244. -/
  | collRs (d p : SReg)
  /-- R244. -/
  | collAr (d p : SReg)
  /-- R244. -/
  | collBc (d p : SReg)
  /-- R312. -/
  | shg (a : SReg)
  /-- R313. -/
  | shev (a b : SReg)
  /-- R314. -/
  | shq (la : Fin 16) (d a : SReg)
  /-- R315. -/
  | pgq (la : Fin 16) (d a : SReg)
  /-- R264. -/
  | trap (code : BitVec 12)
  /-- R266. -/
  | rfh
  /-- R260. -/
  | mfs (d : Fin 256) (n : BitVec 12)
  /-- R260. -/
  | mts (a : Fin 256) (n : BitVec 12)
  /-- R283. -/
  | launch (la : Fin 16) (d a b : SReg)
  /-- R285. -/
  | evsig (a : SReg)
  /-- R284. -/
  | qpop (la : Fin 16) (d a : SReg)
  /-- R284. -/
  | qpopNb (la : Fin 16) (d a : SReg)
  /-- R323. -/
  | bkpt (code : BitVec 12)
  /-- R324. -/
  | trc (a : SReg) (tag : BitVec 12)
  /-- R325. -/
  | smark (tag : BitVec 12)
  /-- R28. -/
  | instructionFetch
  /-- R30. -/
  | resultLand (k : GKey) (fl : Nat)
  /-- R269. -/
  | lateTrapTake
  /-- R167. -/
  | read (k : GKey) (fl part : Nat)
  /-- R124. -/
  | fill (k : GKey) (line : Nat)
  /-- R126. -/
  | drain (k : GKey) (e : Nat)
  /-- R147. -/
  | perform (w : PerfRef)
  /-- R126. -/
  | storeAck (k : GKey) (e : Nat)
  /-- R146. -/
  | atomReply (k : GKey) (fl : Nat)
  /-- R150. -/
  | redEntryApply (line : Nat)
  /-- R151. -/
  | movedResend (k : GKey) (e : Nat)
  /-- R169. -/
  | engine (e : EngRef) (piece : Nat)
  /-- R198. -/
  | land (i : Nat)
  /-- R176. -/
  | barrier (i : Nat)
  /-- R170. -/
  | deliver (r : Nat)
  /-- R133. -/
  | resolve (k : CoreKey) (e : Nat)
  /-- R167. -/
  | tick
  /-- R124. -/
  | expiredCopyDrop (d : DieKey) (line : Nat)
  /-- R168. -/
  | save (team : Nat)
  /-- R64. -/
  | restore (team : Nat)
  /-- R274. -/
  | teamMakeResident (k : CtxKey)
  /-- R273. -/
  | quantumExpiry (team : Nat)
  /-- R272. -/
  | remoteLoadBlock (k : GKey) (fl : Nat)
  /-- R130. -/
  | faultReplay (k : GKey)
  /-- R117. -/
  | carveChange (k : CoreKey) (grid : Nat)
  /-- R153. -/
  | lockRequest (k : GKey) (fl : Nat)
  /-- R154. -/
  | lockGrant (line : Nat)
  /-- R156. -/
  | lockHandoff (line : Nat)
  /-- R157. -/
  | resUpdate (line waiter : Nat) (res : Bool)
  /-- R160. -/
  | lckTryTimeout (line waiter : Nat)
  /-- R161. -/
  | deadlockProbe (line waiter : Nat)
  /-- R159. -/
  | lockTimeout (k : GKey) (line : Nat)
  /-- R225. -/
  | proxyReadMiss (m line : Nat)
  /-- R226. -/
  | invalidate (m line : Nat)
  /-- R226. -/
  | invalidateAck (m line : Nat)
  /-- R226. -/
  | recall (m line : Nat)
  /-- R225. -/
  | proxyEvict (m line : Nat)
  /-- R229. -/
  | requestResend (r : Nat)
  /-- R232. -/
  | requestFail (r : Nat)
  /-- R230. -/
  | lateReply (r : Nat)
  /-- R235. -/
  | ackSend (i : Nat)
  /-- R238. -/
  | flagApply (i : Nat)
  /-- R240. -/
  | shuttleStep (i : Nat)
  /-- R241. -/
  | shuttleReturn (k : GKey) (fl : Nat)
  /-- R256. -/
  | collStreamReceive (i : Nat)
  /-- R249. -/
  | collFail (op : Nat) (cause : CollCause)
  /-- R262. -/
  | gtimerMatch (k : GKey)
  /-- R262. -/
  | deadline (k : GKey)
  /-- R278. -/
  | hostTailWrite (k : CtxKey) (q : Nat) (v : DWord)
  /-- R12. -/
  | hostAccess (a : HostAcc)
  /-- R284. -/
  | qpopWake (k : GKey) (fl : Nat)
  /-- R280. -/
  | launchPacket (k : CtxKey) (q : Nat)
  /-- R280. -/
  | waitEvent (k : CtxKey) (q : Nat)
  /-- R286. -/
  | signalEvent (k : CtxKey) (q : Nat)
  /-- R280. -/
  | fencePacket (k : CtxKey) (q : Nat)
  /-- R333. -/
  | markArm (k : CtxKey) (q : Nat)
  /-- R333. -/
  | markDisarm (k : CtxKey) (q : Nat)
  /-- R333. -/
  | markStart (k : CtxKey) (q : Nat)
  /-- R333. -/
  | markFreeze (k : CtxKey) (q : Nat)
  /-- R333. -/
  | markEvent (k : CtxKey) (q : Nat)
  /-- R252. -/
  | gridComplete (grid : Nat)
  /-- R286. -/
  | eventActivate (k : CtxKey) (id : Nat)
  /-- R287. -/
  | eventDeactivate (m id : Nat)
  /-- R288. -/
  | partitionRecompute (m : Nat)
  /-- R275. -/
  | contextCreate (p : CtxParams)
  /-- R342. -/
  | contextTeardown (k : CtxKey)
  /-- R277. -/
  | queueCreate (p : QueueParams)
  /-- R344. -/
  | jobFormation (p : JobParams)
  /-- R8. -/
  | jobEnd
  /-- R8. -/
  | opticalReconfigure (groups : List (Nat × BitVec 16))
  /-- R18. -/
  | islandSet (m island : Nat) (v : IslandLevel)
  /-- R309. -/
  | dieLost (m d : Nat)
  /-- R309. -/
  | moduleLost (m : Nat)
  /-- R18. -/
  | powerOn (m : Nat)
  /-- R346. -/
  | reset (m : Nat)
  /-- R346. -/
  | lifecycleChange (m : Nat) (st : LifeCycle)
  /-- R345. -/
  | getMeasurements (m : Nat)
  /-- R342. -/
  | usageRecordEmit (k : CtxKey)
  /-- R16. -/
  | interimRecord (k : CtxKey)
  /-- R342. -/
  | recordAck (m rseq : Nat)
  /-- R293. -/
  | pageWalk (d : DieKey) (k : CtxKey) (va : DWord) (kind : AccKind)
  /-- R298. -/
  | absentAllocate (k : CtxKey) (va : DWord)
  /-- R299. -/
  | gatherStart (k : CtxKey) (va : DWord)
  /-- R301. -/
  | slReq (r : Nat)
  /-- R299. -/
  | slData (r : Nat)
  /-- R304. -/
  | slNak (r : Nat)
  /-- R301. -/
  | contrib (r : Nat)
  /-- R300. -/
  | cnAck (r : Nat)
  /-- R302. -/
  | cnFull (r : Nat)
  /-- R304. -/
  | cnNak (r : Nat)
  /-- R301. -/
  | roundCommit (k : CtxKey) (sg page slice : Nat)
  /-- R300. -/
  | drainStart (k : CtxKey) (va : DWord)
  /-- R298. -/
  | poolPressure (k : CtxKey)
  /-- R298. -/
  | frameReturn (k : CtxKey) (frame : Nat)
  /-- R307. -/
  | faultFlush (m : Nat)
  /-- R308. -/
  | movedEntryExpire (m frame : Nat)
  /-- R329. -/
  | breakpointHit
  /-- R329. -/
  | logBreakpoint
  /-- R329. -/
  | teamStop (team : Nat) (cause : StopCause)
  /-- R329. -/
  | debugCont (t : ContTarget)
  /-- R329. -/
  | debugStep (team : Nat)
  /-- R335. -/
  | watchHit (i : Nat)
  /-- R327. -/
  | stitchRecordReturn (i : Nat)
  /-- R332. -/
  | sequencerEvent (k : CtxKey)
  /-- R332. -/
  | seqWrite (k : CtxKey) (v : DWord)
  /-- R321. -/
  | whrdWrite (k : CtxKey) (v : DWord)
  /-- R321. -/
  | whbaseWrite (k : CtxKey) (v : DWord)
  /-- R321. -/
  | capbaseWrite (k : CtxKey) (v : DWord)
  /-- R321. -/
  | registerWrite (k : CtxKey) (off : Nat) (v : DWord)
  /-- R347. -/
  | uncorrectableError (e : ErrSite)
  /-- R348. -/
  | correctedError (m : Nat) (st : Fin 11)
  /-- R138. -/
  | writebackComplete (k : GKey) (i : Nat)
  /-- R37. -/
  | illegalInstruction
  /-- R232. -/
  | lockGrantWithdrawal (line : Nat)
  /-- R231. -/
  | responseCacheEntryExpiry (r : Nat)
  /-- R302. -/
  | contribResend (r : Nat)
  /-- R345. -/
  | hostPushedRecoveryImage (m : Nat) (img : List Byte)
deriving DecidableEq, Repr

end Sys2Proof
end

