-- ==== Sys2Proof/Machine/State.lean ====
section
/-! DEFINITION. The state of a pod of Caerel-9 modules as plain data: every component of the ordering machine
(spec/09 R166) and every register, table and record that the spec gives the module. Tables are association lists;
memories are lists of (address, byte) in the canonical form of Machine/Mem.lean. -/

namespace Sys2Proof.Machine

/-- A table: keys with their entries. -/
abbrev Table (κ β : Type) := List (κ × β)
/-- A sparse map of numbered cells: addresses strictly rising, no cell equal to what an unlisted one reads as. -/
abbrev NMap (β : Type) := List (Nat × β)
/-- Bytes by address; an unlisted byte reads 0 (log entry 4). -/
abbrev Memory := List Host.Cell

/-- The masks that something outstanding had before its fragment fused with others: each with the group's next number at the fusion,
from which on the wider mask counts (spec/03 R57). -/
abbrev PastMasks := List (Nat × LaneMask)
/-- The lanes that something with a mask and its past precedes among what issued with number n. -/
def maskAt (mask : LaneMask) (past : PastMasks) (n : Nat) : LaneMask :=
  match past.find? (fun e => decide (n < e.1)) with
  | some e => e.2
  | none => mask

/-! ### Fragments, frames and windows (spec/03 R41 to R46, spec/02 R30) -/

/-- An open lookahead window: how many instructions may still issue, and the destinations it protects (R30, R31). -/
structure Window where
  left : Nat
  flight : Nat
  dests : List Reg
deriving DecidableEq, Repr

/-- Where a barrier object lies (spec/09 R174): in a team's scratchpad region, at an offset of a core's carve, or in
a context's package-scratchpad allotment. -/
inductive BRef where
  | team (t : Nat) (off : Nat)
  | die (k : CoreKey) (off : Nat)
  | pks (k : CtxKey) (off : Nat)
deriving DecidableEq, Repr

/-- A fragment waiting in bar.wait (spec/09 R181): the barrier address, the object and the phase; the WALLTIME since which
it waits (spec/18 R330); whether the object has left its level, so that the fragment is to take a late trap (spec/09 R175). -/
structure BarWait where
  ba : DWord
  o : BRef
  phase : Word
  acq : Bool
  since : DWord
  gone : Bool
deriving DecidableEq, Repr

/-- A fence.x or fence.full on its way (spec/09 R187, R188): what the group had issued when it began, as the group's and the state's
next number; by source path, once that path's operations have completed, the horizon the fence waits to have passed and the next
number at that time; the paths whose later operations of the group do not start before the fence. -/
structure FenceAt where
  ord : Nat
  id : Nat
  hz : List (Path × Nat × Nat)
  dsts : List Path
deriving DecidableEq, Repr

/-- The stores of one instruction that have not yet entered the store buffer (spec/07 R126, spec/12 R254). -/
inductive SbOp where
  /-- Plain bytes at offsets of the sector (R126). -/
  | bytes (bs : List (Nat × Byte))
  /-- A reduction's lanes: offset of the word and operand, in increasing lane number (spec/08 R146). -/
  | red (op : Nat) (size : ASize) (ws : List (Nat × DWord))
  /-- Bytes of one lane that are acknowledged into a barrier object (spec/11 R235). -/
  | ack (bs : List (Nat × Byte)) (o : BRef)
deriving DecidableEq, Repr

/-- How far a store-buffer entry has come (spec/07 R126, spec/09 R167): queued; sent towards its ordering point;
refused with MOVED (spec/08 R151); performed and waiting for invalidation acknowledgements; acknowledged with GWCT. -/
inductive SbSt where
  | queued
  | sent (req : Option Nat)
  | moved
  | performed (w : Nat)
  | acked (gwct : Nat)
deriving DecidableEq, Repr

/-- What a sampled drain takes from the issue of its store: WALLTIME, the team's phase count, the tag of a smark (spec/18 R325, R328);
whether its drain has been counted, which it is once however often it is sent (R326). -/
structure StoreNote where
  wall : Nat
  phc : Word
  tag : Option (BitVec 12)
  counted : Bool
deriving DecidableEq, Repr

/-- An entry of a group's store buffer (spec/07 R126; spec/08 R146; spec/11 R235); also holds the addresses of the stores that it has
merged, by which it was translated as well (spec/15 R295). -/
structure SbEntry where
  id : Nat
  ord : Nat
  mask : LaneMask
  pc : DWord
  va : DWord
  sector : Nat
  op : SbOp
  st : SbSt
  also : List DWord
  note : StoreNote
  past : PastMasks
deriving DecidableEq, Repr

/-- A fragment (spec/03 R41), with the open windows of spec/02 R30, the lanes for which alone its next word executes
(after rfh, spec/14 R266, or a replay, spec/07 R130), the core cycle from which it may issue (R63), its wait at a
barrier, the store entries that still have to enter the buffer (R254), its smark (spec/18 R325), whether a breakpoint has stopped it here (spec/18 R329),
the fence at which it waits, and the watches that its word has hit before a replayable fault (spec/18 R335). -/
structure Frag where
  pc : DWord
  mask : LaneMask
  tok : BitVec 16
  rj : DWord
  depth : BitVec 8
  windows : List Window
  only : Option LaneMask
  issueAt : Nat
  wait : Option BarWait
  entering : List SbEntry
  mark : Option (BitVec 12)
  bpSkip : Bool
  fence : Option FenceAt
  hits : List Nat
deriving DecidableEq, Repr

/-- Kinds of a used split-stack entry (spec/03 R44). -/
inductive EntryKind where
  | ready | parked | frame
deriving DecidableEq, Repr

/-- A used entry of the split stack (spec/03 R44). -/
structure Entry where
  kind : EntryKind
  depth : BitVec 8
  tok : BitVec 16
  ptok : BitVec 16
  mask : LaneMask
  xmask : LaneMask
  pc : DWord
  rj : DWord
  prj : DWord
deriving DecidableEq, Repr

/-! ### Outstanding instructions (spec/02 R30, spec/09 R167) -/

/-- The memory level of an access (spec/07). -/
inductive Space where
  | lane | scratch | die | pks | global
deriving DecidableEq, Repr

/-- One part of an outstanding load, or one lane of an atomic: the bytes it names and, once READ or PERFORM has
taken place, the bytes it took (spec/07 R125, R129; spec/08 R144). -/
structure Part where
  lane : Nat
  space : Space
  addr : Nat
  va : DWord
  off : Nat
  len : Nat
  val : DWord
  cmp : DWord
  bytes : Option (List Byte)
  leafPa : Nat
deriving DecidableEq, Repr

/-- A register write that lands later (spec/02 R30). -/
inductive RegW where
  | v (r lane : Nat) (x : Word)
  | s (r : Nat) (x : DWord)
  | p (r lane : Nat) (x : Bool)
  | q (r : Nat) (x : Bool)
deriving DecidableEq, Repr

/-- What an outstanding instruction waits for. -/
inductive FlightKind where
  /-- Values known at issue that land later: class 0x04, L instructions of class 0x05, qblk, shq, pgq. -/
  | value
  /-- A load: its parts are read and then land (spec/07 R121, R125). -/
  | load (size : MSize) (d : Nat)
  /-- An atomic: its lanes are performed, then the reply lands (spec/08 R144, R146). -/
  | atom (op : Nat) (size : ASize) (d : Nat) (replied : Bool)
  /-- A lock request, until its status lands (spec/08 R153): register, line, the named line, lck.try timeout. -/
  | lock (d : Nat) (line : Nat) (vline : DWord) (timeout : Option Nat) (sent : Bool)
  /-- bar.arrive or bar.test, until the unit replies (spec/09 R179, R182). -/
  | bar (d : Nat) (test : Bool) (phase : Word)
  /-- qpop on a queue (spec/14 R284). -/
  | qpop (d q : Nat)
  /-- launch on a queue: its packet is read, then pushed (spec/14 R283). -/
  | launch (d q : Nat)
  /-- A shuttle: one packet per active lane (spec/11 R239). -/
  | shuttle (d c : Nat) (trap : Bool) (left : Nat)
deriving DecidableEq, Repr

/-- An outstanding instruction: issue order, CLASS where its results were known at issue (spec/02 R36; else 0), PC, the lanes
whose later instructions it is program-order-before (those of the issuing fragment and of every fragment it fused into, spec/03
R57), active lanes, destinations, whether it is an acquire (spec/09 R171), the parts it waits for, the writes that have become known, the FMODE flags it will
set (spec/06 R95), the earliest core cycle of its landing (spec/02 R360), the core cycle and WALLTIME of its issue, and
whether it has become a remote-load blocking point (spec/14 R271), the LEASE its group then held (spec/14 R260), and the parts, by their
places, that a home has refused with MOVED and that are to be translated again (spec/15 R308; a lock request has place 0). A load that is
ready executes again from its translation (spec/14 R272). -/
structure Flight where
  id : Nat
  ord : Nat
  cls : Nat
  pc : DWord
  mask : LaneMask
  act : LaneMask
  kind : FlightKind
  dests : List Reg
  acq : Bool
  parts : List Part
  writes : List RegW
  flags : BitVec 5
  ready : Bool
  landAt : Nat
  issued : Nat
  wallAt : Nat
  blocked : Bool
  lease : Nat
  hits : List Nat
  past : PastMasks
  refused : List Nat
deriving DecidableEq, Repr

/-- A store of a local level that has issued and is not yet performed (spec/07 R121). -/
structure LocStore where
  id : Nat
  ord : Nat
  mask : LaneMask
  pc : DWord
  space : Space
  arr : Nat
  bytes : List (Nat × Byte)
  past : PastMasks
deriving DecidableEq, Repr

/-- A cwb that has issued and whose device write is not yet complete, with its PC and a virtual address of the line (spec/07 R131,
R138). -/
structure WriteBack where
  id : Nat
  mask : LaneMask
  line : Nat
  pc : DWord
  va : DWord
  past : PastMasks
deriving DecidableEq, Repr

/-- The lanes of the fragment that issued it. -/
def SbEntry.own (e : SbEntry) : LaneMask := maskAt e.mask e.past e.ord
def Flight.own (f : Flight) : LaneMask := maskAt f.mask f.past f.ord
def LocStore.own (e : LocStore) : LaneMask := maskAt e.mask e.past e.ord
def WriteBack.own (w : WriteBack) : LaneMask := maskAt w.mask w.past w.id

/-! ### Groups -/

/-- The vector, scalar and predicate registers of a group (spec/02 R33, R34): v by 32 × register + lane. -/
structure Regs where
  v : NMap Word
  s : NMap DWord
  p : NMap LaneMask
  q : NMap Bool
deriving DecidableEq, Repr

/-- The special registers a group holds (spec/02 R35; spec/06 R95, R96; spec/07 R120; spec/10 R203; spec/11 R228;
spec/14 R261). -/
structure Sregs where
  gtimer : DWord
  gtcmp : DWord
  wdead : DWord
  seed : NMap Word
  fmode : DWord
  lease : DWord
  eystruck : LaneMask
  mrows : DWord
  ncols : DWord
  ackba : DWord
  hstat : DWord
  hpc : DWord
  hmask : DWord
  haddr : DWord
  hapc : DWord
deriving DecidableEq, Repr

/-- The entry state of handler mode (spec/14 R265). -/
structure Handler where
  slot : Slot
  tok : BitVec 16
  rj : DWord
  depth : BitVec 8
  mask : LaneMask
deriving DecidableEq, Repr

/-- A pending late cause (spec/14 R269). -/
structure Late where
  code : Nat
  lanes : LaneMask
  addr : DWord
  pc : DWord
  detail : Nat
deriving DecidableEq, Repr

/-- What a replayable group waits for (spec/07 R130; spec/15 R294, R306, R308). -/
inductive FaultKind where
  | notPresent | gather | drain | absent | poolEmpty | movedStale
deriving DecidableEq, Repr

/-- A page-table entry in a translation cache (spec/15 R295): its context, its level, the address bits that select it, its physical
address and its value; whether the walk that read it found it malformed, so that it maps nothing (spec/15 R293, spec/17 R319). -/
structure TEnt where
  ctx : Nat
  lvl : Nat
  tag : Nat
  pa : Nat
  e : Nat
  bad : Bool
deriving DecidableEq, Repr

/-- A replayable fault: the fragment slot, the kind, the faulting address and access, whether its service has ended,
and the slice and owner of a failed gather (spec/15 R304). -/
structure Replay where
  slot : Slot
  kind : FaultKind
  va : DWord
  acc : AccKind
  lanes : LaneMask
  ready : Bool
  lost : Option (Nat × Nat)
deriving DecidableEq, Repr

/-- A lock a group holds (spec/08 R158, R159; spec/14 R263). -/
structure HeldLock where
  line : Nat
  vline : DWord
  pc : DWord
  cycles : Nat
  fired : Bool
deriving DecidableEq, Repr

/-- A group: fragments and split stack (spec/03), registers, handler mode, pending causes with the slot of the fragment that is to
take one (spec/14 R269), the outstanding accesses of its path, its damaged registers by lane (spec/19 R347), its locks and engine operations. -/
structure Group where
  team : Nat
  key : CtxKey
  gidx : Nat
  nregs : Nat
  f0 : Option Frag
  f1 : Option Frag
  stack : List Entry
  tokctr : BitVec 16
  exited : LaneMask
  regs : Regs
  sr : Sregs
  handler : Option Handler
  late : List Late
  taker : Option Slot
  replay : Option Replay
  flights : List Flight
  badRegs : List (Reg × Nat)
  sb : List SbEntry
  loc : List LocStore
  wbs : List WriteBack
  gwct : NMap Nat
  gwm : NMap Nat
  locks : List HeldLock
  cpyErr : Nat
  shOps : List Nat
  nextId : Nat
  regReady : List (Reg × Nat)
  gtHit : Bool
  halting : Bool
  ended : Bool
  logAt : Option (Slot × DWord)
deriving DecidableEq, Repr

/-! ### Cores and dies -/

/-- An eyelet in flight (spec/07 R133), with the LEASE its group held when it was recorded (spec/14 R260), and whether its line is to be
translated again (spec/15 R308). -/
structure Eyelet where
  line : DWord
  pa : Nat
  ver : Word
  lmask : LaneMask
  grp : Nat
  lease : Nat
  refused : Bool
deriving DecidableEq, Repr

/-- An engine instance, which keeps a horizon (spec/09 R169, R184). -/
inductive EngInst where
  | copy (k : CoreKey)
  | tile (k : CoreKey)
  | coll (d : DieKey)
  | shard (d : DieKey)
deriving DecidableEq, Repr

/-- The instruction that issued an engine operation: team, core group number, PC (spec/18 R335). -/
structure Issuer where
  team : Nat
  grp : Nat
  pc : DWord
deriving DecidableEq, Repr

/-- What an engine operation remembers beside its work: the watches it has hit (spec/18 R335), and the fault it waits
for: its kind, address and access, with the fault-buffer generation in which it met it (spec/10 R197, spec/15 R306, R307); the lines of
other modules that it has asked for, each with its request (spec/11 R229). -/
structure EngNote where
  hits : List Nat
  fault : Option (FaultKind × DWord × BitVec 8 × AccKind)
  sent : List (Nat × Nat)
deriving DecidableEq, Repr

/-- How far a piece of an engine operation has come (spec/09 R169; spec/10 R197): to be read, bytes read so far, written. -/
inductive PieceSt where
  | todo
  | read (bs : List Byte)
  | done
deriving DecidableEq, Repr

/-- A piece of a copy: source and destination address of its level and its length (spec/10 R197). -/
structure Piece where
  src : DWord
  dst : DWord
  len : Nat
  st : PieceSt
deriving DecidableEq, Repr

/-- What a landing says of the copy operation it belongs to: core, number, context, team, group index, PC, bytes in all. -/
structure CopyRef where
  k : CoreKey
  id : Nat
  key : CtxKey
  team : Nat
  gidx : Nat
  pc : DWord
  total : Nat
deriving DecidableEq, Repr

/-- A copy operation in a core's engine queue (spec/10 R195 to R202): its issuer, levels, the die of the issuing core
(spec/07 R118), the object with whether it lies on another module, the pieces and the bytes moved. -/
structure CopyOp where
  id : Nat
  team : Nat
  gidx : Nat
  key : CtxKey
  pc : DWord
  dlv : CpyLvl
  slv : CpyLvl
  die : DieKey
  obj : Option (BRef × Bool)
  pieces : List Piece
  moved : Nat
  total : Nat
  grp : Nat
  note : EngNote
deriving DecidableEq, Repr

/-- A queued tile instruction with the operands read at issue (spec/10 R207, R208). -/
inductive TileOp where
  | ld (t : Nat) (side : Bool) (base pitch : Nat)
  | st (t : Nat) (side : Bool) (base pitch : Nat)
  | zero (acc : Bool) (i : Nat)
  | mmac (f : MmacF) (mrows ncols : DWord)
  | mmacg (f : MmacgF) (a b : DWord) (kk : Nat) (sa sb : DWord) (mrows ncols : DWord)
  | accLd (a : Nat) (base pitch : Nat)
  | accSt (a : Nat) (base pitch : Nat)
  | cvt (f : TcvtF) (rm : Nat) (e : DWord) (mrows ncols : DWord)
deriving DecidableEq, Repr

/-- A line that the tile fetch unit has read for a chunk: chunk, virtual line, the physical line it pins, the bytes it
read at their offsets (spec/10 R217). -/
structure TileLine where
  chunk : Nat
  vline : Nat
  pin : Option Nat
  data : List (Nat × Byte)
deriving DecidableEq, Repr

/-- A tile instruction in the matrix engine queue, with its issuer (spec/10 R207, R208, R219); for an mmacg, whether it
has begun and the lines it holds (R216, R217). -/
structure TileEnt where
  id : Nat
  op : TileOp
  gidx : Nat
  mask : LaneMask
  pc : DWord
  grp : Nat
  note : EngNote
  begun : Bool
  got : List TileLine
  past : PastMasks
deriving DecidableEq, Repr

/-- The lanes of the fragment that issued it. -/
def TileEnt.own (e : TileEnt) : LaneMask := maskAt e.mask e.past e.id

/-- A carve: the launch, the region size S and the number of regions k (spec/07 R115). -/
structure Carve where
  grid : Nat
  s : Nat
  k : Nat
deriving DecidableEq, Repr

/-- An entry of a core's arrival log (spec/18 R330). -/
structure ArrLog where
  team : Nat
  ba : DWord
  wtime : DWord
  phase : Word
  bytes : Word
  grp : Nat
  frag : Slot
  ent : Nat
  comp : Bool
  drop : Bool
deriving DecidableEq, Repr

/-- A sampled request under way (spec/18 R326 to R328): ord is the number of its outstanding instruction, store-buffer entry or
write-back in the group. -/
structure Stitch where
  id : Nat
  core : CoreKey
  key : CtxKey
  pc : DWord
  va : DWord
  x : Nat
  y : Nat
  z : Nat
  phc : Word
  tag : BitVec 12
  grp : Nat
  ord : Nat
  lane : Nat
  acc : Nat
  issued : Nat
  stages : List (Nat × Nat)
  total : Nat
deriving DecidableEq, Repr

/-- A core (spec/01 R4): clock, the issue slot whose scan of this cycle comes next (spec/03 R62), issue slots, carve, instruction cache, L1 translation cache, eyelet table, engine
queues and horizons of its copy engine and tile fetch unit, pinned lines, sampling and arrival log, the lines that a pf still waits
for with its group and LEASE (spec/07 R137), the copies that have ended by an error (spec/10 R199). -/
structure Core where
  cycle : Nat
  credit : Nat
  lastPos : NMap Nat
  lastIssue : NMap Nat
  scanned : Nat
  carve : Option Carve
  icache : List (Nat × DWord × List DWord)
  tlb : List TEnt
  eyelets : List Eyelet
  copies : List CopyOp
  copyHz : Nat
  tileHz : Nat
  tileQ : List TileEnt
  mprog : Word
  pins : List Nat
  countdown : Nat
  samples : List Stitch
  arrlog : List ArrLog
  nextId : Nat
  pfs : List (Nat × Nat × Nat)
  copyBad : List Nat
deriving DecidableEq, Repr

/-- A copy of a line in a die's L1 slices (spec/07 R123, R124). -/
structure Copy where
  data : List Byte
  expiry : Nat
  ver : Word
deriving DecidableEq, Repr

/-! ### Homes, proxies and the fabric -/

/-- Directory state of a line at its home (spec/11 R224); the marked rack groups stand beside the named modules when
more than four share it. -/
inductive Dir where
  | uncached
  | shared (ms : List Nat)
  | exclusive (m : Nat)
deriving DecidableEq, Repr

/-- States of a locked line (spec/08 R154, R158, R164). -/
inductive LockSt where
  | granting (t : Nat)
  | held
  | saved
  | handoff
deriving DecidableEq, Repr

/-- A waiter of the bobbin queue (spec/08 R152, R157, R160, R164), or the holder of a line; cyc is the core cycle of the home's die
in which it arrived. -/
structure Waiter where
  m : Nat
  core : Nat
  grp : Nat
  key : CtxKey
  team : Nat
  gidx : Nat
  flight : Nat
  arr : Nat
  deadline : Option Nat
  res : Bool
  probes : Nat
  cyc : Nat
deriving DecidableEq, Repr

/-- A lock-table entry (spec/08 R152, R164). -/
structure LockEnt where
  holder : Waiter
  st : LockSt
  vline : DWord
  pc : DWord
deriving DecidableEq, Repr

/-- A pending merged reduction of a home write queue (spec/08 R150): operation, size, contributions by word address,
and the buffer entries that wait for its application. -/
structure RedEnt where
  op : Nat
  size : ASize
  ws : List (Nat × DWord)
  from_ : List (GKey × Nat)
deriving DecidableEq, Repr

/-- A store or atomic of a group that a dirty line holds and its device does not (spec/07 R131, spec/19 R347): its issuer, lanes, address
and PC. -/
structure Writer where
  key : CtxKey
  team : Nat
  gidx : Nat
  k : GKey
  mask : LaneMask
  va : DWord
  pc : DWord
deriving DecidableEq, Repr

/-- What a home keeps for a line (spec/07 R124, R132; spec/08 R150, R152; spec/11 R224; spec/10 R217). -/
structure Line where
  lease : Nat
  ver : Word
  dirty : Bool
  dir : Dir
  racks : BitVec 16
  lock : Option LockEnt
  queue : List Waiter
  red : Option RedEnt
  writers : List Writer
deriving DecidableEq, Repr

/-- A line in a proxy slice (spec/11 R224, R226): Exclusive or Shared, the data of a Shared copy, the latest lease
expiry the proxy has granted, and whether an invalidation has dropped it and waits for its leases. -/
structure Proxy where
  excl : Bool
  data : List Byte
  ver : Word
  lease : Nat
  dropped : Bool
deriving DecidableEq, Repr

/-- Who issued a performed write (spec/09 R167). -/
inductive Origin where
  | entry (k : GKey) (e : Nat)
  | lane (k : GKey) (fl part : Nat)
  | engine (e : EngInst)
  | flag (i : Nat)
  | host
deriving DecidableEq, Repr

/-- A write that has been performed and waits for invalidation acknowledgements before its GWCT is returned
(spec/11 R226); w is the writer's module, at_ that of the ordering point. -/
structure PendWrite where
  id : Nat
  line : Nat
  wait : List Nat
  t : Nat
  origin : Origin
  w : Nat
  at_ : Nat
deriving DecidableEq, Repr

/-- Replies of shard engines (spec/15 R304). -/
inductive NakReason where
  | noGroup | mismatch | dataLost
deriving DecidableEq, Repr

/-- The engines of a C-die that svdb can trace (spec/13 R257, spec/16 R318). -/
inductive TraceKind where
  | shard | coll
deriving DecidableEq, Repr

/-- What a shard request asks of its owner (spec/15 R304): the requesting context and the die of its engine; group, page, slice,
members, mode, the requester's index; the round and the bytes of a contribution. -/
structure ShardMsg where
  key : CtxKey
  die : Nat
  sg : Nat
  page : Nat
  slice : Nat
  n : Nat
  ord : Bool
  me : Nat
  rnd : Nat
  data : List Byte
deriving DecidableEq, Repr

/-- What a fabric request carries (spec/11 R229; spec/15 R304); an engine's access names the sector. -/
inductive Payload where
  | entry (k : GKey) (e : Nat)
  | lane (k : GKey) (fl part : Nat)
  | fill (k : GKey) (line : Nat)
  | lock (k : GKey) (fl : Nat)
  | flag (i : Nat)
  | shuttle (i : Nat)
  | stream (i : Nat)
  | slReq (op : Nat) (x : ShardMsg)
  | contrib (op : Nat) (x : ShardMsg)
  | unlk (i : Nat)
  | engine (sec : Nat)
deriving DecidableEq, Repr

/-- The reply a target has given (spec/11 R231; spec/15 R304). -/
inductive Reply where
  | done
  | moved
  | noPeer
  | slData (bs : List Byte)
  | slNak (r : NakReason)
  | cnAck
  | cnFull
  | cnNak (r : NakReason)
deriving DecidableEq, Repr

/-- What the log names of a failed request: context, team, address, PC, core group (spec/11 R232). -/
structure ReqWho where
  key : CtxKey
  team : Nat
  addr : DWord
  pc : DWord
  grp : Nat
deriving DecidableEq, Repr

/-- A request between two modules, as sender and target know it (spec/11 R229 to R231): tag and generation,
sequence number, first send, deadline, copies of the request and of the reply under way, whether the target has
received and performed it, its reply, whether the sender has taken a reply or declared it failed, the order of its
arrival (spec/15 R301), and what the log names when it fails (R232). -/
structure Req where
  id : Nat
  src : Nat
  dst : Nat
  payload : Payload
  gen : Nat
  seq : Nat
  sentAt : Nat
  deadline : Nat
  sends : Nat
  inFlight : Nat
  arrived : Bool
  performed : Bool
  reply : Option Reply
  replies : Nat
  closed : Bool
  failed : Bool
  cached : Bool
  arr : Nat
  who : Option ReqWho
deriving DecidableEq, Repr

/-- A flag sent by ffl (spec/11 R237, R238): the target module, the flag (an arrival at ba, or a store), the writes of
the issuing group homed there that must still be in place (0: buffer entry, 1: lane of an atomic, 2: flag, 3: unlk), the GWCTs of those in
place with the modules of their ordering points, its request, whether it has been performed, the issuing lanes, its issue
order, and whether its home has refused it with MOVED (spec/15 R308). -/
structure Flag where
  id : Nat
  m : Nat
  k : GKey
  key : CtxKey
  team : Nat
  gidx : Nat
  lane : Nat
  pc : DWord
  ba : Option DWord
  va : DWord
  pa : Nat
  leafPa : Nat
  bytes : List Byte
  waits : List (Nat × Nat)
  ts : List (Nat × Nat)
  req : Option Nat
  performed : Bool
  mask : LaneMask
  ord : Nat
  refused : Bool
deriving DecidableEq, Repr

/-- An unlk on its way to the home's lock logic (spec/08 R156, spec/11 R229): its group, the line, its request where the home is on
another module, whether the lock logic has taken the line, and its issue order. -/
structure Unlk where
  id : Nat
  k : GKey
  key : CtxKey
  team : Nat
  gidx : Nat
  mask : LaneMask
  line : Nat
  va : DWord
  pc : DWord
  req : Option Nat
  performed : Bool
  ord : Nat
deriving DecidableEq, Repr

/-- A shuttle packet (spec/11 R239 to R241): where it is and which die translates next, the step, the word it read, its
result, and whether its issuer has given it up. -/
structure Shuttle where
  id : Nat
  k : GKey
  key : CtxKey
  team : Nat
  gidx : Nat
  fl : Nat
  lane : Nat
  at_ : Nat
  die : Nat
  i : Nat
  nstep : Nat
  widths : BitVec 36
  offs : List Word
  start : DWord
  addr : DWord
  word : DWord
  trav : Nat
  deadline : Nat
  res : Option (DWord × Nat × Nat)
  dead : Bool
deriving DecidableEq, Repr

/-- Kinds of collective (spec/11 R244). -/
inductive CollKind where
  | ag | rs | ar | bc
deriving DecidableEq, Repr

/-- A collective operation of a die's engine (spec/11 R243 to R249): its parameters and members; the pieces of the source
read and the bytes they gave; the slices quantized; the streams sent, as slice, member and phase, and those not yet
acknowledged; contributions received (fast: merged; ordered: staged); the slices to be written, by place, and the pieces
written; bytes landed; the cause of a failure that has been found. -/
structure CollOp where
  id : Nat
  kind : CollKind
  die : DieKey
  key : CtxKey
  team : Nat
  gidx : Nat
  pc : DWord
  src : DWord
  dst : DWord
  n : Nat
  sg : Nat
  root : Nat
  pct : Nat
  wf : Nat
  ord : Bool
  seq : Nat
  ba : BRef
  members : List Nat
  me : Nat
  sread : List Nat
  sbuf : Memory
  quant : List (Bool × Nat)
  sent : List (Nat × Nat × Bool)
  unacked : List Nat
  got : List Nat
  staged : List (Nat × List Word)
  acc : List Word
  out : List (Nat × List Word)
  written : List (Nat × Nat)
  grp : Nat
  note : EngNote
  landed : Nat
  failing : Option CollCause
  performed : Bool
deriving DecidableEq, Repr

/-- A stream of a collective on its way, or held in the staging area (spec/11 R245, spec/13 R256): its operation at the
sender, the target module, what R248 compares, the phase, the slice it carries, and the context in whose area it is held. -/
structure Stream where
  id : Nat
  op : Nat
  dst : Nat
  key : CtxKey
  sg : Nat
  seq : Nat
  kind : CollKind
  n : Nat
  wf : Nat
  ord : Bool
  root : Nat
  gatherPhase : Bool
  slice : Nat
  from_ : Nat
  bytes : List Byte
  req : Option Nat
  held : Option Nat
  holder : Option CtxKey
deriving DecidableEq, Repr

/-- The record of a slice that a collective engine quantized (spec/13 R257). -/
structure CollRec where
  seq : Nat
  sgid : Nat
  midx : Nat
  n : Nat
  t : Nat
  c : Int
  wf : Nat
  pct : Nat
  bins : List Nat
  head : List Byte
deriving DecidableEq, Repr

/-- A message's contributions that a shard engine has written to a slice and has not yet counted (spec/16 R317): the CONTRIB
request, none for a round; context, group and page; the slice's address and lines; the address of APPLIED and what it gains; the
context that asked for it (spec/19 R339). -/
structure Applying where
  req : Option Nat
  key : CtxKey
  sg : Nat
  page : Nat
  base : Nat
  lines : Nat
  applied : Nat
  n : Nat
  by_ : CtxKey
deriving DecidableEq, Repr

/-- A C-die's engines: horizons of the collective and shard engine, the walker cache, whether the die is lost, the records of
the last 16 slices its collective engine quantized for each context (spec/13 R257), the contributions its shard engine has not yet
counted (spec/16 R317) and that engine's last 64 trace records for each context (spec/16 R318). -/
structure Die where
  collHz : Nat
  shardHz : Nat
  walker : List TEnt
  lost : Bool
  collRecs : List (Nat × CollRec)
  applying : List Applying
  shardRecs : List (Nat × BitVec 128)
deriving DecidableEq, Repr

/-- A gather of a page on the shard engine of a die (spec/15 R299): the entry it read; whether it has one of
the engine's 16 places, the descriptor's figures from then on, its frame and the order of its hand-out, the lines of the module's own slice read and written, the slices asked for and those written. -/
structure Gather where
  id : Nat
  key : CtxKey
  die : Nat
  va : DWord
  sg : Nat
  page : Nat
  entryPa : Nat
  entry : Nat
  ord : Bool
  n : Nat
  me : Nat
  slbase : Nat
  members : List Nat
  begun : Bool
  frame : Option Nat
  seq : Nat
  lread : List (Nat × List Byte)
  lwritten : List Nat
  got : List Nat
  by_ : Issuer
  note : EngNote
deriving DecidableEq, Repr

/-- A drain of a page (spec/15 R300): the entry it wrote, its frame and round, the slices read, sent and done with, and
those to be sent again from a time on (R302). -/
structure Drain where
  id : Nat
  key : CtxKey
  die : Nat
  va : DWord
  sg : Nat
  page : Nat
  entryPa : Nat
  entry : Nat
  frame : Nat
  n : Nat
  me : Nat
  ord : Bool
  rnd : Nat
  members : List Nat
  slices : List (Nat × List Byte)
  acked : List Nat
  retry : List (Nat × Nat)
  by_ : Issuer
  note : EngNote
deriving DecidableEq, Repr

/-- A shev on its way at the shard engine of its page: its issuer, its object, the drain it waits for (spec/15 R313). -/
structure Shev where
  id : Nat
  key : CtxKey
  team : Nat
  grp : Nat
  pc : DWord
  va : DWord
  die : Nat
  obj : Option BRef
  on : Option Nat
deriving DecidableEq, Repr

/-- An ordered contribution staged at an owner, with the context that sent it (spec/15 R301, spec/19 R339). -/
structure Contrib where
  key : CtxKey
  sg : Nat
  page : Nat
  slice : Nat
  member : Nat
  rnd : Nat
  data : List Byte
  by_ : CtxKey
deriving DecidableEq, Repr

/-- A pending landing or arrival of an engine or an acknowledgement (spec/09 R169; spec/10 R198; spec/11 R235): its
barrier step, the write it reports while that has not been acknowledged, the GWCT that must have passed at the module it is
sent from, whether its object lies on another module,
whether it is an acknowledgement, the context and team it is for, and the copy, or the number of the collective or the shev, it belongs
to. -/
structure Landing where
  o : BRef
  da : Bool
  db : Int
  w : Option Nat
  t : Nat
  sentFrom : Nat
  rmt : Bool
  ack : Bool
  key : CtxKey
  team : Nat
  copyOp : Option CopyRef
  coll : Option Nat
deriving DecidableEq, Repr

/-- What a barrier unit is asked to do (spec/09 R175 to R182; spec/11 R237). -/
inductive BarOp where
  | init (phase : Word) (aper : BitVec 16)
  | step (da : Bool) (db : Int)
  | test (phase : Word)
deriving DecidableEq, Repr

/-- Where a barrier request came from, and so what becomes of it (spec/09 R175). -/
inductive BarSrc where
  | group (k : GKey) (slot : Slot) (gidx : Nat) (fl : Option Nat) (ba pc : DWord) (ent : Nat)
  | landing (copyOp : Option CopyRef) (coll : Option Nat) (rmt : Bool)
  | flag
deriving DecidableEq, Repr

/-- A request that has reached, or is on its way to, a barrier unit (spec/09 R175). -/
structure BarReq where
  o : BRef
  op : BarOp
  src : BarSrc
  key : CtxKey
  team : Nat
deriving DecidableEq, Repr

/-! ### Teams, grids, contexts -/

/-- Where a team is (spec/14 R271 to R275). -/
inductive TeamSt where
  | listed
  | resident (core : Nat) (region : Nat) (since : Nat)
  | saved (runnable : Bool)
  | ended
deriving DecidableEq, Repr

/-- A team: its grid and coordinates, the packet's figures, where it is, its image when saved, its barrier phase
count, its debug halt with the causes that came after the first (spec/14 R274, R275, R281; spec/18 R328, R329). -/
structure Team where
  grid : Nat
  key : CtxKey
  x : Nat
  y : Nat
  z : Nat
  gpt : Nat
  nregs : Nat
  s : Nat
  lpv : Nat
  tiles : Bool
  prio : Nat
  entry : DWord
  args : List DWord
  st : TeamSt
  joined : Nat
  fresh : Bool
  images : List (Nat × Group)
  region : Memory
  tileImg : Memory
  tileQImg : List TileEnt
  mprogImg : Word
  lastCore : Nat
  stop : Option (StopCause × DWord)
  also : List (StopCause × DWord)
  stopAt : Option (Nat × Slot)
  stepping : Bool
  halted : Bool
  phc : Word
  gwct : Nat
  endedGroups : List Nat
deriving DecidableEq, Repr

/-- A grid: the queue and packet that launched it, its extents, its completion (spec/12 R252, spec/14 R280). -/
structure Grid where
  key : CtxKey
  q : Nat
  idx : Nat
  gx : Nat
  gy : Nat
  gz : Nat
  sigev : Nat
  left : Nat
  complete : Bool
deriving DecidableEq, Repr

/-- How a started packet stands (spec/14 R279, R280). -/
structure Packet where
  idx : Nat
  typ : Nat
  done : Bool
  evid : Nat
  value : Nat
deriving DecidableEq, Repr

/-- A queue: its block and ring in device memory, the packets that have started and are not all complete, and the PROGRESS it held at
its last switch-out (spec/14 R277 to R280). -/
structure Queue where
  block : Nat
  ring : Nat
  logsz : Nat
  prio : Nat
  data : Bool
  devpush : Bool
  stopped : Bool
  badEvent : Bool
  packets : List Packet
  outAt : Nat
deriving DecidableEq, Repr

/-- An active event (spec/14 R286): COUNT, the inline waiters, the overflow list. -/
structure Event where
  key : CtxKey
  count : DWord
  inline : List (CtxKey × Nat × Nat × Nat)
  overflow : List (CtxKey × Nat × Nat × Nat)
deriving DecidableEq, Repr

/-- Where an addition to an event comes from: a SIGNAL_EVENT packet, an evsig of a core, a grid's SIGEV (spec/14 R286). -/
inductive EvSrc where
  | packet (q idx : Nat)
  | evsig (core : Nat)
  | grid
deriving DecidableEq, Repr

/-- An addition on its way to the event table; pc, team and grp name an evsig for the error log (spec/14 R285, R286). -/
structure EvAdd where
  key : CtxKey
  id : Nat
  n : Nat
  src : EvSrc
  pc : DWord
  team : Nat
  grp : Nat
deriving DecidableEq, Repr

/-- An error-log record (spec/19 R349). -/
structure ErrRec where
  wtime : DWord
  addr : DWord
  pc : DWord
  x : Nat
  y : Nat
  z : Nat
  detail : DWord
  m : Nat
  grp : Nat
  code : Nat
deriving DecidableEq, Repr

/-- An event offered to a trigger sequencer (spec/18 R331), with the trace record (8 words) or
the issue entry (1 word, R334) that depends on it. -/
structure TrigEv where
  wtime : Nat
  core : Nat
  pc : Option DWord
  addr : Option (DWord × Nat × Bool × Bool)
  code : Nat
  arg : Nat
  x : Nat
  y : Nat
  z : Nat
  rec_ : List DWord
deriving DecidableEq, Repr

/-- A watched access that has been performed; slot is the accessing fragment's, on the group path (spec/18 R335, R336). -/
structure WatchAcc where
  key : CtxKey
  w : Nat
  va : DWord
  pc : DWord
  team : Nat
  grp : Nat
  slot : Slot
  path : Path
  acc : Nat
deriving DecidableEq, Repr

/-- The fault record of an escalation (spec/14 R268). -/
structure CtxFault where
  x : Nat
  y : Nat
  z : Nat
  gidx : Nat
  hstat : DWord
  hpc : DWord
  haddr : DWord
  cause : Nat
  pc : DWord
deriving DecidableEq, Repr

/-- A context on a module (spec/14, spec/15, spec/18, spec/19). -/
structure Context where
  p : CtxParams
  dies : List Nat
  prevDies : List Nat
  slices : Nat
  ctxclk : Nat
  clkRem : Nat
  frames : List (Nat × Nat × DWord × Nat × Nat)
  returning : List Nat
  poolLost : Bool
  queues : List (Nat × Queue)
  runnable : List Nat
  usage : NMap Nat
  sat : List Nat
  err : List ErrRec
  logovf : Nat
  halted : Bool
  haltedDbg : Bool
  fault : Option CtxFault
  collSeq : NMap Nat
  recorded : List (Nat × Nat)
  stale : List (GKey × Nat × DWord)
  trig : List TrigEv
  issBuf : List DWord
  created : Nat
  torn : Option Nat
  openIv : NMap Nat
deriving DecidableEq, Repr

/-! ### Modules -/

/-- The end-to-end counters of a module (spec/11 R233). -/
structure FabCtr where
  resent : Nat
  reqfail : Nat
  latereply : Nat
  dupdrop : Nat
  dupcache : Nat
  staletgt : Nat
deriving DecidableEq, Repr

/-- A record held until it is acknowledged: kind, RSEQ, the signed bytes and the two signatures (spec/19 R342 to
R345). -/
structure Record where
  kind : Nat
  rseq : Nat
  body : List Byte
  sigA : List Byte
  sigB : List Byte
deriving DecidableEq, Repr

/-- The fault buffer (spec/15 R306): the addresses of its ring and its block within the module, and the registers that
only the hardware writes. FBGET, FLUSH and the records stand in memory, with copies of the others. -/
structure FaultBuf where
  ring : Nat
  block : Nat
  put : Nat
  gen : BitVec 8
  dup : Nat
  ovf : Nat
deriving DecidableEq, Repr

/-- Structure error counters: corrected and uncorrectable by structure code (spec/19 R348). -/
structure ErrCtr where
  corrected : NMap Nat
  uncorrectable : NMap Nat
deriving DecidableEq, Repr

/-- A module (spec/01): which device it is, WALLTIME, job membership with its ports, frequency and
voltage of its islands, life cycle, now and at the boot, boot facts with the recovery image
where one was pushed, counters, events, fault buffer, moved table, measurement responses and host read results; for the scheduler the contexts that were runnable
at the last recompute, whether time is sliced, the slices left in the round and the last slice boundary taken (spec/14
R288). -/
structure Module where
  dev : Nat
  wall : DWord
  inJob : Bool
  jobid : DWord
  optgrp : BitVec 16
  ports : List PortInfo
  lostDies : List Nat
  lost : Bool
  ready : Bool
  life : LifeCycle
  bootLife : LifeCycle
  boot : Nat
  rseq : Nat
  image : Option (List Byte)
  islands : NMap Nat
  volts : NMap Nat
  fab : FabCtr
  errs : ErrCtr
  fb : FaultBuf
  events : List (Nat × Event)
  adds : List EvAdd
  moved : List (Nat × Nat × Nat)
  records : List Record
  meas : List Record
  hostRead : List Byte
  jobStart : DWord
  runSet : List Nat
  sliced : Bool
  left : NMap Nat
  sliceAt : Nat
deriving DecidableEq, Repr

/-- What a snapshot of a log breakpoint shows (spec/18 R329): the word's PC, its cycle's WALLTIME, team, group and fragment,
the fragment slots, the split stack as its bytes (spec/03 R44), s1 to s63, p0 to p6, q0 to q2, the vector registers that svdb named,
and the destinations that are still pending. -/
structure Snapshot where
  pc : DWord
  wtime : DWord
  x : Nat
  y : Nat
  z : Nat
  grp : Nat
  slot : Slot
  f0 : Option Frag
  f1 : Option Frag
  stack : List Byte
  regs : Regs
  pending : List Reg
deriving DecidableEq, Repr

/-! ### The state -/

/-- One turn of the machine (spec/09 R167): a machine step, the fetch of a fragment's next block (spec/02 R28), one scan of
an issue slot (spec/03 R62), one cycle of a core's clock (spec/01 R14), or one of the package scheduler's event table
(spec/14 R286). -/
inductive Turn where
  | event (i : Instr)
  | fetch (r : FragRef)
  | slot (k : CoreKey) (i : Nat)
  | cycle (k : CoreKey)
  | table (m : Nat)
deriving DecidableEq, Repr

/-- The whole state of the pod. `collLost` lists the collectives that have failed: context, group, sequence number, member and cause
(spec/11 R249). `parked` holds, by device, the modules
that have left a job and whose host is not the one modelled (spec/19 R342). `damaged` lists the damaged granules
of device memory, `spoiled` the damaged words of the local levels, `badTiles` those of the tile states (spec/19 R347). `agenda`, `cur` and `freeCtr` are the model's own: the turns already decided, the
fragment an instruction acts on, and the counter of free values (log entries 1 and 2). -/
structure State where
  agenda : List Turn
  cur : FragRef
  freeCtr : Nat
  mods : Table Nat Module
  parked : Table Nat Module
  dies : Table DieKey Die
  cores : Table CoreKey Core
  groups : Table GKey Group
  teams : Table Nat Team
  grids : Table Nat Grid
  ctxs : Table CtxKey Context
  mem : Memory
  dev : Memory
  scratch : Memory
  pks : Memory
  lpm : Memory
  tiles : Memory
  lines : Table Nat Line
  copies : Table (DieKey × Nat) Copy
  proxies : Table (Nat × Nat) Proxy
  pend : List PendWrite
  reqs : List Req
  flags : List Flag
  unlks : List Unlk
  shuttles : List Shuttle
  colls : List CollOp
  streams : List Stream
  collLost : List (CtxKey × Nat × Nat × Nat × CollCause)
  gathers : List Gather
  drains : List Drain
  shevs : List Shev
  contribs : List Contrib
  rounds : Table (CtxKey × Nat × Nat × Nat) Nat
  landings : List Landing
  barq : List BarReq
  stitches : List Stitch
  watches : List WatchAcc
  damaged : List (Nat × Nat)
  spoiled : List (Space × Nat)
  badTiles : List Nat
  nextId : Nat
deriving DecidableEq, Repr

/-- Why the machine stops. Raised by an instruction word executed for a fragment slot that holds no fragment: Step
never issues for an empty slot, so no run stops with it. Safe: the model stops where the device has nothing to do. -/
inductive Fault where
  | noFragment
deriving DecidableEq, Repr

/-- Why a word has no meaning. Raised only by an arm of Dispatch for an instruction not yet modelled. Safe. -/
inductive Refusal where
  | notModelled (mnemonic : String)
deriving DecidableEq, Repr

/-- A module after reset (spec/19 R346, R348; spec/01 R8, R18): no context, queue or link; islands at 2,400 MHz, those without a core of a
partition too, which is the model's choice (log entry 3); log entries 3 and 5 name the other values the spec does not give. -/
def Module.reset : Module where
  dev := 0
  wall := 0
  inJob := false
  jobid := 0
  optgrp := 0
  ports := []
  lostDies := []
  lost := false
  ready := true
  life := .operate
  bootLife := .operate
  boot := 0
  rseq := 0
  image := none
  islands := []
  volts := []
  fab := ⟨0, 0, 0, 0, 0, 0⟩
  errs := ⟨[], []⟩
  fb := ⟨0x017FFFFC0000, 0x017FFFFE0000, 0, 0, 0, 0⟩
  events := []
  adds := []
  moved := []
  records := []
  meas := []
  hostRead := []
  jobStart := 0
  runSet := []
  sliced := false
  left := []
  sliceAt := 0

/-- The state after reset: one module outside a job, with pod number 0 (spec/01 R8), memory wiped (spec/19 R346) but for
FBBASE of the fault buffer block, set at bring-up (spec/15 R306; log entry 5). -/
def State.reset : State where
  agenda := []
  cur := ⟨⟨0, 0, 0⟩, .f0⟩
  freeCtr := 0
  mods := [(0, Module.reset)]
  parked := []
  dies := []
  cores := []
  groups := []
  teams := []
  grids := []
  ctxs := []
  mem := [(0x017FFFFE0002, 0xFC#8), (0x017FFFFE0003, 0xFF#8), (0x017FFFFE0004, 0x7F#8), (0x017FFFFE0005, 0x01#8)]
  dev := []
  scratch := []
  pks := []
  lpm := []
  tiles := []
  lines := []
  copies := []
  proxies := []
  pend := []
  reqs := []
  flags := []
  unlks := []
  shuttles := []
  colls := []
  streams := []
  collLost := []
  gathers := []
  drains := []
  shevs := []
  contribs := []
  rounds := []
  landings := []
  barq := []
  stitches := []
  watches := []
  damaged := []
  spoiled := []
  badTiles := []
  nextId := 1

end Sys2Proof.Machine
end

