-- ==== Sys2Proof/Config.lean ====
section
/-! DEFINITION. What the spec leaves open and what an implementation fixes: free values without a body (log entries 1,
2, 6 and 7). -/

namespace Sys2Proof.Config

/-- Which turn the machine takes when nothing is decided yet: any step whose precondition holds may come next (spec/09
R167). Applied to State.freeCtr; log entry 2. -/
opaque turn : Nat → Option Machine.Turn
/-- The line that a fill replaces in its slice, when it replaces one (spec/07 R124: a copy stays until it is replaced):
log entry 1. -/
opaque victim : Nat → Option Nat
/-- A byte whose value the spec does not state (log entry 1). -/
opaque freeByte : Nat → Byte
/-- Which of two messages of one request arrives first (spec/09 R170): log entry 1. -/
opaque pick : Nat → Bool
/-- The last bit of a transcendental result whose 400-bit truncation the interval arithmetic does not decide (spec/06
R98): operation and argument; log entry 6. -/
opaque undecided : Nat → Nat → Nat
/-- The stages a sampled request passes and the ns it queues in each (spec/18 R327; spec/02 R360): log entry 1. -/
opaque stages : Nat → List (Fin 6 × Nat)
/-- The ACC that a stitch record of a pf, cwb or cinv shows, to which the spec gives no code (spec/18 R328): log entry 84. -/
opaque cacheAcc : Nat → Fin 7
/-- The vector registers that svdb named for the log breakpoint at a PC (spec/18 R329): log entry 1. -/
opaque namedVregs : DWord → List Nat
/-- Which lines of an L1 slice lie in the banks that a carve change moves (spec/07 R117): log entry 1. -/
opaque inBanks : Nat → Nat → Bool
/-- Whether svdb traces an engine of a C-die, by the engine's kind, module and die, and the module's WALLTIME: a session turns a trace
on and off as it runs (spec/13 R257, spec/16 R318): log entry 76. -/
opaque traces : Machine.TraceKind → Nat → Nat → Nat → Bool
/-- Where the WALLTIME of a module that joins a job lies among those that keep 20 ns from every other's (spec/01 R13): log entry 1. -/
opaque skew : Nat → Nat
/-- The header of a snapshot and its body records, whose layout the spec does not give, but for KIND (spec/18 R329): log
entry 1. -/
opaque snapshotHead : Machine.Snapshot → List DWord
opaque snapshotBodies : Machine.Snapshot → List (List DWord)
/-- The Ed25519 signature of a module over a message (spec/19 R343): log entry 7. -/
opaque signA : Nat → List Byte → List Byte
/-- The ML-DSA-65 signature of a module over a message (spec/19 R343): log entry 7. -/
opaque signB : Nat → List Byte → List Byte
/-- The public keys of a module (spec/19 R342, R343): log entry 7. -/
opaque keyA : Nat → List Byte
opaque keyB : Nat → List Byte
/-- Whether a signature verifies against a public key: key, message, signature (spec/19 R343): log entry 7. -/
opaque verifyA : List Byte → List Byte → List Byte → Bool
opaque verifyB : List Byte → List Byte → List Byte → Bool
/-- The chain of SPDM certificate slot 0, which certifies an Ed25519 public key (spec/19 R343): log entry 7. -/
opaque certSlot0 : List Byte → List Byte
/-- Whether every die of a module passes its power-on self-test (spec/01 R4): log entry 1. -/
opaque selfTest : Nat → Bool
/-- The lease that the host holds on a line after a read, in ns (spec/09 R172): log entry 1. -/
opaque hostLease : Nat → BitVec 32
/-- Where in a context's save area an image is written, the bytes it is written as, and the words that a register reads whose image was
not written (spec/14 R275): log entry 44. -/
opaque saveAt : Nat → Nat
opaque saveBytes : Nat → List Byte
opaque savedWord : Nat → Nat → DWord
/-- The boot ROM and the firmware image in flash (spec/19 R345): log entry 7. -/
opaque bootRom : List Byte
opaque flashImage : Nat → List Byte
/-- The populated bytes of a module's CXL tier (spec/01 R6): log entry 1. -/
opaque cxlBytes : Nat → Nat

end Sys2Proof.Config
end

