-- ==== Sys2Proof/WellFormed.lean ====
section
/-! DEFINITION. The checks that make a word legal beyond the ranges its typed fields already keep (spec/02 R22, R23,
R29, R33, and the encoding rules of the class chapters). A word whose instruction fails one is illegal (R23). -/

namespace Sys2Proof

/-- The guard PG = 7 with PN = 1 is illegal (spec/02 R29). -/
def Guard.ok (g : Guard) : Bool := !(g.pg.val == 7 && g.pn)

/-- 64-bit integer types take pairs (spec/05 R69). -/
def IntTy.wide : IntTy → Bool
  | .i32 | .u32 => false
  | .i64 | .u64 => true

/-- Signedness of a type (spec/05 R69). -/
def IntTy.signed : IntTy → Bool
  | .i32 | .i64 => true
  | .u32 | .u64 => false

/-- Which fields an integer operation uses (spec/05 R71): B, C, SAT, N, and whether TYPE must be signed. -/
structure IntUse where
  b : Bool
  c : Bool
  sat : Bool
  n : Bool
  signed : Bool
deriving DecidableEq, Repr

/-- Unary, binary and ternary operations, the saturating ones, lea and the extensions (spec/05 R71). -/
def IntUse.un : IntUse := ⟨false, false, false, false, false⟩
def IntUse.bin : IntUse := ⟨true, false, false, false, false⟩
def IntUse.binSat : IntUse := ⟨true, false, true, false, false⟩
def IntUse.ter : IntUse := ⟨true, true, false, false, false⟩
def IntUse.terSat : IntUse := ⟨true, true, true, false, false⟩
def IntUse.absOp : IntUse := ⟨false, false, true, false, true⟩
def IntUse.leaOp : IntUse := ⟨true, false, false, true, false⟩
def IntUse.ext : IntUse := ⟨false, false, false, true, false⟩

/-- Even register index, required where an instruction takes a pair (spec/02 R33). -/
def evenIx {n : Nat} (r : Fin n) : Bool := r.val % 2 == 0

/-- Multiple-of-4 register index (spec/07 R111, spec/08 R142). -/
def quadIx {n : Nat} (r : Fin n) : Bool := r.val % 4 == 0

/-- Reserved fields of a scalar integer word (spec/05 R70, R71). -/
def SInt.ok (f : SInt) (u : IntUse) : Bool :=
  (u.b || f.b.val == 0) && (u.c || f.c.val == 0) && (u.sat || !f.sat) && (u.n || f.n.val == 0) &&
  (!u.signed || f.ty.signed)

/-- Reserved fields and pairs of a vector integer word (spec/05 R69 to R71). -/
def VInt.ok (f : VInt) (u : IntUse) : Bool :=
  f.g.ok && (u.b || (f.b.val == 0 && !f.sb)) && (u.c || f.c.val == 0) && (u.sat || !f.sat) &&
  (u.n || f.n.val == 0) && (!u.signed || f.ty.signed) && (!f.sb || f.b.val < 64) &&
  (!f.ty.wide || (evenIx f.d && evenIx f.a && (f.sb || evenIx f.b) && evenIx f.c))

/-- lea writes a pair from a pair, with an index of the type's width (spec/05 R71). -/
def VInt.okLea (f : VInt) : Bool :=
  f.g.ok && f.c.val == 0 && !f.sat && (!f.sb || f.b.val < 64) && evenIx f.d && evenIx f.a &&
  (!f.ty.wide || f.sb || evenIx f.b)

/-- Element width in bytes of a format (spec/06 R85). -/
def Fmt.bytes : Fmt → Nat
  | .f32 => 4
  | .f16 | .bf16 => 2
  | .e4m3 | .e5m2 | .e8m0 | .b8 .. => 1

/-- The eight-bit formats that hold numbers: binary8, E4M3, E5M2 (spec/06 R101). -/
def Fmt.eight : Fmt → Bool
  | .e4m3 | .e5m2 | .b8 .. => true
  | .f32 | .f16 | .bf16 | .e8m0 => false

/-- The binary8 formats (spec/10 R212). -/
def Fmt.binary8 : Fmt → Bool
  | .b8 .. => true
  | .f32 | .f16 | .bf16 | .e4m3 | .e5m2 | .e8m0 => false

/-- BSEL names a byte of an eight-bit value, the starting byte of a 16-bit one, and is 0 otherwise (spec/06 R103). -/
def bselOk (bytes bsel : Nat) : Bool :=
  if bytes == 1 then true else if bytes == 2 then bsel % 2 == 0 else bsel == 0

/-- BSEL of cvt applies to the narrower side; of equal sides only to two eight-bit ones (spec/06 R103). -/
def CvtF.ok (f : CvtF) : Bool :=
  f.g.ok && f.dfmt != .e8m0 &&
  (if f.sfmt.bytes == f.dfmt.bytes then (f.sfmt.bytes == 1 || f.bsel.val == 0)
   else bselOk (min f.sfmt.bytes f.dfmt.bytes) f.bsel.val)

/-- Index kind and index register of a memory operand (spec/07 R110). -/
def MAddr.ok (a : MAddr) : Bool :=
  match a.ix with
  | .s32 | .u32 => true
  | .pair => evenIx a.idx
  | .none => a.idx.val == 0

/-- Data registers by size (spec/07 R111). -/
def MSize.regOk (z : MSize) (d : VReg) : Bool :=
  match z with
  | .u8 | .s8 | .u16 | .s16 | .b32 => true
  | .b64 => evenIx d
  | .b128 => quadIx d

/-- Scopes from narrowest to widest (spec/01 R12). -/
def Scope.code : Scope → Nat
  | .core => 0 | .quad => 1 | .die => 2 | .pkg => 3 | .pod => 4 | .sys => 5

/-- A load or store word: the orders its row allows and the widest scope of an acquire or release (spec/07 R113). -/
def MemF.ok (f : MemF) (orders : List Order) (widest : Nat) : Bool :=
  f.g.ok && f.addr.ok && f.size.regOk f.d && orders.contains f.order &&
  (f.order == .relaxed || f.scope.code ≤ widest)

/-- pf, cwb and cinv (spec/07 R113). -/
def LineF.ok (f : LineF) (orders : List Order) : Bool :=
  f.g.ok && f.addr.ok && orders.contains f.order

/-- 64-bit atomic sizes (spec/02 R22). -/
def ASize.wide : ASize → Bool
  | .u32 | .s32 => false
  | .u64 | .s64 => true

/-- Integer atomics and reductions (spec/08 R140 to R142). -/
def AtomF.ok (f : AtomF) (orders : List Order) : Bool :=
  f.g.ok && f.addr.ok && orders.contains f.order && (!f.size.wide || evenIx f.d)

/-- atom.cas: compare and new values in a pair, or in four registers (spec/08 R142). -/
def AtomF.okCas (f : AtomF) : Bool :=
  f.g.ok && f.addr.ok && (if f.size.wide then quadIx f.d else evenIx f.d)

/-- Float atomics and reductions (spec/08 R140). -/
def AtomFF.ok (f : AtomFF) (orders : List Order) : Bool :=
  f.g.ok && f.addr.ok && orders.contains f.order

/-- Every order of spec/02 R22. -/
def allOrders : List Order := [.relaxed, .acquire, .release, .acqRel]

/-- Barrier words: the orders of their row, and D where the row gives 0 (spec/09 R177). -/
def BarF.ok (f : BarF) (orders : List Order) (dest : Bool) : Bool :=
  orders.contains f.order && (dest || (f.d.val == 0 && f.la.val == 0))

/-- The narrowest scope at which a path may be named (spec/09 R184). -/
def Path.narrowest : Path → Nat
  | .group | .copy | .tile => 0
  | .coll | .shard => 2

/-- Copy words (spec/10 R195). -/
def CpyF.ok (f : CpyF) : Bool :=
  (f.cnt || f.c.val == 0) && (!f.rmt || f.cnt) && (f.rmt || f.objmod == 0)

/-- The format pairs of mmac and mmacg (spec/10 R212). -/
def fmtPairOk (fa fb : Fmt) : Bool :=
  (fa.binary8 && fb.binary8) || (fa.bytes == 2 && fb.bytes == 2) || (fa == .f32 && fb == .f32)

/-- mmac (spec/10 R212). -/
def MmacF.ok (f : MmacF) : Bool :=
  fmtPairOk f.fa f.fb && (!(f.mx || f.ha || f.hb) || f.fa.bytes == 1)

/-- tcvt (spec/10 R220). -/
def TcvtF.ok (f : TcvtF) : Bool :=
  (f.fmt.eight || f.fmt.bytes == 2) && f.rnd != .sr && (!(f.h || f.mx) || f.fmt.bytes == 1)

/-- The width of shuttle step i (spec/11 R234). -/
def ShtlF.width (f : ShtlF) (i : Nat) : Nat := f.stepw.toNat / 2 ^ (6 * i) % 64

/-- shtl (spec/11 R234). -/
def ShtlF.ok (f : ShtlF) : Bool :=
  f.g.ok && evenIx f.d && evenIx f.a && f.b.val ≤ 61 && 1 ≤ f.nstep.val && f.nstep.val ≤ 6 &&
  (List.range 6).all (fun i => (1 ≤ i && i < f.nstep.val) || f.width i == 0)

/-- Kind and access of a special register (spec/02 R35, spec/03 R59, spec/07 R120, spec/08 R163, spec/10 R203,
spec/11 R228, spec/14 R261): whether it is a lane register, whether it may be written, whether it is a handler
register. An unassigned number has none. -/
def sregKind (n : Nat) : Option (Bool × Bool × Bool) :=
  if n == 0x000 then some (true, false, false)
  else if n ≤ 0x00B then some (false, false, false)
  else if n == 0x010 || n == 0x011 then some (false, false, false)
  else if n == 0x012 then some (false, true, false)
  else if n == 0x020 then some (true, true, false)
  else if n == 0x021 then some (false, true, false)
  else if n == 0x030 then some (false, false, true)
  else if n == 0x031 || n == 0x032 then some (false, true, true)
  else if n == 0x040 || n == 0x041 then some (false, false, false)
  else if n == 0x042 || n == 0x043 || n == 0x044 then some (false, false, false)
  else if n == 0x045 then some (false, true, false)
  else if n == 0x046 || n == 0x047 || n == 0x048 || n == 0x049 then some (false, false, false)
  else if n == 0x04A || n == 0x04B then some (false, true, false)
  else if n == 0x04C then some (false, false, false)
  else if n == 0x04D then some (false, true, false)
  else if n == 0x04E then some (false, false, false)
  else if n == 0x04F || n == 0x050 then some (false, false, true)
  else if n == 0x051 || n == 0x052 then some (false, true, false)
  else none

/-- mfs and mts name an assigned register, writable for mts, with a register of its kind (spec/02 R33, R35). -/
def sregOk (r : Fin 256) (n : BitVec 12) (write : Bool) : Bool :=
  match sregKind n.toNat with
  | none => false
  | some (lane, rw, _) => (!write || rw) && (lane || r.val < 64)

/-- The legal instructions: for each constructor the checks of its encoding rule. The machine steps are not words and
carry no reserved field. -/
def Instr.wf : Instr → Bool
  | .bra _ | .brx _ | .call _ | .join | .exit | .nop => true
  | .braDiv g _ _ => g.ok
  | .brq _ q qn => !(q.val == 3 && qn)
  | .callx d _ => evenIx d
  | .ret a => evenIx a
  | .sadd f | .ssub f => f.ok .binSat
  | .smulLo f | .smulHi f | .smin f | .smax f | .sand f | .sor f | .sxor f | .sandn f | .sshl f | .sshr f
  | .ssar f | .srot f | .sbfe f => f.ok .bin
  | .smad f => f.ok .terSat
  | .sabs f => f.ok .absOp
  | .snot f | .spopc f | .sclz f | .sctz f | .sbrev f | .smov f => f.ok .un
  | .sbfi f => f.ok .ter
  | .slea f => f.ok .leaOp
  | .ssext f | .szext f => f.ok .ext
  | .scmp _ | .ssel _ => true
  | .smovw f => f.ty.wide || f.imm.toNat < 2 ^ 32
  | .saddImm _ | .sandImm _ | .sorImm _ | .sxorImm _ | .sshlImm _ | .sshrImm _ | .ssarImm _ | .scmpImm _ => true
  | .smovImm f => f.a.val == 0
  | .vadd f | .vsub f => f.ok .binSat
  | .vmulLo f | .vmulHi f | .vmin f | .vmax f | .vand f | .vor f | .vxor f | .vandn f | .vshl f | .vshr f
  | .vsar f | .vrot f | .vbfe f => f.ok .bin
  | .vmad f => f.ok .terSat
  | .vabs f => f.ok .absOp
  | .vnot f | .vpopc f | .vclz f | .vctz f | .vbrev f | .vmov f => f.ok .un
  | .vbfi f => f.ok .ter
  | .vlea f => f.okLea
  | .vsext f | .vzext f => f.ok .ext
  | .vcmp f => f.g.ok && (!f.sb || f.b.val < 64) && (!f.w64 || (evenIx f.a && (f.sb || evenIx f.b)))
  | .vsel f => f.g.ok && (!f.sb || f.b.val < 64) &&
      (!f.ty.wide || (evenIx f.d && evenIx f.a && (f.sb || evenIx f.b)))
  | .vmovw f => f.g.ok && (if f.ty.wide then evenIx f.d else f.imm.toNat < 2 ^ 32)
  | .vaddImm f | .vandImm f | .vorImm f | .vxorImm f | .vshlImm f | .vshrImm f | .vsarImm f => f.g.ok
  | .vcmpImm f => f.g.ok && (!f.w64 || evenIx f.a)
  | .vmovImm f => f.g.ok && f.a.val == 0
  | .shflIdx f => f.g.ok && f.k.val == 0 && (!f.sb || f.b.val < 64) && (!f.w64 || (evenIx f.d && evenIx f.a))
  | .shflUp f | .shflDn f | .shflXor f =>
      f.g.ok && f.b.val == 0 && !f.sb && (!f.w64 || (evenIx f.d && evenIx f.a))
  | .voteAny f | .voteAll f => f.g.ok
  | .voteBal f => f.g.ok
  | .redux f => f.g.ok && (!f.w64 || evenIx f.a)
  | .vtos f => f.g.ok && (!f.fa || f.k.val == 0) && (!f.w64 || evenIx f.a)
  | .stov f => f.g.ok && (!f.w64 || evenIx f.d)
  | .fadd f | .fsub f | .fmul f => f.g.ok && f.c.val == 0 && f.la.val == 0 && (!f.sb || f.b.val < 64)
  | .fma f => f.g.ok && f.la.val == 0 && (!f.sb || f.b.val < 64)
  | .fmin f | .fmax f => f.g.ok && (!f.sb || f.b.val < 64)
  | .fcmp f => f.g.ok && (!f.sb || f.b.val < 64)
  | .frcp f | .frsq f | .fsqrt f | .fex2 f | .flg2 f | .ftanh f =>
      f.g.ok && f.b.val == 0 && f.c.val == 0 && !f.sb
  | .fdot4 f => f.g.ok && f.fmt.eight
  | .cvt f => f.ok
  | .cvtFi f => f.g.ok && f.sfmt != .e8m0 && f.rnd != .sr && bselOk f.sfmt.bytes f.bsel.val &&
      (!f.ty.wide || evenIx f.d)
  | .cvtIf f => f.g.ok && f.dfmt != .e8m0 && bselOk f.dfmt.bytes f.bsel.val && (!f.ty.wide || evenIx f.a)
  | .qblkHist f => f.g.ok && evenIx f.d
  | .qblkClip f => f.g.ok && evenIx f.a
  | .qblkQ f => f.g.ok && f.fmt.eight
  | .ldl f => f.ok [.relaxed] 5
  | .stl f => f.ok [.relaxed] 5 && f.la.val == 0
  | .lds f | .ldd f => f.ok [.relaxed, .acquire] 2
  | .sts f | .std f => f.ok [.relaxed, .release] 2 && f.la.val == 0
  | .ldk f => f.ok [.relaxed, .acquire] 3
  | .stk f => f.ok [.relaxed, .release] 3 && f.la.val == 0
  | .ldg f => f.ok [.relaxed, .acquire] 5
  | .stg f => f.ok [.relaxed, .release] 5 && f.la.val == 0
  | .ldSpec f => f.ok [.relaxed] 5
  | .chk _ => true
  | .pf f _ => f.ok [.relaxed]
  | .cwb f => f.ok [.relaxed, .release]
  | .cinv f => f.ok [.relaxed]
  | .atomAdd f | .atomMin f | .atomMax f | .atomAnd f | .atomOr f | .atomXor f | .atomSwap f => f.ok allOrders
  | .atomCas f => f.okCas
  | .atomFaddF32 f | .atomFaddBf16 f => f.ok allOrders
  | .redAdd f | .redMin f | .redMax f | .redAnd f | .redOr f | .redXor f =>
      f.ok [.relaxed, .release] && f.la.val == 0
  | .redFaddF32 f | .redFaddBf16 f => f.ok [.relaxed, .release] && f.la.val == 0
  | .lck f | .lckTry f => f.g.ok
  | .unlk f => f.g.ok
  | .barInit f | .barExpect f => f.ok [.relaxed] false
  | .barArrive f => f.ok [.relaxed, .release] true
  | .barWait f => f.ok [.relaxed, .acquire] false
  | .barTest f => f.ok [.relaxed, .acquire] true
  | .fenceAcq _ | .fenceRel _ | .fenceFull _ => true
  | .fenceX p q sc => p != q && p.narrowest ≤ sc.code && q.narrowest ≤ sc.code
  | .cpy f => f.ok && f.dstride == 0 && f.sstride == 0
  | .cpy2d f => f.ok
  | .cpyWait _ _ => true
  | .tld f | .tst f => !f.side || f.pitch.val == 0
  | .tzero acc i => !acc || i.val < 4
  | .mmac f => f.ok
  | .mmacg f => fmtPairOk f.fa f.fb && (!f.mx || f.fa.bytes == 1)
  | .taccLd _ | .taccSt _ => true
  | .tcvt f => f.ok
  | .stAck f => f.ok [.relaxed, .release] 5 && f.la.val == 0
  | .fflArr f => f.g.ok && f.addr.ok && f.d.val == 0
  | .fflB32 f => f.g.ok && f.addr.ok
  | .fflB64 f => f.g.ok && f.addr.ok && evenIx f.d
  | .shtl f => f.ok
  | .shtlT f => f.ok && f.la.val == 0
  | .collAg _ p | .collRs _ p | .collAr _ p | .collBc _ p => 1 ≤ p.val && p.val ≤ 60
  | .shg _ | .shev _ _ | .shq _ _ _ | .pgq _ _ _ => true
  | .trap _ | .rfh => true
  | .mfs d n => sregOk d n false
  | .mts a n => sregOk a n true
  | .launch _ _ _ _ | .evsig _ => true
  | .qpop _ d _ | .qpopNb _ d _ => d.val ≤ 62
  | .bkpt _ | .trc _ _ | .smark _ => true
  | .tileOpExecute .. | .mmacgChunk .. | .instructionFetch | .resultLand .. | .lateTrapTake | .read ..
  | .fill .. | .drain .. | .perform .. | .storeAck .. | .atomReply .. | .redEntryApply .. | .movedResend ..
  | .engine .. | .land .. | .barrier .. | .deliver .. | .resolve .. | .tick | .expiredCopyDrop .. | .save ..
  | .restore .. | .teamMakeResident .. | .quantumExpiry .. | .remoteLoadBlock .. | .faultReplay ..
  | .carveChange .. | .lockRequest .. | .lockGrant .. | .lockHandoff .. | .resUpdate .. | .lckTryTimeout ..
  | .deadlockProbe .. | .lockTimeout .. | .proxyReadMiss .. | .invalidate .. | .invalidateAck .. | .recall ..
  | .proxyEvict .. | .requestResend .. | .requestFail .. | .lateReply .. | .ackSend .. | .flagApply ..
  | .shuttleStep .. | .shuttleReturn .. | .collStreamReceive .. | .collFail .. | .gtimerMatch .. | .deadline ..
  | .hostTailWrite .. | .hostAccess .. | .qpopWake .. | .launchPacket .. | .waitEvent .. | .signalEvent ..
  | .fencePacket .. | .markArm .. | .markDisarm .. | .markStart .. | .markFreeze .. | .markEvent ..
  | .gridComplete .. | .eventActivate .. | .eventDeactivate .. | .partitionRecompute .. | .contextCreate ..
  | .contextTeardown .. | .queueCreate .. | .jobFormation .. | .jobEnd | .opticalReconfigure .. | .islandSet ..
  | .dieLost .. | .moduleLost .. | .powerOn .. | .reset .. | .lifecycleChange .. | .getMeasurements ..
  | .usageRecordEmit .. | .interimRecord .. | .recordAck .. | .pageWalk .. | .absentAllocate ..
  | .gatherStart .. | .slReq .. | .slData .. | .slNak .. | .contrib .. | .cnAck .. | .cnFull .. | .cnNak ..
  | .roundCommit .. | .drainStart .. | .poolPressure .. | .frameReturn .. | .faultFlush ..
  | .movedEntryExpire .. | .breakpointHit | .logBreakpoint | .teamStop .. | .debugCont .. | .debugStep ..
  | .watchHit .. | .stitchRecordReturn .. | .sequencerEvent .. | .seqWrite .. | .whrdWrite .. | .whbaseWrite ..
  | .capbaseWrite .. | .registerWrite .. | .uncorrectableError .. | .correctedError .. | .writebackComplete ..
  | .illegalInstruction | .lockGrantWithdrawal .. | .responseCacheEntryExpiry .. | .contribResend ..
  | .hostPushedRecoveryImage .. => true

end Sys2Proof
end

