-- ==== Sys2Proof/Decode.lean ====
section
/-! DEFINITION. Instruction words (spec/02 R19 to R23): the fields of a word, the encoder, and the decoder. The decoder
reads the typed fields that CLASS and OP select, and accepts the word exactly when the instruction is well formed and
its encoding is the word itself: a reserved field that is not zero therefore never decodes (R23, R37). -/

namespace Sys2Proof

/-- The fields of a word (spec/02 R19) and, for a W format, its second word (R20). -/
structure Raw where
  cls : Nat
  op : Nat
  la : Nat
  pn : Nat
  pg : Nat
  d : Nat
  a : Nat
  b : Nat
  x : Nat
  w2 : Option Nat
deriving DecidableEq, Repr

/-- The first word that holds the fields (spec/02 R19). -/
def Raw.pack (r : Raw) : Nat :=
  ((((((((r.cls * 64 + r.op) * 16 + r.la) * 2 + r.pn) * 8 + r.pg) * 256 + r.d) * 256 + r.a) * 256 + r.b) * 2 ^ 20) + r.x

/-- The fields of a first word (spec/02 R19). -/
def Raw.unpack (w : Nat) (w2 : Option Nat) : Raw where
  cls := w / 2 ^ 58 % 64
  op := w / 2 ^ 52 % 64
  la := w / 2 ^ 48 % 16
  pn := w / 2 ^ 47 % 2
  pg := w / 2 ^ 44 % 8
  d := w / 2 ^ 36 % 256
  a := w / 2 ^ 28 % 256
  b := w / 2 ^ 20 % 256
  x := w % 2 ^ 20
  w2 := w2

/-- Why bytes are not an instruction: a class or OP that spec/02 R36 does not assign, a field outside its range, a
reserved field that is not zero or a check of the instruction that fails, a W format without its second word. -/
inductive DecErr where
  | unassigned
  | badField
  | reserved
  | noSecondWord
deriving DecidableEq, Repr

/-- n bits of v from bit lo. -/
def bits (v lo n : Nat) : Nat := v / 2 ^ lo % 2 ^ n
/-- One bit of v. -/
def bitAt (v lo : Nat) : Bool := v / 2 ^ lo % 2 == 1
/-- A flag as a number. -/
def b2n (b : Bool) : Nat := if b then 1 else 0
/-- A field as an index below n. -/
def fin? (n v : Nat) : Option (Fin n) := if h : v < n then some ⟨v, h⟩ else none

/-! ### Codes of the enumerated fields -/

/-- TYPE (spec/05 R69). -/
def IntTy.code : IntTy → Nat
  | .i32 => 0 | .u32 => 1 | .i64 => 2 | .u64 => 3
def IntTy.ofCode : Nat → Option IntTy
  | 0 => some .i32 | 1 => some .u32 | 2 => some .i64 | 3 => some .u64 | _ => none
/-- COND of cmp (spec/05 R72). -/
def ICond.code : ICond → Nat
  | .eq => 0 | .ne => 1 | .ltS => 2 | .leS => 3 | .gtS => 4 | .geS => 5 | .ltU => 6 | .leU => 7 | .gtU => 8 | .geU => 9
def ICond.ofCode : Nat → Option ICond
  | 0 => some .eq | 1 => some .ne | 2 => some .ltS | 3 => some .leS | 4 => some .gtS | 5 => some .geS
  | 6 => some .ltU | 7 => some .leU | 8 => some .gtU | 9 => some .geU | _ => none
/-- SEG (spec/05 R78). -/
def Seg.code : Seg → Nat
  | .w32 => 0 | .w16 => 1 | .w8 => 2 | .w4 => 3 | .w2 => 4
def Seg.ofCode : Nat → Option Seg
  | 0 => some .w32 | 1 => some .w16 | 2 => some .w8 | 3 => some .w4 | 4 => some .w2 | _ => none
/-- RED (spec/05 R81). -/
def RedOp.code : RedOp → Nat
  | .add => 0 | .minI => 1 | .maxI => 2 | .minU => 3 | .maxU => 4 | .and => 5 | .or => 6 | .xor => 7
def RedOp.ofCode : Nat → Option RedOp
  | 0 => some .add | 1 => some .minI | 2 => some .maxI | 3 => some .minU | 4 => some .maxU | 5 => some .and
  | 6 => some .or | 7 => some .xor | _ => none
/-- Format codes (spec/06 R85): binary8 is 0b1U_XPPP. -/
def Fmt.code : Fmt → Nat
  | .f32 => 0 | .f16 => 1 | .bf16 => 2 | .e4m3 => 3 | .e5m2 => 4 | .e8m0 => 5
  | .b8 u x p => 32 + 16 * b2n u + 8 * b2n x + (p.val + 1)
def Fmt.ofCode (c : Nat) : Option Fmt :=
  match c with
  | 0 => some .f32 | 1 => some .f16 | 2 => some .bf16 | 3 => some .e4m3 | 4 => some .e5m2 | 5 => some .e8m0
  | _ => if 32 ≤ c && c < 64 && c % 8 != 0 then
      (fin? 7 (c % 8 - 1)).map (fun p => .b8 (bitAt c 4) (bitAt c 3) p) else none
/-- FT (spec/06 R97). -/
def FT.code : FT → Nat
  | .f32 => 0 | .f16 => 1 | .bf16 => 2
def FT.ofCode : Nat → Option FT
  | 0 => some .f32 | 1 => some .f16 | 2 => some .bf16 | _ => none
/-- RND (spec/06 R97). -/
def Rnd.code : Rnd → Nat
  | .rne => 0 | .rtz => 1 | .rup => 2 | .rdn => 3 | .sr => 4 | .dyn => 5
def Rnd.ofCode : Nat → Option Rnd
  | 0 => some .rne | 1 => some .rtz | 2 => some .rup | 3 => some .rdn | 4 => some .sr | 5 => some .dyn | _ => none
/-- COND of fcmp (spec/06 R100). -/
def FCond.code : FCond → Nat
  | .eq => 0 | .ne => 1 | .lt => 2 | .le => 3 | .gt => 4 | .ge => 5 | .un => 6 | .ord => 7
def FCond.ofCode : Nat → Option FCond
  | 0 => some .eq | 1 => some .ne | 2 => some .lt | 3 => some .le | 4 => some .gt | 5 => some .ge | 6 => some .un
  | 7 => some .ord | _ => none
/-- Size of loads, stores and copies (spec/02 R22). -/
def MSize.code : MSize → Nat
  | .u8 => 0 | .s8 => 1 | .u16 => 2 | .s16 => 3 | .b32 => 4 | .b64 => 5 | .b128 => 6
def MSize.ofCode : Nat → Option MSize
  | 0 => some .u8 | 1 => some .s8 | 2 => some .u16 | 3 => some .s16 | 4 => some .b32 | 5 => some .b64
  | 6 => some .b128 | _ => none
/-- Size of atomics (spec/02 R22). -/
def ASize.code : ASize → Nat
  | .u32 => 4 | .s32 => 5 | .u64 => 6 | .s64 => 7
def ASize.ofCode : Nat → Option ASize
  | 4 => some .u32 | 5 => some .s32 | 6 => some .u64 | 7 => some .s64 | _ => none
/-- Order (spec/02 R22). -/
def Order.code : Order → Nat
  | .relaxed => 0 | .acquire => 1 | .release => 2 | .acqRel => 3
def Order.ofCode : Nat → Option Order
  | 0 => some .relaxed | 1 => some .acquire | 2 => some .release | 3 => some .acqRel | _ => none
/-- Scope (spec/01 R12). -/
def Scope.ofCode : Nat → Option Scope
  | 0 => some .core | 1 => some .quad | 2 => some .die | 3 => some .pkg | 4 => some .pod | 5 => some .sys | _ => none
/-- IX (spec/07 R110). -/
def Ix.code : Ix → Nat
  | .s32 => 0 | .u32 => 1 | .pair => 2 | .none => 3
def Ix.ofCode : Nat → Option Ix
  | 0 => some .s32 | 1 => some .u32 | 2 => some .pair | 3 => some .none | _ => none
/-- Paths (spec/09 R184). -/
def Path.code : Path → Nat
  | .group => 0 | .copy => 1 | .tile => 2 | .coll => 3 | .shard => 4
def Path.ofCode : Nat → Option Path
  | 0 => some .group | 1 => some .copy | 2 => some .tile | 3 => some .coll | 4 => some .shard | _ => none
/-- Copy levels (spec/10 R194). -/
def CpyLvl.code : CpyLvl → Nat
  | .scratch => 0 | .die => 1 | .pks => 2 | .global => 3
def CpyLvl.ofCode : Nat → Option CpyLvl
  | 0 => some .scratch | 1 => some .die | 2 => some .pks | 3 => some .global | _ => none

/-! ### Fields shared by several formats -/

/-- The guard fields PN and PG (spec/02 R29). -/
def Raw.guard (r : Raw) : Option Guard := (fin? 8 r.pg).map (fun p => ⟨p, r.pn == 1⟩)
/-- A memory operand: IX and base in A, index in B, offset in 19:8 (spec/07 R110). -/
def Raw.maddr (r : Raw) : Option MAddr := do
  let ix ← Ix.ofCode (bits r.a 6 2)
  let base ← fin? 64 (r.a % 64)
  let idx ← fin? 256 r.b
  pure ⟨ix, base, idx, BitVec.ofNat 12 (bits r.x 8 12)⟩
/-- Target offset, bits 43:20 (spec/02 R20). -/
def Raw.target (r : Raw) : BitVec 24 := BitVec.ofNat 24 (r.d * 65536 + r.a * 256 + r.b)
/-- The 28-bit immediate (spec/02 R20). -/
def Raw.imm (r : Raw) : BitVec 28 := BitVec.ofNat 28 (r.b * 2 ^ 20 + r.x)
/-- The bits of A that hold a memory operand's IX and base (spec/07 R110). -/
def MAddr.aField (m : MAddr) : Nat := m.ix.code * 64 + m.base.val

/-- A word of class and op with guard p7 and no lookahead (spec/02 R29, R30). -/
def Raw.plain (cls op : Nat) : Raw := ⟨cls, op, 0, 0, 7, 0, 0, 0, 0, none⟩
/-- A word with a guard. -/
def Raw.guarded (cls op : Nat) (g : Guard) : Raw := ⟨cls, op, 0, b2n g.pn, g.pg.val, 0, 0, 0, 0, none⟩
/-- A B-format word (spec/02 R20). -/
def Raw.branch (op : Nat) (t : BitVec 24) : Raw :=
  { Raw.plain 1 op with d := t.toNat / 65536, a := t.toNat / 256 % 256, b := t.toNat % 256 }


/-! ### Operand layouts: how each shape is read from and written to a word -/

/-- Class 0x02 (spec/05 R70). -/
def SInt.read (r : Raw) : Option SInt := do
  let ty ← IntTy.ofCode (bits r.x 10 2)
  pure ⟨ty, bitAt r.x 9, ← fin? 64 (r.x % 64), ← fin? 64 r.d, ← fin? 64 r.a, ← fin? 64 r.b, ← fin? 64 (bits r.x 12 8)⟩
def SInt.write (f : SInt) (op : Nat) : Raw :=
  { Raw.plain 2 op with
      d := f.d.val, a := f.a.val, b := f.b.val
      x := f.c.val * 4096 + f.ty.code * 1024 + b2n f.sat * 512 + f.n.val }
/-- Class 0x03 (spec/05 R70). -/
def VInt.read (r : Raw) : Option VInt := do
  let g ← r.guard
  let ty ← IntTy.ofCode (bits r.x 10 2)
  pure ⟨g, ty, bitAt r.x 9, bitAt r.x 8, ← fin? 64 (r.x % 64), ← fin? 256 r.d, ← fin? 256 r.a, ← fin? 256 r.b,
    ← fin? 256 (bits r.x 12 8)⟩
def VInt.write (f : VInt) (op : Nat) : Raw :=
  { Raw.guarded 3 op f.g with
      d := f.d.val, a := f.a.val, b := f.b.val
      x := f.c.val * 4096 + f.ty.code * 1024 + b2n f.sat * 512 + b2n f.sb * 256 + f.n.val }
/-- Register cmp (spec/05 R72). -/
def SCmpF.read (r : Raw) : Option SCmpF := do
  pure ⟨← ICond.ofCode (bits r.d 4 4), bitAt r.d 3, ← fin? 4 (r.d % 4), ← fin? 64 r.a, ← fin? 64 r.b⟩
def SCmpF.write (f : SCmpF) : Raw :=
  { Raw.plain 2 0x17 with d := f.cond.code * 16 + b2n f.w64 * 8 + f.q.val, a := f.a.val, b := f.b.val }
def VCmpF.read (r : Raw) : Option VCmpF := do
  pure ⟨← r.guard, ← ICond.ofCode (bits r.d 4 4), bitAt r.d 3, ← fin? 8 (r.d % 8), bitAt r.x 8, ← fin? 256 r.a,
    ← fin? 256 r.b⟩
def VCmpF.write (f : VCmpF) : Raw :=
  { Raw.guarded 3 0x17 f.g with
      d := f.cond.code * 16 + b2n f.w64 * 8 + f.p.val, a := f.a.val, b := f.b.val
      x := b2n f.sb * 256 }
/-- sel (spec/05 R73). -/
def SSelF.read (r : Raw) : Option SSelF := do
  pure ⟨← IntTy.ofCode (bits r.x 10 2), ← fin? 64 r.d, ← fin? 64 r.a, ← fin? 64 r.b, ← fin? 4 (bits r.x 12 2)⟩
def SSelF.write (f : SSelF) : Raw :=
  { Raw.plain 2 0x18 with d := f.d.val, a := f.a.val, b := f.b.val, x := f.q.val * 4096 + f.ty.code * 1024 }
def VSelF.read (r : Raw) : Option VSelF := do
  pure ⟨← r.guard, ← IntTy.ofCode (bits r.x 10 2), bitAt r.x 8, ← fin? 256 r.d, ← fin? 256 r.a, ← fin? 256 r.b,
    ← fin? 8 (bits r.x 12 3)⟩
def VSelF.write (f : VSelF) : Raw :=
  { Raw.guarded 3 0x18 f.g with
      d := f.d.val, a := f.a.val, b := f.b.val
      x := f.p.val * 4096 + f.ty.code * 1024 + b2n f.sb * 256 }
/-- movw (spec/05 R74). -/
def SMovwF.read (r : Raw) : Option SMovwF := do
  pure ⟨← IntTy.ofCode (bits r.x 10 2), ← fin? 64 r.d, BitVec.ofNat 64 (← r.w2)⟩
def SMovwF.write (f : SMovwF) : Raw :=
  { Raw.plain 2 0x1A with d := f.d.val, x := f.ty.code * 1024, w2 := some f.imm.toNat }
def VMovwF.read (r : Raw) : Option VMovwF := do
  pure ⟨← r.guard, ← IntTy.ofCode (bits r.x 10 2), ← fin? 256 r.d, BitVec.ofNat 64 (← r.w2)⟩
def VMovwF.write (f : VMovwF) : Raw :=
  { Raw.guarded 3 0x1A f.g with d := f.d.val, x := f.ty.code * 1024, w2 := some f.imm.toNat }
/-- I format (spec/05 R75). -/
def SImmF.read (r : Raw) : Option SImmF := do pure ⟨← fin? 64 r.d, ← fin? 64 r.a, r.imm⟩
def SImmF.write (f : SImmF) (op : Nat) : Raw :=
  { Raw.plain 2 op with d := f.d.val, a := f.a.val, b := f.imm.toNat / 2 ^ 20, x := f.imm.toNat % 2 ^ 20 }
def SCmpImmF.read (r : Raw) : Option SCmpImmF := do
  pure ⟨← ICond.ofCode (bits r.d 4 4), bitAt r.d 3, ← fin? 4 (r.d % 4), ← fin? 64 r.a, r.imm⟩
def SCmpImmF.write (f : SCmpImmF) : Raw :=
  { Raw.plain 2 0x27 with
      d := f.cond.code * 16 + b2n f.w64 * 8 + f.q.val, a := f.a.val
      b := f.imm.toNat / 2 ^ 20, x := f.imm.toNat % 2 ^ 20 }
def VImmF.read (r : Raw) : Option VImmF := do pure ⟨← r.guard, ← fin? 256 r.d, ← fin? 256 r.a, r.imm⟩
def VImmF.write (f : VImmF) (op : Nat) : Raw :=
  { Raw.guarded 3 op f.g with d := f.d.val, a := f.a.val, b := f.imm.toNat / 2 ^ 20, x := f.imm.toNat % 2 ^ 20 }
def VCmpImmF.read (r : Raw) : Option VCmpImmF := do
  pure ⟨← r.guard, ← ICond.ofCode (bits r.d 4 4), bitAt r.d 3, ← fin? 8 (r.d % 8), ← fin? 256 r.a, r.imm⟩
def VCmpImmF.write (f : VCmpImmF) : Raw :=
  { Raw.guarded 3 0x27 f.g with
      d := f.cond.code * 16 + b2n f.w64 * 8 + f.p.val, a := f.a.val
      b := f.imm.toNat / 2 ^ 20, x := f.imm.toNat % 2 ^ 20 }
/-- Class 0x04 (spec/05 R78). -/
def ShflF.read (r : Raw) : Option ShflF := do
  pure ⟨← fin? 16 r.la, ← r.guard, bitAt r.x 11, ← Seg.ofCode (bits r.x 8 3), bitAt r.x 7, ← fin? 32 (r.x % 32),
    ← fin? 256 r.d, ← fin? 256 r.a, ← fin? 256 r.b, ← fin? 8 (bits r.x 12 3)⟩
def ShflF.write (f : ShflF) (op : Nat) : Raw :=
  { Raw.guarded 4 op f.g with
      la := f.la.val, d := f.d.val, a := f.a.val, b := f.b.val
      x := f.pv.val * 4096 + b2n f.w64 * 2048 + f.seg.code * 256 + b2n f.sb * 128 + f.k.val }
def VoteF.read (r : Raw) : Option VoteF := do
  pure ⟨← fin? 16 r.la, ← r.guard, ← Seg.ofCode (bits r.x 8 3), ← fin? 8 r.d, ← fin? 8 r.a⟩
def VoteF.write (f : VoteF) (op : Nat) : Raw :=
  { Raw.guarded 4 op f.g with la := f.la.val, d := f.d.val, a := f.a.val, x := f.seg.code * 256 }
def BalF.read (r : Raw) : Option BalF := do pure ⟨← fin? 16 r.la, ← r.guard, ← fin? 64 r.d, ← fin? 8 r.a⟩
def BalF.write (f : BalF) : Raw := { Raw.guarded 4 6 f.g with la := f.la.val, d := f.d.val, a := f.a.val }
def ReduxF.read (r : Raw) : Option ReduxF := do
  pure ⟨← fin? 16 r.la, ← r.guard, bitAt r.x 11, ← RedOp.ofCode (bits r.x 5 3), ← fin? 64 r.d, ← fin? 256 r.a⟩
def ReduxF.write (f : ReduxF) : Raw :=
  { Raw.guarded 4 7 f.g with la := f.la.val, d := f.d.val, a := f.a.val, x := b2n f.w64 * 2048 + f.op.code * 32 }
def VtosF.read (r : Raw) : Option VtosF := do
  pure ⟨← fin? 16 r.la, ← r.guard, bitAt r.x 11, bitAt r.x 5, ← fin? 32 (r.x % 32), ← fin? 64 r.d, ← fin? 256 r.a⟩
def VtosF.write (f : VtosF) : Raw :=
  { Raw.guarded 4 8 f.g with
      la := f.la.val, d := f.d.val, a := f.a.val
      x := b2n f.w64 * 2048 + b2n f.fa * 32 + f.k.val }
def StovF.read (r : Raw) : Option StovF := do
  pure ⟨← fin? 16 r.la, ← r.guard, bitAt r.x 11, ← fin? 256 r.d, ← fin? 64 r.a⟩
def StovF.write (f : StovF) : Raw :=
  { Raw.guarded 4 9 f.g with la := f.la.val, d := f.d.val, a := f.a.val, x := b2n f.w64 * 2048 }
/-- Class 0x05 (spec/06 R97). -/
def FltF.read (r : Raw) : Option FltF := do
  pure ⟨← fin? 16 r.la, ← r.guard, ← FT.ofCode (bits r.x 10 2), ← Rnd.ofCode (bits r.x 7 3), bitAt r.x 6,
    bitAt r.x 5, ← fin? 256 r.d, ← fin? 256 r.a, ← fin? 256 r.b, ← fin? 256 (bits r.x 12 8)⟩
def FltF.write (f : FltF) (op : Nat) : Raw :=
  { Raw.guarded 5 op f.g with
      la := f.la.val, d := f.d.val, a := f.a.val, b := f.b.val
      x := f.c.val * 4096 + f.ft.code * 1024 + f.rnd.code * 128 + b2n f.sat * 64 + b2n f.sb * 32 }
def FMinF.read (r : Raw) : Option FMinF := do
  pure ⟨← r.guard, ← FT.ofCode (bits r.x 10 2), bitAt r.x 5, ← fin? 256 r.d, ← fin? 256 r.a, ← fin? 256 r.b⟩
def FMinF.write (f : FMinF) (op : Nat) : Raw :=
  { Raw.guarded 5 op f.g with d := f.d.val, a := f.a.val, b := f.b.val, x := f.ft.code * 1024 + b2n f.sb * 32 }
def FCmpF.read (r : Raw) : Option FCmpF := do
  pure ⟨← r.guard, ← FT.ofCode (bits r.x 10 2), bitAt r.x 5, ← FCond.ofCode (r.x % 16), ← fin? 8 r.d, ← fin? 256 r.a,
    ← fin? 256 r.b⟩
def FCmpF.write (f : FCmpF) : Raw :=
  { Raw.guarded 5 6 f.g with
      d := f.p.val, a := f.a.val, b := f.b.val
      x := f.ft.code * 1024 + b2n f.sb * 32 + f.cond.code }
def FDotF.read (r : Raw) : Option FDotF := do
  pure ⟨← r.guard, ← Fmt.ofCode (bits r.x 6 6), ← fin? 256 r.d, ← fin? 256 r.a, ← fin? 256 r.b,
    ← fin? 256 (bits r.x 12 8)⟩
def FDotF.write (f : FDotF) : Raw :=
  { Raw.guarded 5 0x0D f.g with d := f.d.val, a := f.a.val, b := f.b.val, x := f.c.val * 4096 + f.fmt.code * 64 }
/-- Class 0x06 (spec/06 R103, R105). -/
def CvtF.read (r : Raw) : Option CvtF := do
  pure ⟨← r.guard, ← Fmt.ofCode (bits r.x 14 6), ← Fmt.ofCode (bits r.x 8 6), ← Rnd.ofCode (bits r.x 5 3),
    bitAt r.x 4, ← fin? 4 (bits r.x 2 2), ← fin? 256 r.d, ← fin? 256 r.a⟩
def CvtF.write (f : CvtF) : Raw :=
  { Raw.guarded 6 0 f.g with
      d := f.d.val, a := f.a.val
      x := f.sfmt.code * 16384 + f.dfmt.code * 256 + f.rnd.code * 32 + b2n f.sat * 16 + f.bsel.val * 4 }
def CvtFiF.read (r : Raw) : Option CvtFiF := do
  pure ⟨← r.guard, ← Fmt.ofCode (bits r.x 14 6), ← IntTy.ofCode (bits r.x 8 2), ← Rnd.ofCode (bits r.x 5 3),
    ← fin? 4 (bits r.x 2 2), ← fin? 256 r.d, ← fin? 256 r.a⟩
def CvtFiF.write (f : CvtFiF) : Raw :=
  { Raw.guarded 6 1 f.g with
      d := f.d.val, a := f.a.val
      x := f.sfmt.code * 16384 + f.ty.code * 256 + f.rnd.code * 32 + f.bsel.val * 4 }
def CvtIfF.read (r : Raw) : Option CvtIfF := do
  pure ⟨← r.guard, ← IntTy.ofCode (bits r.x 14 2), ← Fmt.ofCode (bits r.x 8 6), ← Rnd.ofCode (bits r.x 5 3),
    bitAt r.x 4, ← fin? 4 (bits r.x 2 2), ← fin? 256 r.d, ← fin? 256 r.a⟩
def CvtIfF.write (f : CvtIfF) : Raw :=
  { Raw.guarded 6 2 f.g with
      d := f.d.val, a := f.a.val
      x := f.ty.code * 16384 + f.dfmt.code * 256 + f.rnd.code * 32 + b2n f.sat * 16 + f.bsel.val * 4 }
def QHistF.read (r : Raw) : Option QHistF := do
  pure ⟨← fin? 16 r.la, ← r.guard, ← fin? 256 r.d, ← fin? 256 r.a⟩
def QHistF.write (f : QHistF) : Raw :=
  { Raw.guarded 6 3 f.g with la := f.la.val, d := f.d.val, a := f.a.val, x := 1024 }
def QClipF.read (r : Raw) : Option QClipF := do
  pure ⟨← fin? 16 r.la, ← r.guard, ← fin? 64 r.d, ← fin? 256 r.a, ← fin? 64 r.b⟩
def QClipF.write (f : QClipF) : Raw :=
  { Raw.guarded 6 3 f.g with la := f.la.val, d := f.d.val, a := f.a.val, b := f.b.val, x := 2048 }
def QQuantF.read (r : Raw) : Option QQuantF := do
  pure ⟨← fin? 16 r.la, ← r.guard, ← Fmt.ofCode (bits r.x 4 6), ← fin? 4 (bits r.x 2 2), ← fin? 256 r.d,
    ← fin? 64 (bits r.x 12 8), ← fin? 256 r.a, ← fin? 64 r.b⟩
def QQuantF.write (f : QQuantF) : Raw :=
  { Raw.guarded 6 3 f.g with
      la := f.la.val, d := f.d.val, a := f.a.val, b := f.b.val
      x := f.c.val * 4096 + f.fmt.code * 16 + f.bsel.val * 4 }
/-- M format (spec/02 R20, R22; spec/07 R110). -/
def mX (off : BitVec 12) (sc : Scope) (o size : Nat) : Nat := off.toNat * 256 + sc.code * 32 + o * 8 + size
def MemF.read (r : Raw) : Option MemF := do
  pure ⟨← fin? 16 r.la, ← r.guard, ← fin? 256 r.d, ← r.maddr, ← Scope.ofCode (bits r.x 5 3),
    ← Order.ofCode (bits r.x 3 2), ← MSize.ofCode (r.x % 8)⟩
def MemF.write (f : MemF) (cls op : Nat) : Raw :=
  { Raw.guarded cls op f.g with
      la := f.la.val, d := f.d.val, a := f.addr.aField, b := f.addr.idx.val
      x := mX f.addr.off f.scope f.order.code f.size.code }
def LineF.read (r : Raw) : Option LineF := do
  pure ⟨← r.guard, ← r.maddr, ← Scope.ofCode (bits r.x 5 3), ← Order.ofCode (bits r.x 3 2)⟩
def LineF.write (f : LineF) (op size : Nat) : Raw :=
  { Raw.guarded 8 op f.g with
      a := f.addr.aField, b := f.addr.idx.val
      x := mX f.addr.off f.scope f.order.code size }
/-- Class 0x09 (spec/08 R140 to R142). -/
def AtomF.read (r : Raw) : Option AtomF := do
  pure ⟨← fin? 16 r.la, ← r.guard, ← fin? 256 r.d, ← r.maddr, ← Scope.ofCode (bits r.x 5 3),
    ← Order.ofCode (bits r.x 3 2), ← ASize.ofCode (r.x % 8)⟩
def AtomF.write (f : AtomF) (op : Nat) : Raw :=
  { Raw.guarded 9 op f.g with
      la := f.la.val, d := f.d.val, a := f.addr.aField, b := f.addr.idx.val
      x := mX f.addr.off f.scope f.order.code f.size.code }
def AtomFF.read (r : Raw) : Option AtomFF := do
  pure ⟨← fin? 16 r.la, ← r.guard, ← fin? 256 r.d, ← r.maddr, ← Scope.ofCode (bits r.x 5 3),
    ← Order.ofCode (bits r.x 3 2)⟩
def AtomFF.write (f : AtomFF) (op : Nat) : Raw :=
  { Raw.guarded 9 op f.g with
      la := f.la.val, d := f.d.val, a := f.addr.aField, b := f.addr.idx.val
      x := mX f.addr.off f.scope f.order.code 4 }
def LckF.read (r : Raw) : Option LckF := do
  pure ⟨← fin? 16 r.la, ← r.guard, ← fin? 64 r.d, ← fin? 64 (r.a % 64), BitVec.ofNat 12 (bits r.x 8 12),
    ← Scope.ofCode (bits r.x 5 3)⟩
def LckF.write (f : LckF) (op : Nat) : Raw :=
  { Raw.guarded 9 op f.g with la := f.la.val, d := f.d.val, a := 192 + f.base.val, x := mX f.off f.scope 1 4 }
def UnlkF.read (r : Raw) : Option UnlkF := do
  pure ⟨← r.guard, ← fin? 64 (r.a % 64), BitVec.ofNat 12 (bits r.x 8 12), ← Scope.ofCode (bits r.x 5 3)⟩
def UnlkF.write (f : UnlkF) : Raw :=
  { Raw.guarded 9 0x22 f.g with a := 192 + f.base.val, x := mX f.off f.scope 2 4 }
/-- Barriers and fences (spec/09 R177, R184). -/
def BarF.read (r : Raw) : Option BarF := do
  pure ⟨← fin? 16 r.la, ← fin? 64 r.d, ← fin? 64 (r.a % 64), BitVec.ofNat 12 (bits r.x 8 12), ← fin? 64 r.b,
    ← Scope.ofCode (bits r.x 5 3), ← Order.ofCode (bits r.x 3 2)⟩
def BarF.write (f : BarF) (op : Nat) : Raw :=
  { Raw.plain 10 op with
      la := f.la.val, d := f.d.val, a := 192 + f.base.val, b := f.b.val
      x := mX f.off f.scope f.order.code 0 }
def Raw.scope (r : Raw) : Option Scope := Scope.ofCode (bits r.x 5 3)
/-- Copy words and the copy descriptor (spec/10 R195). -/
def CpyF.read (r : Raw) : Option CpyF := do
  let w ← r.w2
  pure ⟨← fin? 64 r.d, ← fin? 64 r.a, ← fin? 64 r.b, ← fin? 64 (bits r.x 14 6), ← CpyLvl.ofCode (bits r.x 11 3),
    ← CpyLvl.ofCode (bits r.x 8 3), BitVec.ofNat 24 (bits w 40 24), BitVec.ofNat 24 (bits w 16 24), bitAt w 12,
    bitAt w 11, BitVec.ofNat 10 (w % 1024)⟩
def CpyF.write (f : CpyF) (op : Nat) : Raw :=
  { Raw.plain 11 op with
      d := f.d.val, a := f.a.val, b := f.b.val
      x := f.c.val * 16384 + f.dlv.code * 2048 + f.slv.code * 256
      w2 := some (f.dstride.toNat * 2 ^ 40 + f.sstride.toNat * 2 ^ 16 + b2n f.cnt * 4096 + b2n f.rmt * 2048 +
          f.objmod.toNat) }
/-- Class 0x0C (spec/10 R209). -/
def TileMvF.read (r : Raw) : Option TileMvF := do
  pure ⟨← fin? 8 r.d, ← fin? 64 (r.a % 64), BitVec.ofNat 12 (bits r.x 8 12), ← fin? 64 r.b, bitAt r.x 0⟩
def TileMvF.write (f : TileMvF) (op : Nat) : Raw :=
  { Raw.plain 12 op with d := f.t.val, a := 192 + f.base.val, b := f.pitch.val, x := f.off.toNat * 256 + b2n f.side }
def AccMvF.read (r : Raw) : Option AccMvF := do
  pure ⟨← fin? 4 r.d, ← fin? 64 (r.a % 64), BitVec.ofNat 12 (bits r.x 8 12), ← fin? 64 r.b⟩
def AccMvF.write (f : AccMvF) (op : Nat) : Raw :=
  { Raw.plain 12 op with d := f.acc.val, a := 192 + f.base.val, b := f.pitch.val, x := f.off.toNat * 256 }
def MmacF.read (r : Raw) : Option MmacF := do
  pure ⟨bitAt r.d 2, ← fin? 4 (r.d % 4), bitAt r.a 4, bitAt r.a 3, ← fin? 8 (r.a % 8), bitAt r.b 4, bitAt r.b 3,
    ← fin? 8 (r.b % 8), ← Fmt.ofCode (bits r.x 12 6), ← Fmt.ofCode (bits r.x 6 6), bitAt r.x 5⟩
def MmacF.write (f : MmacF) : Raw :=
  { Raw.plain 12 3 with
      d := b2n f.clr * 4 + f.acc.val, a := b2n f.ha * 16 + b2n f.ta * 8 + f.tA.val
      b := b2n f.hb * 16 + b2n f.tb * 8 + f.tB.val, x := f.fa.code * 4096 + f.fb.code * 64 + b2n f.mx * 32 }
def MmacgF.read (r : Raw) : Option MmacgF := do
  let w ← r.w2
  pure ⟨bitAt r.d 5, bitAt r.d 4, bitAt r.d 3, bitAt r.d 2, ← fin? 4 (r.d % 4), ← fin? 64 r.a, ← fin? 64 r.b,
    ← fin? 64 (bits r.x 12 8), ← Fmt.ofCode (bits r.x 6 6), ← Fmt.ofCode (r.x % 64), BitVec.ofNat 24 (bits w 40 24),
    BitVec.ofNat 24 (bits w 16 24)⟩
def MmacgF.write (f : MmacgF) : Raw :=
  { Raw.plain 12 4 with
      d := b2n f.tb * 32 + b2n f.ta * 16 + b2n f.mx * 8 + b2n f.clr * 4 + f.acc.val, a := f.a.val
      b := f.b.val, x := f.c.val * 4096 + f.fa.code * 64 + f.fb.code
      w2 := some (f.apitch.toNat * 2 ^ 40 + f.bpitch.toNat * 2 ^ 16) }
def TcvtF.read (r : Raw) : Option TcvtF := do
  pure ⟨bitAt r.d 3, ← fin? 8 (r.d % 8), ← fin? 4 r.a, ← fin? 64 r.b, ← Fmt.ofCode (bits r.x 14 6),
    ← Rnd.ofCode (bits r.x 11 3), bitAt r.x 10, bitAt r.x 9⟩
def TcvtF.write (f : TcvtF) : Raw :=
  { Raw.plain 12 7 with
      d := b2n f.h * 8 + f.t.val, a := f.acc.val, b := f.b.val
      x := f.fmt.code * 16384 + f.rnd.code * 2048 + b2n f.sat * 1024 + b2n f.mx * 512 }
/-- Class 0x0D (spec/11 R234). -/
def FflF.read (r : Raw) : Option FflF := do
  pure ⟨← r.guard, ← fin? 256 r.d, ← r.maddr, ← Scope.ofCode (bits r.x 5 3)⟩
def FflF.write (f : FflF) (size : Nat) : Raw :=
  { Raw.guarded 13 1 f.g with
      d := f.d.val, a := f.addr.aField, b := f.addr.idx.val
      x := mX f.addr.off f.scope 0 size }
def ShtlF.read (r : Raw) : Option ShtlF := do
  let w ← r.w2
  pure ⟨← fin? 16 r.la, ← r.guard, ← fin? 256 r.d, ← fin? 256 r.a, ← fin? 64 r.b, ← fin? 256 (bits r.x 12 8),
    ← fin? 8 (w % 8), BitVec.ofNat 36 (bits w 3 36)⟩
def ShtlF.write (f : ShtlF) (t : Nat) : Raw :=
  { Raw.guarded 13 2 f.g with
      la := f.la.val, d := f.d.val, a := f.a.val, b := f.b.val, x := f.c.val * 4096 + t
      w2 := some (f.stepw.toNat * 8 + f.nstep.val) }


/-! ### The encoder -/

/-- The fields of the instruction's words (spec/02 R36 and the encoding tables of the class chapters); a machine step has
none. -/
def encodeRaw : Instr → Option Raw
  | .bra t => some (Raw.branch 0 t)
  | .braDiv g t r => some { Raw.branch 1 t with pn := b2n g.pn, pg := g.pg.val, x := r.toNat * 16 }
  | .brq t q qn => some { Raw.branch 2 t with x := q.val * 4 + b2n qn * 2 }
  | .brx a => some { Raw.plain 1 3 with a := a.val }
  | .call t => some (Raw.branch 4 t)
  | .callx d a => some { Raw.plain 1 5 with d := d.val, a := a.val }
  | .ret a => some { Raw.plain 1 6 with a := a.val }
  | .join => some (Raw.plain 1 7)
  | .exit => some (Raw.plain 1 8)
  | .nop => some (Raw.plain 1 9)
  | .sadd f => some (f.write 0)
  | .ssub f => some (f.write 1)
  | .smulLo f => some (f.write 2)
  | .smulHi f => some (f.write 3)
  | .smad f => some (f.write 4)
  | .smin f => some (f.write 5)
  | .smax f => some (f.write 6)
  | .sabs f => some (f.write 7)
  | .sand f => some (f.write 8)
  | .sor f => some (f.write 9)
  | .sxor f => some (f.write 10)
  | .sandn f => some (f.write 11)
  | .snot f => some (f.write 12)
  | .sshl f => some (f.write 13)
  | .sshr f => some (f.write 14)
  | .ssar f => some (f.write 15)
  | .srot f => some (f.write 16)
  | .spopc f => some (f.write 17)
  | .sclz f => some (f.write 18)
  | .sctz f => some (f.write 19)
  | .sbrev f => some (f.write 20)
  | .sbfe f => some (f.write 21)
  | .sbfi f => some (f.write 22)
  | .scmp f => some (f.write)
  | .ssel f => some (f.write)
  | .smov f => some (f.write 25)
  | .smovw f => some (f.write)
  | .slea f => some (f.write 27)
  | .ssext f => some (f.write 28)
  | .szext f => some (f.write 29)
  | .saddImm f => some (f.write 32)
  | .sandImm f => some (f.write 33)
  | .sorImm f => some (f.write 34)
  | .sxorImm f => some (f.write 35)
  | .sshlImm f => some (f.write 36)
  | .sshrImm f => some (f.write 37)
  | .ssarImm f => some (f.write 38)
  | .scmpImm f => some (f.write)
  | .smovImm f => some (f.write 40)
  | .vadd f => some (f.write 0)
  | .vsub f => some (f.write 1)
  | .vmulLo f => some (f.write 2)
  | .vmulHi f => some (f.write 3)
  | .vmad f => some (f.write 4)
  | .vmin f => some (f.write 5)
  | .vmax f => some (f.write 6)
  | .vabs f => some (f.write 7)
  | .vand f => some (f.write 8)
  | .vor f => some (f.write 9)
  | .vxor f => some (f.write 10)
  | .vandn f => some (f.write 11)
  | .vnot f => some (f.write 12)
  | .vshl f => some (f.write 13)
  | .vshr f => some (f.write 14)
  | .vsar f => some (f.write 15)
  | .vrot f => some (f.write 16)
  | .vpopc f => some (f.write 17)
  | .vclz f => some (f.write 18)
  | .vctz f => some (f.write 19)
  | .vbrev f => some (f.write 20)
  | .vbfe f => some (f.write 21)
  | .vbfi f => some (f.write 22)
  | .vcmp f => some (f.write)
  | .vsel f => some (f.write)
  | .vmov f => some (f.write 25)
  | .vmovw f => some (f.write)
  | .vlea f => some (f.write 27)
  | .vsext f => some (f.write 28)
  | .vzext f => some (f.write 29)
  | .vaddImm f => some (f.write 32)
  | .vandImm f => some (f.write 33)
  | .vorImm f => some (f.write 34)
  | .vxorImm f => some (f.write 35)
  | .vshlImm f => some (f.write 36)
  | .vshrImm f => some (f.write 37)
  | .vsarImm f => some (f.write 38)
  | .vcmpImm f => some (f.write)
  | .vmovImm f => some (f.write 40)
  | .shflIdx f => some (f.write 0)
  | .shflUp f => some (f.write 1)
  | .shflDn f => some (f.write 2)
  | .shflXor f => some (f.write 3)
  | .voteAny f => some (f.write 4)
  | .voteAll f => some (f.write 5)
  | .voteBal f => some f.write
  | .redux f => some f.write
  | .vtos f => some f.write
  | .stov f => some f.write
  | .fadd f => some (f.write 0)
  | .fsub f => some (f.write 1)
  | .fmul f => some (f.write 2)
  | .fma f => some (f.write 3)
  | .fmin f => some (f.write 4)
  | .fmax f => some (f.write 5)
  | .fcmp f => some f.write
  | .frcp f => some (f.write 7)
  | .frsq f => some (f.write 8)
  | .fsqrt f => some (f.write 9)
  | .fex2 f => some (f.write 10)
  | .flg2 f => some (f.write 11)
  | .ftanh f => some (f.write 12)
  | .fdot4 f => some f.write
  | .cvt f => some f.write
  | .cvtFi f => some f.write
  | .cvtIf f => some f.write
  | .qblkHist f => some f.write
  | .qblkClip f => some f.write
  | .qblkQ f => some f.write
  | .ldl f => some (f.write 7 0)
  | .stl f => some (f.write 7 1)
  | .lds f => some (f.write 7 2)
  | .sts f => some (f.write 7 3)
  | .ldd f => some (f.write 7 4)
  | .std f => some (f.write 7 5)
  | .ldk f => some (f.write 7 6)
  | .stk f => some (f.write 7 7)
  | .ldg f => some (f.write 8 0)
  | .stg f => some (f.write 8 1)
  | .ldSpec f => some (f.write 8 2)
  | .chk t => some { Raw.branch 3 t with cls := 8 }
  | .pf f l2 => some (f.write 4 (b2n l2))
  | .cwb f => some (f.write 5 0)
  | .cinv f => some (f.write 6 0)
  | .atomAdd f => some (f.write 0)
  | .atomMin f => some (f.write 1)
  | .atomMax f => some (f.write 2)
  | .atomAnd f => some (f.write 3)
  | .atomOr f => some (f.write 4)
  | .atomXor f => some (f.write 5)
  | .atomSwap f => some (f.write 6)
  | .atomCas f => some (f.write 7)
  | .atomFaddF32 f => some (f.write 8)
  | .atomFaddBf16 f => some (f.write 9)
  | .redAdd f => some (f.write 16)
  | .redMin f => some (f.write 17)
  | .redMax f => some (f.write 18)
  | .redAnd f => some (f.write 19)
  | .redOr f => some (f.write 20)
  | .redXor f => some (f.write 21)
  | .redFaddF32 f => some (f.write 22)
  | .redFaddBf16 f => some (f.write 23)
  | .lck f => some (f.write 32)
  | .lckTry f => some (f.write 33)
  | .unlk f => some f.write
  | .barInit f => some (f.write 0)
  | .barArrive f => some (f.write 1)
  | .barExpect f => some (f.write 2)
  | .barWait f => some (f.write 3)
  | .barTest f => some (f.write 4)
  | .fenceAcq sc => some { Raw.plain 10 5 with x := sc.code * 32 }
  | .fenceRel sc => some { Raw.plain 10 6 with x := sc.code * 32 }
  | .fenceFull sc => some { Raw.plain 10 7 with x := sc.code * 32 }
  | .fenceX src dst sc => some { Raw.plain 10 8 with x := src.code * 2048 + dst.code * 256 + sc.code * 32 }
  | .cpy f => some (f.write 0)
  | .cpy2d f => some (f.write 1)
  | .cpyWait d n => some { Raw.plain 11 2 with d := d.val, x := n.val }
  | .tld f => some (f.write 0)
  | .tst f => some (f.write 1)
  | .tzero acc i => some { Raw.plain 12 2 with d := b2n acc * 8 + i.val }
  | .mmac f => some f.write
  | .mmacg f => some f.write
  | .taccLd f => some (f.write 5)
  | .taccSt f => some (f.write 6)
  | .tcvt f => some f.write
  | .stAck f => some (f.write 13 0)
  | .fflArr f => some (f.write 0)
  | .fflB32 f => some (f.write 4)
  | .fflB64 f => some (f.write 5)
  | .shtl f => some (f.write 0)
  | .shtlT f => some (f.write 1)
  | .collAg d p => some { Raw.plain 13 3 with d := d.val, a := p.val }
  | .collRs d p => some { Raw.plain 13 4 with d := d.val, a := p.val }
  | .collAr d p => some { Raw.plain 13 5 with d := d.val, a := p.val }
  | .collBc d p => some { Raw.plain 13 6 with d := d.val, a := p.val }
  | .shg a => some { Raw.plain 14 0 with a := a.val }
  | .shev a b => some { Raw.plain 14 1 with a := a.val, b := b.val }
  | .shq la d a => some { Raw.plain 14 2 with la := la.val, d := d.val, a := a.val }
  | .pgq la d a => some { Raw.plain 14 3 with la := la.val, d := d.val, a := a.val }
  | .trap code => some { Raw.plain 15 0 with x := code.toNat }
  | .rfh => some (Raw.plain 15 1)
  | .mfs d n => some { Raw.plain 15 2 with d := d.val, x := n.toNat }
  | .mts a n => some { Raw.plain 15 3 with a := a.val, x := n.toNat }
  | .launch la d a b => some { Raw.plain 15 4 with la := la.val, d := d.val, a := a.val, b := b.val }
  | .evsig a => some { Raw.plain 15 5 with a := a.val }
  | .qpop la d a => some { Raw.plain 15 6 with la := la.val, d := d.val, a := a.val }
  | .qpopNb la d a => some { Raw.plain 15 6 with la := la.val, d := d.val, a := a.val, x := 1 }
  | .bkpt code => some { Raw.plain 16 0 with x := code.toNat }
  | .trc a tag => some { Raw.plain 16 1 with a := a.val, x := tag.toNat }
  | .smark tag => some { Raw.plain 16 2 with x := tag.toNat }
  | .tileOpExecute .. | .mmacgChunk .. | .instructionFetch | .resultLand .. | .lateTrapTake | .read ..
  | .fill .. | .drain .. | .perform .. | .storeAck .. | .atomReply .. | .redEntryApply .. | .movedResend ..
  | .engine .. | .land .. | .barrier .. | .deliver .. | .resolve .. | .tick | .expiredCopyDrop .. | .save ..
  | .restore .. | .teamMakeResident .. | .quantumExpiry .. | .remoteLoadBlock .. | .faultReplay ..
  | .carveChange .. | .lockRequest .. | .lockGrant .. | .lockHandoff .. | .resUpdate .. | .lckTryTimeout ..
  | .deadlockProbe .. | .lockTimeout .. | .proxyReadMiss .. | .invalidate .. | .invalidateAck .. | .recall ..
  | .proxyEvict .. | .requestResend .. | .requestFail .. | .lateReply .. | .ackSend .. | .flagApply ..
  | .shuttleStep .. | .shuttleReturn .. | .collStreamReceive .. | .collFail .. | .gtimerMatch .. | .deadline ..
  | .hostTailWrite .. | .hostAccess .. | .qpopWake .. | .launchPacket .. | .waitEvent .. | .signalEvent ..
  | .fencePacket .. | .markArm .. | .markDisarm .. | .markStart .. | .markFreeze .. | .markEvent ..
  | .gridComplete .. | .eventActivate .. | .eventDeactivate .. | .partitionRecompute .. | .contextCreate ..
  | .contextTeardown .. | .queueCreate .. | .jobFormation .. | .jobEnd | .opticalReconfigure .. | .islandSet ..
  | .dieLost .. | .moduleLost .. | .powerOn .. | .reset .. | .lifecycleChange .. | .getMeasurements ..
  | .usageRecordEmit .. | .interimRecord .. | .recordAck .. | .pageWalk .. | .absentAllocate ..
  | .gatherStart .. | .slReq .. | .slData .. | .slNak .. | .contrib .. | .cnAck .. | .cnFull .. | .cnNak ..
  | .roundCommit .. | .drainStart .. | .poolPressure .. | .frameReturn .. | .faultFlush ..
  | .movedEntryExpire .. | .breakpointHit | .logBreakpoint | .teamStop .. | .debugCont .. | .debugStep ..
  | .watchHit .. | .stitchRecordReturn .. | .sequencerEvent .. | .seqWrite .. | .whrdWrite .. | .whbaseWrite ..
  | .capbaseWrite .. | .registerWrite .. | .uncorrectableError .. | .correctedError .. | .writebackComplete ..
  | .illegalInstruction | .lockGrantWithdrawal .. | .responseCacheEntryExpiry .. | .contribResend ..
  | .hostPushedRecoveryImage .. => none

/-- The words of an instruction, the first at the lower address (spec/02 R19, R25); none for a machine step. -/
def encode (i : Instr) : Option (List Nat) :=
  (encodeRaw i).map (fun r => match r.w2 with
    | none => [r.pack]
    | some w => [r.pack, w])

/-! ### The decoder -/

/-- Class 0x01 (spec/02 R36). -/
def readControl (r : Raw) : Option Instr :=
  match r.op with
  | 0x00 => some (.bra r.target)
  | 0x01 => r.guard.map (fun g => .braDiv g r.target (BitVec.ofNat 16 (bits r.x 4 16)))
  | 0x02 => (fin? 4 (bits r.x 2 2)).map (fun q => .brq r.target q (bitAt r.x 1))
  | 0x03 => (fin? 64 r.a).map .brx
  | 0x04 => some (.call r.target)
  | 0x05 => do pure (.callx (← fin? 256 r.d) (← fin? 64 r.a))
  | 0x06 => (fin? 256 r.a).map .ret
  | 0x07 => some .join
  | 0x08 => some .exit
  | 0x09 => some .nop
  | _ => none

/-- Class 0x02 (spec/02 R36). -/
def readScalar (r : Raw) : Option Instr :=
  match r.op with
  | 0x00 => (SInt.read r).map .sadd
  | 0x01 => (SInt.read r).map .ssub
  | 0x02 => (SInt.read r).map .smulLo
  | 0x03 => (SInt.read r).map .smulHi
  | 0x04 => (SInt.read r).map .smad
  | 0x05 => (SInt.read r).map .smin
  | 0x06 => (SInt.read r).map .smax
  | 0x07 => (SInt.read r).map .sabs
  | 0x08 => (SInt.read r).map .sand
  | 0x09 => (SInt.read r).map .sor
  | 0x0A => (SInt.read r).map .sxor
  | 0x0B => (SInt.read r).map .sandn
  | 0x0C => (SInt.read r).map .snot
  | 0x0D => (SInt.read r).map .sshl
  | 0x0E => (SInt.read r).map .sshr
  | 0x0F => (SInt.read r).map .ssar
  | 0x10 => (SInt.read r).map .srot
  | 0x11 => (SInt.read r).map .spopc
  | 0x12 => (SInt.read r).map .sclz
  | 0x13 => (SInt.read r).map .sctz
  | 0x14 => (SInt.read r).map .sbrev
  | 0x15 => (SInt.read r).map .sbfe
  | 0x16 => (SInt.read r).map .sbfi
  | 0x17 => (SCmpF.read r).map .scmp
  | 0x18 => (SSelF.read r).map .ssel
  | 0x19 => (SInt.read r).map .smov
  | 0x1A => (SMovwF.read r).map .smovw
  | 0x1B => (SInt.read r).map .slea
  | 0x1C => (SInt.read r).map .ssext
  | 0x1D => (SInt.read r).map .szext
  | 0x20 => (SImmF.read r).map .saddImm
  | 0x21 => (SImmF.read r).map .sandImm
  | 0x22 => (SImmF.read r).map .sorImm
  | 0x23 => (SImmF.read r).map .sxorImm
  | 0x24 => (SImmF.read r).map .sshlImm
  | 0x25 => (SImmF.read r).map .sshrImm
  | 0x26 => (SImmF.read r).map .ssarImm
  | 0x27 => (SCmpImmF.read r).map .scmpImm
  | 0x28 => (SImmF.read r).map .smovImm
  | _ => none

/-- Class 0x03 (spec/02 R36). -/
def readVector (r : Raw) : Option Instr :=
  match r.op with
  | 0x00 => (VInt.read r).map .vadd
  | 0x01 => (VInt.read r).map .vsub
  | 0x02 => (VInt.read r).map .vmulLo
  | 0x03 => (VInt.read r).map .vmulHi
  | 0x04 => (VInt.read r).map .vmad
  | 0x05 => (VInt.read r).map .vmin
  | 0x06 => (VInt.read r).map .vmax
  | 0x07 => (VInt.read r).map .vabs
  | 0x08 => (VInt.read r).map .vand
  | 0x09 => (VInt.read r).map .vor
  | 0x0A => (VInt.read r).map .vxor
  | 0x0B => (VInt.read r).map .vandn
  | 0x0C => (VInt.read r).map .vnot
  | 0x0D => (VInt.read r).map .vshl
  | 0x0E => (VInt.read r).map .vshr
  | 0x0F => (VInt.read r).map .vsar
  | 0x10 => (VInt.read r).map .vrot
  | 0x11 => (VInt.read r).map .vpopc
  | 0x12 => (VInt.read r).map .vclz
  | 0x13 => (VInt.read r).map .vctz
  | 0x14 => (VInt.read r).map .vbrev
  | 0x15 => (VInt.read r).map .vbfe
  | 0x16 => (VInt.read r).map .vbfi
  | 0x17 => (VCmpF.read r).map .vcmp
  | 0x18 => (VSelF.read r).map .vsel
  | 0x19 => (VInt.read r).map .vmov
  | 0x1A => (VMovwF.read r).map .vmovw
  | 0x1B => (VInt.read r).map .vlea
  | 0x1C => (VInt.read r).map .vsext
  | 0x1D => (VInt.read r).map .vzext
  | 0x20 => (VImmF.read r).map .vaddImm
  | 0x21 => (VImmF.read r).map .vandImm
  | 0x22 => (VImmF.read r).map .vorImm
  | 0x23 => (VImmF.read r).map .vxorImm
  | 0x24 => (VImmF.read r).map .vshlImm
  | 0x25 => (VImmF.read r).map .vshrImm
  | 0x26 => (VImmF.read r).map .vsarImm
  | 0x27 => (VCmpImmF.read r).map .vcmpImm
  | 0x28 => (VImmF.read r).map .vmovImm
  | _ => none

/-- Class 0x04 (spec/02 R36). -/
def readExchange (r : Raw) : Option Instr :=
  match r.op with
  | 0x00 => (ShflF.read r).map .shflIdx
  | 0x01 => (ShflF.read r).map .shflUp
  | 0x02 => (ShflF.read r).map .shflDn
  | 0x03 => (ShflF.read r).map .shflXor
  | 0x04 => (VoteF.read r).map .voteAny
  | 0x05 => (VoteF.read r).map .voteAll
  | 0x06 => (BalF.read r).map .voteBal
  | 0x07 => (ReduxF.read r).map .redux
  | 0x08 => (VtosF.read r).map .vtos
  | 0x09 => (StovF.read r).map .stov
  | _ => none

/-- Class 0x05 (spec/02 R36). -/
def readFloat (r : Raw) : Option Instr :=
  match r.op with
  | 0x00 => (FltF.read r).map .fadd
  | 0x01 => (FltF.read r).map .fsub
  | 0x02 => (FltF.read r).map .fmul
  | 0x03 => (FltF.read r).map .fma
  | 0x04 => (FMinF.read r).map .fmin
  | 0x05 => (FMinF.read r).map .fmax
  | 0x06 => (FCmpF.read r).map .fcmp
  | 0x07 => (FltF.read r).map .frcp
  | 0x08 => (FltF.read r).map .frsq
  | 0x09 => (FltF.read r).map .fsqrt
  | 0x0A => (FltF.read r).map .fex2
  | 0x0B => (FltF.read r).map .flg2
  | 0x0C => (FltF.read r).map .ftanh
  | 0x0D => (FDotF.read r).map .fdot4
  | _ => none

/-- Class 0x06 (spec/02 R36). -/
def readConvert (r : Raw) : Option Instr :=
  match r.op with
  | 0x00 => (CvtF.read r).map .cvt
  | 0x01 => (CvtFiF.read r).map .cvtFi
  | 0x02 => (CvtIfF.read r).map .cvtIf
  | 0x03 => if bits r.x 10 2 == 0 then (QQuantF.read r).map .qblkQ else if bits r.x 10 2 == 1 then (QHistF.read r).map .qblkHist else (QClipF.read r).map .qblkClip
  | _ => none

/-- Class 0x07 (spec/02 R36). -/
def readLocal (r : Raw) : Option Instr :=
  match r.op with
  | 0x00 => (MemF.read r).map .ldl
  | 0x01 => (MemF.read r).map .stl
  | 0x02 => (MemF.read r).map .lds
  | 0x03 => (MemF.read r).map .sts
  | 0x04 => (MemF.read r).map .ldd
  | 0x05 => (MemF.read r).map .std
  | 0x06 => (MemF.read r).map .ldk
  | 0x07 => (MemF.read r).map .stk
  | _ => none

/-- Class 0x08 (spec/02 R36). -/
def readGlobal (r : Raw) : Option Instr :=
  match r.op with
  | 0x00 => (MemF.read r).map .ldg
  | 0x01 => (MemF.read r).map .stg
  | 0x02 => (MemF.read r).map .ldSpec
  | 0x03 => some (.chk r.target)
  | 0x04 => (LineF.read r).map (fun f => .pf f (bitAt r.x 0))
  | 0x05 => (LineF.read r).map .cwb
  | 0x06 => (LineF.read r).map .cinv
  | _ => none

/-- Class 0x09 (spec/02 R36). -/
def readAtomic (r : Raw) : Option Instr :=
  match r.op with
  | 0x00 => (AtomF.read r).map .atomAdd
  | 0x01 => (AtomF.read r).map .atomMin
  | 0x02 => (AtomF.read r).map .atomMax
  | 0x03 => (AtomF.read r).map .atomAnd
  | 0x04 => (AtomF.read r).map .atomOr
  | 0x05 => (AtomF.read r).map .atomXor
  | 0x06 => (AtomF.read r).map .atomSwap
  | 0x07 => (AtomF.read r).map .atomCas
  | 0x08 => (AtomFF.read r).map .atomFaddF32
  | 0x09 => (AtomFF.read r).map .atomFaddBf16
  | 0x10 => (AtomF.read r).map .redAdd
  | 0x11 => (AtomF.read r).map .redMin
  | 0x12 => (AtomF.read r).map .redMax
  | 0x13 => (AtomF.read r).map .redAnd
  | 0x14 => (AtomF.read r).map .redOr
  | 0x15 => (AtomF.read r).map .redXor
  | 0x16 => (AtomFF.read r).map .redFaddF32
  | 0x17 => (AtomFF.read r).map .redFaddBf16
  | 0x20 => (LckF.read r).map .lck
  | 0x21 => (LckF.read r).map .lckTry
  | 0x22 => (UnlkF.read r).map .unlk
  | _ => none

/-- Class 0x0A (spec/02 R36). -/
def readBarrier (r : Raw) : Option Instr :=
  match r.op with
  | 0x00 => (BarF.read r).map .barInit
  | 0x01 => (BarF.read r).map .barArrive
  | 0x02 => (BarF.read r).map .barExpect
  | 0x03 => (BarF.read r).map .barWait
  | 0x04 => (BarF.read r).map .barTest
  | 0x05 => r.scope.map .fenceAcq
  | 0x06 => r.scope.map .fenceRel
  | 0x07 => r.scope.map .fenceFull
  | 0x08 => do pure (.fenceX (← Path.ofCode (bits r.x 11 3)) (← Path.ofCode (bits r.x 8 3)) (← r.scope))
  | _ => none

/-- Class 0x0B (spec/02 R36). -/
def readCopy (r : Raw) : Option Instr :=
  match r.op with
  | 0x00 => (CpyF.read r).map .cpy
  | 0x01 => (CpyF.read r).map .cpy2d
  | 0x02 => do pure (.cpyWait (← fin? 64 r.d) (← fin? 16 (r.x % 16)))
  | _ => none

/-- Class 0x0C (spec/02 R36). -/
def readTile (r : Raw) : Option Instr :=
  match r.op with
  | 0x00 => (TileMvF.read r).map .tld
  | 0x01 => (TileMvF.read r).map .tst
  | 0x02 => (fin? 8 (r.d % 8)).map (fun i => .tzero (bitAt r.d 3) i)
  | 0x03 => (MmacF.read r).map .mmac
  | 0x04 => (MmacgF.read r).map .mmacg
  | 0x05 => (AccMvF.read r).map .taccLd
  | 0x06 => (AccMvF.read r).map .taccSt
  | 0x07 => (TcvtF.read r).map .tcvt
  | _ => none

/-- Class 0x0D (spec/02 R36). -/
def readPod (r : Raw) : Option Instr :=
  match r.op with
  | 0x00 => (MemF.read r).map .stAck
  | 0x01 => if r.x % 8 == 0 then (FflF.read r).map .fflArr else if r.x % 8 == 4 then (FflF.read r).map .fflB32 else (FflF.read r).map .fflB64
  | 0x02 => if r.x % 2 == 0 then (ShtlF.read r).map .shtl else (ShtlF.read r).map .shtlT
  | 0x03 => do pure (.collAg (← fin? 64 r.d) (← fin? 64 r.a))
  | 0x04 => do pure (.collRs (← fin? 64 r.d) (← fin? 64 r.a))
  | 0x05 => do pure (.collAr (← fin? 64 r.d) (← fin? 64 r.a))
  | 0x06 => do pure (.collBc (← fin? 64 r.d) (← fin? 64 r.a))
  | _ => none

/-- Class 0x0E (spec/02 R36). -/
def readShard (r : Raw) : Option Instr :=
  match r.op with
  | 0x00 => (fin? 64 r.a).map .shg
  | 0x01 => do pure (.shev (← fin? 64 r.a) (← fin? 64 r.b))
  | 0x02 => do pure (.shq (← fin? 16 r.la) (← fin? 64 r.d) (← fin? 64 r.a))
  | 0x03 => do pure (.pgq (← fin? 16 r.la) (← fin? 64 r.d) (← fin? 64 r.a))
  | _ => none

/-- Class 0x0F (spec/02 R36). -/
def readSystem (r : Raw) : Option Instr :=
  match r.op with
  | 0x00 => some (.trap (BitVec.ofNat 12 r.x))
  | 0x01 => some .rfh
  | 0x02 => (fin? 256 r.d).map (fun d => .mfs d (BitVec.ofNat 12 r.x))
  | 0x03 => (fin? 256 r.a).map (fun a => .mts a (BitVec.ofNat 12 r.x))
  | 0x04 => do pure (.launch (← fin? 16 r.la) (← fin? 64 r.d) (← fin? 64 r.a) (← fin? 64 r.b))
  | 0x05 => (fin? 64 r.a).map .evsig
  | 0x06 => if r.x % 2 == 0 then do pure (.qpop (← fin? 16 r.la) (← fin? 64 r.d) (← fin? 64 r.a)) else do pure (.qpopNb (← fin? 16 r.la) (← fin? 64 r.d) (← fin? 64 r.a))
  | _ => none

/-- Class 0x10 (spec/02 R36). -/
def readDebug (r : Raw) : Option Instr :=
  match r.op with
  | 0x00 => some (.bkpt (BitVec.ofNat 12 r.x))
  | 0x01 => (fin? 64 r.a).map (fun a => .trc a (BitVec.ofNat 12 r.x))
  | 0x02 => some (.smark (BitVec.ofNat 12 r.x))
  | _ => none

/-- The OPs that spec/02 R36 assigns in each class. -/
def opAssigned (cls op : Nat) : Bool :=
  match cls with
  | 1 => op ≤ 9
  | 2 => op ≤ 29 || (32 ≤ op && op ≤ 40)
  | 3 => op ≤ 29 || (32 ≤ op && op ≤ 40)
  | 4 => op ≤ 9
  | 5 => op ≤ 13
  | 6 => op ≤ 3
  | 7 => op ≤ 7
  | 8 => op ≤ 6
  | 9 => op ≤ 9 || (16 ≤ op && op ≤ 23) || (32 ≤ op && op ≤ 34)
  | 10 => op ≤ 8
  | 11 => op ≤ 2
  | 12 => op ≤ 7
  | 13 => op ≤ 6
  | 14 => op ≤ 3
  | 15 => op ≤ 6
  | 16 => op ≤ 2
  | _ => false

/-- The W formats (spec/02 R25, R36): smovw, vmovw, cpy, cpy.2d, mmacg, shtl. -/
def isWide (cls op : Nat) : Bool :=
  ((cls == 2 || cls == 3) && op == 0x1A) || (cls == 11 && op ≤ 1) || (cls == 12 && op == 4) || (cls == 13 && op == 2)

/-- The instruction that the fields name, before the reserved fields are checked. -/
def readInstr (r : Raw) : Option Instr :=
  match r.cls with
  | 1 => readControl r
  | 2 => readScalar r
  | 3 => readVector r
  | 4 => readExchange r
  | 5 => readFloat r
  | 6 => readConvert r
  | 7 => readLocal r
  | 8 => readGlobal r
  | 9 => readAtomic r
  | 10 => readBarrier r
  | 11 => readCopy r
  | 12 => readTile r
  | 13 => readPod r
  | 14 => readShard r
  | 15 => readSystem r
  | 16 => readDebug r
  | _ => none

/-- Decode the words of an instruction: the first word, and the word after it when the format is W. -/
def decodeWords (w1 : Nat) (w2 : Option Nat) : Except DecErr Instr :=
  let h := Raw.unpack w1 none
  if !opAssigned h.cls h.op then .error .unassigned
  else
    let wide := isWide h.cls h.op
    if wide && w2.isNone then .error .noSecondWord
    else
      let r := { h with w2 := if wide then w2 else none }
      match readInstr r with
      | none => .error .badField
      | some i => if i.wf && encodeRaw i == some r then .ok i else .error .reserved

/-- A little-endian number from bytes (spec/00 R1). -/
def leNat : List Byte → Nat
  | [] => 0
  | b :: bs => b.toNat + 256 * leNat bs

/-- The n low bytes of a number, little-endian (spec/00 R1). -/
def leBytes : Nat → Nat → List Byte
  | 0, _ => []
  | n + 1, v => BitVec.ofNat 8 v :: leBytes n (v / 256)

/-- Decode the bytes at an instruction's address: total on any bytes, rejecting by name. -/
def decode (bs : List Byte) : Except DecErr Instr :=
  if bs.length < 8 then .error .unassigned
  else decodeWords (leNat (bs.take 8)) (if bs.length < 16 then none else some (leNat ((bs.drop 8).take 8)))

/-- The decoder on the bits of an opcode-table row: the bits above nbits are 0 up to the longest instruction, two
words. -/
def decodeTableWord (nbits w : Nat) : Option Instr :=
  match decode (leBytes 16 (w % 2 ^ nbits)) with
  | .ok i => some i
  | .error _ => none

end Sys2Proof
end

