-- ==== Sys2Proof/Machine/Mem.lean ====
section
/-! DEFINITION. Tables and sparse maps: the one way the model reads and writes keyed data. A sparse map lists its cells
by strictly rising address and lists no cell that equals what an unlisted one reads as; an unlisted byte of memory
reads 0 (spec/19 R346 for the LPDDR, log entry 4 for the CXL tier). -/

namespace Sys2Proof.Machine

/-- The entry of a key. -/
def tget [DecidableEq κ] : Table κ β → κ → Option β
  | [], _ => none
  | (k', v) :: t, k => if k' = k then some v else tget t k

/-- Set the entry of a key, in place when it has one. -/
def tset [DecidableEq κ] : Table κ β → κ → β → Table κ β
  | [], k, v => [(k, v)]
  | (k', v') :: t, k, v => if k' = k then (k, v) :: t else (k', v') :: tset t k v

/-- Remove a key. -/
def terase [DecidableEq κ] (t : Table κ β) (k : κ) : Table κ β := t.filter (fun e => e.1 ≠ k)

/-- The cell at an address, d when it is not listed. -/
def nget (d : β) : NMap β → Nat → β
  | [], _ => d
  | (a', v) :: m, a => if a' = a then v else nget d m a

/-- Insert a cell at its place in rising order. -/
def ninsert : NMap β → Nat → β → NMap β
  | [], a, v => [(a, v)]
  | (a', v') :: m, a, v => if a < a' then (a, v) :: (a', v') :: m else (a', v') :: ninsert m a v

/-- Set the cell at an address; a cell that equals d is not listed. -/
def nset [DecidableEq β] (d : β) (m : NMap β) (a : Nat) (v : β) : NMap β :=
  let m' := m.filter (fun c => c.1 ≠ a)
  if v = d then m' else ninsert m' a v

/-- The canonical form: rising addresses, no listed default. -/
def nwf [DecidableEq β] (d : β) : NMap β → Bool
  | [] => true
  | (a, v) :: m => decide (v ≠ d) && m.all (fun c => decide (a < c.1)) && nwf d m

/-- The canonical form of a memory. -/
def Memory.wf (m : Memory) : Bool := nwf (0#8) m

/-- One byte of a memory. -/
def mread (m : Memory) (a : Nat) : Byte := nget 0#8 m a
/-- Write one byte of a memory. -/
def mwrite (m : Memory) (a : Nat) (b : Byte) : Memory := nset 0#8 m a b

/-- n bytes from an address up. -/
def mreadN (m : Memory) (a : Nat) : Nat → List Byte
  | 0 => []
  | n + 1 => mread m a :: mreadN m (a + 1) n

/-- Write bytes from an address up. -/
def mwriteN (m : Memory) (a : Nat) : List Byte → Memory
  | [] => m
  | b :: bs => mwriteN (mwrite m a b) (a + 1) bs

/-- Write bytes at offsets from a base, in the order of the list. -/
def mwriteAt (m : Memory) (base : Nat) : List (Nat × Byte) → Memory
  | [] => m
  | (o, b) :: bs => mwriteAt (mwrite m (base + o) b) base bs

/-- Zero n bytes from an address up: they are no longer listed. -/
def mclear (m : Memory) (a n : Nat) : Memory := m.filter (fun c => c.1 < a || a + n ≤ c.1)

/-- The bytes of one region, at their offsets from its base. -/
def mslice (m : Memory) (a n : Nat) : Memory :=
  (m.filter (fun c => a ≤ c.1 && c.1 < a + n)).map (fun c => (c.1 - a, c.2))

/-- Write every listed byte of a slice at its offset from a base. -/
def mpaste (m : Memory) (a : Nat) (sl : Memory) : Memory := sl.foldl (fun m c => mwrite m (a + c.1) c.2) m

/-- A little-endian value of a memory. -/
def mnat (m : Memory) (a n : Nat) : Nat := (mreadN m a n).foldr (fun b acc => b.toNat + 256 * acc) 0

/-- The n low bytes of a value, little-endian (spec/00 R1). -/
def toBytes : Nat → Nat → List Byte
  | 0, _ => []
  | n + 1, v => BitVec.ofNat 8 v :: toBytes n (v / 256)

/-- A little-endian value from bytes (spec/00 R1). -/
def ofBytes (bs : List Byte) : Nat := bs.foldr (fun b acc => b.toNat + 256 * acc) 0

end Sys2Proof.Machine
end

