-- ==== Sys2Proof/Machine/Flags.lean ====
section
/-! DEFINITION. Number formats, the one rounding function and the FMODE flags (spec/06 R86 to R101): an exact value is
a sign, a natural significand and a power of two; sticky says that the true magnitude lies strictly between the
significand and its successor. -/

namespace Sys2Proof

/-- An exact value (spec/06 R93). -/
inductive Val where
  | nan (signalling : Bool)
  | inf (neg : Bool)
  | fin (neg : Bool) (m : Nat) (e : Int) (sticky : Bool)
deriving DecidableEq, Repr

/-- FMODE flags as five bits: NX 0, UF 1, OF 2, DZ 3, NV 4; they lie at bits 12:8 of FMODE (spec/06 R95). -/
abbrev Flags := BitVec 5
def Flags.nx : Flags := 1#5
def Flags.uf : Flags := 2#5
def Flags.ofl : Flags := 4#5
def Flags.dz : Flags := 8#5
def Flags.nv : Flags := 16#5

/-- The parameters of a format: precision with the implicit bit, exponent of the smallest quantum, largest finite code
of positive sign, infinities, NaN code written, sign bit, negative zero (spec/06 R86, R88, R91). -/
structure FmtP where
  p : Nat
  qmin : Int
  maxCode : Nat
  inf : Option Nat
  nan : Nat
  signBit : Option Nat
  negZero : Bool
deriving DecidableEq, Repr

/-- The binary8pP exponent width and bias (spec/06 R88). -/
def b8W (u : Bool) (p : Nat) : Nat := if u then 9 - p else 8 - p

/-- The parameters of each format. E8M0 is only a source; its row is not used for rounding (R92). -/
def Fmt.par : Fmt → FmtP
  | .f32 => ⟨24, -149, 0x7F7FFFFF, some 0x7F800000, 0x7FC00000, some 31, true⟩
  | .f16 => ⟨11, -24, 0x7BFF, some 0x7C00, 0x7E00, some 15, true⟩
  | .bf16 => ⟨8, -133, 0x7F7F, some 0x7F80, 0x7FC0, some 15, true⟩
  | .e4m3 => ⟨4, -9, 0x7E, none, 0x7F, some 7, true⟩
  | .e5m2 => ⟨3, -16, 0x7B, some 0x7C, 0x7E, some 7, true⟩
  | .e8m0 => ⟨1, -127, 0xFE, none, 0xFF, none, false⟩
  | .b8 u x p =>
    let pp := p.val + 1
    let bias : Int := 2 ^ (b8W u pp - 1)
    ⟨pp, 2 - bias - pp, if u then (if x then 0xFD else 0xFE) else (if x then 0x7E else 0x7F),
      if x then some (if u then 0xFE else 0x7F) else none, if u then 0xFF else 0x80,
      if u then none else some 7, false⟩

/-- The magnitude of a code of the format without special codes: significand and exponent (spec/06 R86, R88). -/
def FmtP.mag (f : FmtP) (c : Nat) : Nat × Int :=
  let e := c / 2 ^ (f.p - 1)
  let t := c % 2 ^ (f.p - 1)
  if e = 0 then (if f.p = 1 then (0, f.qmin) else (t, f.qmin)) else (2 ^ (f.p - 1) + t, f.qmin + (e - 1 : Nat))

/-- The value of a code (spec/06 R86, R88, R91, R92). -/
def Fmt.val (f : Fmt) (code : Nat) : Val :=
  match f with
  | .e8m0 => if code % 256 = 255 then .nan false else .fin false 1 ((code % 256 : Nat) - 127) false
  | .b8 u x p =>
    let par := Fmt.par (.b8 u x p)
    let c := code % 256
    if c = par.nan then .nan false
    else
      let neg := !u && 128 ≤ c
      let mg := if neg then c - 128 else c
      if par.inf = some mg then .inf neg
      else let me := par.mag mg
           .fin neg me.1 me.2 false
  | .e4m3 =>
    let c := code % 256
    let neg := decide (128 ≤ c)
    if c % 128 = 127 then .nan false else let me := (Fmt.par .e4m3).mag (c % 128); .fin neg me.1 me.2 false
  | .e5m2 =>
    let c := code % 256
    let neg := decide (128 ≤ c)
    if c % 128 = 0x7C then .inf neg else if 0x7C < c % 128 then .nan false
    else let me := (Fmt.par .e5m2).mag (c % 128); .fin neg me.1 me.2 false
  | .f32 | .f16 | .bf16 =>
    let par := f.par
    let sb := par.signBit.getD 0
    let c := code % 2 ^ (sb + 1)
    let neg := decide (2 ^ sb ≤ c)
    let mg := c % 2 ^ sb
    let i := par.inf.getD 0
    if mg = i then .inf neg
    else if i < mg then .nan (mg / 2 ^ (par.p - 2) % 2 = 0)
    else let me := par.mag mg; .fin neg me.1 me.2 false

/-- floor(log2) of a positive significand with its exponent. -/
def floorLog2 (m : Nat) (e : Int) : Int := (Nat.log2 m : Int) + e

/-- Shift a natural number by a power of two, towards zero. -/
def shiftE (m : Nat) (k : Int) : Nat := if 0 ≤ k then m * 2 ^ k.toNat else m / 2 ^ (-k).toNat

/-- Which of two magnitudes m1·2^e1, m2·2^e2 is larger (both exact). -/
def magLt (m1 : Nat) (e1 : Int) (m2 : Nat) (e2 : Int) : Bool :=
  if e1 ≤ e2 then m1 < m2 * 2 ^ (e2 - e1).toNat else m1 * 2 ^ (e1 - e2).toNat < m2

/-- Rounding mode after DYN has been resolved (spec/06 R93). -/
inductive RMode where
  | rne | rtz | rup | rdn | sr
deriving DecidableEq, Repr

/-- One neighbour of |x| in the grid of quantum 2^q: the number of quanta, and whether x was inexact (spec/06 R93). For
a tie under RNE the neighbour with an even code is taken; evenLo says whether the lower one's code is even. r is the
draw of stochastic rounding (R94). -/
def pickQuanta (neg : Bool) (m : Nat) (e : Int) (st : Bool) (q : Int) (mode : RMode) (r : Nat)
    (evenLo : Nat → Bool) : Nat × Bool :=
  let lo := shiftE m (e - q)
  let k := (q - e).toNat
  let rem := if e < q then m % 2 ^ k else 0
  let inexact := decide (rem ≠ 0) || st
  if !inexact then (lo, false)
  else
    let half := if e < q then 2 ^ k else 2
    let up : Bool := match mode with
      | .rne => if 2 * rem > half then true
                else if 2 * rem = half then (st || !evenLo lo) else false
      | .rtz => false
      | .rup => !neg
      | .rdn => neg
      | .sr => decide (r < rem * 2 ^ 32 / half)
    (if up then lo + 1 else lo, true)

/-- The code of n quanta of 2^q (with n at most 2^p), with the exponent unbounded (spec/06 R93). -/
def FmtP.codeOf (f : FmtP) (n : Nat) (q : Int) : Nat :=
  let n' := if n = 2 ^ f.p then n / 2 else n
  let q' := if n = 2 ^ f.p then q + 1 else q
  if n' < 2 ^ (f.p - 1) || n' = 0 then n' else (q' - f.qmin + 1).toNat * 2 ^ (f.p - 1) + (n' - 2 ^ (f.p - 1))

/-- The code of a magnitude with its sign. -/
def FmtP.signed (f : FmtP) (neg : Bool) (c : Nat) : Nat :=
  match f.signBit with
  | some b => if neg then c + 2 ^ b else c
  | none => c

/-- The rounding function of spec/06 R93, with the flags it sets. r is the stochastic draw, which the rounding that decides tininess
uses too (log entry 88). -/
def roundTo (x : Val) (fm : Fmt) (mode : RMode) (sat : Bool) (r : Nat) : Nat × Flags :=
  let f := fm.par
  match x with
  | .nan sig => (f.nan, if sig then .nv else 0#5)
  | .inf neg =>
    if f.signBit.isNone && neg then (if sat then (0, .nx) else (f.nan, .nv))
    else if sat then (f.signed neg f.maxCode, .nx)
    else match f.inf with
      | some i => (f.signed neg i, 0#5)
      | none => (f.nan, .nv)
  | .fin neg m e st =>
    if m = 0 && !st then (if f.negZero then f.signed neg 0 else 0, 0#5)
    else
      let top := if m = 0 then e - 1 else floorLog2 m e
      let qn : Int := top - (f.p - 1 : Nat)
      let q := max qn f.qmin
      let even (qq : Int) (n : Nat) : Bool := f.codeOf n qq % 2 = 0
      let y := pickQuanta neg m e st q mode r (even q)
      let inexact := y.2
      let yn := pickQuanta neg m e st qn mode r (even (max qn f.qmin))
      let tiny := magLt yn.1 qn 1 (f.qmin + (f.p - 1 : Nat))
      let nx : Flags := if inexact then .nx else 0#5
      let uf : Flags := if inexact && tiny then .uf else 0#5
      if y.1 = 0 then (if f.negZero then f.signed neg 0 else 0, nx ||| uf)
      else if f.signBit.isNone && neg then (if sat then (0, .nx) else (f.nan, .nv))
      else
        let mx := f.mag f.maxCode
        if magLt mx.1 mx.2 y.1 q then
          let out := .ofl ||| .nx
          if sat then (f.signed neg f.maxCode, out)
          else
            let toinf := match mode with
              | .rne | .sr => true
              | .rup => !neg
              | .rdn => neg
              | .rtz => false
            if toinf then (match f.inf with
              | some i => (f.signed neg i, out)
              | none => (f.nan, out))
            else (f.signed neg f.maxCode, out)
        else (f.signed neg (f.codeOf y.1 q), nx ||| uf)

/-- One step of the Galois LFSR of spec/06 R94: the draw and the next state. -/
def lfsr (seed : Word) (lane : Nat) : Nat × Word :=
  let s := if seed = 0#32 then BitVec.ofNat 32 (lane + 1) else seed
  let n := s >>> 1
  (s.toNat, if s.getLsbD 0 then n ^^^ 0x80200003#32 else n)

/-- Resolve RND with FMODE.RM (spec/06 R95, R97). -/
def Rnd.mode (r : Rnd) (rm : Nat) : RMode :=
  match r with
  | .rne => .rne | .rtz => .rtz | .rup => .rup | .rdn => .rdn | .sr => .sr
  | .dyn => match rm with
    | 1 => .rtz | 2 => .rup | 3 => .rdn | 4 => .sr | _ => .rne

/-- SR read from FMODE rounds as RNE where the instruction has no stochastic form (spec/06 R103, spec/10 R220). -/
def RMode.noSr : RMode → RMode
  | .sr => .rne
  | m => m

/-! ### Exact arithmetic -/

/-- Align two magnitudes to one exponent. -/
def align (m1 : Nat) (e1 : Int) (m2 : Nat) (e2 : Int) : Nat × Nat × Int :=
  if e1 ≤ e2 then (m1, m2 * 2 ^ (e2 - e1).toNat, e1) else (m1 * 2 ^ (e1 - e2).toNat, m2, e2)

/-- Exact sum; zeroNeg is the sign of an exact zero sum of opposite signs. ∞ − ∞ is NaN with NV (spec/06 R99). -/
def Val.add (x y : Val) (zeroNeg : Bool) : Val × Flags :=
  match x, y with
  | .nan a, .nan b => (.nan (a || b), 0#5)
  | .nan a, _ => (.nan a, 0#5)
  | _, .nan b => (.nan b, 0#5)
  | .inf a, .inf b => if a = b then (.inf a, 0#5) else (.nan false, .nv)
  | .inf a, _ => (.inf a, 0#5)
  | _, .inf b => (.inf b, 0#5)
  | .fin n1 m1 e1 _, .fin n2 m2 e2 _ =>
    let (a, b, e) := align m1 e1 m2 e2
    if n1 = n2 then (.fin n1 (a + b) e false, 0#5)
    else if a = b then (.fin (if m1 = 0 && m2 = 0 then zeroNeg else zeroNeg) 0 e false, 0#5)
    else if b < a then (.fin n1 (a - b) e false, 0#5)
    else (.fin n2 (b - a) e false, 0#5)

/-- Exact product; 0 × ∞ is NaN with NV (spec/06 R99). -/
def Val.mul (x y : Val) : Val × Flags :=
  match x, y with
  | .nan a, .nan b => (.nan (a || b), 0#5)
  | .nan a, _ => (.nan a, 0#5)
  | _, .nan b => (.nan b, 0#5)
  | .inf a, .inf b => (.inf (a != b), 0#5)
  | .inf a, .fin n m _ _ => if m = 0 then (.nan false, .nv) else (.inf (a != n), 0#5)
  | .fin n m _ _, .inf b => if m = 0 then (.nan false, .nv) else (.inf (n != b), 0#5)
  | .fin n1 m1 e1 _, .fin n2 m2 e2 _ => (.fin (n1 != n2) (m1 * m2) (e1 + e2) false, 0#5)

/-- Negation (spec/06 R99, fsub). -/
def Val.neg : Val → Val
  | .nan s => .nan s
  | .inf n => .inf (!n)
  | .fin n m e st => .fin (!n) m e st

/-- Multiply a finite value by a power of two (spec/06 R108, spec/10 R220). -/
def Val.scale : Val → Int → Val
  | .fin n m e st, k => .fin n m (e + k) st
  | v, _ => v

/-- Signalling NaN (spec/06 R87). -/
def Val.isSnan : Val → Bool
  | .nan true => true
  | _ => false
def Val.isNan : Val → Bool
  | .nan _ => true
  | _ => false
def Val.isZero : Val → Bool
  | .fin _ m _ st => m == 0 && !st
  | _ => false
/-- Finite and not zero. -/
def Val.isFiniteNz : Val → Bool
  | .fin _ m _ _ => m != 0
  | _ => false
/-- floor(log2 |x|) of a finite non-zero value. -/
def Val.log2 : Val → Int
  | .fin _ m e _ => floorLog2 m e
  | _ => 0

/-- Order of two values that are not NaN: less, with −0 equal to +0. -/
def Val.lt (x y : Val) : Bool :=
  match x, y with
  | .inf a, .inf b => a && !b
  | .inf a, _ => a
  | _, .inf b => !b
  | .fin n1 m1 e1 _, .fin n2 m2 e2 _ =>
    if m1 = 0 && m2 = 0 then false
    else if m1 = 0 then !n2 else if m2 = 0 then n1
    else if n1 && !n2 then true else if !n1 && n2 then false
    else if n1 then magLt m2 e2 m1 e1 else magLt m1 e1 m2 e2
  | _, _ => false

/-- The matrix-sum rule: an exact sum of c and products, with its specials (spec/06 R101). -/
def exactSum (c : Val) (ps : List Val) : Val :=
  ps.foldl (fun acc p => (Val.add acc p false).1) c

/-! ### Division, roots and the transcendental functions (spec/06 R98): each gives the truncation of the exact result
to at least 400 bits, sticky when the result is not exact -/

/-- The integer square root, bit by bit. -/
def isqrtAux (n : Nat) : Nat → Nat → Nat
  | 0, r => if (r + 1) * (r + 1) ≤ n then r + 1 else r
  | i + 1, r => let r' := r + 2 ^ (i + 1)
                if r' * r' ≤ n then isqrtAux n i r' else isqrtAux n i r
def isqrt (n : Nat) : Nat := isqrtAux n (Nat.log2 n / 2 + 1) 0

/-- 1 / a for a finite non-zero a. -/
def recip (neg : Bool) (m : Nat) (e : Int) : Val :=
  let k := Nat.log2 m + 400
  .fin neg (2 ^ k / m) (-(k : Int) - e) (2 ^ k % m ≠ 0)

/-- √a for a positive finite a. -/
def sqrtPos (m : Nat) (e : Int) : Val :=
  let odd := e % 2 ≠ 0
  let m' := (if odd then 2 * m else m) * 2 ^ 800
  let e' := (if odd then e - 1 else e) - 800
  let r := isqrt m'
  .fin false r (e' / 2) (r * r ≠ m')

/-- 1 / √a for a positive finite a. -/
def rsqrtPos (m : Nat) (e : Int) : Val :=
  let odd := e % 2 ≠ 0
  let m' := if odd then 2 * m else m
  let e' := if odd then e - 1 else e
  let k := 2 * (Nat.log2 m' + 400)
  let q := 2 ^ k / m'
  let r := isqrt q
  .fin false r (-(e' + k) / 2) (q * m' ≠ 2 ^ k || r * r ≠ q)

/-- Fixed-point scale of the interval arithmetic. -/
def ivS : Nat := 2 ^ 512

/-- Series of exp for an interval within [0, 1]: terms from n on, the current term's bounds. -/
def expSeries (lo hi : Nat) : Nat → Nat → Nat → Nat → Nat × Nat
  | 0, _, _, th => (0, th + 1)
  | k + 1, n, tl, th =>
    let r := expSeries lo hi k (n + 1) (tl * lo / ivS / n) (th * hi / ivS / n + 1)
    (tl + r.1, th + r.2)
def ivExp (lo hi : Nat) : Nat × Nat := expSeries lo hi 130 1 ivS ivS

/-- Series of atanh for an interval within [0, 1/3]: Σ z^(2k+1) / (2k+1). -/
def atanhSeries (l2 h2 : Nat) : Nat → Nat → Nat → Nat → Nat × Nat
  | 0, _, _, th => (0, th + 1)
  | k + 1, n, tl, th =>
    let r := atanhSeries l2 h2 k (n + 2) (tl * l2 / ivS) (th * h2 / ivS + 1)
    (tl / n + r.1, th / n + 1 + r.2)
def ivAtanh (lo hi : Nat) : Nat × Nat := atanhSeries (lo * lo / ivS) (hi * hi / ivS + 1) 180 1 lo hi

/-- ln 2 = 2 atanh(1/3). -/
def ivLn2 : Nat × Nat :=
  let r := ivAtanh (ivS / 3) (ivS / 3 + 1)
  (2 * r.1, 2 * r.2)

/-- The truncation at 2^-400 of a value enclosed in an interval; where the bounds differ, the free value of
Config.undecided for the operation (log entry 6). -/
def ivVal (op : Nat) (arg : Nat) (neg : Bool) (lo hi : Nat) (e : Int) : Val :=
  let d := 2 ^ 112
  if lo / d = hi / d then .fin neg (lo / d) (e - 400) true
  else .fin neg (lo / d + Config.undecided op arg % 2) (e - 400) true

/-- 2^a for a finite a = ±m·2^e. -/
def exp2Val (neg : Bool) (m : Nat) (e : Int) : Val :=
  if m = 0 then .fin false 1 0 false
  else if 11 ≤ floorLog2 m e then .fin false 1 (if neg then -4000 else 4000) true
  else
    let fx := shiftE m (e + 200)
    let up := if neg then 4096 * 2 ^ 200 - fx else 4096 * 2 ^ 200 + fx
    let n : Int := (up / 2 ^ 200 : Nat) - 4096
    let f := up % 2 ^ 200
    if f = 0 then .fin false 1 n false
    else
      let fs := f * 2 ^ 312
      let l := ivLn2
      let y := ivExp (fs * l.1 / ivS) (fs * l.2 / ivS + 1)
      ivVal 0 (2 * m + (if neg then 1 else 0)) false y.1 y.2 n

/-- log2 a for a positive finite a = m·2^e. -/
def log2Val (m : Nat) (e : Int) : Val :=
  let k := Nat.log2 m
  let n : Int := (k : Int) + e
  if m = 2 ^ k then .fin (decide (n < 0)) n.natAbs 0 false
  else
    let den := m + 2 ^ k
    let num := (m - 2 ^ k) * ivS
    let t := ivAtanh (num / den) (num / den + 1)
    let l := ivLn2
    let lo := 2 * t.1 * ivS / l.2
    let hi := 2 * t.2 * ivS / l.1 + 1
    if 0 ≤ n then ivVal 1 m false (n.toNat * ivS + lo) (n.toNat * ivS + hi) 0
    else ivVal 1 m true (n.natAbs * ivS - hi) (n.natAbs * ivS - lo) 0

/-- tanh a for a finite non-zero a = ±m·2^e. From 64 on it lies between 1 − 2^−183 and 1, where every rounding of it is that of
1 − 2^−400. -/
def tanhVal (neg : Bool) (m : Nat) (e : Int) : Val :=
  if 6 ≤ floorLog2 m e then .fin neg (2 ^ 400 - 1) (-400) true
  else
    let y := shiftE m (e + 1 + 200) * 2 ^ 312
    let l := ivLn2
    let tl := y * ivS / l.2
    let th := y * ivS / l.1 + 1
    let n := tl / ivS
    let fl := tl - n * ivS
    let fh := th - n * ivS
    let x := ivExp (fl * l.1 / ivS) (fh * l.2 / ivS + 1)
    let el := x.1 * 2 ^ n
    let eh := x.2 * 2 ^ n
    let lo := ivS - (2 * ivS * ivS / (el + ivS) + 1)
    let hi := ivS - 2 * ivS * ivS / (eh + ivS)
    ivVal 2 (2 * m + (if neg then 1 else 0)) neg lo hi 0

/-! ### The operations of class 0x05 on one lane -/

/-- FT as a format (spec/06 R97). -/
def FT.fmt : FT → Fmt
  | .f32 => .f32 | .f16 => .f16 | .bf16 => .bf16

/-- Whether a finite code of the format is subnormal. -/
def Fmt.isSub (f : Fmt) (code : Nat) : Bool :=
  let b := f.par.signBit.getD 0
  let mg := code % 2 ^ b
  decide (0 < mg) && decide (mg < 2 ^ (f.par.p - 1))

/-- FTZ flushes FP32 and BF16 subnormals to zero of their sign (spec/06 R95, R99). -/
def flush (ft : FT) (ftz : Bool) (code : Nat) : Nat :=
  if ftz && ft != .f16 && ft.fmt.isSub code then code - code % 2 ^ (ft.fmt.par.signBit.getD 0) else code

/-- The operations of spec/06 R99. -/
inductive FOp where
  | add | sub | mul | fma | rcp | rsq | sqrt | ex2 | lg2 | tanh
deriving DecidableEq, Repr

/-- The exact result with the specials and flags of spec/06 R99. down says whether the mode is RDN. -/
def FOp.exact (op : FOp) (down : Bool) (a b c : Val) : Val × Flags :=
  match op with
  | .add => Val.add a b down
  | .sub => Val.add a b.neg down
  | .mul => Val.mul a b
  | .fma =>
    let p := Val.mul a b
    if p.2 = .nv then (.nan false, .nv)
    else let r := Val.add p.1 c down
         (r.1, p.2 ||| r.2)
  | .rcp => match a with
    | .fin n m e _ => if m = 0 then (.inf n, .dz) else (recip n m e, 0#5)
    | .inf n => (.fin n 0 0 false, 0#5)
    | .nan s => (.nan s, 0#5)
  | .rsq => match a with
    | .fin n m e _ => if m = 0 then (.inf n, .dz) else if n then (.nan false, .nv) else (rsqrtPos m e, 0#5)
    | .inf n => if n then (.nan false, .nv) else (.fin false 0 0 false, 0#5)
    | .nan s => (.nan s, 0#5)
  | .sqrt => match a with
    | .fin n m e _ => if m = 0 then (a, 0#5) else if n then (.nan false, .nv) else (sqrtPos m e, 0#5)
    | .inf n => if n then (.nan false, .nv) else (a, 0#5)
    | .nan s => (.nan s, 0#5)
  | .ex2 => match a with
    | .fin n m e _ => (exp2Val n m e, 0#5)
    | .inf n => if n then (.fin false 0 0 false, 0#5) else (.inf false, 0#5)
    | .nan s => (.nan s, 0#5)
  | .lg2 => match a with
    | .fin n m e _ => if m = 0 then (.inf true, .dz) else if n then (.nan false, .nv) else (log2Val m e, 0#5)
    | .inf n => if n then (.nan false, .nv) else (.inf false, 0#5)
    | .nan s => (.nan s, 0#5)
  | .tanh => match a with
    | .fin n m e _ => if m = 0 then (a, 0#5) else (tanhVal n m e, 0#5)
    | .inf n => (.fin n 1 0 false, 0#5)
    | .nan s => (.nan s, 0#5)

/-- An infinite result of an exact infinity under SAT, and a rounded result (spec/06 R93, R99): the lane's code and
flags. -/
def fltLane (op : FOp) (ft : FT) (mode : RMode) (sat ftz : Bool) (r a b c : Nat) : Nat × Flags :=
  let f := ft.fmt
  let x := op.exact (mode == .rdn) (f.val (flush ft ftz a)) (f.val (flush ft ftz b)) (f.val (flush ft ftz c))
  let y := roundTo x.1 f mode sat r
  let fl := x.2 ||| y.2
  if ftz && ft != .f16 && f.isSub y.1 then (flush ft true y.1, fl ||| .uf ||| .nx) else (y.1, fl)

/-- minimumNumber and maximumNumber with −0 below +0 (spec/06 R100). -/
def fminLane (isMax : Bool) (ft : FT) (ftz : Bool) (a b : Nat) : Nat × Flags :=
  let f := ft.fmt
  let a := flush ft ftz a
  let b := flush ft ftz b
  let x := f.val a
  let y := f.val b
  let fl : Flags := if x.isSnan || y.isSnan then .nv else 0#5
  if x.isNan && y.isNan then (f.par.nan, fl)
  else if x.isNan then (b, fl) else if y.isNan then (a, fl)
  else
    let aNeg := decide (2 ^ (f.par.signBit.getD 0) ≤ a)
    let less := if x.isZero && y.isZero then aNeg else Val.lt x y
    (if less != isMax then a else b, fl)

/-- The comparisons of spec/06 R100. -/
def fcmpLane (cond : FCond) (ft : FT) (ftz : Bool) (a b : Nat) : Bool × Flags :=
  let f := ft.fmt
  let x := f.val (flush ft ftz a)
  let y := f.val (flush ft ftz b)
  let un := x.isNan || y.isNan
  let snan : Flags := if x.isSnan || y.isSnan then .nv else 0#5
  let any : Flags := if un then .nv else 0#5
  let lt := Val.lt x y
  let gt := Val.lt y x
  match cond with
  | .eq => (!un && !lt && !gt, snan)
  | .ne => (un || lt || gt, snan)
  | .lt => (!un && lt, any)
  | .le => (!un && !gt, any)
  | .gt => (!un && gt, any)
  | .ge => (!un && !lt, any)
  | .un => (un, snan)
  | .ord => (!un, snan)

/-- One lane of fdot4 (spec/06 R101): FTZ acts on c and on the result only. Infinities of opposite sign set NV where they meet before
a NaN, c first and the products in their order (log entry 89). -/
def fdotLane (fm : Fmt) (ftz : Bool) (a b c : Nat) : Nat × Flags :=
  let el (v i : Nat) : Val := fm.val (v / 256 ^ i % 256)
  let ps := (List.range 4).map (fun i => Val.mul (el a i) (el b i))
  let cv := Fmt.f32.val (flush .f32 ftz c)
  let x := ps.foldl (fun acc p => let t := Val.add acc.1 p.1 false; (t.1, acc.2 ||| p.2 ||| t.2)) (cv, (0#5 : Flags))
  let y := roundTo x.1 .f32 .rne false 0
  let fl := x.2 ||| y.2
  if ftz && Fmt.f32.isSub y.1 then (flush .f32 true y.1, fl ||| .uf ||| .nx) else (y.1, fl)

/-- An integer of a type as an exact value (spec/06 R104). -/
def Val.ofInt (i : Int) : Val := .fin (decide (i < 0)) i.natAbs 0 false

/-- Round to an integer and clamp to a range (spec/06 R104, cvt.fi): result and flags. -/
def toIntClamp (x : Val) (mode : RMode) (lo hi : Int) : Int × Flags :=
  match x with
  | .nan _ => (0, .nv)
  | .inf n => (if n then lo else hi, .nv)
  | .fin n m e st =>
    let y := pickQuanta n m e st 0 mode 0 (fun k => k % 2 = 0)
    let i : Int := if n then -(y.1 : Int) else y.1
    if i < lo then (lo, .nv) else if hi < i then (hi, .nv) else (i, if y.2 then .nx else 0#5)

/-- floor(log2 of the largest finite value) (spec/06 R108). -/
def Fmt.emax (f : Fmt) : Int := let mx := f.par.mag f.par.maxCode; floorLog2 mx.1 mx.2

/-- FP32 addition for reductions: exact sum, RNE, no flush, +0 for an exact zero of opposite signs (spec/08 R145). -/
def fadd32 (a b : Nat) : Nat := (roundTo (Val.add (Fmt.f32.val a) (Fmt.f32.val b) false).1 .f32 .rne false 0).1

/-- The sum of old and contributions, rounded once (spec/08 R150). -/
def faddSum (f : Fmt) (old : Nat) (cs : List Nat) : Nat :=
  (roundTo (exactSum (f.val old) (cs.map f.val)) f .rne false 0).1

end Sys2Proof
end

