-- ==== Sys2Proof/Machine/Operands.lean ====
section
/-! DEFINITION. Register access, the operand forms and the registers each instruction reads and writes (spec/02 R29 to
R34, R39; spec/05 R69 to R75; spec/07 R110, R111). -/

namespace Sys2Proof.Machine

/-! ### Register files (spec/02 R33) -/

/-- One lane of a vector register. -/
def Regs.rdV (r : Regs) (i lane : Nat) : Word := nget 0#32 r.v (32 * i + lane)
def Regs.wrV (r : Regs) (i lane : Nat) (x : Word) : Regs := { r with v := nset 0#32 r.v (32 * i + lane) x }
/-- An even pair, low half in the even register. -/
def Regs.rdV64 (r : Regs) (i lane : Nat) : DWord := (r.rdV (i + 1) lane) ++ (r.rdV i lane)
def Regs.wrV64 (r : Regs) (i lane : Nat) (x : DWord) : Regs :=
  (r.wrV i lane (x.setWidth 32)).wrV (i + 1) lane ((x >>> 32).setWidth 32)
/-- s0 reads 0 and discards writes. -/
def Regs.rdS (r : Regs) (i : Nat) : DWord := if i = 0 then 0#64 else nget 0#64 r.s i
def Regs.wrS (r : Regs) (i : Nat) (x : DWord) : Regs := if i = 0 then r else { r with s := nset 0#64 r.s i x }
/-- p7 reads all ones and discards writes. -/
def Regs.rdP (r : Regs) (i : Nat) : LaneMask := if i = 7 then allLanes else nget 0#32 r.p i
def Regs.wrP (r : Regs) (i : Nat) (x : LaneMask) : Regs := if i = 7 then r else { r with p := nset 0#32 r.p i x }
/-- q3 reads 1 and discards writes. -/
def Regs.rdQ (r : Regs) (i : Nat) : Bool := if i = 3 then true else nget false r.q i
def Regs.wrQ (r : Regs) (i : Nat) (x : Bool) : Regs := if i = 3 then r else { r with q := nset false r.q i x }
/-- One bit of a lane predicate. -/
def Regs.wrPbit (r : Regs) (i lane : Nat) (x : Bool) : Regs :=
  let bit : LaneMask := 1#32 <<< lane
  r.wrP i (if x then r.rdP i ||| bit else r.rdP i &&& ~~~bit)

/-- A vector operand of 1 or 2 registers as a number. -/
def Regs.rdW (r : Regs) (wide : Bool) (i lane : Nat) : Nat :=
  if wide then (r.rdV64 i lane).toNat else (r.rdV i lane).toNat
def Regs.wrW (r : Regs) (wide : Bool) (i lane : Nat) (x : Nat) : Regs :=
  if wide then r.wrV64 i lane (BitVec.ofNat 64 x) else r.wrV i lane (BitVec.ofNat 32 x)

/-- Guard() (spec/02 R39). -/
def Regs.guard (r : Regs) (g : Guard) : LaneMask := if g.pn then ~~~(r.rdP g.pg.val) else r.rdP g.pg.val

/-- The effective address of a memory operand in one lane (spec/07 R110). -/
def Regs.ea (r : Regs) (a : MAddr) (lane : Nat) : DWord :=
  let idx : DWord := match a.ix with
    | .s32 => (r.rdV a.idx.val lane).signExtend 64
    | .u32 => (r.rdV a.idx.val lane).setWidth 64
    | .pair => r.rdV64 a.idx.val lane
    | .none => 0#64
  r.rdS a.base.val + idx + a.off.signExtend 64

/-- Scalar base plus signed offset (spec/08 R141, spec/09 R177). -/
def Regs.sbase (r : Regs) (b : SReg) (off : BitVec 12) : DWord := r.rdS b.val + off.signExtend 64

/-! ### Integer operations (spec/05 R71) -/

/-- A w-bit pattern read signed. -/
def toSigned (w x : Nat) : Int := if x < 2 ^ (w - 1) then (x : Int) else (x : Int) - 2 ^ w
/-- A w-bit pattern read per TYPE. -/
def readAs (w : Nat) (signed : Bool) (x : Nat) : Int := if signed then toSigned w x else (x : Int)

/-- The operations of spec/05 R71 by name. -/
inductive IOp where
  | add | sub | mulLo | mulHi | mad | min | max | abs | and | or | xor | andn | not | shl | shr | sar | rot
  | popc | clz | ctz | brev | bfe | bfi | mov | sext | zext
deriving DecidableEq, Repr

/-- The number of one bits among the low w bits. -/
def popcount (x : Nat) : Nat → Nat
  | 0 => 0
  | n + 1 => (if x.testBit n then 1 else 0) + popcount x n
/-- Trailing zero bits of the low w bits from bit i on. -/
def ctzFrom (x i : Nat) : Nat → Nat
  | 0 => 0
  | n + 1 => if x.testBit i then 0 else 1 + ctzFrom x (i + 1) n
/-- The low w bits reversed. -/
def reverseBits (x w : Nat) : Nat → Nat
  | 0 => 0
  | n + 1 => (if x.testBit n then 2 ^ (w - 1 - n) else 0) + reverseBits x w n

/-- The field of bfe and bfi: position and clipped length (spec/05 R71). -/
def fieldOf (w b : Nat) : Option (Nat × Nat) :=
  let pos := b % 256
  let len := b / 256 % 256
  if w ≤ pos ∨ len = 0 then none else some (pos, Nat.min len (w - pos))

/-- The exact result x of an operation on w-bit patterns (spec/05 R71); n is field N. -/
def IOp.exact (op : IOp) (w : Nat) (signed : Bool) (a b c n : Nat) : Int :=
  match op with
  | .add => readAs w signed a + readAs w signed b
  | .sub => readAs w signed a - readAs w signed b
  | .mulLo => (a * b : Nat)
  | .mulHi => (readAs w signed a * readAs w signed b) / (2 ^ w : Int)
  | .mad => readAs w signed a * readAs w signed b + readAs w signed c
  | .min => Min.min (readAs w signed a) (readAs w signed b)
  | .max => Max.max (readAs w signed a) (readAs w signed b)
  | .abs => ((toSigned w a).natAbs : Int)
  | .and => (a &&& b : Nat)
  | .or => (a ||| b : Nat)
  | .xor => (a ^^^ b : Nat)
  | .andn => (a &&& (2 ^ w - 1 - b) : Nat)
  | .not => (2 ^ w - 1 - a : Nat)
  | .shl => if w ≤ b then 0 else (a * 2 ^ b : Nat)
  | .shr => if w ≤ b then 0 else (a / 2 ^ b : Nat)
  | .sar => toSigned w a / (2 ^ (Nat.min b (w - 1)) : Nat)
  | .rot => let r := b % w
            (a * 2 ^ r + a / 2 ^ (w - r) : Nat)
  | .popc => (popcount a w : Nat)
  | .clz => if a = 0 then (w : Nat) else (w - 1 - Nat.log2 a : Nat)
  | .ctz => (ctzFrom a 0 w : Nat)
  | .brev => (reverseBits a w w : Nat)
  | .bfe => match fieldOf w b with
    | none => 0
    | some (pos, len) => readAs len signed (a / 2 ^ pos % 2 ^ len)
  | .bfi => match fieldOf w b with
    | none => (c : Nat)
    | some (pos, len) => (c / 2 ^ (pos + len) * 2 ^ (pos + len) + a % 2 ^ len * 2 ^ pos + c % 2 ^ pos : Nat)
  | .mov => (a : Nat)
  | .sext => if w ≤ n + 1 then (a : Nat) else toSigned (n + 1) (a % 2 ^ (n + 1))
  | .zext => if w ≤ n + 1 then (a : Nat) else (a % 2 ^ (n + 1) : Nat)

/-- The w-bit pattern of the result: reduced mod 2^w, or clamped to TYPE when SAT is set (spec/05 R71). -/
def narrow (w : Nat) (signed sat : Bool) (x : Int) : Nat :=
  if sat then
    let lo : Int := if signed then -(2 ^ (w - 1)) else 0
    let hi : Int := if signed then 2 ^ (w - 1) - 1 else 2 ^ w - 1
    ((Max.max lo (Min.min hi x)) % 2 ^ w).toNat
  else (x % 2 ^ w).toNat

/-- The width of a type. -/
def IntTy.w (t : IntTy) : Nat := if t.wide then 64 else 32

/-- The result pattern of an operation on w-bit operands. -/
def IOp.eval (op : IOp) (ty : IntTy) (sat : Bool) (a b c n : Nat) : Nat :=
  narrow (IntTy.w ty) ty.signed sat (op.exact (IntTy.w ty) ty.signed a b c n)

/-- A scalar result widened into a 64-bit register (spec/05 R69). -/
def scalarResult (ty : IntTy) (x : Nat) : DWord :=
  match ty with
  | .i32 => (BitVec.ofNat 32 x).signExtend 64
  | .u32 => (BitVec.ofNat 32 x).setWidth 64
  | .i64 | .u64 => BitVec.ofNat 64 x

/-- cmp on w-bit patterns (spec/05 R72). -/
def ICond.eval (c : ICond) (w a b : Nat) : Bool :=
  let sa := toSigned w a
  let sb := toSigned w b
  match c with
  | .eq => a == b | .ne => a != b
  | .ltS => decide (sa < sb) | .leS => decide (sa ≤ sb) | .gtS => decide (sb < sa) | .geS => decide (sb ≤ sa)
  | .ltU => decide (a < b) | .leU => decide (a ≤ b) | .gtU => decide (b < a) | .geU => decide (b ≤ a)

/-- lea: a + index × 2^n mod 2^64 (spec/05 R71). -/
def leaResult (ty : IntTy) (a b n : Nat) : Nat :=
  ((a : Int) + readAs (IntTy.w ty) ty.signed b * 2 ^ n) % 2 ^ 64 |>.toNat

/-- A 28-bit immediate sign-extended to w bits (spec/05 R75). -/
def imm28 (w : Nat) (i : BitVec 28) : Nat := (i.signExtend w).toNat

/-! ### Sizes (spec/02 R22) -/

/-- Bytes of a size. -/
def sizeBytes : MSize → Nat
  | .u8 | .s8 => 1 | .u16 | .s16 => 2 | .b32 => 4 | .b64 => 8 | .b128 => 16
/-- Registers of a size. -/
def sizeRegs : MSize → Nat
  | .u8 | .s8 | .u16 | .s16 | .b32 => 1 | .b64 => 2 | .b128 => 4
def asizeBytes (z : ASize) : Nat := if z.wide then 8 else 4
def asizeSigned : ASize → Bool
  | .s32 | .s64 => true
  | .u32 | .u64 => false

/-- The low bytes of a store's data registers in one lane (spec/07 R111). -/
def storeBytes (r : Regs) (z : MSize) (d lane : Nat) : List Byte :=
  ((List.range (sizeRegs z)).flatMap (fun j => toBytes 4 (r.rdV (d + j) lane).toNat)).take (sizeBytes z)

/-- The register writes of a load in one lane (spec/07 R111). -/
def loadWrites (z : MSize) (d lane : Nat) (bs : List Byte) : List RegW :=
  match z with
  | .s8 => [.v d lane ((BitVec.ofNat 8 (ofBytes bs)).signExtend 32)]
  | .s16 => [.v d lane ((BitVec.ofNat 16 (ofBytes bs)).signExtend 32)]
  | .u8 | .u16 | .b32 | .b64 | .b128 =>
    (List.range (sizeRegs z)).map (fun j => .v (d + j) lane (BitVec.ofNat 32 (ofBytes ((bs.drop (4 * j)).take 4))))

/-- Apply register writes (spec/02 R30). -/
def Regs.apply (r : Regs) : List RegW → Regs
  | [] => r
  | .v i lane x :: ws => Regs.apply (r.wrV i lane x) ws
  | .s i x :: ws => Regs.apply (r.wrS i x) ws
  | .p i lane x :: ws => Regs.apply (r.wrPbit i lane x) ws
  | .q i x :: ws => Regs.apply (r.wrQ i x) ws

/-! ### The registers an instruction names (spec/02 R30, R31, R34) -/

def vs (i n : Nat) : List Reg := (List.range n).map (fun j => .v (i + j))
def vw (wide : Bool) (i : Nat) : List Reg := vs i (if wide then 2 else 1)
def ss (i n : Nat) : List Reg := (List.range n).map (fun j => .s (i + j))
def grd (g : Guard) : List Reg := [.p g.pg.val]
def addrRegs (a : MAddr) : List Reg :=
  .s a.base.val :: (match a.ix with
    | .s32 | .u32 => [.v a.idx.val] | .pair => vs a.idx.val 2 | .none => [])
def bReg (sb wide : Bool) (b : Nat) : List Reg := if sb then [.s b] else vw wide b

/-- A destination that is written: s0, p7 and q3 discard writes and are never destinations (spec/02 R30). -/
def isDest : Reg → Bool
  | .s 0 | .p 7 | .q 3 => false
  | _ => true

def sintUses (f : SInt) : List Reg × List Reg := ([.s f.a.val, .s f.b.val, .s f.c.val], [.s f.d.val])
def vintUses (f : VInt) (u : IntUse) : List Reg × List Reg :=
  (grd f.g ++ vw f.ty.wide f.a.val ++ (if u.b then bReg f.sb f.ty.wide f.b.val else []) ++
    (if u.c then vw f.ty.wide f.c.val else []), vw f.ty.wide f.d.val)
def fltUses (f : FltF) (n : Nat) : List Reg × List Reg :=
  (grd f.g ++ [.v f.a.val] ++ (if 1 < n then bReg f.sb false f.b.val else []) ++
    (if 2 < n then [.v f.c.val] else []), [.v f.d.val])
def memUses (f : MemF) (load : Bool) : List Reg × List Reg :=
  let d := vs f.d.val (sizeRegs f.size)
  if load then (grd f.g ++ addrRegs f.addr, d) else (grd f.g ++ addrRegs f.addr ++ d, [])
def atomUses (f : AtomF) (ret cas : Bool) : List Reg × List Reg :=
  let n := (if f.size.wide then 2 else 1)
  (grd f.g ++ addrRegs f.addr ++ vs f.d.val (if cas then 2 * n else n), if ret then vs f.d.val n else [])
def atomFUses (f : AtomFF) (ret : Bool) : List Reg × List Reg :=
  (grd f.g ++ addrRegs f.addr ++ [.v f.d.val], if ret then [.v f.d.val] else [])
def shflUses (f : ShflF) (useB : Bool) : List Reg × List Reg :=
  (grd f.g ++ vw f.w64 f.a.val ++ (if useB then bReg f.sb false f.b.val else []),
    vw f.w64 f.d.val ++ [.p f.pv.val])
def barUses (f : BarF) (useB dest : Bool) : List Reg × List Reg :=
  ([.s f.base.val] ++ (if useB then [.s f.b.val] else []), if dest then [.s f.d.val] else [])

/-- The registers an instruction reads (its guard among them) and writes, before discarded writes are dropped. -/
def Instr.regs : Instr → List Reg × List Reg
  | .bra _ | .join | .exit | .nop | .chk _ => ([], [])
  | .braDiv g _ _ => (grd g, [])
  | .brq _ q _ => ([.q q.val], [])
  | .brx a => ([.s a.val], [])
  | .call _ => ([], vs 0 2)
  | .callx d a => ([.s a.val], vs d.val 2)
  | .ret a => (vs a.val 2, [])
  | .sadd f | .ssub f | .smulLo f | .smulHi f | .smad f | .smin f | .smax f | .sabs f | .sand f | .sor f | .sxor f
  | .sandn f | .snot f | .sshl f | .sshr f | .ssar f | .srot f | .spopc f | .sclz f | .sctz f | .sbrev f | .sbfe f
  | .sbfi f | .smov f | .slea f | .ssext f | .szext f => sintUses f
  | .scmp f => ([.s f.a.val, .s f.b.val], [.q f.q.val])
  | .ssel f => ([.s f.a.val, .s f.b.val, .q f.q.val], [.s f.d.val])
  | .smovw f => ([], [.s f.d.val])
  | .saddImm f | .sandImm f | .sorImm f | .sxorImm f | .sshlImm f | .sshrImm f | .ssarImm f | .smovImm f =>
    ([.s f.a.val], [.s f.d.val])
  | .scmpImm f => ([.s f.a.val], [.q f.q.val])
  | .vadd f | .vsub f | .vmulLo f | .vmulHi f | .vmin f | .vmax f | .vand f | .vor f | .vxor f | .vandn f | .vshl f
  | .vshr f | .vsar f | .vrot f | .vbfe f => vintUses f .bin
  | .vabs f | .vnot f | .vpopc f | .vclz f | .vctz f | .vbrev f | .vmov f | .vsext f | .vzext f => vintUses f .un
  | .vmad f | .vbfi f => vintUses f .ter
  | .vlea f => (grd f.g ++ vs f.a.val 2 ++ bReg f.sb f.ty.wide f.b.val, vs f.d.val 2)
  | .vcmp f => (grd f.g ++ vw f.w64 f.a.val ++ bReg f.sb f.w64 f.b.val, [.p f.p.val])
  | .vsel f => (grd f.g ++ vw f.ty.wide f.a.val ++ bReg f.sb f.ty.wide f.b.val ++ [.p f.p.val],
      vw f.ty.wide f.d.val)
  | .vmovw f => (grd f.g, vw f.ty.wide f.d.val)
  | .vaddImm f | .vandImm f | .vorImm f | .vxorImm f | .vshlImm f | .vshrImm f | .vsarImm f =>
    (grd f.g ++ [.v f.a.val], [.v f.d.val])
  | .vmovImm f => (grd f.g, [.v f.d.val])
  | .vcmpImm f => (grd f.g ++ vw f.w64 f.a.val, [.p f.p.val])
  | .shflIdx f => shflUses f true
  | .shflUp f | .shflDn f | .shflXor f => shflUses f false
  | .voteAny f | .voteAll f => (grd f.g ++ [.p f.a.val], [.p f.d.val])
  | .voteBal f => (grd f.g ++ [.p f.a.val], [.s f.d.val])
  | .redux f => (grd f.g ++ vw f.w64 f.a.val, [.s f.d.val])
  | .vtos f => (grd f.g ++ vw f.w64 f.a.val, [.s f.d.val])
  | .stov f => (grd f.g ++ [.s f.a.val], vw f.w64 f.d.val)
  | .fadd f | .fsub f | .fmul f => fltUses f 2
  | .fma f => fltUses f 3
  | .frcp f | .frsq f | .fsqrt f | .fex2 f | .flg2 f | .ftanh f => fltUses f 1
  | .fmin f | .fmax f => (grd f.g ++ [.v f.a.val] ++ bReg f.sb false f.b.val, [.v f.d.val])
  | .fcmp f => (grd f.g ++ [.v f.a.val] ++ bReg f.sb false f.b.val, [.p f.p.val])
  | .fdot4 f => (grd f.g ++ [.v f.a.val, .v f.b.val, .v f.c.val], [.v f.d.val])
  | .cvt f => (grd f.g ++ [.v f.a.val], [.v f.d.val])
  | .cvtFi f => (grd f.g ++ [.v f.a.val], vw f.ty.wide f.d.val)
  | .cvtIf f => (grd f.g ++ vw f.ty.wide f.a.val, [.v f.d.val])
  | .qblkHist f => (grd f.g ++ [.v f.a.val] ++ vs f.d.val 2, vs f.d.val 2)
  | .qblkClip f => (grd f.g ++ vs f.a.val 2 ++ [.s f.b.val], [.s f.d.val])
  | .qblkQ f => (grd f.g ++ [.v f.a.val, .s f.b.val, .v f.d.val], [.v f.d.val, .s f.c.val])
  | .ldl f | .lds f | .ldd f | .ldk f | .ldg f | .ldSpec f => memUses f true
  | .stl f | .sts f | .std f | .stk f | .stg f | .stAck f => memUses f false
  | .pf f _ | .cwb f | .cinv f => (grd f.g ++ addrRegs f.addr, [])
  | .atomAdd f | .atomMin f | .atomMax f | .atomAnd f | .atomOr f | .atomXor f | .atomSwap f => atomUses f true false
  | .atomCas f => atomUses f true true
  | .atomFaddF32 f | .atomFaddBf16 f => atomFUses f true
  | .redAdd f | .redMin f | .redMax f | .redAnd f | .redOr f | .redXor f => atomUses f false false
  | .redFaddF32 f | .redFaddBf16 f => atomFUses f false
  | .lck f => (grd f.g ++ [.s f.base.val], [.s f.d.val])
  | .lckTry f => (grd f.g ++ [.s f.base.val, .s f.d.val], [.s f.d.val])
  | .unlk f => (grd f.g ++ [.s f.base.val], [])
  | .barInit f | .barExpect f | .barWait f => barUses f true false
  | .barArrive f | .barTest f => barUses f true true
  | .fenceAcq _ | .fenceRel _ | .fenceFull _ | .fenceX _ _ _ => ([], [])
  | .cpy f | .cpy2d f => ([.s f.d.val, .s f.a.val, .s f.b.val] ++ (if f.cnt then [.s f.c.val] else []), [])
  | .cpyWait d _ => ([], [.s d.val])
  | .tld f | .tst f => ([.s f.base.val, .s f.pitch.val], [])
  | .tzero _ _ | .mmac _ => ([], [])
  | .mmacg f => ([.s f.a.val, .s f.b.val] ++ ss f.c.val (if f.mx && f.c.val ≤ 61 then 3 else 1), [])
  | .taccLd f | .taccSt f => ([.s f.base.val, .s f.pitch.val], [])
  | .tcvt f => ([.s f.b.val], [])
  | .fflArr f => (grd f.g ++ addrRegs f.addr, [])
  | .fflB32 f => (grd f.g ++ addrRegs f.addr ++ [.v f.d.val], [])
  | .fflB64 f => (grd f.g ++ addrRegs f.addr ++ vs f.d.val 2, [])
  | .shtl f | .shtlT f => (grd f.g ++ vs f.a.val 2 ++ ss f.b.val ((f.nstep.val + 1) / 2), vs f.d.val 2 ++ [.v f.c.val])
  | .collAg d p | .collRs d p | .collAr d p | .collBc d p => (ss p.val 4, [.s d.val])
  | .shg a => ([.s a.val], [])
  | .shev a b => ([.s a.val, .s b.val], [])
  | .shq _ d a | .pgq _ d a => ([.s a.val], [.s d.val])
  | .trap _ | .rfh => ([], [])
  | .mfs d n => ([], if (sregKind n.toNat).any (·.1) then [.v d.val] else [.s d.val])
  | .mts a n => (if (sregKind n.toNat).any (·.1) then [.v a.val] else [.s a.val], [])
  | .launch _ d a b => ([.s a.val, .s b.val], [.s d.val])
  | .evsig a => ([.s a.val], [])
  | .qpop _ d a | .qpopNb _ d a => ([.s a.val], [.s d.val, .s (d.val + 1)])
  | .bkpt _ | .smark _ => ([], [])
  | .trc a _ => ([.s a.val], [])
  | .tileOpExecute .. | .mmacgChunk .. | .instructionFetch | .resultLand .. | .lateTrapTake | .read ..
  | .fill .. | .drain .. | .perform .. | .storeAck .. | .atomReply .. | .redEntryApply .. | .movedResend ..
  | .engine .. | .land .. | .barrier .. | .deliver .. | .resolve .. | .tick | .expiredCopyDrop .. | .save ..
  | .restore .. | .teamMakeResident .. | .quantumExpiry .. | .remoteLoadBlock .. | .faultReplay ..
  | .carveChange .. | .lockRequest .. | .lockGrant .. | .lockHandoff .. | .resUpdate .. | .lckTryTimeout ..
  | .deadlockProbe .. | .lockTimeout .. | .proxyReadMiss .. | .invalidate .. | .invalidateAck .. | .recall ..
  | .proxyEvict .. | .requestResend .. | .requestFail .. | .lateReply .. | .ackSend .. | .flagApply ..
  | .shuttleStep .. | .shuttleReturn .. | .collStreamReceive .. | .collFail .. | .gtimerMatch .. | .deadline ..
  | .hostTailWrite .. | .hostAccess .. | .qpopWake .. | .launchPacket .. | .waitEvent .. | .signalEvent ..
  | .fencePacket .. | .markArm .. | .markDisarm .. | .markStart .. | .markFreeze .. | .markEvent ..
  | .gridComplete .. | .eventActivate .. | .eventDeactivate .. | .partitionRecompute .. | .contextCreate ..
  | .contextTeardown .. | .queueCreate .. | .jobFormation .. | .jobEnd | .opticalReconfigure .. | .islandSet ..
  | .dieLost .. | .moduleLost .. | .powerOn .. | .reset .. | .lifecycleChange .. | .getMeasurements ..
  | .usageRecordEmit .. | .interimRecord .. | .recordAck .. | .pageWalk .. | .absentAllocate ..
  | .gatherStart .. | .slReq .. | .slData .. | .slNak .. | .contrib .. | .cnAck .. | .cnFull .. | .cnNak ..
  | .roundCommit .. | .drainStart .. | .poolPressure .. | .frameReturn .. | .faultFlush ..
  | .movedEntryExpire .. | .breakpointHit | .logBreakpoint | .teamStop .. | .debugCont .. | .debugStep ..
  | .watchHit .. | .stitchRecordReturn .. | .sequencerEvent .. | .seqWrite .. | .whrdWrite .. | .whbaseWrite ..
  | .capbaseWrite .. | .registerWrite .. | .uncorrectableError .. | .correctedError .. | .writebackComplete ..
  | .illegalInstruction | .lockGrantWithdrawal .. | .responseCacheEntryExpiry .. | .contribResend ..
  | .hostPushedRecoveryImage .. => ([], [])

/-- The registers an instruction names. -/
def Instr.named (i : Instr) : List Reg := (Instr.regs i).1 ++ (Instr.regs i).2
/-- Its destinations (spec/02 R30). -/
def Instr.dests (i : Instr) : List Reg := (Instr.regs i).2.filter isDest
/-- Its registers that a window or a pending destination can name: s0, p7 and q3 never wait (spec/02 R30). -/
def Instr.live (i : Instr) : List Reg := (Instr.named i).filter isDest

/-- Words of the instruction (spec/02 R25). -/
def Instr.words : Instr → Nat
  | .smovw _ | .vmovw _ | .cpy _ | .cpy2d _ | .mmacg _ | .shtl _ | .shtlT _ => 2
  | _ => 1

end Sys2Proof.Machine
end

