-- ==== Sys2Proof/Machine/Ops.lean ====
section
/-! DEFINITION. The shared operations over the state: tables, clocks, usage counters, logs, the debug block, the issue
of an instruction word with its decode traps (spec/02 R38), exception entry and the return from it (spec/14 R265,
R266), and the landing of results (spec/02 R30). -/

namespace Sys2Proof

/-- The core of a resident group. -/
def GKey.core (k : GKey) : CoreKey := ⟨k.m, k.c⟩
/-- The C-die of a core (spec/01 R5). -/
def CoreKey.die (k : CoreKey) : DieKey := ⟨k.m, k.c / 48⟩
/-- The C-die of a resident group. -/
def GKey.die (k : GKey) : DieKey := k.core.die

end Sys2Proof

namespace Sys2Proof.Machine

abbrev Out := Host.Outcome State Fault Refusal

/-! ### Tables of the state -/

/-- A core before anything has run on it (log entry 3). -/
def Core.fresh : Core where
  cycle := 0
  credit := 0
  lastPos := []
  lastIssue := []
  scanned := 0
  carve := none
  icache := []
  tlb := []
  eyelets := []
  copies := []
  copyHz := 0
  tileHz := 0
  tileQ := []
  mprog := 0
  pins := []
  countdown := 0
  samples := []
  arrlog := []
  nextId := 0
  pfs := []
  copyBad := []

def Die.fresh : Die := ⟨0, 0, [], false, [], [], []⟩
def Line.fresh : Line := ⟨0, 0, false, .uncached, 0, none, [], none, []⟩

def State.module (s : State) (m : Nat) : Module := (tget s.mods m).getD Module.reset
def State.setModule (s : State) (m : Nat) (x : Module) : State := { s with mods := tset s.mods m x }
def State.core (s : State) (k : CoreKey) : Core := (tget s.cores k).getD Core.fresh
def State.setCore (s : State) (k : CoreKey) (x : Core) : State := { s with cores := tset s.cores k x }
def State.die (s : State) (k : DieKey) : Die := (tget s.dies k).getD Die.fresh
def State.setDie (s : State) (k : DieKey) (x : Die) : State := { s with dies := tset s.dies k x }
def State.line (s : State) (l : Nat) : Line := (tget s.lines l).getD Line.fresh
def State.setLine (s : State) (l : Nat) (x : Line) : State := { s with lines := tset s.lines l x }
def State.group? (s : State) (k : GKey) : Option Group := tget s.groups k
def State.setGroup (s : State) (k : GKey) (g : Group) : State := { s with groups := tset s.groups k g }
def State.ctx? (s : State) (k : CtxKey) : Option Context := tget s.ctxs k
def State.setCtx (s : State) (k : CtxKey) (c : Context) : State := { s with ctxs := tset s.ctxs k c }
def State.team? (s : State) (t : Nat) : Option Team := tget s.teams t
def State.setTeam (s : State) (t : Nat) (x : Team) : State := { s with teams := tset s.teams t x }
def State.grid? (s : State) (t : Nat) : Option Grid := tget s.grids t
def State.setGrid (s : State) (t : Nat) (x : Grid) : State := { s with grids := tset s.grids t x }

/-- Change a group, where it exists. -/
def State.modGroup (s : State) (k : GKey) (f : Group → Group) : State :=
  match s.group? k with
  | some g => s.setGroup k (f g)
  | none => s
def State.modCtx (s : State) (k : CtxKey) (f : Context → Context) : State :=
  match s.ctx? k with
  | some c => s.setCtx k (f c)
  | none => s
def State.modTeam (s : State) (t : Nat) (f : Team → Team) : State :=
  match s.team? t with
  | some x => s.setTeam t (f x)
  | none => s
def State.modCore (s : State) (k : CoreKey) (f : Core → Core) : State := s.setCore k (f (s.core k))
def State.modLine (s : State) (l : Nat) (f : Line → Line) : State := s.setLine l (f (s.line l))
def State.modModule (s : State) (m : Nat) (f : Module → Module) : State := s.setModule m (f (s.module m))
def State.modDie (s : State) (k : DieKey) (f : Die → Die) : State := s.setDie k (f (s.die k))

/-- A fresh number. -/
def State.fresh (s : State) : Nat × State := (s.nextId, { s with nextId := s.nextId + 1 })

/-! ### Time (spec/01 R13, spec/02 R39) -/

/-- WALLTIME of a module. -/
def State.wall (s : State) (m : Nat) : Nat := (s.module m).wall.toNat
def live (now t : Nat) : Bool := decide (now + 32 < t)
def passed (now t : Nat) : Bool := decide (t + 32 ≤ now)

/-! ### Addresses (spec/01 R6, R7, spec/02 R39) -/

def lineOf (pa : Nat) : Nat := pa / 128
def sectorOf (pa : Nat) : Nat := pa / 32
/-- The module of a pod physical address. -/
def paMod (pa : Nat) : Nat := pa / 2 ^ 48 % 1024
/-- The home die of a pod physical address. -/
def paDie (pa : Nat) : Nat := pa % 2 ^ 48 / 4096 % 12
def lineMod (l : Nat) : Nat := paMod (l * 128)
def lineDie (l : Nat) : Nat := paDie (l * 128)

/-- A module is reachable from m: m itself, or a member of the job in the connected optical group (spec/11 R227). -/
def State.reachable (s : State) (m t : Nat) : Bool :=
  t == m || (match tget s.mods t with
    | none => false
    | some x => !(s.module m).lost && (s.module m).inJob && x.inJob && !x.lost && (s.module m).optgrp.getLsbD (t / 64))

/-- A link joins two modules that have left reset and carries the traffic of the job: within a rack group one whose two ends have
authenticated each other, between rack groups one of the circuits that the optical tier joins, at ports that have authenticated a
partner of another rack group (spec/01 R4, spec/19 R344; log entry 55). -/
def State.linked (s : State) (a b : Nat) : Bool :=
  let x := s.module a
  let y := s.module b
  let good (p : PortInfo) : Bool := p.status == 1
  let far (md : Module) (m : Nat) : Bool := md.ports.any (fun p => good p && p.partner / 64 != m / 64)
  x.ready && y.ready && !x.lost && !y.lost &&
  (if a / 64 = b / 64 then x.ports.any (fun p => good p && p.partner == b && (y.ports[p.partnerPort]?).any (fun q => good q && q.partner == a))
   else far x a && far y b && x.optgrp.getLsbD (b / 64) && y.optgrp.getLsbD (a / 64))
/-- The modules that links join to a module. -/
def State.linkedTo (s : State) (m : Nat) : List Nat :=
  s.mods.foldl (fun r _ => r ++ (s.mods.map (·.1)).filter (fun t => !r.contains t && r.any (fun a => s.linked a t))) [m]
/-- A message can travel between two modules (spec/09 R170, spec/11 R229, spec/19 R344). -/
def State.routed (s : State) (m t : Nat) : Bool :=
  s.reachable m t && (s.module m).ready && (t == m || (s.linkedTo m).contains t)

/-- The context of module t that job formation pairs with a context of module m (spec/11 R237). -/
def State.peer (s : State) (k : CtxKey) (t : Nat) : Option CtxKey :=
  if t = k.m then some k else
  match s.ctx? k with
  | none => none
  | some c => match c.p.peers.find? (fun p => p.1 == t) with
    | some p => if (s.ctx? ⟨t, p.2⟩).any (fun c => c.torn.isNone) then some ⟨t, p.2⟩ else none
    | none => none

/-! ### Usage counters (spec/19 R337, R338) -/

/-- Add to a counter of a context, saturating, with its sticky bit. -/
def State.count (s : State) (k : CtxKey) (idx n : Nat) : State :=
  if n = 0 then s else
  s.modCtx k (fun c =>
    let v := nget 0 c.usage idx + n
    if 2 ^ 64 - 1 ≤ v then
      { c with usage := nset 0 c.usage idx (2 ^ 64 - 1), sat := if c.sat.contains idx then c.sat else idx :: c.sat }
    else { c with usage := nset 0 c.usage idx v })

/-- Counter indices (spec/19 R337). -/
def idxProduct (fa fb : Fmt) : Nat := 0x1000 + Fmt.code fa * 64 + Fmt.code fb
def idxFloat (f : Fmt) : Nat := 0x2000 + Fmt.code f
def idxConv (a b : Nat) : Nat := 0x3000 + a * 64 + b
def idxBytes (p : Path) : Nat := 0x4000 + Path.code p
/-- Integer types as formats in counter indices. -/
def intFmt (t : IntTy) : Nat := 0x1C + IntTy.code t

/-! ### The error log (spec/19 R349) -/

/-- Write a record, or count it in LOGOVF when the ring is full. -/
def State.logErr (s : State) (k : CtxKey) (r : ErrRec) : State :=
  s.modCtx k (fun c =>
    if c.err.length < 1024 then { c with err := c.err ++ [r] }
    else { c with logovf := min (c.logovf + 1) (2 ^ 32 - 1) })

/-- A record of an event with the coordinates of a team. -/
def State.errRec (s : State) (k : CtxKey) (team : Nat) (code : Nat) (addr pc detail : DWord) (m grp : Nat) : ErrRec :=
  let t := s.team? team
  ⟨(s.module k.m).wall, addr, pc, (t.map (·.x)).getD 0, (t.map (·.y)).getD 0, (t.map (·.z)).getD 0, detail, m, grp,
    code⟩

/-! ### The debug block (spec/18 R321) -/

/-- A 64-bit word of a context's debug block. -/
def State.dbg (s : State) (k : CtxKey) (off : Nat) : Nat :=
  match s.ctx? k with
  | some c => mnat s.mem (c.p.dbgBase + off) 8
  | none => 0
def State.setDbg (s : State) (k : CtxKey) (off v : Nat) : State :=
  match s.ctx? k with
  | some c => { s with mem := mwriteN s.mem (c.p.dbgBase + off) (toBytes 8 v) }
  | none => s
/-- SEQ of the trigger sequencer. -/
def State.seq (s : State) (k : CtxKey) : Nat := s.dbg k 0x20 % 4
/-- Write a 64-byte record to the capture ring (spec/18 R321). -/
def State.capture (s : State) (k : CtxKey) (r : List DWord) : State :=
  let lg := s.dbg k 0x10 % 32
  if 6 ≤ lg && lg ≤ 24 then
    let n := s.dbg k 0x18
    let s := { s with mem := mwriteN s.mem (s.dbg k 0x08 + 64 * (n % 2 ^ lg)) (r.flatMap (fun (w : DWord) => toBytes 8 w.toNat)) }
    s.setDbg k 0x18 ((n + 1) % 2 ^ 64)
  else s
/-- An event brings a record: the issue entry of core ICORE while ISSEN is set, the record of a trc while TRCEN is set, as the fields
stand when it is taken (spec/18 R321, R324, R334). -/
def State.bringsRec (s : State) (k : CtxKey) (e : TrigEv) : Bool :=
  let ctl := s.dbg k 0
  match e.rec_ with
  | [] => false
  | [_] => ctl.testBit 2 && ctl / 2 ^ 16 % 1024 == e.core
  | _ => ctl.testBit 1
/-- Offer an event to the context's sequencer, which takes it later (spec/18 R331). -/
def State.offer (s : State) (k : CtxKey) (e : TrigEv) : State :=
  s.modCtx k (fun c => { c with trig := c.trig ++ [e] })
/-- An event of code and argument from a team. -/
def State.event (s : State) (k : CtxKey) (core team code arg : Nat) : State :=
  let t := s.team? team
  s.offer k ⟨s.wall k.m, core, none, none, code, arg, (t.map (·.x)).getD 0, (t.map (·.y)).getD 0,
    (t.map (·.z)).getD 0, []⟩

/-! ### Groups and fragments -/

def Group.frag (g : Group) : Slot → Option Frag
  | .f0 => g.f0
  | .f1 => g.f1
def Group.setFrag (g : Group) (sl : Slot) (f : Option Frag) : Group :=
  match sl with
  | .f0 => { g with f0 := f }
  | .f1 => { g with f1 := f }
def Slot.other : Slot → Slot
  | .f0 => .f1
  | .f1 => .f0
def slotIx : Slot → Nat
  | .f0 => 0
  | .f1 => 1

/-! ### Queue blocks (spec/14 R277, R284) -/

def State.queue? (s : State) (k : CtxKey) (q : Nat) : Option Queue :=
  (s.ctx? k).bind (fun c => (c.queues.find? (fun e => e.1 == q)).map (·.2))
def State.modQueue (s : State) (k : CtxKey) (q : Nat) (f : Queue → Queue) : State :=
  s.modCtx k (fun c => { c with queues := c.queues.map (fun (e : Nat × Queue) => if e.1 = q then (e.1, f e.2) else e) })
/-- TAIL, HEAD and PROGRESS[62:0] of a queue block. -/
def State.qTail (s : State) (q : Queue) : Nat := mnat s.mem q.block 8
def State.qDone (s : State) (q : Queue) : Nat := mnat s.mem (q.block + 8) 8 % 2 ^ 63
def State.qHead (s : State) (q : Queue) : Nat := mnat s.mem (q.block + 16) 8
def Queue.slots (q : Queue) : Nat := 2 ^ q.logsz
def Queue.slotBytes (q : Queue) : Nat := if q.data then 8 else 64
/-- The address of slot i. -/
def Queue.slotAt (q : Queue) (i : Nat) : Nat := q.ring + q.slotBytes * (i % q.slots)
/-- TAIL lies between HEAD and HEAD + 2^LOGSZ. -/
def State.qValid (s : State) (q : Queue) : Bool :=
  decide (s.qHead q ≤ s.qTail q) && decide (s.qTail q - s.qHead q ≤ q.slots)
/-- Nothing starts or pops while TAIL is not valid, or after a WAIT_EVENT on an inactive event. -/
def Queue.off (q : Queue) : Bool := q.stopped || q.badEvent

/-! ### What is outstanding -/

/-- A request that stays pending where other destinations must have landed: a lock request that waits in a bobbin queue, a qpop that
waits on an empty queue (spec/02 R32). -/
def State.stays (s : State) (g : Group) (f : Flight) : Bool :=
  match f.kind with
  | .lock _ l _ _ _ => !f.ready && (s.line l).queue.any (fun w => w.team == g.team && w.gidx == g.gidx && w.flight == f.id)
  | .qpop _ q => !f.ready && (s.queue? g.key q).any (fun u => u.off || s.qHead u == s.qTail u)
  | .value | .load .. | .atom .. | .bar .. | .launch .. | .shuttle .. => false

/-- Fragments have fused into one with a mask: what any of them has outstanding is program-order-before all its lanes' later words, and
so are the write commit times returned to them; among what is outstanding the order stays as it was (spec/03 R57). -/
def Group.fuse (g : Group) (m : LaneMask) : Group :=
  let wide (x : LaneMask) : LaneMask := if x &&& m = 0#32 then x else x ||| m
  let past (x : LaneMask) (p : PastMasks) : PastMasks := if wide x = x then p else p ++ [(g.nextId, x)]
  let all (n : NMap Nat) : NMap Nat := let t := (lanesOf m).foldl (fun t l => max t (nget 0 n l)) 0
    (lanesOf m).foldl (fun n l => nset 0 n l t) n
  { g with
    flights := g.flights.map (fun f => { f with mask := wide f.mask, past := past f.mask f.past })
    sb := g.sb.map (fun e => { e with mask := wide e.mask, past := past e.mask e.past })
    loc := g.loc.map (fun e => { e with mask := wide e.mask, past := past e.mask e.past })
    wbs := g.wbs.map (fun e => { e with mask := wide e.mask, past := past e.mask e.past })
    gwct := all g.gwct }

/-- Flights of the lanes of a mask (spec/03 R57). -/
def Group.flightsOf (g : Group) (m : LaneMask) : List Flight := g.flights.filter (fun f => f.mask &&& m ≠ 0#32)

/-- An eyelet in flight of group number grp with a lane in a mask (spec/07 R134). -/
def Core.eyeletIn (c : Core) (grp : Nat) (m : LaneMask) : Bool :=
  c.eyelets.any (fun e => e.grp == grp && e.lmask &&& m ≠ 0#32)

/-- The flights of the lanes with a destination that has not landed: a register whose writes are discarded is none (spec/02
R30, R32). -/
def Group.pendingOf (g : Group) (m : LaneMask) : List Flight := (g.flightsOf m).filter (fun f => !f.dests.isEmpty)

/-- Every pending destination of the lanes has landed or failed, but for the requests that may stay (spec/02 R32). -/
def State.settled (s : State) (g : Group) (m : LaneMask) : Bool := (g.pendingOf m).all (s.stays g)

/-- The windows of a fragment that requests of some lanes opened close, when those lanes leave them pending (spec/02 R32). -/
def Group.closeStays (g : Group) (m : LaneMask) (f : Frag) : Frag :=
  { f with windows := f.windows.filter (fun w => !(g.pendingOf m).any (fun fl => fl.id == w.flight)) }

/-! ### Taking an exception (spec/14 R263, R265, R268) -/

/-- A trap: cause code, the lanes that met the condition (none: the fragment's mask), HADDR, DETAIL, HPC when it is not
the trapping word (spec/14 R264), the error-log record that comes with it (spec/15 R293). -/
structure TrapInfo where
  code : Nat
  lanes : Option LaneMask := none
  addr : DWord := 0
  detail : Nat := 0
  hpc : Option DWord := none
  log : Option ErrRec := none
  walks : List TEnt := []
deriving DecidableEq, Repr

/-- HSTAT (spec/14 R263). -/
def hstatOf (code : Nat) (lanes : LaneMask) (late : Bool) (detail : Nat) : DWord :=
  BitVec.ofNat 64 (detail * 2 ^ 42 + lanes.toNat * 2 ^ 10 + (if late then 256 else 0) + code)

/-- The handler entry address of a context (spec/14 R265). -/
def State.handlerEntry (s : State) (k : CtxKey) : DWord := ((s.ctx? k).map (·.p.handler)).getD 0

/-- Make a late cause pending; two arrivals of one cause give one trap (spec/14 R269). -/
def Group.pend (g : Group) (l : Late) : Group :=
  if g.ended || g.late.any (fun x => x.code == l.code) then g else { g with late := g.late ++ [l] }

/-- The late cause of a fragment that waits on an object which has left its level (spec/09 R175). -/
def Frag.goneLate (f : Frag) : Option Late :=
  f.wait.bind (fun w => if w.gone then some ⟨0x07, f.mask, w.ba, f.pc, 0⟩ else none)

/-- Handler entry of a fragment: trap registers, entry state, redirect; the windows that the other fragment inherited from the
requests that stay pending close with its own (spec/14 R265, spec/02 R32); where the other fragment too is to take the late trap of
a vanished object, that cause stays pending for it (spec/09 R175). -/
def Group.enter (g : Group) (sl : Slot) (f : Frag) (entry : DWord) (cycle : Nat) (hstat hpc haddr hapc : DWord) : Group :=
  let g := { g with
    sr := { g.sr with hstat := hstat, hpc := hpc, hmask := f.mask.setWidth 64, haddr := haddr, hapc := hapc }
    handler := some ⟨sl, f.tok, f.rj, f.depth, f.mask⟩
    taker := none }
  let g := g.setFrag (Slot.other sl) ((g.frag (Slot.other sl)).map (g.closeStays f.mask))
  let g := match (g.frag (Slot.other sl)).bind Frag.goneLate with
    | none => g
    | some l => { g.pend l with taker := some (Slot.other sl) }
  g.setFrag sl (some { f with pc := entry, tok := 0, rj := 0, depth := 0, windows := [], only := none, wait := none,
                              bpSkip := false, fence := none, hits := [], issueAt := cycle + 4 })

/-- A data-lost trap adds 1 to LOSTTRAP (spec/19 R347). -/
def State.countTrap (s : State) (g : Group) (code : Nat) : State :=
  if code = 0x0A then s.count g.key 0x6002 1 else s

/-- TeamStop: every group of the team is marked halting; a second cause is reported with the first and stops nothing further (spec/18
R329). -/
def State.teamStop (s : State) (team : Nat) (cause : StopCause) (pc : DWord) (at_ : Option (Nat × Slot)) : State :=
  match s.team? team with
  | none => s
  | some t =>
    if t.halted || t.st == .ended then s
    else if t.stop.isSome then { s with teams := tset s.teams team { t with also := t.also ++ [(cause, pc)] } }
    else { s with
      teams := tset s.teams team { t with stop := some (cause, pc), stopAt := at_, stepping := false }
      groups := s.groups.map (fun (e : GKey × Group) => if e.2.team = team then (e.1, { e.2 with halting := true }) else e) }

/-- The fragment that svdb steps has issued its word: the team stops before the next (spec/18 R329). -/
def State.noteStep (s : State) (k : GKey) (sl : Slot) (g : Group) : State :=
  match s.team? g.team with
  | none => s
  | some t => if t.stepping && t.stopAt == some (g.gidx, sl) then
      s.teamStop g.team .step ((((s.group? k).bind (fun g => g.frag sl)).map (fun (f : Frag) => f.pc)).getD 0) (some (g.gidx, sl)) else s

/-- Escalation of a trap in handler mode to a context fault (spec/14 R268). -/
def State.escalate (s : State) (k : GKey) (g : Group) (f : Frag) (code : Nat) : State :=
  let t := s.team? g.team
  let rec_ : CtxFault := ⟨(t.map (·.x)).getD 0, (t.map (·.y)).getD 0, (t.map (·.z)).getD 0, g.gidx, g.sr.hstat,
    g.sr.hpc, g.sr.haddr, code, f.pc⟩
  let s := s.modCtx g.key (fun c => { c with halted := true, fault := c.fault.orElse (fun _ => some rec_) })
  let s := { s with groups := s.groups.map (fun (e : GKey × Group) => if e.2.key = g.key then (e.1, { e.2 with halting := true }) else e) }
  s.event g.key k.c g.team 4 code

/-- The entries that a walk read stay in the walker cache of the die and, of a core, the leaf in its own cache (spec/15 R295, spec/17
R319). -/
def addEntries (c es : List TEnt) : List TEnt :=
  es.foldl (fun c t => if c.contains t then c else t :: c.filter (fun u => !(u.ctx == t.ctx && u.pa == t.pa && u.tag == t.tag))) c
def State.noteDieWalk (s : State) (d : DieKey) (es : List TEnt) : State :=
  if es.all (fun t => (s.die d).walker.contains t) then s
  else s.modDie d (fun x => { x with walker := addEntries x.walker es })
def State.noteWalk (s : State) (k : CoreKey) (es : List TEnt) : State :=
  let leaves := es.filter (fun t => t.e.testBit 63 && t.e.testBit 62 && !t.bad)
  let s := if leaves.all (fun t => (s.core k).tlb.contains t) then s
    else s.modCore k (fun c => { c with tlb := addEntries c.tlb leaves })
  s.noteDieWalk k.die es

/-- Take a precise trap: wait as spec/02 R32 and R265 require, escalate in handler mode, or enter the handler. -/
def State.takeTrap (s : State) (k : GKey) (sl : Slot) (g : Group) (f : Frag) (t : TrapInfo) : State :=
  if !s.settled g f.mask || (s.core k.core).eyeletIn k.g f.mask then s
  else
    let s := (match t.log with
      | some r => s.logErr g.key r
      | none => s).noteWalk k.core t.walks
    if g.handler.isSome then s.escalate k g f t.code
    else
    let s := s.countTrap g t.code
    let g' := g.enter sl f (s.handlerEntry g.key) (s.core k.core).cycle
      (hstatOf t.code (t.lanes.getD f.mask) false t.detail) (t.hpc.getD f.pc) t.addr 0
    (s.setGroup k g').event g.key k.c g.team 4 t.code

/-- The pending late cause with the lowest code (spec/14 R269). -/
def lowestLate : List Late → Option Late
  | [] => none
  | l :: ls => match lowestLate ls with
    | none => some l
    | some l' => some (if l'.code < l.code then l' else l)

/-- Take the lowest pending late cause at an instruction boundary; a cause that no lane met names the mask of the taking
fragment (spec/14 R263, R269). A fragment that has to wait for what it has outstanding is the one that takes it. -/
def State.takeLate (s : State) (k : GKey) (sl : Slot) (g : Group) (f : Frag) : State :=
  match lowestLate g.late with
  | none => s
  | some l =>
    if g.handler.isSome then s
    else if !s.settled g f.mask || (s.core k.core).eyeletIn k.g f.mask then s.modGroup k (fun g => { g with taker := some sl })
    else
      let s := s.countTrap g l.code
      let g := { g with late := g.late.filter (fun x => x.code ≠ l.code) }
      let g' := g.enter sl f (s.handlerEntry g.key) (s.core k.core).cycle (hstatOf l.code (if l.lanes = 0 then f.mask else l.lanes) true l.detail)
        f.pc l.addr l.pc
      (s.setGroup k g').event g.key k.c g.team 4 l.code

/-! ### Issue (spec/03 R61, spec/02 R38) -/

/-- What an instruction acts on: the state, the fragment's place, its group with the windows counted for this issue, the
fragment as it issued, the group's team and context, Active() and the address of the next word. -/
structure Iss where
  s : State
  k : GKey
  sl : Slot
  g : Group
  f : Frag
  act : LaneMask
  next : DWord
deriving DecidableEq, Repr

/-- The guard of an instruction (spec/02 R29). -/
def Instr.guardOf : Instr → Guard
  | .braDiv g _ _ => g
  | .vadd f | .vsub f | .vmulLo f | .vmulHi f | .vmad f | .vmin f | .vmax f | .vabs f | .vand f | .vor f | .vxor f
  | .vandn f | .vnot f | .vshl f | .vshr f | .vsar f | .vrot f | .vpopc f | .vclz f | .vctz f | .vbrev f | .vbfe f
  | .vbfi f | .vmov f | .vlea f | .vsext f | .vzext f => f.g
  | .vcmp f => f.g
  | .vsel f => f.g
  | .vmovw f => f.g
  | .vaddImm f | .vandImm f | .vorImm f | .vxorImm f | .vshlImm f | .vshrImm f | .vsarImm f | .vmovImm f => f.g
  | .vcmpImm f => f.g
  | .shflIdx f | .shflUp f | .shflDn f | .shflXor f => f.g
  | .voteAny f | .voteAll f => f.g
  | .voteBal f => f.g
  | .redux f => f.g
  | .vtos f => f.g
  | .stov f => f.g
  | .fadd f | .fsub f | .fmul f | .fma f | .frcp f | .frsq f | .fsqrt f | .fex2 f | .flg2 f | .ftanh f => f.g
  | .fmin f | .fmax f => f.g
  | .fcmp f => f.g
  | .fdot4 f => f.g
  | .cvt f => f.g
  | .cvtFi f => f.g
  | .cvtIf f => f.g
  | .qblkHist f => f.g
  | .qblkClip f => f.g
  | .qblkQ f => f.g
  | .ldl f | .stl f | .lds f | .sts f | .ldd f | .std f | .ldk f | .stk f | .ldg f | .stg f | .ldSpec f | .stAck f => f.g
  | .pf f _ | .cwb f | .cinv f => f.g
  | .atomAdd f | .atomMin f | .atomMax f | .atomAnd f | .atomOr f | .atomXor f | .atomSwap f | .atomCas f
  | .redAdd f | .redMin f | .redMax f | .redAnd f | .redOr f | .redXor f => f.g
  | .atomFaddF32 f | .atomFaddBf16 f | .redFaddF32 f | .redFaddBf16 f => f.g
  | .lck f | .lckTry f => f.g
  | .unlk f => f.g
  | .fflArr f | .fflB32 f | .fflB64 f => f.g
  | .shtl f | .shtlT f => f.g
  | _ => ⟨7, false⟩

/-- Tile instructions are legal only for a launch with TILES (spec/10 R204). -/
def Instr.isTile : Instr → Bool
  | .tld _ | .tst _ | .tzero _ _ | .mmac _ | .mmacg _ | .taccLd _ | .taccSt _ | .tcvt _ => true
  | _ => false

/-- The branch targets taken from registers (spec/02 R24); a ret whose lanes differ has none, so that its trap is divergent-return
(spec/03 R51; log entry 87). -/
def Instr.regTarget (i : Instr) (r : Regs) (f : Frag) : Option DWord :=
  match i with
  | .brx a => some (r.rdS a.val)
  | .callx _ a => some (r.rdS a.val)
  | .ret a => match lanesOf f.mask with
    | [] => none
    | l :: ls => let t := r.rdV64 a.val l
                 if ls.all (fun x => r.rdV64 a.val x == t) then some t else none
  | _ => none

/-- rfh is illegal outside handler mode, at a depth above 0, or with HPC bits 2:0 not zero (spec/14 R258, R266). A frame
opened in handler mode holds every lane of the fragment that opened it, so that one remains only while the depth is above 0
(spec/03 R53 to R56; log entry 41). -/
def rfhIllegal (g : Group) (f : Frag) : Bool :=
  match g.handler with
  | none => true
  | some _ => f.depth != 0 || g.sr.hpc &&& 7#64 != 0#64

/-- The illegal conditions that depend on the machine (spec/02 R35, spec/10 R204, spec/14 R266). -/
def Instr.illegalHere (i : Instr) (s : State) (g : Group) (f : Frag) : Bool :=
  match i with
  | .rfh => rfhIllegal g f
  | .mfs _ n | .mts _ n => g.handler.isNone && (sregKind n.toNat).any (·.2.2)
  | i => Instr.isTile i && !((s.team? g.team).any (·.tiles))

/-- The first decode trap of a word (spec/02 R38, steps 1 to 4). -/
def Instr.decodeTrap (i : Instr) (s : State) (g : Group) (f : Frag) : Option TrapInfo :=
  let tgt := Instr.regTarget i g.regs f
  if tgt.any (fun t => t &&& 63#64 ≠ 0#64) then some { code := 0x01, addr := tgt.getD 0 }
  else if !i.wf || Instr.illegalHere i s g f then some { code := 0x02 }
  else if (Instr.named i).any (fun r => match r with | .v n => g.nregs ≤ n | _ => false) then some { code := 0x03 }
  else if f.windows.any (fun w => 0 < w.left && w.dests.any (fun d => (Instr.live i).contains d)) then
    some { code := 0x04 }
  else none

/-- The pseudo-register that stands for the FMODE flags in the interlock (spec/06 R95). -/
def fmodeReg : Reg := .q 4

/-- A short-latency result of these registers is not yet readable (spec/03 R63), or a pending destination of either
fragment holds the word (spec/02 R31, spec/03 R58). -/
def Group.interlocked (g : Group) (rs : List Reg) (cycle : Nat) : Bool :=
  g.regReady.any (fun e => rs.contains e.1 && decide (cycle < e.2)) ||
  g.flights.any (fun fl => fl.dests.any (fun d => rs.contains d))

/-- A register of the word holds the fragment back: a short-latency result that is not yet readable, or a pending destination, but for
one that an open window of the fragment protects, at which the word traps (spec/02 R31, R32; spec/03 R58, R61). -/
def Group.regHeld (g : Group) (f : Frag) (rs : List Reg) (cycle : Nat) : Bool :=
  g.regReady.any (fun e => rs.contains e.1 && decide (cycle < e.2)) ||
  g.flights.any (fun fl => fl.dests.any (fun d => rs.contains d) && !f.windows.any (fun w => decide (0 < w.left) && w.flight == fl.id))

/-- The registers an mfs or mts waits for beside its operands: FMODE (spec/06 R95). -/
def Instr.waitRegs (i : Instr) : List Reg :=
  match i with
  | .mfs _ n | .mts _ n => if n = 0x021#12 then fmodeReg :: Instr.live i else Instr.live i
  | i => Instr.live i

/-- An mfs or mts of FMODE waits for every earlier instruction of class 0x05 or 0x06, whatever registers it writes (spec/06
R95). -/
def Instr.waitFloat (i : Instr) (g : Group) : Bool :=
  match i with
  | .mfs _ n | .mts _ n => n == 0x021#12 && g.flights.any (fun fl => fl.cls == 5 || fl.cls == 6)
  | _ => false

/-- The fragment issues nothing in this cycle: its stores still enter, its delay is not over, or its issue slot has issued (spec/03
R60 to R63, spec/12 R254). -/
def State.early (s : State) (k : GKey) (f : Frag) : Bool :=
  !f.entering.isEmpty || decide ((s.core k.core).cycle < f.issueAt) ||
  decide ((s.core k.core).cycle < nget 0 (s.core k.core).lastIssue (k.g % 4))

/-- The fragment is at the end of a window whose instruction has not landed (spec/02 R30). -/
def Group.windowStall (g : Group) (f : Frag) : Bool :=
  f.windows.any (fun w => w.left == 0 && g.flights.any (fun fl => fl.id == w.flight))

/-- A load that a save abandoned executes again before the fragment issues anything else (spec/14 R272). -/
def Group.replays (g : Group) (f : Frag) : Bool :=
  g.flights.any (fun fl => fl.mask &&& f.mask != 0#32 && fl.ready && (match fl.kind with
    | .load .. => true
    | .value | .atom .. | .lock .. | .bar .. | .qpop .. | .launch .. | .shuttle .. => false))

/-- A watch of the group's path that asks for a stop has been hit: the team's fragments stand at their next instruction boundaries
(spec/18 R336). -/
def State.watchHolds (s : State) (g : Group) : Bool :=
  s.watches.any (fun w => w.path == .group && w.team == g.team && w.key == g.key && (s.dbg g.key (0x88 + 16 * w.w)).testBit 50)

/-- The fragment may not issue now, whatever its word (spec/03 R61, spec/02 R30, spec/12 R254). In handler mode only the handler's
own fragments issue: those whose lanes the entry mask holds (spec/14 R265). -/
def State.heldFrag (s : State) (k : GKey) (_sl : Slot) (g : Group) (f : Frag) : Bool :=
  g.halting || g.ended || g.replay.isSome || f.wait.isSome || s.early k f ||
  g.handler.any (fun h => f.mask &&& h.mask == 0#32) || g.windowStall f || g.replays f ||
  s.watchHolds g

/-- Pending causes may be taken: outside handler mode, while the group runs (spec/14 R269). -/
def Group.lateOpen (g : Group) : Bool :=
  !g.late.isEmpty && g.handler.isNone && !g.halting && !g.ended && g.replay.isNone

/-- The fragment waits at a barrier, at a lock or in a qpop: past the window of such a request, or at a word that names its
registers. There it stands at an instruction boundary (spec/14 R269). -/
def State.waitsThere (s : State) (g : Group) (f : Frag) (rs : List Reg) : Bool :=
  f.wait.isSome || g.flights.any (fun fl => s.stays g fl && fl.mask &&& f.mask != 0#32 &&
    (f.windows.any (fun w => w.left == 0 && w.flight == fl.id) || fl.dests.any (fun d => rs.contains d)))

/-- The fragment takes a pending cause whatever its word would do: it was the first about to issue and had to wait for what it has
outstanding, or it stands at a boundary, at a word that names registers rs (none: a word that has not been fetched) (spec/14 R269). -/
def State.takesLate (s : State) (k : GKey) (sl : Slot) (g : Group) (f : Frag) (rs : Option (List Reg)) : Bool :=
  g.lateOpen && !s.early k f && (match g.taker with
    | some t => t == sl
    | none => s.waitsThere g f (rs.getD []))
/-- A pending cause is taken by the first fragment that is about to issue a word: before that word does anything (spec/14 R269). -/
def Group.lateFirst (g : Group) : Bool := g.lateOpen && g.taker.isNone

/-- Count the issue of one word in every open window; a window whose flight has landed closes (spec/02 R30, R32). -/
def Frag.countIssue (f : Frag) : Frag :=
  { f with windows := (f.windows.filter (fun w => 0 < w.left)).map (fun w => { w with left := w.left - 1 })
           bpSkip := false, fence := none, hits := [] }

/-- What stands before an instruction's own effect. -/
inductive Pre where
  /-- The fragment slot is empty. -/
  | empty
  /-- A late cause is taken first (spec/14 R269). -/
  | late (k : GKey) (sl : Slot) (g : Group) (f : Frag)
  /-- The fragment does not issue now. -/
  | hold
  /-- The word raises a decode trap. -/
  | trap (k : GKey) (sl : Slot) (g : Group) (f : Frag) (t : TrapInfo)
  /-- The word issues. -/
  | go (x : Iss)
  /-- A pending cause is taken first, once the word would do something (spec/14 R269). -/
  | first (x : Iss)
  /-- The word reads a damaged register of the whole fragment: it issues and has no effect (spec/19 R347). -/
  | lost (x : Iss)
deriving DecidableEq, Repr

/-- A register of the whole fragment, not of one lane. -/
def Reg.whole : Reg → Bool
  | .s _ | .q _ => true
  | .v _ | .p _ => false
/-- The lanes in which a word reads a damaged register of a lane (spec/19 R347). -/
def Group.badLanes (g : Group) (i : Instr) (mask : LaneMask) : LaneMask :=
  maskOf ((g.badRegs.filter (fun b => !Reg.whole b.1 && (Instr.regs i).1.contains b.1)).map (·.2)) &&& mask
/-- A word reads a damaged scalar register or scalar predicate. -/
def Group.badWhole (g : Group) (i : Instr) : Bool := g.badRegs.any (fun b => Reg.whole b.1 && (Instr.regs i).1.contains b.1)
/-- The damaged registers that are left once a word has written its destinations. -/
def Group.mended (g : Group) (i : Instr) (act : LaneMask) : List (Reg × Nat) :=
  if g.badWhole i then g.badRegs
  else g.badRegs.filter (fun b => !((Instr.dests i).contains b.1 && (Reg.whole b.1 || act.getLsbD b.2)))

/-- The lanes of the fragment for which a word executes: its guard, the lanes left after rfh or a replay, none that has lost an
operand (spec/02 R29; spec/07 R130; spec/14 R266; spec/19 R347). -/
def Instr.active (i : Instr) (g : Group) (f : Frag) : LaneMask :=
  f.mask &&& g.regs.guard (Instr.guardOf i) &&& f.only.getD allLanes &&& ~~~(g.badLanes i f.mask)
/-- The group once a word has met its damaged registers: a late cause of the lanes that lose an operand, and the registers that it
writes are good again (spec/19 R347). -/
def Group.met (g : Group) (i : Instr) (f : Frag) : Group :=
  if g.badRegs.isEmpty then g
  else
    let lost := if g.badWhole i then f.mask else g.badLanes i f.mask
    { (if lost = 0 then g else g.pend ⟨0x0A, lost, 0, f.pc, 0⟩) with badRegs := g.mended i (Instr.active i g f) }

/-- The issue of a word by the fragment State.cur, up to its execution (spec/02 R38, spec/03 R61). -/
def prelude (i : Instr) (s : State) : Pre :=
  let k := s.cur.k
  let sl := s.cur.slot
  match s.group? k with
  | none => .empty
  | some g => match g.frag sl with
    | none => .empty
    | some f =>
      if s.takesLate k sl g f (some (Instr.waitRegs i)) then .late k sl g f
      else if s.heldFrag k sl g f || g.regHeld f (Instr.waitRegs i) (s.core k.core).cycle || Instr.waitFloat i g then .hold
      else
        match Instr.decodeTrap i s g f with
        | some t => if g.lateFirst then .late k sl g f else .trap k sl g f t
        | none =>
          let f' := f.countIssue
          let x : Iss := ⟨s, k, sl, (g.met i f).setFrag sl (some f'), f', Instr.active i g f, f.pc + BitVec.ofNat 64 (8 * Instr.words i)⟩
          if g.lateFirst then .first x else if g.badWhole i then .lost x else .go x

/-- What the execution of an issuable word gives: it does not issue yet; it waits with what it has found; it traps; it took
effect. -/
inductive Res where
  | wait
  | hold (s : State)
  | trap (t : TrapInfo)
  | ok (s : State)
deriving DecidableEq, Repr

/-- Mark the issue slot as used in this cycle (spec/03 R60, R62). -/
def State.noteIssue (s : State) (k : GKey) (sl : Slot) : State :=
  s.modCore k.core (fun c => { c with lastIssue := nset 0 c.lastIssue (k.g % 4) (c.cycle + 1)
                                      lastPos := nset 0 c.lastPos (k.g % 4) (2 * k.g + slotIx sl + 1) })

/-- The events a word's issue offers to the debug facilities: selector PC (spec/18 R331) and the issue trace (R334). -/
def State.noteDebug (s : State) (k : GKey) (sl : Slot) (g : Group) (pc : DWord) : State :=
  let t := s.team? g.team
  let c := s.core k.core
  let ent : DWord := BitVec.ofNat 64 (c.cycle % 2 ^ 32 * 2 ^ 32 + k.g % 4 * 2 ^ 30 + k.g * 2 ^ 25 +
    slotIx sl * 2 ^ 24 + pc.toNat / 8 % 2 ^ 24)
  s.offer g.key ⟨s.wall k.m, k.c, some pc, none, 0, 0, (t.map (·.x)).getD 0, (t.map (·.y)).getD 0,
    (t.map (·.z)).getD 0, [ent]⟩

/-- A word takes a trap: unless it still waits, that is what the stepped fragment's word does. -/
def State.wordTrap (s : State) (k : GKey) (sl : Slot) (g : Group) (f : Frag) (t : TrapInfo) : State :=
  let s' := s.takeTrap k sl g f t
  if (s'.group? k).any (fun g' => g'.handler.isSome) && g.handler.isNone then s'.noteStep k sl g else s'

/-- What every word that takes effect adds to its effect: the slot is used, the debug facilities take notice. -/
def Iss.done (x : Iss) (s : State) : State :=
  ((s.noteIssue x.k x.sl).noteDebug x.k x.sl x.g x.f.pc).noteStep x.k x.sl x.g

/-- The word's fragment takes a pending cause first, at the word (spec/14 R269). -/
def Iss.late (x : Iss) : State :=
  match (x.s.group? x.k).bind (fun g => (g.frag x.sl).map (fun f => (g, f))) with
  | some (g, f) => x.s.takeLate x.k x.sl g f
  | none => x.s

/-! ### Finishing a word -/

/-- The core cycle of the issuing fragment. -/
def Iss.cycle (x : Iss) : Nat := (x.s.core x.k.core).cycle

/-- The group with the executing fragment at a PC. -/
def Group.goto (g : Group) (sl : Slot) (f : Frag) (pc : DWord) : Group :=
  g.setFrag sl (some { f with pc := pc, only := none })

/-- Registers written by a short-latency word become readable 4 cycles on (spec/03 R63). -/
def Group.shortReady (g : Group) (rs : List Reg) (cycle : Nat) : Group :=
  { g with regReady := (g.regReady.filter (fun e => cycle < e.2 && !rs.contains e.1)) ++
      (rs.filter isDest).map (fun r => (r, cycle + 4)) }

/-- A short-latency word: its register results, the interlock of its destinations, the next PC (spec/03 R63). -/
def Iss.short (x : Iss) (dests : List Reg) (regs : Regs) : State :=
  x.s.setGroup x.k (({ x.g with regs := regs }.shortReady dests x.cycle).goto x.sl x.f x.next)

/-- A word that changes nothing but the group and goes on to the next word. -/
def Iss.step (x : Iss) (g : Group) : State := x.s.setGroup x.k (g.goto x.sl x.f x.next)

/-- An instruction word: a pending cause or its decode traps, then its own effect (spec/02 R38; spec/14 R269). -/
def issue (i : Instr) (s : State) (body : Iss → Res) : Out :=
  match prelude i s with
  | .empty => .fault .noFragment
  | .late k sl g f => .next (s.takeLate k sl g f)
  | .hold => .next s
  | .trap k sl g f t => .next (s.wordTrap k sl g f t)
  | .go x => match body x with
    | .wait => .next s
    | .hold s' => .next s'
    | .trap t => .next (s.wordTrap x.k x.sl x.g x.f t)
    | .ok s' => .next (x.done s')
  | .first x => match body x with
    | .wait => .next s
    | .hold s' => .next s'
    | .trap _ | .ok _ => .next x.late
  | .lost x => .next (x.done (x.step x.g))

/-- FMODE with flags set (spec/06 R95). -/
def orFlags (fmode : DWord) (fl : Flags) : DWord := fmode ||| ((fl.setWidth 64 : DWord) <<< 8)

/-- Open an outstanding instruction with its window; one without a destination opens none, since nothing is awaited (spec/02
R30). -/
def Group.launchFlight (g : Group) (sl : Slot) (f : Frag) (next : DWord) (la : Nat) (fl : Flight) : Group :=
  let fl := { fl with id := g.nextId, ord := g.nextId }
  let g := { g with nextId := g.nextId + 1, flights := g.flights ++ [fl] }
  g.setFrag sl (some { f with pc := next, only := none
                              windows := if fl.dests.isEmpty then f.windows else f.windows ++ [⟨la, fl.id, fl.dests⟩] })

/-- A fresh outstanding instruction of the issuing fragment. -/
def Iss.flight (x : Iss) (kind : FlightKind) (dests : List Reg) : Flight where
  id := 0
  ord := 0
  cls := 0
  pc := x.f.pc
  mask := x.f.mask
  act := x.act
  kind := kind
  dests := dests
  acq := false
  parts := []
  writes := []
  flags := 0#5
  ready := false
  landAt := 0
  issued := x.cycle
  wallAt := x.s.wall x.k.m
  blocked := false
  lease := x.g.sr.lease.toNat
  hits := []
  past := []
  refused := []

/-- A word of a CLASS whose results land a fixed number of cycles after issue (spec/05 R83, spec/06 R98, R105), or, with 0
cycles, at some time (spec/02 R360). -/
def Iss.later (x : Iss) (cls la : Nat) (dests : List Reg) (cycles : Nat) (ws : List RegW) (fl : Flags) : State :=
  let f := { x.flight .value dests with cls := cls, writes := ws, flags := fl, ready := true, landAt := x.cycle + cycles }
  x.s.setGroup x.k (x.g.launchFlight x.sl x.f x.next la f)

/-- The bytes of a load's parts are all taken. -/
def Flight.complete (fl : Flight) : Bool := fl.parts.all (fun p => p.bytes.isSome)

/-- The bytes one lane of a load has taken, in address order of its parts (spec/07 R111). -/
def Flight.laneBytes (fl : Flight) (lane : Nat) : List Byte :=
  (fl.parts.filter (fun p => p.lane == lane)).flatMap (fun p => p.bytes.getD [])

/-- The register writes of an outstanding instruction that may land now (spec/02 R30): the values it holds, or those of
the bytes its parts took. -/
def Flight.landing (fl : Flight) (cycle : Nat) : Option (List RegW) :=
  match fl.kind with
  | .load size d =>
    if fl.complete then some ((lanesOf fl.act).flatMap (fun l =>
      let bs := fl.laneBytes l
      if bs.length = sizeBytes size then loadWrites size d l bs else []))
    else none
  | .value => if fl.landAt ≤ cycle then some fl.writes else none
  | .atom .. | .lock .. | .bar .. | .qpop .. | .launch .. | .shuttle .. => if fl.ready then some fl.writes else none

/-- A result with a fixed latency is due: its landing takes place in this core cycle (spec/02 R360). -/
def Flight.due (fl : Flight) (cycle : Nat) : Bool := decide (fl.issued < fl.landAt) && decide (fl.landAt ≤ cycle)

/-- Land an outstanding instruction: its registers, its FMODE flags, readable from the next cycle (spec/03 R63). -/
def Group.land (g : Group) (fl : Flight) (ws : List RegW) (cycle : Nat) : Group :=
  { g with
    regs := g.regs.apply ws
    sr := { g.sr with fmode := orFlags g.sr.fmode fl.flags }
    flights := g.flights.filter (fun f => f.id ≠ fl.id)
    regReady := g.regReady.filter (fun e => cycle < e.2) ++ fl.dests.map (fun r => (r, cycle + 1)) }

/-- Change one outstanding instruction of a group. -/
def Group.modFlight (g : Group) (id : Nat) (f : Flight → Flight) : Group :=
  { g with flights := g.flights.map (fun fl => if fl.id = id then f fl else fl) }
def Group.flight? (g : Group) (id : Nat) : Option Flight := g.flights.find? (fun f => f.id == id)
def Group.entry? (g : Group) (id : Nat) : Option SbEntry := g.sb.find? (fun f => f.id == id)

/-- Drop an outstanding instruction: it failed and lands nothing (spec/02 R32). -/
def Group.dropFlight (g : Group) (id : Nat) : Group := { g with flights := g.flights.filter (fun f => f.id ≠ id) }

/-! ### Every group of a state -/

/-- The groups of a team that are resident. -/
def State.groupsOf (s : State) (team : Nat) : List (GKey × Group) := s.groups.filter (fun e => e.2.team == team)
/-- The groups of a context that are resident. -/
def State.groupsOfCtx (s : State) (k : CtxKey) : List (GKey × Group) := s.groups.filter (fun e => e.2.key == k)

/-- Find the group of a team by its index, resident (left) or in the saved image (right). -/
def State.findGroup (s : State) (team gidx : Nat) : Option GKey :=
  (s.groups.find? (fun e => e.2.team == team && e.2.gidx == gidx)).map (·.1)

/-- Change a group of a team, resident or saved. -/
def State.modMember (s : State) (team gidx : Nat) (f : Group → Group) : State :=
  match s.findGroup team gidx with
  | some k => s.modGroup k f
  | none => s.modTeam team (fun t => { t with images := t.images.map (fun e => if e.1 = gidx then (e.1, f e.2) else e) })

/-- A group of a team, resident or saved. -/
def State.member? (s : State) (team gidx : Nat) : Option Group :=
  match s.findGroup team gidx with
  | some k => s.group? k
  | none => (s.team? team).bind (fun t => (t.images.find? (fun e => e.1 == gidx)).map (·.2))

/-- Make a late cause pending in a group of a team, resident or saved (spec/14 R269, R275). -/
def State.pendTeam (s : State) (team gidx : Nat) (l : Late) : State := s.modMember team gidx (fun g => g.pend l)

end Sys2Proof.Machine
end

