-- ==== Sys2Proof/Machine/Xlat.lean ====
section
/-! DEFINITION. Translation (spec/15 R290 to R298): the walk, the shard descriptors, what each page state does to an
access, the order of the trap rows (spec/07 R130), and the fault buffer (spec/15 R306, R307). -/

namespace Sys2Proof.Machine

/-- The module's own LPDDR-6 (spec/01 R6). -/
def ownLpddr (m pa : Nat) : Bool := paMod pa == m && pa < 2 ^ 58 && decide (pa % 2 ^ 48 < 0x018000000000)
/-- A populated physical address (spec/01 R6). -/
def State.populated (s : State) (pa : Nat) : Bool :=
  let a := pa % 2 ^ 48
  decide (pa < 2 ^ 58) && (decide (a < 0x018000000000) ||
    (decide (0x020000000000 ≤ a) && decide (a < 0x120000000000) &&
      decide (a - 0x020000000000 < Config.cxlBytes (s.module (paMod pa)).dev)))
/-- The home of an address is known lost (spec/15 R309). -/
def State.homeLost (s : State) (pa : Nat) : Bool :=
  (s.module (paMod pa)).lost || (s.module (paMod pa)).lostDies.contains (paDie pa)

/-! ### Page-table entries (spec/15 R291, R292) -/

def pteV (e : Nat) : Bool := e.testBit 63
def pteLeaf (e : Nat) : Bool := e.testBit 62
def pteState (e : Nat) : Nat := e / 2 ^ 59 % 8
def pteSgid (e : Nat) : Nat := e / 2 ^ 51 % 256
def pteFrame (e : Nat) : Nat := e / 2 ^ 6 % 2 ^ 45 * 2 ^ 13
def pteMig (e : Nat) : Bool := e.testBit 5
def pteX (e : Nat) : Bool := e.testBit 2
def pteW (e : Nat) : Bool := e.testBit 1
def pteRd (e : Nat) : Bool := e.testBit 0
/-- An entry with a new state and frame; the other fields stay. -/
def pteWith (e st frame : Nat) : Nat :=
  e / 2 ^ 62 * 2 ^ 62 + st % 8 * 2 ^ 59 + e / 2 ^ 51 % 256 * 2 ^ 51 + frame / 2 ^ 13 % 2 ^ 45 * 2 ^ 6 + e % 2 ^ 6

/-- A shard descriptor (spec/15 R297). -/
structure Desc where
  rndbase : Nat
  memb : Nat
  slbase : Nat
  ord : Bool
  k : Nat
  n : Nat
  npages : Nat
  vbase : Nat
deriving DecidableEq, Repr

/-- The bytes of a slice. -/
def Desc.sliceBytes (d : Desc) : Nat := 2 ^ 21 / d.n

/-- The descriptor of a shard group, where it is defined: valid but for the member that it names (spec/15 R297). -/
def State.descAny (s : State) (k : CtxKey) (g : Nat) : Option Desc :=
  match s.ctx? k with
  | none => none
  | some c =>
    let b := c.p.sgTable + 64 * g
    let w (i : Nat) := mnat s.mem (b + 8 * i) 8
    let h := w 1
    let d : Desc := ⟨w 4, w 3, w 2, h.testBit 49, h / 2 ^ 40 % 256, 2 ^ (h / 2 ^ 32 % 16), h % 2 ^ 32, w 0⟩
    if h.testBit 48 && decide (h / 2 ^ 32 % 16 ≤ 8) && h / 2 ^ 50 == 0 && h / 2 ^ 36 % 16 == 0 &&
      w 5 == 0 && w 6 == 0 && w 7 == 0 && ownLpddr k.m d.slbase && ownLpddr k.m d.memb && ownLpddr k.m d.rndbase
    then some d else none

/-- The descriptor of a shard group, where it is valid (spec/15 R297). -/
def State.desc? (s : State) (k : CtxKey) (g : Nat) : Option Desc :=
  match s.descAny k g with
  | none => none
  | some d => if decide (d.k < d.n) && mnat s.mem (d.memb + 2 * d.k) 2 % 1024 == k.m then some d else none

/-- The pod numbers of the members, in member order. -/
def State.members (s : State) (d : Desc) : List Nat :=
  (List.range d.n).map (fun j => mnat s.mem (d.memb + 2 * j) 2 % 1024)

/-- The page index of an address in a region. -/
def Desc.page? (d : Desc) (va : Nat) : Option Nat :=
  if d.vbase ≤ va ∧ (va - d.vbase) / 2 ^ 21 < d.npages then some ((va - d.vbase) / 2 ^ 21) else none

/-- A malformed leaf entry at a level (spec/15 R293). -/
def State.badLeaf (s : State) (k : CtxKey) (c : Context) (va entryPa e lvl : Nat) : Bool :=
  let st := pteState e
  let fr := pteFrame e
  e / 8 % 4 != 0 || decide (2 ≤ lvl) || st == 7 || (pteMig e && st != 0) ||
  (if st == 0 then fr % (if lvl == 0 then 2 ^ 16 else 2 ^ 21) != 0
   else if st == 5 then false
   else lvl != 1 || pteX e || ((st == 1 || st == 6) && fr != 0) ||
     ((st == 2 || st == 3 || st == 4) && !c.frames.any (fun f => f.1 == fr && f.2.1 == entryPa)) ||
     (match s.desc? k (pteSgid e) with
      | none => true
      | some d => (d.page? va).isNone))

/-- The outcome of a walk: a leaf (level, entry address, entry), a missing entry, a malformed one, an address that is
never translated, an entry homed on what is lost (spec/15 R290, R293, R309). -/
inductive Walk where
  | leaf (lvl pa e : Nat)
  | missing (lvl : Nat)
  | malformed (pa : Nat)
  | outside
  | lost
deriving DecidableEq, Repr

/-- The index of an address at a level (spec/15 R290). -/
def ptIndex (va : Nat) : Nat → Nat
  | 0 => va / 2 ^ 16 % 32
  | n + 1 => va / 2 ^ (21 + 9 * n) % 512

/-- One level of the walk and those below it. -/
def State.walkAt (s : State) (k : CtxKey) (c : Context) (va : Nat) : Nat → Nat → Walk
  | lvl, t =>
    let pa := t + 8 * ptIndex va lvl
    if !ownLpddr k.m t then .malformed pa
    else if s.homeLost pa then .lost else
    let e := mnat s.mem pa 8
    if !pteV e then .missing lvl
    else if pteLeaf e then (if s.badLeaf k c va pa e lvl then .malformed pa else .leaf lvl pa e)
    else if e / 2 ^ 48 % 2 ^ 14 ≠ 0 then .malformed pa
    else match lvl with
      | 0 => .malformed pa
      | n + 1 => State.walkAt s k c va n (e % 2 ^ 48 * 1024)

/-- The walk of a context's page table (spec/15 R293). -/
def State.walk (s : State) (k : CtxKey) (va : DWord) : Walk :=
  match s.ctx? k with
  | none => .missing 3
  | some c => if va.toNat / 2 ^ 48 ≠ 0 then .outside else s.walkAt k c va.toNat 3 c.p.ptroot

/-- The address bits that select an entry of a level. -/
def ptTag (va : Nat) : Nat → Nat
  | 0 => va / 2 ^ 16
  | n + 1 => va / 2 ^ (21 + 9 * n)

/-- The entries that one level of a walk and those below it read, a malformed one last. -/
def State.readAt (s : State) (k : CtxKey) (c : Context) (va : Nat) : Nat → Nat → List TEnt
  | lvl, t =>
    let pa := t + 8 * ptIndex va lvl
    if !ownLpddr k.m t || s.homeLost pa then [] else
    let e := mnat s.mem pa 8
    let mine (bad : Bool) : TEnt := ⟨k.ctx, lvl, ptTag va lvl, pa, e, bad⟩
    if !pteV e then [mine false]
    else if pteLeaf e then [mine (s.badLeaf k c va pa e lvl)]
    else if e / 2 ^ 48 % 2 ^ 14 ≠ 0 then [mine true]
    else match lvl with
      | 0 => [mine true]
      | n + 1 => mine false :: State.readAt s k c va n (e % 2 ^ 48 * 1024)

/-- The entries that the walk of an address reads (spec/15 R295). -/
def State.walked (s : State) (k : CtxKey) (va : DWord) : List TEnt :=
  match s.ctx? k with
  | none => []
  | some c => if va.toNat / 2 ^ 48 ≠ 0 then [] else s.readAt k c va.toNat 3 c.p.ptroot

/-- What an access meets (spec/15 R294, spec/07 R130): its physical address with the entry that gave it, a trap, a
replayable fault, or the wait of a migrating page (spec/15 R308). -/
inductive Fate where
  | ok (pa leaf : Nat)
  | trap (code : Nat)
  | fault (f : FaultKind) (lvl : Nat)
  | wait
deriving DecidableEq, Repr

/-- The checks of a physical address: R6, lost homes, reachability (spec/07 R130, spec/11 R227); of a fetch as of any access (log
entry 85). -/
def State.physFate (s : State) (m pa leaf : Nat) : Fate :=
  if !s.populated pa then .trap 0x09
  else if s.homeLost pa then .trap 0x0A
  else if !s.reachable m (paMod pa) then .trap 0x15
  else .ok pa leaf

/-- The bytes of a page at a level. -/
def pageBytes (lvl : Nat) : Nat := if lvl = 0 then 2 ^ 16 else 2 ^ 21

/-- What an access meets at its leaf entry (spec/15 R294). -/
def State.leafFate (s : State) (k : CtxKey) (va : DWord) (acc : AccKind) (lvl leaf e : Nat) : Fate :=
    let allowed := match acc with
      | .read => pteRd e | .write => pteW e | .fetch => pteX e
    let pa := pteFrame e + va.toNat % pageBytes lvl
    let lost := (s.ctx? k).any (·.poolLost)
    if !allowed then .trap 0x08
    else if acc == .fetch && pteState e != 0 && pteState e != 5 then .trap 0x08
    else match pteState e with
      | 0 => if pteMig e && acc == .write then .wait else s.physFate k.m pa leaf
      | 1 => if acc == .write then .trap 0x08 else if lost then .trap 0x0A else .fault .gather lvl
      | 2 => if acc == .write then .trap 0x08 else s.physFate k.m pa leaf
      | 3 => s.physFate k.m pa leaf
      | 4 => if acc == .write then .fault .drain lvl else s.physFate k.m pa leaf
      | 5 => .trap 0x0A
      | _ => if lost then .trap 0x0A else .fault .absent lvl

/-- Translation of one address (spec/15 R294, R309). -/
def State.xlat (s : State) (k : CtxKey) (va : DWord) (acc : AccKind) : Fate :=
  match s.walk k va with
  | .outside => .trap 0x08
  | .malformed _ => .trap 0x08
  | .missing lvl => .fault .notPresent lvl
  | .lost => .trap 0x0A
  | .leaf lvl leaf e => s.leafFate k va acc lvl leaf e

/-! ### Translation caches (spec/15 R295, spec/17 R319) -/

/-- The leaf entry that a translation cache holds for an address: level, entry address, entry. -/
def cachedLeaf (es : List TEnt) (ctx : Nat) (va : DWord) : Option (Nat × Nat × Nat) :=
  (es.find? (fun t => t.ctx == ctx && pteV t.e && pteLeaf t.e && !t.bad && t.tag == ptTag va.toNat t.lvl)).map (fun t => (t.lvl, t.pa, t.e))
/-- A translation that completes at once: it finds its leaf in a core's L1 translation cache, or in a die's walker cache (spec/17
R319). -/
def State.atOnce (s : State) (ck : CoreKey) (k : CtxKey) (va : DWord) : Option (Nat × Nat × Nat) := cachedLeaf (s.core ck).tlb k.ctx va
def State.atOnceDie (s : State) (d : DieKey) (k : CtxKey) (va : DWord) : Option (Nat × Nat × Nat) :=
  cachedLeaf (s.die d).walker k.ctx va

/-! ### Parts of an access (spec/07 R125, R129, R130) -/

/-- One part: the bytes of one lane within one sector. -/
structure XPart where
  lane : Nat
  off : Nat
  len : Nat
  va : DWord
  fate : Fate
deriving DecidableEq, Repr

/-- The pieces of n bytes from an address, cut at sector boundaries: offset and length (spec/07 R129). -/
def sectorCuts (a n : Nat) : List (Nat × Nat) :=
  let l := 32 - a % 32
  if n = 0 then [] else if n ≤ l then [(0, n)] else [(0, l), (l, n - l)]

/-- The parts of an access of n bytes in the lanes of a mask. -/
def State.parts (s : State) (k : CtxKey) (acc : AccKind) (act : LaneMask) (n : Nat) (ea : Nat → DWord) : List XPart :=
  (lanesOf act).flatMap (fun l => (sectorCuts (ea l).toNat n).map (fun c =>
    let va := ea l + BitVec.ofNat 64 c.1
    ⟨l, c.1, c.2, va, s.xlat k va acc⟩))

/-- The trap rows of R130 in their order. -/
def trapRows : List Nat := [0x08, 0x09, 0x0A, 0x15]

/-- A replayable fault: its kind, the address, the level of a missing entry, and the entries that the walks have read. -/
abbrev Faulted := FaultKind × DWord × Nat × List TEnt

/-- What a translated instruction does (spec/07 R130). -/
inductive XRes where
  | wait
  | trap (t : TrapInfo)
  | go (ok : List XPart) (bad : LaneMask) (f : Option Faulted)

/-- The first trap row that some lane meets; HADDR is the address of its lowest lane, of the part of it that fails (spec/07 R130; log
entry 91). -/
def trapOf (ps : List XPart) : Option TrapInfo :=
  (trapRows.findSome? (fun c => match ps.filter (fun p => p.fate == .trap c) with
    | [] => none
    | p :: q => some (c, p, p :: q))).map (fun (c, p, q) =>
      { code := c, lanes := some (maskOf (q.map (·.lane))), addr := p.va, detail := 0 })

/-- The module that an address names, for the UNREACHABLE detail. -/
def State.targetModule (s : State) (k : CtxKey) (va : DWord) : Nat :=
  match s.walk k va with
  | .leaf lvl _ e => paMod (pteFrame e + va.toNat % pageBytes lvl)
  | .missing _ | .malformed _ | .outside | .lost => 0

/-- The record of a malformed walk of an address (spec/15 R293). -/
def State.malRec (s : State) (k : CtxKey) (team : Nat) (va pc : DWord) (grp : Nat) : Option ErrRec :=
  match s.walk k va with
  | .malformed pa => some (s.errRec k team 0x0C (BitVec.ofNat 64 pa) pc 0 k.m grp)
  | .leaf .. | .missing _ | .outside | .lost => none

/-- The entries that the walks of some parts read. -/
def State.partWalks (s : State) (k : CtxKey) (ps : List XPart) : List TEnt := (ps.flatMap (fun p => s.walked k p.va)).eraseDups

/-- The rows of R130 over all parts. -/
def State.decide130 (s : State) (k : CtxKey) (team grp : Nat) (pc : DWord) (ps : List XPart) : XRes :=
  match trapOf ps with
  | some t => .trap { t with
      detail := if t.code = 0x15 then s.targetModule k t.addr else 0
      walks := s.partWalks k ps
      log := s.malRec k team t.addr pc grp }
  | none =>
    if ps.any (fun p => p.fate == .wait) then .wait
    else
      let isBad (p : XPart) := match p.fate with
        | .fault _ _ => true
        | .ok .. | .trap _ | .wait => false
      let bad := maskOf ((ps.filter isBad).map (·.lane))
      let f := ps.findSome? (fun p => match p.fate with
        | .fault f lvl => some (f, p.va, lvl, s.partWalks k ps)
        | .ok .. | .trap _ | .wait => none)
      .go (ps.filter (fun p => !bad.getLsbD p.lane)) bad f

/-- The physical address and entry of a part that translated. -/
def XPart.pa (p : XPart) : Nat := match p.fate with
  | .ok pa _ => pa
  | .trap _ | .fault .. | .wait => 0
def XPart.leaf (p : XPart) : Nat := match p.fate with
  | .ok _ l => l
  | .trap _ | .fault .. | .wait => 0

/-! ### The fault buffer (spec/15 R306, R307) -/

/-- The addresses of a module's fault buffer block and ring. -/
def State.fbBlock (s : State) (m : Nat) : Nat := m * 2 ^ 48 + (s.module m).fb.block
def State.fbRing (s : State) (m : Nat) : Nat := m * 2 ^ 48 + (s.module m).fb.ring
/-- FBGET, which software writes. -/
def State.fbGet (s : State) (m : Nat) : Nat := mnat s.mem (s.fbBlock m + 0x10) 8

/-- The registers of the block that only the hardware writes show in memory (spec/15 R306). -/
def State.syncFb (s : State) (m : Nat) : State :=
  let fb := (s.module m).fb
  let b := s.fbBlock m
  let mem := mwriteN s.mem b (toBytes 8 (s.fbRing m) ++ toBytes 8 fb.put)
  let mem := mwriteN mem (b + 0x18) [BitVec.ofNat 8 fb.gen.toNat]
  { s with mem := mwriteN mem (b + 0x20) (toBytes 4 fb.ovf ++ toBytes 4 fb.dup) }

/-- Record a fault once per context, 64 KiB page and cause in each generation; further ones add to DUP. -/
def State.recordFault (s : State) (k : CtxKey) (va : DWord) (core grp path acc cause sgid lvl : Nat) : State :=
  match s.ctx? k with
  | none => s
  | some c =>
    let key := (va.toNat / 2 ^ 16, cause)
    let md := s.module k.m
    let fb := md.fb
    let sat (n : Nat) := min (n + 1) (2 ^ 32 - 1)
    if c.recorded.contains key then (s.setModule k.m { md with fb := { fb with dup := sat fb.dup } }).syncFb k.m
    else if 4096 ≤ fb.put - s.fbGet k.m then (s.setModule k.m { md with fb := { fb with ovf := sat fb.ovf } }).syncFb k.m
    else
      let w2 := k.ctx * 2 ^ 52 + core * 2 ^ 42 + grp * 2 ^ 37 + path * 2 ^ 34 + acc * 2 ^ 32 + fb.gen.toNat * 2 ^ 24 +
        cause * 2 ^ 16 + sgid * 2 ^ 8 + lvl
      let at_ := s.fbRing k.m + 32 * (fb.put % 4096)
      let s := { s with mem := mwriteN s.mem at_ (toBytes 8 1 ++ toBytes 8 md.wall.toNat ++ toBytes 8 w2 ++ toBytes 8 va.toNat) }
      let s := s.setModule k.m { md with fb := { fb with put := fb.put + 1 } }
      (s.setCtx k { c with recorded := key :: c.recorded }).syncFb k.m

def accCode : AccKind → Nat
  | .read => 0
  | .write => 1
  | .fetch => 2

/-! ### Trace records of the shard engines (spec/16 R318) -/

/-- A new record of a context, of whose records the last n are kept. -/
def keepLast {α : Type} (n c : Nat) (rs : List (Nat × α)) (r : α) : List (Nat × α) :=
  (if n ≤ (rs.filter (fun e => e.1 == c)).length then rs.eraseP (fun e => e.1 == c) else rs) ++ [(c, r)]

/-- One record of the shard engine of a die for a context, while svdb traces it; the last 64 are kept. -/
def State.shardNote (s : State) (key : CtxKey) (d : DieKey) (kind peer sg page slice rnd : Nat) (sent : Bool) (new : Nat) : State :=
  let r : BitVec 128 := BitVec.ofNat 128 (s.wall d.m % 2 ^ 32 * 2 ^ 96 + kind % 256 * 2 ^ 88 + peer % 1024 * 2 ^ 78 +
    sg % 256 * 2 ^ 70 + page % 2 ^ 32 * 2 ^ 38 + slice % 256 * 2 ^ 30 + rnd % 2 ^ 16 * 2 ^ 14 + (if sent then 2 ^ 13 else 0) +
    new % 8 * 2 ^ 10 + d.d % 16 * 2 ^ 6)
  let on := Config.traces .shard d.m d.d (s.wall d.m)
  s.modDie d (fun x => { x with shardRecs := if on then keepLast 64 key.ctx x.shardRecs r else x.shardRecs })

/-- The index of an address's page in the region of a shard group. -/
def State.shardPage (s : State) (k : CtxKey) (sg : Nat) (va : DWord) : Nat :=
  ((s.desc? k sg).bind (fun d => d.page? va.toNat)).getD 0

/-- A group begins to wait on a shard-state page. -/
def State.waiterNote (s : State) (k : CtxKey) (va : DWord) : State :=
  match s.walk k va with
  | .leaf _ pa e => s.shardNote k ⟨k.m, paDie pa⟩ 10 k.m (pteSgid e) (s.shardPage k (pteSgid e) va) 0 0 false (pteState e)
  | .missing _ | .malformed _ | .outside | .lost => s

/-! ### The gathers of a shard engine -/

/-- A gather of a page that waits for one of the 16 places of its engine (spec/15 R299). -/
def State.newGather (s : State) (key : CtxKey) (va : DWord) (pa e : Nat) (by_ : Issuer) : Nat × State :=
  let (id, s) := s.fresh
  (id, { s with gathers := s.gathers ++ [⟨id, key, paDie pa, va, pteSgid e, 0, pa, e, false, 1, 0, 0, [], false, none, 0, [], [], [],
    by_, ⟨[], none, []⟩⟩] })
/-- The gather of a page on this module. -/
def State.gatherOf (s : State) (key : CtxKey) (va : DWord) : Option Gather :=
  s.gathers.find? (fun g => g.key == key && g.va.toNat / 2 ^ 21 == va.toNat / 2 ^ 21)
/-- A shard fault joins the gather of its page, or is served after those before it (spec/15 R299). -/
def State.queueGather (s : State) (key : CtxKey) (va : DWord) (by_ : Issuer) : State :=
  match s.gatherOf key va, s.walk key va with
  | none, .leaf _ pa e => if pteState e = 1 then (s.newGather key va pa e by_).2 else s
  | _, _ => s

/-- Mark a group replayable after a fault of some lanes (spec/07 R130, spec/15 R294). A missing page is recorded in
the fault buffer; the other kinds are served by the hardware. -/
def State.markReplay (s : State) (k : GKey) (sl : Slot) (g : Group) (lanes : LaneMask) (f : Faulted)
    (acc : AccKind) : State :=
  let s := s.noteWalk k.core f.2.2.2
  let s := match f.1 with
    | .notPresent => s.recordFault g.key f.2.1 k.c k.g 0 (accCode acc) 1 0 f.2.2.1
    | .gather => (s.queueGather g.key f.2.1 ⟨g.team, k.g, ((g.frag sl).map (fun (f : Frag) => f.pc)).getD 0⟩).waiterNote g.key f.2.1
    | .drain | .absent | .poolEmpty => s.waiterNote g.key f.2.1
    | .movedStale => s
  s.setGroup k { g with replay := some ⟨sl, f.1, f.2.1, acc, lanes, false, none⟩ }

end Sys2Proof.Machine
end

