-- ==== Sys2Proof/Machine/Blocks.lean ====
section
/-! DEFINITION. The blocks of device memory that hold registers (spec/14 R277, spec/15 R306, spec/18 R321) and those in which the
hardware keeps its records (spec/13 R257, spec/16 R318, spec/19 R349), with the layouts of the records that svdb reads (spec/03
R44, spec/08 R164, spec/18 R328). -/

namespace Sys2Proof.Machine

/-! ### The sequencer of the debug block (spec/18 R321, R332) -/

/-- The sequencer's own state in the debug block. -/
structure SeqSt where
  seq : Nat
  a0 : Bool
  a1 : Bool
  c0 : Nat
  c1 : Nat
deriving DecidableEq, Repr

def State.seqSt (s : State) (k : CtxKey) : SeqSt :=
  let w := s.dbg k 0x20
  let c := s.dbg k 0x28
  ⟨w % 4, w.testBit 2, w.testBit 3, c % 2 ^ 32, c / 2 ^ 32⟩
def State.setSeqSt (s : State) (k : CtxKey) (x : SeqSt) : State :=
  (s.setDbg k 0x20 (x.seq % 4 + (if x.a0 then 4 else 0) + (if x.a1 then 8 else 0))).setDbg k 0x28
    (x.c0 % 2 ^ 32 + x.c1 % 2 ^ 32 * 2 ^ 32)

/-- N, BSEL and ASEL of the start rule or the freeze rule. -/
def State.seqRule (s : State) (k : CtxKey) (freeze : Bool) : Nat × Nat × Nat :=
  let w := s.dbg k (if freeze then 0x38 else 0x30)
  (w / 2 ^ 32, w / 8 % 8, w % 8)

/-- The entry step of the state taken. -/
def State.seqEnter (s : State) (k : CtxKey) (x : SeqSt) : SeqSt :=
  if x.seq = 1 then { x with a0 := x.a0 || (s.seqRule k false).2.2 == 0 }
  else if x.seq = 2 then { x with a1 := x.a1 || (s.seqRule k true).2.2 == 0 }
  else x

/-- Capture admits records in states IDLE and CAPTURE (spec/18 R332). -/
def admits (seq : Nat) : Bool := seq == 0 || seq == 2

/-- Write the issue entries gathered so far as one record (spec/18 R334). -/
def State.flushIssue (s : State) (k : CtxKey) : State :=
  match (s.ctx? k).map (·.issBuf) with
  | none | some [] => s
  | some es => (s.capture k ((BitVec.ofNat 64 (2 + 256 * es.length) :: es ++ List.replicate 7 0#64).take 8)).modCtx k
      (fun c => { c with issBuf := [] })

/-- Set the sequencer's state; when capture stops admitting, the issue record is written. -/
def State.putSeq (s : State) (k : CtxKey) (x : SeqSt) : State :=
  let s := s.setSeqSt k x
  if admits x.seq then s else s.flushIssue k

/-! ### Stores to the debug block (spec/18 R321) -/

/-- The writable bits of a field that has no behaviour of its own. -/
def dbgMask (off : Nat) : Nat :=
  if off = 0x000 then 0x03FF1F07
  else if off = 0x010 then 0x1F
  else if off = 0x030 ∨ off = 0x038 then 0xFFFFFFFF0000003F
  else if off = 0x040 ∨ off = 0x048 ∨ off = 0x050 ∨ off = 0x058 ∨ off = 0x068 then 0xFFFFFFFFFFFFFFFF
  else if off = 0x060 then 3
  else if off = 0x070 then 0x7FFFFFFFF
  else if off = 0x078 then 0xFFFFFFFF000000FF
  else if 0x080 ≤ off ∧ off < 0x0C0 ∧ off % 8 = 0 then (if off % 16 = 0 then 0xFFFFFFFFFFFFFFFF else 0xFFFFFFFFFFFFF)
  else if 0x100 ≤ off ∧ off < 0x180 ∧ off % 8 = 0 then 0xFFFFFFFFFFFFFFFB
  else 0

/-- Sampling is on. -/
def slogOn (w : Nat) : Bool := decide (4 ≤ w / 256 % 32) && decide (w / 256 % 32 ≤ 20)

/-- The countdowns of a context's cores are loaded with 2^SLOG (spec/18 R326). -/
def State.loadCountdowns (s : State) (k : CtxKey) (n : Nat) : State :=
  (((s.ctx? k).map (·.dies)).getD []).foldl (fun s d => (List.range 48).foldl (fun s i =>
    s.modCore ⟨k.m, d * 48 + i⟩ (fun c => { c with countdown := n })) s) s

/-- A store to a control field: its writable bits change; SLOG that becomes active loads the cores' countdowns (R326). -/
def State.storeReg (s : State) (k : CtxKey) (off v : Nat) : State :=
  let m := dbgMask off
  if m = 0 then s
  else
    let s := if off = 0 ∧ slogOn v ∧ !slogOn (s.dbg k 0) then s.loadCountdowns k (2 ^ (v / 256 % 32)) else s
    s.setDbg k off (v &&& m)
/-- A store to CAPBASE restarts CAPCNT. -/
def State.storeCapbase (s : State) (k : CtxKey) (v : Nat) : State := (s.setDbg k 0x08 v).setDbg k 0x18 0
/-- A store to WHBASE resets WHCNT and WHRD. -/
def State.storeWhbase (s : State) (k : CtxKey) (v : Nat) : State := ((s.setDbg k 0xC0 v).setDbg k 0xC8 0).setDbg k 0xD8 0
/-- A store to WHRD above WHCNT or below WHCNT − 256 is ignored. -/
def State.storeWhrd (s : State) (k : CtxKey) (v : Nat) : State :=
  let n := s.dbg k 0xC8
  if n < v ∨ v + 256 < n then s else s.setDbg k 0xD8 v
/-- A store of SEQ clears the sequencer and enters the stored state (spec/18 R332). -/
def State.storeSeq (s : State) (k : CtxKey) (v : Nat) : State := s.putSeq k (s.seqEnter k ⟨v % 4, false, false, 0, 0⟩)

/-- A store of 8 bytes at an offset of the debug block. -/
def State.storeDbg (s : State) (k : CtxKey) (off v : Nat) : State :=
  if off = 0x008 then s.storeCapbase k v
  else if off = 0x020 then s.storeSeq k v
  else if off = 0x0C0 then s.storeWhbase k v
  else if off = 0x0D8 then s.storeWhrd k v
  else s.storeReg k off v

/-! ### Register blocks (spec/00 R2) -/

/-- The writable bits of the 8-byte field at an address, where it belongs to a register block: of a queue block (spec/14 R277), of
the fault buffer block (spec/15 R306), of a debug block, whose fields State.storeDbg stores (spec/18 R321). Read-only and
reserved bits keep what they hold (spec/00 R2). -/
def State.fieldMask (s : State) (a : Nat) : Option Nat :=
  let m := paMod a
  if s.fbBlock m ≤ a ∧ a < s.fbBlock m + 0x40 then
    some (if a = s.fbBlock m + 0x10 then 2 ^ 64 - 1 else if a = s.fbBlock m + 0x18 then 2 ^ 8 else 0)
  else s.ctxs.findSome? (fun c =>
    if c.2.p.dbgBase ≤ a ∧ a < c.2.p.dbgBase + 512 then some 0
    else (c.2.queues.find? (fun q => decide (q.2.block ≤ a) && decide (a < q.2.block + 128))).map (fun q =>
      if a = q.2.block then 2 ^ 64 - 1 else 0))

/-- Some register block lies in a line. -/
def State.hasRegs (s : State) (l : Nat) : Bool :=
  s.fbBlock (lineMod l) / 128 == l ||
  s.ctxs.any (fun c => (decide (c.2.p.dbgBase / 128 ≤ l) && decide (l < c.2.p.dbgBase / 128 + 4)) ||
    c.2.queues.any (fun q => q.2.block / 128 == l))

/-- Memory after a store to a line: its register fields take only their writable bits (spec/00 R2). -/
def State.keepRegs (s : State) (l : Nat) (new : Memory) : Memory :=
  if !s.hasRegs l then new
  else (List.range 16).foldl (fun m i =>
    let a := l * 128 + 8 * i
    match s.fieldMask a with
    | none => m
    | some w =>
      let old := mnat s.mem a 8
      mwriteN m a (toBytes 8 ((old ^^^ (old &&& w)) ||| (mnat new a 8 &&& w)))) new

/-- The stores to a context's debug block that a write of a line makes: each 8-byte field of which it covers a byte, or changes
one, is stored, in rising order; SEQ lies in the first byte of its own (spec/18 R321). -/
def State.storeFields (s : State) (l : Nat) (cov : List Nat) (old new : Memory) : State :=
  match s.ctxs.find? (fun c => decide (c.2.p.dbgBase / 128 ≤ l) && decide (l < c.2.p.dbgBase / 128 + 4)) with
  | none => s
  | some (k, c) => (List.range 16).foldl (fun s i =>
      let a := l * 128 + 8 * i
      if (List.range (if a = c.p.dbgBase + 0x20 then 1 else 8)).any (fun j => cov.contains (a + j) || mread old (a + j) != mread new (a + j)) then
        s.storeDbg k (a - c.p.dbgBase) (mnat new a 8)
      else s) s

/-! ### Layouts of records -/

/-- An error-log record (spec/19 R349). -/
def ErrRec.bytes (r : ErrRec) : List Byte :=
  toBytes 64 (r.wtime.toNat * 2 ^ 448 + r.addr.toNat * 2 ^ 384 + r.pc.toNat * 2 ^ 320 + r.x % 2 ^ 32 * 2 ^ 288 +
    r.y % 2 ^ 32 * 2 ^ 256 + r.z % 2 ^ 32 * 2 ^ 224 + r.detail.toNat * 2 ^ 160 + r.m % 1024 * 2 ^ 150 + r.grp % 32 * 2 ^ 145 +
    r.code % 256)

/-- The record of a quantized slice: header, bins, head of the stream (spec/13 R257). -/
def CollRec.bytes (r : CollRec) : List Byte :=
  toBytes 16 (r.seq % 2 ^ 32 * 2 ^ 96 + r.sgid % 256 * 2 ^ 88 + r.midx % 256 * 2 ^ 80 + r.n % 2 ^ 25 * 2 ^ 55 +
    r.t % 2 ^ 25 * 2 ^ 30 + (r.c % 64).toNat * 2 ^ 24 + r.wf % 8 * 2 ^ 21 + r.pct % 2 ^ 11 * 2 ^ 10) ++
  ((List.range 64).flatMap (fun i => toBytes 4 (r.bins.getD i 0))) ++ r.head.take 64

/-- A used entry of the split stack (spec/03 R44). -/
def Entry.bytes (e : Entry) : List Byte :=
  toBytes 64 (e.prj.toNat * 2 ^ 384 + e.rj.toNat * 2 ^ 320 + e.pc.toNat * 2 ^ 256 + e.xmask.toNat * 2 ^ 224 +
    e.mask.toNat * 2 ^ 192 + e.ptok.toNat * 2 ^ 176 + e.tok.toNat * 2 ^ 160 + e.depth.toNat * 2 ^ 152 +
    (match e.kind with | .ready => 1 | .parked => 2 | .frame => 3))

/-- A group's split stack: entry k at offset 64 × k, the entries above those in use free (spec/03 R44). -/
def Group.stackBytes (g : Group) : List Byte := (g.stack.flatMap Entry.bytes ++ List.replicate 2048 0#8).take 2048

/-- A stitch record: up to 10 stages are entered, and OVF says that more were passed (spec/18 R328). -/
def Stitch.bytes (y : Stitch) : List Byte :=
  toBytes 64 (y.pc.toNat * 2 ^ 448 + y.va.toNat * 2 ^ 384 + y.x % 2 ^ 32 * 2 ^ 352 + y.y % 2 ^ 32 * 2 ^ 320 + y.z % 2 ^ 32 * 2 ^ 288 +
    y.phc.toNat * 2 ^ 256 + y.tag.toNat * 2 ^ 244 + y.grp % 32 * 2 ^ 239 + y.acc % 8 * 2 ^ 236 + min y.stages.length 10 * 2 ^ 232 +
    (if 10 < y.stages.length then 2 ^ 231 else 0) + min y.total (2 ^ 31 - 1) * 2 ^ 200 +
    ((y.stages.take 10).mapIdx (fun i e => (e.1 * 2 ^ 16 + min e.2 0xFFFF) * 2 ^ (20 * i))).sum)

/-- A bobbin queue entry (spec/08 R164); sent says that its grant has been sent. -/
def Waiter.entry (w : Waiter) (line : Nat) (sent : Bool) : BitVec 128 :=
  BitVec.ofNat 128 (line % 2 ^ 51 * 2 ^ 77 + w.m % 1024 * 2 ^ 67 + w.core % 1024 * 2 ^ 57 + w.grp % 32 * 2 ^ 52 +
    w.key.ctx % 4096 * 2 ^ 40 + w.arr % 2 ^ 32 * 2 ^ 8 + (if w.deadline.isSome then 8 else 0) + (if w.res then 4 else 0) +
    (if sent then 2 else 1))

/-- A lock-table entry (spec/08 R164). -/
def LockEnt.entry (e : LockEnt) (line nwait : Nat) : BitVec 128 :=
  BitVec.ofNat 128 (line % 2 ^ 51 * 2 ^ 77 + e.holder.m % 1024 * 2 ^ 67 + e.holder.core % 1024 * 2 ^ 57 + e.holder.grp % 32 * 2 ^ 52 +
    e.holder.key.ctx % 4096 * 2 ^ 40 + nwait % 512 * 2 ^ 31 +
    (match e.st with | .held => 1 | .saved => 2 | .granting _ | .handoff => 3))

/-- An eyelet table entry (spec/07 R133). -/
def Eyelet.entry (y : Eyelet) : BitVec 128 :=
  BitVec.ofNat 128 (y.line.toNat % 2 ^ 57 * 2 ^ 71 + y.ver.toNat * 2 ^ 39 + y.lmask.toNat * 2 ^ 7 + y.grp % 32 * 2 ^ 2 + 1)

/-! ### Records in device memory -/

/-- The byte that the hardware's records of a context show at an address: its error log with LOGOVF after the ring (spec/19 R349),
the trace of the shard engines, 1 KiB for each die (spec/16 R318), the records of the collective engines, 16 places of 512 bytes
for each die from the start of the staging area (spec/13 R257); log entry 73. -/
def State.shown (s : State) (k : CtxKey) (c : Context) (a : Nat) : Option Byte :=
  let e := a - c.p.errBase
  let d := a - c.p.shardBase
  let q := a - c.p.collBase
  let nth {α : Type} (rs : List (Nat × α)) (i : Nat) : Option α := ((rs.filter (fun r => r.1 == k.ctx))[i]?).map (·.2)
  if c.p.errBase ≤ a ∧ e < 65536 then (c.err[e / 64]?).map (fun r => r.bytes.getD (e % 64) 0#8)
  else if c.p.errBase ≤ a ∧ e < 65540 then some ((toBytes 4 c.logovf).getD (e - 65536) 0#8)
  else if c.p.shardBase ≤ a ∧ d < 12288 then
    (nth (s.die ⟨k.m, d / 1024⟩).shardRecs (d % 1024 / 16)).map (fun r => (toBytes 16 r.toNat).getD (d % 16) 0#8)
  else if c.p.collBase ≤ a ∧ q < 98304 then
    (nth (s.die ⟨k.m, q / 8192⟩).collRecs (q % 8192 / 512)).bind (fun r => r.bytes[q % 512]?)
  else none

/-- Records of some context lie in a line. -/
def State.hasRecords (s : State) (l : Nat) : Bool :=
  s.ctxs.any (fun c => let near (b n : Nat) := decide (b < l * 128 + 128) && decide (l * 128 < b + n)
    near c.2.p.errBase 65540 || near c.2.p.shardBase 12288 || near c.2.p.collBase 98304)

/-- n bytes of one line of device memory. -/
def State.peekN (s : State) (a n : Nat) : List Byte :=
  if s.hasRecords (a / 128) then (List.range n).map (fun i =>
    (s.ctxs.findSome? (fun c => s.shown c.1 c.2 (a + i))).getD (mread s.mem (a + i)))
  else mreadN s.mem a n

end Sys2Proof.Machine
end

