-- ==== Sys2Proof/Machine/Order.lean ====
section
/-! DEFINITION. The ordering machine's shared operations (spec/09 R166 to R183, spec/07 R118 to R128, spec/08 R147 to
R151, spec/11 R224 to R226): local levels, ordering points, performing writes, releases, barrier objects. -/

namespace Sys2Proof

/-- The order includes release, acquire (spec/02 R22). -/
def Order.rel : Order → Bool
  | .release | .acqRel => true
  | .relaxed | .acquire => false
def Order.acq : Order → Bool
  | .acquire | .acqRel => true
  | .relaxed | .release => false

end Sys2Proof

namespace Sys2Proof.Machine

/-! ### Local levels (spec/07 R114 to R119) -/

/-- Bytes of a core's scratchpad, of a context's allotment, of a group's lane-private area, in one flat memory each. -/
def scratchAt (k : CoreKey) (off : Nat) : Nat := (k.m * 576 + k.c) * 2 ^ 18 + off
def pksAt (k : CtxKey) (off : Nat) : Nat := (k.m * 4096 + k.ctx) * 2 ^ 48 + off
def lpAt (team gidx lane o : Nat) : Nat := (team * 32 + gidx) * 2 ^ 24 + 128 * (o / 4) + 4 * lane + o % 4

/-- The bytes of a core's carve (spec/07 R115). -/
def State.carveBytes (s : State) (k : CoreKey) : Nat :=
  match (s.core k).carve with
  | some c => c.k * c.s
  | none => 0
/-- The context's package-scratchpad allotment (spec/07 R119). -/
def State.pksBytes (s : State) (k : CtxKey) : Nat := ((s.ctx? k).map (fun c => c.p.pksMib * 2 ^ 20)).getD 0

/-- The core and offset of a team's region while it is resident (spec/07 R116). -/
def State.region? (s : State) (team : Nat) : Option (Nat × Nat) :=
  match s.team? team with
  | none => none
  | some t => match t.st with
    | .resident c r _ => some (c, r * t.s)
    | .listed | .saved _ | .ended => none

/-- A byte range of a local level, checked against its level; the space and flat address (spec/07 R114 to R119). The
die of a die-shared address is d; its bytes lie in the carve of the core that its first byte names (log entry 102). -/
def State.localAt (s : State) (team gidx : Nat) (key : CtxKey) (d : DieKey) (sp : Space) (lane : Nat) (a : DWord)
    (n : Nat) : Option (Space × Nat) :=
  let t := s.team? team
  match sp with
  | .lane => if a.toNat + n ≤ (t.map (fun t => t.lpv * 256)).getD 0 then some (.lane, lpAt team gidx lane a.toNat) else none
  | .scratch => match s.region? team with
    | some (c, b) => if a.toNat + n ≤ (t.map (·.s)).getD 0 then some (.scratch, scratchAt ⟨key.m, c⟩ (b + a.toNat)) else none
    | none => none
  | .die =>
    let c := a.toNat / 2 ^ 18
    let off := a.toNat % 2 ^ 18
    let ck : CoreKey := ⟨d.m, d.d * 48 + c⟩
    if a.toNat < 2 ^ 24 ∧ c < 48 ∧ off + n ≤ s.carveBytes ck then some (.scratch, scratchAt ck off) else none
  | .pks => if a.toNat + n ≤ s.pksBytes key then some (.pks, pksAt key a.toNat) else none
  | .global => none

/-- The memory of a local space. -/
def State.locMem (s : State) : Space → Memory
  | .lane => s.lpm
  | .scratch | .die => s.scratch
  | .pks => s.pks
  | .global => s.mem
def State.setLocMem (s : State) (sp : Space) (m : Memory) : State :=
  match sp with
  | .lane => { s with lpm := m }
  | .scratch | .die => { s with scratch := m }
  | .pks => { s with pks := m }
  | .global => { s with mem := m }
/-- Read or write bytes of a local space; lane-private bytes are interleaved word by word (spec/07 R114). -/
def locByte (sp : Space) (a i : Nat) : Nat :=
  match sp with
  | .lane => a / 128 * 128 + a % 128 / 4 * 4 + (a % 4 + i) % 4 + (a % 4 + i) / 4 * 128
  | .scratch | .die | .pks | .global => a + i
/-- The words of a local level that an uncorrectable error has damaged: the die-shared level lies in the scratchpads. -/
def Space.held (sp : Space) : Space := match sp with
  | .die => .scratch
  | .lane | .scratch | .pks | .global => sp
/-- A range of a local level touches a damaged word (spec/19 R347). -/
def State.spoiledAt (s : State) (sp : Space) (as : List Nat) : Bool :=
  s.spoiled.any (fun w => w.1 == sp.held && as.any (fun a => a / 4 == w.2))
/-- Bytes are stored in a local level; a store of part of a damaged word writes zero to its other bytes, and the word is sound again
(spec/19 R347). -/
def State.storeLoc (s : State) (sp : Space) (bs : List (Nat × Byte)) : State :=
  let hit := s.spoiled.filter (fun w => w.1 == sp.held && bs.any (fun b => b.1 / 4 == w.2))
  let zeroed := hit.foldl (fun m w => mwriteN m (4 * w.2) [0, 0, 0, 0]) (s.locMem sp)
  let s := s.setLocMem sp (bs.foldl (fun m b => mwrite m b.1 b.2) zeroed)
  if hit.isEmpty then s else { s with spoiled := s.spoiled.filter (fun w => !hit.contains w) }
/-- A range of a local level is written whole by the hardware: no word of it is damaged any longer (spec/19 R347). -/
def State.sound (s : State) (sp : Space) (a n : Nat) : State :=
  { s with spoiled := s.spoiled.filter (fun w => !(w.1 == sp && decide (a ≤ 4 * w.2) && decide (4 * w.2 < a + n))) }
def State.locRead (s : State) (sp : Space) (a n : Nat) : List Byte :=
  (List.range n).map (fun i => mread (s.locMem sp) (locByte sp a i))

/-! ### Requests on the fabric (spec/11 R229, R230) -/

/-- Requests of a source that a target has not yet acknowledged and whose performance is cached (spec/11 R231). -/
def Payload.cachedKind : Payload → Bool
  | .lane .. | .lock .. => true
  | .entry .. | .fill .. | .flag _ | .shuttle _ | .stream _ | .slReq .. | .contrib .. | .unlk _ | .engine _ => false
/-- A sequence number of a pair lies ahead of the target's window of 256: an open request lies 256 or more behind it (spec/11
R231). -/
def State.ahead (s : State) (src dst seq : Nat) : Bool :=
  s.reqs.any (fun r => r.src == src && r.dst == dst && !r.closed && decide (r.seq + 256 ≤ seq))
/-- What the log names of a request that fails: its instruction or operation, as it stands when the request is sent (spec/11 R232). -/
def State.reqWho (s : State) (p : Payload) : Option ReqWho :=
  let of (k : GKey) (a pc : DWord) : Option ReqWho := (s.group? k).map (fun g => ⟨g.key, g.team, a, pc, k.g⟩)
  match p with
  | .entry k e => ((s.group? k).bind (fun g => g.entry? e)).bind (fun x => of k x.va x.pc)
  | .lane k fl i => ((s.group? k).bind (fun g => g.flight? fl)).bind (fun f => of k (((f.parts[i]?).map (·.va)).getD 0) f.pc)
  | .fill k l => match (s.group? k).bind (fun g => g.flights.find? (fun f => f.parts.any (fun p => p.bytes.isNone && lineOf p.addr == l))) with
    | some f => of k (((f.parts.find? (fun p => lineOf p.addr == l)).map (·.va)).getD 0) f.pc
    | none => of k (BitVec.ofNat 64 (l * 128)) 0
  | .lock k fl => ((s.group? k).bind (fun g => g.flight? fl)).bind (fun f => of k (match f.kind with
        | .lock _ _ v _ _ => v
        | .value | .load .. | .atom .. | .bar .. | .qpop .. | .launch .. | .shuttle .. => 0) f.pc)
  | .flag i => (s.flags.find? (fun f => f.id == i)).map (fun f => ⟨f.key, f.team, f.va, f.pc, f.k.g⟩)
  | .stream i => (s.streams.find? (fun x => x.id == i)).bind (fun x => (s.colls.find? (fun o => o.id == x.op)).map (fun o =>
      ⟨o.key, o.team, 0, o.pc, o.grp⟩))
  | .unlk i => (s.unlks.find? (fun u => u.id == i)).map (fun u => ⟨u.key, u.team, u.va, u.pc, u.k.g⟩)
  | .slReq op _ => (s.gathers.find? (fun g => g.id == op)).map (fun g => ⟨g.key, g.by_.team, g.va, g.by_.pc, g.by_.grp⟩)
  | .contrib op _ => (s.drains.find? (fun g => g.id == op)).map (fun g => ⟨g.key, g.by_.team, g.va, g.by_.pc, g.by_.grp⟩)
  | .shuttle _ | .engine _ => none

/-- A request newly sent: sequence number of its pair, generation of its tag, deadline 50 µs on (spec/11 R229); one ahead of the
target's window waits at the sender, not yet sent (R231). -/
def State.newReqFor (s : State) (src dst : Nat) (p : Payload) (who : Option ReqWho) : Nat × State :=
  let (i, s) := s.fresh
  let now := s.wall src
  let pair := s.reqs.filter (fun r => r.src == src && r.dst == dst)
  let n := if s.ahead src dst pair.length then 0 else 1
  (i, { s with reqs := s.reqs ++ [⟨i, src, dst, p, (pair.filter (·.failed)).length % 16, pair.length, now, now + 50000, n, n,
    false, false, none, 0, false, false, false, 0, who⟩] })
/-- A request of what its payload names. -/
def State.newReq (s : State) (src dst : Nat) (p : Payload) : Nat × State := s.newReqFor src dst p (s.reqWho p)
def State.req? (s : State) (i : Nat) : Option Req := s.reqs.find? (fun r => r.id == i)
def State.setReq (s : State) (i : Nat) (f : Req → Req) : State :=
  { s with reqs := s.reqs.map (fun r => if r.id = i then f r else r) }
/-- A request that its target may perform: it has arrived, before its deadline there, and has not been performed
(spec/11 R229, R231). -/
def State.reqReady (s : State) (i : Nat) : Bool :=
  match s.req? i with
  | some r => r.arrived && !r.performed && decide (s.wall r.dst + 32 < r.deadline)
  | none => false
/-- The target performs a request and replies. -/
def State.reply (s : State) (i : Nat) (r : Reply) : State :=
  s.setReq i (fun q => { q with performed := true, reply := some r, replies := q.replies + 1,
                                cached := q.payload.cachedKind })
/-- A sender holds at most 64 unacknowledged atomics and lock requests to one target (spec/11 R231). -/
def State.cacheRoom (s : State) (src dst : Nat) : Bool :=
  decide ((s.reqs.filter (fun r => r.src == src && r.dst == dst && r.payload.cachedKind && !r.closed)).length < 64)

/-- A request has failed by its deadline: counted and logged (spec/11 R232, R233). -/
def State.noteReqFail (s : State) (m : Nat) (key : CtxKey) (team : Nat) (addr pc : DWord) (target grp : Nat) : State :=
  (s.modModule m (fun x => { x with fab := { x.fab with reqfail := min (x.fab.reqfail + 1) (2 ^ 32 - 1) } })).logErr key
    (s.errRec key team 0x05 addr pc 0 target grp)

/-- How an engine's access to a line stands: it is made on the module, whose slices serve it, or asked of the line's home by a request,
which it answers; it waits; or its request has failed by its deadline (spec/11 R223, R229). -/
inductive EngAsk where
  | go (r : Option Nat)
  | wait (s : State) (n : EngNote)
  | failed
deriving DecidableEq, Repr

/-- An engine of a module asks for a line, once, unless slices of the module serve it. -/
def State.engAsk (s : State) (m pa : Nat) (served : Bool) (who : ReqWho) (n : EngNote) : EngAsk :=
  let mine := ((n.sent.find? (fun e => e.1 == lineOf pa)).bind (fun e => s.req? e.2)).filter (fun q => !q.closed || q.failed)
  if served then .go (mine.map (·.id))
  else match mine with
    | some q => if q.failed then .failed else if s.reqReady q.id then .go (some q.id) else .wait s n
    | none =>
      let (r, s) := s.newReqFor m (paMod pa) (.engine (pa / 32)) (some who)
      .wait s { n with sent := (lineOf pa, r) :: n.sent.filter (fun e => e.1 != lineOf pa) }
/-- The request of an engine's access is answered with it. -/
def State.engTaken (s : State) (r : Option Nat) : State :=
  match r with
  | none => s
  | some i => s.setReq i (fun q => { q with performed := true, reply := some .done, closed := true })
/-- The note of an operation whose access to a line is made. -/
def EngNote.made (n : EngNote) (hits : List Nat) (l : Nat) : EngNote := ⟨hits, none, n.sent.filter (fun e => e.1 != l)⟩
/-- An operation is over: it awaits no reply any longer. -/
def State.dropAsks (s : State) (n : EngNote) : State := n.sent.foldl (fun s e => s.setReq e.2 (fun q => { q with closed := true })) s

/-! ### Barrier objects (spec/09 R173 to R176) -/

/-- The object a barrier address names, checked as R174 asks; none when it fails. -/
def State.barRef (s : State) (team : Nat) (key : CtxKey) (d : DieKey) (ba : DWord) : Option BRef :=
  let b := ba.toNat
  if b % 16 ≠ 0 then none else
  match b / 2 ^ 62 with
  | 0 => if b % 2 ^ 62 < 2 ^ 18 ∧ b % 2 ^ 18 + 16 ≤ ((s.team? team).map (·.s)).getD 0
         then some (.team team (b % 2 ^ 18)) else none
  | 1 => if b % 2 ^ 62 < 2 ^ 24 then
           let ck : CoreKey := ⟨d.m, d.d * 48 + b % 2 ^ 24 / 2 ^ 18⟩
           if b % 2 ^ 24 / 2 ^ 18 < 48 ∧ b % 2 ^ 18 + 16 ≤ s.carveBytes ck then some (.die ck (b % 2 ^ 18)) else none
         else none
  | 2 => if b % 2 ^ 62 < 2 ^ 48 ∧ b % 2 ^ 48 + 16 ≤ s.pksBytes key then some (.pks key (b % 2 ^ 48)) else none
  | _ => none

/-- The object's 16 bytes: none when its level no longer holds them (spec/09 R175) or its team has ended. -/
def State.objRead (s : State) (o : BRef) : Option Nat :=
  match o with
  | .team t off => match s.team? t with
    | none => none
    | some x => if x.s < off + 16 then none else match x.st with
      | .resident c r _ => some (mnat s.scratch (scratchAt ⟨x.key.m, c⟩ (r * x.s + off)) 16)
      | .saved _ => some (mnat x.region off 16)
      | .listed | .ended => none
  | .die k off => if off + 16 ≤ s.carveBytes k then some (mnat s.scratch (scratchAt k off) 16) else none
  | .pks k off => if off + 16 ≤ s.pksBytes k then some (mnat s.pks (pksAt k off) 16) else none

/-- Write the object's bytes where they are. -/
def State.objWrite (s : State) (o : BRef) (v : Nat) : State :=
  let bs := toBytes 16 v
  match o with
  | .team t off => match s.team? t with
    | none => s
    | some x => match x.st with
      | .resident c r _ => { s with scratch := mwriteN s.scratch (scratchAt ⟨x.key.m, c⟩ (r * x.s + off)) bs }
      | .saved _ => s.setTeam t { x with region := mwriteN x.region off bs }
      | .listed | .ended => s
  | .die k off => { s with scratch := mwriteN s.scratch (scratchAt k off) bs }
  | .pks k off => { s with pks := mwriteN s.pks (pksAt k off) bs }

/-- A barrier object (spec/09 R173). -/
structure BarObj where
  ovr : Bool
  ecode : Nat
  ecnt : Nat
  bpend : Int
  aper : Nat
  apend : Nat
  phase : Nat
deriving DecidableEq, Repr

def BarObj.ofNat (v : Nat) : BarObj :=
  ⟨v.testBit 127, v / 2 ^ 112 % 256, v / 2 ^ 96 % 2 ^ 16, toSigned 32 (v / 2 ^ 64 % 2 ^ 32), v / 2 ^ 48 % 2 ^ 16,
    v / 2 ^ 32 % 2 ^ 16, v % 2 ^ 32⟩
def BarObj.toNat (o : BarObj) : Nat :=
  (if o.ovr then 2 ^ 127 else 0) + o.ecode * 2 ^ 112 + o.ecnt * 2 ^ 96 + (o.bpend % 2 ^ 32).toNat * 2 ^ 64 +
    o.aper * 2 ^ 48 + o.apend * 2 ^ 32 + o.phase

/-- The result of a barrier step (spec/09 R176). -/
inductive BarRes where
  | none | dropped | completed
deriving DecidableEq, Repr

/-- One more error event. -/
def BarObj.err (o : BarObj) (code : Nat) : BarObj := { o with ecode := code, ecnt := min (o.ecnt + 1) 0xFFFF }

/-- BarrierStep (spec/09 R176). -/
def BarObj.step (o : BarObj) (da : Bool) (db : Int) : BarObj × BarRes :=
  if o.aper = 0 then (o.err 3, .none)
  else if da && o.apend == 0 then (o.err 1, .dropped)
  else
    let b := o.bpend + db
    let c := max (-(2 ^ 31)) (min (2 ^ 31 - 1) b)
    let o := if b = c then o else o.err 4
    let o := { o with bpend := c, apend := if da then o.apend - 1 else o.apend }
    if o.apend = 0 ∧ o.bpend ≤ 0 then
      let o := if o.bpend < 0 then { o.err 2 with ovr := true } else o
      ({ o with bpend := 0, phase := (o.phase + 1) % 2 ^ 32, apend := o.aper }, .completed)
    else (o, .none)

/-- bar.init (spec/09 R178): the whole object in one step. -/
def BarObj.fresh (phase : Word) (aper : BitVec 16) : BarObj := ⟨false, 0, 0, 0, aper.toNat, aper.toNat, phase.toNat⟩

/-! ### Waiters (spec/09 R175, R181, R190) -/

/-- A team becomes runnable while saved: it joins the tail of the list (spec/14 R274). -/
def State.makeRunnable (s : State) (team : Nat) : State :=
  match s.team? team with
  | none => s
  | some t => match t.st with
    | .saved false =>
      if t.halted then s.setTeam team { t with st := .saved true, joined := s.wall t.key.m }
      else (s.setTeam team { t with st := .saved true, joined := s.wall t.key.m }).modCtx t.key
        (fun c => { c with runnable := c.runnable ++ [team] })
    | .listed | .resident .. | .saved true | .ended => s

/-- A wait ends: the fragment goes on after its bar.wait; the team's phase count advances (spec/18 R328). -/
def Frag.endWait (f : Frag) : Frag := { f with wait := none, pc := f.pc + 8#64, only := none }

/-- Re-evaluate one waiting fragment of a resident group: where the object has left its level, the fragment takes a late trap at
its bar.wait (spec/09 R175, spec/14 R269). -/
def State.reevalFrag (s : State) (k : GKey) (sl : Slot) : State :=
  match s.group? k with
  | none => s
  | some g => match g.frag sl with
    | none => s
    | some f => match f.wait with
      | none => s
      | some w => match s.objRead w.o with
        | none =>
          if w.gone then s else
          let g := (g.setFrag sl (some { f with wait := some { w with gone := true } })).pend ⟨0x07, f.mask, w.ba, f.pc, 0⟩
          s.setGroup k { g with taker := g.taker.orElse (fun _ => some sl) }
        | some v =>
          if v % 2 ^ 32 = w.phase.toNat || (w.acq && (s.core k.core).eyeletIn k.g f.mask) then s
          else (s.setGroup k (g.setFrag sl (some f.endWait))).modTeam g.team (fun t => { t with phc := t.phc + 1 })

/-- A saved group's wake condition (BA, phase) holds. -/
def State.imageWakes (s : State) (g : Group) : Bool :=
  [g.f0, g.f1].any (fun f => match f with
    | none => false
    | some f => match f.wait with
      | none => false
      | some w => match s.objRead w.o with
        | none => true
        | some v => v % 2 ^ 32 != w.phase.toNat)

/-- Every waiter re-evaluates its condition (spec/09 R175). -/
def State.reeval (s : State) : State :=
  let s := s.groups.foldl (fun s e => (s.reevalFrag e.1 .f0).reevalFrag e.1 .f1) s
  s.teams.foldl (fun s e => if e.2.images.any (fun i => s.imageWakes i.2) then s.makeRunnable e.1 else s) s

/-! ### Queue blocks (spec/14 R277, R284) -/

/-- A group waits in a qpop on a queue. -/
def Group.popsFrom (g : Group) (q : Nat) : Bool :=
  g.flights.any (fun f => (match f.kind with
    | .qpop _ q' => q' == q
    | .value | .load .. | .atom .. | .lock .. | .bar .. | .launch .. | .shuttle .. => false) && !f.ready)

/-- A store to a queue block: the queue stops while TAIL is not valid, which is logged, and teams saved in a qpop on it
become runnable when it is not empty (spec/14 R271, R277, R284). -/
def State.noteQueue (s : State) (k : CtxKey) (n : Nat) (q : Queue) : State :=
  let ok := s.qValid q
  let s := if q.stopped == ok then
      let s := s.modQueue k n (fun q => { q with stopped := !ok })
      if ok then s else s.logErr k ⟨(s.module k.m).wall, BitVec.ofNat 64 q.block, 0, 0, 0, 0, BitVec.ofNat 64 n, k.m, 0, 0x0A⟩
    else s
  if q.data && ok && !q.badEvent && s.qHead q != s.qTail q then
    s.teams.foldl (fun s e =>
      if e.2.key = k ∧ e.2.images.any (fun i => i.2.popsFrom n) then s.makeRunnable e.1 else s) s
  else s
/-- A line has been written: the queues whose block it holds take notice. -/
def State.noteQueues (s : State) (l : Nat) : State :=
  s.ctxs.foldl (fun s c => c.2.queues.foldl (fun s q =>
    if lineOf q.2.block = l then s.noteQueue c.1 q.1 q.2 else s) s) s

/-! ### Ordering points and the directory (spec/08 R147, spec/11 R224 to R226) -/

/-- Where a line is ordered. -/
inductive OPoint where
  | home
  | slice (d : DieKey)
  | proxy (m : Nat)
deriving DecidableEq, Repr

def Line.point (l : Line) : OPoint :=
  match l.lock with
  | some e => if e.st = .held then .slice ⟨e.holder.m, e.holder.core / 48⟩ else
      match l.dir with
      | .exclusive m => .proxy m
      | .uncached | .shared _ => .home
  | none => match l.dir with
    | .exclusive m => .proxy m
    | .uncached | .shared _ => .home

/-- The line is pinned by some tile fetch unit (spec/10 R217). -/
def State.pinned (s : State) (l : Nat) : Bool := s.cores.any (fun c => c.2.pins.contains l)
/-- The line is pinned by a tile fetch unit of a module. -/
def State.pinnedBy (s : State) (m l : Nat) : Bool := s.cores.any (fun c => c.1.m == m && c.2.pins.contains l)
/-- A tile fetch unit pins the line where its home orders it: one of the home's module, or, of a line that the home serves to others for
its lock, any (spec/10 R217, spec/08 R155). -/
def State.pinsHome (s : State) (l : Nat) : Bool := s.pinnedBy (lineMod l) l || ((s.line l).lock.isSome && s.pinned l)
/-- The line lies in a frame of some pool (its page is not Private). -/
def State.inPool (s : State) (l : Nat) : Bool :=
  s.ctxs.any (fun c => c.1.m == lineMod l && decide (c.2.p.poolBase ≤ l * 128) &&
    decide (l * 128 < c.2.p.poolBase + c.2.p.poolN * 2 ^ 21))
/-- The old frame of the line is in a moved table (spec/15 R308). -/
def State.movedLine (s : State) (l : Nat) : Bool :=
  (s.module (lineMod l)).moved.any (fun e => decide (e.1 ≤ l * 128) && decide (l * 128 < e.1 + e.2.1))
/-- The modules that a home must invalidate (spec/11 R226). -/
def State.sharers (s : State) (l : Nat) : List Nat :=
  match (s.line l).dir with
  | .shared ms => (ms ++ (s.mods.map (·.1)).filter (fun m => (s.line l).racks.getLsbD (m / 64) &&
      s.reachable (lineMod l) m)).eraseDups
  | .uncached | .exclusive _ => []

/-- A store-buffer entry has been performed. -/
def SbSt.done : SbSt → Bool
  | .performed _ | .acked _ => true
  | .queued | .sent _ | .moved => false

/-- The fragment's entries that still have to enter. -/
def Group.entering (g : Group) : List SbEntry :=
  ((g.f0.map (·.entering)).getD []) ++ ((g.f1.map (·.entering)).getD [])

/-- The translation caches allow a write to a line of entries: every store translated under one of its entries, at any level, has been
performed, whether it has entered the buffer or not; an entry's walk reads what it read at its issue, since no write of its lines is performed
before it (spec/15 R295). -/
def State.xlatClear (s : State) (l : Nat) (self : List (GKey × Nat)) : Bool :=
  s.groups.all (fun g => (g.2.sb ++ g.2.entering).all (fun e => e.st.done || self.contains (g.1, e.id) ||
    !(e.va :: e.also).any (fun va => (s.walked g.2.key va).any (fun t => t.pa / 128 == l))))

/-- After a write to a line: the translation caches drop its entries, and pool frames that their entries no longer name
start to return (spec/15 R292, R295, R298). -/
def State.noteEntries (s : State) (l : Nat) : State :=
  let cached := s.dies.any (fun d => d.2.walker.any (fun e => e.pa / 128 == l)) ||
    s.cores.any (fun c => c.2.tlb.any (fun e => e.pa / 128 == l))
  let s := if cached then { s with
      dies := s.dies.map (fun d => (d.1, { d.2 with walker := d.2.walker.filter (fun e => e.pa / 128 ≠ l) }))
      cores := s.cores.map (fun c => (c.1, { c.2 with tlb := c.2.tlb.filter (fun e => e.pa / 128 ≠ l) })) } else s
  if s.ctxs.any (fun c => c.2.frames.any (fun f => f.2.1 / 128 == l)) then
    { s with ctxs := s.ctxs.map (fun c =>
        let names (f : Nat × Nat × DWord × Nat × Nat) : Bool :=
          let e := mnat s.mem f.2.1 8
          pteV e && pteLeaf e && (pteState e == 2 || pteState e == 3 || pteState e == 4) && pteFrame e == f.1
        let here := c.2.frames.filter (fun f => f.2.1 / 128 == l)
        (c.1, { c.2 with returning := c.2.returning.filter (fun r => !here.any (fun f => f.1 == r)) ++
          (here.filter (fun f => !names f)).map (·.1) })) }
  else s

/-- The level of the page-table entry at an address of a module, where a table that a walk reaches holds one. -/
def State.entryLevelAt (s : State) (m a : Nat) : Nat → Nat → Option Nat
  | lvl, t =>
    if !ownLpddr m t then none
    else if t ≤ a ∧ a < t + 8 * (if lvl = 0 then 32 else 512) then some lvl
    else match lvl with
      | 0 => none
      | n + 1 => (List.range 512).findSome? (fun i =>
          let e := mnat s.mem (t + 8 * i) 8
          if pteV e && !pteLeaf e && e / 2 ^ 48 % 2 ^ 14 == 0 then State.entryLevelAt s m a n (e % 2 ^ 48 * 1024) else none)
def State.entryLevel (s : State) (a : Nat) : Option Nat :=
  (s.ctxs.filter (fun c => c.1.m == paMod a)).findSome? (fun c => s.entryLevelAt c.1.m a 3 c.2.p.ptroot)

/-- The migrations that a write to a line switches: the old frames, with their sizes, that its entries of some page table leave (spec/15
R308). -/
def State.switches (s : State) (l : Nat) (new : Memory) : List (Nat × Nat) :=
  (List.range 16).filterMap (fun i =>
    let at_ := l * 128 + 8 * i
    let a := mnat s.mem at_ 8
    let b := mnat new at_ 8
    if pteV a && pteLeaf a && pteState a == 0 && pteMig a && a / 8 % 4 == 0 && pteFrame a != pteFrame b then (s.entryLevel at_).map (fun lvl => (pteFrame a, pageBytes lvl)) else none)

/-- The L2 slices that home the lines of a frame: module, die, slice of the die (spec/01 R10). -/
def frameSlices (base len : Nat) : List (Nat × Nat × Nat) :=
  ((List.range (len / 128)).map (fun i => let l := base / 128 + i; (lineMod l, lineDie l, l % 16))).eraseDups

/-- The moved table of every slice that homes a line of an old frame, 16 entries each, has room for the switches of a write (spec/15
R308). -/
def State.switchRoom (s : State) (l : Nat) (new : Memory) : Bool :=
  let sw := s.switches l new
  (sw.flatMap (fun e => frameSlices e.1 e.2)).all (fun x =>
    let homes (e : Nat × Nat) : Bool := (frameSlices e.1 e.2).contains x
    decide (((s.module x.1).moved.filter (fun e => homes (e.1, e.2.1))).length + (sw.filter homes).length ≤ 16))

/-- The module of an ordering point. -/
def OPoint.mod (p : OPoint) (l : Nat) : Nat :=
  match p with
  | .home => lineMod l
  | .slice d => d.m
  | .proxy m => m

/-- A line goes through the slice of a module that the address bits of its home's die and slice name; that slice has room for one more
line of another module: 3 MiB in all (spec/11 R223, spec/01 R4). -/
def State.proxyRoom (s : State) (m l : Nat) : Bool :=
  decide ((s.proxies.filter (fun p => p.1.1 == m && lineDie p.1.2 == lineDie l && p.1.2 % 16 == l % 16)).length < 24576)

/-- The home grants Exclusive to a writer's proxy: the directory names no other, no invalidation of the line is open, no merged
reduction waits for it there, the line is neither locked nor pinned, its page is Private (spec/11 R225, spec/08 R147), and the proxy's
slice holds it or has room for it (R223). -/
def State.exclOk (s : State) (l w : Nat) : Bool :=
  w != lineMod l && (s.line l).lock.isNone && (s.line l).red.isNone && ((tget s.proxies (w, l)).isSome || s.proxyRoom w l) && !s.pinned l && !s.inPool l && (s.sharers l).all (fun m => m == w) &&
  !s.pend.any (fun p => p.line == l && !p.wait.isEmpty) && (match (s.line l).dir with
    | .exclusive _ => false
    | .uncached | .shared _ => true)
/-- The writer's proxy becomes Exclusive; the leases it has granted stay its own. -/
def State.giveExcl (s : State) (l w : Nat) : State :=
  let own := ((tget s.proxies (w, l)).map (fun (p : Proxy) => p.lease)).getD 0
  let s := s.modLine l (fun x => { x with dir := .exclusive w, racks := 0 })
  { s with proxies := tset s.proxies (w, l) ⟨true, [], (s.line l).ver, own, false⟩ }

/-- Change the bytes of a line at its ordering point: version, dirt, moved tables and translation caches; the latest
lease expiry a writer must wait for, and the modules that must be invalidated (spec/02 R39, spec/11 R226). w is the
module the write came from. The directory goes on naming a proxy until it has acknowledged. -/
def State.writeLine (s : State) (l : Nat) (mem : Memory) (w : Nat) : State × Nat × List Nat :=
  let ln := s.line l
  let sw := s.switches l mem
  let s := sw.foldl (fun s e => s.modModule (paMod e.1) (fun md =>
    { md with moved := md.moved ++ [(e.1, e.2, s.wall (paMod e.1) + 100000)] })) s
  let s := { s with mem := mem }
  let now := s.wall (lineMod l)
  let own := ((tget s.proxies (w, l)).map (fun (p : Proxy) => p.lease)).getD 0
  let ln' := { ln with ver := ln.ver + 1, dirty := true }
  let r := match ln.point with
    | .slice _ => (s.setLine l ln', 0, [])
    | .proxy m => (s.setLine l ln', ((tget s.proxies (m, l)).map (fun (p : Proxy) => p.lease)).getD 0, [])
    | .home =>
      let t := if passed now ln.lease then 0 else ln.lease
      let s := s.setLine l ln'
      if s.exclOk l w then (s.giveExcl l w, max t own, []) else (s, t, s.sharers l)
  ((r.1.noteEntries l).noteQueues l, r.2)

/-- Record that a write has been performed: its GWCT is known at once or after the last acknowledgement. -/
def State.pendWrite (s : State) (l t : Nat) (wait : List Nat) (o : Origin) (w at_ : Nat) : Nat × State :=
  let (i, s) := s.fresh
  (i, { s with pend := s.pend ++ [⟨i, l, wait, t, o, w, at_⟩] })

/-- A store changes a line at its ordering point; a register block in the line takes it as its fields say (spec/00 R2). cov lists
the bytes it covers. -/
def State.store (s : State) (l : Nat) (new : Memory) (cov : List Nat) (w : Nat) : State × Nat × List Nat :=
  if s.hasRegs l then
    let r := s.writeLine l (s.keepRegs l new) w
    (r.1.storeFields l cov s.mem new, r.2)
  else s.writeLine l new w

/-- Operations on words of w bits at an ordering point (spec/08 R140, R145): op 0 to 7 as the atom OPs, 8 fadd.f32, 9
fadd.bf16. -/
def atomOp (op : Nat) (size : ASize) (old v cmp : Nat) : Nat :=
  let w := if size.wide then 64 else 32
  let lt (a b : Nat) : Bool := if asizeSigned size then decide (toSigned w a < toSigned w b) else decide (a < b)
  match op with
  | 0 => (old + v) % 2 ^ w
  | 1 => if lt v old then v else old
  | 2 => if lt old v then v else old
  | 3 => old &&& v
  | 4 => old ||| v
  | 5 => old ^^^ v
  | 6 => v
  | 7 => if old = cmp then v else old
  | 8 => faddSum .f32 old [v]
  | _ => faddSum .bf16 (old % 2 ^ 16) [v % 2 ^ 16] + faddSum .bf16 (old / 2 ^ 16) [v / 2 ^ 16] * 2 ^ 16

/-- A merged entry applied to one word (spec/08 R150). -/
def mergedOp (op : Nat) (size : ASize) (old : Nat) (vs : List Nat) : Nat :=
  match op with
  | 8 => faddSum .f32 old vs
  | 9 => faddSum .bf16 (old % 2 ^ 16) (vs.map (· % 2 ^ 16)) + faddSum .bf16 (old / 2 ^ 16) (vs.map (· / 2 ^ 16)) * 2 ^ 16
  | _ => vs.foldl (fun o v => atomOp op size o v 0) old

/-- Mark a store-buffer entry of a group. -/
def State.setEntry (s : State) (k : GKey) (e : Nat) (st : SbSt) : State :=
  s.modGroup k (fun g => { g with sb := g.sb.map (fun x => if x.id = e then { x with st := st } else x) })

/-- The fabric request that carries a write. -/
def Origin.payload : Origin → Option Payload
  | .entry k e => some (.entry k e)
  | .lane k fl p => some (.lane k fl p)
  | .flag i => some (.flag i)
  | .engine .. | .host => none

/-- The target of the open request that carries a payload replies (spec/11 R226, R229). -/
def State.replyTo (s : State) (p : Payload) (r : Reply) : State :=
  match s.reqs.find? (fun q => q.payload == p && q.arrived && q.reply.isNone) with
  | some q => s.reply q.id r
  | none => s

/-- The horizon of an engine instance rises to a GWCT (spec/09 R169). -/
def State.raiseHz (s : State) (e : EngInst) (t : Nat) : State :=
  match e with
  | .copy k => s.modCore k (fun c => { c with copyHz := max c.copyHz t })
  | .tile k => s.modCore k (fun c => { c with tileHz := max c.tileHz t })
  | .coll d => s.modDie d (fun x => { x with collHz := max x.collHz t })
  | .shard d => s.modDie d (fun x => { x with shardHz := max x.shardHz t })

/-- Writes of a group are in place with their GWCTs: the flags that wait for them need no longer, and keep the GWCTs of those homed
on their target (spec/11 R238). -/
def State.writeInPlace (s : State) (team gidx : Nat) (kind id : Nat) (ps : List PendWrite) : State :=
  { s with flags := s.flags.map (fun (f : Flag) => if f.team = team ∧ f.gidx = gidx ∧ f.waits.contains (kind, id) then
      { f with waits := f.waits.filter (fun w => w ≠ (kind, id))
               ts := f.ts ++ (ps.filter (fun p => lineMod p.line == f.m)).map (fun p => (p.at_, p.t)) } else f) }

/-- The GWCT of a write of a group that is in place: the latest by the module of its home and that of its ordering point. -/
def Group.noteGwm (g : Group) (p : PendWrite) : Group :=
  let i := lineMod p.line * 1024 + p.at_
  { g with gwm := nset 0 g.gwm i (max (nget 0 g.gwm i) p.t) }

/-- A store flag is in place with its GWCT. -/
def State.flagInPlace (s : State) (i : Nat) (p : PendWrite) : State :=
  match s.flags.find? (fun f => f.id == i) with
  | none => s
  | some f =>
    let s := { s with flags := s.flags.filter (fun x => x.id ≠ i) }.writeInPlace f.team f.gidx 2 i [p]
    (s.modMember f.team f.gidx (fun g => g.noteGwm p)).modTeam
      f.team (fun t => { t with gwct := max t.gwct p.t })

/-- The GWCT of a finished write of an engine goes to its horizon and to the landing that reports it, that of a flag to the
flags behind it; the host's is taken by the link. -/
def State.settlePend (s : State) : State :=
  let done := s.pend.filter (fun p => p.wait.isEmpty)
  let s := done.foldl (fun s p => match p.origin with
    | .engine e => s.raiseHz e p.t
    | .flag i => s.flagInPlace i p
    | .entry .. | .lane .. | .host => s) s
  let s := { s with landings := s.landings.map (fun (l : Landing) => match done.find? (fun (p : PendWrite) => l.w == some p.id) with
    | some p => { l with w := none, t := p.t }
    | none => l) }
  { s with pend := s.pend.filter (fun p => !(p.wait.isEmpty && (match p.origin with
    | .engine _ | .host | .flag _ => true
    | .entry .. | .lane .. => false))) }

/-- The group whose store or atomic a write is. -/
def State.writer? (s : State) (o : Origin) : Option Writer :=
  match o with
  | .entry k e => (s.group? k).bind (fun g => (g.entry? e).map (fun x => ⟨g.key, g.team, g.gidx, k, x.mask, x.va, x.pc⟩))
  | .lane k fl i => (s.group? k).bind (fun g => (g.flight? fl).bind (fun f => (f.parts[i]?).map (fun p =>
      ⟨g.key, g.team, g.gidx, k, maskOf [p.lane], p.va, f.pc⟩)))
  | .flag i => (s.flags.find? (fun f => f.id == i)).map (fun f => ⟨f.key, f.team, f.gidx, f.k, maskOf [f.lane], f.va, f.pc⟩)
  | .engine _ | .host => none
/-- A dirty line remembers whose stores it holds (spec/07 R131). -/
def State.noteWriter (s : State) (l : Nat) (o : Origin) : State :=
  match s.writer? o with
  | none => s
  | some w => s.modLine l (fun x => if x.writers.contains w then x else { x with writers := x.writers ++ [w] })

/-- A write has been performed: its GWCT is returned at once, or after the last acknowledgement. -/
def State.finishWrite (s : State) (l t : Nat) (wait : List Nat) (o : Origin) (w at_ : Nat) : Nat × State :=
  let (i, s) := (s.noteWriter l o).pendWrite l t wait o w at_
  match o.payload with
  | none => (i, s)
  | some p =>
    let s := { s with reqs := s.reqs.map (fun q =>
      if q.payload = p ∧ q.arrived ∧ q.reply = none then { q with performed := true, cached := q.payload.cachedKind } else q) }
    (i, if wait.isEmpty then s.replyTo p .done else s)

/-- Memory after the pending merged reduction of a line is applied per word (spec/08 R150). -/
def RedEnt.apply (r : RedEnt) (m : Memory) : Memory :=
  let n := asizeBytes r.size
  (r.ws.map (·.1)).eraseDups.foldl (fun m a =>
    let vs := (r.ws.filter (fun w => w.1 == a)).map (·.2.toNat)
    mwriteN m a (toBytes n (mergedOp r.op r.size (mnat m a n) vs))) m

/-- The pending merged reduction of a line may be applied now: as any write, while no tile fetch unit pins the line at its home
(spec/10 R217). -/
def State.redClear (s : State) (l : Nat) : Bool :=
  match (s.line l).red with
  | none => true
  | some r => s.xlatClear l r.from_ && s.switchRoom l (r.apply s.mem) && !s.pinsHome l

/-- Add bytes read or written on a path (spec/19 R339). -/
def State.countBytes (s : State) (k : CtxKey) (p : Path) (n : Nat) : State := s.count k (idxBytes p) n

/-- The float counters of an operation and its lanes (spec/08 R145). -/
def State.countFadd (s : State) (k : CtxKey) (op n : Nat) : State :=
  match op with
  | 8 => s.count k (idxFloat .f32) n
  | 9 => s.count k (idxFloat .bf16) (2 * n)
  | _ => s

/-- A performed entry of a group's store buffer is counted (spec/19 R339, R340). -/
def State.countOp (s : State) (k : CtxKey) (op : SbOp) : State :=
  match op with
  | .bytes bs | .ack bs _ => s.countBytes k .group bs.length
  | .red o z ws => (s.countBytes k .group (asizeBytes z * ws.length)).countFadd k o ws.length
/-- The entry of a group is performed as a write: it is counted. -/
def State.entryDone (s : State) (k : GKey) (e w : Nat) : State :=
  let s := match (s.group? k).bind (fun g => (g.entry? e).map (fun x => (g.key, x.op))) with
    | some r => s.countOp r.1 r.2
    | none => s
  s.setEntry k e (.performed w)

/-- Apply the pending merged reduction of a line; each contributor receives the GWCT (spec/08 R150). -/
def State.applyRed (s : State) (l : Nat) : State :=
  let ln := s.line l
  match ln.red with
  | none => s
  | some r =>
    let w := match r.from_ with
      | [] => lineMod l
      | (k, _) :: rest => if rest.all (fun c => c.1.m == k.m) then k.m else lineMod l
    let (s, t, wait) := (s.setLine l { ln with red := none }).store l (r.apply s.mem) [] w
    r.from_.foldl (fun s c =>
      let (i, s) := s.finishWrite l t wait (.entry c.1 c.2) w (lineMod l)
      s.entryDone c.1 c.2 i) s

/-- R127: a write on its way drops the copy of its line on the issuer's die, unless that slice is the ordering point. -/
def State.dropCopy (s : State) (d : DieKey) (l : Nat) : State :=
  if (s.line l).point = .slice d then s else { s with copies := terase s.copies (d, l) }

/-- The bytes an entry writes, on the memory at its ordering point. -/
def SbOp.apply (op : SbOp) (sector : Nat) (m : Memory) : Memory :=
  match op with
  | .bytes bs | .ack bs _ => mwriteAt m (sector * 32) bs
  | .red o z ws => ws.foldl (fun m w =>
      let a := sector * 32 + w.1
      mwriteN m a (toBytes (asizeBytes z) (atomOp o z (mnat m a (asizeBytes z)) w.2.toNat 0))) m

/-- The bytes an entry covers for forwarding (spec/07 R125). -/
def SbOp.byteAt (op : SbOp) (off : Nat) : Option Byte :=
  match op with
  | .bytes bs | .ack bs _ => (bs.filter (fun b => b.1 == off)).getLast?.map (·.2)
  | .red .. => none

/-- The latest store of the group's buffer to a byte (spec/07 R125, R126). -/
def Group.forward (g : Group) (pa : Nat) : Option Byte :=
  g.sb.reverse.findSome? (fun e => if e.sector = pa / 32 then e.op.byteAt (pa % 32) else none)

/-! ### Releases and acquires (spec/07 R128, R135, spec/09 R171, R172) -/

/-- The latest GWCT returned for the stores of the lanes of a mask. -/
def Group.gwctOf (g : Group) (m : LaneMask) : Nat := (lanesOf m).foldl (fun t l => max t (nget 0 g.gwct l)) 0

/-- Flights that are loads or stores of the group path. -/
def Flight.isAccess (f : Flight) : Bool :=
  match f.kind with
  | .load .. | .atom .. | .lock .. | .qpop .. | .launch .. | .shuttle .. => true
  | .value | .bar .. => false

/-- Every earlier load and store of the lanes has been performed, and the time rule holds (spec/07 R128: no GWCT is awaited where none was returned); with .sys also
every earlier cwb (spec/09 R172). -/
def State.released (s : State) (k : GKey) (g : Group) (m : LaneMask) (sys : Bool) : Bool :=
  !(g.flights.any (fun f => f.isAccess && f.mask &&& m != 0#32)) &&
  !(g.sb.any (fun e => e.mask &&& m != 0#32)) &&
  !(g.loc.any (fun e => e.mask &&& m != 0#32)) &&
  !((s.core k.core).tileQ.any (fun e => e.gidx == g.gidx && e.mask &&& m != 0#32 &&
      (match e.op with | .ld .. | .st .. | .accLd .. | .accSt .. => true
                       | .zero .. | .mmac .. | .mmacg .. | .cvt .. => false))) &&
  !(sys && g.wbs.any (fun e => e.mask &&& m != 0#32)) &&
  (g.gwctOf m == 0 || passed (s.wall k.m) (g.gwctOf m))

/-- What a release does before it leaves the fragment. -/
inductive RelRes where
  | wait
  | trap
  | go
deriving DecidableEq, Repr

/-- R128, then R135. -/
def Iss.release (x : Iss) (sys : Bool) : RelRes :=
  if !x.s.released x.k x.g x.f.mask sys then .wait
  else if (x.s.core x.k.core).eyeletIn x.k.g x.f.mask then .wait
  else if x.g.sr.eystruck &&& x.f.mask ≠ 0#32 then .trap
  else .go

/-- Run a body after the release that an order asks for. -/
def Iss.withRelease (x : Iss) (rel : Bool) (sc : Scope) (body : Res) : Res :=
  if !rel then body else match x.release (sc == .sys) with
    | .wait => .wait
    | .trap => .trap { code := 0x0C }
    | .go => body

/-- A fence that a fragment of the group waits at holds back the operations on a path that the group issued after it: its accesses by
their issue order n, its engine operations by their number n (spec/09 R187). -/
def Group.fenceHolds (g : Group) (p : Path) (n : Nat) : Bool :=
  [g.f0, g.f1].any (fun f => (f.bind (fun f => f.fence)).any (fun fa => fa.dsts.contains p &&
    decide ((if p = .group ∨ p = .tile then fa.ord else fa.id) ≤ n)))
/-- A fence of its group holds back an engine operation. -/
def State.fenceHolds (s : State) (team gidx : Nat) (p : Path) (n : Nat) : Bool :=
  (s.member? team gidx).any (fun g => g.fenceHolds p n)

/-- An acquire that precedes an access of some lanes, of issue order ord, and is still outstanding holds it back, and so does a fence to the group path before it
(spec/09 R171, R187). -/
def Group.acqBlocks (g : Group) (m : LaneMask) (ord : Nat) : Bool :=
  g.flights.any (fun f => f.acq && decide (f.ord < ord) && maskAt f.mask f.past ord &&& m != 0#32) || g.fenceHolds .group ord

/-! ### The store buffer (spec/07 R126, spec/08 R146, spec/12 R254) -/

/-- Merge bytes of a sector into its latest entry where that is a store that has not begun to drain. -/
def mergeSb (sb : List SbEntry) (sector ord : Nat) (mask : LaneMask) (vas : List DWord) (bs : List (Nat × Byte)) (tag : Option (BitVec 12)) :
    Option (List SbEntry) :=
  match (sb.filter (fun e => e.sector == sector)).getLast? with
  | none => none
  | some e => match e.op, e.st with
    | .bytes old, .queued => some (sb.map (fun x =>
        if x.id = e.id then { x with
          op := .bytes (old ++ bs), mask := x.mask ||| mask, ord := ord, also := x.also ++ vas
          note := { x.note with tag := tag.orElse (fun _ => x.note.tag) } } else x))
    | _, _ => none

/-- Move waiting entries into the buffer while it has room (spec/07 R126). -/
def Group.admitOne (g : Group) (sl : Slot) : Group :=
  match g.frag sl with
  | none => g
  | some f =>
    let n := 8 - g.sb.length
    { g with sb := g.sb ++ f.entering.take n }.setFrag sl (some { f with entering := f.entering.drop n })
def Group.fillSb (g : Group) : Group := (g.admitOne .f0).admitOne .f1

/-- Put the new entries of one instruction into the buffer: none when its first new entry has no room, or the other
fragment's entries still enter (spec/07 R126). -/
def Group.enterSb (g : Group) (sl : Slot) (news : List SbEntry) : Option Group :=
  if news.isEmpty then some g
  else if !g.entering.isEmpty || 8 ≤ g.sb.length then none
  else match g.frag sl with
    | none => none
    | some f => some (({ g with nextId := g.nextId + news.length }.setFrag sl
        (some { f with entering := news.mapIdx (fun i (e : SbEntry) => { e with id := g.nextId + i }) })).fillSb)

/-! ### Local accesses of one fragment (spec/07 R121, spec/10 R208) -/

/-- Two local byte ranges that program order keeps apart: one array for scratchpads, one byte for the package
scratchpad, always for lane-private memory. -/
def locClash (sp1 : Space) (a1 n1 : Nat) (sp2 : Space) (a2 n2 : Nat) : Bool :=
  match sp1, sp2 with
  | .scratch, .scratch => a1 / 2 ^ 18 == a2 / 2 ^ 18
  | .pks, .pks => decide (a1 < a2 + n2) && decide (a2 < a1 + n1)
  | .lane, .lane => true
  | _, _ => false

/-- A local access of the lanes, of issue order ord, may be performed now. -/
def State.locReady (s : State) (k : GKey) (g : Group) (m : LaneMask) (ord : Nat) (sp : Space)
    (rs : List (Nat × Nat)) : Bool :=
  !g.acqBlocks m ord &&
  rs.all (fun r =>
    g.flights.all (fun f => !(decide (f.ord < ord) && maskAt f.mask f.past ord &&& m != 0#32) ||
      f.parts.all (fun p => p.bytes.isSome || !locClash sp r.1 r.2 p.space p.addr p.len)) &&
    g.loc.all (fun e => !(decide (e.ord < ord) && maskAt e.mask e.past ord &&& m != 0#32) ||
      e.bytes.all (fun b => !locClash sp r.1 r.2 e.space b.1 1)) &&
    !(sp == .scratch && r.1 / 2 ^ 18 == k.m * 576 + k.c && (s.core k.core).tileQ.any (fun e =>
      decide (e.id < ord) && e.gidx == g.gidx && maskAt e.mask e.past ord &&& m != 0#32 && (match e.op with
        | .ld .. | .st .. | .accLd .. | .accSt .. => true
        | .zero .. | .mmac .. | .mmacg .. | .cvt .. => false))))

/-! ### Debug observations (spec/18 R326, R331, R335) -/

/-- A watch matches an access: the first touched byte of its range. -/
def State.watchByte (s : State) (k : CtxKey) (w : Nat) (wr rd : Bool) (va : DWord) (n : Nat) : Option DWord :=
  let d := s.dbg k (0x88 + 16 * w)
  let lo := s.dbg k (0x80 + 16 * w)
  let hi := d % 2 ^ 48
  if d.testBit 51 && ((wr && d.testBit 49) || (rd && d.testBit 48)) && decide (va.toNat ≤ hi) &&
    decide (lo < va.toNat + n) then some (BitVec.ofNat 64 (max lo va.toNat)) else none

/-- The accesses of one instruction or engine piece: ADDR events, and a hit for each watch that the instruction or operation has not
hit yet (spec/18 R331, R335); a says who accesses, its ACC 0 read, 1 write, 2 read-modify-write. -/
def State.noteTouch (s : State) (a : WatchAcc) (core : Nat) (hits : List Nat) (as : List (DWord × Nat)) : State × List Nat :=
  let wr := a.acc != 0
  let rd := a.acc != 1
  let t := s.team? a.team
  let s := as.foldl (fun s e => s.offer a.key ⟨s.wall a.key.m, core, none, some (e.1, e.2, wr, rd), 0, 0, (t.map (·.x)).getD 0,
    (t.map (·.y)).getD 0, (t.map (·.z)).getD 0, []⟩) s
  (List.range 4).foldl (fun (r : State × List Nat) w =>
    if r.2.contains w then r
    else match as.findSome? (fun e => r.1.watchByte a.key w wr rd e.1 e.2) with
      | some b => ({ r.1 with watches := r.1.watches ++ [{ a with w := w, va := b }] }, w :: r.2)
      | none => r) (s, hits)

/-- A request as its stitch record shows it (spec/18 R328). -/
structure Sampled where
  pc : DWord
  va : DWord
  phc : Word
  issued : Nat
  acc : Nat
  ord : Nat
  lane : Nat
deriving DecidableEq, Repr

/-- One request of a group: the countdown and, when it is taken, a stitch record (spec/18 R325 to R327). -/
def State.sampleOne (s : State) (k : GKey) (g : Group) (q : Sampled) (mark : Option (BitVec 12)) : State :=
  let lg := s.dbg g.key 0 / 256 % 32
  let on := decide (4 ≤ lg) && decide (lg ≤ 20)
  let c := s.core k.core
  let left := if c.countdown = 0 then 2 ^ lg else c.countdown
  let take := mark.isSome || (on && left == 1)
  let s := if mark.isSome || !on then s else s.setCore k.core { c with countdown := if left = 1 then 2 ^ lg else left - 1 }
  if !take then s else
    let (i, s) := s.fresh
    let t := s.team? g.team
    { s with
      freeCtr := s.freeCtr + 1
      stitches := s.stitches ++ [⟨i, k.core, g.key, q.pc, q.va &&& ~~~127#64, (t.map (·.x)).getD 0, (t.map (·.y)).getD 0,
        (t.map (·.z)).getD 0, q.phc, mark.getD 0, k.g, q.ord, q.lane, q.acc, q.issued,
        (Config.stages s.freeCtr).map (fun e => (e.1.val + 1, min e.2 0xFFFF)), 0⟩] }

/-- Sampled requests that fail, or whose reply is discarded, drop their records, counted in SDROP (spec/18 R327). -/
def State.dropStitches (s : State) (p : Stitch → Bool) : State :=
  let gone := s.stitches.filter p
  gone.foldl (fun s y =>
    let w := s.dbg y.key 0xD0
    s.setDbg y.key 0xD0 (min (w / 2 ^ 32 + 1) (2 ^ 32 - 1) * 2 ^ 32 + w % 2 ^ 32))
    (if gone.isEmpty then s else { s with stitches := s.stitches.filter (fun y => !p y) })
/-- A sampled request of a group's instruction. -/
def Stitch.of (y : Stitch) (k : GKey) (ord : Nat) : Bool := y.core == k.core && y.grp == k.g && y.ord == ord
/-- A sampled request for a lane's bytes in the line of an address (spec/18 R326). -/
def Stitch.at_ (y : Stitch) (lane : Nat) (va : DWord) : Bool := y.lane == lane && y.va == (va &&& ~~~127#64)
/-- The parts of an instruction that a sampled request asks for. -/
def Stitch.asks (y : Stitch) (k : GKey) (f : Flight) (p : Part) : Bool := y.of k f.ord && y.at_ p.lane p.va
/-- The eyelet of a sampled validation (spec/07 R132). -/
def Stitch.eyelet (y : Stitch) (e : Eyelet) : Bool :=
  y.acc == 3 && e.grp == y.grp && e.line == y.va.ushiftRight 7 && e.lmask.getLsbD y.lane

/-- The request that carries a record has been answered: its own reply has come (spec/18 R327). -/
def State.answered (s : State) (y : Stitch) : Bool :=
  let k : GKey := ⟨y.core.m, y.core.c, y.grp⟩
  let waits (f : Flight) : Bool := y.of k f.ord && (match f.kind with
    | .load .. => f.parts.any (fun p => y.asks k f p && p.bytes.isNone)
    | .atom .. => (f.parts.mapIdx (fun i p => (i, p))).any (fun e => y.asks k f e.2 && (e.2.bytes.isNone ||
        s.reqs.any (fun r => r.payload == .lane k f.id e.1 && !r.closed)))
    | .lock .. => !f.ready
    | .shuttle .. => s.shuttles.any (fun p => p.k == k && p.fl == f.id && p.lane == y.lane && !p.dead)
    | .value | .bar .. | .qpop .. | .launch .. => false)
  (match s.group? k with
    | none => true
    | some g => g.key != y.key || !(g.flights.any waits || g.sb.any (fun e => e.id == y.ord) || g.wbs.any (fun w => w.id == y.ord))) &&
  !s.flags.any (fun f => y.of f.k f.ord && f.lane == y.lane) && !s.unlks.any (fun u => y.of u.k u.ord) &&
  !(s.core y.core).eyelets.any y.eyelet

/-- The requests of one instruction, one per lane and line, in increasing lane number; a mark is spent on the first. -/
def State.sample (s : State) (k : GKey) (g : Group) (mark : Option (BitVec 12)) (qs : List Sampled) : State :=
  match qs with
  | [] => s
  | q :: rest => rest.foldl (fun s q => s.sampleOne k g q none) (s.sampleOne k g q mark)

/-- The word's own requests of some lanes at some addresses; n is the number of what answers them. -/
def Iss.requests (x : Iss) (acc n : Nat) (rs : List (Nat × DWord)) : List Sampled :=
  rs.map (fun r => ⟨x.f.pc, r.2, ((x.s.team? x.g.team).map (·.phc)).getD 0, x.s.wall x.k.m, acc, n, r.1⟩)

/-- What the stores of a word leave with their entries for a sample of the drain; the first entry carries the smark (spec/18 R325). -/
def Iss.storeNote (x : Iss) (first : Bool) : StoreNote :=
  ⟨x.s.wall x.k.m, ((x.s.team? x.g.team).map (·.phc)).getD 0, if first then x.f.mark else none, false⟩

/-- The watches that the fragment's word has hit before a replay (spec/18 R335). -/
def Iss.hits (x : Iss) : List Nat := (((x.s.group? x.k).bind (fun g => g.frag x.sl)).map (·.hits)).getD []
/-- The group-path accesses of a word (spec/18 R331, R335). -/
def Iss.access (x : Iss) (kind : Nat) : WatchAcc := ⟨x.g.key, 0, 0, x.f.pc, x.g.team, x.k.g, x.sl, .group, kind⟩
def Iss.noteAccess (x : Iss) (s : State) (kind : Nat) (as : List (DWord × Nat)) : State := (s.noteTouch (x.access kind) x.k.c x.hits as).1
/-- The watches that the word has hit with some accesses; a kind above 2 is no access. -/
def Iss.touches (x : Iss) (kind : Nat) (as : List (DWord × Nat)) : List Nat :=
  if 2 < kind then x.hits else (x.s.noteTouch (x.access kind) x.k.c x.hits as).2

/-- The lines of each lane of an access, for sampling. -/
def lineReqs (as : List (Nat × DWord)) : List (Nat × DWord) := (as.map (fun a => (a.1, a.2 &&& ~~~127#64))).eraseDups

/-! ### The end of a team (spec/03 R43, spec/12 R252, spec/14 R271) -/

/-- A group that has ended and whose own accesses have all been performed, with no snapshot of its last word to come. -/
def Group.drained (g : Group) : Bool :=
  g.ended && g.sb.isEmpty && g.entering.isEmpty && g.loc.isEmpty && g.flights.isEmpty && g.wbs.isEmpty && g.logAt.isNone

/-- The lines a group holds become free for a forced handoff: the lock-table entry is in handoff (spec/08 R162). -/
def State.forceRelease (s : State) (key : CtxKey) (team grp : Nat) (h : HeldLock) : State :=
  let s := s.modLine h.line (fun l => { l with lock := l.lock.map (fun e => { e with st := .handoff }) })
  s.logErr key (s.errRec key team 0x01 (BitVec.ofNat 64 (h.line * 128)) h.pc 0 key.m grp)

/-- The interval of resident cycles of a context on a core closes when its last team leaves (spec/19 R341). -/
def State.closeInterval (s : State) (key : CtxKey) (c : Nat) : State :=
  if s.teams.any (fun t => t.2.key == key && (match t.2.st with
      | .resident c' _ _ => c' == c
      | .listed | .saved _ | .ended => false)) then s
  else match s.ctx? key with
    | none => s
    | some x =>
      let d := s.wall key.m - nget 0 x.openIv c
      (s.setCtx key { x with openIv := nset 0 x.openIv c 0 }).count key 0x5000 (12 * d / 5)

/-- The locks of the groups of a team that have ended are force-released (spec/08 R162). -/
def State.dropLocks (s : State) (key : CtxKey) (team : Nat) : State :=
  (s.groupsOf team).foldl (fun s e =>
    if e.2.drained && !e.2.locks.isEmpty then
      (e.2.locks.foldl (fun s h => s.forceRelease key team e.1.g h) s).modGroup e.1 (fun g => { g with locks := [] })
    else s) s

/-- A team all of whose groups have ended and drained leaves its core (spec/03 R43); the eyelets of its groups are freed. -/
def State.tryEnd (s : State) (team : Nat) : State :=
  match s.team? team with
  | none => s
  | some t => match t.st with
    | .resident c _ _ =>
      let s := s.dropLocks t.key team
      let gs := s.groupsOf team
      if gs.all (fun e => e.2.drained) && !s.watches.any (fun w => w.team == team) && (!t.tiles || (s.core ⟨t.key.m, c⟩).tileQ.isEmpty) then
        let s := s.modCore ⟨t.key.m, c⟩ (fun x => { x with eyelets := x.eyelets.filter (fun y => !gs.any (fun e => e.1.g == y.grp)) })
        let gw := gs.foldl (fun m e => max m (e.2.gwctOf allLanes)) t.gwct
        let s := { s with groups := s.groups.filter (fun e => e.2.team ≠ team) }
        let s := s.setTeam team { t with st := .ended, gwct := gw }
        let s := match s.grid? t.grid with
          | some gr => s.setGrid t.grid { gr with left := gr.left - 1 }
          | none => s
        s.closeInterval t.key c
      else s
    | .listed | .saved _ | .ended => s

end Sys2Proof.Machine
end

