-- ==== Sys2Proof/Machine/Control.lean ====
section
/-! DEFINITION. The control instructions of class 0x01 and chk's branch arithmetic (spec/03 R44 to R56, R63). -/

namespace Sys2Proof.Machine

/-- A B-format target or rejoin address: the branch's own block plus 64 × offset (spec/02 R21). -/
def blockPlus (pc : DWord) (off : DWord) : DWord := (pc &&& ~~~63#64) + off * 64#64
def target24 (pc : DWord) (t : BitVec 24) : DWord := blockPlus pc (t.signExtend 64)
def rejoin16 (pc : DWord) (r : BitVec 16) : DWord := blockPlus pc (r.signExtend 64)

/-- A fragment after a control instruction: its new PC and the redirect delay (spec/03 R63). -/
def Frag.redirect (f : Frag) (pc : DWord) (cycle : Nat) : Frag :=
  { f with pc := pc, only := none, issueAt := cycle + 4 }

/-- A control instruction that only moves the PC of its fragment. -/
def Iss.branch (x : Iss) (pc : DWord) : State :=
  x.s.setGroup x.k (x.g.setFrag x.sl (some (x.f.redirect pc x.cycle)))

/-- PC becomes the target (spec/03 R49). -/
def execBra (t : BitVec 24) (s : State) : Out :=
  issue (.bra t) s (fun x => .ok (x.branch (target24 x.f.pc t)))

/-- The group predicate, inverted by QN, decides (spec/03 R49). -/
def execBrq (t : BitVec 24) (q : QReg) (qn : Bool) (s : State) : Out :=
  issue (.brq t q qn) s (fun x =>
    .ok (x.branch (if x.g.regs.rdQ q.val != qn then target24 x.f.pc t else x.next)))

/-- PC becomes sA (spec/03 R49). -/
def execBrx (a : SReg) (s : State) : Out :=
  issue (.brx a) s (fun x => .ok (x.branch (x.g.regs.rdS a.val)))

/-- The return address: the block after the call's own (spec/02 R26). -/
def returnAddr (pc : DWord) : DWord := blockPlus pc 1#64

/-- Write a 64-bit value into a pair in every lane of a mask. -/
def Regs.wrPairs (r : Regs) (d : Nat) (m : LaneMask) (x : DWord) : Regs :=
  (lanesOf m).foldl (fun r l => r.wrV64 d l x) r

/-- A call: link in a pair, readable 4 cycles on, then the branch (spec/03 R50, R63). -/
def Iss.link (x : Iss) (d : Nat) (pc : DWord) : State :=
  let g := { x.g with regs := x.g.regs.wrPairs d x.f.mask (returnAddr x.f.pc) }.shortReady (vs d 2) x.cycle
  x.s.setGroup x.k (g.setFrag x.sl (some (x.f.redirect pc x.cycle)))

/-- call links in v0, v1 (spec/03 R50). -/
def execCall (t : BitVec 24) (s : State) : Out :=
  issue (.call t) s (fun x => .ok (x.link 0 (target24 x.f.pc t)))

/-- callx links in vD, vD + 1 and takes its target from sA (spec/03 R50). -/
def execCallx (d : VReg) (a : SReg) (s : State) : Out :=
  issue (.callx d a) s (fun x => .ok (x.link d.val (x.g.regs.rdS a.val)))

/-- ret takes the common value of the pair, or raises DIVERGENT_RETURN (spec/03 R51). -/
def execRet (a : VReg) (s : State) : Out :=
  issue (.ret a) s (fun x =>
    match Instr.regTarget (.ret a) x.g.regs x.f with
    | some t => .ok (x.branch t)
    | none => .trap { code := 0x06 })

/-- nop advances the PC by 8 and lets the fragment issue from the next cycle (spec/03 R52, R63). -/
def execNop (s : State) : Out := issue .nop s (fun x => .ok (x.step x.g))

/-! ### The split stack (spec/03 R44 to R47) -/

def Group.free (g : Group) : Nat := 32 - g.stack.length
/-- Skip 0 and the tokens of frames in the stack (spec/03 R46). -/
def nextTok (used : List (BitVec 16)) (t : BitVec 16) : Nat → BitVec 16
  | 0 => t
  | n + 1 =>
    let t := if t = 0xFFFF#16 then 1#16 else t + 1
    if t = 0#16 || used.contains t then nextTok used t n else t
/-- A new token: the counter advanced past those in use (spec/03 R46). -/
def Group.newTok (g : Group) : BitVec 16 :=
  nextTok ((g.stack.filter (fun e => e.kind == .frame)).map (·.tok)) g.tokctr 34

/-- The frame of a token. -/
def frameOf (st : List Entry) (tok : BitVec 16) : Option Entry :=
  st.find? (fun e => e.kind == .frame && e.tok == tok)
/-- The chain that starts at a token, innermost first (spec/03 R42). -/
def chainFrom (st : List Entry) (tok : BitVec 16) : Nat → List Entry
  | 0 => []
  | n + 1 => if tok = 0 then [] else match frameOf st tok with
    | none => []
    | some e => e :: chainFrom st e.ptok n

/-- A fragment with nothing open. -/
def Frag.plain (pc : DWord) (mask : LaneMask) (tok : BitVec 16) (rj : DWord) (depth : BitVec 8) (at_ : Nat) : Frag where
  pc := pc
  mask := mask
  tok := tok
  rj := rj
  depth := depth
  windows := []
  only := none
  issueAt := at_
  wait := none
  entering := []
  mark := none
  bpSkip := false
  fence := none
  hits := []

/-- Remove the lanes of a mask from XMASK of the frames of some tokens; a frame left without lanes is removed (spec/03
R54, R55). -/
def trimFrames (st : List Entry) (toks : List (BitVec 16)) (m : LaneMask) : List Entry :=
  (st.map (fun e => if e.kind == .frame && toks.contains e.tok then { e with xmask := e.xmask &&& ~~~m } else e)).filter
    (fun e => !(e.kind == .frame && toks.contains e.tok && e.xmask == 0#32))

/-- The READY entry with the highest index (spec/03 R45). -/
def lastReady : List Entry → Option Entry
  | [] => none
  | e :: es => match lastReady es with
    | some r => some r
    | none => if e.kind == .ready then some e else none

/-- Refill an empty slot from the split stack; the fragment may issue from 8 cycles on (spec/03 R45, R63). -/
def Group.refill (g : Group) (sl : Slot) (cycle : Nat) : Group :=
  match lastReady g.stack with
  | none => g
  | some e =>
    { g with stack := g.stack.filter (fun x => x ≠ e) }.setFrag sl
      (some (Frag.plain e.pc e.mask e.tok e.rj e.depth (cycle + 8)))

/-- Settle: the first frame of a list whose parked mask equals its XMASK completes into the slot; else the slot is
refilled (spec/03 R56). -/
def Group.settle (g : Group) (sl : Slot) (cycle : Nat) : List (BitVec 16) → Group
  | [] => g.refill sl cycle
  | t :: ts =>
    match frameOf g.stack t, g.stack.find? (fun e => e.kind == .parked && e.tok == t) with
    | some fr, some p =>
      if p.mask = fr.xmask then
        ({ g with stack := g.stack.filter (fun x => x ≠ fr && x ≠ p) }.fuse p.mask).setFrag sl
          (some (Frag.plain fr.rj p.mask fr.ptok fr.prj (fr.depth - 1) (cycle + 4)))
      else g.settle sl cycle ts
    | _, _ => g.settle sl cycle ts

/-- The fragment that a region's completion has put into a slot comes after what its lanes' fragments have in the matrix engine
queue (spec/03 R57, spec/10 R207). -/
def State.fuseTiles (s : State) (k : GKey) (sl : Slot) : State :=
  match s.group? k with
  | none => s
  | some g => match g.frag sl with
    | none => s
    | some f => if (s.core k.core).tileQ.isEmpty then s else s.modCore k.core (fun c => { c with
        tileQ := c.tileQ.map (fun e => if e.gidx = g.gidx ∧ e.mask &&& f.mask ≠ 0#32 ∧ e.mask ||| f.mask ≠ e.mask then
          { e with mask := e.mask ||| f.mask, past := e.past ++ [(g.nextId, e.mask)] } else e) })

/-- bra.div (spec/03 R53). -/
def execBraDiv (gd : Guard) (t : BitVec 24) (r : BitVec 16) (s : State) : Out :=
  issue (.braDiv gd t r) s (fun x =>
    let f := x.f
    let tk := f.mask &&& x.g.regs.guard gd
    let n := f.mask &&& ~~~tk
    let tgt := target24 f.pc t
    let j := rejoin16 f.pc r
    if tk = 0 then .ok (x.branch x.next)
    else if n = 0 then .ok (x.branch tgt)
    else
      let same := f.depth != 0 && j == f.rj
      let busy := (x.g.frag (Slot.other x.sl)).isSome
      let need := (if same then 0 else 1) + (if busy then 1 else 0)
      if x.g.free < need then .trap { code := 0x05 }
      else if busy && !(x.g.pendingOf f.mask).isEmpty then .wait
      else
        let k := x.g.newTok
        let g := if same then x.g else
          { x.g with
            tokctr := k
            stack := x.g.stack ++ [⟨.frame, f.depth + 1, k, f.tok, 0, f.mask, f.pc, j, f.rj⟩] }
        let f := if same then f else { f with tok := k, rj := j, depth := f.depth + 1 }
        let spl := { f with pc := x.next, mask := n, only := none, issueAt := x.cycle + 4, mark := none }
        let g := g.setFrag x.sl (some { f.redirect tgt x.cycle with mask := tk })
        .ok (x.s.setGroup x.k (if busy then
          { g with stack := g.stack ++ [⟨.ready, f.depth, f.tok, 0, n, 0, x.next, f.rj, 0⟩] }
          else g.setFrag (Slot.other x.sl) (some spl))))

/-- The innermost frame of a chain whose rejoin is a PC, with the frames inside it. -/
def splitChain (pc : DWord) : List Entry → Option (List Entry × Entry)
  | [] => none
  | e :: es => if e.rj = pc then some ([], e) else (splitChain pc es).map (fun p => (e :: p.1, p.2))

/-- join (spec/03 R54); it advances by 8 outside every matching region. -/
def execJoin (s : State) : Out :=
  issue .join s (fun x =>
    if !(x.g.pendingOf x.f.mask).isEmpty then .wait
    else match splitChain x.f.pc (chainFrom x.g.stack x.f.tok 33) with
      | none => .ok (x.step x.g)
      | some (inner, kf) =>
        let p := x.g.stack.find? (fun e => e.kind == .parked && e.tok == kf.tok)
        if p.isNone && x.g.free < 1 then .trap { code := 0x05 }
        else
          let toks := inner.map (fun (e : Entry) => e.tok)
          let st := trimFrames x.g.stack toks x.f.mask
          let st := if p.isSome then
              st.map (fun e => if e.kind == .parked && e.tok == kf.tok then { e with mask := e.mask ||| x.f.mask } else e)
            else st ++ [⟨.parked, kf.depth, kf.tok, 0, x.f.mask, 0, x.f.pc, kf.rj, 0⟩]
          let g := { x.g with stack := st }.setFrag x.sl none
          .ok ((x.s.setGroup x.k (g.settle x.sl x.cycle
            ((toks.filter (fun t => (frameOf st t).isSome)) ++ [kf.tok]))).fuseTiles x.k x.sl))

/-- Lanes that exit in handler mode leave the entry mask and the frames of the entry state's chain (spec/14 R266). -/
def Group.exitHandler (g : Group) (m : LaneMask) : Group :=
  match g.handler with
  | none => g
  | some h =>
    { g with
      handler := some { h with mask := h.mask &&& ~~~m }
      stack := trimFrames g.stack ((chainFrom g.stack h.tok 33).map (·.tok)) m }

/-- The lanes still in the group. -/
def Group.alive (g : Group) : LaneMask := ~~~g.exited

/-- A group that ends releases its locks by force (spec/08 R162, spec/07 R117): the lock logic finds their holders gone.
The group is marked ended, its pending causes are discarded (spec/14 R269). -/
def Group.finish (g : Group) : Group :=
  if g.alive = 0#32 then { g with ended := true, late := [], handler := none } else g

/-- exit (spec/03 R55); in handler mode it also acts on the entry state, and when every lane of the handler's fragment
has exited, handler mode ends (spec/14 R266). -/
def execExit (s : State) : Out :=
  issue .exit s (fun x =>
    if !(x.g.pendingOf x.f.mask).isEmpty then .wait
    else
      let toks := (chainFrom x.g.stack x.f.tok 33).map (·.tok)
      let g := { x.g with
        stack := trimFrames x.g.stack toks x.f.mask
        exited := x.g.exited ||| x.f.mask
        sr := { x.g.sr with eystruck := x.g.sr.eystruck &&& ~~~x.f.mask } }
      let g := (g.exitHandler x.f.mask).setFrag x.sl none
      let left (ts : List (BitVec 16)) := ts.filter (fun t => (frameOf g.stack t).isSome)
      let g := match x.g.handler, g.handler with
        | some h0, some h =>
          if h.mask = 0#32 then
            { g with handler := none }.settle x.sl x.cycle (left ((chainFrom x.g.stack h0.tok 33).map (fun (e : Entry) => e.tok)))
          else g.settle x.sl x.cycle (left toks)
        | _, _ => g.settle x.sl x.cycle (left toks)
      .ok (((x.s.setGroup x.k g.finish).fuseTiles x.k x.sl).tryEnd x.g.team))

end Sys2Proof.Machine
end

