-- ==== Sys2Proof/Machine/Local.lean ====
section
/-! DEFINITION. The local-level loads and stores of class 0x07 (spec/07 R110 to R122). -/

namespace Sys2Proof.Machine

/-- Where the lanes of a local access go: lane, address, checked place (spec/07 R121). -/
def Iss.localLanes (x : Iss) (f : MemF) (sp : Space) : List (Nat × DWord × Option (Space × Nat)) :=
  (lanesOf x.act).map (fun l =>
    let a := x.g.regs.ea f.addr l
    (l, a, x.s.localAt x.g.team x.g.gidx x.g.key x.k.die sp l a (sizeBytes f.size)))

/-- The LOCAL_RANGE trap of the lanes that fail their check (spec/07 R121). -/
def localTrap (ls : List (Nat × DWord × Option (Space × Nat))) : Option TrapInfo :=
  match ls.filter (fun e => e.2.2.isNone) with
  | [] => none
  | e :: es => some { code := 0x07, lanes := some (maskOf ((e :: es).map (·.1))), addr := e.2.1 }

/-- The parts of a local load in one lane: one per 32-byte-aligned range (spec/07 R122). -/
def localParts (l : Nat) (a : DWord) (pl : Space × Nat) (n : Nat) : List Part :=
  (sectorCuts a.toNat n).map (fun c =>
    ⟨l, pl.1, locByte pl.1 pl.2 c.1, a + BitVec.ofNat 64 c.1, c.1, c.2, 0, 0, none, 0⟩)

/-- A local load (spec/07 R121): its parts become outstanding. -/
def Iss.ldLocal (x : Iss) (i : Instr) (f : MemF) (sp : Space) : Res :=
  let ls := x.localLanes f sp
  match localTrap ls with
  | some t => .trap t
  | none =>
    let ps := ls.flatMap (fun e => match e.2.2 with
      | some pl => localParts e.1 e.2.1 pl (sizeBytes f.size)
      | none => [])
    let fl := { x.flight (.load f.size f.d.val) (Instr.dests i) with parts := ps, acq := f.order.acq }
    .ok (x.s.setGroup x.k (x.g.launchFlight x.sl x.f x.next f.la.val fl))

/-- A local store (spec/07 R121): its bytes leave at once, to be performed whole. -/
def Iss.stLocal (x : Iss) (f : MemF) (sp : Space) : Res :=
  let ls := x.localLanes f sp
  match localTrap ls with
  | some t => .trap t
  | none => x.withRelease f.order.rel f.scope (
    let bs := ls.flatMap (fun e => match e.2.2 with
      | some pl => (storeBytes x.g.regs f.size f.d.val e.1).mapIdx (fun j b => (locByte pl.1 pl.2 j, b))
      | none => [])
    let sp' := match sp with
      | .die => .scratch
      | .lane => .lane | .scratch => .scratch | .pks => .pks | .global => .global
    let g := if bs.isEmpty then x.g else
      { x.g with nextId := x.g.nextId + 1, loc := x.g.loc ++ [⟨x.g.nextId, x.g.nextId, x.f.mask, x.f.pc, sp', 0, bs, []⟩] }
    .ok (x.s.setGroup x.k (g.goto x.sl x.f x.next)))

/-- ldl (spec/07 R114, R121). -/
def execLdl (f : MemF) (s : State) : Out := issue (.ldl f) s (fun x => x.ldLocal (.ldl f) f .lane)
/-- stl (spec/07 R114, R121). -/
def execStl (f : MemF) (s : State) : Out := issue (.stl f) s (fun x => x.stLocal f .lane)
/-- lds (spec/07 R116, R121). -/
def execLds (f : MemF) (s : State) : Out := issue (.lds f) s (fun x => x.ldLocal (.lds f) f .scratch)
/-- sts (spec/07 R116, R121). -/
def execSts (f : MemF) (s : State) : Out := issue (.sts f) s (fun x => x.stLocal f .scratch)
/-- ldd (spec/07 R118, R121). -/
def execLdd (f : MemF) (s : State) : Out := issue (.ldd f) s (fun x => x.ldLocal (.ldd f) f .die)
/-- std (spec/07 R118, R121). -/
def execStd (f : MemF) (s : State) : Out := issue (.std f) s (fun x => x.stLocal f .die)
/-- ldk (spec/07 R119, R121). -/
def execLdk (f : MemF) (s : State) : Out := issue (.ldk f) s (fun x => x.ldLocal (.ldk f) f .pks)
/-- stk (spec/07 R119, R121). -/
def execStk (f : MemF) (s : State) : Out := issue (.stk f) s (fun x => x.stLocal f .pks)

end Sys2Proof.Machine
end

