-- ==== Sys2Proof/Machine/Global.lean ====
section
/-! DEFINITION. The global loads and stores of class 0x08, speculation and cache controls (spec/07 R123 to R139). -/

namespace Sys2Proof.Machine

/-- The fragment as it stood before this issue was counted in its windows. -/
def Iss.uncounted (x : Iss) : Frag := ((x.s.group? x.k).bind (fun g => g.frag x.sl)).getD x.f

/-- After an instruction of which some lanes met a replayable fault: the fragment stays at the word, which will execute
again for those lanes only, and the group is replayable (spec/07 R130). -/
def Iss.partialFault (x : Iss) (s : State) (g : Group) (bad : LaneMask) (f : Faulted) (acc : AccKind) :
    State :=
  let fr := (g.frag x.sl).getD x.f
  let old := x.uncounted
  s.markReplay x.k x.sl (g.setFrag x.sl (some { old with only := some bad, bpSkip := true, mark := fr.mark, hits := fr.hits, entering := fr.entering }))
    bad f acc

/-- Finish a word after its accessing lanes: on to the next word, or replayable for the faulting lanes. -/
def Iss.finishX (x : Iss) (s : State) (g : Group) (bad : LaneMask) (f : Option Faulted) (acc : AccKind) :
    State :=
  match f with
  | none =>
    let fr := (g.frag x.sl).getD x.f
    s.setGroup x.k (g.setFrag x.sl (some { fr with pc := x.next, only := none }))
  | some f => x.partialFault s g bad f acc

/-- Clear a spent smark of the executing fragment (spec/18 R325). -/
def Group.unmark (g : Group) (sl : Slot) : Group :=
  match g.frag sl with
  | some f => g.setFrag sl (some { f with mark := none })
  | none => g

/-- The lowest active lane takes effect, or there is none: its first request carries the smark (spec/18 R325). -/
def Iss.marked (x : Iss) (ok : List XPart) : Bool := (lanesOf x.act).head?.all (fun l => ok.any (fun p => p.lane == l))
/-- The word as its requests see it: without the smark where the lowest active lane waits for a replay. -/
def Iss.carrying (x : Iss) (ok : List XPart) : Iss := if x.marked ok then x else { x with f := { x.f with mark := none } }
/-- The group after a word: its smark is spent, but where the request that is to carry it still has to be sent (spec/18 R325); before a
replay the fragment keeps the watches that the word has hit (R335). -/
def Iss.spent (x : Iss) (g : Group) (kind : Nat) (ok : List XPart) (f : Option Faulted) : Group :=
  let g := if x.marked ok then g.unmark x.sl else g
  if f.isNone then g
  else g.setFrag x.sl ((g.frag x.sl).map (fun fr => { fr with hits := x.touches kind (ok.map (fun p => (p.va, p.len))) }))

/-- Enter the entries that an instruction's translations read into the caches (spec/15 R295). -/
def State.noteParts (s : State) (k : GKey) (key : CtxKey) (ps : List XPart) : State := s.noteWalk k.core (s.partWalks key ps)

/-- A word whose page migrates waits; its walks leave their entries (spec/15 R308, spec/17 R319). -/
def Iss.waitWalk (x : Iss) (ps : List XPart) : Res := .hold (x.s.noteParts x.k x.g.key ps)

/-- Open a load's flight: with its window when every lane took effect, else without one (spec/07 R130). -/
def Iss.openLoad (x : Iss) (s : State) (g : Group) (la : Nat) (fl : Flight) (bad : LaneMask)
    (f : Option Faulted) (acc : AccKind) : State :=
  match f with
  | none => s.setGroup x.k (g.launchFlight x.sl x.f x.next la fl)
  | some f =>
    let g := { g with nextId := g.nextId + 1, flights := g.flights ++ [{ fl with id := g.nextId, ord := g.nextId }] }
    x.partialFault s g bad f acc

/-- A stale copy that only ld.spec may read: present, no longer Live, not yet too old, and not beside a line that the slice holds
locked (spec/07 R124, R132; spec/08 R154). -/
def State.staleCopy (s : State) (d : DieKey) (l : Nat) : Option Copy :=
  match tget s.copies (d, l) with
  | some c => if live (s.wall d.m) c.expiry || decide (c.expiry + 4194304 < s.wall d.m) || (s.line l).point == .slice d then none
      else some c
  | none => none

/-- The bytes of a part from forwarding and a copy (spec/07 R125). -/
def partBytes (g : Group) (pa len : Nat) (src : Nat → Byte) : List Byte :=
  (List.range len).map (fun i => (g.forward (pa + i)).getD (src (pa + i)))

/-- Parts of a global load. -/
def globalPart (p : XPart) : Part := ⟨p.lane, .global, p.pa, p.va, p.off, p.len, 0, 0, none, p.leaf⟩

/-- A part with the bytes it took. -/
def Part.took (p : Part) (bs : List Byte) : Part := { p with bytes := some bs }

/-- The eyelets of an ld.spec: its stale lines with the lanes that read them (spec/07 R132); none when the tables lack
room, so that the instruction is a plain load. -/
def Iss.specLines (x : Iss) (ps : List XPart) : Option (List (Nat × LaneMask × DWord × Copy)) :=
  let c := x.s.core x.k.core
  let ls := (ps.map (fun p => lineOf p.pa)).eraseDups
  let stale := ls.filterMap (fun l => match x.s.staleCopy x.k.die l with
    | none => none
    | some cp =>
      let us := ps.filter (fun p => lineOf p.pa == l)
      some (l, maskOf (us.map (·.lane)), (us.head?.map (·.va)).getD 0, cp))
  let news := stale.filter (fun e => !c.eyelets.any (fun y => y.pa == e.1 && y.grp == x.k.g))
  let mine := (c.eyelets.filter (fun y => y.grp == x.k.g)).length
  if c.eyelets.length + news.length ≤ 64 ∧ mine + news.length ≤ 8 then some stale else none

/-- Record eyelets, or add lanes to those in flight (spec/07 R132). -/
def Core.addEyelets (c : Core) (grp lease : Nat) (es : List (Nat × LaneMask × DWord × Copy)) : Core :=
  es.foldl (fun (c : Core) (e : Nat × LaneMask × DWord × Copy) =>
    if c.eyelets.any (fun y => y.pa == e.1 && y.grp == grp) then
      { c with eyelets := c.eyelets.map (fun y =>
          if y.pa = e.1 ∧ y.grp = grp then { y with lmask := y.lmask ||| e.2.1 } else y) }
    else { c with eyelets := c.eyelets ++ [⟨e.2.2.1.ushiftRight 7, e.1, e.2.2.2.ver, e.2.1, grp, lease, false⟩] }) c

/-- ldg and ld.spec (spec/07 R125, R130, R132). -/
def Iss.ldGlobal (x : Iss) (i : Instr) (f : MemF) (spec : Bool) : Res :=
  let n := sizeBytes f.size
  let ps := x.s.parts x.g.key .read x.act n (fun l => x.g.regs.ea f.addr l)
  match x.s.decide130 x.g.key x.g.team x.k.g x.f.pc ps with
  | .wait => x.waitWalk ps
  | .trap t => .trap t
  | .go ok bad flt =>
    let act := x.act &&& ~~~bad
    let s := x.s.noteParts x.k x.g.key ok
    let s := x.noteAccess s 0 (ok.map (fun p => (p.va, p.len)))
    let s := s.sample x.k x.g (x.carrying ok).f.mark (x.requests (if spec then 3 else 0) x.g.nextId (lineReqs (ok.map (fun p => (p.lane, p.va)))))
    let stale := if spec then (x.specLines ok).getD [] else []
    if !stale.isEmpty && x.g.acqBlocks x.f.mask x.g.nextId then .wait else
    let s := if stale.isEmpty then s else s.modCore x.k.core (fun c => c.addEyelets x.k.g x.g.sr.lease.toNat stale)
    let parts := ok.map (fun p =>
      match stale.find? (fun e => e.1 == lineOf p.pa) with
      | some e => (globalPart p).took (partBytes x.g p.pa p.len (fun a => e.2.2.2.data.getD (a % 128) 0#8))
      | none => globalPart p)
    let fl := { x.flight (.load f.size f.d.val) (Instr.dests i) with act := act, parts := parts, acq := f.order.acq }
    .ok ({ x with f := { x.f with mark := none } }.openLoad s (x.spent x.g 0 ok flt) f.la.val fl bad flt .read)

/-- ldg (spec/07 R125). -/
def execLdg (f : MemF) (s : State) : Out := issue (.ldg f) s (fun x => x.ldGlobal (.ldg f) f false)
/-- ld.spec (spec/07 R132). -/
def execLdSpec (f : MemF) (s : State) : Out := issue (.ldSpec f) s (fun x => x.ldGlobal (.ldSpec f) f true)

/-- The bytes of a store by sector, in increasing lane number and address: sector, first address, further addresses, bytes. -/
def storeSectors (r : Regs) (z : MSize) (d : Nat) (ps : List XPart) : List (Nat × DWord × List DWord × List (Nat × Byte)) :=
  ps.foldl (fun acc p =>
    let bs := ((storeBytes r z d p.lane).drop p.off |>.take p.len).mapIdx (fun j b => (p.pa % 32 + j, b))
    let sec := p.pa / 32
    if acc.any (fun e => e.1 == sec) then acc.map (fun e =>
        if e.1 = sec then (e.1, e.2.1, e.2.2.1 ++ [p.va], e.2.2.2 ++ bs) else e)
    else acc ++ [(sec, p.va, [], bs)]) []

/-- Put the stores of an instruction into the buffer, merging where they may (spec/07 R126). -/
def Iss.bufferStores (x : Iss) (secs : List (Nat × DWord × List DWord × List (Nat × Byte))) : Option Group :=
  let first := (secs.head?.map (·.1))
  let r := secs.foldl (fun (acc : Group × List SbEntry) e =>
    let note := x.storeNote (first == some e.1)
    match mergeSb acc.1.sb e.1 x.g.nextId x.f.mask (e.2.1 :: e.2.2.1) e.2.2.2 note.tag with
    | some sb => ({ acc.1 with sb := sb }, acc.2)
    | none => (acc.1, acc.2 ++ [⟨0, x.g.nextId, x.f.mask, x.f.pc, e.2.1, e.1, .bytes e.2.2.2, .queued, e.2.2.1, note, []⟩])) (x.g, [])
  r.1.enterSb x.sl r.2

/-- What global store-like instructions of the group path note once they take effect. -/
def Iss.noteStores (x : Iss) (ok : List XPart) (kind : Nat) : State :=
  x.noteAccess (x.s.noteParts x.k x.g.key ok) kind (ok.map (fun p => (p.va, p.len)))

/-- stg (spec/07 R126, R128, R130). -/
def execStg (f : MemF) (s : State) : Out :=
  issue (.stg f) s (fun x =>
    let n := sizeBytes f.size
    let ps := x.s.parts x.g.key .write x.act n (fun l => x.g.regs.ea f.addr l)
    match x.s.decide130 x.g.key x.g.team x.k.g x.f.pc ps with
    | .wait => x.waitWalk ps
    | .trap t => .trap t
    | .go ok bad flt => x.withRelease f.order.rel f.scope (
      match (x.carrying ok).bufferStores (storeSectors x.g.regs f.size f.d.val ok) with
      | none => .wait
      | some g =>
        .ok (x.finishX (x.noteStores ok 1) (x.spent g 1 ok flt) bad flt .write)))

/-- chk (spec/07 R134). -/
def execChk (t : BitVec 24) (s : State) : Out :=
  issue (.chk t) s (fun x =>
    if (x.s.core x.k.core).eyeletIn x.k.g x.f.mask then .wait
    else
      let st := x.g.sr.eystruck &&& x.f.mask
      let g := { x.g with sr := { x.g.sr with eystruck := x.g.sr.eystruck &&& ~~~x.f.mask } }
      .ok ({ x with g := g }.branch (if st ≠ 0 then target24 x.f.pc t else x.next)))

/-! ### Fills (spec/07 R123, R124, spec/11 R223) -/

/-- The line's current bytes at its ordering point. -/
def State.lineBytes (s : State) (l : Nat) : List Byte := s.peekN (l * 128) 128

/-- A module may fill a line now: at home when no other module's proxy holds it Exclusive and its page has not moved,
else from its own proxy slice; the data and version that the fill carries (spec/11 R223, spec/08 R155). -/
def State.fillSource (s : State) (m l : Nat) : Option (List Byte × Word) :=
  if s.movedLine l || s.homeLost (128 * l) then none
  else if m = lineMod l then
    match (s.line l).dir with
    | .exclusive _ => none
    | .uncached | .shared _ => some (s.lineBytes l, (s.line l).ver)
  else match tget s.proxies (m, l) with
    | none => none
    | some p => if p.dropped then none else if p.excl then some (s.lineBytes l, (s.line l).ver) else some (p.data, p.ver)

/-- A read that reaches the home: one of its own module, or one of a locked line, which the home forwards (spec/08 R155). -/
def State.atHome (s : State) (m l : Nat) : Bool := m == lineMod l || (s.line l).lock.isSome
/-- The home applies a merged entry before it serves a read (spec/08 R150). -/
def State.redFirst (s : State) (m l : Nat) : State := if s.atHome m l then s.applyRed l else s

/-- A lane of an atomic, or a store flag, of a die is on its way to a line and has not been performed there (spec/07 R127,
spec/11 R238). -/
def State.laneUnderway (s : State) (d : DieKey) (l : Nat) : Bool :=
  s.reqs.any (fun r => !r.closed && !r.performed && (match r.payload with
    | .lane k fl i => k.die == d && (match (s.group? k).bind (fun g => (g.flight? fl).bind (fun f => f.parts[i]?)) with
      | some p => lineOf p.addr == l
      | none => false)
    | .entry .. | .fill .. | .lock .. | .flag _ | .shuttle _ | .stream _ | .slReq .. | .contrib .. | .unlk _ | .engine _ => false)) ||
  s.flags.any (fun f => f.k.die == d && f.ba.isNone && !f.performed && lineOf f.pa == l)

/-- A copy may be installed: no lock on the line elsewhere, and no write of the die is on its way to it (spec/07 R127,
spec/08 R154, R155). -/
def State.mayInstall (s : State) (d : DieKey) (l : Nat) : Bool :=
  (s.line l).lock.isNone && !s.laneUnderway d l &&
  s.groups.all (fun g => g.1.die != d || g.2.sb.all (fun e => e.sector / 4 != l || (match e.st with
    | .sent _ => false
    | .queued | .moved | .performed _ | .acked _ => true)))

/-- A lease on a line, granted to a reader of module m, is entered at the home or at the module's proxy (spec/07 R124, spec/11 R226). -/
def State.enterLease (s : State) (m l t : Nat) : State :=
  if m = lineMod l then s.modLine l (fun x => { x with lease := max x.lease t })
  else match tget s.proxies (m, l) with
    | some p => { s with proxies := tset s.proxies (m, l) { p with lease := max p.lease t } }
    | none => s

/-- Install a copy with a fresh lease and enter the lease at the home or proxy; it may replace a copy of its slice (spec/07
R123, R124). -/
def State.install (s : State) (d : DieKey) (l lease : Nat) (src : List Byte × Word) : State :=
  let home := lineMod l
  let t := s.wall (if d.m = home then home else d.m) + lease
  let copies := match Config.victim s.freeCtr with
    | none => s.copies
    | some v => if v % 48 = l % 48 ∧ (s.line v).point ≠ .slice d then terase s.copies (d, v) else s.copies
  { s with copies := tset copies (d, l) ⟨src.1, t, src.2⟩, freeCtr := s.freeCtr + 1 }.enterLease d.m l t

/-- The group has lost this line's proxy fill request, or it is to be sent: a request for the line (spec/11 R225). -/
def State.askFill (s : State) (k : GKey) (l : Nat) : State :=
  if s.reqs.any (fun r => r.payload == .fill k l && !r.closed) then s
  else
    (s.newReq k.m (lineMod l) (.fill k l)).2

/-- The lanes whose translation completes at once, as a read's does with no fault, each with the virtual address of its line and the line
(spec/07 R137, R139; log entry 106). -/
def Iss.atOnceLanes (x : Iss) (a : MAddr) : List (Nat × DWord × Nat) :=
  (lanesOf x.act).filterMap (fun l =>
    let va := x.g.regs.ea a l &&& ~~~127#64
    (x.s.atOnce x.k.core x.g.key va).bind (fun e => match x.s.leafFate x.g.key va .read e.1 e.2.1 e.2.2 with
      | .ok pa _ => some (l, va, lineOf pa)
      | .trap _ | .fault .. | .wait => none))
def Iss.atOnceLines (x : Iss) (a : MAddr) : List Nat := ((x.atOnceLanes a).map (fun e => e.2.2)).eraseDups

/-- One line of a pf to L1: left alone when a Live copy stands or its slice holds it locked, else a fill of it is asked for (spec/07
R137). -/
def State.prefetch (s : State) (k : GKey) (lease : Nat) (l : Nat) : State :=
  if (tget s.copies (k.die, l)).any (fun c => live (s.wall k.m) c.expiry) || (s.line l).point == .slice k.die then s
  else
    let s := if k.m = lineMod l || (s.fillSource k.m l).isSome then s else s.askFill k l
    s.modCore k.core (fun c => if c.pfs.any (fun p => p.1 == l) then c else { c with pfs := c.pfs ++ [(l, k.g, lease)] })

/-- A pf or cinv goes on to the next word; the requests of its lanes are sampled (spec/18 R325, R326; log entry 84). -/
def Iss.cacheControl (x : Iss) (a : MAddr) (which : Nat) : State :=
  let s := x.s.sample x.k x.g x.f.mark (x.requests (Config.cacheAcc which).val x.g.nextId (lineReqs ((x.atOnceLanes a).map (fun e => (e.1, e.2.1)))))
  let g := if (x.atOnceLanes a).isEmpty then x.g else { x.g with nextId := x.g.nextId + 1 }
  s.setGroup x.k ((g.unmark x.sl).goto x.sl { x.f with mark := none } x.next)

/-- pf (spec/07 R137): to L1, or to the home's L2 only, which holds what memory holds. -/
def execPf (f : LineF) (l2 : Bool) (s : State) : Out :=
  issue (.pf f l2) s (fun x =>
    let s := x.cacheControl f.addr 0
    .ok (if l2 then s else (x.atOnceLines f.addr).foldl (fun s l => s.prefetch x.k x.g.sr.lease.toNat l) s))

/-- cwb (spec/07 R138): it stores no byte, so that no watch sees it (spec/18 R335); one write-back per line, with release order once R128 lets it leave; it is none of the releases of R135. Its
addresses are the bases of the lines (log entry 74). -/
def execCwb (f : LineF) (s : State) : Out :=
  issue (.cwb f) s (fun x =>
    let ps := x.s.parts x.g.key .write x.act 1 (fun l => x.g.regs.ea f.addr l &&& ~~~127#64)
    match x.s.decide130 x.g.key x.g.team x.k.g x.f.pc ps with
    | .wait => x.waitWalk ps
    | .trap t => .trap t
    | .go ok bad flt =>
      if f.order.rel && !x.s.released x.k x.g x.f.mask (f.scope == .sys) then .wait else
      let ls := (ok.map (fun p => lineOf p.pa)).eraseDups
      let s := (x.s.noteParts x.k x.g.key ok).sample x.k x.g (x.carrying ok).f.mark ((lineReqs (ok.map (fun p => (p.lane, p.va)))).flatMap (fun r =>
        x.requests (Config.cacheAcc 1).val (x.g.nextId + ls.idxOf (((ok.find? (fun p => p.va == r.2)).map (fun p => lineOf p.pa)).getD 0)) [r]))
      let va (l : Nat) : DWord := ((ok.find? (fun p => lineOf p.pa == l)).map (·.va)).getD 0
      let g := { x.g with
        nextId := x.g.nextId + ls.length
        wbs := x.g.wbs ++ ls.mapIdx (fun j l => WriteBack.mk (x.g.nextId + j) x.f.mask l x.f.pc (va l) []) }
      .ok (x.finishX s (x.spent g 3 ok flt) bad flt .write))

/-- cinv (spec/07 R139): drops the die's copies; a locked line and store-pending data stay. -/
def execCinv (f : LineF) (s : State) : Out :=
  issue (.cinv f) s (fun x =>
    .ok ((x.atOnceLines f.addr).foldl (fun s l => s.dropCopy x.k.die l) (x.cacheControl f.addr 2)))

end Sys2Proof.Machine
end

