-- ==== Sys2Proof/Machine/Atomics.lean ====
section
/-! DEFINITION. The atomics and reductions of class 0x09 (spec/08 R140 to R151) and the step that completes an atomic's
reply. -/

namespace Sys2Proof.Machine

/-- The ATOMIC_SECTOR trap of the active lanes whose bytes cross a sector boundary (spec/08 R143). -/
def sectorTrap (act : LaneMask) (n : Nat) (ea : Nat → DWord) : Option TrapInfo :=
  match (lanesOf act).filter (fun l => 32 < (ea l).toNat % 32 + n) with
  | [] => none
  | l :: ls => some { code := 0x0B, lanes := some (maskOf (l :: ls)), addr := ea l }

/-- What an atomic or a reduction carries: operation code of atomOp, size, first data register, address, scope, order. -/
structure AtomOp where
  op : Nat
  size : ASize
  d : Nat
  addr : MAddr
  scope : Scope
  order : Order
deriving DecidableEq, Repr

def AtomF.toOp (f : AtomF) (op : Nat) : AtomOp := ⟨op, f.size, f.d.val, f.addr, f.scope, f.order⟩
def AtomFF.toOp (f : AtomFF) (op : Nat) : AtomOp := ⟨op, .u32, f.d.val, f.addr, f.scope, f.order⟩

/-- The operand of a lane from a register, or from the pair (spec/08 R142). -/
def Regs.data (r : Regs) (z : ASize) (d lane : Nat) : DWord :=
  if z.wide then r.rdV64 d lane else (r.rdV d lane).setWidth 64

/-- Compare value and operand of a lane: atom.cas compares with vD and writes the register or pair after it. -/
def Regs.casData (r : Regs) (o : AtomOp) (lane : Nat) : DWord × DWord :=
  if o.op = 7 then (r.data o.size o.d lane, r.data o.size (o.d + (if o.size.wide then 2 else 1)) lane)
  else (0, r.data o.size o.d lane)

/-- An atom (spec/08 R144, R146): translated, then the release, then every lane's operation is outstanding. -/
def Iss.atom (x : Iss) (i : Instr) (o : AtomOp) (la : Nat) : Res :=
  let n := asizeBytes o.size
  let ea := fun l => x.g.regs.ea o.addr l
  match sectorTrap x.act n ea with
  | some t => .trap t
  | none =>
    match x.s.decide130 x.g.key x.g.team x.k.g x.f.pc (x.s.parts x.g.key .write x.act n ea) with
    | .wait => x.waitWalk (x.s.parts x.g.key .write x.act n ea)
    | .trap t => .trap t
    | .go ok bad flt => x.withRelease o.order.rel o.scope (
      if x.g.sb.any (fun e => !e.st.done && e.mask &&& x.f.mask != 0#32 && ok.any (fun p => p.pa / 32 == e.sector))
      then .wait else
      let act := x.act &&& ~~~bad
      let s := (x.noteStores ok 2).sample x.k x.g (x.carrying ok).f.mark (x.requests 2 x.g.nextId (lineReqs (ok.map (fun p => (p.lane, p.va)))))
      let parts := ok.map (fun p =>
        let cv := x.g.regs.casData o p.lane
        Part.mk p.lane .global p.pa p.va 0 n cv.2 cv.1 none p.leaf)
      let fl := { x.flight (.atom o.op o.size o.d false) (Instr.dests i) with
        act := act, parts := parts, acq := o.order.acq }
      .ok (({ x with f := { x.f with mark := none } }).openLoad s (x.spent x.g 2 ok flt) la fl bad flt .write))

/-- A red (spec/08 R146): one store-buffer entry per sector, holding its lanes in increasing lane number. -/
def Iss.red (x : Iss) (o : AtomOp) : Res :=
  let n := asizeBytes o.size
  let ea := fun l => x.g.regs.ea o.addr l
  match sectorTrap x.act n ea with
  | some t => .trap t
  | none =>
    match x.s.decide130 x.g.key x.g.team x.k.g x.f.pc (x.s.parts x.g.key .write x.act n ea) with
    | .wait => x.waitWalk (x.s.parts x.g.key .write x.act n ea)
    | .trap t => .trap t
    | .go ok bad flt => x.withRelease o.order.rel o.scope (
      let secs := (ok.map (fun p => p.pa / 32)).eraseDups
      let news := secs.map (fun sec =>
        let ps := ok.filter (fun p => p.pa / 32 == sec)
        SbEntry.mk 0 x.g.nextId x.f.mask x.f.pc ((ps.head?.map (·.va)).getD 0) sec
          (.red o.op o.size (ps.map (fun p => (p.pa % 32, x.g.regs.data o.size o.d p.lane)))) .queued
          ((ps.drop 1).map (·.va)) ((x.carrying ok).storeNote (secs.head? == some sec)) [])
      match x.g.enterSb x.sl news with
      | none => .wait
      | some g =>
        .ok (x.finishX (x.noteStores ok 2) (x.spent g 2 ok flt) bad flt .write))

/-- atom.add (spec/08 R140, R144). -/
def execAtomAdd (f : AtomF) (s : State) : Out :=
  issue (.atomAdd f) s (fun x => x.atom (.atomAdd f) (AtomF.toOp f 0) f.la.val)
/-- atom.min (spec/08 R140, R144). -/
def execAtomMin (f : AtomF) (s : State) : Out :=
  issue (.atomMin f) s (fun x => x.atom (.atomMin f) (AtomF.toOp f 1) f.la.val)
/-- atom.max (spec/08 R140, R144). -/
def execAtomMax (f : AtomF) (s : State) : Out :=
  issue (.atomMax f) s (fun x => x.atom (.atomMax f) (AtomF.toOp f 2) f.la.val)
/-- atom.and (spec/08 R140, R144). -/
def execAtomAnd (f : AtomF) (s : State) : Out :=
  issue (.atomAnd f) s (fun x => x.atom (.atomAnd f) (AtomF.toOp f 3) f.la.val)
/-- atom.or (spec/08 R140, R144). -/
def execAtomOr (f : AtomF) (s : State) : Out :=
  issue (.atomOr f) s (fun x => x.atom (.atomOr f) (AtomF.toOp f 4) f.la.val)
/-- atom.xor (spec/08 R140, R144). -/
def execAtomXor (f : AtomF) (s : State) : Out :=
  issue (.atomXor f) s (fun x => x.atom (.atomXor f) (AtomF.toOp f 5) f.la.val)
/-- atom.swap (spec/08 R140, R144). -/
def execAtomSwap (f : AtomF) (s : State) : Out :=
  issue (.atomSwap f) s (fun x => x.atom (.atomSwap f) (AtomF.toOp f 6) f.la.val)
/-- atom.cas (spec/08 R140, R144). -/
def execAtomCas (f : AtomF) (s : State) : Out :=
  issue (.atomCas f) s (fun x => x.atom (.atomCas f) (AtomF.toOp f 7) f.la.val)
/-- atom.fadd.f32 (spec/08 R144, R145). -/
def execAtomFaddF32 (f : AtomFF) (s : State) : Out :=
  issue (.atomFaddF32 f) s (fun x => x.atom (.atomFaddF32 f) (AtomFF.toOp f 8) f.la.val)
/-- atom.fadd.bf16 (spec/08 R144, R145). -/
def execAtomFaddBf16 (f : AtomFF) (s : State) : Out :=
  issue (.atomFaddBf16 f) s (fun x => x.atom (.atomFaddBf16 f) (AtomFF.toOp f 9) f.la.val)
/-- red.add (spec/08 R140, R146). -/
def execRedAdd (f : AtomF) (s : State) : Out := issue (.redAdd f) s (fun x => x.red (AtomF.toOp f 0))
/-- red.min (spec/08 R140, R146). -/
def execRedMin (f : AtomF) (s : State) : Out := issue (.redMin f) s (fun x => x.red (AtomF.toOp f 1))
/-- red.max (spec/08 R140, R146). -/
def execRedMax (f : AtomF) (s : State) : Out := issue (.redMax f) s (fun x => x.red (AtomF.toOp f 2))
/-- red.and (spec/08 R140, R146). -/
def execRedAnd (f : AtomF) (s : State) : Out := issue (.redAnd f) s (fun x => x.red (AtomF.toOp f 3))
/-- red.or (spec/08 R140, R146). -/
def execRedOr (f : AtomF) (s : State) : Out := issue (.redOr f) s (fun x => x.red (AtomF.toOp f 4))
/-- red.xor (spec/08 R140, R146). -/
def execRedXor (f : AtomF) (s : State) : Out := issue (.redXor f) s (fun x => x.red (AtomF.toOp f 5))
/-- red.fadd.f32 (spec/08 R145, R146). -/
def execRedFaddF32 (f : AtomFF) (s : State) : Out := issue (.redFaddF32 f) s (fun x => x.red (AtomFF.toOp f 8))
/-- red.fadd.bf16 (spec/08 R145, R146). -/
def execRedFaddBf16 (f : AtomFF) (s : State) : Out := issue (.redFaddBf16 f) s (fun x => x.red (AtomFF.toOp f 9))

/-- The register writes of an atomic's reply: each lane's old value, zero-extended, but for the lanes that are lost (spec/08 R144). -/
def atomWrites (z : ASize) (d : Nat) (act : LaneMask) (parts : List Part) : List RegW :=
  (parts.filter (fun p => act.getLsbD p.lane)).flatMap (fun p =>
    let v := ofBytes (p.bytes.getD [])
    RegW.v d p.lane (BitVec.ofNat 32 v) :: (if z.wide then [.v (d + 1) p.lane (BitVec.ofNat 32 (v / 2 ^ 32))] else []))

/-- The writes of an atomic that still wait for invalidation acknowledgements or for a reply over the fabric. -/
def State.laneDone (s : State) (k : GKey) (fl : Nat) : Bool :=
  !(s.pend.any (fun p => (match p.origin with
      | .lane k' f _ => k' == k && f == fl
      | .entry .. | .engine .. | .flag _ | .host => false) && !p.wait.isEmpty)) &&
  !(s.reqs.any (fun r => (match r.payload with
      | .lane k' f _ => k' == k && f == fl
      | .entry .. | .fill .. | .lock .. | .flag _ | .shuttle _ | .stream _ | .slReq .. | .contrib .. | .unlk _ | .engine _ => false) && !r.closed))

/-- The GWCTs of an atomic's lanes enter the group, and their records go. -/
def State.takeGwct (s : State) (k : GKey) (fl : Nat) (mask : LaneMask) : State :=
  let mine (p : PendWrite) := match p.origin with
    | .lane k' f _ => k' == k && f == fl
    | .entry .. | .engine .. | .flag _ | .host => false
  let done := s.pend.filter mine
  let t := done.foldl (fun t p => max t p.t) 0
  let lane (p : PendWrite) : Nat := match p.origin with
    | .lane _ _ i => i
    | .entry .. | .engine .. | .flag _ | .host => 0
  let who := ((s.group? k).map (fun g => (g.team, g.gidx))).getD (0, 0)
  let s := done.foldl (fun s p => s.writeInPlace who.1 who.2 1 (32 * fl + lane p) [p]) { s with pend := s.pend.filter (fun p => !mine p) }
  s.modGroup k (fun g => done.foldl Group.noteGwm { g with
    gwct := (lanesOf mask).foldl (fun m l => nset 0 m l (max (nget 0 m l) t)) g.gwct })

/-- ATOM_REPLY: the reply of the last lane has arrived; the old values are ready to land (spec/08 R146). -/
def execAtomReply (k : GKey) (fl : Nat) (s : State) : Out :=
  match (s.group? k).bind (fun g => g.flight? fl) with
  | none => .next s
  | some f => match f.kind with
    | .atom _ z d false =>
      if f.complete && s.laneDone k fl then
        let s := s.takeGwct k fl f.mask
        .next (s.modGroup k (fun g => g.modFlight fl (fun f =>
          { f with kind := .atom 0 z d true, writes := atomWrites z d f.act f.parts, ready := true })))
      else .next s
    | .value | .load .. | .atom .. | .lock .. | .bar .. | .qpop .. | .launch .. | .shuttle .. => .next s

end Sys2Proof.Machine
end

