-- ==== Sys2Proof/Machine/MemSteps.lean ====
section
/-! DEFINITION. The steps of the ordering machine on loads, stores, atomics and reductions (spec/09 R167, R171; spec/07
R123 to R136; spec/08 R146 to R151): READ, FILL, DRAIN, PERFORM, STORE_ACK, RED_ENTRY_APPLY, MOVED_RESEND, RESULT_LAND,
RESOLVE, WRITEBACK_COMPLETE, EXPIRED_COPY_DROP. -/

namespace Sys2Proof.Machine

/-! ### Lost data (spec/07 R131, spec/19 R347) -/

/-- A late data-lost cause of a group (spec/07 R131). -/
def State.lateLost (s : State) (k : GKey) (lanes : LaneMask) (va pc : DWord) : State :=
  s.modGroup k (fun g => g.pend ⟨0x0A, lanes, va, pc, 0⟩)

/-- A load or atomic loses lanes: they land nothing and ask for nothing more, and the cause becomes pending. -/
def State.loseLanes (s : State) (k : GKey) (fl : Nat) (lanes : LaneMask) (va : DWord) : State :=
  s.modGroup k (fun g => match g.flight? fl with
    | none => g
    | some f => (g.modFlight fl (fun f => { f with
        act := f.act &&& ~~~lanes
        parts := f.parts.map (fun (p : Part) => if lanes.getLsbD p.lane then { p with bytes := some [] } else p) })).pend
          ⟨0x0A, lanes, va, f.pc, 0⟩)

/-- A store is dropped in its group's buffer, or before it enters it: counted, logged, and a late cause of its group. -/
def State.dropEntry (s : State) (k : GKey) (e : SbEntry) : State :=
  match s.group? k with
  | none => s
  | some g =>
    let s := (s.count g.key 0x6000 1).logErr g.key
      (s.errRec g.key g.team 0x0F (BitVec.ofNat 64 (e.sector * 32)) e.pc 0 k.m k.g)
    let out (f : Frag) : Frag := { f with entering := f.entering.filter (fun x => x.id ≠ e.id) }
    let s := s.modGroup k (fun g => { g with
      sb := g.sb.filter (fun x => x.id ≠ e.id), f0 := g.f0.map out, f1 := g.f1.map out }.fillSb)
    (s.lateLost k e.mask e.va e.pc).tryEnd g.team

/-- Bytes that lie in a damaged granule of device memory (spec/19 R347). -/
def State.damagedAt (s : State) (pa n : Nat) : Bool :=
  s.damaged.any (fun d => decide (d.1 < pa + n) && decide (pa < d.1 + d.2))

/-! ### Translating again (spec/15 R308, spec/14 R272) -/

/-- The page that an outstanding request now translates to, when it completes without a fault. -/
def State.again (s : State) (key : CtxKey) (va : DWord) (acc : AccKind) : Option (Nat × Nat) :=
  match s.xlat key va acc with
  | .ok pa leaf => some (pa, leaf)
  | .trap _ | .fault .. | .wait => none

/-- A request, by its group and its number in it, waits for a flush: the frame that refused it was given to it again (spec/15 R308). -/
def State.staleWait (s : State) (k : GKey) (key : CtxKey) (id : Nat) (va : DWord) : Bool :=
  (s.ctx? key).any (fun c => c.stale.contains (k, id, va))
/-- A request that the same frame refuses again waits as a replayable fault of cause MOVED_STALE (spec/15 R307, R308). -/
def State.movedStale (s : State) (k : GKey) (key : CtxKey) (id : Nat) (va : DWord) (acc : AccKind) : State :=
  (s.recordFault key va k.c k.g 0 (accCode acc) 3 0 0).modCtx key (fun c => { c with stale := (k, id, va) :: c.stale })

/-- Replace a part of an outstanding instruction. -/
def Group.setPart (g : Group) (fl i : Nat) (p : Part) : Group :=
  g.modFlight fl (fun f => { f with parts := f.parts.mapIdx (fun j (q : Part) => if j = i then p else q) })

/-- Parts of an outstanding instruction are refused with MOVED, or need no translation any longer. -/
def Group.refuse (g : Group) (fl : Nat) (is : List Nat) : Group := g.modFlight fl (fun f => { f with refused := f.refused ++ is })
def Group.unrefuse (g : Group) (fl i : Nat) : Group := g.modFlight fl (fun f => { f with refused := f.refused.filter (fun j => j ≠ i) })

/-- The fragment that holds lanes of a mask. -/
def Group.fragWith (g : Group) (m : LaneMask) : Option (Slot × Frag) :=
  match g.f0 with
  | some f => if f.mask &&& m ≠ 0#32 then some (.f0, f) else g.f1.bind (fun f => if f.mask &&& m ≠ 0#32 then some (.f1, f) else none)
  | none => g.f1.bind (fun f => if f.mask &&& m ≠ 0#32 then some (.f1, f) else none)

/-- A request that is translated again (spec/15 R308, spec/14 R272): its group and its number in it, the lanes of the fragment that issued
it and its own, PC, address and access, and whether it has a destination, so that one in handler mode is the handler's own. -/
structure Resend where
  k : GKey
  id : Nat
  mask : LaneMask
  lanes : LaneMask
  pc : DWord
  va : DWord
  acc : AccKind
  dest : Bool
deriving DecidableEq, Repr

/-- Where a request goes now, or the state in which it waits or is no more. -/
inductive Retry where
  | go (pa leaf : Nat) (s : State)
  | stop (s : State)
deriving DecidableEq, Repr

/-- A request is translated again: the frame that refused it makes it wait for a flush, a trap row takes the request with it, which
`gone` gives, and a replayable fault waits for its service. Lost data is reported late, as `lost` gives, and so is every trap of a
request whose fragment has ended. While the group is in handler mode, what was issued before it waits (spec/07 R130, R131; spec/14 R268;
spec/15 R293, R294, R308; log entry 98). -/
def State.retry (s : State) (r : Resend) (gone lost : State) : Retry :=
  match s.group? r.k with
  | none => .stop s
  | some g =>
    let ws := s.walked g.key r.va
    let noted := s.noteWalk r.k.core ws
    let own (sl : Slot) : Bool := r.dest && g.handler.any (fun h => h.slot == sl)
    let holder := if g.ended then none else g.fragWith r.mask
    match s.xlat g.key r.va r.acc with
    | .ok pa leaf => if s.movedLine (lineOf pa) then .stop (noted.movedStale r.k g.key r.id r.va r.acc) else .go pa leaf noted
    | .wait => .stop noted
    | .fault kind lvl => match holder with
      | some (sl, f) =>
        if g.replay.isSome || (g.handler.isSome && !own sl) then .stop s
        else if g.handler.isSome then
          .stop (State.escalate { noted with freeCtr := s.freeCtr + 1 } r.k g f (Config.freeByte s.freeCtr).toNat)
        else .stop (s.markReplay r.k sl g r.lanes (kind, r.va, lvl, ws) r.acc)
      | none => match kind with
        | .notPresent => .stop ((noted.recordFault g.key r.va r.k.c r.k.g 0 (accCode r.acc) 1 0 lvl).modCtx g.key (fun c =>
            { c with stale := (r.k, r.id, r.va) :: c.stale }))
        | .gather => .stop (noted.queueGather g.key r.va ⟨g.team, r.k.g, r.pc⟩)
        | .drain | .absent | .poolEmpty | .movedStale => .stop noted
    | .trap c =>
      let log (s : State) : State := (match s.malRec g.key g.team r.va r.pc r.k.g with
        | some e => s.logErr g.key e
        | none => s).noteWalk r.k.core ws
      match holder, gone.group? r.k with
      | some (sl, f), some g' =>
        if c = 0x0A then .stop lost
        else if g.replay.isSome || (g.handler.isSome && !own sl) || !s.settled g' f.mask || (s.core r.k.core).eyeletIn r.k.g f.mask then .stop s
        else .stop (gone.takeTrap r.k sl g' f
          { code := c, lanes := some r.lanes, addr := r.va, detail := if c = 0x15 then s.targetModule g.key r.va else 0, hpc := some r.pc
            walks := ws, log := s.malRec g.key g.team r.va r.pc r.k.g })
      | _, _ => .stop (log lost)

/-! ### Reading (spec/07 R125) -/

/-- An open fill request of a module for a line has arrived at the home. -/
def State.askedFill (s : State) (m l : Nat) : Bool :=
  s.reqs.any (fun r => (match r.payload with
    | .fill k x => k.m == m && x == l
    | .entry .. | .lane .. | .lock .. | .flag _ | .shuttle _ | .stream _ | .slReq .. | .contrib .. | .unlk _ | .engine _ => false) &&
    r.arrived && !r.closed)

/-- The bytes of a fill for a module, or of a locked line that its home forwards to the requesting lanes (spec/11 R223,
spec/08 R155). -/
def State.fillData (s : State) (m l : Nat) : Option (List Byte) :=
  match s.fillSource m l with
  | some src => some src.1
  | none => if (s.line l).lock.isSome && m != lineMod l && !s.movedLine l && s.askedFill m l then some (s.lineBytes l)
            else none

/-- The data of a line that the die's slices hold: a locked line or a Live copy (spec/07 R125, spec/08 R155). -/
def State.heldBytes (s : State) (d : DieKey) (l : Nat) : Option (List Byte) :=
  if (s.line l).point = .slice d then some (s.lineBytes l)
  else match tget s.copies (d, l) with
    | some c => if live (s.wall d.m) c.expiry then some c.data else none
    | none => none

/-- The home must first apply a pending merged reduction for a read (spec/08 R150). -/
def State.readBlocked (s : State) (m l : Nat) : Bool := s.atHome m l && !s.redClear l

/-- The global parts of a load that have taken no bytes. -/
def Flight.unread (fl : Flight) : List Part := fl.parts.filter (fun p => p.space == .global && p.bytes.isNone)

/-- A load that a save abandoned, or whose line has moved, is translated again, every part of it, before any is read; a part that meets
a trap or a replayable fault of spec/07 R130 takes the parts of that row with it (spec/14 R272, spec/15 R308). -/
def State.loadAgain (s : State) (k : GKey) (g : Group) (fl : Flight) : State :=
  let at_ (q : Part) : Option (Nat × Nat) := (s.again g.key q.va .read).bind (fun e => if s.movedLine (lineOf e.1) then none else some e)
  if fl.unread.any (fun q => s.staleWait k g.key fl.id q.va) then s
  else match fl.unread.find? (fun q => (at_ q).isNone) with
    | some q =>
      let lanes := maskOf ((fl.unread.filter (fun p => s.xlat g.key p.va .read == s.xlat g.key q.va .read)).map (·.lane))
      match s.retry ⟨k, fl.id, fl.mask, lanes, fl.pc, q.va, .read, true⟩ (s.setGroup k (g.dropFlight fl.id)) (s.loseLanes k fl.id lanes q.va) with
      | .go _ _ s => s
      | .stop s => if fl.ready || !fl.refused.isEmpty then s else s.modGroup k (fun g => g.refuse fl.id [0])
    | none =>
      (fl.unread.foldl (fun s q => s.noteWalk k.core (s.walked g.key q.va)) s).setGroup k (g.modFlight fl.id (fun f =>
        { f with
          ready := false
          refused := []
          parts := f.parts.map (fun (q : Part) => if q.space == .global && q.bytes.isNone then match at_ q with
            | some (pa, leaf) => { q with addr := pa, leafPa := leaf }
            | none => q else q) }))

/-- A part of a load of global memory takes its bytes, or sends the request it needs. -/
def State.readGlobal (s : State) (k : GKey) (g : Group) (fl : Flight) (i : Nat) (p : Part) : State :=
  let l := lineOf p.addr
  if s.staleWait k g.key fl.id p.va then s
  else if fl.ready || !fl.refused.isEmpty || s.movedLine l then s.loadAgain k g fl
  else if (List.range p.len).all (fun j => (g.forward (p.addr + j)).isSome) then
    s.setGroup k (g.setPart fl.id i (p.took (partBytes g p.addr p.len (fun _ => 0#8))))
  else
    let take (s : State) (src : List Byte) : State :=
      s.setGroup k (g.setPart fl.id i (p.took (partBytes g p.addr p.len (fun a => src.getD (a % 128) 0#8))))
    match s.heldBytes k.die l with
    | some src => take s src
    | none =>
      if s.readBlocked k.m l then s
      else if s.damagedAt p.addr p.len then s.loseLanes k fl.id (maskOf [p.lane]) p.va
      else
        let s := s.redFirst k.m l
        match s.fillData k.m l with
        | some src => take s src
        | none => if k.m = lineMod l then s else s.askFill k l

/-- READ: an outstanding load part takes its bytes (spec/07 R121, R125; spec/09 R167, R171). -/
def execRead (k : GKey) (fl part : Nat) (s : State) : Out :=
  match s.group? k with
  | none => .next s
  | some g => match g.flight? fl with
    | none => .next s
    | some f => match f.parts[part]? with
      | none => .next s
      | some p =>
        let isLoad := match f.kind with
          | .load .. | .launch .. => true
          | .value | .atom .. | .lock .. | .bar .. | .qpop .. | .shuttle .. => false
        if !isLoad || p.bytes.isSome || g.acqBlocks f.own f.ord then .next s
        else match p.space with
          | .global => .next (s.readGlobal k g f part p)
          | .lane | .scratch | .die | .pks =>
            if s.locReady k g f.own f.ord p.space [(p.addr, p.len)] then
              if s.spoiledAt p.space ((List.range p.len).map (locByte p.space p.addr)) then .next (s.loseLanes k fl (maskOf [p.lane]) p.va)
              else .next (s.setGroup k (g.setPart fl part (p.took (s.locRead p.space p.addr p.len))))
            else .next s

/-- The LEASE of a fill of a line that a group has asked for: that of the load, or of the pf (spec/07 R124, R137; spec/14 R260). -/
def State.fillLease (s : State) (k : GKey) (line : Nat) : Option Nat :=
  match (s.group? k).bind (fun g => g.flights.find? (fun f => (match f.kind with
        | .load .. | .launch .. => true
        | .value | .atom .. | .lock .. | .bar .. | .qpop .. | .shuttle .. => false) &&
      f.parts.any (fun p => p.space == .global && p.bytes.isNone && lineOf p.addr == line))) with
  | some f => some f.lease
  | none => ((s.core k.core).pfs.find? (fun p => p.1 == line && p.2.1 == k.g)).map (fun p => p.2.2)

/-- FILL: a home or proxy slice installs a copy for a request of a group (spec/07 R124, R127; spec/08 R154). -/
def execFill (k : GKey) (line : Nat) (s : State) : Out :=
  match s.fillLease k line with
  | none => .next s
  | some lease =>
    let got (s : State) : State := if (s.core k.core).pfs.isEmpty then s
      else s.modCore k.core (fun c => { c with pfs := c.pfs.filter (fun p => p.1 ≠ line) })
    if (tget s.copies (k.die, line)).any (fun c => live (s.wall k.m) c.expiry) then .next (got s)
    else if s.readBlocked k.m line || !s.mayInstall k.die line || s.damagedAt (128 * line) 128 then .next s
    else
      let s := s.redFirst k.m line
      match s.fillSource k.m line with
      | some src => .next (got (s.install k.die line lease src))
      | none => .next s

/-- EXPIRED_COPY_DROP: a copy whose expiry lies more than 4,194,304 ns back is dropped (spec/07 R124). -/
def execExpiredCopyDrop (d : DieKey) (line : Nat) (s : State) : Out :=
  match tget s.copies (d, line) with
  | none => .next s
  | some c => if c.expiry + 4194304 < s.wall d.m then .next { s with copies := terase s.copies (d, line) } else .next s

/-- The sector that a request names, where it names one (spec/09 R170). -/
def State.reqSector (s : State) (p : Payload) : Option Nat :=
  match p with
  | .entry k e => ((s.group? k).bind (fun g => g.entry? e)).map (·.sector)
  | .lane k fl i => ((s.group? k).bind (fun g => (g.flight? fl).bind (fun f => f.parts[i]?))).map (fun p => p.addr / 32)
  | .flag i => ((s.flags.find? (fun f => f.id == i)).bind (fun f => if f.ba.isNone then some (f.pa / 32) else none))
  | .shuttle i => (s.shuttles.find? (fun p => p.id == i)).bind (fun p => match s.xlat p.key p.addr .read with
    | .ok pa _ => some (pa / 32)
    | .trap _ | .fault .. | .wait => none)
  | .fill .. | .lock .. | .stream _ | .slReq .. | .contrib .. | .unlk _ | .engine _ => none

/-- An earlier message of the same source to the same sector of the same target is still under way (spec/09 R170). -/
def State.behind (s : State) (q : Req) : Bool :=
  match s.reqSector q.payload with
  | none => false
  | some sec => s.reqs.any (fun p => p.src == q.src && p.dst == q.dst && decide (p.id < q.id) && !p.arrived &&
      decide (0 < p.inFlight) && s.reqSector p.payload == some sec)

/-- An earlier message of a module to a sector of another is still under way: an access of the module's engines or its host waits
behind it (spec/09 R170). -/
def State.sectorBusy (s : State) (m sec : Nat) : Bool :=
  s.reqs.any (fun p => p.src == m && p.dst == lineMod (sec / 4) && !p.arrived && !p.closed && decide (0 < p.inFlight) &&
    s.reqSector p.payload == some sec)

/-! ### Draining and performing -/

/-- A write of a module reaches its ordering point on that module or in its proxy slice, without the fabric (spec/08
R147, spec/11 R225). -/
def State.localPoint (s : State) (d : DieKey) (l : Nat) : Bool :=
  lineMod l == d.m || (s.line l).point == .proxy d.m || (s.line l).point == .slice d

/-- The drain of an entry as a stitch record shows it (spec/18 R326, R328). -/
def SbEntry.sampled (e : SbEntry) : Sampled :=
  ⟨e.pc, e.va, e.note.phc, e.note.wall, (match e.op with
    | .ack .. => 4
    | .bytes _ | .red .. => 1), e.id, 0⟩

/-- The first drain of an entry is a request that may be sampled (spec/18 R326). -/
def State.sampleDrain (s : State) (k : GKey) (g : Group) (x : SbEntry) : State :=
  if x.note.counted then s
  else (s.sampleOne k g x.sampled x.note.tag).modGroup k (fun g => { g with
    sb := g.sb.map (fun (y : SbEntry) => if y.id = x.id then { y with note := { y.note with counted := true } } else y) })

/-- DRAIN: the oldest entry of its sector is sent towards its ordering point; the die's copy is dropped (spec/07 R126,
R127; spec/09 R171). -/
def execDrain (k : GKey) (e : Nat) (s : State) : Out :=
  match s.group? k with
  | none => .next s
  | some g => match g.entry? e with
    | none => .next s
    | some x =>
      let older := (g.sb.takeWhile (fun y => y.id ≠ e)).any (fun y => y.sector == x.sector)
      if x.st ≠ .queued || older || g.acqBlocks x.own x.ord then .next s
      else
        let l := x.sector / 4
        let s := (s.dropCopy k.die l).sampleDrain k g x
        if s.localPoint k.die l then .next (s.setEntry k e (.sent none))
        else
          let (r, s) := s.newReq k.m (lineMod l) (.entry k e)
          .next (s.setEntry k e (.sent (some r)))

/-- The ordering point of a line serves writes of a module now: it is not a proxy of another module, which the home must
recall, and no tile fetch unit pins the line there (spec/11 R225, spec/10 R217). -/
def State.pointOpen (s : State) (m l : Nat) : Bool :=
  !s.homeLost (128 * l) &&
  match (s.line l).point with
  | .home => !s.pinsHome l
  | .slice _ => true
  | .proxy p => p == m && !s.pinnedBy m l

/-- The state once any other request for the line has closed the home's pending merged reduction (spec/08 R150). -/
def State.closeRed (s : State) (l : Nat) : State := if (s.line l).point = .home then s.applyRed l else s

/-- The state once bytes have been overwritten: a damaged granule all of whose bytes are new is sound again (spec/19 R347). -/
def State.mend (s : State) (cov : List Nat) : State :=
  { s with damaged := s.damaged.filter (fun d => !(List.range d.2).all (fun i => cov.contains (d.1 + i))) }
/-- A write of a module changes a line at its ordering point, and its record is made; cov lists the bytes it overwrites. -/
def State.putWrite (s : State) (m l : Nat) (cov : List Nat) (mem : Memory) (o : Origin) : Nat × State :=
  let r := (s.mend cov).store l mem cov m
  r.1.finishWrite l r.2.1 r.2.2 o m ((s.line l).point.mod l)

/-- Perform a write of a module at the line's ordering point, where every precondition holds: the number of its pending
record and the state. -/
def State.tryWrite (s : State) (m l : Nat) (self : List (GKey × Nat)) (cov : List Nat) (f : Memory → Memory) (o : Origin) :
    Option (Nat × State) :=
  if s.movedLine l || !s.pointOpen m l || ((s.line l).point == .home && !s.redClear l) then none
  else
    let s := s.closeRed l
    if !s.pointOpen m l || !s.xlatClear l self || !s.switchRoom l (f s.mem) then none else some (s.putWrite m l cov (f s.mem) o)

/-- The bytes an entry overwrites. -/
def SbEntry.covers (e : SbEntry) : List Nat :=
  match e.op with
  | .bytes bs | .ack bs _ => bs.map (fun b => e.sector * 32 + b.1)
  | .red .. => []

/-- The entry reads damaged memory. -/
def State.redDamaged (s : State) (e : SbEntry) : Bool :=
  match e.op with
  | .red _ z ws => ws.any (fun w => s.damagedAt (e.sector * 32 + w.1) (asizeBytes z))
  | .bytes _ | .ack .. => false

/-- The request of an entry, where it went over the fabric, is at its target and may be performed. -/
def State.entryReady (s : State) (st : SbSt) : Bool :=
  match st with
  | .sent none => true
  | .sent (some r) => s.reqReady r || (s.req? r).any (fun q => q.arrived && q.performed && q.reply.isNone)
  | .queued | .moved | .performed _ | .acked _ => false

/-- The entries of one red instruction on one line. -/
def SbEntry.sibling (e x : SbEntry) : Bool :=
  x.ord == e.ord && x.sector / 4 == e.sector / 4 && (match x.op with
    | .red .. => true
    | .bytes _ | .ack .. => false)
def SbEntry.words (e : SbEntry) : List (Nat × DWord) :=
  match e.op with
  | .red _ _ ws => ws.map (fun w => (e.sector * 32 + w.1, w.2))
  | .bytes _ | .ack .. => []

/-- The buffer is full of entries whose siblings still have to enter: none of them can wait for all its siblings (log entry 70). -/
def Group.redStuck (g : Group) : Bool := decide (8 ≤ g.sb.length) && g.sb.all (fun x => g.entering.any (fun y => x.sibling y))

/-- A reduction joins the home's pending entry of its line, or opens one, with all its lanes that name the line, once all of them
are there (spec/08 R150; log entry 70). -/
def State.joinRed (s : State) (k : GKey) (e : SbEntry) (op : Nat) (z : ASize) : State :=
  match s.group? k with
  | none => s
  | some g =>
    let l := e.sector / 4
    let joined (x : SbEntry) : Bool := (s.line l).red.any (fun r => r.from_.contains (k, x.id))
    let es := g.sb.filter (fun x => e.sibling x && !x.st.done && !joined x)
    if joined e || (g.entering.any (fun x => e.sibling x) && !g.redStuck) || !es.all (fun x => s.entryReady x.st) then s
    else
      let abs := es.flatMap SbEntry.words
      let ids := es.map (fun x => (k, x.id))
      let mark (s : State) := { s with reqs := s.reqs.map (fun q =>
        if es.any (fun x => q.payload == .entry k x.id) ∧ q.arrived ∧ q.reply = none then { q with performed := true } else q) }
      let fresh (s : State) := mark (s.modLine l (fun x => { x with red := some ⟨op, z, abs, ids⟩ }))
      match (s.line l).red with
      | none => fresh s
      | some r =>
        if r.op = op ∧ r.size = z then
          mark (s.modLine l (fun x => { x with red := some { r with ws := r.ws ++ abs, from_ := r.from_ ++ ids } }))
        else if s.redClear l then
          let s := s.applyRed l
          if (s.line l).point = .home then fresh s else s
        else s

/-- Refuse a write of an entry with MOVED (spec/08 R151, spec/15 R308). -/
def State.refuseEntry (s : State) (k : GKey) (e : SbEntry) : State :=
  match e.st with
  | .sent (some r) => s.reply r .moved
  | .sent none => s.setEntry k e.id .moved
  | .queued | .moved | .performed _ | .acked _ => s

/-- PERFORM of a store-buffer entry. -/
def State.performEntry (s : State) (k : GKey) (e : SbEntry) : State :=
  let l := e.sector / 4
  if !s.entryReady e.st then s
  else if s.movedLine l then s.refuseEntry k e
  else if s.redDamaged e then s.dropEntry k e
  else
    let direct (s : State) := match s.tryWrite k.m l [(k, e.id)] e.covers (e.op.apply e.sector) (.entry k e.id) with
      | some (w, s) => s.entryDone k e.id w
      | none => s
    match e.op with
    | .red op z _ => if (s.line l).point = .home then s.joinRed k e op z else direct s
    | .bytes _ | .ack .. => direct s

/-- The open fabric request of a lane of an atomic. -/
def State.laneReq (s : State) (k : GKey) (fl i : Nat) : Option Req :=
  s.reqs.find? (fun r => r.payload == .lane k fl i && !r.closed)

/-- Perform one lane of an atomic at its ordering point: it takes the old value and writes the new one (spec/08 R144). -/
def State.laneWrite (s : State) (k : GKey) (f : Flight) (op : Nat) (z : ASize) (i : Nat) (p : Part) : State :=
  let l := lineOf p.addr
  let n := asizeBytes z
  let rd (m : Memory) := atomOp op z (mnat m p.addr n) (p.val.toNat % 2 ^ (8 * n)) (p.cmp.toNat % 2 ^ (8 * n))
  if s.damagedAt p.addr n then (s.loseLanes k f.id (maskOf [p.lane]) p.va).replyTo (.lane k f.id i) .done
  else
    let old := (s.closeRed l).peekN p.addr n
    match s.tryWrite k.m l [] [] (fun m => mwriteN m p.addr (toBytes n (rd m))) (.lane k f.id i) with
    | some (_, s) =>
      let key := ((s.group? k).map (·.key)).getD ⟨k.m, 0⟩
      ((s.countBytes key .group n).countFadd key op 1).modGroup k (fun g => g.setPart f.id i (p.took old))
    | none => s

/-- PERFORM of one lane of an atomic: sent, delivered and performed, lanes of one sector in increasing order (spec/08
R144, R147, R151; spec/11 R231). -/
def State.performLane (s : State) (k : GKey) (g : Group) (f : Flight) (op : Nat) (z : ASize) (i : Nat) (p : Part) : State :=
  let l := lineOf p.addr
  let earlier := (f.parts.take i).any (fun q => q.bytes.isNone && q.addr / 32 == p.addr / 32)
  if p.bytes.isSome || earlier || g.acqBlocks f.own f.ord then s
  else match s.laneReq k f.id i with
    | some r => if !s.reqReady r.id then s
        else if s.movedLine l then s.reply r.id .moved
        else s.laneWrite k f op z i p
    | none =>
      if s.staleWait k g.key f.id p.va then s
      else if f.refused.contains i || s.movedLine l then
        match s.retry ⟨k, f.id, f.mask, maskOf [p.lane], f.pc, p.va, .write, true⟩ (s.setGroup k (g.dropFlight f.id))
          (s.loseLanes k f.id (maskOf [p.lane]) p.va) with
        | .stop s => if f.refused.contains i then s else s.modGroup k (fun g => g.refuse f.id [i])
        | .go pa leaf s => s.setGroup k ((g.setPart f.id i { p with addr := pa, leafPa := leaf }).unrefuse f.id i)
      else if s.localPoint k.die l then ((s.dropCopy k.die l).laneWrite k f op z i p)
      else if s.cacheRoom k.m (lineMod l) then ((s.dropCopy k.die l).newReq k.m (lineMod l) (.lane k f.id i)).2
      else s

/-- A die-shared or package-scratchpad access whose bytes its level no longer holds is performed nowhere (spec/09 R175): a byte of a
scratchpad lies in the carve of its core, one of an allotment within it. -/
def State.levelHolds (s : State) (key : CtxKey) (sp : Space) (a : Nat) : Bool :=
  match sp with
  | .scratch | .die => decide (a % 2 ^ 18 < s.carveBytes ⟨a / 2 ^ 18 / 576, a / 2 ^ 18 % 576⟩)
  | .pks => decide (a % 2 ^ 48 < s.pksBytes key)
  | .lane | .global => true

/-- PERFORM of a store of a local level: all its bytes in one step, or nothing where its level no longer holds them; waiters of barrier
objects re-evaluate (spec/07 R121, R122; spec/09 R175). -/
def State.performLoc (s : State) (k : GKey) (g : Group) (e : LocStore) : State :=
  if !s.locReady k g e.own e.ord e.space (e.bytes.map (fun b => (b.1, 1))) then s
  else
    let s := if e.bytes.all (fun b => s.levelHolds g.key e.space b.1) then (s.storeLoc e.space e.bytes).countBytes g.key .group e.bytes.length
      else s
    let s := s.modGroup k (fun g => { g with loc := g.loc.filter (fun x => x.id ≠ e.id) })
    s.reeval.tryEnd g.team

/-- PERFORM (spec/08 R147, spec/09 R167). -/
def execPerform (w : PerfRef) (s : State) : Out :=
  match w with
  | .entry k e => match (s.group? k).bind (fun g => g.entry? e) with
    | some x => .next (s.performEntry k x)
    | none => .next s
  | .lane k fl i => match s.group? k with
    | none => .next s
    | some g => match g.flight? fl with
      | none => .next s
      | some f => match f.kind, f.parts[i]? with
        | .atom op z _ _, some p => .next (s.performLane k g f op z i p)
        | _, _ => .next s
  | .loc k e => match s.group? k with
    | none => .next s
    | some g => match g.loc.find? (fun x => x.id == e) with
      | some x => .next (s.performLoc k g x)
      | none => .next s

/-- RED_ENTRY_APPLY: the pending merged reduction of a line reaches the head of the home's queue (spec/08 R150). -/
def execRedEntryApply (line : Nat) (s : State) : Out :=
  if (s.line line).point = .home ∧ s.redClear line ∧ !s.movedLine line then .next (s.applyRed line) else .next s

/-- The acknowledgement of an acknowledged store: n bytes into its object, once its GWCT has passed at its ordering point on a
module (spec/11 R235). -/
def SbEntry.landing (e : SbEntry) (t at_ : Nat) (key : CtxKey) (team : Nat) : List Landing :=
  match e.op with
  | .ack bs o => [⟨o, false, -(bs.length : Int), none, t, at_, false, true, key, team, none, none⟩]
  | .bytes _ | .red .. => []

/-- STORE_ACK: the acknowledgement with GWCT frees the entry (spec/07 R126). -/
def execStoreAck (k : GKey) (e : Nat) (s : State) : Out :=
  match s.group? k with
  | none => .next s
  | some g => match g.entry? e with
    | none => .next s
    | some x => match x.st with
      | .performed w =>
        let open_ := s.reqs.any (fun r => r.payload == .entry k e && !r.closed)
        match s.pend.find? (fun p => p.id == w) with
        | none => .next s
        | some p =>
          if open_ || !p.wait.isEmpty then .next s
          else
            let g := { g with
              sb := g.sb.filter (fun y => y.id ≠ e)
              gwct := (lanesOf x.mask).foldl (fun m l => nset 0 m l (max (nget 0 m l) p.t)) g.gwct }.noteGwm p
            let s := s.writeInPlace g.team g.gidx 0 e [p]
            let s := { s with pend := s.pend.filter (fun q => q.id ≠ w), landings := s.landings ++ x.landing p.t p.at_ g.key g.team }
            .next ((s.setGroup k g.fillSb).tryEnd g.team)
      | .queued | .sent _ | .moved | .acked _ => .next s

/-- MOVED_RESEND: a refused entry is translated again and sent again (spec/08 R151, spec/15 R308). -/
def execMovedResend (k : GKey) (e : Nat) (s : State) : Out :=
  match s.group? k with
  | none => .next s
  | some g => match g.entry? e with
    | none => .next s
    | some x =>
      if x.st ≠ .moved ∨ s.staleWait k g.key e x.va then .next s
      else match s.retry ⟨k, e, x.mask, x.mask, x.pc, x.va, .write, false⟩
          (s.setGroup k { g with sb := g.sb.filter (fun y => y.id ≠ e) }.fillSb) (s.dropEntry k x) with
        | .stop s => .next s
        | .go pa _ s => .next (s.setGroup k { g with sb := g.sb.map (fun y =>
            if y.id = e then { y with sector := pa / 32, st := .queued } else y) })

/-! ### Queue blocks written by the device (spec/14 R277, R283) -/

/-- The hardware writes bytes of one line of device memory, as one step at its home, after the merged reductions that wait there (spec/08
R150). -/
def State.hwStore (s : State) (pa : Nat) (bs : List Byte) : State :=
  let s := s.closeRed (lineOf pa)
  let at_ := (s.line (lineOf pa)).point.mod (lineOf pa)
  let (s, t, wait) := s.writeLine (lineOf pa) (mwriteN s.mem pa bs) (paMod pa)
  (s.finishWrite (lineOf pa) t wait .host (paMod pa) at_).2.settlePend

/-- The push of launch at the home of its queue's block, as one step: the status (spec/14 R283). -/
def State.pushPacket (s : State) (k : CtxKey) (q : Nat) (bs : List Byte) : Nat × State :=
  match s.queue? k q with
  | none => (2, s)
  | some qu =>
    let t := s.qTail qu
    if qu.data || !qu.devpush then (2, s)
    else if t - s.qDone qu = qu.slots then (1, s)
    else (0, ((s.hwStore (qu.slotAt t) bs).hwStore qu.block (toBytes 8 (t + 1))).count k (idxBytes .group) 64)

/-- A launch whose packet has been read is pushed; one whose packet is lost lands nothing. -/
def State.readyLaunch (s : State) (k : GKey) (fl : Nat) : State :=
  match s.group? k with
  | none => s
  | some g => match g.flight? fl with
    | none => s
    | some f => match f.kind with
      | .value | .load .. | .atom .. | .lock .. | .bar .. | .qpop .. | .shuttle .. => s
      | .launch d q =>
        if f.ready || !f.complete then s
        else if f.parts.isEmpty then s.setGroup k (g.modFlight fl (fun f => { f with ready := true }))
        else
          let (st, s) := s.pushPacket g.key q (f.parts.flatMap (fun p => p.bytes.getD []))
          s.modGroup k (fun g => g.modFlight fl (fun f => { f with ready := true, writes := [.s d (BitVec.ofNat 64 st)] }))

/-! ### Landing (spec/02 R30, spec/09 R171) -/

/-- The lanes whose shuttle status is not OK, for shtl.t (spec/11 R242). -/
def Flight.badLanes (f : Flight) : LaneMask :=
  match f.kind with
  | .shuttle _ c true _ => maskOf (f.writes.filterMap (fun w => match w with
      | .v r lane x => if r = c ∧ x &&& 0xFF#32 ≠ 0 then some lane else none
      | .s .. | .p .. | .q .. => none))
  | .value | .load .. | .atom .. | .lock .. | .bar .. | .qpop .. | .launch .. | .shuttle .. => 0

/-- A bar.test that returns 1 advances the team's phase count (spec/18 R328). -/
def State.notePhase (s : State) (g : Group) (f : Flight) (ws : List RegW) : State :=
  match f.kind with
  | .bar _ true _ => if ws.any (fun w => match w with
      | .s _ x => x == 1#64
      | .v .. | .p .. | .q .. => false) then s.modTeam g.team (fun t => { t with phc := t.phc + 1 }) else s
  | .value | .load .. | .atom .. | .lock .. | .bar .. | .qpop .. | .launch .. | .shuttle .. => s

/-- The bytes that a load has read for its lanes (spec/19 R339, R340). -/
def Flight.loaded (f : Flight) : Nat :=
  match f.kind with
  | .load size _ => sizeBytes size * (lanesOf f.act).length
  | .value | .atom .. | .lock .. | .bar .. | .qpop .. | .launch .. | .shuttle .. => 0

/-- RESULT_LAND: the destinations are written and their pending bits clear; an acquire waits for eyelets; shtl.t traps when
a lane's status is not OK, but not while the other fragment is in handler mode (spec/02 R30, spec/09 R171, spec/11 R242, spec/14
R268). -/
def execResultLand (k : GKey) (fl : Nat) (s : State) : Out :=
  let s := s.readyLaunch k fl
  match s.group? k with
  | none => .next s
  | some g => match g.flight? fl with
    | none => .next s
    | some f => match f.landing (s.core k.core).cycle with
      | none => .next s
      | some ws =>
        if f.acq && (s.core k.core).eyeletIn k.g f.mask then .next s
        else
          let g' := g.land f ws (s.core k.core).cycle
          let s' := ((s.setGroup k g').notePhase g f ws).countBytes g.key .group f.loaded
          if f.badLanes = 0 then .next (s'.tryEnd g.team)
          else
            let sl : Slot := if g'.f0.any (fun x => x.mask &&& f.mask ≠ 0) then .f0 else .f1
            match g'.frag sl with
            | none => .next s'
            | some fr =>
              if g.handler.any (fun h => f.mask &&& h.mask == 0#32) || !s.settled g' fr.mask || (s.core k.core).eyeletIn k.g fr.mask then .next s
              else .next (s'.takeTrap k sl g' fr { code := 0x16, lanes := some f.badLanes, hpc := some f.pc })

/-- LATE_TRAP_TAKE: the fragment takes the lowest pending late cause (spec/14 R269). -/
def execLateTrapTake (s : State) : Out :=
  match s.group? s.cur.k with
  | none => .next s
  | some g => match g.frag s.cur.slot with
    | none => .next s
    | some f =>
      if g.lateOpen && !s.early s.cur.k f && g.taker.all (fun t => t == s.cur.slot) then
        .next (s.takeLate s.cur.k s.cur.slot g f)
      else .next s

/-! ### Eyelets (spec/07 R132, R133; spec/08 R155) -/

/-- Free an eyelet, struck or confirmed. -/
def State.freeEyelet (s : State) (k : CoreKey) (y : Eyelet) (struck : Bool) : State :=
  let s := s.modCore k (fun c => { c with eyelets := c.eyelets.filter (fun z => z ≠ y) })
  let s := if struck then s.modGroup ⟨k.m, k.c, y.grp⟩ (fun g =>
      { g with sr := { g.sr with eystruck := g.sr.eystruck ||| y.lmask } }) else s
  s.reeval

/-- Change an eyelet. -/
def State.setEyelet (s : State) (k : CoreKey) (y z : Eyelet) : State :=
  s.modCore k (fun c => { c with eyelets := c.eyelets.map (fun x => if x = y then z else x) })

/-- RESOLVE: the home, or the proxy slice, confirms the version or strikes with the current data (spec/07 R132, R133). A validation that
is refused with MOVED is translated again; where that gives a trap row the eyelet is struck (spec/15 R308; log entry 98). A damaged
granule of the line stops neither (log entry 104). -/
def execResolve (k : CoreKey) (e : Nat) (s : State) : Out :=
  match (s.core k).eyelets[e]? with
  | none => .next s
  | some y =>
    let d := k.die
    let gk : GKey := ⟨k.m, k.c, y.grp⟩
    let lease := y.lease
    let va : DWord := y.line <<< (7 : Nat)
    if s.homeLost (128 * y.pa) then
      .next ({ s with copies := terase s.copies (d, y.pa) }.freeEyelet k y true)
    else if y.refused || s.movedLine y.pa then
      match s.group? gk with
      | none => .next s
      | some g =>
        if s.staleWait gk g.key y.pa va then .next s
        else
          let log (s : State) : State := match s.malRec g.key g.team va 0 y.grp with
            | some e => s.logErr g.key e
            | none => s
          let struck := ((log s).noteWalk k (s.walked g.key va)).freeEyelet k y true
          match s.xlat g.key va .read with
          | .trap _ => .next struck
          | .ok .. | .fault .. | .wait => match s.retry ⟨gk, y.pa, y.lmask, y.lmask, 0, va, .read, false⟩ struck struck with
            | .go pa _ s => .next (s.setEyelet k y { y with pa := lineOf pa, refused := false })
            | .stop s => .next (s.setEyelet k y { y with refused := true })
    else if s.readBlocked k.m y.pa then .next s
    else
      let s := s.redFirst k.m y.pa
      let src := (s.fillSource k.m y.pa).orElse (fun _ =>
        if (s.line y.pa).lock.isSome && s.askedFill k.m y.pa then some (s.lineBytes y.pa, (s.line y.pa).ver) else none)
      match src with
      | none => .next (if k.m = lineMod y.pa then s else s.askFill gk y.pa)
      | some src =>
        let same := decide (src.2 = y.ver)
        let s := if !s.mayInstall d y.pa then s
          else if same && (tget s.copies (d, y.pa)).isNone then s
          else if same && (tget s.copies (d, y.pa)).any (fun c => c.ver != y.ver) then s
          else s.install d y.pa lease src
        .next (s.freeEyelet k y (!same))

/-! ### Write-backs (spec/07 R138) -/

/-- WRITEBACK_COMPLETE: the memory device accepts the line of a cwb, with the bytes of its ordering point (spec/07 R138; log entry 103). -/
def execWritebackComplete (k : GKey) (i : Nat) (s : State) : Out :=
  match s.group? k with
  | none => .next s
  | some g => match g.wbs.find? (fun w => w.id == i) with
    | none => .next s
    | some w =>
      let excl := match (s.line w.line).dir with
        | .exclusive _ => true
        | .uncached | .shared _ => false
      if excl || !s.redClear w.line || g.acqBlocks w.own w.id then .next s
      else
        let s := s.closeRed w.line
        let s := { s with dev := mwriteN s.dev (w.line * 128) (s.lineBytes w.line) }
        let s := s.modLine w.line (fun x => { x with dirty := false, writers := [] })
        let s := s.modGroup k (fun g => { g with wbs := g.wbs.filter (fun x => x.id ≠ i) })
        .next (s.tryEnd g.team)

end Sys2Proof.Machine
end

