-- ==== Sys2Proof/Machine/Fabric.lean ====
section
/-! DEFINITION. The directory protocol between homes and proxy slices (spec/11 R223 to R226): PROXY_READ_MISS, INVALIDATE,
INVALIDATE_ACK, RECALL, PROXY_EVICT, and what engines read and write on the lines of a module (spec/09 R169). -/

namespace Sys2Proof.Machine

/-- The directory with one more sharer: up to 4 are named, beyond that rack groups are marked (spec/11 R224). -/
def Line.share (x : Line) (m : Nat) : Line :=
  let bit (i : Nat) : BitVec 16 := 1#16 <<< (i / 64)
  match x.dir with
  | .uncached => { x with dir := .shared [m] }
  | .exclusive _ => x
  | .shared ms =>
    if x.racks ≠ 0 then { x with racks := x.racks ||| bit m }
    else if ms.contains m then x
    else if ms.length < 4 then { x with dir := .shared (ms ++ [m]) }
    else { x with dir := .shared [], racks := ms.foldl (fun r i => r ||| bit i) (bit m) }

/-- A proxy misses on a line that its home can serve: the home replies with data and version, and the proxy becomes
Shared; none where the home must first recall, or where the line is locked, moved or waits for an invalidation. -/
def State.proxyMiss (s : State) (m l : Nat) : Option State :=
  if m == lineMod l || (tget s.proxies (m, l)).isSome || s.movedLine l || (s.line l).lock.isSome ||
    !s.reachable m (lineMod l) || s.homeLost (128 * l) || s.damagedAt (128 * l) 128 ||
    !s.proxyRoom m l then none
  else match (s.line l).dir with
    | .exclusive _ => none
    | .uncached | .shared _ =>
      if !s.redClear l then none
      else
        let s := s.applyRed l
        match (s.line l).dir with
        | .exclusive _ => none
        | .uncached | .shared _ =>
          let s := { s with proxies := tset s.proxies (m, l) ⟨false, s.lineBytes l, (s.line l).ver, 0, false⟩ }
          some (s.modLine l (fun x => x.share m))

/-- A fill of a line for a group is refused with MOVED: what waits for it is translated again (spec/15 R308). -/
def State.refuseFill (s : State) (k : GKey) (l : Nat) : State :=
  let s := s.modGroup k (fun g => { g with flights := g.flights.map (fun f =>
    if f.refused.isEmpty && f.parts.any (fun p => p.space == .global && p.bytes.isNone && lineOf p.addr == l) && (match f.kind with
      | .load .. | .launch .. => true
      | .value | .atom .. | .lock .. | .bar .. | .qpop .. | .shuttle .. => false) then { f with refused := [0] } else f) })
  if (s.core k.core).eyelets.any (fun y => y.pa == l && y.grp == k.g) then
    s.modCore k.core (fun c => { c with eyelets := c.eyelets.map (fun y => if y.pa = l ∧ y.grp = k.g then { y with refused := true } else y) })
  else s

/-- PROXY_READ_MISS: a fill request of the module has reached the home, which replies (spec/11 R225). -/
def execProxyReadMiss (m line : Nat) (s : State) : Out :=
  match s.reqs.find? (fun r => (match r.payload with
      | .fill k l => k.m == m && l == line
      | .entry .. | .lane .. | .lock .. | .flag _ | .shuttle _ | .stream _ | .slReq .. | .contrib .. | .unlk _ | .engine _ => false) &&
      !r.closed && s.reqReady r.id) with
  | none => .next s
  | some r =>
    match s.proxyMiss m line with
    | some s => .next (s.setReq r.id (fun q => { q with performed := true, reply := some .done, closed := true }))
    | none => if s.movedLine line then
          let s := s.setReq r.id (fun q => { q with performed := true, reply := some .moved, closed := true })
          .next (match r.payload with
            | .fill k l => s.refuseFill k l
            | .entry .. | .lane .. | .lock .. | .flag _ | .shuttle _ | .stream _ | .slReq .. | .contrib .. | .unlk _ | .engine _ => s)
        else .next s

/-- The writes that wait for a module's acknowledgement of an invalidation of a line. -/
def PendWrite.waitsFor (p : PendWrite) (m l : Nat) : Bool := p.line == l && p.wait.contains m

/-- INVALIDATE: the proxy drops its copy at once and serves no further fill of it (spec/11 R226). -/
def execInvalidate (m line : Nat) (s : State) : Out :=
  match tget s.proxies (m, line) with
  | none => .next s
  | some p => if s.pend.any (fun w => w.waitsFor m line) && !p.excl then
      .next { s with proxies := tset s.proxies (m, line) { p with dropped := true } } else .next s

/-- The replies of writes whose last acknowledgement has come. -/
def State.replyDone (s : State) : State :=
  s.pend.foldl (fun s w => if w.wait.isEmpty then (match w.origin.payload with
    | some p => s.replyTo p .done
    | none => s) else s) s

/-- The directory no longer names a proxy that holds no copy; a rack group's mark goes with the last copy in it (spec/11 R224,
R226). -/
def State.forget (s : State) (l m : Nat) : State :=
  if (tget s.proxies (m, l)).isSome then s
  else
    let kept := s.proxies.any (fun p => p.1.2 == l && p.1.1 / 64 == m / 64)
    s.modLine l (fun x => match x.dir with
      | .shared ms =>
        let ms := ms.filter (fun y => y ≠ m)
        let racks := if kept then x.racks else x.racks &&& ~~~(1#16 <<< (m / 64))
        { x with dir := if ms.isEmpty && racks == 0 then .uncached else .shared ms, racks := racks }
      | .uncached | .exclusive _ => x)

/-- INVALIDATE_ACK: once Passed of the latest lease it has granted holds there, the proxy acknowledges with it; a module
that holds no copy acknowledges at once with 0. With its last acknowledgement a write may win its proxy the line, after the merged
reductions that wait at the home (spec/11 R225, R226, spec/10 R217, spec/08 R147). -/
def execInvalidateAck (m line : Nat) (s : State) : Out :=
  if !s.pend.any (fun w => w.waitsFor m line) then .next s
  else
    let ack (s : State) (e : Nat) : State :=
      let last := s.pend.filter (fun w => w.waitsFor m line && w.wait.all (fun x => x == m))
      let s := { s with pend := s.pend.map (fun (w : PendWrite) =>
          if w.waitsFor m line then { w with wait := w.wait.filter (fun x => x ≠ m), t := max w.t e } else w) }.forget line m
      let s := if last.isEmpty || !s.redClear line then s else s.closeRed line
      let s := last.foldl (fun s w => if s.exclOk line w.w then s.giveExcl line w.w else s) s
      s.replyDone.settlePend.modLine line (fun x => { x with lease := max x.lease e })
    match tget s.proxies (m, line) with
    | none => .next (ack s 0)
    | some p =>
      if p.excl then .next (ack s 0)
      else if p.dropped && passed (s.wall m) p.lease && !s.pinnedBy m line then
        .next (ack { s with proxies := terase s.proxies (m, line) } p.lease)
      else .next s

/-- RECALL: the proxy that holds the line Exclusive has waited for the leases it granted; data and version return, and
the ordering point moves to the home (spec/11 R226). Any agent may ask for the line, the host among them. -/
def execRecall (m line : Nat) (s : State) : Out :=
  match tget s.proxies (m, line), (s.line line).dir with
  | some p, .exclusive o =>
    if o = m && p.excl && passed (s.wall m) p.lease && !s.pinnedBy m line then
      let s := { s with proxies := terase s.proxies (m, line) }
      .next (s.modLine line (fun x => { x with dir := .uncached, racks := 0, lease := max x.lease p.lease }))
    else .next s
  | _, _ => .next s

/-- PROXY_EVICT: a Shared line goes with a notice once no lease that the proxy granted is Live; an Exclusive line is
written back with its data and version (spec/11 R225, spec/10 R217). -/
def execProxyEvict (m line : Nat) (s : State) : Out :=
  match tget s.proxies (m, line) with
  | none => .next s
  | some p =>
    if p.dropped || live (s.wall m) p.lease || s.pinnedBy m line then .next s
    else
      let s := ({ s with proxies := terase s.proxies (m, line) }.forget line m)
      .next (s.modLine line (fun x => match x.dir with
        | .exclusive o => if o = m then { x with dir := .uncached, racks := 0, lease := max x.lease p.lease } else x
        | .shared _ | .uncached => { x with lease := max x.lease p.lease }))

/-! ### Engine accesses (spec/09 R169) -/

/-- What an engine access meets. -/
inductive EngRes where
  /-- It waits: for a recall, a pin, a moved page. -/
  | wait
  /-- Lost data (spec/19 R347). -/
  | lost
  | ok (bs : List Byte) (s : State)
deriving DecidableEq, Repr

/-- An engine of module m reads n bytes within one line: at its ordering point, or at the proxy slice of another module's
line, which may miss first (spec/09 R169, spec/08 R155). -/
def State.engRead (s : State) (m pa n : Nat) : EngRes :=
  let l := lineOf pa
  if s.movedLine l || s.readBlocked m l then .wait
  else if s.damagedAt pa n then .lost
  else
    let s := s.redFirst m l
    match s.fillSource m l with
    | some src => .ok ((List.range n).map (fun i => src.1.getD ((pa + i) % 128) 0#8)) s
    | none =>
      if m = lineMod l || s.sectorBusy m (pa / 32) then .wait
      else if (s.line l).lock.isSome then .ok (s.peekN pa n) s
      else match s.proxyMiss m l with
        | none => .wait
        | some s => .ok (s.peekN pa n) s

/-- An engine of module m writes bytes within one line at its ordering point: the pending record of the write. -/
def State.engWrite (s : State) (m pa : Nat) (bs : List Byte) (o : Origin) : Option (Nat × State) :=
  let l := lineOf pa
  if m != lineMod l && (s.line l).point != .proxy m && s.sectorBusy m (pa / 32) then none else
  s.tryWrite m l [] ((List.range bs.length).map (fun i => pa + i)) (fun mem => mwriteN mem pa bs) o

/-- Slices of the module serve an engine's read, or its write, of a line (spec/11 R223, R225). -/
def State.servesRead (s : State) (m l : Nat) : Bool := m == lineMod l || (s.fillSource m l).isSome
def State.servesWrite (s : State) (m l : Nat) : Bool := m == lineMod l || (s.line l).point == .proxy m

/-- The GWCT of a write whose acknowledgements are all in. -/
def State.gwctOf? (s : State) (w : Nat) : Option Nat :=
  match s.pend.find? (fun p => p.id == w) with
  | some p => if p.wait.isEmpty then some p.t else none
  | none => some 0
/-- The record of a write whose GWCT has been taken is gone. -/
def State.dropPend (s : State) (w : Nat) : State := { s with pend := s.pend.filter (fun p => p.id ≠ w) }

end Sys2Proof.Machine
end

