-- ==== Sys2Proof/Machine/Locks.lean ====
section
/-! DEFINITION. Locked lines (spec/08 R152 to R164, spec/17 R320): lck, lck.try, unlk, and the steps of the home's lock
logic. -/

namespace Sys2Proof.Machine

/-- The lowest lane of a mask. -/
def lowest (m : LaneMask) : Option Nat := (lanesOf m).head?

/-- What a lock instruction's address gives: nothing active, a trap, a wait, a fault, or the line (spec/08 R143, R153). -/
inductive LockLine where
  | skipped
  | wait (s : State)
  | trap (t : TrapInfo)
  | fault (bad : LaneMask) (f : Faulted)
  | line (l : Nat) (va : DWord)
deriving DecidableEq, Repr

/-- The line of the lowest active lane's address, translated with write permission. -/
def Iss.lockLine (x : Iss) (base : SReg) (off : BitVec 12) : LockLine :=
  match lowest x.act with
  | none => .skipped
  | some l =>
    let ea := x.g.regs.sbase base off
    match sectorTrap x.act 4 (fun _ => ea) with
    | some t => .trap t
    | none =>
      let ps := x.s.parts x.g.key .write (maskOf [l]) 4 (fun _ => ea)
      match x.s.decide130 x.g.key x.g.team x.k.g x.f.pc ps with
      | .wait => .wait (x.s.noteParts x.k x.g.key ps)
      | .trap t => .trap t
      | .go _ bad (some f) => .fault bad f
      | .go ok _ none => match ok with
        | [] => .wait x.s
        | p :: _ => .line (lineOf p.pa) (ea &&& ~~~127#64)

/-- A group may not ask for a line: it holds the line, holds 4 locks, or waits already (spec/08 R153, R162). -/
def Group.lockLimit (g : Group) (l : Nat) : Bool :=
  g.locks.any (fun h => h.line == l) || decide (4 ≤ g.locks.length) ||
  g.flights.any (fun f => match f.kind with
    | .lock .. => true
    | .value | .load .. | .atom .. | .bar .. | .qpop .. | .launch .. | .shuttle .. => false)

/-- lck and lck.try (spec/08 R153). -/
def Iss.lck (x : Iss) (i : Instr) (f : LckF) (timeout : Option Nat) : Res :=
  let status (s : State) (n : Nat) := { x with s := s }.later 9 f.la.val (Instr.dests i) 0 [.s f.d.val (BitVec.ofNat 64 n)] 0#5
  match x.lockLine f.base f.off with
  | .skipped => .ok (status x.s 5)
  | .wait s => .hold s
  | .trap t => .trap t
  | .fault bad flt => .ok (x.partialFault x.s x.g bad flt .write)
  | .line l va =>
    let s := x.s.noteWalk x.k.core (x.s.walked x.g.key va)
    if x.g.lockLimit l then .ok (status s 4)
    else
      let s := s.sample x.k x.g x.f.mark (x.requests 2 x.g.nextId [((lanesOf x.act).headD 0, va)])
      let fl := { x.flight (.lock f.d.val l va timeout false) (Instr.dests i) with acq := true }
      .ok (s.setGroup x.k ((x.g.unmark x.sl).launchFlight x.sl { x.f with mark := none } x.next f.la.val fl))

/-- lck (spec/08 R153). -/
def execLck (f : LckF) (s : State) : Out := issue (.lck f) s (fun x => x.lck (.lck f) f none)
/-- lck.try: the timeout in ns is sD[31:0] (spec/08 R153). -/
def execLckTry (f : LckF) (s : State) : Out :=
  issue (.lckTry f) s (fun x => x.lck (.lckTry f) f (some ((x.g.regs.rdS f.d.val).toNat % 2 ^ 32)))

/-- unlk (spec/08 R156): the line and its lock leave the slice for the home's lock logic, as a request where the home is on another
module (spec/11 R229). -/
def execUnlk (f : UnlkF) (s : State) : Out :=
  issue (.unlk f) s (fun x =>
    match x.lockLine f.base f.off with
    | .skipped => .ok (x.step (x.g.unmark x.sl))
    | .wait s => .hold s
    | .trap t => .trap t
    | .fault bad flt => .ok (x.partialFault x.s x.g bad flt .write)
    | .line l va =>
      if !x.g.locks.any (fun h => h.line == l) then .trap { code := 0x0D, addr := va, walks := x.s.walked x.g.key va }
      else x.withRelease true f.scope (
        let s := (x.s.noteWalk x.k.core (x.s.walked x.g.key va)).sample x.k x.g x.f.mark (x.requests 2 x.g.nextId [((lanesOf x.act).headD 0, va)])
        let s := s.modLine l (fun y => { y with lock := y.lock.map (fun e => { e with st := .handoff }) })
        let (i, s) := s.fresh
        let r : Option Nat × State := if lineMod l = x.k.m then (none, s) else
          let q := s.newReqFor x.k.m (lineMod l) (.unlk i) (some ⟨x.g.key, x.g.team, va, x.f.pc, x.k.g⟩)
          (some q.1, q.2)
        let u : Unlk := ⟨i, x.k, x.g.key, x.g.team, x.g.gidx, x.f.mask, l, va, x.f.pc, r.1, false, x.g.nextId⟩
        let s := { r.2 with unlks := r.2.unlks ++ [u] }
        let g := { (x.g.unmark x.sl) with locks := x.g.locks.filter (fun h => h.line ≠ l), nextId := x.g.nextId + 1 }
        .ok (s.setGroup x.k (g.goto x.sl { x.f with mark := none } x.next))))

/-! ### The lock logic of a home -/

/-- Two lines have one lock table: the L2 slice that homes them (spec/08 R152). -/
def sameSlice (a b : Nat) : Bool := lineMod a == lineMod b && lineDie a == lineDie b && a % 16 == b % 16
/-- Entries of the lock table and the bobbin queue of a line's slice. -/
def State.lockCount (s : State) (l : Nat) : Nat := (s.lines.filter (fun e => sameSlice e.1 l && e.2.lock.isSome)).length
def State.queueCount (s : State) (l : Nat) : Nat :=
  (s.lines.filter (fun e => sameSlice e.1 l)).foldl (fun n e => n + e.2.queue.length) 0

/-- A lock status becomes ready to land, in the group or its image, whose team may then run (spec/08 R153, R160). -/
def State.lockStatus (s : State) (w : Waiter) (st : Nat) : State :=
  (s.modMember w.team w.gidx (fun g => g.modFlight w.flight (fun f => match f.kind with
    | .lock d .. => { f with writes := [.s d (BitVec.ofNat 64 st)], ready := true }
    | .value | .load .. | .atom .. | .bar .. | .qpop .. | .launch .. | .shuttle .. => f))).makeRunnable w.team

/-- Copies at proxies that the taking of a lock invalidates: the home may grant no lease on the line (spec/08 R154). -/
def State.lockInvalidate (s : State) (l : Nat) : State :=
  let sh := s.sharers l
  if sh.isEmpty then s
  else
    (s.pendWrite l 0 sh .host (lineMod l) (lineMod l)).2

/-- Enter a line in the lock table for a waiter; the grant is sent from time t (spec/08 R154). -/
def State.enterLock (s : State) (l : Nat) (w : Waiter) (vline pc : DWord) (t : Nat) : State :=
  (s.lockInvalidate l).modLine l (fun x => { x with lock := some ⟨w, .granting t, vline, pc⟩ })

/-- The time from which a grant on a free line may be sent: the latest lease has passed. -/
def State.grantTime (s : State) (l : Nat) : Nat := max (s.wall (lineMod l)) ((s.line l).lease + 32)

/-- The request of a waiter as its flight holds it: line address and PC. -/
def State.waiterReq (s : State) (w : Waiter) : DWord × DWord :=
  match (s.member? w.team w.gidx).bind (fun g => g.flight? w.flight) with
  | some f => match f.kind with
    | .lock _ _ v _ _ => (v, f.pc)
    | .value | .load .. | .atom .. | .bar .. | .qpop .. | .launch .. | .shuttle .. => (0, f.pc)
  | none => (0, 0)

/-- One of two waiters that arrived in one core cycle comes before the other (spec/08 R152). -/
def Waiter.before (a b : Waiter) : Bool :=
  decide (a.m < b.m) || (a.m == b.m && (decide (a.core < b.core) || (a.core == b.core && decide (a.grp < b.grp))))
/-- Queue a waiter at the tail, but in increasing order of module, core and group among those of its own cycle (spec/08 R152). -/
def enqueue (w : Waiter) (q : List Waiter) : List Waiter :=
  let same := (q.reverse.takeWhile (fun v => v.cyc == w.cyc && v.arr == w.arr)).reverse
  q.take (q.length - same.length) ++ same.takeWhile (fun v => v.before w) ++ w :: same.dropWhile (fun v => v.before w)

/-- The home handles an arrived lock request (spec/08 R153). -/
def State.lockArrive (s : State) (k : GKey) (g : Group) (f : Flight) (l : Nat) (va : DWord) (timeout : Option Nat) : State :=
  let now := s.wall (lineMod l)
  let w : Waiter := ⟨k.m, k.c, k.g, g.key, g.team, g.gidx, f.id, now, timeout.map (fun t => now + t), true, 0,
    (s.core ⟨lineMod l, 48 * lineDie l⟩).cycle⟩
  let sent (s : State) := s.modGroup k (fun g => g.modFlight f.id (fun f => match f.kind with
    | .lock d l v t _ => { f with kind := .lock d l v t true }
    | .value | .load .. | .atom .. | .bar .. | .qpop .. | .launch .. | .shuttle .. => f))
  let ln := s.line l
  if ln.lock.isNone && !ln.queue.any (·.res) then
    if 64 ≤ s.lockCount l then (sent s).lockStatus w 1
    else sent (s.enterLock l w va f.pc (s.grantTime l))
  else if 256 ≤ s.queueCount l then (sent s).lockStatus w 1
  else if timeout = some 0 then (sent s).lockStatus w 3
  else sent (s.modLine l (fun x => { x with queue := enqueue w x.queue }))

/-- A failed or lost lock request or atomic drops its destination's pending bit; its group has a late data-lost cause pending (spec/07
R131, spec/11 R232). -/
def State.failLock (s : State) (k : GKey) (fl : Nat) : State :=
  s.modGroup k (fun g => match g.flight? fl with
    | none => g
    | some f => (g.dropFlight fl).pend ⟨0x0A, f.act, match f.kind with
        | .lock _ _ v _ _ => v
        | .value | .load .. | .atom .. | .bar .. | .qpop .. | .launch .. | .shuttle .. => 0, f.pc, 0⟩)

/-- LOCK_REQUEST: the request travels to its home, which grants, queues or refuses it (spec/08 R150, R153; spec/11 R225,
R231; spec/15 R308). The sender takes the home's answer with it; the response cache keeps that answer for a duplicate (log entry 99). -/
def execLockRequest (k : GKey) (fl : Nat) (s : State) : Out :=
  match s.group? k with
  | none => .next s
  | some g => match g.flight? fl with
    | none => .next s
    | some f => match f.kind with
      | .lock d l va timeout false =>
        if g.acqBlocks f.own f.ord then .next s
        else if f.ready then .next s
        else
          let req := s.reqs.find? (fun r => r.payload == .lock k fl && !r.closed)
          let close (s : State) (rp : Reply) := match req with
            | some r => s.setReq r.id (fun q => { q with performed := true, reply := some rp, closed := true, cached := true })
            | none => s
          if !f.refused.isEmpty then
            if s.staleWait k g.key fl va then .next s
            else match s.retry ⟨k, fl, f.mask, f.act, f.pc, va, .write, false⟩ (s.setGroup k (g.dropFlight fl)) (s.failLock k fl) with
              | .stop s => .next s
              | .go pa _ s => .next (s.modGroup k (fun g => g.modFlight fl (fun f =>
                  { f with kind := .lock d (lineOf pa) va timeout false, refused := [] })))
          else if lineMod l ≠ k.m && req.isNone then
            .next (if s.cacheRoom k.m (lineMod l) then (s.newReq k.m (lineMod l) (.lock k fl)).2 else s)
          else if lineMod l ≠ k.m && !(req.any (fun r => s.reqReady r.id)) then .next s
          else if s.movedLine l then .next ((close s .moved).modGroup k (fun g => g.refuse fl [0]))
          else if !s.pointOpen (lineMod l) l || !s.redClear l then .next s
          else .next ((close (s.closeRed l) .done).lockArrive k g f l va timeout)
      | .lock .. | .value | .load .. | .atom .. | .bar .. | .qpop .. | .launch .. | .shuttle .. => .next s

/-- A free lock, or one that the handoff frees: the line is at its home. -/
def State.freeLock (s : State) (l : Nat) : State := s.modLine l (fun x => { x with lock := none })

/-- LOCK_GRANT: once the leases have passed and every invalidation is acknowledged, the grant makes the holder's slice the
ordering point, where it is Live whatever copy the slice had; a merged reduction that waits at the home is applied first; a holder
that is saved holds the line at its home (spec/08 R147, R150, R154, R158). -/
def execLockGrant (line : Nat) (s : State) : Out :=
  match (s.line line).lock with
  | none => .next s
  | some e => match e.st with
    | .granting t =>
      let waits := s.pend.any (fun p => p.line == line && !p.wait.isEmpty)
      let t := max t ((s.line line).lease + 32)
      let now := s.wall (lineMod line)
      let late := e.holder.m != lineMod line && decide (t + 50000 ≤ now + 32)
      if waits || now < t || late || !s.pointOpen (lineMod line) line || !s.redClear line then .next s
      else
        let s := s.closeRed line
        let w := e.holder
        let hold (g : Group) : Group := if g.locks.any (fun h => h.line == line) then g
          else { g with locks := g.locks ++ [⟨line, e.vline, e.pc, 0, false⟩] }
        match s.findGroup w.team w.gidx with
        | some k =>
          let w := { w with m := k.m, core := k.c, grp := k.g }
          let s := s.modLine line (fun x => { x with lock := some { e with holder := w, st := .held } })
          let s := { s with copies := terase s.copies (k.die, line) }
          let s := (s.modGroup k hold).lockStatus w 0
          .next (s.event w.key w.core w.team 3 0)
        | none => match s.member? w.team w.gidx with
          | some _ =>
            let s := s.modLine line (fun x => { x with lock := some { e with st := .saved } })
            .next (((s.modMember w.team w.gidx hold).lockStatus w 0).event w.key w.core w.team 3 0)
          | none => .next (s.modLine line (fun x => { x with lock := some { e with st := .handoff } }))
    | .held | .saved | .handoff => .next s

/-- A wake notice to the teams of saved waiters (spec/17 R320). -/
def State.wakeNotice (s : State) (ws : List Waiter) : State :=
  (ws.filter (fun w => !w.res)).foldl (fun s w => s.makeRunnable w.team) s

/-- Hand a line on: the first resident waiter receives it, those ahead of it go to the tail; without one the lock is
free (spec/08 R156, spec/17 R320). -/
def State.handoff (s : State) (l : Nat) : State :=
  let q := (s.line l).queue
  let ahead := q.takeWhile (fun w => !w.res)
  match q.dropWhile (fun w => !w.res) with
  | [] => ((s.freeLock l).wakeNotice q)
  | w :: rest =>
    let (va, pc) := s.waiterReq w
    let s := s.modLine l (fun x => { x with queue := rest ++ ahead
                                            lock := some ⟨w, .granting (s.wall (lineMod l)), va, pc⟩ })
    s.wakeNotice ahead

/-- The unlk that releases a line has reached the home's lock logic; a forced release needs none (spec/11 R229). -/
def State.unlkReady (s : State) (l : Nat) : Bool :=
  s.unlks.all (fun u => u.line != l || u.performed || (match u.req with
    | none => true
    | some r => s.reqReady r))

/-- The lock logic has taken a released line: its unlk is in place; the one of another module is acknowledged (spec/11 R238). -/
def State.unlkDone (s : State) (l : Nat) : State :=
  let us := s.unlks.filter (fun u => u.line == l && !u.performed)
  us.foldl (fun s u =>
    let s := s.writeInPlace u.team u.gidx 3 u.id []
    match u.req with
    | none => { s with unlks := s.unlks.filter (fun x => x.id ≠ u.id) }
    | some r => ({ s with unlks := s.unlks.map (fun (x : Unlk) => if x.id = u.id then { x with performed := true } else x) }).reply r .done) s

/-- LOCK_HANDOFF: the home's lock logic takes a released line and grants or frees it, as one step (spec/08 R156). -/
def execLockHandoff (line : Nat) (s : State) : Out :=
  match (s.line line).lock with
  | some e => if e.st = .handoff ∧ s.unlkReady line then .next ((s.unlkDone line).handoff line) else .next s
  | none => .next s

/-- LOCK_GRANT_WITHDRAWAL: a grant to another module that its deadline has passed is withdrawn; the line is handed on and
LOCK_FORCED is logged (spec/11 R232). -/
def execLockGrantWithdrawal (line : Nat) (s : State) : Out :=
  match (s.line line).lock with
  | none => .next s
  | some e => match e.st with
    | .granting t =>
      if e.holder.m ≠ lineMod line ∧ t + 50032 ≤ s.wall (lineMod line) then
        let w := e.holder
        let s := s.logErr w.key (s.errRec w.key w.team 0x01 (BitVec.ofNat 64 (128 * line)) e.pc 0 w.m w.grp)
        let s := s.modMember w.team w.gidx (fun g => (g.dropFlight w.flight).pend ⟨0x0A, 0, e.vline, e.pc, 0⟩)
        .next (s.handoff line)
      else .next s
    | .held | .saved | .handoff => .next s

/-- RES_UPDATE: the control plane sets a waiter's RES and, when the team is resident, its core; a free lock with no
resident waiter ahead is granted at once (spec/08 R157), unless the slice's lock table is full (log entry 92). -/
def execResUpdate (line waiter : Nat) (res : Bool) (s : State) : Out :=
  match (s.line line).queue[waiter]? with
  | none => .next s
  | some w =>
    let at_ := s.findGroup w.team w.gidx
    if at_.isSome ≠ res || w.res == res then .next s
    else
      let w' := match at_ with
        | some k => { w with res := res, m := k.m, core := k.c, grp := k.g }
        | none => { w with res := res }
      let ahead := ((s.line line).queue.take waiter).any (·.res)
      if res && (s.line line).lock.isNone && !ahead && s.lockCount line < 64 then
        let (va, pc) := s.waiterReq w
        let s := s.modLine line (fun x => { x with queue := x.queue.eraseIdx waiter })
        .next (s.enterLock line w' va pc (s.grantTime line))
      else .next (s.modLine line (fun x => { x with queue := x.queue.set waiter w' }))

/-- LCK_TRY_TIMEOUT: the home removes an entry of the bobbin queue whose deadline has passed and sends TIMEOUT (spec/08 R160); one in
the lock table is granted (log entry 93). -/
def execLckTryTimeout (line waiter : Nat) (s : State) : Out :=
  match (s.line line).queue[waiter]? with
  | none => .next s
  | some w => if w.deadline.any (fun d => decide (d ≤ s.wall (lineMod line))) then
      .next ((s.modLine line (fun x => { x with queue := x.queue.eraseIdx waiter })).lockStatus w 3) else .next s

/-- The line for which a group waits in some bobbin queue. -/
def State.waitsFor (s : State) (team gidx : Nat) : Option Nat :=
  (s.lines.find? (fun e => e.2.queue.any (fun w => w.team == team && w.gidx == gidx))).map (·.1)

/-- A probe from a waiter follows lock waits, at most 64 hops; the number of hops when it returns. On a line in handoff it goes to
the waiter that receives the grant, which waits for nothing more; a line on its way to its holder after a restore it passes by that
holder (spec/08 R161, R164). -/
def State.probe (s : State) (team gidx : Nat) : Nat → Nat → Option Nat
  | 0, _ => none
  | n + 1, l => match (s.line l).lock with
    | none => none
    | some e => match e.st with
      | .handoff => none
      | .granting _ | .held | .saved =>
        if e.holder.team = team ∧ e.holder.gidx = gidx then some (64 - n)
        else match s.waitsFor e.holder.team e.holder.gidx with
          | none => none
          | some l' => State.probe s team gidx n l'

/-- A waiter whose next probe is due: it has waited a further 16 µs. -/
def Waiter.due (w : Waiter) (now : Nat) : Bool := decide (w.arr + 16000 * (w.probes + 1) ≤ now)

/-- A deadlocked waiter leaves its queue; DEADLOCK lands and is logged (spec/08 R161). -/
def State.deadlock (s : State) (l : Nat) (w : Waiter) (hops : Nat) : State :=
  let (_, pc) := s.waiterReq w
  let s := s.modLine l (fun x => { x with queue := x.queue.filter (fun y => !(y.team == w.team && y.gidx == w.gidx)) })
  let s := s.logErr w.key (s.errRec w.key w.team 0x02 (BitVec.ofNat 64 (128 * l)) pc (BitVec.ofNat 64 hops) w.m w.grp)
  s.lockStatus w 2

/-- DEADLOCK_PROBE: a waiter's probe; a probe that returns fails the wait, and it may return in one cycle with the other
due probes that return, which then fail as well (spec/08 R161). -/
def execDeadlockProbe (line waiter : Nat) (s : State) : Out :=
  match (s.line line).queue[waiter]? with
  | none => .next s
  | some w =>
    if !w.due (s.wall (lineMod line)) then .next s
    else
      let bump (l : Nat) (v : Waiter) (s : State) := s.modLine l (fun x => { x with queue := x.queue.map (fun y =>
        if y.team = v.team ∧ y.gidx = v.gidx then { y with probes := y.probes + 1 } else y) })
      match s.probe w.team w.gidx 64 line with
      | none => .next (bump line w s)
      | some h =>
        let others := if Config.pick s.freeCtr then s.lines.flatMap (fun e => e.2.queue.filterMap (fun v =>
            if v.due (s.wall (lineMod e.1)) && !(v.team == w.team && v.gidx == w.gidx) then
              (s.probe v.team v.gidx 64 e.1).map (fun n => (e.1, v, n)) else none)) else []
        let s := { s with freeCtr := s.freeCtr + 1 }
        .next (others.foldl (fun s o => s.deadlock o.1 o.2.1 o.2.2) (s.deadlock line w h))

/-- LOCK_TIMEOUT: a held lock's count of resident cycles has reached LOCKLIM; once for each acquisition (spec/08
R159). -/
def execLockTimeout (k : GKey) (line : Nat) (s : State) : Out :=
  match s.group? k with
  | none => .next s
  | some g =>
    let lim := ((s.ctx? g.key).map (·.p.locklim)).getD (2 ^ 22)
    match g.locks.find? (fun h => h.line == line) with
    | some h =>
      if !h.fired && decide (lim ≤ h.cycles) then
        .next (s.setGroup k ({ g with locks := g.locks.map (fun (x : HeldLock) =>
          if x.line = line then { x with fired := true } else x) }.pend ⟨0x0E, 0, h.vline, h.pc, 0⟩))
      else .next s
    | none => .next s

end Sys2Proof.Machine
end

