-- ==== Sys2Proof/Machine/Copy.lean ====
section
/-! DEFINITION. The copy engine (spec/10 R194 to R202): cpy, cpy.2d, cpy.wait, and the engine's steps on a copy. -/

namespace Sys2Proof.Machine

/-- The space of a copy level. -/
def CpyLvl.space : CpyLvl → Space
  | .scratch => .scratch
  | .die => .die
  | .pks => .pks
  | .global => .global

/-- Where bytes of a local level are when an engine reaches them: in a memory, in the saved image of a team's region,
gone with an ended team, or refused by the check (spec/10 R197, R200). -/
inductive LocPlace where
  | mem (sp : Space) (a : Nat)
  | image (off : Nat)
  | gone
  | bad
deriving DecidableEq, Repr

/-- The place of n bytes of a local level, for an operation of a team issued on a die. -/
def State.engPlace (s : State) (team : Nat) (key : CtxKey) (d : DieKey) (lv : CpyLvl) (a : DWord) (n : Nat) : LocPlace :=
  match lv with
  | .scratch => match s.team? team with
    | none => .gone
    | some t =>
      if t.s < a.toNat + n then .bad
      else match t.st with
        | .resident c r _ => .mem .scratch (scratchAt ⟨key.m, c⟩ (r * t.s + a.toNat))
        | .saved _ => .image a.toNat
        | .listed | .ended => .gone
  | .die | .pks => match s.localAt team 0 key d (CpyLvl.space lv) 0 a n with
    | some (sp, x) => .mem sp x
    | none => .bad
  | .global => .bad

/-- The rows of a copy: addresses and length (spec/10 R197). -/
structure CopyArgs where
  rows : Nat
  len : Nat
  src : DWord
  dst : DWord
  sstride : Int
  dstride : Int
deriving DecidableEq, Repr

/-- The lowest and one past the highest byte of all rows. -/
def extent (a : DWord) (stride : Int) (rows len : Nat) : Int × Int :=
  let lo := (a.toNat : Int)
  let last := lo + ((rows : Int) - 1) * stride
  (min lo last, max lo last + len)

/-- The lowest address at which a byte of some row fails its level's check, when one does. -/
def State.firstBad (s : State) (team gidx : Nat) (key : CtxKey) (d : DieKey) (lv : CpyLvl) (a : DWord) (stride : Int)
    (rows len : Nat) : Option DWord :=
  match lv with
  | .global => none
  | .scratch | .die | .pks =>
    let one (x : DWord) := (s.localAt team gidx key d (CpyLvl.space lv) 0 x 1).isNone
    let bad := (List.range rows).flatMap (fun i =>
      let b := a + BitVec.ofInt 64 ((i : Int) * stride)
      if (s.localAt team gidx key d (CpyLvl.space lv) 0 b len).isSome then []
      else ((List.range len).map (fun j => b + BitVec.ofNat 64 j)).filter one)
    match bad with
    | [] => none
    | x :: xs => some (xs.foldl (fun m y => if y.toNat < m.toNat then y else m) x)

/-- The object that a barrier address names on another module, in the peer context there (spec/10 R198, spec/07 R118,
spec/11 R237); an address that names none is one that no level holds. -/
def State.farObj (s : State) (key : CtxKey) (d : DieKey) (m : Nat) (ba : DWord) : BRef :=
  let b := ba.toNat
  let none_ : BRef := .die ⟨m, 0⟩ (2 ^ 18)
  match s.peer key m with
  | none => none_
  | some pk =>
    if b % 16 ≠ 0 then none_
    else match b / 2 ^ 62 with
      | 1 => if b % 2 ^ 62 < 2 ^ 24 ∧ b % 2 ^ 24 / 2 ^ 18 < 48 then
          .die ⟨m, d.d * 48 + b % 2 ^ 24 / 2 ^ 18⟩ (b % 2 ^ 18) else none_
      | 2 => if b % 2 ^ 62 < 2 ^ 48 then .pks pk (b % 2 ^ 48) else none_
      | _ => none_

/-- The object of a counted copy: on the issuing module, or on another, where it is checked when a landing arrives. -/
def State.copyObj (s : State) (team : Nat) (key : CtxKey) (d : DieKey) (f : CpyF) (ba : DWord) : Option (BRef × Bool) :=
  if !f.cnt then none
  else if f.rmt then some (s.farObj key d f.objmod.toNat ba, true)
  else (s.barRef team key d ba).map (fun o => (o, false))

/-- The checks of a copy at issue, in their order; one that moves nothing passes them (spec/10 R196). -/
def Iss.copyCheck (x : Iss) (f : CpyF) (two : Bool) (c : CopyArgs) (ba : DWord) : Option TrapInfo :=
  let abs (i : Int) := i.natAbs
  let ex (a : DWord) (st : Int) := extent a st c.rows c.len
  let e1 := ex c.src c.sstride
  let e2 := ex c.dst c.dstride
  if c.rows = 0 ∨ c.len = 0 then none
  else if (!two && decide (2 ^ 30 < c.len)) || (two && (decide (2 ^ 24 < c.len) || decide (2 ^ 30 < c.rows * c.len))) then
    some { code := 0x11 }
  else if two && decide (1 < c.rows) && decide (abs c.dstride < c.len) then some { code := 0x11 }
  else if f.slv = f.dlv ∧ e1.1 < e2.2 ∧ e2.1 < e1.2 then some { code := 0x11 }
  else if f.rmt && ba.toNat / 2 ^ 62 == 0 then some { code := 0x11 }
  else
    let t := x.g.team
    let d := x.k.die
    match x.s.firstBad t x.g.gidx x.g.key d f.slv c.src c.sstride c.rows c.len with
    | some a => some { code := 0x07, addr := a }
    | none => match x.s.firstBad t x.g.gidx x.g.key d f.dlv c.dst c.dstride c.rows c.len with
      | some a => some { code := 0x07, addr := a }
      | none => if f.cnt && !f.rmt && (x.s.barRef t x.g.key d ba).isNone then some { code := 0x07, addr := ba } else none

/-- The bytes from an address, cut at 32-byte-aligned ranges: offset and length. -/
def cuts32 (a : Nat) : Nat → List (Nat × Nat)
  | 0 => []
  | n + 1 =>
    let first := min (n + 1) (32 - a % 32)
    let full := (n + 1 - first) / 32
    let last := (n + 1 - first) % 32
    (0, first) :: ((List.range full).map (fun i => (first + 32 * i, 32)) ++ (if last = 0 then [] else [(first + 32 * full, last)]))

/-- The pieces of a copy: every 32-byte-aligned range of its destination rows (spec/10 R197). -/
def CopyArgs.pieces (c : CopyArgs) : List Piece :=
  (List.range c.rows).flatMap (fun i =>
    let a := c.src + BitVec.ofInt 64 ((i : Int) * c.sstride)
    let b := c.dst + BitVec.ofInt 64 ((i : Int) * c.dstride)
    (cuts32 b.toNat c.len).map (fun p => ⟨a + BitVec.ofNat 64 p.1, b + BitVec.ofNat 64 p.1, p.2, .todo⟩))

/-- The group's incomplete copies, in whichever core's queue they are (spec/10 R201). -/
def State.copiesOf (s : State) (team gidx : Nat) : Nat :=
  s.cores.foldl (fun n c => n + (c.2.copies.filter (fun o => o.team == team && o.gidx == gidx)).length) 0

/-- cpy and cpy.2d (spec/10 R196, R197, R201). -/
def Iss.copy (x : Iss) (f : CpyF) (two : Bool) (c : CopyArgs) : Res :=
  let ba := x.g.regs.rdS f.c.val
  match x.copyCheck f two c ba with
  | some t => .trap t
  | none =>
    if c.rows = 0 ∨ c.len = 0 then .ok (x.step x.g)
    else if 64 ≤ (x.s.core x.k.core).copies.length || 16 ≤ x.s.copiesOf x.g.team x.g.gidx then .wait
    else
      let (id, s) := x.s.fresh
      let op : CopyOp := ⟨id, x.g.team, x.g.gidx, x.g.key, x.f.pc, f.dlv, f.slv, x.k.die,
        x.s.copyObj x.g.team x.g.key x.k.die f ba, c.pieces, 0, c.rows * c.len, x.k.g, ⟨[], none, []⟩⟩
      let s := s.modCore x.k.core (fun k => { k with copies := k.copies ++ [op] })
      .ok ({ x with s := s }.step x.g)

/-- cpy (spec/10 R197). -/
def execCpy (f : CpyF) (s : State) : Out :=
  issue (.cpy f) s (fun x => x.copy f false
    ⟨1, (x.g.regs.rdS f.b.val).toNat % 2 ^ 32, x.g.regs.rdS f.a.val, x.g.regs.rdS f.d.val, 0, 0⟩)
/-- cpy.2d (spec/10 R197). -/
def execCpy2d (f : CpyF) (s : State) : Out :=
  issue (.cpy2d f) s (fun x =>
    let b := (x.g.regs.rdS f.b.val).toNat
    x.copy f true ⟨b / 2 ^ 32 % 2 ^ 16, b % 2 ^ 32, x.g.regs.rdS f.a.val, x.g.regs.rdS f.d.val, f.sstride.toInt,
      f.dstride.toInt⟩)
/-- cpy.wait: it waits for the group's copies, then reads and clears the error count (spec/10 R202). -/
def execCpyWait (d : SReg) (n : Fin 16) (s : State) : Out :=
  issue (.cpyWait d n) s (fun x =>
    if n.val < x.s.copiesOf x.g.team x.g.gidx then .wait
    else .ok ({ x with g := { x.g with cpyErr := 0 } }.short (Instr.dests (.cpyWait d n))
      (x.g.regs.wrS d.val (BitVec.ofNat 64 (min x.g.cpyErr (2 ^ 32 - 1))))))

/-! ### The engine -/

/-- An access of an engine operation: ADDR events, and each watch once per operation (spec/18 R331, R335). -/
def State.noteEngine (s : State) (key : CtxKey) (core : Nat) (by_ : Issuer) (path : Path) (wr : Bool) (hits : List Nat)
    (va : DWord) (n : Nat) : State × List Nat :=
  s.noteTouch ⟨key, 0, 0, by_.pc, by_.team, by_.grp, .f0, path, if wr then 1 else 0⟩ (576 + core) hits [(va, n)]

/-- Who issued a copy. -/
def CopyOp.issuer (o : CopyOp) : Issuer := ⟨o.team, o.grp, o.pc⟩

/-- What an engine's address gives: a physical address, a wait with the note of the fault it waits for, an error. -/
inductive EngAt where
  | ok (pa leaf : Nat)
  | wait (s : State) (n : EngNote)
  | err (s : State)
deriving DecidableEq, Repr

/-- The operation has met a fault of a kind on the page of an address in a generation. -/
def EngNote.met (n : EngNote) (kind : FaultKind) (va : DWord) (gen : BitVec 8) : Bool :=
  n.fault.any (fun f => f.1 == kind && f.2.1.toNat / 2 ^ 16 == va.toNat / 2 ^ 16 && f.2.2.1 == gen)

/-- An engine translates an address; core is the one that its records name. A missing page, or the old frame of a migration again, is
recorded and waits for a flush; a shard fault waits for its service; a malformed walk is logged (spec/10 R197, spec/15 R293, R299, R306
to R308). -/
def State.engXlat (s : State) (key : CtxKey) (va : DWord) (acc : AccKind) (d : DieKey) (core path : Nat) (by_ : Issuer) (n : EngNote) :
    EngAt :=
  let gen := (s.module key.m).fb.gen
  let noted (f : FaultKind) : EngNote := { n with fault := some (f, va, gen, acc) }
  if n.met .notPresent va gen || n.met .movedStale va gen then .wait s n
  else
    let r := s.noteDieWalk d (s.walked key va)
    let record (cause lvl : Nat) : State := r.recordFault key va core 0 path (accCode acc) cause 0 lvl
    match s.xlat key va acc with
    | .ok pa leaf => if s.movedLine (lineOf pa) then .wait (record 3 0) (noted .movedStale) else .ok pa leaf
    | .trap _ => .err (match r.malRec key by_.team va by_.pc by_.grp with
        | some e => r.logErr key e
        | none => r)
    | .wait => .wait r n
    | .fault f lvl => .wait (if f = .notPresent then record 1 lvl else if f = .gather then r.queueGather key va by_ else r) (noted f)

/-- Change a copy operation in its queue. -/
def State.modCopy (s : State) (k : CoreKey) (id : Nat) (f : CopyOp → CopyOp) : State :=
  s.modCore k (fun c => { c with copies := c.copies.map (fun o => if o.id = id then f o else o) })

/-- Who issued a copy, as the log names it for an access. -/
def CopyOp.who (o : CopyOp) (va : DWord) : ReqWho := ⟨o.key, o.team, va, o.pc, o.grp⟩

/-- The effects of an operation that ends by an error, once for each: COPY_FAULT, the error count, the late trap (spec/10 R199). -/
def State.copyError (s : State) (k : CoreKey) (id : Nat) (key : CtxKey) (team gidx : Nat) (pc addr : DWord) (moved : Nat) : State :=
  if (s.core k).copyBad.contains id then s else
  let s := s.modCore k (fun c => { c with copyBad := id :: c.copyBad })
  let s := s.logErr key (s.errRec key team 0x03 addr pc (BitVec.ofNat 64 moved) key.m 0)
  s.modMember team gidx (fun g =>
    if g.ended then g else { g with cpyErr := min (g.cpyErr + 1) (2 ^ 32 - 1) }.pend ⟨0x12, 0, addr, pc, 0⟩)

/-- The landings of a copy that are not yet taken; those for another module count until they are sent (spec/10 R201). -/
def State.copyOpen (s : State) (k : CoreKey) (id : Nat) : Bool :=
  s.landings.any (fun l => l.copyOp.any (fun r => r.k == k && r.id == id)) ||
  s.barq.any (fun q => match q.src with
    | .landing (some r) _ false => r.k == k && r.id == id
    | .landing .. | .group .. | .flag => false)

/-- Complete operations leave their queue (spec/10 R201). -/
def State.copySettle (s : State) (k : CoreKey) : State :=
  let gone (o : CopyOp) := o.pieces.all (fun p => p.st == .done) && !s.copyOpen k o.id
  if (s.core k).copies.any gone then s.modCore k (fun c => { c with copies := c.copies.filter (fun o => !gone o) }) else s

/-- An operation ends by an error at an address: its remaining pieces are dropped (spec/10 R199). -/
def State.copyFail (s : State) (k : CoreKey) (o : CopyOp) (addr : DWord) : State :=
  let s := s.copyError k o.id o.key o.team o.gidx o.pc addr o.moved
  ((s.dropAsks o.note).modCopy k o.id (fun o => { o with
    pieces := o.pieces.filter (fun p => p.st == .done), note := { o.note with sent := [] } })).copySettle k

/-- Replace a piece of a copy. -/
def CopyOp.setPiece (o : CopyOp) (i : Nat) (p : Piece) : CopyOp :=
  { o with pieces := o.pieces.mapIdx (fun j (q : Piece) => if j = i then p else q) }

/-- The next range of a piece's source that is read at one instant: address and length. -/
def Piece.nextRead (p : Piece) (got : Nat) : DWord × Nat :=
  let a := p.src + BitVec.ofNat 64 got
  (a, min (p.len - got) (32 - a.toNat % 32))

/-- A piece is read: one source range, at its level (spec/10 R197). -/
def State.copyRead (s : State) (k : CoreKey) (o : CopyOp) (i : Nat) (p : Piece) (got : List Byte) : State :=
  let (a, n) := p.nextRead got.length
  let put (s : State) (note : EngNote) (bs : List Byte) := s.modCopy k o.id (fun o =>
    { o.setPiece i { p with st := .read (got ++ bs) } with note := note })
  let seen (s : State) : State × List Nat := s.noteEngine o.key k.c o.issuer .copy false o.note.hits a n
  match o.slv with
  | .global => match s.engXlat o.key a .read k.die k.c 1 o.issuer o.note with
    | .err s => s.copyFail k o a
    | .wait s note => s.modCopy k o.id (fun o => { o with note := note })
    | .ok pa _ =>
      let s := s.noteWalk k (s.walked o.key a)
      match s.engAsk o.key.m pa (s.servesRead o.key.m (lineOf pa)) (o.who a) o.note with
      | .failed => s.copyFail k o a
      | .wait s note => s.modCopy k o.id (fun o => { o with note := note })
      | .go r => match s.engRead o.key.m pa n with
      | .wait => s
      | .lost => (s.engTaken r).copyFail k o a
      | .ok bs s => let h := seen (s.engTaken r); put h.1 (o.note.made h.2 (lineOf pa)) bs
  | .scratch | .die | .pks => match s.engPlace o.team o.key o.die o.slv a n with
    | .bad => s.copyFail k o a
    | .mem sp x => if s.spoiledAt sp ((List.range n).map (x + ·)) then s.copyFail k o a else put s o.note (s.locRead sp x n)
    | .image off => put s o.note (mreadN (((s.team? o.team).map (·.region)).getD []) off n)
    | .gone => put { s with freeCtr := s.freeCtr + n } o.note ((List.range n).map (fun j => Config.freeByte (s.freeCtr + j)))

/-- A written piece: bytes counted and its landing due; w is the record of a global write (spec/10 R198, spec/19 R339). -/
def State.copyWrote (s : State) (k : CoreKey) (o : CopyOp) (i : Nat) (p : Piece) (note : EngNote) (w : Option Nat) : State :=
  let s := s.count o.key (idxBytes .copy) p.len
  let s := s.modCopy k o.id (fun o => { o.setPiece i { p with st := .done } with moved := o.moved + p.len, note := note })
  let s := match o.obj with
    | none => s
    | some (b, rmt) => { s with landings := s.landings ++ [Landing.mk b false (-(p.len : Int)) w 0 k.m rmt
        false o.key o.team (some ⟨k, o.id, o.key, o.team, o.gidx, o.pc, o.total⟩) none] }
  s.copySettle k

/-- A read piece is written, at its level; a write to the region of an ended team is discarded, and its landing is taken unless its
object lies there too (spec/10 R197, R198, R200). -/
def State.copyWrite (s : State) (k : CoreKey) (o : CopyOp) (i : Nat) (p : Piece) (bs : List Byte) : State :=
  let seen (s : State) : State × List Nat := s.noteEngine o.key k.c o.issuer .copy true o.note.hits p.dst p.len
  match o.dlv with
  | .global => match s.engXlat o.key p.dst .write k.die k.c 1 o.issuer o.note with
    | .err s => s.copyFail k o p.dst
    | .wait s note => s.modCopy k o.id (fun o => { o with note := note })
    | .ok pa _ =>
      let s := s.noteWalk k (s.walked o.key p.dst)
      match s.engAsk o.key.m pa (s.servesWrite o.key.m (lineOf pa)) (o.who p.dst) o.note with
      | .failed => s.copyFail k o p.dst
      | .wait s note => s.modCopy k o.id (fun o => { o with note := note })
      | .go r => match s.engWrite o.key.m pa bs (.engine (.copy k)) with
      | none => s
      | some (w, s) =>
        let (s, h) := seen (s.engTaken r)
        (s.copyWrote k o i p (o.note.made h (lineOf pa)) (some w)).settlePend
  | .scratch | .die | .pks => match s.engPlace o.team o.key o.die o.dlv p.dst p.len with
    | .bad => s.copyFail k o p.dst
    | .mem sp x =>
      (s.storeLoc sp (bs.mapIdx (fun j b => (x + j, b)))).copyWrote k o i p { o.note with fault := none } none |>.reeval
    | .image off =>
      (s.modTeam o.team (fun t => { t with region := mwriteN t.region off bs })).copyWrote k o i p { o.note with fault := none } none |>.reeval
    | .gone => s.copyWrote k o i p { o.note with fault := none } none

/-- Started operations of a queue, on which the engine works, those too whose first access waits; it works on 4 at once (spec/10
R201). -/
def CopyOp.started (o : CopyOp) : Bool :=
  (o.pieces.any (fun p => p.st != .todo) || o.note.fault.isSome || !o.note.sent.isEmpty) && o.pieces.any (fun p => p.st != .done)

/-- One step of a core's copy engine on a piece; a fence that its group waits at holds back the first (spec/09 R169, R187, spec/10
R197). -/
def State.engineCopy (s : State) (k : CoreKey) (op piece : Nat) : State :=
  match (s.core k).copies.find? (fun o => o.id == op) with
  | none => s
  | some o => match o.pieces[piece]? with
    | none => s
    | some p =>
      if !o.started && (decide (4 ≤ ((s.core k).copies.filter CopyOp.started).length) || s.fenceHolds o.team o.gidx .copy o.id) then s
      else match p.st with
        | .todo => s.copyRead k o piece p []
        | .read bs => if bs.length < p.len then s.copyRead k o piece p bs else s.copyWrite k o piece p bs
        | .done => s

end Sys2Proof.Machine
end

