-- ==== Sys2Proof/Machine/Barrier.lean ====
section
/-! DEFINITION. Barrier instructions, fences, and the steps BARRIER, LAND and ACK_SEND (spec/09 R173 to R188; spec/11
R235, R236; spec/18 R330). -/

namespace Sys2Proof.Machine

/-- The barrier address of an instruction and its object; LOCAL_RANGE when the address fails (spec/09 R174, R177). -/
def Iss.barObj (x : Iss) (f : BarF) : DWord × Option BRef :=
  let ba := x.g.regs.sbase f.base f.off
  (ba, x.s.barRef x.g.team x.g.key x.k.die ba)

/-- A request of the issuing fragment joins those on their way to the barrier units. -/
def Iss.request (x : Iss) (s : State) (o : BRef) (op : BarOp) (fl : Option Nat) (ba : DWord) (ent : Nat) : State :=
  { s with barq := s.barq ++ [⟨o, op, .group x.k x.sl x.g.gidx fl ba x.f.pc ent, x.g.key, x.g.team⟩] }

/-- A barrier instruction with a checked object. -/
def Iss.withObj (x : Iss) (f : BarF) (body : DWord → BRef → Res) : Res :=
  match x.barObj f with
  | (ba, none) => .trap { code := 0x07, addr := ba }
  | (ba, some o) => body ba o

/-- The expected bytes: bits 31:0, signed (spec/09 R177). -/
def Iss.barBytes (x : Iss) (f : BarF) : Int := toSigned 32 ((x.g.regs.rdS f.b.val).toNat % 2 ^ 32)

/-- bar.init (spec/09 R178). -/
def execBarInit (f : BarF) (s : State) : Out :=
  issue (.barInit f) s (fun x => x.withObj f (fun ba o =>
    let v := (x.g.regs.rdS f.b.val).toNat
    if v % 2 ^ 16 = 0 then .trap { code := 0x10 }
    else .ok ({ x with s := x.request x.s o (.init (BitVec.ofNat 32 (v / 2 ^ 32)) (BitVec.ofNat 16 v)) none ba 0 }.step x.g)))

/-- bar.arrive (spec/09 R179): a release that also reports. -/
def execBarArrive (f : BarF) (s : State) : Out :=
  issue (.barArrive f) s (fun x => x.withObj f (fun ba o => x.withRelease f.order.rel f.scope (
    let fl := x.flight (.bar f.d.val false 0) (Instr.dests (.barArrive f))
    let s := x.request x.s o (.step true (x.barBytes f)) (some x.g.nextId) ba 0
    .ok (s.setGroup x.k (x.g.launchFlight x.sl x.f x.next f.la.val fl)))))

/-- bar.expect (spec/09 R180). -/
def execBarExpect (f : BarF) (s : State) : Out :=
  issue (.barExpect f) s (fun x => x.withObj f (fun ba o =>
    .ok ({ x with s := x.request x.s o (.step false (x.barBytes f)) none ba 1 }.step x.g)))

/-- An earlier request of the group to an object has not yet reached its unit. -/
def State.barPending (s : State) (team gidx : Nat) (o : BRef) : Bool :=
  s.barq.any (fun q => q.o == o && q.team == team && (match q.src with
    | .group _ _ gi _ _ _ _ => gi == gidx
    | .landing .. | .flag => false))

/-- bar.wait (spec/09 R181): on when the phase differs, else the fragment waits at the barrier. -/
def execBarWait (f : BarF) (s : State) : Out :=
  issue (.barWait f) s (fun x => x.withObj f (fun ba o =>
    let ph : Word := (x.g.regs.rdS f.b.val).setWidth 32
    let wait : BarWait := ⟨ba, o, ph, f.order.acq, (x.s.module x.k.m).wall, false⟩
    if x.s.barPending x.g.team x.g.gidx o then .wait
    else match x.s.objRead o with
      | none => .trap { code := 0x07, addr := ba }
      | some v =>
        if v % 2 ^ 32 = ph.toNat then
          .ok (x.s.setGroup x.k (x.g.setFrag x.sl (some { x.f with wait := some wait, only := none })))
        else if f.order.acq && (x.s.core x.k.core).eyeletIn x.k.g x.f.mask then .wait
        else .ok ((x.step x.g).modTeam x.g.team (fun t => { t with phc := t.phc + 1 }))))

/-- bar.test (spec/09 R182). -/
def execBarTest (f : BarF) (s : State) : Out :=
  issue (.barTest f) s (fun x => x.withObj f (fun ba o =>
    let ph : Word := (x.g.regs.rdS f.b.val).setWidth 32
    let fl := { x.flight (.bar f.d.val true ph) (Instr.dests (.barTest f)) with acq := f.order.acq }
    let s := x.request x.s o (.test ph) (some x.g.nextId) ba 0
    .ok (s.setGroup x.k (x.g.launchFlight x.sl x.f x.next f.la.val fl))))

/-! ### The barrier unit (spec/09 R175, R176) -/

/-- An earlier request of the same group, from either fragment, to the same object goes first (log entry 11). -/
def BarReq.sameIssuer (a b : BarReq) : Bool :=
  a.o == b.o && a.team == b.team && (match a.src, b.src with
    | .group _ _ i _ _ _ _, .group _ _ j _ _ _ _ => i == j
    | _, _ => false)

/-- The object of a request as its unit finds it; a flag and a landing from another module also need the object's die in
the partition of the context (spec/07 R118, spec/09 R175). -/
def State.reqObj (s : State) (q : BarReq) : Option Nat :=
  let outside := match q.o with
    | .die k _ => !((s.ctx? q.key).any (fun c => c.dies.contains (k.c / 48)))
    | .team .. | .pks .. => false
  let far := match q.src with
    | .landing _ _ rmt => rmt
    | .flag => true
    | .group .. => false
  if far && outside then none else s.objRead q.o

/-- The object lies in the region of a team that has ended: the step is discarded with it (spec/10 R200, spec/11 R236). -/
def State.objGone (s : State) (o : BRef) : Bool :=
  match o with
  | .team t _ => match s.team? t with
    | none => true
    | some x => x.st == .ended
  | .die .. | .pks .. => false

/-- A step whose object fails its level's check (spec/09 R175, spec/10 R198, spec/11 R237). -/
def State.barRefused (s : State) (q : BarReq) : State :=
  match q.src with
  | .group _ _ gidx fl ba pc _ =>
    s.modMember q.team gidx (fun g =>
      (match fl with
        | some f => g.dropFlight f
        | none => g).pend ⟨0x07, 0, ba, pc, 0⟩)
  | .landing c coll _ =>
    let s := s.logErr q.key (s.errRec q.key q.team 0x04 0 ((c.map (·.pc)).getD 0) 0 q.key.m 0)
    let s := match coll with
      | none => s
      | some i => { s with colls := s.colls.map (fun (o : CollOp) =>
          if o.id = i then { o with failing := o.failing.orElse (fun _ => some .translation) } else o) }
    match c with
    | none => s
    | some r => match (s.core r.k).copies.find? (fun o => o.id == r.id) with
      | some o => s.copyFail r.k o 0
      | none => s.copyError r.k r.id r.key r.team r.gidx r.pc 0 r.total
  | .flag => s.logErr q.key (s.errRec q.key q.team 0x07 0 0 0 q.key.m 0)

/-- The arrival log of a core keeps a team's last 32 arrivals and expectations (spec/18 R330). -/
def State.logArrival (s : State) (k : GKey) (e : ArrLog) : State :=
  s.modCore k.core (fun c =>
    let mine := (c.arrlog.filter (fun x => x.team == e.team)).length
    let rec dropOne : List ArrLog → List ArrLog
      | [] => []
      | x :: xs => if x.team = e.team then xs else x :: dropOne xs
    { c with arrlog := (if 32 ≤ mine then dropOne c.arrlog else c.arrlog) ++ [e] })

/-- The report of an arrival (spec/09 R179). -/
def arriveReport (phase : Nat) (r : BarRes) : DWord :=
  BitVec.ofNat 64 (phase + (if r = .completed then 2 ^ 32 else 0) + (if r = .dropped then 2 ^ 33 else 0))

/-- The unit performs a request on an object of a value: the new value, what the issuer is told, the result. -/
def BarOp.perform (op : BarOp) (v : Nat) : Nat × DWord × BarRes :=
  match op with
  | .init ph ap => ((BarObj.fresh ph ap).toNat, 0, .none)
  | .test ph => (v, if v % 2 ^ 32 = ph.toNat then 0 else 1, .none)
  | .step da db =>
    let r := (BarObj.ofNat v).step da db
    (r.1.toNat, arriveReport (v % 2 ^ 32) r.2, r.2)

/-- A collective is over: it has performed all its reads and writes, its streams are acknowledged, its landings taken, or, for an
object on another module, sent. -/
def State.collOver (s : State) (o : CollOp) : Bool :=
  o.performed && o.failing.isNone && o.unacked.isEmpty && !s.landings.any (fun l => l.coll == some o.id) &&
  !s.barq.any (fun q => match q.src with
    | .landing _ c false => c == some o.id
    | .landing .. | .group .. | .flag => false)

/-- A landing has been taken: operations that are complete leave their queues. -/
def State.landed (s : State) (c : Option CopyRef) : State :=
  let s := if s.colls.any s.collOver then { s with colls := s.colls.filter (fun o => !s.collOver o) } else s
  match c with
  | some r => s.copySettle r.k
  | none => s

/-- The reply of the unit to a group, and its log entry. -/
def State.barReply (s : State) (q : BarReq) (v : Nat) (rep : DWord) (r : BarRes) : State :=
  match q.src with
  | .group k sl gidx fl ba _ ent =>
    let s := match fl with
      | none => s
      | some f => s.modMember q.team gidx (fun g => g.modFlight f (fun fl => match fl.kind with
        | .bar d _ _ => { fl with writes := [.s d rep], ready := true }
        | .value | .load .. | .atom .. | .lock .. | .qpop .. | .launch .. | .shuttle .. => fl))
    match q.op with
    | .step _ db => s.logArrival k ⟨q.team, ba, (s.module k.m).wall, BitVec.ofNat 32 v, BitVec.ofInt 32 db, k.g, sl, ent,
        r == .completed, r == .dropped⟩
    | .init .. | .test _ => s
  | .landing c _ _ => s.landed c
  | .flag => s

/-- BARRIER: the unit performs the next request that has arrived, and every waiter re-evaluates (spec/09 R175, R176). -/
def execBarrier (i : Nat) (s : State) : Out :=
  match s.barq[i]? with
  | none => .next s
  | some q =>
    if (s.barq.take i).any (fun p => p.sameIssuer q) then .next s
    else
      let s := { s with barq := s.barq.eraseIdx i }
      if s.objGone q.o then .next (match q.src with
        | .landing c _ _ => s.landed c
        | .group .. | .flag => s)
      else match s.reqObj q with
        | none => .next (s.barRefused q)
        | some v =>
          let (v', rep, r) := q.op.perform v
          .next ((s.objWrite q.o v').barReply q v rep r).reeval

/-- Landings of one operation on one object may be combined (spec/10 R198, spec/11 R247). -/
def Landing.joins (a b : Landing) : Bool :=
  a.o == b.o && a.copyOp == b.copyOp && a.coll == b.coll && (a.copyOp.isSome || a.coll.isSome) && a.rmt == b.rmt && !a.da && !b.da && a.team == b.team

/-- A landing may be sent: an acknowledgement, and a landing for another module, once the GWCT it reports has passed at the
module it leaves (spec/09 R169, spec/11 R235). -/
def State.mayLand (s : State) (l : Landing) : Bool :=
  if l.rmt || l.ack then l.w.isNone && passed (s.wall l.sentFrom) l.t else true

/-- A landing becomes a request to its barrier unit. -/
def Landing.toReq (s : State) (l : Landing) : BarReq :=
  let key := if l.rmt then (match l.o with
      | .die k _ => (s.peer l.key k.m).getD l.key
      | .pks k _ => k
      | .team .. => l.key) else l.key
  ⟨l.o, .step l.da l.db, .landing l.copyOp l.coll l.rmt, key, l.team⟩

/-- LAND: an engine's landing requests its barrier step; several of one operation may be combined (spec/09 R169, spec/10
R198). -/
def execLand (i : Nat) (s : State) : Out :=
  match s.landings[i]? with
  | none => .next s
  | some l =>
    if l.ack || !s.mayLand l then .next s
    else
      let rest := s.landings.eraseIdx i
      let more := if Config.pick s.freeCtr then rest.filter (fun x => x.joins l && s.mayLand x) else []
      let l' := { l with db := more.foldl (fun (d : Int) (x : Landing) => d + x.db) l.db }
      let s := { s with freeCtr := s.freeCtr + 1, landings := rest.filter (fun x => !more.contains x) }
      let s := { s with barq := s.barq ++ [l'.toReq s] }
      let s := match l.coll with
        | some i => { s with colls := s.colls.map (fun (o : CollOp) =>
            if o.id = i then { o with landed := o.landed + (-l'.db).toNat } else o) }
        | none => s
      .next (s.landed l.copyOp)

/-- ACK_SEND: the acknowledgement of an st.ack entry leaves once its GWCT has passed (spec/11 R235). -/
def execAckSend (i : Nat) (s : State) : Out :=
  match s.landings[i]? with
  | none => .next s
  | some l =>
    if !l.ack || !s.mayLand l then .next s
    else .next { s with landings := s.landings.eraseIdx i, barq := s.barq ++ [l.toReq s] }

/-! ### Fences (spec/09 R184 to R188) -/

/-- Earlier loads, tile loads among them, atomics, lock requests, bar.tests and class 0x04 results of the fragment have landed, and its
eyelets have resolved (spec/09 R185, spec/10 R207). -/
def Iss.acquired (x : Iss) : Bool :=
  !(x.g.flights.any (fun f => f.mask &&& x.f.mask != 0#32 && (match f.kind with
    | .bar _ t _ => t
    | .value => f.cls == 4
    | .load .. | .atom .. | .lock .. | .launch .. | .shuttle .. => true
    | .qpop .. => false))) &&
  !((x.s.core x.k.core).tileQ.any (fun e => e.gidx == x.g.gidx && e.mask &&& x.f.mask != 0#32 && (match e.op with
    | .ld .. | .accLd .. => true
    | .st .. | .accSt .. | .zero .. | .mmac .. | .mmacg .. | .cvt .. => false))) &&
  !((x.s.core x.k.core).eyeletIn x.k.g x.f.mask)

/-- A core within a scope of the issuing core (spec/09 R187). -/
def inScope (sc : Scope) (k c : CoreKey) : Bool :=
  k.m == c.m && (match sc with
    | .core => k.c == c.c
    | .quad => k.c / 4 == c.c / 4
    | .die => k.c / 48 == c.c / 48
    | .pkg | .pod | .sys => true)

/-- An engine instance within a scope. -/
def EngInst.inScope (e : EngInst) (sc : Scope) (k : CoreKey) : Bool :=
  match e with
  | .copy c | .tile c => Machine.inScope sc k c
  | .coll d | .shard d => d.m == k.m && (match sc with
    | .core | .quad | .die => d.d == k.c / 48
    | .pkg | .pod | .sys => true)

/-- The path of an engine instance. -/
def EngInst.path : EngInst → Path
  | .copy _ => .copy
  | .tile _ => .tile
  | .coll _ => .coll
  | .shard _ => .shard

/-- Every load and store that the group issued on the group path before a fence has been performed, whichever fragment issued it
(spec/09 R187). -/
def State.groupDone (s : State) (k : GKey) (g : Group) (fa : FenceAt) : Bool :=
  !g.flights.any (fun f => f.isAccess && decide (f.ord < fa.ord)) && g.sb.all (fun e => e.st.done || decide (fa.ord ≤ e.id)) &&
  g.entering.all (fun e => decide (fa.ord ≤ e.id)) && g.loc.all (fun e => decide (fa.ord ≤ e.id)) &&
  !(s.core k.core).tileQ.any (fun e => e.gidx == g.gidx && decide (e.id < fa.ord) && (match e.op with
    | .ld .. | .st .. | .accLd .. | .accSt .. => true
    | .zero .. | .mmac .. | .mmacg .. | .cvt .. => false))

/-- Every operation that the group issued on an engine path before a fence has performed its reads and writes (spec/09 R187). -/
def State.pathDone (s : State) (team gidx : Nat) (fa : FenceAt) (p : Path) : Bool :=
  match p with
  | .group => true
  | .copy => s.cores.all (fun c => c.2.copies.all (fun o => !(o.team == team && o.gidx == gidx && decide (o.id < fa.id)) ||
      o.pieces.all (fun q => q.st == .done)))
  | .tile => s.cores.all (fun c => c.2.tileQ.all (fun e => match e.op with
      | .mmacg .. => !(e.gidx == gidx && decide (e.id < fa.ord) && (s.groups.any (fun g => g.1.core == c.1 && g.2.team == team)))
      | .ld .. | .st .. | .zero .. | .mmac .. | .accLd .. | .accSt .. | .cvt .. => true))
  | .coll => s.colls.all (fun o => !(o.team == team && o.gidx == gidx && decide (o.id < fa.id)) || o.performed)
  | .shard => match s.member? team gidx with
    | none => true
    | some g => (g.shOps.filter (fun i => decide (i < fa.id))).all (fun i =>
        !(s.gathers.any (fun x => x.id == i)) && !(s.shevs.any (fun x => x.id == i)))

/-- The horizons of the instances of a path within a scope (spec/09 R169, R187). -/
def State.horizon (s : State) (p : Path) (sc : Scope) (k : CoreKey) : Nat :=
  match p with
  | .group => 0
  | .copy => s.cores.foldl (fun t c => if inScope sc k c.1 then max t c.2.copyHz else t) 0
  | .tile => s.cores.foldl (fun t c => if inScope sc k c.1 then max t c.2.tileHz else t) 0
  | .coll => s.dies.foldl (fun t d => if (EngInst.coll d.1).inScope sc k then max t d.2.collHz else t) 0
  | .shard => s.dies.foldl (fun t d => if (EngInst.shard d.1).inScope sc k then max t d.2.shardHz else t) 0

/-- Every instance of a path within a scope has received the GWCT of every write it has performed, of those numbered below a bound
(spec/09 R187). -/
def State.gwctsIn (s : State) (p : Path) (sc : Scope) (k : CoreKey) (bound : Nat) : Bool :=
  s.pend.all (fun w => match w.origin with
    | .engine e => !(e.path == p && e.inScope sc k && decide (w.id < bound))
    | .entry .. | .lane .. | .flag _ | .host => true)

/-- Where a fence stands: as it began, or at its first issue (spec/09 R187). -/
def Iss.fence (x : Iss) : FenceAt :=
  (((x.s.group? x.k).bind (fun g => g.frag x.sl)).bind (fun (f : Frag) => f.fence)).getD ⟨x.g.nextId, x.s.nextId, [], []⟩

/-- fence.x from an engine path, as far as it has come: once the path's operations have completed, the fence takes the horizon
and the writes it waits for (spec/09 R187). -/
def Iss.fenceFrom (x : Iss) (sc : Scope) (fa : FenceAt) (p : Path) : FenceAt :=
  if x.s.pathDone x.g.team x.g.gidx fa p && !fa.hz.any (fun h => h.1 == p) then
    { fa with hz := fa.hz ++ [(p, x.s.horizon p sc x.k.core, x.s.nextId)] }
  else fa

/-- fence.x from an engine path to a path holds (spec/09 R187). -/
def Iss.crossed (x : Iss) (fa : FenceAt) (p q : Path) (sc : Scope) : Bool :=
  fa.hz.any (fun h => h.1 == p &&
    (if q = .group then passed (x.s.wall x.k.m) h.2.1 else x.s.gwctsIn p sc x.k.core h.2.2))

/-- A fence to some paths that still waits keeps what it has found. -/
def Iss.fenceWait (x : Iss) (fa : FenceAt) (ps : List Path) : Res :=
  .hold (x.s.modGroup x.k (fun g => g.setFrag x.sl ((g.frag x.sl).map (fun f => { f with fence := some { fa with dsts := ps } }))))

/-- fence.acq (spec/09 R185). -/
def execFenceAcq (sc : Scope) (s : State) : Out :=
  issue (.fenceAcq sc) s (fun x => if x.acquired then .ok (x.step x.g) else .wait)

/-- fence.rel (spec/09 R186). -/
def execFenceRel (sc : Scope) (s : State) : Out :=
  issue (.fenceRel sc) s (fun x => x.withRelease true sc (.ok (x.step x.g)))

/-- The engine paths whose narrowest scope is no wider than a scope (spec/09 R184, R188). -/
def fencePaths : Scope → List Path
  | .core | .quad => [.copy, .tile]
  | .die | .pkg | .pod | .sys => [.copy, .tile, .coll, .shard]

/-- fence.full (spec/09 R188). -/
def execFenceFull (sc : Scope) (s : State) : Out :=
  issue (.fenceFull sc) s (fun x => x.withRelease true sc (
    let ps := fencePaths sc
    if !x.acquired then .wait
    else
      let fa := ps.foldl (x.fenceFrom sc) x.fence
      if ps.all (fun p => x.crossed fa p .group sc && ps.all (fun q => p == q || x.crossed fa p q sc)) then .ok (x.step x.g)
      else x.fenceWait fa (.group :: ps)))

/-- fence.x (spec/09 R187): from the group path it waits as R128 requires; it is no release of R171, so that R135 does not
apply. -/
def execFenceX (src dst : Path) (sc : Scope) (s : State) : Out :=
  issue (.fenceX src dst sc) s (fun x =>
    if src = .group then
      if x.s.groupDone x.k x.g x.fence && x.s.released x.k x.g x.f.mask (sc == .sys) then .ok (x.step x.g) else x.fenceWait x.fence [dst]
    else
      let fa := x.fenceFrom sc x.fence src
      if x.crossed fa src dst sc then .ok (x.step x.g) else x.fenceWait fa [dst])

end Sys2Proof.Machine
end

