-- ==== Sys2Proof/Machine/IntVector.lean ====
section
/-! DEFINITION. The vector integer instructions of class 0x03 (spec/05 R69 to R76). -/

namespace Sys2Proof.Machine

/-- A short-latency lane-wise register result: one write per lane of Active(). -/
def Iss.vresult (x : Iss) (i : Instr) (wr : Regs → Nat → Regs) : Res :=
  .ok (x.short (Instr.dests i) ((lanesOf x.act).foldl wr x.g.regs))

/-- Operand B of w bits: a lane of a vector register, or the low bits of a scalar register (spec/05 R70). -/
def Regs.srcB (r : Regs) (sb wide : Bool) (b lane : Nat) : Nat :=
  if sb then (r.rdS b).toNat % (if wide then 2 ^ 64 else 2 ^ 32) else r.rdW wide b lane

/-- The result of an R71 operation in one lane. -/
def vintValue (op : IOp) (f : VInt) (r : Regs) (l : Nat) : Nat :=
  op.eval f.ty f.sat (r.rdW f.ty.wide f.a.val l) (r.srcB f.sb f.ty.wide f.b.val l) (r.rdW f.ty.wide f.c.val l) f.n.val

/-- An R71 operation over the lanes of Active(); sources are those of the registers at issue. -/
def Iss.vint (x : Iss) (i : Instr) (op : IOp) (f : VInt) : Res :=
  x.vresult i (fun r l => r.wrW f.ty.wide f.d.val l (vintValue op f x.g.regs l))

/-- An R75 operation over the lanes of Active(), at w = 32. -/
def Iss.vimm (x : Iss) (i : Instr) (op : IOp) (f : VImmF) : Res :=
  x.vresult i (fun r l => r.wrV f.d.val l
    (BitVec.ofNat 32 (op.eval .i32 false (x.g.regs.rdV f.a.val l).toNat (imm28 32 f.imm) 0 0)))

/-- vadd (spec/05 R71). -/
def execVadd (f : VInt) (s : State) : Out := issue (.vadd f) s (fun x => x.vint (.vadd f) .add f)

/-- vsub (spec/05 R71). -/
def execVsub (f : VInt) (s : State) : Out := issue (.vsub f) s (fun x => x.vint (.vsub f) .sub f)

/-- vmulLo (spec/05 R71). -/
def execVmulLo (f : VInt) (s : State) : Out := issue (.vmulLo f) s (fun x => x.vint (.vmulLo f) .mulLo f)

/-- vmulHi (spec/05 R71). -/
def execVmulHi (f : VInt) (s : State) : Out := issue (.vmulHi f) s (fun x => x.vint (.vmulHi f) .mulHi f)

/-- vmad (spec/05 R71). -/
def execVmad (f : VInt) (s : State) : Out := issue (.vmad f) s (fun x => x.vint (.vmad f) .mad f)

/-- vmin (spec/05 R71). -/
def execVmin (f : VInt) (s : State) : Out := issue (.vmin f) s (fun x => x.vint (.vmin f) .min f)

/-- vmax (spec/05 R71). -/
def execVmax (f : VInt) (s : State) : Out := issue (.vmax f) s (fun x => x.vint (.vmax f) .max f)

/-- vabs (spec/05 R71). -/
def execVabs (f : VInt) (s : State) : Out := issue (.vabs f) s (fun x => x.vint (.vabs f) .abs f)

/-- vand (spec/05 R71). -/
def execVand (f : VInt) (s : State) : Out := issue (.vand f) s (fun x => x.vint (.vand f) .and f)

/-- vor (spec/05 R71). -/
def execVor (f : VInt) (s : State) : Out := issue (.vor f) s (fun x => x.vint (.vor f) .or f)

/-- vxor (spec/05 R71). -/
def execVxor (f : VInt) (s : State) : Out := issue (.vxor f) s (fun x => x.vint (.vxor f) .xor f)

/-- vandn (spec/05 R71). -/
def execVandn (f : VInt) (s : State) : Out := issue (.vandn f) s (fun x => x.vint (.vandn f) .andn f)

/-- vnot (spec/05 R71). -/
def execVnot (f : VInt) (s : State) : Out := issue (.vnot f) s (fun x => x.vint (.vnot f) .not f)

/-- vshl (spec/05 R71). -/
def execVshl (f : VInt) (s : State) : Out := issue (.vshl f) s (fun x => x.vint (.vshl f) .shl f)

/-- vshr (spec/05 R71). -/
def execVshr (f : VInt) (s : State) : Out := issue (.vshr f) s (fun x => x.vint (.vshr f) .shr f)

/-- vsar (spec/05 R71). -/
def execVsar (f : VInt) (s : State) : Out := issue (.vsar f) s (fun x => x.vint (.vsar f) .sar f)

/-- vrot (spec/05 R71). -/
def execVrot (f : VInt) (s : State) : Out := issue (.vrot f) s (fun x => x.vint (.vrot f) .rot f)

/-- vpopc (spec/05 R71). -/
def execVpopc (f : VInt) (s : State) : Out := issue (.vpopc f) s (fun x => x.vint (.vpopc f) .popc f)

/-- vclz (spec/05 R71). -/
def execVclz (f : VInt) (s : State) : Out := issue (.vclz f) s (fun x => x.vint (.vclz f) .clz f)

/-- vctz (spec/05 R71). -/
def execVctz (f : VInt) (s : State) : Out := issue (.vctz f) s (fun x => x.vint (.vctz f) .ctz f)

/-- vbrev (spec/05 R71). -/
def execVbrev (f : VInt) (s : State) : Out := issue (.vbrev f) s (fun x => x.vint (.vbrev f) .brev f)

/-- vbfe (spec/05 R71). -/
def execVbfe (f : VInt) (s : State) : Out := issue (.vbfe f) s (fun x => x.vint (.vbfe f) .bfe f)

/-- vbfi (spec/05 R71). -/
def execVbfi (f : VInt) (s : State) : Out := issue (.vbfi f) s (fun x => x.vint (.vbfi f) .bfi f)

/-- vmov (spec/05 R71). -/
def execVmov (f : VInt) (s : State) : Out := issue (.vmov f) s (fun x => x.vint (.vmov f) .mov f)

/-- vsext (spec/05 R71). -/
def execVsext (f : VInt) (s : State) : Out := issue (.vsext f) s (fun x => x.vint (.vsext f) .sext f)

/-- vzext (spec/05 R71). -/
def execVzext (f : VInt) (s : State) : Out := issue (.vzext f) s (fun x => x.vint (.vzext f) .zext f)

/-- vcmp (spec/05 R72). -/
def execVcmp (f : VCmpF) (s : State) : Out :=
  issue (.vcmp f) s (fun x => x.vresult (.vcmp f) (fun r l =>
    r.wrPbit f.p.val l (ICond.eval f.cond (if f.w64 then 64 else 32) (x.g.regs.rdW f.w64 f.a.val l)
      (x.g.regs.srcB f.sb f.w64 f.b.val l))))

/-- vsel (spec/05 R73). -/
def execVsel (f : VSelF) (s : State) : Out :=
  issue (.vsel f) s (fun x => x.vresult (.vsel f) (fun r l =>
    r.wrW f.ty.wide f.d.val l (if (x.g.regs.rdP f.p.val).getLsbD l then x.g.regs.rdW f.ty.wide f.a.val l
      else x.g.regs.srcB f.sb f.ty.wide f.b.val l)))

/-- vmovw (spec/05 R74). -/
def execVmovw (f : VMovwF) (s : State) : Out :=
  issue (.vmovw f) s (fun x => x.vresult (.vmovw f) (fun r l => r.wrW f.ty.wide f.d.val l f.imm.toNat))

/-- vlea (spec/05 R71). -/
def execVlea (f : VInt) (s : State) : Out :=
  issue (.vlea f) s (fun x => x.vresult (.vlea f) (fun r l =>
    r.wrW true f.d.val l (leaResult f.ty (x.g.regs.rdV64 f.a.val l).toNat
      (x.g.regs.srcB f.sb f.ty.wide f.b.val l) f.n.val)))

/-- vadd with an immediate (spec/05 R75). -/
def execVaddImm (f : VImmF) (s : State) : Out := issue (.vaddImm f) s (fun x => x.vimm (.vaddImm f) .add f)

/-- vand with an immediate (spec/05 R75). -/
def execVandImm (f : VImmF) (s : State) : Out := issue (.vandImm f) s (fun x => x.vimm (.vandImm f) .and f)

/-- vor with an immediate (spec/05 R75). -/
def execVorImm (f : VImmF) (s : State) : Out := issue (.vorImm f) s (fun x => x.vimm (.vorImm f) .or f)

/-- vxor with an immediate (spec/05 R75). -/
def execVxorImm (f : VImmF) (s : State) : Out := issue (.vxorImm f) s (fun x => x.vimm (.vxorImm f) .xor f)

/-- vshl with an immediate (spec/05 R75). -/
def execVshlImm (f : VImmF) (s : State) : Out := issue (.vshlImm f) s (fun x => x.vimm (.vshlImm f) .shl f)

/-- vshr with an immediate (spec/05 R75). -/
def execVshrImm (f : VImmF) (s : State) : Out := issue (.vshrImm f) s (fun x => x.vimm (.vshrImm f) .shr f)

/-- vsar with an immediate (spec/05 R75). -/
def execVsarImm (f : VImmF) (s : State) : Out := issue (.vsarImm f) s (fun x => x.vimm (.vsarImm f) .sar f)

/-- vmov with an immediate (spec/05 R75). -/
def execVmovImm (f : VImmF) (s : State) : Out :=
  issue (.vmovImm f) s (fun x => x.vresult (.vmovImm f) (fun r l => r.wrV f.d.val l (f.imm.signExtend 32)))

/-- vcmp with an immediate (spec/05 R72, R75). -/
def execVcmpImm (f : VCmpImmF) (s : State) : Out :=
  issue (.vcmpImm f) s (fun x => x.vresult (.vcmpImm f) (fun r l =>
    r.wrPbit f.p.val l (ICond.eval f.cond (if f.w64 then 64 else 32) (x.g.regs.rdW f.w64 f.a.val l)
      (imm28 (if f.w64 then 64 else 32) f.imm))))

end Sys2Proof.Machine
end

