-- ==== Sys2Proof/Machine/Float.lean ====
section
/-! DEFINITION. The vector float instructions of class 0x05 (spec/06 R94 to R102). -/

namespace Sys2Proof.Machine

/-- What the lanes of a float instruction have done so far: registers or writes, seeds, flags. -/
structure FAcc where
  ws : List RegW
  seed : NMap Word
  fl : Flags

/-- FMODE.RM, FMODE.FTZ (spec/06 R95). -/
def Group.rm (g : Group) : Nat := g.sr.fmode.toNat % 8
def Group.ftz (g : Group) : Bool := g.sr.fmode.getLsbD 3

/-- Draw for a lane in mode SR: each rounding by an active lane takes one LFSR step (spec/06 R94). -/
def drawSeed (mode : RMode) (seed : NMap Word) (lane : Nat) : Nat × NMap Word :=
  if mode == .sr then
    let t := lfsr (nget 0#32 seed lane) lane
    (t.1, nset 0#32 seed lane t.2)
  else (0, seed)

/-- One rounding per lane of Active(), in increasing lane order: writes, seeds and the union of the flags. -/
def Iss.lanes (x : Iss) (mode : RMode) (one : Nat → Nat → List RegW × Flags) : FAcc :=
  (lanesOf x.act).foldl (fun a l =>
    let d := drawSeed mode a.seed l
    let r := one l d.1
    ⟨a.ws ++ r.1, d.2, a.fl ||| r.2⟩) ⟨[], x.g.sr.seed, 0#5⟩

/-- Count an amount per active lane in a usage counter (spec/19 R339, R340). -/
def Iss.counted (x : Iss) (idx per : Nat) : Iss :=
  { x with s := x.s.count x.g.key idx (per * (lanesOf x.act).length) }

/-- A short-latency float or conversion result: registers, seeds, and the flags with FMODE in the interlock until they
are set (spec/06 R95, R98). -/
def Iss.fshort (x : Iss) (i : Instr) (a : FAcc) : State :=
  let g := { x.g with sr := { x.g.sr with seed := a.seed, fmode := orFlags x.g.sr.fmode a.fl } }
  { x with g := g }.short (Instr.dests i ++ [fmodeReg]) (x.g.regs.apply a.ws)

/-- An L instruction of class 0x05: results and flags land 14 cycles after issue (spec/06 R98). -/
def Iss.flong (x : Iss) (i : Instr) (la : Nat) (a : FAcc) : State :=
  let x := { x with g := { x.g with sr := { x.g.sr with seed := a.seed } } }
  x.later 5 la (Instr.dests i) 14 a.ws a.fl

/-- Operand width mask of a float type. -/
def FT.bits : FT → Nat
  | .f32 => 2 ^ 32
  | .f16 | .bf16 => 2 ^ 16

/-- The lanes of an arithmetic instruction of class 0x05 (spec/06 R99). -/
def Iss.fltLanes (x : Iss) (op : FOp) (f : FltF) : FAcc :=
  let mode := f.rnd.mode x.g.rm
  x.lanes mode (fun l r =>
    let m := FT.bits f.ft
    let y := fltLane op f.ft mode f.sat x.g.ftz r ((x.g.regs.rdV f.a.val l).toNat % m)
      (x.g.regs.srcB f.sb false f.b.val l % m) ((x.g.regs.rdV f.c.val l).toNat % m)
    ([.v f.d.val l (BitVec.ofNat 32 y.1)], y.2))

/-- fadd (spec/06 R99). -/
def execFadd (f : FltF) (s : State) : Out :=
  issue (.fadd f) s (fun x => .ok ((x.counted (idxFloat f.ft.fmt) 1).fshort (.fadd f) (x.fltLanes .add f)))

/-- fsub (spec/06 R99). -/
def execFsub (f : FltF) (s : State) : Out :=
  issue (.fsub f) s (fun x => .ok ((x.counted (idxFloat f.ft.fmt) 1).fshort (.fsub f) (x.fltLanes .sub f)))

/-- fmul (spec/06 R99). -/
def execFmul (f : FltF) (s : State) : Out :=
  issue (.fmul f) s (fun x => .ok ((x.counted (idxFloat f.ft.fmt) 1).fshort (.fmul f) (x.fltLanes .mul f)))

/-- fma (spec/06 R99). -/
def execFma (f : FltF) (s : State) : Out :=
  issue (.fma f) s (fun x => .ok ((x.counted (idxFloat f.ft.fmt) 2).fshort (.fma f) (x.fltLanes .fma f)))

/-- frcp (spec/06 R99). -/
def execFrcp (f : FltF) (s : State) : Out :=
  issue (.frcp f) s (fun x => .ok ((x.counted (idxFloat f.ft.fmt) 1).flong (.frcp f) f.la.val (x.fltLanes .rcp f)))

/-- frsq (spec/06 R99). -/
def execFrsq (f : FltF) (s : State) : Out :=
  issue (.frsq f) s (fun x => .ok ((x.counted (idxFloat f.ft.fmt) 1).flong (.frsq f) f.la.val (x.fltLanes .rsq f)))

/-- fsqrt (spec/06 R99). -/
def execFsqrt (f : FltF) (s : State) : Out :=
  issue (.fsqrt f) s (fun x => .ok ((x.counted (idxFloat f.ft.fmt) 1).flong (.fsqrt f) f.la.val (x.fltLanes .sqrt f)))

/-- fex2 (spec/06 R99). -/
def execFex2 (f : FltF) (s : State) : Out :=
  issue (.fex2 f) s (fun x => .ok ((x.counted (idxFloat f.ft.fmt) 1).flong (.fex2 f) f.la.val (x.fltLanes .ex2 f)))

/-- flg2 (spec/06 R99). -/
def execFlg2 (f : FltF) (s : State) : Out :=
  issue (.flg2 f) s (fun x => .ok ((x.counted (idxFloat f.ft.fmt) 1).flong (.flg2 f) f.la.val (x.fltLanes .lg2 f)))

/-- ftanh (spec/06 R99). -/
def execFtanh (f : FltF) (s : State) : Out :=
  issue (.ftanh f) s (fun x => .ok ((x.counted (idxFloat f.ft.fmt) 1).flong (.ftanh f) f.la.val (x.fltLanes .tanh f)))

/-- The lanes of fmin and fmax (spec/06 R100). -/
def Iss.fminLanes (x : Iss) (isMax : Bool) (f : FMinF) : FAcc :=
  x.lanes .rne (fun l _ =>
    let m := FT.bits f.ft
    let y := fminLane isMax f.ft x.g.ftz ((x.g.regs.rdV f.a.val l).toNat % m) (x.g.regs.srcB f.sb false f.b.val l % m)
    ([.v f.d.val l (BitVec.ofNat 32 y.1)], y.2))

/-- fmin (spec/06 R100). -/
def execFmin (f : FMinF) (s : State) : Out :=
  issue (.fmin f) s (fun x => .ok ((x.counted (idxFloat f.ft.fmt) 1).fshort (.fmin f) (x.fminLanes false f)))

/-- fmax (spec/06 R100). -/
def execFmax (f : FMinF) (s : State) : Out :=
  issue (.fmax f) s (fun x => .ok ((x.counted (idxFloat f.ft.fmt) 1).fshort (.fmax f) (x.fminLanes true f)))

/-- fcmp (spec/06 R100). -/
def execFcmp (f : FCmpF) (s : State) : Out :=
  issue (.fcmp f) s (fun x =>
    let a := x.lanes .rne (fun l _ =>
      let m := FT.bits f.ft
      let y := fcmpLane f.cond f.ft x.g.ftz ((x.g.regs.rdV f.a.val l).toNat % m)
        (x.g.regs.srcB f.sb false f.b.val l % m)
      ([.p f.p.val l y.1], y.2))
    .ok ((x.counted (idxFloat f.ft.fmt) 1).fshort (.fcmp f) a))

/-- fdot4 (spec/06 R101). -/
def execFdot4 (f : FDotF) (s : State) : Out :=
  issue (.fdot4 f) s (fun x =>
    let a := x.lanes .rne (fun l _ =>
      let y := fdotLane f.fmt x.g.ftz (x.g.regs.rdV f.a.val l).toNat (x.g.regs.rdV f.b.val l).toNat
        (x.g.regs.rdV f.c.val l).toNat
      ([.v f.d.val l (BitVec.ofNat 32 y.1)], y.2))
    .ok ((x.counted (idxFloat f.fmt) 8).fshort (.fdot4 f) a))

end Sys2Proof.Machine
end

