-- ==== Sys2Proof/Machine/LaneEx.lean ====
section
/-! DEFINITION. The lane-exchange instructions of class 0x04 (spec/05 R78 to R83). -/

namespace Sys2Proof.Machine

/-- Lanes of a segment (spec/05 R78). -/
def Seg.size : Seg → Nat
  | .w32 => 32 | .w16 => 16 | .w8 => 8 | .w4 => 4 | .w2 => 2

/-- The writes of a 32-bit or 64-bit value to a vector register or pair. -/
def vwr (wide : Bool) (d l x : Nat) : List RegW :=
  if wide then [.v d l (BitVec.ofNat 32 x), .v (d + 1) l (BitVec.ofNat 32 (x / 2 ^ 32))]
  else [.v d l (BitVec.ofNat 32 x)]

/-- A shuffle's source lane is valid in the lane's segment and in Active() (spec/05 R79). -/
def shflSrc (act : LaneMask) (sz lane : Nat) (src : Option Nat) : Option Nat :=
  match src with
  | none => none
  | some j => if j < 32 ∧ j / sz = lane / sz ∧ act.getLsbD j then some j else none

/-- The shuffles (spec/05 R79): results land 8 cycles after issue (R83). -/
def Iss.shuffle (x : Iss) (i : Instr) (f : ShflF) (src : Nat → Option Nat) : Res :=
  let r := x.g.regs
  let ws := (lanesOf x.act).flatMap (fun l =>
    match shflSrc x.act (Seg.size f.seg) l (src l) with
    | some j => vwr f.w64 f.d.val l (r.rdW f.w64 f.a.val j) ++ [.p f.pv.val l true]
    | none => vwr f.w64 f.d.val l (r.rdW f.w64 f.a.val l) ++ [.p f.pv.val l false])
  .ok (x.later 4 f.la.val (Instr.dests i) 8 ws 0#5)

/-- shfl.idx (spec/05 R79). -/
def execShflIdx (f : ShflF) (s : State) : Out :=
  issue (.shflIdx f) s (fun x => x.shuffle (.shflIdx f) f (fun l =>
    let i := x.g.regs.srcB f.sb false f.b.val l
    let sz := Seg.size f.seg
    if i < sz then some (l / sz * sz + i) else none))

/-- shfl.up (spec/05 R79). -/
def execShflUp (f : ShflF) (s : State) : Out :=
  issue (.shflUp f) s (fun x => x.shuffle (.shflUp f) f (fun l => if f.k.val ≤ l then some (l - f.k.val) else none))

/-- shfl.dn (spec/05 R79). -/
def execShflDn (f : ShflF) (s : State) : Out :=
  issue (.shflDn f) s (fun x => x.shuffle (.shflDn f) f (fun l => some (l + f.k.val)))

/-- shfl.xor (spec/05 R79). -/
def execShflXor (f : ShflF) (s : State) : Out :=
  issue (.shflXor f) s (fun x => x.shuffle (.shflXor f) f (fun l => some (l ^^^ f.k.val)))

/-- The lanes of Active() in a lane's segment. -/
def segLanes (act : LaneMask) (sz lane : Nat) : List Nat := (lanesOf act).filter (fun j => j / sz == lane / sz)

/-- The writes of a vote (spec/05 R80). -/
def Iss.vote (x : Iss) (i : Instr) (f : VoteF) (all : Bool) : Res :=
  let p := x.g.regs.rdP f.a.val
  let ws := (lanesOf x.act).map (fun l =>
    let ls := segLanes x.act (Seg.size f.seg) l
    RegW.p f.d.val l (if all then ls.all (fun j => p.getLsbD j) else ls.any (fun j => p.getLsbD j)))
  .ok (x.later 4 f.la.val (Instr.dests i) 8 ws 0#5)

/-- vote.any (spec/05 R80). -/
def execVoteAny (f : VoteF) (s : State) : Out := issue (.voteAny f) s (fun x => x.vote (.voteAny f) f false)

/-- vote.all (spec/05 R80). -/
def execVoteAll (f : VoteF) (s : State) : Out := issue (.voteAll f) s (fun x => x.vote (.voteAll f) f true)

/-- vote.bal (spec/05 R80). -/
def execVoteBal (f : BalF) (s : State) : Out :=
  issue (.voteBal f) s (fun x =>
    .ok (x.later 4 f.la.val (Instr.dests (.voteBal f)) 8
      [.s f.d.val ((x.act &&& x.g.regs.rdP f.a.val).setWidth 64)] 0#5))

/-- The identity of a reduction of w bits (spec/05 R81). -/
def RedOp.identity (op : RedOp) (w : Nat) : Nat :=
  match op with
  | .add | .maxU | .or | .xor => 0
  | .minI => 2 ^ (w - 1) - 1
  | .maxI => 2 ^ (w - 1)
  | .minU | .and => 2 ^ w - 1

/-- One step of a reduction of w bits. -/
def RedOp.step (op : RedOp) (w a b : Nat) : Nat :=
  match op with
  | .add => (a + b) % 2 ^ w
  | .minI => if toSigned w b < toSigned w a then b else a
  | .maxI => if toSigned w a < toSigned w b then b else a
  | .minU => min a b
  | .maxU => max a b
  | .and => a &&& b
  | .or => a ||| b
  | .xor => a ^^^ b

/-- Reductions whose 32-bit result is sign-extended (spec/05 R81). -/
def RedOp.signed : RedOp → Bool
  | .minI | .maxI => true
  | .add | .minU | .maxU | .and | .or | .xor => false

/-- redux (spec/05 R81). -/
def execRedux (f : ReduxF) (s : State) : Out :=
  issue (.redux f) s (fun x =>
    let w := if f.w64 then 64 else 32
    let v := ((lanesOf x.act).map (fun l => x.g.regs.rdW f.w64 f.a.val l)).foldl (RedOp.step f.op w) (RedOp.identity f.op w)
    let d : DWord := if f.w64 then BitVec.ofNat 64 v
      else if RedOp.signed f.op then (BitVec.ofNat 32 v).signExtend 64 else BitVec.ofNat 64 v
    .ok (x.later 4 f.la.val (Instr.dests (.redux f)) 8 [.s f.d.val d] 0#5))

/-- vtos (spec/05 R82). -/
def execVtos (f : VtosF) (s : State) : Out :=
  issue (.vtos f) s (fun x =>
    let lane := if f.fa then (lanesOf x.act).head? else if x.act.getLsbD f.k.val then some f.k.val else none
    let v := match lane with
      | none => 0
      | some l => x.g.regs.rdW f.w64 f.a.val l
    .ok (x.later 4 f.la.val (Instr.dests (.vtos f)) 8 [.s f.d.val (BitVec.ofNat 64 v)] 0#5))

/-- stov (spec/05 R82). -/
def execStov (f : StovF) (s : State) : Out :=
  issue (.stov f) s (fun x =>
    let v := (x.g.regs.rdS f.a.val).toNat
    .ok (x.later 4 f.la.val (Instr.dests (.stov f)) 8 ((lanesOf x.act).flatMap (fun l => vwr f.w64 f.d.val l v)) 0#5))

end Sys2Proof.Machine
end

