-- ==== Sys2Proof/Machine/Convert.lean ====
section
/-! DEFINITION. The conversions and block quantization of class 0x06 (spec/06 R103 to R108), and the histogram and scale
rules that the collective engine shares (spec/11 R245). -/

namespace Sys2Proof.Machine

/-- The narrow side of a register: the value of n bytes from byte b. -/
def subBytes (x : Word) (n b : Nat) : Nat := x.toNat / 256 ^ b % 256 ^ n
/-- Replace n bytes from byte b, keeping the rest; 4 bytes replace the register (spec/06 R104). -/
def putBytes (old : Word) (n b v : Nat) : Word :=
  let lo := old.toNat % 256 ^ b
  let hi := old.toNat / 256 ^ (b + n) * 256 ^ (b + n)
  BitVec.ofNat 32 (hi + v % 256 ^ n * 256 ^ b + lo)

/-- The byte of a side of a conversion: BSEL on the narrower side, on both when they are equally wide (spec/06 R103). -/
def sideByte (this other bsel : Nat) : Nat := if this ≤ other then bsel else 0

/-- cvt (spec/06 R103, R104). -/
def execCvt (f : CvtF) (s : State) : Out :=
  issue (.cvt f) s (fun x =>
    let mode := f.rnd.mode x.g.rm
    let sb := f.sfmt.bytes
    let db := f.dfmt.bytes
    let a := x.lanes mode (fun l r =>
      let v := f.sfmt.val (subBytes (x.g.regs.rdV f.a.val l) sb (sideByte sb db f.bsel.val))
      let y := roundTo v f.dfmt mode f.sat r
      ([.v f.d.val l (putBytes (x.g.regs.rdV f.d.val l) db (sideByte db sb f.bsel.val) y.1)], y.2))
    .ok ((x.counted (idxConv (Fmt.code f.sfmt) (Fmt.code f.dfmt)) 1).fshort (.cvt f) a))

/-- The range of an integer type. -/
def IntTy.lo (t : IntTy) : Int := if t.signed then -(2 ^ (IntTy.w t - 1)) else 0
def IntTy.hi (t : IntTy) : Int := if t.signed then 2 ^ (IntTy.w t - 1) - 1 else 2 ^ IntTy.w t - 1

/-- cvt.fi (spec/06 R103, R104). -/
def execCvtFi (f : CvtFiF) (s : State) : Out :=
  issue (.cvtFi f) s (fun x =>
    let mode := (f.rnd.mode x.g.rm).noSr
    let a := x.lanes .rne (fun l _ =>
      let v := f.sfmt.val (subBytes (x.g.regs.rdV f.a.val l) f.sfmt.bytes f.bsel.val)
      let y := toIntClamp v mode (IntTy.lo f.ty) (IntTy.hi f.ty)
      (vwr f.ty.wide f.d.val l (y.1 % 2 ^ 64).toNat, y.2))
    .ok ((x.counted (idxConv (Fmt.code f.sfmt) (intFmt f.ty)) 1).fshort (.cvtFi f) a))

/-- cvt.if (spec/06 R103, R104). -/
def execCvtIf (f : CvtIfF) (s : State) : Out :=
  issue (.cvtIf f) s (fun x =>
    let mode := f.rnd.mode x.g.rm
    let a := x.lanes mode (fun l r =>
      let v := Val.ofInt (readAs (IntTy.w f.ty) f.ty.signed (x.g.regs.rdW f.ty.wide f.a.val l))
      let y := roundTo v f.dfmt mode f.sat r
      ([.v f.d.val l (putBytes (x.g.regs.rdV f.d.val l) f.dfmt.bytes f.bsel.val y.1)], y.2))
    .ok ((x.counted (idxConv (intFmt f.ty) (Fmt.code f.dfmt)) 1).fshort (.cvtIf f) a))

/-! ### Histograms and scales (spec/06 R106 to R108) -/

/-- The bin of an FP32 value: finite and not zero (spec/06 R106). -/
def histBin (x : Nat) : Option Nat :=
  let v := Fmt.f32.val x
  if v.isFiniteNz then some ((Max.max (-32) (Min.min 31 v.log2)) + 32).toNat else none
/-- Add a list of FP32 values to a histogram of 64 bins, saturating. -/
def histAdd (bins : List Nat) (xs : List Nat) : List Nat :=
  let ks := xs.filterMap histBin
  bins.mapIdx (fun i b => min (b + (ks.filter (· == i)).length) (2 ^ 32 - 1))
/-- The smallest exponent whose running sum reaches t (spec/06 R107). -/
def clipFrom (t : Nat) : List Nat → Nat → Nat → Int
  | [], _, _ => 31
  | b :: bs, acc, i => if t ≤ acc + b then (i : Int) - 32 else clipFrom t bs (acc + b) (i + 1)
/-- The clip exponent (spec/06 R107). -/
def clipExp (bins : List Nat) (pct : Nat) : Int :=
  let n := bins.foldl (· + ·) 0
  if n = 0 then 31 else clipFrom ((min pct 1024 * n + 1023) / 1024) bins 0 0
/-- The scale exponent of a block of FP32 values (spec/06 R108, spec/11 R245). -/
def scaleExp (fm : Fmt) (c : Int) (xs : List Nat) : Int :=
  let es := (xs.map Fmt.f32.val).filter Val.isFiniteNz |>.map Val.log2
  match es with
  | [] => 0
  | e :: es => Max.max (Min.min (es.foldl Max.max e) c - fm.emax) (-127)
/-- The code of one value under a scale. -/
def blockCode (fm : Fmt) (sx : Int) (x : Nat) : Nat := (roundTo ((Fmt.f32.val x).scale (-sx)) fm .rne true 0).1

/-- The 64 bins held in a pair (spec/06 R106). -/
def Regs.bins (r : Regs) (d : Nat) : List Nat :=
  (List.range 64).map (fun k => (r.rdV (d + k / 32) (k % 32)).toNat)

/-- qblk.hist (spec/06 R106): every lane of the pair is written. -/
def execQblkHist (f : QHistF) (s : State) : Out :=
  issue (.qblkHist f) s (fun x =>
    let bins := histAdd (x.g.regs.bins f.d.val) ((lanesOf x.act).map (fun l => (x.g.regs.rdV f.a.val l).toNat))
    .ok (x.later 6 f.la.val (Instr.dests (.qblkHist f)) 8
      (bins.mapIdx (fun k b => .v (f.d.val + k / 32) (k % 32) (BitVec.ofNat 32 b))) 0#5))

/-- qblk.clip (spec/06 R107). -/
def execQblkClip (f : QClipF) (s : State) : Out :=
  issue (.qblkClip f) s (fun x =>
    let c := clipExp (x.g.regs.bins f.a.val) (x.g.regs.rdS f.b.val).toNat
    .ok (x.later 6 f.la.val (Instr.dests (.qblkClip f)) 8 [.s f.d.val (BitVec.ofInt 64 c)] 0#5))

/-- qblk.q (spec/06 R108). -/
def execQblkQ (f : QQuantF) (s : State) : Out :=
  issue (.qblkQ f) s (fun x =>
    let c := Max.max (-32) (Min.min 31 (x.g.regs.rdS f.b.val).toInt)
    let ls := lanesOf x.act
    let sx := scaleExp f.fmt c (ls.map (fun l => (x.g.regs.rdV f.a.val l).toNat))
    let ws := RegW.s f.c.val (BitVec.ofNat 64 ((sx + 127).toNat % 256)) :: ls.map (fun l =>
      RegW.v f.d.val l (putBytes (x.g.regs.rdV f.d.val l) 1 f.bsel.val
        (blockCode f.fmt sx (x.g.regs.rdV f.a.val l).toNat)))
    .ok ((x.counted (idxConv (Fmt.code .f32) (Fmt.code f.fmt)) 1).later 6 f.la.val (Instr.dests (.qblkQ f)) 8 ws 0#5))

end Sys2Proof.Machine
end

