-- ==== Sys2Proof/Machine/Tile.lean ====
section
/-! DEFINITION. The tile class (spec/10 R204 to R221): the words, and the steps TILE_OP_EXECUTE and MMACG_CHUNK with the
fetches of the tile fetch unit. -/

namespace Sys2Proof.Machine

/-! ### Tile state (spec/10 R204, R205, R206) -/

/-- A byte of tile t, and of its side-array, in the flat tile memory. -/
def tileAt (k : CoreKey) (t off : Nat) : Nat := (k.m * 576 + k.c) * 2 ^ 18 + t * 8448 + off
def sideAt (k : CoreKey) (t off : Nat) : Nat := tileAt k t (8192 + off)
/-- A byte of accumulator a. -/
def accAt (k : CoreKey) (a off : Nat) : Nat := (k.m * 576 + k.c) * 2 ^ 18 + 67584 + a * 16384 + off

/-- The offset of element (i, kk) of an operand in its tile. -/
def elemOff (eb : Nat) (tr : Bool) (h i kk : Nat) : Nat :=
  match eb, tr with
  | 1, false => i * 128 + 64 * h + kk
  | 1, true => kk * 128 + 64 * h + i
  | 2, false => i * 128 + 2 * kk
  | 2, true => kk * 128 + 2 * i
  | _, false => i * 128 + 4 * kk
  | _, true => kk * 256 + 4 * i

/-- KT and the K-step (spec/10 R205, R213). -/
def ktOf (eb : Nat) : Nat := if eb = 4 then 32 else 64
def kstep (eb : Nat) : Nat := if eb = 1 then 4 else if eb = 2 then 2 else 1

/-- The set bits of a 64-bit mask. -/
def bits64 (m : DWord) : List Nat := (List.range 64).filter (fun i => m.getLsbD i)
def popc64 (m : DWord) : Nat := (bits64 m).length

/-- One element of the product of R213: KT / ks rounded steps from an accumulator value. Element and scale readers give
the value of (i, k). -/
def dotSteps (ks : Nat) (a b sa sb : Nat → Val) (steps : Nat) (acc : Nat) : Nat :=
  (List.range steps).foldl (fun acc s =>
    let ps := (List.range ks).map (fun j =>
      let k := s * ks + j
      (Val.mul ((Val.mul ((Val.mul (a k) (b k)).1) (sa k)).1) (sb k)).1)
    (roundTo (exactSum (Fmt.f32.val acc) ps) .f32 .rne false 0).1) acc

/-- The scale 1. -/
def one : Val := .fin false 1 0 false

/-- Accumulator memory after a product over the active rows and columns (spec/10 R213). -/
def matMul (m : Memory) (k : CoreKey) (d : Nat) (clr : Bool) (mrows ncols : DWord) (eb kt : Nat)
    (a sa b sb : Nat → Nat → Val) : Memory :=
  (bits64 mrows).foldl (fun m i => (bits64 ncols).foldl (fun m j =>
    let at_ := accAt k d (256 * i + 4 * j)
    let acc := if clr then 0 else mnat m at_ 4
    mwriteN m at_ (toBytes 4 (dotSteps (kstep eb) (a i) (b j) (sa i) (sb j) (kt / kstep eb) acc))) m) m

/-- mmac on the tiles of a core. -/
def MmacF.perform (f : MmacF) (m : Memory) (k : CoreKey) (mrows ncols : DWord) : Memory :=
  let eb := f.fa.bytes
  let ha := if f.ha then 1 else 0
  let hb := if f.hb then 1 else 0
  let el (fm : Fmt) (t h : Nat) (tr : Bool) (i kk : Nat) : Val := fm.val (mnat m (tileAt k t (elemOff eb tr h i kk)) eb)
  let sc (t h i kk : Nat) : Val := if f.mx then Fmt.e8m0.val (mread m (sideAt k t (4 * i + 2 * h + kk / 32))).toNat else one
  matMul m k f.acc.val f.clr mrows ncols eb (ktOf eb) (el f.fa f.tA.val ha f.ta) (sc f.tA.val ha)
    (el f.fb f.tB.val hb f.tb) (sc f.tB.val hb)

/-- tcvt on the tiles of a core (spec/10 R220). -/
def TcvtF.perform (f : TcvtF) (m : Memory) (k : CoreKey) (rm : Nat) (sb : DWord) (mrows ncols : DWord) : Memory :=
  let mode := (Rnd.mode f.rnd rm).noSr
  let h := if f.h then 1 else 0
  let n := f.fmt.bytes
  let el (i j : Nat) : Val := Fmt.f32.val (mnat m (accAt k f.acc.val (256 * i + 4 * j)) 4)
  let put (m : Memory) (i j : Nat) (e : Int) : Memory :=
    mwriteN m (tileAt k f.t.val (if n = 1 then i * 128 + 64 * h + j else i * 128 + 2 * j))
      (toBytes n (roundTo ((el i j).scale (-e)) f.fmt mode f.sat 0).1)
  if f.mx then
    let c := max (-127) (min 127 sb.toInt)
    (bits64 mrows).foldl (fun m i => [0, 1].foldl (fun m b =>
      let cols := (bits64 ncols).filter (fun j => j / 32 == b)
      match cols with
      | [] => m
      | _ =>
        let ls := (cols.map (el i)).filter Val.isFiniteNz |>.map Val.log2
        let sx : Int := match ls with
          | [] => 0
          | l :: rest => max (min (rest.foldl max l) c - f.fmt.emax) (-127)
        let sx := min sx 127
        let m := mwrite m (sideAt k f.t.val (4 * i + 2 * h + b)) (BitVec.ofInt 8 (sx + 127))
        cols.foldl (fun m j => put m i j sx) m) m) m
  else
    let e := max (-160) (min 160 sb.toInt)
    (bits64 mrows).foldl (fun m i => (bits64 ncols).foldl (fun m j => put m i j e) m) m

/-! ### The words -/

/-- A tile instruction joins the matrix engine queue of its core (spec/10 R207, R208). -/
def Iss.tile (x : Iss) (op : TileOp) (s : State) : Res :=
  let e : TileEnt := ⟨x.g.nextId, op, x.g.gidx, x.f.mask, x.f.pc, x.k.g, ⟨[], none, []⟩, false, [], []⟩
  let s := s.modCore x.k.core (fun c => { c with tileQ := c.tileQ ++ [e] })
  .ok ({ x with s := s }.step { x.g with nextId := x.g.nextId + 1 })

/-- The queue of the matrix engine holds 8 instructions (spec/10 R204, R208). -/
def Iss.tileFull (x : Iss) : Bool := decide (8 ≤ (x.s.core x.k.core).tileQ.length)

/-- The first byte of some row at or beyond the region's size (spec/10 R210, spec/07 R116). -/
def rowsOut (base pitch rows len S : Nat) : Option Nat :=
  (List.range rows).findSome? (fun j =>
    let a := base + j * pitch
    if S < a + len then some (max a S) else none)

/-- A move between the scratchpad and the tile state (spec/10 R210). -/
def Iss.tileMove (x : Iss) (base : DWord) (pitch rows len : Nat) (op : Nat → TileOp) : Res :=
  if x.tileFull then .wait
  else match rowsOut base.toNat pitch rows len (((x.s.team? x.g.team).map (·.s)).getD 0) with
    | some a => .trap { code := 0x07, addr := BitVec.ofNat 64 a }
    | none => x.tile (op base.toNat) x.s

/-- The pitch of a move: the low 18 bits of a scalar, or its default when they are 0. -/
def Iss.pitch (x : Iss) (r : SReg) (dflt : Nat) : Nat :=
  let p := (x.g.regs.rdS r.val).toNat % 2 ^ 18
  if p = 0 then dflt else p

/-- tld (spec/10 R210). -/
def execTld (f : TileMvF) (s : State) : Out :=
  issue (.tld f) s (fun x =>
    let base := x.g.regs.sbase f.base f.off
    if f.side then x.tileMove base 0 1 256 (fun b => .ld f.t.val true b 0)
    else
      let p := x.pitch f.pitch 128
      x.tileMove base p 64 128 (fun b => .ld f.t.val false b p))
/-- tst (spec/10 R210). -/
def execTst (f : TileMvF) (s : State) : Out :=
  issue (.tst f) s (fun x =>
    let base := x.g.regs.sbase f.base f.off
    if f.side then x.tileMove base 0 1 256 (fun b => .st f.t.val true b 0)
    else
      let p := x.pitch f.pitch 128
      x.tileMove base p 64 128 (fun b => .st f.t.val false b p))
/-- tacc.ld (spec/10 R210). -/
def execTaccLd (f : AccMvF) (s : State) : Out :=
  issue (.taccLd f) s (fun x =>
    let p := x.pitch f.pitch 256
    x.tileMove (x.g.regs.sbase f.base f.off) p 64 256 (fun b => .accLd f.acc.val b p))
/-- tacc.st (spec/10 R210). -/
def execTaccSt (f : AccMvF) (s : State) : Out :=
  issue (.taccSt f) s (fun x =>
    let p := x.pitch f.pitch 256
    x.tileMove (x.g.regs.sbase f.base f.off) p 64 256 (fun b => .accSt f.acc.val b p))

/-- tzero (spec/10 R211). -/
def execTzero (acc : Bool) (i : Fin 8) (s : State) : Out :=
  issue (.tzero acc i) s (fun x => if x.tileFull then .wait else x.tile (.zero acc i.val) x.s)

/-- mmac (spec/10 R213). -/
def execMmac (f : MmacF) (s : State) : Out :=
  issue (.mmac f) s (fun x =>
    if x.tileFull then .wait else x.tile (.mmac f x.g.sr.mrows x.g.sr.ncols) x.s)

/-- mmacg (spec/10 R215). -/
def execMmacg (f : MmacgF) (s : State) : Out :=
  issue (.mmacg f) s (fun x =>
    let rd (i : Nat) := x.g.regs.rdS i
    let kk := (rd f.c.val).toNat % 2 ^ 32
    if x.tileFull then .wait
    else if kk % 64 ≠ 0 ∨ kk < 64 ∨ 2 ^ 24 < kk ∨ (f.mx ∧ 61 < f.c.val) then .trap { code := 0x13 }
    else x.tile (.mmacg f (rd f.a.val) (rd f.b.val) kk (rd (f.c.val + 1)) (rd (f.c.val + 2)) x.g.sr.mrows x.g.sr.ncols) x.s)

/-- tcvt (spec/10 R220). -/
def execTcvt (f : TcvtF) (s : State) : Out :=
  issue (.tcvt f) s (fun x =>
    if x.tileFull then .wait else x.tile (.cvt f x.g.rm (x.g.regs.rdS f.b.val) x.g.sr.mrows x.g.sr.ncols) x.s)

/-! ### The matrix engine (spec/10 R207, R208) -/

/-- The operands of an mmacg. -/
structure Macro where
  f : MmacgF
  a : DWord
  b : DWord
  kk : Nat
  sa : DWord
  sb : DWord
  mrows : DWord
  ncols : DWord
deriving DecidableEq, Repr

def TileOp.macro? : TileOp → Option Macro
  | .mmacg f a b kk sa sb r c => some ⟨f, a, b, kk, sa, sb, r, c⟩
  | .ld .. | .st .. | .zero .. | .mmac .. | .accLd .. | .accSt .. | .cvt .. => none

/-- The team that owns a core's tile state: the resident team of a launch with TILES. -/
def State.tileOwner (s : State) (k : CoreKey) : Option (Nat × Team) :=
  s.teams.find? (fun t => t.2.tiles && t.2.key.m == k.m && (match t.2.st with
    | .resident c _ _ => c == k.c
    | .listed | .saved _ | .ended => false))

/-- The scratchpad ranges that a move touches, and whether it stores. -/
def TileOp.moves (op : TileOp) : Option (Bool × List (Nat × Nat)) :=
  let rows (b p n : Nat) := (List.range 64).map (fun j => (b + j * p, n))
  match op with
  | .ld _ side b p => some (false, if side then [(b, 256)] else rows b p 128)
  | .st _ side b p => some (true, if side then [(b, 256)] else rows b p 128)
  | .accLd _ b p => some (false, rows b p 256)
  | .accSt _ b p => some (true, rows b p 256)
  | .zero .. | .mmac .. | .mmacg .. | .cvt .. => none

/-- The tile-state range of a move: its first byte; the rows follow each other. -/
def TileOp.place (k : CoreKey) : TileOp → Nat
  | .ld t side _ _ | .st t side _ _ => if side then sideAt k t 0 else tileAt k t 0
  | .accLd a _ _ | .accSt a _ _ => accAt k a 0
  | .zero .. | .mmac .. | .mmacg .. | .cvt .. => 0

/-- Move rows from one memory to another: row j of n bytes from its source to a consecutive place. -/
def moveRows (src dst : Memory) (base place : Nat) (rows : List (Nat × Nat)) (load : Bool) : Memory :=
  ((List.range rows.length).zip rows).foldl (fun m r =>
    let tile := place + r.1 * r.2.2
    let pad := base + r.2.1
    if load then mwriteN m tile (mreadN src pad r.2.2) else mwriteN m pad (mreadN src tile r.2.2)) dst

/-- The tile state after tzero (spec/10 R211). -/
def zeroTile (m : Memory) (k : CoreKey) (acc : Bool) (i : Nat) : Memory :=
  if acc then mclear m (accAt k (i % 4) 0) 16384
  else mwriteN (mclear m (tileAt k i 0) 8192) (sideAt k i 0) (List.replicate 256 0x7F#8)

/-- The bytes, the products and the conversions that a tile instruction adds as it is performed (spec/10 R221, spec/19 R339). -/
def State.countTile (s : State) (key : CtxKey) (op : TileOp) : State :=
  match op with
  | .mmac f r c => s.count key (idxProduct f.fa f.fb) (popc64 r * popc64 c * ktOf f.fa.bytes)
  | .cvt f _ _ r c => s.count key (idxConv (Fmt.code .f32) (Fmt.code f.fmt)) (popc64 r * popc64 c)
  | .ld .. | .st .. | .accLd .. | .accSt .. =>
    s.countBytes key .group ((op.moves.map (fun m => (m.2.map (fun r => r.2)).sum)).getD 0)
  | .zero .. | .mmacg .. => s

/-- The first byte and the length of each element of an accumulator in active rows and columns. -/
def accElems (k : CoreKey) (a : Nat) (mrows ncols : DWord) : List (Nat × Nat) :=
  (bits64 mrows).flatMap (fun i => (bits64 ncols).map (fun j => (accAt k a (256 * i + 4 * j), 4)))

/-- The ranges of the tile state that a tile instruction reads, but for an mmacg (spec/10 R210 to R213, R220). -/
def TileOp.reads (op : TileOp) (k : CoreKey) : List (Nat × Nat) :=
  match op with
  | .st _ side _ _ => [(op.place k, if side then 256 else 8192)]
  | .accSt .. => [(op.place k, 16384)]
  | .mmac f r c =>
    let eb := f.fa.bytes
    let h (b : Bool) := if b then 1 else 0
    let el (m : DWord) (t : Fin 8) (half tr : Bool) := (bits64 m).flatMap (fun i => (List.range (ktOf eb)).map (fun kk =>
      (tileAt k t.val (elemOff eb tr (h half) i kk), eb)))
    let sc (m : DWord) (t : Fin 8) (half : Bool) := if f.mx then (bits64 m).map (fun i => (sideAt k t.val (4 * i + 2 * h half), 2)) else []
    el r f.tA f.ha f.ta ++ el c f.tB f.hb f.tb ++ sc r f.tA f.ha ++ sc c f.tB f.hb ++
      (if f.clr then [] else accElems k f.acc.val r c)
  | .cvt f _ _ r c => accElems k f.acc.val r c
  | .ld .. | .accLd .. | .zero .. | .mmacg .. => []

/-- The ranges of the tile state that a tile instruction writes, but for an mmacg. -/
def TileOp.writes (op : TileOp) (k : CoreKey) : List (Nat × Nat) :=
  match op with
  | .ld _ side _ _ => [(op.place k, if side then 256 else 8192)]
  | .accLd .. => [(op.place k, 16384)]
  | .zero acc i => if acc then [(accAt k (i % 4) 0, 16384)] else [(tileAt k i 0, 8448)]
  | .mmac f r c => accElems k f.acc.val r c
  | .cvt f _ _ r c =>
    let h := if f.h then 1 else 0
    (bits64 r).flatMap (fun i => (bits64 c).map (fun j =>
      if f.fmt.bytes = 1 then (tileAt k f.t.val (i * 128 + 64 * h + j), 1) else (tileAt k f.t.val (i * 128 + 2 * j), f.fmt.bytes)) ++
      (if f.mx then ([0, 1].filter (fun b => (bits64 c).any (fun j => j / 32 == b))).map (fun b =>
        (sideAt k f.t.val (4 * i + 2 * h + b), 1)) else []))
  | .st .. | .accSt .. | .mmacg .. => []

/-- A range holds a byte of a word. -/
def wordIn (w : Nat) (rs : List (Nat × Nat)) : Bool := rs.any (fun r => decide (r.1 < 4 * w + 4) && decide (4 * w < r.1 + r.2))
/-- Some damaged word of the tile state lies in the ranges (spec/19 R347). -/
def State.badTile (s : State) (rs : List (Nat × Nat)) : Bool := s.badTiles.any (fun w => wordIn w rs)
/-- Ranges of the tile state, and of a scratchpad, are about to be written: their damaged words are sound again, the bytes of them that
are not written read zero (spec/19 R347). -/
def State.mendTiles (s : State) (rs : List (Nat × Nat)) : State :=
  if s.badTiles.isEmpty then s
  else { s with
    tiles := (s.badTiles.filter (fun w => wordIn w rs)).foldl (fun m w => mwriteN m (4 * w) [0, 0, 0, 0]) s.tiles
    badTiles := s.badTiles.filter (fun w => !wordIn w rs) }
def State.mendScratch (s : State) (rs : List (Nat × Nat)) : State :=
  if s.spoiled.isEmpty then s
  else
    let hit (w : Space × Nat) : Bool := w.1 == .scratch && wordIn w.2 rs
    { s with
      scratch := (s.spoiled.filter hit).foldl (fun m w => mwriteN m (4 * w.2) [0, 0, 0, 0]) s.scratch
      spoiled := s.spoiled.filter (fun w => !hit w) }
/-- A tile instruction at the head of the queue reads a damaged word: it leaves with no effect, logged, and its group has a data-lost
cause pending (spec/19 R347, R349). -/
def State.loseTile (s : State) (k : CoreKey) (tid : Nat) (key : CtxKey) (e : TileEnt) (st : Nat) : State :=
  let s := s.modCore k (fun c => { c with tileQ := c.tileQ.tail, mprog := if e.begun then 0 else c.mprog, pins := [] })
  let s := s.logErr key (s.errRec key tid 0x11 0 e.pc (BitVec.ofNat 64 st) k.m e.grp)
  s.pendTeam tid e.gidx ⟨0x0A, e.mask, 0, e.pc, 0⟩

/-- TILE_OP_EXECUTE: the matrix engine performs the tile instruction at the head of its queue, but for mmacg (spec/10
R207); a move waits for the fragment's earlier accesses to the array (spec/07 R121). -/
def execTileOpExecute (k : CoreKey) (s : State) : Out :=
  match s.tileOwner k, (s.core k).tileQ with
  | some (tid, t), e :: rest =>
    let pop (s : State) := (s.countTile t.key e.op).modCore k (fun c => { c with tileQ := rest })
    let base := scratchAt k ((match t.st with
      | .resident _ r _ => r
      | .listed | .saved _ | .ended => 0) * t.s)
    if s.badTile (e.op.reads k) then .next ((s.loseTile k tid t.key e 5).tryEnd tid) else
    let s := if e.op.macro?.isNone then s.mendTiles (e.op.writes k) else s
    match e.op with
    | .mmacg .. => .next s
    | .zero acc i => .next ((pop { s with tiles := zeroTile s.tiles k acc i }).tryEnd tid)
    | .mmac f r c => .next ((pop { s with tiles := MmacF.perform f s.tiles k r c }).tryEnd tid)
    | .cvt f rm b r c => .next ((pop { s with tiles := TcvtF.perform f s.tiles k rm b r c }).tryEnd tid)
    | .ld .. | .st .. | .accLd .. | .accSt .. =>
      match e.op.moves, s.findGroup tid e.gidx with
      | some (store, rows), some gk =>
        match s.group? gk with
        | none => .next s
        | some g =>
          if !s.locReady gk g e.own e.id .scratch (rows.map (fun r => (base + r.1, r.2))) then .next s
          else if store then
            let s := s.mendScratch (rows.map (fun r => (base + r.1, r.2)))
            .next ((pop { s with scratch := moveRows s.tiles s.scratch base (e.op.place k) rows false }).reeval.tryEnd tid)
          else if s.spoiledAt .scratch (rows.flatMap (fun r => (List.range r.2).map (base + r.1 + ·))) then
            .next ((s.loseTile k tid t.key e 2).tryEnd tid)
          else .next ((pop { s with tiles := moveRows s.scratch s.tiles base (e.op.place k) rows true }).tryEnd tid)
      | _, _ => .next s
  | _, _ => .next s

/-! ### mmacg (spec/10 R215 to R219) -/

/-- The address of element (i, kk) of an operand, and of the scale of its block. -/
def macroElem (base : DWord) (pitch eb : Nat) (tr : Bool) (i kk : Nat) : DWord :=
  base + BitVec.ofNat 64 (if tr then kk * pitch + i * eb else i * pitch + kk * eb)
def Macro.aAddr (x : Macro) (i kk : Nat) : DWord := macroElem x.a x.f.apitch.toNat x.f.fa.bytes x.f.ta i kk
def Macro.bAddr (x : Macro) (i kk : Nat) : DWord := macroElem x.b x.f.bpitch.toNat x.f.fa.bytes x.f.tb i kk
def Macro.scale (x : Macro) (base : DWord) (i kk : Nat) : DWord := base + BitVec.ofNat 64 (i * (x.kk / 32) + kk / 32)

/-- The bytes that chunk j needs, in the order of the operands. -/
def Macro.needs (x : Macro) (j : Nat) : List DWord :=
  let eb := x.f.fa.bytes
  let ks := (List.range 64).map (fun i => 64 * j + i)
  let el (ad : Nat → Nat → DWord) (m : DWord) : List DWord := (bits64 m).flatMap (fun i => ks.flatMap (fun k =>
    (List.range eb).map (fun b => ad i k + BitVec.ofNat 64 b)))
  let sc (base m : DWord) : List DWord := (bits64 m).flatMap (fun i => [x.scale base i (64 * j), x.scale base i (64 * j + 32)])
  el x.aAddr x.mrows ++ el x.bAddr x.ncols ++ (if x.f.mx then sc x.sa x.mrows ++ sc x.sb x.ncols else [])

/-- The lines of a chunk, each with the offsets it needs. -/
def Macro.lines (x : Macro) (j : Nat) : List (Nat × List Nat) :=
  let ns := x.needs j
  ((ns.map (fun a => a.toNat / 128)).eraseDups).map (fun l =>
    (l, (List.range 128).filter (fun o => ns.contains (BitVec.ofNat 64 (l * 128 + o)))))

/-- The chunk that the head mmacg works on. -/
def chunkOf (c : Core) (e : TileEnt) : Nat := if e.begun then c.mprog.toNat else 0

/-- The lines still to be fetched: those of the current chunk, then those of the next while the chunk works. -/
def TileEnt.wanted (x : Macro) (e : TileEnt) (j : Nat) : Nat × List (Nat × List Nat) :=
  let left (j : Nat) := (x.lines j).filter (fun l => !e.got.any (fun g => g.chunk == j && g.vline == l.1))
  match left j with
  | [] => (j + 1, if j + 1 < x.kk / 64 then left (j + 1) else [])
  | ls => (j, ls)

/-- Replace the head of a matrix engine queue. -/
def State.setTileHead (s : State) (k : CoreKey) (e : TileEnt) : State :=
  s.modCore k (fun c => { c with tileQ := e :: c.tileQ.tail })

/-- The pins of a core follow the lines its mmacg holds. -/
def State.repin (s : State) (k : CoreKey) : State :=
  s.modCore k (fun c => { c with pins := (c.tileQ.flatMap (fun e => e.got.filterMap (·.pin))).eraseDups })

/-- An mmacg begins: MPROG is 0. -/
def State.beginMacro (s : State) (k : CoreKey) (e : TileEnt) : State :=
  if e.begun then s else (s.setTileHead k { e with begun := true }).modCore k (fun c => { c with mprog := 0 })

/-- An mmacg ends by an error at a chunk boundary: the group has a tile-fault cause pending (spec/10 R219). -/
def State.tileFault (s : State) (k : CoreKey) (tid : Nat) (e : TileEnt) (addr : DWord) : State :=
  let s := ((s.dropAsks e.note).modCore k (fun c => { c with tileQ := c.tileQ.tail })).repin k
  (s.pendTeam tid e.gidx ⟨0x14, 0, addr, e.pc, 0⟩).tryEnd tid

/-- A tile fetch starts no new chunk while its team is being halted or saved (spec/10 R218). -/
def State.tileHalting (s : State) (tid : Nat) (t : Team) : Bool :=
  t.halted || t.stop.isSome || (s.groupsOf tid).any (fun g => g.2.halting)

/-- Read the needed bytes of one line at one instant. -/
def State.engBytes (s : State) (m line : Nat) : List Nat → EngRes
  | [] => .ok [] s
  | o :: os => match s.engRead m (line * 128 + o) 1 with
    | .wait => .wait
    | .lost => .lost
    | .ok bs s => match State.engBytes s m line os with
      | .wait => .wait
      | .lost => .lost
      | .ok cs s => .ok (bs ++ cs) s

/-- The runs of consecutive offsets: first and length. -/
def runs : List Nat → List (Nat × Nat)
  | [] => []
  | o :: os => match runs os with
    | (a, n) :: rest => if a = o + 1 then (o, n + 1) :: rest else (o, 1) :: (a, n) :: rest
    | [] => [(o, 1)]

/-- A tile fetch reads and pins one line; a fence that the group waits at holds back the first of an mmacg (spec/09 R187; spec/10 R217,
R219, R221). -/
def State.engineTile (s : State) (k : CoreKey) (piece : Nat) : State :=
  match s.tileOwner k, (s.core k).tileQ with
  | some (tid, t), e :: _ => match e.op.macro? with
    | none => s
    | some x =>
      if !e.begun && s.fenceHolds tid e.gidx .tile e.id then s
      else
      let s := s.beginMacro k e
      let e := { e with begun := true }
      let cur := chunkOf (s.core k) e
      let (j, ls) := e.wanted x cur
      match ls[piece]? with
      | none => s
      | some (vl, offs) =>
        let idle := !e.got.any (fun g => g.chunk == j) && e.note.sent.isEmpty
        if (idle && s.tileHalting tid t) || 512 ≤ (s.core k).pins.length then s
        else
          let va : DWord := BitVec.ofNat 64 (vl * 128)
          let bad := va + BitVec.ofNat 64 (offs.headD 0)
          let fail (s : State) := if j = cur then s.tileFault k tid e bad else s
          match s.engXlat t.key va .read k.die k.c 2 ⟨tid, e.grp, e.pc⟩ e.note with
          | .err s => fail s
          | .wait s note => s.setTileHead k { e with note := note }
          | .ok pa _ =>
            let s := s.noteWalk k (s.walked t.key va)
            let l := lineOf pa
            match s.engAsk k.m (l * 128 + offs.headD 0) (s.servesRead k.m l) ⟨t.key, tid, bad, e.pc, e.grp⟩ e.note with
            | .failed => fail s
            | .wait s note => s.setTileHead k { e with note := note }
            | .go r => match s.engBytes k.m l offs with
            | .wait => s
            | .lost => fail (s.engTaken r)
            | .ok bs s =>
              let s := s.engTaken r
              let pin := match (s.line l).point with
                | .slice _ => none
                | .home | .proxy _ => some l
              let s := s.count t.key (idxBytes .tile) offs.length
              let (s, hits) := (runs offs).foldl (fun (a : State × List Nat) r =>
                a.1.noteEngine t.key k.c ⟨tid, e.grp, e.pc⟩ .tile false a.2 (va + BitVec.ofNat 64 r.1) r.2) (s, e.note.hits)
              (s.setTileHead k { e with note := e.note.made hits l, got := e.got ++ [⟨j, vl, pin, offs.zip bs⟩] }).repin k
  | _, _ => s

/-- A byte that the unit holds for a chunk. -/
def TileEnt.byte (e : TileEnt) (j : Nat) (a : DWord) : Nat :=
  match e.got.find? (fun g => g.chunk == j && g.vline == a.toNat / 128) with
  | some g => ((g.data.find? (fun d => d.1 == a.toNat % 128)).map (fun d => d.2.toNat)).getD 0
  | none => 0

/-- The accumulators after chunk j of an mmacg (spec/10 R216). -/
def Macro.perform (x : Macro) (e : TileEnt) (m : Memory) (k : CoreKey) (j : Nat) : Memory :=
  let eb := x.f.fa.bytes
  let val (fm : Fmt) (a : DWord) : Val :=
    fm.val ((List.range eb).foldr (fun b acc => e.byte j (a + BitVec.ofNat 64 b) + 256 * acc) 0)
  let sc (base : DWord) (i kk : Nat) : Val := if x.f.mx then Fmt.e8m0.val (e.byte j (x.scale base i (64 * j + kk))) else one
  matMul m k x.f.acc.val (x.f.clr && j == 0) x.mrows x.ncols eb 64 (fun i kk => val x.f.fa (x.aAddr i (64 * j + kk)))
    (sc x.sa) (fun i kk => val x.f.fb (x.bAddr i (64 * j + kk))) (sc x.sb)

/-- MMACG_CHUNK: the sequencer completes a chunk whose lines it holds: the accumulators, MPROG, the pins, the counter; after
the last one the mmacg is done (spec/10 R216, R217, R221). -/
def execMmacgChunk (k : CoreKey) (s : State) : Out :=
  match s.tileOwner k, (s.core k).tileQ with
  | some (tid, t), e :: _ => match e.op.macro? with
    | none => .next s
    | some x =>
      let j := chunkOf (s.core k) e
      if !(x.lines j).all (fun l => e.got.any (fun g => g.chunk == j && g.vline == l.1)) ||
        (s.tileHalting tid t && !e.got.any (fun g => g.chunk == j)) then .next s
      else
        let s := s.beginMacro k e
        let accs := accElems k x.f.acc.val x.mrows x.ncols
        if !(x.f.clr && j == 0) && s.badTile accs then .next (((s.loseTile k tid t.key { e with begun := true } 5).repin k).tryEnd tid) else
        let s := s.mendTiles accs
        let s := { s with tiles := x.perform e s.tiles k j }
        let s := s.count t.key (idxProduct x.f.fa x.f.fb) (popc64 x.mrows * popc64 x.ncols * 64)
        let e := { e with begun := true, got := e.got.filter (fun g => g.chunk ≠ j) }
        let s := (s.setTileHead k e).modCore k (fun c => { c with mprog := BitVec.ofNat 32 (j + 1) })
        let s := if j + 1 = x.kk / 64 then s.modCore k (fun c => { c with tileQ := c.tileQ.tail }) else s
        .next ((s.repin k).tryEnd tid)
  | _, _ => .next s

end Sys2Proof.Machine
end

