-- ==== Sys2Proof/Machine/Pod.lean ====
section
/-! DEFINITION. Pod-scope words (spec/11 R234 to R250): acknowledged stores, flags, shuttles, collectives, and the steps
FLAG_APPLY, SHUTTLE_STEP, SHUTTLE_RETURN, COLL_STREAM_RECEIVE and COLL_FAIL. -/

namespace Sys2Proof.Machine

/-! ### Acknowledged stores (spec/11 R235) -/

/-- One acknowledged entry per lane and sector. -/
def Iss.ackEntries (x : Iss) (f : MemF) (o : BRef) (ps : List XPart) : List SbEntry :=
  ps.mapIdx (fun i p =>
    let bs := ((storeBytes x.g.regs f.size f.d.val p.lane).drop p.off |>.take p.len).mapIdx (fun j b => (p.pa % 32 + j, b))
    ⟨0, x.g.nextId, x.f.mask, x.f.pc, p.va, p.pa / 32, .ack bs o, .queued, [], x.storeNote (i == 0), []⟩)

/-- st.ack (spec/11 R235). -/
def execStAck (f : MemF) (s : State) : Out :=
  issue (.stAck f) s (fun x =>
    let ba := x.g.sr.ackba
    match x.s.barRef x.g.team x.g.key x.k.die ba with
    | none => .trap { code := 0x07, addr := ba }
    | some o =>
      let n := sizeBytes f.size
      let ps := x.s.parts x.g.key .write x.act n (fun l => x.g.regs.ea f.addr l)
      match x.s.decide130 x.g.key x.g.team x.k.g x.f.pc ps with
      | .wait => x.waitWalk ps
      | .trap t => .trap t
      | .go ok bad flt => x.withRelease f.order.rel f.scope (
        match x.g.enterSb x.sl ((x.carrying ok).ackEntries f o ok) with
        | none => .wait
        | some g =>
          .ok (x.finishX (x.noteStores ok 1) (x.spent g 1 ok flt) bad flt .write)))

/-! ### Flags (spec/11 R237, R238) -/

/-- The writes of a group homed on a module that are not yet in place: of an atomic, those of its lanes that are homed there. -/
def State.openWrites (s : State) (g : Group) (m : Nat) : List (Nat × Nat) :=
  ((g.sb ++ g.entering).filter (fun e => lineMod (e.sector / 4) == m)).map (fun e => (0, e.id)) ++
  (g.flights.filter (fun f => (match f.kind with
    | .atom _ _ _ r => !r
    | .value | .load .. | .lock .. | .bar .. | .qpop .. | .launch .. | .shuttle .. => false))).flatMap (fun f =>
      (f.parts.zipIdx.filter (fun e => paMod e.1.addr == m)).map (fun e => (1, 32 * f.id + e.2))) ++
  (s.flags.filter (fun f => f.team == g.team && f.gidx == g.gidx && f.ba.isNone && paMod f.pa == m)).map (fun f => (2, f.id)) ++
  (s.unlks.filter (fun u => u.team == g.team && u.gidx == g.gidx && lineMod u.line == m && !u.performed)).map (fun u => (3, u.id))

/-- One flag leaves the fragment: to its own module at once, to another as a request; it waits for what the group issued before its
ffl (spec/11 R229, R238). -/
def Iss.sendFlag (x : Iss) (s : State) (lane m : Nat) (ba : Option DWord) (va : DWord) (pa leaf : Nat) (bs : List Byte) : State :=
  let (i, s) := s.fresh
  let f : Flag := ⟨i, m, x.k, x.g.key, x.g.team, x.g.gidx, lane, x.f.pc, ba, va, pa, leaf, bs, x.s.openWrites x.g m,
    (x.g.gwm.filter (fun e => e.1 / 1024 == m)).map (fun e => (e.1 % 1024, e.2)), none, false, x.f.mask, x.g.nextId, false⟩
  if m = x.k.m then { s with flags := s.flags ++ [f] }
  else
    let (r, s) := s.newReqFor x.k.m m (.flag i) (some ⟨f.key, f.team, va, f.pc, x.k.g⟩)
    { s with flags := s.flags ++ [{ f with req := some r }] }

/-- Bits 61:24 or 61:48 of a barrier address are zero for its level, which is die-shared or the package scratchpad. -/
def flagBaOk (ba : Nat) : Bool :=
  match ba / 2 ^ 62 with
  | 1 => ba % 2 ^ 62 / 2 ^ 24 == 0
  | 2 => ba % 2 ^ 62 / 2 ^ 48 == 0
  | _ => false

/-- BA := EA with bits 57:48 cleared, and the module EA[57:48] (spec/11 R237). -/
def flagBa (ea : DWord) : DWord := ea &&& ~~~(0x3FF#64 <<< 48)
def flagMod (ea : DWord) : Nat := ea.toNat / 2 ^ 48 % 1024

/-- ffl.arr (spec/11 R237, R238). -/
def execFflArr (f : FflF) (s : State) : Out :=
  issue (.fflArr f) s (fun x =>
    let ls := (lanesOf x.act).map (fun l => (l, x.g.regs.ea f.addr l))
    let bad := ls.filter (fun e => !flagBaOk (flagBa e.2).toNat)
    let far := ls.filter (fun e => !x.s.reachable x.k.m (flagMod e.2))
    match bad, far with
    | e :: es, _ => .trap { code := 0x07, lanes := some (maskOf ((e :: es).map (·.1))), addr := e.2 }
    | [], e :: es => .trap { code := 0x15, lanes := some (maskOf ((e :: es).map (·.1))), addr := e.2, detail := flagMod e.2 }
    | [], [] =>
      let s := x.s.sample x.k x.g x.f.mark (x.requests 5 x.g.nextId ls)
      let s := ls.foldl (fun s e => x.sendFlag s e.1 (flagMod e.2) (some (flagBa e.2)) e.2 0 0 []) s
      .ok ({ x with s := s, f := { x.f with mark := none } }.step { x.g with nextId := x.g.nextId + 1 }))

/-- A store-form flag of n bytes (spec/11 R237). -/
def Iss.fflStore (x : Iss) (f : FflF) (z : MSize) : Res :=
  let n := sizeBytes z
  let ps := x.s.parts x.g.key .write x.act n (fun l => x.g.regs.ea f.addr l)
  match x.s.decide130 x.g.key x.g.team x.k.g x.f.pc ps with
  | .wait => x.waitWalk ps
  | .trap t => .trap t
  | .go ok bad flt =>
    let s := (x.noteStores ok 1).sample x.k x.g (x.carrying ok).f.mark (x.requests 5 x.g.nextId (lineReqs (ok.map (fun p => (p.lane, p.va)))))
    let s := ok.foldl (fun s p =>
      (x.sendFlag s p.lane (paMod p.pa) none p.va p.pa p.leaf
        ((storeBytes x.g.regs z f.d.val p.lane).drop p.off |>.take p.len)).dropCopy x.k.die (lineOf p.pa)) s
    .ok (x.finishX s { (x.spent x.g 1 ok flt) with nextId := x.g.nextId + 1 } bad flt .write)

/-- ffl.b32 (spec/11 R237). -/
def execFflB32 (f : FflF) (s : State) : Out := issue (.fflB32 f) s (fun x => x.fflStore f .b32)
/-- ffl.b64 (spec/11 R237). -/
def execFflB64 (f : FflF) (s : State) : Out := issue (.fflB64 f) s (fun x => x.fflStore f .b64)

/-- Replace a flag. -/
def State.setFlag (s : State) (f : Flag) : State :=
  { s with flags := s.flags.map (fun (x : Flag) => if x.id = f.id then f else x) }

/-- A flag whose request has failed is lost (spec/11 R232). -/
def State.failFlag (s : State) (i : Nat) : State :=
  match s.flags.find? (fun f => f.id == i) with
  | none => s
  | some f =>
    let s := if f.performed && f.ba.isNone then s else { s with flags := s.flags.filter (fun x => x.id ≠ i) }
    let s := s.logErr f.key (s.errRec f.key f.team 0x06 f.va f.pc 0 f.m f.k.g)
    s.pendTeam f.team f.gidx ⟨0x0A, maskOf [f.lane], f.va, f.pc, 0⟩

/-- A store flag that its home refuses with MOVED: its request is answered; the issuer translates it again and sends it again (spec/15
R308). -/
def State.refuseFlag (s : State) (f : Flag) : State :=
  (match f.req with
    | some r => s.setReq r (fun q => { q with closed := true, reply := some .moved, performed := true })
    | none => s).setFlag { f with req := none, refused := true }
def State.resendFlag (s : State) (f : Flag) (k : GKey) : State :=
  if s.staleWait k f.key f.id f.va then s
  else match s.retry ⟨k, f.id, f.mask, maskOf [f.lane], f.pc, f.va, .write, false⟩ { s with flags := s.flags.filter (fun x => x.id ≠ f.id) }
      (s.failFlag f.id) with
  | .stop s => s
  | .go pa leaf s =>
    let f := { f with pa := pa, leafPa := leaf, m := paMod pa, refused := false }
    if f.m = k.m then s.setFlag f
    else
      let (r, s) := s.newReq k.m f.m (.flag f.id)
      s.setFlag { f with req := some r }

/-- A write that an earlier flag waits for is in place, with its GWCT and the module of its ordering point while its record stands; what
has been dropped is waited for no longer (spec/11 R238). -/
def State.inPlace (s : State) (f : Flag) (w : Nat × Nat) : Option (List (Nat × Nat)) :=
  let g := s.member? f.team f.gidx
  match w.1 with
  | 0 => if g.any (fun g => (g.sb ++ g.entering).any (fun e => e.id == w.2)) then none else some []
  | 1 => match (g.bind (fun g => g.flight? (w.2 / 32))).bind (fun fl => fl.parts[w.2 % 32]?) with
    | none => some []
    | some p =>
      if p.bytes.isNone then none
      else match s.pend.find? (fun x => match x.origin with
          | .lane k fl i => s.findGroup f.team f.gidx == some k && fl == w.2 / 32 && i == w.2 % 32
          | .entry .. | .engine .. | .flag _ | .host => false) with
        | none => some []
        | some x => if x.wait.isEmpty then some [(x.at_, x.t)] else none
  | 2 => if s.flags.any (fun x => x.id == w.2) then none else some []
  | _ => if s.unlks.any (fun u => u.id == w.2 && !u.performed) then none else some []
/-- All of them are, and the GWCT of each has passed at its ordering point. -/
def State.flagClear (s : State) (f : Flag) : Bool :=
  f.waits.all (fun w => (s.inPlace f w).any (fun ts => ts.all (fun e => e.2 == 0 || passed (s.wall e.1) e.2))) &&
  f.ts.all (fun e => e.2 == 0 || passed (s.wall e.1) e.2)

/-- FLAG_APPLY: the target applies a flag once the issuer's earlier writes to it are in place and the GWCT of each has passed at its
ordering point; a store flag also waits for an earlier acquire of its lanes (spec/11 R238, spec/09 R171). -/
def execFlagApply (i : Nat) (s : State) : Out :=
  match s.flags.find? (fun f => f.id == i) with
  | none => .next s
  | some f =>
    let there := match f.req with
      | none => true
      | some r => s.reqReady r
    let acq := f.ba.isNone && (s.member? f.team f.gidx).any (fun g => g.acqBlocks f.mask f.ord)
    if f.refused then .next (match s.findGroup f.team f.gidx with
      | some k => s.resendFlag f k
      | none => s)
    else if f.performed || !there || acq || !s.flagClear f then .next s
    else match f.ba with
      | some ba =>
        let o := s.farObj f.key f.k.die f.m ba
        let s := (if f.req.isNone then { s with flags := s.flags.filter (fun x => x.id ≠ i) }
          else s.setFlag { f with performed := true }).replyTo (.flag i) .done
        .next { s with barq := s.barq ++ [⟨o, .step true 0, .flag, (s.peer f.key f.m).getD f.key, f.team⟩] }
      | none =>
        let l := lineOf f.pa
        if s.movedLine l then .next (s.refuseFlag f)
        else match s.tryWrite f.k.m l [] ((List.range f.bytes.length).map (fun j => f.pa + j))
            (fun m => mwriteN m f.pa f.bytes) (.flag i) with
          | none => .next s
          | some (_, s) => .next ((s.countBytes f.key .group f.bytes.length).setFlag { f with performed := true }).settlePend

/-! ### Shuttles (spec/11 R239 to R242) -/

/-- The offset of step i. -/
def Regs.shtlOff (r : Regs) (b i : Nat) : Word := BitVec.ofNat 32 ((r.rdS (b + i / 2)).toNat / 2 ^ (32 * (i % 2)))

/-- shtl and shtl.t at issue: one packet per active lane; the store buffer must be empty (spec/11 R239). -/
def Iss.shuttle (x : Iss) (i : Instr) (f : ShtlF) (trap : Bool) : Res :=
  if !x.g.sb.isEmpty || !x.g.entering.isEmpty then .wait
  else
    let offs := (List.range f.nstep.val).map (fun j => x.g.regs.shtlOff f.b.val j)
    let ls := (lanesOf x.act).map (fun l => (l, x.g.regs.rdV64 f.a.val l + (offs.headD 0).signExtend 64))
    let s := x.s.sample x.k x.g x.f.mark (x.requests 6 x.g.nextId ls)
    let s := ls.foldl (fun (s : State) e =>
      let (id, s) := s.fresh
      let p : Shuttle := ⟨id, x.k, x.g.key, x.g.team, x.g.gidx, x.g.nextId, e.1, x.k.m, x.k.die.d, 0, f.nstep.val, f.stepw,
        offs, e.2, e.2, 0, 0, s.wall x.k.m + 50000, none, false⟩
      { s with shuttles := s.shuttles ++ [p] }) s
    let fl := { x.flight (.shuttle f.d.val f.c.val trap ls.length) (Instr.dests i) with ready := ls.isEmpty }
    .ok (s.setGroup x.k (((x.g.unmark x.sl)).launchFlight x.sl { x.f with mark := none } x.next f.la.val fl))

/-- shtl (spec/11 R239). -/
def execShtl (f : ShtlF) (s : State) : Out := issue (.shtl f) s (fun x => x.shuttle (.shtl f) f false)
/-- shtl.t (spec/11 R242). -/
def execShtlT (f : ShtlF) (s : State) : Out := issue (.shtlT f) s (fun x => x.shuttle (.shtlT f) f true)

/-- Traversals between two modules (spec/11 R241). -/
def traversals (a b : Nat) : Nat := if a = b then 0 else if a / 64 = b / 64 then 1 else 2

/-- The status of a trap row met by a step. -/
def shtlStatus (code : Nat) : Nat :=
  match code with
  | 0x08 => 2
  | 0x09 => 3
  | 0x0A => 4
  | _ => 7

/-- The translation of a step's address: a physical address, or the status of a stop (spec/11 R240). -/
def State.shtlXlat (s : State) (p : Shuttle) : Nat ⊕ Nat :=
  match s.peer p.key p.at_ with
  | none => .inr 1
  | some key =>
    match if p.i = 0 then s.atOnce p.k.core key p.addr else s.atOnceDie ⟨p.at_, p.die⟩ key p.addr with
    | none => .inr 1
    | some (lvl, leaf, e) =>
      if !pteRd e then .inr 2
      else match pteState e with
        | 0 | 2 => match s.physFate p.at_ (pteFrame e + p.addr.toNat % pageBytes lvl) leaf with
          | .ok pa _ => .inl pa
          | .trap c => .inr (shtlStatus c)
          | .fault .. | .wait => .inr 1
        | 5 => .inr 4
        | _ => .inr 9

/-- The address of the next step: the word, cut to the step's width, with the step's offset (spec/11 R239). -/
def Shuttle.nextAddr (p : Shuttle) (w : DWord) (i : Nat) : DWord :=
  let wd := p.widths.toNat / 2 ^ (6 * i) % 64
  (if wd = 0 then w else BitVec.ofNat 64 (w.toNat % 2 ^ wd)) + (p.offs.getD i 0).signExtend 64

/-- Replace a packet. -/
def State.setShuttle (s : State) (p : Shuttle) : State :=
  { s with shuttles := s.shuttles.map (fun (x : Shuttle) => if x.id = p.id then p else x) }

/-- The fragment of a group that holds the lanes of an outstanding instruction. -/
def State.fragOf (s : State) (k : GKey) (m : Option LaneMask) : Slot :=
  if (s.group? k).any (fun g => g.f0.any (fun f => m.any (fun m => f.mask &&& m != 0#32))) then .f0 else .f1

/-- A packet that reaches another module after its deadline there is discarded and counted (spec/11 R229, R233). -/
def State.staleShuttle (s : State) (p : Shuttle) (m : Nat) : State :=
  (s.modModule m (fun x => { x with fab := { x.fab with staletgt := min (x.fab.staletgt + 1) (2 ^ 32 - 1) } })).setShuttle
    { p with at_ := m, i := p.nstep }

/-- SHUTTLE_STEP: a packet performs a step, or stops; the last module returns its result. No step is performed while an earlier
acquire of its lanes is outstanding, nor after the packet's deadline at the module that performs it, nor before an earlier message of the
module that sends it there to the same sector (spec/09 R170, R171; spec/11 R229, R239 to R241). -/
def execShuttleStep (i : Nat) (s : State) : Out :=
  match s.shuttles.find? (fun p => p.id == i) with
  | none => .next s
  | some p =>
    let fl := (s.member? p.team p.gidx).bind (fun g => g.flight? p.fl)
    let acq := fl.any (fun f => (s.member? p.team p.gidx).any (fun g => g.acqBlocks f.own f.ord))
    if p.res.isSome || acq || !s.routed p.k.m p.at_ || p.i == p.nstep || p.deadline ≤ s.wall p.at_ + 32 then .next s
    else
      let stop (st : Nat) : Out := .next (s.setShuttle { p with res := some (p.addr, st, p.i) })
      if 24 < p.addr.toNat % 32 then stop 5
      else match s.shtlXlat p with
        | .inr st => stop st
        | .inl pa =>
          let m := paMod pa
          let hops := p.trav + traversals p.at_ m
          let l := lineOf pa
          if 12 < hops + 2 then stop 6
          else if m ≠ p.at_ ∧ s.sectorBusy p.at_ (pa / 32) then .next s
          else if m ≠ p.at_ ∧ p.deadline ≤ s.wall m + 32 then .next (s.staleShuttle p m)
          else if s.movedLine l then stop 1
          else if s.damagedAt pa 8 then stop 4
          else if s.readBlocked m l then .next s
          else
            let s := s.redFirst m l
            let w : DWord := BitVec.ofNat 64 (ofBytes (s.peekN pa 8))
            let s := s.count p.key (idxBytes .group) 8
            let (s, h) := s.noteTouch ⟨p.key, 0, 0, (fl.map (·.pc)).getD 0, p.team, p.k.g, s.fragOf p.k (fl.map (·.mask)), .group, 0⟩ p.k.c
              ((fl.map (·.hits)).getD []) [(p.addr, 8)]
            let s := s.modMember p.team p.gidx (fun g => g.modFlight p.fl (fun f => { f with hits := h }))
            let q := { p with at_ := m, die := paDie pa, trav := hops, word := w, i := p.i + 1 }
            .next (s.setShuttle (if p.i + 1 = p.nstep then { q with res := some (w, 0, 0) }
              else { q with addr := p.nextAddr w (p.i + 1) }))

/-- The writes of a lane's result (spec/11 R241). -/
def shtlWrites (d c lane : Nat) (v : DWord) (st ix : Nat) : List RegW :=
  [.v d lane (v.setWidth 32), .v (d + 1) lane ((v >>> 32).setWidth 32), .v c lane (BitVec.ofNat 32 (st + 256 * ix))]

/-- A lane's result enters its instruction. -/
def State.shtlResult (s : State) (p : Shuttle) (v : DWord) (st ix : Nat) : State :=
  s.modGroup p.k (fun g => g.modFlight p.fl (fun f => match f.kind with
    | .shuttle d c t left => { f with kind := .shuttle d c t (left - 1), writes := f.writes ++ shtlWrites d c p.lane v st ix,
                                      ready := left == 1 }
    | .value | .load .. | .atom .. | .lock .. | .bar .. | .qpop .. | .launch .. => f))

/-- SHUTTLE_RETURN: a packet's result arrives at its issuer, or the issuer fails a packet that has not returned by its
deadline (spec/11 R241). -/
def execShuttleReturn (k : GKey) (fl : Nat) (s : State) : Out :=
  let mine := s.shuttles.filter (fun p => p.k == k && p.fl == fl && !p.dead)
  let late (p : Shuttle) : Bool := passed (s.wall k.m) p.deadline
  let fail (p : Shuttle) : State :=
    let s := if p.res.isNone && 0 < p.i && p.i < p.nstep && p.at_ != k.m then s.staleShuttle p p.at_ else s
    let fl? := (s.group? k).bind (fun g => g.flight? fl)
    let s := s.dropStitches (fun y => y.lane == p.lane && fl?.any (fun f => y.of k f.ord))
    let s := (s.setShuttle { p with dead := true }).noteReqFail k.m p.key p.team p.start
      ((fl?.map (·.pc)).getD 0) (s.targetModule p.key p.start) k.g
    s.shtlResult p p.start 8 7
  match mine.find? (fun p => p.res.isSome) with
  | some p => match p.res with
    | none => .next s
    | some (v, st, ix) =>
      if late p && Config.pick s.freeCtr then .next { fail p with freeCtr := s.freeCtr + 1 }
      else .next ({ s with shuttles := s.shuttles.filter (fun x => x.id ≠ p.id), freeCtr := s.freeCtr + 1 }.shtlResult p v st ix)
  | none => match mine.find? late with
    | some p => .next (fail p)
    | none => .next s

/-! ### The wire format of collectives (spec/11 R245) -/

def wireFmt : Nat → Option Fmt
  | 1 => some .e4m3
  | 2 => some .e5m2
  | _ => none
/-- Blocks of 32 elements. -/
def blocks32 {α : Type} (xs : List α) : List (List α) := (List.range ((xs.length + 31) / 32)).map (fun b => (xs.drop (32 * b)).take 32)
/-- The stream of a slice: raw, or quantized with its own histogram. -/
def wireEncode (wf pct : Nat) (xs : List Word) : List Byte :=
  match wireFmt wf with
  | none => xs.flatMap (fun x => toBytes 4 x.toNat)
  | some fm =>
    let ns := xs.map (·.toNat)
    let c := clipExp (histAdd (List.replicate 64 0) ns) pct
    (blocks32 ns).flatMap (fun b =>
      let sx := scaleExp fm c b
      BitVec.ofInt 8 (sx + 127) :: b.map (fun x => BitVec.ofNat 8 (blockCode fm sx x)))
/-- The FP32 values of n elements of a stream. -/
def wireDecode (wf n : Nat) (bs : List Byte) : List Word :=
  match wireFmt wf with
  | none => (List.range n).map (fun i => BitVec.ofNat 32 (ofBytes ((bs.drop (4 * i)).take 4)))
  | some fm => (List.range n).map (fun i =>
    let at_ := i / 32 * 33
    let sx : Int := ((bs.getD at_ 0#8).toNat : Int) - 127
    BitVec.ofNat 32 (roundTo ((fm.val (bs.getD (at_ + 1 + i % 32) 0#8).toNat).scale sx) .f32 .rne false 0).1)

/-! ### Collectives at issue (spec/11 R243, R248) -/

/-- The bytes of the source and of the destination on a member. -/
def CollKind.srcBytes (k : CollKind) (nm n : Nat) (root : Bool) : Nat :=
  match k with
  | .ag => 4 * n
  | .bc => if root then 4 * n else 0
  | .rs | .ar => 4 * nm * n
def CollKind.dstBytes (k : CollKind) (nm n : Nat) : Nat :=
  match k with
  | .ag | .ar => 4 * nm * n
  | .rs | .bc => 4 * n

/-- The status of a collective (spec/11 R243). -/
def State.collStatus (s : State) (key : CtxKey) (k : CollKind) (src dst : DWord) (w2 : Nat) : Nat :=
  let n := w2 % 2 ^ 32
  let sg := w2 / 2 ^ 32 % 256
  let root := w2 / 2 ^ 40 % 256
  let wf := w2 / 2 ^ 59 % 8
  let ord := w2.testBit 62
  match s.descAny key sg with
  | none => 3
  | some d =>
    let ms := s.members d
    if (s.desc? key sg).isNone then 2
    else if ms.any (fun m => !s.reachable key.m m) then 1
    else
      let sb := k.srcBytes d.n n (k != .bc || root == d.k)
      let db := k.dstBytes d.n n
      let meet := decide (0 < sb) && decide (src.toNat < dst.toNat + db) && decide (dst.toNat < src.toNat + sb)
      if n = 0 || decide (2 ^ 24 < n) || decide (2 ^ 30 < db) || decide (3 ≤ wf) || w2.testBit 63 ||
        (k == .bc && decide (d.n ≤ root)) || (ord && (k == .ag || k == .bc)) ||
        (meet && !(k == .ar && src == dst)) then 4 else 0

/-- A collective word (spec/11 R243). -/
def Iss.coll (x : Iss) (i : Instr) (k : CollKind) (d p : SReg) : Res :=
  let rd (j : Nat) := x.g.regs.rdS (p.val + j)
  let w2 := (rd 2).toNat
  let sg := w2 / 2 ^ 32 % 256
  if 16 ≤ (x.s.colls.filter (fun o => o.die == x.k.die)).length ||
    4 ≤ (x.s.colls.filter (fun o => o.key == x.g.key && o.sg == sg)).length then .wait
  else match x.s.barRef x.g.team x.g.key x.k.die (rd 3) with
    | none => .trap { code := 0x07, addr := rd 3 }
    | some o =>
      let st := x.s.collStatus x.g.key k (rd 0) (rd 1) w2
      let regs := x.g.regs.wrS d.val (BitVec.ofNat 64 st)
      if st ≠ 0 then .ok (x.short (Instr.dests i) regs)
      else match x.s.desc? x.g.key sg with
        | none => .ok (x.short (Instr.dests i) regs)
        | some ds =>
          let (id, s) := x.s.fresh
          let seq := ((s.ctx? x.g.key).map (fun c => nget 0 c.collSeq sg)).getD 0
          let op : CollOp := ⟨id, k, x.k.die, x.g.key, x.g.team, x.g.gidx, x.f.pc, rd 0, rd 1, w2 % 2 ^ 32, sg,
            w2 / 2 ^ 40 % 256, w2 / 2 ^ 48 % 2 ^ 11, w2 / 2 ^ 59 % 8, w2.testBit 62, seq, o, s.members ds, ds.k,
            [], [], [], [], [], [], [], [], [], [], x.k.g, ⟨[], none, []⟩, 0, none, false⟩
          let s := s.modCtx x.g.key (fun c => { c with collSeq := nset 0 c.collSeq sg (seq + 1) })
          .ok ({ x with s := { s with colls := s.colls ++ [op] } }.short (Instr.dests i) regs)

/-- coll.ag (spec/11 R244). -/
def execCollAg (d p : SReg) (s : State) : Out := issue (.collAg d p) s (fun x => x.coll (.collAg d p) .ag d p)
/-- coll.rs (spec/11 R244). -/
def execCollRs (d p : SReg) (s : State) : Out := issue (.collRs d p) s (fun x => x.coll (.collRs d p) .rs d p)
/-- coll.ar (spec/11 R244). -/
def execCollAr (d p : SReg) (s : State) : Out := issue (.collAr d p) s (fun x => x.coll (.collAr d p) .ar d p)
/-- coll.bc (spec/11 R244). -/
def execCollBc (d p : SReg) (s : State) : Out := issue (.collBc d p) s (fun x => x.coll (.collBc d p) .bc d p)

/-! ### The collective engine (spec/11 R244 to R250) -/

/-- One read, one send or one write of an operation. -/
inductive CollAct where
  /-- Read piece i of the source. -/
  | read (i : Nat)
  /-- Send a slice to a member, in the reduce phase or the gather phase. -/
  | send (slice member : Nat) (gather : Bool)
  /-- Write piece i of the slice at a place of the destination. -/
  | write (place i : Nat)
deriving DecidableEq, Repr

/-- The pieces of the source: 32-byte ranges. -/
def CollOp.srcPieces (o : CollOp) : List (Nat × Nat) :=
  cuts32 o.src.toNat (o.kind.srcBytes o.members.length o.n (o.me == o.root))
def CollOp.place (o : CollOp) (j : Nat) : DWord := o.dst + BitVec.ofNat 64 (4 * o.n * j)
def CollOp.dstPieces (o : CollOp) (j : Nat) : List (Nat × Nat) := cuts32 (o.place j).toNat (4 * o.n)
/-- Every piece of source slice j has been read. -/
def CollOp.sliceRead (o : CollOp) (j : Nat) : Bool :=
  (o.srcPieces.zipIdx).all (fun e => !(decide (e.1.1 < 4 * o.n * (j + 1)) && decide (4 * o.n * j < e.1.1 + e.1.2)) || o.sread.contains e.2)
def CollOp.allRead (o : CollOp) : Bool := (List.range o.srcPieces.length).all (fun i => o.sread.contains i)
/-- The values of source slice j. -/
def CollOp.slice (o : CollOp) (j : Nat) : List Word :=
  (List.range o.n).map (fun i => BitVec.ofNat 32 (mnat o.sbuf (4 * (o.n * j + i)) 4))
/-- The contributions of every member have been reduced. -/
def CollOp.reduced (o : CollOp) : Bool := o.got.length == o.members.length

/-- What may be sent now, and all that is to be sent. -/
def CollOp.sends (o : CollOp) : List (Nat × Nat × Bool) :=
  let ms := List.range o.members.length
  match o.kind with
  | .ag => if o.allRead then ms.map (fun t => (o.me, t, true)) else []
  | .bc => if o.me = o.root ∧ o.allRead then ms.map (fun t => (o.root, t, true)) else []
  | .rs => (ms.filter o.sliceRead).map (fun t => (t, t, false))
  | .ar => (ms.filter o.sliceRead).map (fun t => (t, t, false)) ++ (if o.reduced then ms.map (fun t => (o.me, t, true)) else [])
def CollOp.sendCount (o : CollOp) : Nat :=
  match o.kind with
  | .ag | .rs => o.members.length
  | .ar => 2 * o.members.length
  | .bc => if o.me = o.root then o.members.length else 0
/-- How many slices the destination takes. -/
def CollOp.places (o : CollOp) : Nat :=
  match o.kind with
  | .ag | .ar => o.members.length
  | .rs | .bc => 1

/-- What the engine may do next for an operation. -/
def CollOp.acts (o : CollOp) : List CollAct :=
  let hold := o.kind == .ar && o.src == o.dst && !o.allRead
  ((List.range o.srcPieces.length).filter (fun i => !o.sread.contains i)).map .read ++
  ((o.sends.filter (fun t => !o.sent.contains t)).map (fun t => .send t.1 t.2.1 t.2.2)) ++
  (if hold then [] else o.out.flatMap (fun e =>
    ((List.range (o.dstPieces e.1).length).filter (fun i => !o.written.contains (e.1, i))).map (fun i => .write e.1 i)))

/-- All the reads, sends and writes of an operation have been performed. -/
def CollOp.finished (o : CollOp) : Bool :=
  o.allRead && o.sent.length == o.sendCount && o.out.length == o.places &&
  o.out.all (fun e => (List.range (o.dstPieces e.1).length).all (fun i => o.written.contains (e.1, i)))

/-- Replace an operation; one that is over leaves the queue. -/
def State.setColl (s : State) (o : CollOp) : State :=
  let o := { o with performed := o.finished }
  { s with colls := (s.colls.map (fun (x : CollOp) => if x.id = o.id then o else x)).filter (fun x => !s.collOver x) }
/-- An operation has met a failure. -/
def State.collFailing (s : State) (id : Nat) (c : CollCause) : State :=
  { s with colls := s.colls.map (fun (x : CollOp) =>
      if x.id = id then { x with failing := x.failing.orElse (fun _ => some c) } else x) }

/-- The core number that stands for a die's engine in records: its first core. -/
def DieKey.core (d : DieKey) : Nat := d.d * 48

/-- Who issued a collective. -/
def CollOp.issuer (o : CollOp) : Issuer := ⟨o.team, o.grp, o.pc⟩

def CollOp.who (o : CollOp) (va : DWord) : ReqWho := ⟨o.key, o.team, va, o.pc, o.grp⟩

/-- A piece of the source is read. -/
def State.collRead (s : State) (o : CollOp) (i : Nat) : State :=
  match o.srcPieces[i]? with
  | none => s
  | some (off, n) =>
    let va := o.src + BitVec.ofNat 64 off
    match s.engXlat o.key va .read o.die (DieKey.core o.die) 3 o.issuer o.note with
    | .err s => s.collFailing o.id .translation
    | .wait s note => s.setColl { o with note := note }
    | .ok pa _ =>
      let s := s.noteDieWalk o.die (s.walked o.key va)
      match s.engAsk o.key.m pa (s.servesRead o.key.m (lineOf pa)) (o.who va) o.note with
      | .failed => s.collFailing o.id .deadline
      | .wait s note => s.setColl { o with note := note }
      | .go r => match s.engRead o.key.m pa n with
      | .wait => s
      | .lost => (s.engTaken r).collFailing o.id .translation
      | .ok bs s =>
        let (s, h) := s.noteEngine o.key (DieKey.core o.die) o.issuer .coll false o.note.hits va n
        ((s.engTaken r).count o.key (idxBytes .coll) n).setColl { o with
          sread := o.sread ++ [i], sbuf := mwriteN o.sbuf off bs, note := o.note.made h (lineOf pa) }

/-- A member's module has accepted the operation of a group and sequence number. -/
def State.collAccepted (s : State) (key : CtxKey) (sg seq : Nat) : Bool :=
  ((s.ctx? key).map (fun c => decide (seq < nget 0 c.collSeq sg))).getD false

/-- The bytes that a context's staging area on a module holds, or has promised to streams on their way to operations that the module
has not accepted (spec/13 R256). -/
def State.stagingUsed (s : State) (m : Nat) (key : CtxKey) : Nat :=
  ((s.streams.filter (fun x => x.dst == m && x.key.m != m && (x.holder == some key ||
    (x.held.isNone && s.peer x.key m == some key && !s.collAccepted key x.sg x.seq)))).map (fun x => x.bytes.length)).foldl (· + ·) 0

/-- A slice is quantized once for each phase: counted, and its record kept while svdb traces the engine (spec/11 R250, spec/13 R255,
R257). -/
def State.collQuantize (s : State) (o : CollOp) (gather : Bool) (slice : Nat) (xs : List Word) (bs : List Byte) : State × CollOp :=
  match wireFmt o.wf with
  | none => (s, o)
  | some fm =>
    if o.quant.contains (gather, slice) then (s, o)
    else
      let bins := histAdd (List.replicate 64 0) (xs.map (·.toNat))
      let tot := bins.foldl (· + ·) 0
      let rec_ : CollRec := ⟨o.seq, o.sg, o.me, o.n, if tot = 0 then 0 else (min o.pct 1024 * tot + 1023) / 1024,
        clipExp bins o.pct, o.wf, o.pct, bins, bs.take 64⟩
      let s := s.count o.key (idxConv (Fmt.code .f32) (Fmt.code fm)) o.n
      let on := Config.traces .coll o.die.m o.die.d (s.wall o.die.m)
      (s.modDie o.die (fun d => { d with collRecs := if on then keepLast 16 o.key.ctx d.collRecs rec_ else d.collRecs }),
        { o with quant := o.quant ++ [(gather, slice)] })

/-- A slice is sent to a member; where the target's area is full it is held back (spec/11 R245, spec/13 R256). -/
def State.collSend (s : State) (o : CollOp) (slice t : Nat) (gather : Bool) : State :=
  let m := o.members.getD t 0
  let xs := if !gather then o.slice slice else if o.kind = .ar then o.acc else o.slice 0
  let bs := wireEncode o.wf o.pct xs
  let mk (id : Nat) (req : Option Nat) : Stream := ⟨id, o.id, m, o.key, o.sg, o.seq, o.kind, o.n, o.wf, o.ord, o.root,
    gather, slice, o.me, bs, req, none, none⟩
  if m ≠ o.key.m ∧ !s.reachable o.key.m m then s.collFailing o.id .translation
  else
    let room := m == o.key.m || (match s.peer o.key m with
      | none => true
      | some pk => s.collAccepted pk o.sg o.seq || decide (s.stagingUsed m pk + bs.length ≤ 2 ^ 22))
    if !room then s
    else
      let (s, o) := s.collQuantize o gather slice xs bs
      let (id, s) := s.fresh
      let o := { o with sent := o.sent ++ [(slice, t, gather)] }
      if m = o.key.m then { s with streams := s.streams ++ [mk id none] }.setColl o
      else
        let (r, s) := s.newReqFor o.key.m m (.stream id) (some (o.who 0))
        { s with streams := s.streams ++ [mk id (some r)] }.setColl { o with unacked := o.unacked ++ [id] }

/-- A piece of a slice is written, and its landing is due (spec/11 R247). -/
def State.collWrite (s : State) (o : CollOp) (place i : Nat) : State :=
  match o.out.find? (fun e => e.1 == place), (o.dstPieces place)[i]? with
  | some (_, xs), some (off, n) =>
    let va := o.place place + BitVec.ofNat 64 off
    match s.engXlat o.key va .write o.die (DieKey.core o.die) 3 o.issuer o.note with
    | .err s => s.collFailing o.id .translation
    | .wait s note => s.setColl { o with note := note }
    | .ok pa _ =>
      let s := s.noteDieWalk o.die (s.walked o.key va)
      let bs := ((xs.flatMap (fun x => toBytes 4 x.toNat)).drop off).take n
      match s.engAsk o.key.m pa (s.servesWrite o.key.m (lineOf pa)) (o.who va) o.note with
      | .failed => s.collFailing o.id .deadline
      | .wait s note => s.setColl { o with note := note }
      | .go r => match s.engWrite o.key.m pa bs (.engine (.coll o.die)) with
      | none => s
      | some (w, s) =>
        let (s, h) := s.noteEngine o.key (DieKey.core o.die) o.issuer .coll true o.note.hits va n
        let s := (s.engTaken r).count o.key (idxBytes .coll) n
        let s := { s with landings := s.landings ++ [Landing.mk o.ba false (-(n : Int)) (some w) 0 o.key.m false false o.key
          o.team none (some o.id)] }
        (s.setColl { o with written := o.written ++ [(place, i)], note := o.note.made h (lineOf pa) }).settlePend
  | _, _ => s

/-- The engine has taken a step of the operation. -/
def CollOp.started (o : CollOp) : Bool := !(o.sread.isEmpty && o.sent.isEmpty && o.got.isEmpty && o.out.isEmpty && o.note.sent.isEmpty)
/-- A fence that the operation's group waits at holds back its first step (spec/09 R187). -/
def State.collHeld (s : State) (o : CollOp) : Bool := !o.started && s.fenceHolds o.team o.gidx .coll o.id

/-- One step of a die's collective engine for an operation. -/
def State.engineColl (s : State) (op piece : Nat) : State :=
  match s.colls.find? (fun o => o.id == op) with
  | none => s
  | some o =>
    if o.failing.isSome || (s.die o.die).lost || s.collHeld o then s
    else match o.acts[piece]? with
      | none => s
      | some (.read i) => s.collRead o i
      | some (.send j t g) => s.collSend o j t g
      | some (.write p i) => s.collWrite o p i

/-- A canonical NaN, other values as they are (spec/11 R246). -/
def canon32 (x : Word) : Word := BitVec.ofNat 32 (roundTo (Fmt.f32.val x.toNat) .f32 .rne false 0).1
def addWords (xs ys : List Word) : List Word := List.zipWith (fun (x y : Word) => BitVec.ofNat 32 (fadd32 x.toNat y.toNat)) xs ys

/-- An owner takes a contribution: fast in the order of arrival, ordered in member order (spec/11 R246, R250). -/
def State.collReduce (s : State) (o : CollOp) (j : Nat) (xs : List Word) : State :=
  let n := o.members.length
  let o := { o with got := o.got ++ [j] }
  let (o, adds) :=
    if o.ord then
      let o := { o with staged := o.staged ++ [(j, xs)] }
      if o.got.length < n then (o, 0)
      else
        let c (i : Nat) : List Word := ((o.staged.find? (fun e => e.1 == i)).map (·.2)).getD []
        ({ o with acc := (List.range (n - 1)).foldl (fun a i => addWords a (c (i + 1))) (c 0) }, (n - 1) * o.n)
    else if o.got.length = 1 then ({ o with acc := xs }, 0)
    else ({ o with acc := addWords o.acc xs }, o.n)
  let s := s.count o.key (idxFloat .f32) adds
  if o.got.length < n then s.setColl o
  else
    let o := { o with acc := o.acc.map canon32 }
    s.setColl (if o.kind = .rs then { o with out := o.out ++ [(0, o.acc)] } else o)

/-- A stream reaches its operation: it is checked, expanded, and reduced or made ready to be written (spec/11 R245 to R248). -/
def State.collTake (s : State) (o : CollOp) (x : Stream) : State :=
  if o.failing.isSome then s
  else if x.kind ≠ o.kind ∨ x.n ≠ o.n ∨ x.wf ≠ o.wf ∨ x.ord ≠ o.ord ∨ x.root ≠ o.root then s.collFailing o.id .mismatch
  else
    let xs := wireDecode x.wf x.n x.bytes
    let s := match wireFmt x.wf with
      | some fm => s.count o.key (idxConv (Fmt.code fm) (Fmt.code .f32)) x.n
      | none => s
    if x.gatherPhase then s.setColl { o with out := o.out ++ [(if o.kind = .bc then 0 else x.slice, xs)] }
    else s.collReduce o x.from_ xs

/-- COLL_STREAM_RECEIVE: a stream arrives, or a held stream meets the operation that its module has accepted (spec/13
R256); a module without a peer context refuses it (spec/11 R249). -/
def execCollStreamReceive (i : Nat) (s : State) : Out :=
  match s.streams.find? (fun x => x.id == i) with
  | none => .next s
  | some x =>
    let there := match x.req with
      | none => true
      | some r => x.held.isSome || s.reqReady r
    if !there then .next s
    else
      let rest := { s with streams := s.streams.filter (fun y => y.id ≠ i) }
      let ack (s : State) (r : Reply) := if x.held.isSome then s else s.replyTo (.stream i) r
      match x.holder.orElse (fun _ => s.peer x.key x.dst) with
      | none => .next (ack rest .noPeer)
      | some key =>
        let taker := s.colls.find? (fun o => o.key == key && o.sg == x.sg && o.seq == x.seq)
        if !s.collAccepted key x.sg x.seq || taker.any s.collHeld then
          if x.held.isSome then .next s
          else .next (ack { rest with streams := rest.streams ++ [{ x with held := some (s.wall x.dst), holder := some key }] } .done)
        else
          let earlier := (s.streams.takeWhile (fun y => y.id != i || x.held.isNone)).any (fun y => y.id != i && y.held.isSome &&
            y.dst == x.dst && y.sg == x.sg && y.seq == x.seq && y.holder == some key)
          if earlier then .next s
          else match taker with
            | some o => .next ((ack rest .done).collTake o x)
            | none => .next (ack rest .done)

/-- The operation still lacks what a member sends it (spec/11 R244). -/
def CollOp.lacks (o : CollOp) (j : Nat) : Bool :=
  match o.kind with
  | .ag => !o.out.any (fun e => e.1 == j)
  | .bc => j == o.root && o.out.isEmpty
  | .rs => !o.got.contains j
  | .ar => !o.got.contains j || !o.out.any (fun e => e.1 == j)

/-- A collective cannot complete without the data of a member whose own operation has failed, and none of it is on its way (spec/11
R249). -/
def State.starved (s : State) (o : CollOp) (cause : CollCause) : Bool :=
  s.collLost.any (fun (key, sg, seq, j, c) => c == cause && sg == o.sg && seq == o.seq && s.peer o.key key.m == some key && o.lacks j &&
    !s.streams.any (fun x => x.key == key && x.sg == sg && x.seq == seq && x.dst == o.key.m))

/-- COLL_FAIL: a failed collective writes and lands nothing further; it is logged, and its group has a cause pending (spec/11
R249). A member that is lost fails it too, and the failure of another member whose data it cannot do without. -/
def execCollFail (op : Nat) (cause : CollCause) (s : State) : Out :=
  match s.colls.find? (fun o => o.id == op) with
  | none => .next s
  | some o =>
    let lost := cause == .lost && o.members.any (fun m => (s.module m).lost)
    if o.failing ≠ some cause ∧ !lost ∧ !s.starved o cause then .next s
    else
      let code : Nat := match cause with
        | .deadline => 0 | .lost => 1 | .noPeer => 2 | .mismatch => 3 | .translation => 4
      let s := { (s.dropAsks o.note) with
        colls := s.colls.filter (fun x => x.id ≠ op)
        landings := s.landings.filter (fun l => l.coll ≠ some op)
        collLost := s.collLost ++ [(o.key, o.sg, o.seq, o.me, cause)] }
      let s := s.logErr o.key (s.errRec o.key o.team 0x08 0 o.pc
        (BitVec.ofNat 64 (o.sg + 2 ^ 8 * code + 2 ^ 12 * (o.landed % 2 ^ 32) + 2 ^ 44 * (o.seq % 2 ^ 20))) o.key.m 0)
      .next (s.pendTeam o.team o.gidx ⟨0x17, 0, 0, o.pc, o.sg⟩)

end Sys2Proof.Machine
end

