-- ==== Sys2Proof/Machine/Shard.lean ====
section
/-! DEFINITION. Shard-state pages (spec/15 R296 to R315): the words shg, shev, shq and pgq, the shard engines' gathers and
drains, the owner's side, frame pools, the fault flush, moved tables and page walks. -/

namespace Sys2Proof.Machine

/-! ### Entries, replays, pools -/

/-- An entry as it stands at its ordering point. -/
def State.entryAt (s : State) (pa : Nat) : Nat := mnat s.mem pa 8
/-- The leaf of an address: level, entry address, entry. -/
def State.leaf? (s : State) (k : CtxKey) (va : DWord) : Option (Nat × Nat × Nat) :=
  match s.walk k va with
  | .leaf lvl pa e => some (lvl, pa, e)
  | .missing _ | .malformed _ | .outside | .lost => none
/-- The 2 MiB page of an address. -/
def pageOf (va : DWord) : Nat := va.toNat / 2 ^ 21

/-- Groups waiting for a replayable fault may execute again: those of a context that a test picks, resident or saved. -/
def State.wake (s : State) (key : CtxKey) (p : Replay → Bool) (f : Replay → Replay) : State :=
  let one (g : Group) : Group := match g.replay with
    | some r => if g.key = key ∧ p r then { g with replay := some (f r) } else g
    | none => g
  let hit (g : Group) : Bool := g.key == key && g.replay.any p
  let s := if s.groups.any (fun e => hit e.2) then
    { s with groups := s.groups.map (fun (e : GKey × Group) => (e.1, one e.2)) } else s
  s.teams.foldl (fun s e =>
    if e.2.images.any (fun i => hit i.2) then
      (s.modTeam e.1 (fun t => { t with images := t.images.map (fun (i : Nat × Group) => (i.1, one i.2)) })).makeRunnable e.1
    else s) s
def Replay.again (r : Replay) : Replay := { r with ready := true }
/-- Every group that waits on a page replays (spec/15 R296). -/
def State.wakePage (s : State) (key : CtxKey) (page : Nat) : State :=
  s.wake key (fun r => pageOf r.va == page && (match r.kind with
    | .gather | .drain | .absent | .poolEmpty => true
    | .notPresent | .movedStale => false)) Replay.again

/-- Some group or engine of the context waits on a page for a kind of fault. -/
def State.someWaits (s : State) (key : CtxKey) (page : Nat) (kind : FaultKind) : Bool :=
  let rep (g : Group) : Bool := g.key == key && g.replay.any (fun r => r.kind == kind && pageOf r.va == page && !r.ready)
  let note (n : EngNote) : Bool := n.fault.any (fun f => f.1 == kind && pageOf f.2.1 == page)
  s.groups.any (fun e => rep e.2) || s.teams.any (fun t => t.2.images.any (fun i => rep i.2)) ||
  s.cores.any (fun c => c.2.copies.any (fun o => o.key == key && note o.note) ||
    (c.1.m == key.m && c.2.tileQ.any (fun e => note e.note && ((s.tileOwner c.1).any (fun t => t.2.key == key))))) ||
  s.colls.any (fun o => o.key == key && note o.note)

/-- The first group, or the engine operation, that waits on a page: the issuer of the access that its service is for. -/
def State.firstWaiter (s : State) (key : CtxKey) (page : Nat) : Issuer :=
  let rep (g : Group) : Bool := g.key == key && g.replay.any (fun r => pageOf r.va == page && !r.ready)
  let note (n : EngNote) : Bool := n.fault.any (fun f => pageOf f.2.1 == page)
  let at_ (g : Group) (n : Nat) : Issuer := ⟨g.team, n, (g.replay.bind (fun r => (g.frag r.slot).map (fun (f : Frag) => f.pc))).getD 0⟩
  let gs := (s.groups.filter (fun e => rep e.2)).map (fun e => at_ e.2 e.1.g)
  let saved := s.teams.flatMap (fun t => (t.2.images.filter (fun i => rep i.2)).map (fun i => at_ i.2 0))
  let cps := s.cores.flatMap (fun c => (c.2.copies.filter (fun o => o.key == key && note o.note)).map CopyOp.issuer)
  let tls := s.cores.flatMap (fun c => match s.tileOwner c.1 with
    | some (tid, t) => if t.key = key then (c.2.tileQ.filter (fun e => note e.note)).map (fun e => Issuer.mk tid e.grp e.pc) else []
    | none => [])
  let cls := (s.colls.filter (fun o => o.key == key && note o.note)).map (fun o => Issuer.mk o.team o.grp o.pc)
  (gs ++ saved ++ cps ++ tls ++ cls).headD ⟨0, 0, 0⟩

/-- The frames of a context's pool that a gather holds. -/
def State.gatherFrames (s : State) (key : CtxKey) : List Nat :=
  (s.gathers.filter (fun g => g.key == key)).filterMap (fun g => g.frame)
/-- The free frames of a pool, in rising order (spec/15 R298). -/
def State.freeFrames (s : State) (key : CtxKey) : List Nat :=
  match s.ctx? key with
  | none => []
  | some c => if c.poolLost then [] else
    ((List.range c.p.poolN).map (fun i => c.p.poolBase + i * 2 ^ 21)).filter (fun f =>
      !c.frames.any (fun e => e.1 == f) && !(s.gatherFrames key).contains f)
/-- The fault that waits for a frame of a page: address, core, core group, path and access of the first group or engine operation that
waits, else those of the page's own engine (spec/15 R306). -/
def State.poolFault (s : State) (key : CtxKey) (va : DWord) (die : Nat) : DWord × Nat × Nat × Nat × AccKind :=
  let onPage (v : DWord) : Bool := pageOf v == pageOf va
  let note (core path : Nat) (n : EngNote) : Option (DWord × Nat × Nat × Nat × AccKind) :=
    n.fault.bind (fun f => if onPage f.2.1 then some (f.2.1, core, 0, path, f.2.2.2) else none)
  let groups := s.groups.findSome? (fun e => if e.2.key = key then e.2.replay.bind (fun r =>
    if onPage r.va && !r.ready then some (r.va, e.1.c, e.1.g, 0, r.acc) else none) else none)
  let copies := s.cores.findSome? (fun c => c.2.copies.findSome? (fun o => if o.key = key then note c.1.c 1 o.note else none))
  let tiles := s.cores.findSome? (fun c => if (s.tileOwner c.1).any (fun t => t.2.key == key) then
    c.2.tileQ.findSome? (fun e => note c.1.c 2 e.note) else none)
  let colls := s.colls.findSome? (fun o => if o.key = key then note (o.die.d * 48) 3 o.note else none)
  (groups.orElse fun _ => copies.orElse fun _ => tiles.orElse fun _ => colls).getD (va, die * 48, 0, 4, .read)
/-- A fault that finds the pool empty is recorded once for the 2 MiB page in each generation (spec/15 R298, R307). -/
def State.poolEmpty (s : State) (key : CtxKey) (va : DWord) (die sg : Nat) : State :=
  if (s.ctx? key).any (fun c => c.recorded.any (fun e => e.2 == 2 && e.1 / 32 == pageOf va)) then s
  else
    let x := s.poolFault key va die
    s.recordFault key x.1 x.2.1 x.2.2.1 x.2.2.2.1 (accCode x.2.2.2.2) 2 sg 0

/-! ### Engine accesses by physical address -/

/-- Read whole bytes from an address up, line by line, at one step. -/
def State.shardRead (s : State) (m pa : Nat) : Nat → EngRes
  | 0 => .ok [] s
  | n + 1 => match s.engRead m (pa + 128 * n) 128 with
    | .wait => .wait
    | .lost => .lost
    | .ok bs s => match State.shardRead s m pa n with
      | .wait => .wait
      | .lost => .lost
      | .ok cs s => .ok (cs ++ bs) s
/-- Write bytes from an address up, line by line, at one step. -/
def State.shardWrite (s : State) (m : Nat) (d : Nat) (pa : Nat) (bs : List Byte) : Nat → Option State
  | 0 => some s
  | n + 1 => match s.engWrite m (pa + 128 * n) ((bs.drop (128 * n)).take 128) (.engine (.shard ⟨m, d⟩)) with
    | none => none
    | some (_, s) => State.shardWrite s m d pa bs n

/-- A transition of an entry: a compare and swap of the whole entry at its ordering point (spec/15 R296), whose bytes count in the
context (R305): whether it took effect, the write's record, the state; none while it must wait. -/
def State.casEntry (s : State) (key : CtxKey) (d pa old new : Nat) : Option (Option Nat × State) :=
  if s.entryAt pa ≠ old then some (none, s.count key (idxBytes .shard) 8)
  else match s.engWrite key.m pa (toBytes 8 new) (.engine (.shard ⟨key.m, d⟩)) with
    | none => none
    | some (w, s) => some (some w, s.count key (idxBytes .shard) 16)
/-- The trace record of a transition. -/
def State.stateNote (s : State) (key : CtxKey) (d sg page rnd new : Nat) : State :=
  s.shardNote key ⟨key.m, d⟩ 9 key.m sg page 0 rnd false new

/-! ### The words (spec/15 R311 to R315) -/

/-- The die that homes an entry. -/
def entryDie (pa : Nat) : Nat := paDie pa

/-- The drain of a page on this module. -/
def State.drainOf (s : State) (key : CtxKey) (va : DWord) : Option Drain :=
  s.drains.find? (fun g => g.key == key && pageOf g.va == pageOf va)

/-- The group's shard operations that are still under way, and a new one. -/
def State.joinShard (s : State) (g : Group) (id : Nat) : Group :=
  { g with shOps := (g.shOps.filter (fun i => s.gathers.any (fun x => x.id == i) || s.shevs.any (fun x => x.id == i))) ++ [id] }

/-- The word as the issuer of an engine operation. -/
def Iss.issuer (x : Iss) : Issuer := ⟨x.g.team, x.k.g, x.f.pc⟩

/-- shg (spec/15 R312): a gather starts, or the one in progress is joined. -/
def execShg (a : SReg) (s : State) : Out :=
  issue (.shg a) s (fun x =>
    let va := x.g.regs.rdS a.val
    let s := x.s.noteWalk x.k.core (x.s.walked x.g.key va)
    .ok (match x.s.leaf? x.g.key va with
      | some (_, pa, e) =>
        if pteState e ≠ 1 then { x with s := s }.step x.g
        else match s.gatherOf x.g.key va with
          | some g => { x with s := s }.step (s.joinShard x.g g.id)
          | none =>
            let (id, s) := s.newGather x.g.key va pa e x.issuer
            { x with s := s }.step (s.joinShard x.g id)
      | none => { x with s := s }.step x.g))

/-- shev (spec/15 R313): an operation of the page's shard engine. -/
def execShev (a b : SReg) (s : State) : Out :=
  issue (.shev a b) s (fun x =>
    let va := x.g.regs.rdS a.val
    let ba := x.g.regs.rdS b.val
    let o := if b.val = 0 then none else x.s.barRef x.g.team x.g.key x.k.die ba
    if b.val ≠ 0 ∧ o = none then .trap { code := 0x07, addr := ba }
    else
      let die := match x.s.leaf? x.g.key va with
        | some (_, pa, _) => entryDie pa
        | none => x.k.die.d
      let (id, s) := (x.s.noteWalk x.k.core (x.s.walked x.g.key va)).fresh
      let s := { s with shevs := s.shevs ++ [⟨id, x.g.key, x.g.team, x.k.g, x.f.pc, va, die, o, none⟩] }
      .ok ({ x with s := s }.step (s.joinShard x.g id)))

/-- The result of shq (spec/15 R314). -/
def State.shqValue (s : State) (key : CtxKey) (va : DWord) : DWord :=
  match s.leaf? key va with
  | none => 0
  | some (_, _, e) =>
    let st := pteState e
    let sg := pteSgid e
    let b (x : Bool) (i : Nat) : Nat := if x then 2 ^ i else 0
    let base := sg * 2 ^ 24 + b (s.gatherOf key va).isSome 11 + b (s.drainOf key va).isSome 10 + st * 16 + 1
    BitVec.ofNat 64 (if st = 0 ∨ st = 5 then base else match s.desc? key sg with
      | none => base
      | some d => base + d.k * 2 ^ 16 + Nat.log2 d.n * 2 ^ 12 +
        (match d.page? va.toNat with
          | some i => mnat s.mem (d.rndbase + 8 * i + 4) 4 * 2 ^ 32
          | none => 0))

/-- shq (spec/15 R314). -/
def execShq (la : Fin 16) (d a : SReg) (s : State) : Out :=
  issue (.shq la d a) s (fun x =>
    let va := x.g.regs.rdS a.val
    .ok ({ x with s := x.s.noteWalk x.k.core (x.s.walked x.g.key va) }.later 14 la.val (Instr.dests (.shq la d a)) 0
      [.s d.val (x.s.shqValue x.g.key va)] 0#5))

/-- The result of pgq (spec/15 R315). -/
def State.pgqValue (s : State) (key : CtxKey) (va : DWord) : DWord :=
  match s.leaf? key va with
  | none => 0
  | some (lvl, _, e) =>
    let st := pteState e
    if st = 0 ∨ st = 2 ∨ st = 3 ∨ st = 4 then
      let b (x : Bool) (i : Nat) : Nat := if x then 2 ^ i else 0
      BitVec.ofNat 64 (2 ^ 63 + b (pteRd e) 62 + b (pteW e && st != 2 && st != 4 && !pteMig e) 61 + b (pteX e) 60 +
        b (lvl != 0) 59 + (pteFrame e + va.toNat % pageBytes lvl))
    else 0

/-- pgq (spec/15 R315). -/
def execPgq (la : Fin 16) (d a : SReg) (s : State) : Out :=
  issue (.pgq la d a) s (fun x =>
    let va := x.g.regs.rdS a.val
    .ok ({ x with s := x.s.noteWalk x.k.core (x.s.walked x.g.key va) }.later 14 la.val (Instr.dests (.pgq la d a)) 0
      [.s d.val (x.s.pgqValue x.g.key va)] 0#5))

/-! ### Gathers (spec/15 R299, R304) -/

/-- The bytes of a slice. -/
def Gather.sliceBytes (g : Gather) : Nat := 2 ^ 21 / g.n
def Gather.lines (g : Gather) : Nat := g.sliceBytes / 128
def State.setGather (s : State) (g : Gather) : State :=
  { s with gathers := s.gathers.map (fun (x : Gather) => if x.id = g.id then g else x) }
/-- The shard requests of an operation end with it. -/
def State.closeShard (s : State) (op : Nat) : State :=
  { s with reqs := s.reqs.map (fun (r : Req) => match r.payload with
      | .slReq o _ | .contrib o _ => if o = op then { r with closed := true } else r
      | .entry .. | .lane .. | .fill .. | .lock .. | .flag _ | .shuttle _ | .stream _ | .unlk _ | .engine _ => r) }
/-- A gather ends: its record goes, and the groups that wait on its page replay. -/
def State.endGather (s : State) (g : Gather) : State :=
  ({ s with gathers := s.gathers.filter (fun x => x.id ≠ g.id) }.closeShard g.id).wakePage g.key (pageOf g.va)

/-- The gathers that a die's engine runs: each has one of its 16 places, with a frame or without (spec/15 R299). -/
def State.running (s : State) (m d : Nat) : Nat :=
  (s.gathers.filter (fun g => g.key.m == m && g.die == d && g.begun)).length
/-- A fence that a group waits at holds back the shard operation that it has issued since (spec/09 R187). -/
def State.shardHeld (s : State) (id : Nat) : Bool :=
  s.groups.any (fun e => e.2.shOps.contains id && e.2.fenceHolds .shard id)

/-- No gather of the engine that may begin has waited longer for a place. -/
def State.nextGather (s : State) (g : Gather) : Bool :=
  (s.gathers.find? (fun x => x.key.m == g.key.m && x.die == g.die && !x.begun && !s.shardHeld x.id)).any (fun x => x.id == g.id)

/-- What a gather asks the owner of slice j for. -/
def Gather.ask (g : Gather) (j : Nat) : ShardMsg := ⟨g.key, g.die, g.sg, g.page, j, g.n, g.ord, g.me, 0, []⟩

/-- A gather with a place takes the free frame of the lowest address, and asks each other owner for its slice; with none it waits. -/
def State.takeFrame (s : State) (g : Gather) : State :=
  match s.freeFrames g.key with
  | [] => s.poolEmpty g.key g.va g.die g.sg
  | f :: _ =>
    let (i, s) := s.fresh
    let s := s.setGather { g with frame := some f, seq := i }
    g.members.zipIdx.foldl (fun s e => if e.2 = g.me then s else (s.newReq g.key.m e.1 (.slReq g.id (g.ask e.2))).2.shardNote g.key
      ⟨g.key.m, g.die⟩ 1 e.1 g.sg g.page e.2 0 true 0) s

/-- A gather gets a place, with the descriptor as it then stands; one that finds the page no longer Sharded, or the pool withdrawn,
ends (spec/15 R296, R297, R310). -/
def State.beginGather (s : State) (g : Gather) : State :=
  match s.leaf? g.key g.va with
  | some (_, pa, e) =>
    match s.desc? g.key (pteSgid e) with
    | none => s.endGather g
    | some d =>
      if pteState e ≠ 1 ∨ pa ≠ g.entryPa ∨ (s.ctx? g.key).any (·.poolLost) then s.endGather g
      else
        let g := { g with begun := true, sg := pteSgid e, page := (d.page? g.va.toNat).getD 0, entry := e, ord := d.ord, n := d.n,
                          me := d.k, slbase := d.slbase, members := s.members d }
        (s.setGather g).takeFrame g
  | none => s.endGather g

/-- GATHER_START: a shard engine begins the gather that has waited longest, when one of its 16 places is free; one that waits for a
frame keeps its place, and ends if the page is no longer Sharded as it read it (spec/15 R296, R299). -/
def execGatherStart (k : CtxKey) (va : DWord) (s : State) : Out :=
  match s.gatherOf k va with
  | none => .next (if s.someWaits k (pageOf va) .gather then
      (let r := s.queueGather k va (s.firstWaiter k (pageOf va))
       if (r.gatherOf k va).isNone then s.wakePage k (pageOf va) else r) else s)
  | some g =>
    if g.frame.isSome || (s.die ⟨k.m, g.die⟩).lost then .next s
    else if g.begun then .next (if s.entryAt g.entryPa ≠ g.entry then s.endGather g else s.takeFrame g)
    else if s.running k.m g.die < 16 && s.nextGather g then .next (s.beginGather g)
    else .next s

/-- Every slice is written. -/
def Gather.full (g : Gather) : Bool :=
  (List.range g.lines).all (fun i => g.lwritten.contains i) &&
  (List.range g.n).all (fun j => j == g.me || g.got.contains j)

/-- A full gather makes its entry Gathered, or is abandoned when the entry has changed (spec/15 R296, R299). -/
def State.finishGather (s : State) (g : Gather) : State :=
  match g.frame with
  | none => s
  | some f =>
    if !g.full then s
    else
      let held := s.modCtx g.key (fun c => { c with frames := c.frames ++ [(f, g.entryPa, g.va, g.sg, g.seq)] })
      match held.casEntry g.key g.die g.entryPa g.entry (pteWith g.entry 2 f) with
      | none => s
      | some (none, _) => (s.count g.key (idxBytes .shard) 8).endGather g
      | some (some _, s) => ((s.stateNote g.key g.die g.sg g.page 0 2).endGather g).settlePend

/-- A gather fails with a slice: the record, the trap of every waiting group, the frame back (spec/15 R304). -/
def State.gatherLost (s : State) (g : Gather) (j reason : Nat) : State :=
  let owner := g.members.getD j 0
  let s := s.logErr g.key (s.errRec g.key 0 0x0D g.va 0 (BitVec.ofNat 64 (j + 2 ^ 8 * owner + 2 ^ 18 * reason)) owner 0)
  let s := s.wake g.key (fun r => r.kind == .gather && pageOf r.va == pageOf g.va)
    (fun r => { r with lost := some (j, owner), ready := true })
  s.endGather g

def nakCode : NakReason → Nat
  | .noGroup => 1
  | .mismatch => 2
  | .dataLost => 3

/-- The slice that a request of a gather leaves failing, with its reason: refused, or past its deadline without data, reason 4 (spec/15
R304). -/
def Gather.failing (g : Gather) (now : Nat) (r : Req) : Option (Nat × Nat) :=
  match r.payload with
  | .slReq o x =>
    if o ≠ g.id ∨ g.got.contains x.slice then none
    else match r.reply, r.closed with
      | some (.slNak c), true => some (x.slice, nakCode c)
      | _, _ => if passed now r.deadline then some (x.slice, 4) else none
  | .entry .. | .lane .. | .fill .. | .lock .. | .flag _ | .shuttle _ | .stream _ | .contrib .. | .unlk _ | .engine _ => none

/-- A gather fails with the lowest-numbered failing slice, for that slice's reason. -/
def State.failGather (s : State) (g : Gather) : State :=
  match s.reqs.filterMap (g.failing (s.wall g.key.m)) with
  | [] => s
  | j :: js =>
    let x := js.foldl (fun a b => if b.1 < a.1 then b else a) j
    s.gatherLost g x.1 x.2

/-- A read or write of the module's own slice for a gather (spec/15 R299). -/
def State.engineGather (s : State) (op piece : Nat) : State :=
  match s.gathers.find? (fun g => g.id == op) with
  | none => s
  | some g => match g.frame with
    | none => s
    | some f =>
      if (s.die ⟨g.key.m, g.die⟩).lost then s
      else if g.full then s.finishGather g
      else if g.lines ≤ piece || g.lwritten.contains piece then s
      else
        let off := g.me * g.sliceBytes + 128 * piece
        match g.lread.find? (fun e => e.1 == piece) with
        | none => match s.engRead g.key.m (g.slbase + g.page * g.sliceBytes + 128 * piece) 128 with
          | .wait => s
          | .lost => s.gatherLost g g.me (nakCode .dataLost)
          | .ok bs s => (s.count g.key (idxBytes .shard) 128).setGather { g with lread := g.lread ++ [(piece, bs)] }
        | some (_, bs) => match s.engWrite g.key.m (f + off) bs (.engine (.shard ⟨g.key.m, g.die⟩)) with
          | none => s
          | some (_, s) =>
            let page : DWord := BitVec.ofNat 64 (pageOf g.va * 2 ^ 21 + off)
            let (s, h) := (s.count g.key (idxBytes .shard) 128).noteEngine g.key (g.die * 48) g.by_ .shard true g.note.hits page 128
            let g := { g with lwritten := g.lwritten ++ [piece], note := ⟨h, none, []⟩ }
            ((s.setGather g).settlePend).finishGather g

/-- The reply of an owner to the open request of a shard operation (spec/15 R304). -/
def State.shardReply (s : State) (r : Nat) : Option (Req × Nat × Nat × Reply) :=
  match s.req? r with
  | none => none
  | some q =>
    if q.closed || q.replies = 0 then none
    else match q.payload, q.reply with
      | .slReq op x, some rep => some (q, op, x.slice, rep)
      | .contrib op x, some rep => some (q, op, x.slice, rep)
      | _, _ => none
/-- The message of a shard request. -/
def Payload.msg : Payload → Option ShardMsg
  | .slReq _ x | .contrib _ x => some x
  | .entry .. | .lane .. | .fill .. | .lock .. | .flag _ | .shuttle _ | .stream _ | .unlk _ | .engine _ => none

/-- A shard engine sends or receives a message, of the context there (spec/16 R318). -/
def State.msgNote (s : State) (d : DieKey) (kind peer : Nat) (x : ShardMsg) (sent : Bool) : State :=
  match s.peer x.key d.m with
  | some key => s.shardNote key d kind peer x.sg x.page x.slice x.rnd sent 0
  | none => s
/-- The KIND of a reply between shard engines. -/
def replyKind : Reply → Nat
  | .slData _ => 2
  | .slNak _ => 3
  | .cnAck => 5
  | .cnFull => 6
  | .cnNak _ => 7
  | .done | .moved | .noPeer => 0
/-- The KIND of a request between shard engines. -/
def requestKind : Payload → Nat
  | .slReq .. => 1
  | .contrib .. => 4
  | .entry .. | .lane .. | .fill .. | .lock .. | .flag _ | .shuttle _ | .stream _ | .unlk _ | .engine _ => 0
/-- The engine of a shard request receives its reply, also a late one. -/
def State.noteReply (s : State) (q : Req) : State :=
  match q.payload.msg, q.reply with
  | some x, some rep => s.msgNote ⟨q.src, x.die⟩ (replyKind rep) q.dst x false
  | _, _ => s

/-- The sender takes a reply. -/
def State.takeReply (s : State) (r : Nat) : State :=
  let s := match s.req? r with
    | some q => s.noteReply q
    | none => s
  s.setReq r (fun q => { q with closed := true, replies := q.replies - 1, cached := false })

/-- SL_DATA: a slice arrives and is written at the lines' ordering points; the entry becomes Gathered when every slice is in
(spec/15 R299). -/
def execSlData (r : Nat) (s : State) : Out :=
  match s.shardReply r with
  | some (_, op, j, .slData bs) => match s.gathers.find? (fun g => g.id == op) with
    | none => .next (s.takeReply r)
    | some g => match g.frame with
      | none => .next (s.takeReply r)
      | some f => match s.shardWrite g.key.m g.die (f + j * g.sliceBytes) bs g.lines with
        | none => .next s
        | some s =>
          let va : DWord := BitVec.ofNat 64 (pageOf g.va * 2 ^ 21 + j * g.sliceBytes)
          let (s, h) := (s.count g.key (idxBytes .shard) g.sliceBytes).noteEngine g.key (g.die * 48) g.by_ .shard true g.note.hits va
            g.sliceBytes
          let g := { g with got := g.got ++ [j], note := ⟨h, none, []⟩ }
          .next (((s.takeReply r).setGather g).settlePend.finishGather g)
  | _ => .next s

/-- SL_NAK: a refusal fails the gather (spec/15 R304). -/
def execSlNak (r : Nat) (s : State) : Out :=
  match s.shardReply r with
  | some (_, op, _, .slNak _) =>
    let s := s.takeReply r
    match s.gathers.find? (fun g => g.id == op) with
    | some g => .next (s.failGather g)
    | none => .next s
  | _ => .next s

/-! ### Owners (spec/15 R301 to R303) -/

/-- The owner's slice: context, descriptor and address; or the reason of a refusal (spec/15 R303). -/
def State.ownSlice (s : State) (m : Nat) (x : ShardMsg) : Except NakReason (CtxKey × Desc × Nat) :=
  match (s.peer x.key m).filter (fun key => (s.ctx? key).any (fun c => c.torn.isNone)) with
  | none => .error .noGroup
  | some key => match s.desc? key x.sg with
    | none => .error .noGroup
    | some d =>
      let base := d.slbase + x.page * d.sliceBytes
      if d.n ≠ x.n ∨ d.ord ≠ x.ord ∨ d.npages ≤ x.page then .error .mismatch
      else if (List.range (d.sliceBytes / 4096 + 1)).any (fun i =>
          decide (4096 * i < d.sliceBytes) && s.homeLost (base + 4096 * i)) then .error .dataLost
      else .ok (key, d, base)

/-- Contributions that a shard engine has written and not yet counted. -/
def State.applyingFor (s : State) (p : Applying → Bool) : Option Applying :=
  (s.dies.flatMap (fun d => d.2.applying)).find? p

/-- No earlier message for the same slice has arrived at the owner's engine and is not yet performed, and the step of none is
still incomplete (spec/15 R301). -/
def State.shardFirst (s : State) (q : Req) (x : ShardMsg) : Bool :=
  !s.reqs.any (fun r => r.id != q.id && r.dst == q.dst && r.arrived && !r.performed && decide (r.arr < q.arr) &&
    decide (s.wall r.dst + 32 < r.deadline) &&
    r.payload.msg.any (fun y => y.sg == x.sg && y.page == x.page && s.peer y.key q.dst == s.peer x.key q.dst)) &&
  (s.applyingFor (fun a => a.sg == x.sg && a.page == x.page && s.peer x.key q.dst == some a.key)).isNone

/-- The engine that serves a message: that of the die which homes the slice's first byte; where no descriptor gives the slice's
address, that of the die whose engine asks (log entry 77). -/
def State.ownDie (s : State) (m : Nat) (x : ShardMsg) : DieKey :=
  match (s.peer x.key m).bind (fun key => s.desc? key x.sg) with
  | some d => ⟨m, paDie (d.slbase + x.page * d.sliceBytes)⟩
  | none => ⟨m, x.die⟩
/-- An owner engine has performed a message and replies. -/
def State.shardAnswer (s : State) (q : Req) (x : ShardMsg) (rep : Reply) : State :=
  let d := s.ownDie q.dst x
  ((s.msgNote d (requestKind q.payload) q.src x false).msgNote d (replyKind rep) q.src x true).reply q.id rep
/-- An owner can serve a request now: neither it nor the way back to its sender is lost (spec/15 R303). -/
def State.serves (s : State) (q : Req) (x : ShardMsg) : Bool :=
  s.reqReady q.id && s.shardFirst q x && !(s.module q.dst).lost && s.routed q.src q.dst

/-- SL_REQ: an owner engine reads a slice at its lines' ordering points and replies (spec/15 R301, R303). -/
def execSlReq (r : Nat) (s : State) : Out :=
  match s.req? r with
  | none => .next s
  | some q =>
    match q.payload with
    | .slReq _ x =>
      if !s.serves q x then .next s
      else match s.ownSlice q.dst x with
        | .error c => .next (s.shardAnswer q x (.slNak c))
        | .ok (_, d, base) => match s.shardRead q.dst base (d.sliceBytes / 128) with
          | .wait => .next s
          | .lost => .next (s.shardAnswer q x (.slNak .dataLost))
          | .ok bs s => .next ((s.count x.key (idxBytes .shard) d.sliceBytes).shardAnswer q x (.slData bs))
    | .entry .. | .lane .. | .fill .. | .lock .. | .flag _ | .shuttle _ | .stream _ | .contrib .. | .unlk _ | .engine _ => .next s

/-- The shard after a contribution: every element rounded once (spec/15 R301). -/
def addShard (old c : List Byte) : List Byte :=
  (List.range (old.length / 4)).flatMap (fun i =>
    let w (bs : List Byte) : Nat := ofBytes ((bs.drop (4 * i)).take 4)
    toBytes 4 (fadd32 (w old) (w c)))

/-- APPLIED of a page goes up (spec/15 R301). -/
def appliedBytes (mem : Memory) (a n : Nat) : List Byte := toBytes 4 ((mnat mem a 4 + n) % 2 ^ 32)

/-- What a message of n contributions to a page is to add, written by the engine of the slice's first byte. -/
def Desc.applying (d : Desc) (req : Option Nat) (key : CtxKey) (sg page base n : Nat) (by_ : CtxKey) : Applying :=
  ⟨req, key, sg, page, base, d.sliceBytes / 128, d.rndbase + 8 * page + 4, n, by_⟩
/-- The owner's engine. -/
def Applying.die (a : Applying) : DieKey := ⟨a.key.m, paDie a.base⟩
/-- Some write to the slice has not yet its GWCT in the engine's horizon. -/
def State.sliceUnsettled (s : State) (a : Applying) : Bool :=
  s.pend.any (fun p => p.origin == .engine (.shard a.die) && !p.wait.isEmpty && decide (lineOf a.base ≤ p.line) &&
    decide (p.line < lineOf a.base + a.lines))
/-- Contributions are counted in APPLIED (spec/16 R317), whose 4 bytes are read and written; none while the counter's line must wait. -/
def State.countApplied (s : State) (a : Applying) : Option State :=
  (s.engWrite a.key.m a.applied (appliedBytes s.mem a.applied a.n) (.engine (.shard a.die))).map (fun r =>
    r.2.settlePend.count a.by_ (idxBytes .shard) 8)

/-- Apply contributions to the owner's slice in their order; none while a line must wait. They are counted at once where every
write is in the engine's horizon, and later where one is not (spec/15 R301, spec/16 R317). The bytes read and written are counted
in the context that asked for it (spec/15 R305). -/
def State.applyShard (s : State) (a : Applying) (cs : List (List Byte)) : Option State :=
  match s.shardRead a.key.m a.base a.lines with
  | .wait | .lost => none
  | .ok old s => match s.shardWrite a.key.m a.die.d a.base (cs.foldl addShard old) a.lines with
    | none => none
    | some s =>
      let done := if s.sliceUnsettled a then some (s.modDie a.die (fun x => { x with applying := x.applying ++ [a] })).settlePend
        else s.countApplied a
      done.map (fun s => (s.count a.key (idxFloat .f32) (cs.length * (a.lines * 32))).count a.by_ (idxBytes .shard) (a.lines * 256))

/-- A step whose contributions wait to be counted ends once every write of it is in the engine's horizon; none before. -/
def State.endApplying (s : State) (a : Applying) : Option State :=
  if s.sliceUnsettled a || (s.die a.die).lost then none
  else (s.countApplied a).map (fun s => s.modDie a.die (fun x => { x with applying := x.applying.filter (fun b => b ≠ a) }))

/-- The second part of a CONTRIB whose contribution waits to be counted. -/
def State.endContrib (s : State) (r : Nat) : State :=
  match s.applyingFor (fun a => a.req == some r) with
  | none => s
  | some a => match s.endApplying a with
    | none => s
    | some s => match s.req? r with
      | none => s
      | some q => match q.payload.msg with
        | none => s.reply r .cnAck
        | some x => s.shardAnswer q x .cnAck

/-- CONTRIB: an owner applies a fast contribution, or stages an ordered one (spec/15 R301 to R303; spec/16 R317). -/
def execContrib (r : Nat) (s : State) : Out :=
  match s.req? r with
  | none => .next (s.endContrib r)
  | some q =>
    match q.payload with
    | .contrib _ x =>
      if !s.serves q x then .next (s.endContrib r)
      else match s.ownSlice q.dst x with
        | .error c => .next (s.shardAnswer q x (.cnNak c))
        | .ok (key, d, base) =>
          if x.ord then
            let used := ((s.contribs.filter (fun c => c.key == key)).map (fun c => c.data.length)).foldl (· + ·) 0
            let area := ((s.ctx? key).map (fun c => c.p.shardStaging * 2 ^ 20)).getD 0
            if area < used + d.sliceBytes then .next (s.shardAnswer q x .cnFull)
            else .next (State.shardAnswer ({ s with
              contribs := s.contribs ++ [Contrib.mk key x.sg x.page x.slice x.me x.rnd x.data x.key] }.count x.key (idxBytes .shard)
                d.sliceBytes) q x .cnAck)
          else
            let a := d.applying (some r) key x.sg x.page base 1 x.key
            match s.applyShard a [x.data] with
            | none => .next s
            | some s => if (s.die a.die).applying.contains a then .next s else .next (s.shardAnswer q x .cnAck)
    | .entry .. | .lane .. | .fill .. | .lock .. | .flag _ | .shuttle _ | .stream _ | .slReq .. | .unlk _ | .engine _ => .next (s.endContrib r)

/-- The second part of a round whose contributions wait to be counted. -/
def State.endRound (s : State) (k : CtxKey) (sg page : Nat) : State :=
  match s.applyingFor (fun a => a.req == none && a.key == k && a.sg == sg && a.page == page) with
  | none => s
  | some a => (s.endApplying a).getD s

/-- An SL_REQ for a slice has arrived and is not yet performed: it sees no contribution applied after its arrival (spec/15 R301). -/
def State.sliceAsked (s : State) (k : CtxKey) (sg page : Nat) : Bool :=
  s.reqs.any (fun r => r.dst == k.m && s.reqReady r.id && (match r.payload with
    | .slReq _ x => x.sg == sg && x.page == page && s.peer x.key k.m == some k
    | .entry .. | .lane .. | .fill .. | .lock .. | .flag _ | .shuttle _ | .stream _ | .contrib .. | .unlk _ | .engine _ => false))

/-- ROUND_COMMIT: an owner commits the next round once all its contributions are staged (spec/15 R301, spec/16 R317). The staged slices
are read back for their senders, the slice is read and written for the one whose contribution came last (spec/15 R305; log entry 35). -/
def execRoundCommit (k : CtxKey) (sg page slice : Nat) (s : State) : Out :=
  match s.desc? k sg with
  | none => .next (s.endRound k sg page)
  | some d =>
    let rnd := ((tget s.rounds (k, sg, page, slice)).getD 0 + 1) % 2 ^ 32
    let mine (c : Contrib) : Bool := c.key == k && c.sg == sg && c.page == page && c.slice == slice && c.rnd == rnd
    let cs := (List.range d.n).filterMap (fun j => s.contribs.find? (fun c => mine c && c.member == j))
    let a := d.applying none k sg page (d.slbase + page * d.sliceBytes) d.n (((s.contribs.filter mine).getLast?.map (·.by_)).getD k)
    if (s.applyingFor (fun b => b.key == k && b.sg == sg && b.page == page)).isSome then .next (s.endRound k sg page)
    else if cs.length ≠ d.n ∨ slice ≠ d.k ∨ s.sliceAsked k sg page = true then .next s
    else match s.applyShard a (cs.map (·.data)) with
      | none => .next s
      | some s =>
        let s := cs.foldl (fun s c => s.count c.by_ (idxBytes .shard) d.sliceBytes) s
        .next (State.shardNote { s with
          contribs := s.contribs.filter (fun c => !mine c), rounds := tset s.rounds (k, sg, page, slice) rnd }
          k a.die 8 k.m sg page slice rnd false 0)

/-! ### Drains (spec/15 R300, R302, R313) -/

def State.setDrain (s : State) (g : Drain) : State :=
  { s with drains := s.drains.map (fun (x : Drain) => if x.id = g.id then g else x) }

/-- Change a drain. -/
def State.modDrain (s : State) (id : Nat) (f : Drain → Drain) : State :=
  { s with drains := s.drains.map (fun (x : Drain) => if x.id = id then f x else x) }

/-- A shev is done: its arrival, when it has an object, is due (spec/15 R313). -/
def State.shevDone (s : State) (x : Shev) (w : Option Nat) : State :=
  let s := { s with shevs := s.shevs.filter (fun y => y.id ≠ x.id) }
  match x.obj with
  | none => s
  | some o => { s with landings := s.landings ++ [Landing.mk o true 0 w 0 x.key.m false false x.key x.team none (some x.id)] }

/-- A drain ends: its record goes, the groups that wait on its page replay, the shevs that wait for it are done. -/
def State.endDrain (s : State) (g : Drain) (w : Option Nat) : State :=
  let s := ({ s with drains := s.drains.filter (fun x => x.id ≠ g.id) }.closeShard g.id).wakePage g.key (pageOf g.va)
  (s.shevs.filter (fun x => x.on == some g.id)).foldl (fun s x => s.shevDone x w) s

/-- Mark a Partial page Draining and open its drain; none while it must wait (spec/15 R300, R301). -/
def State.startDrain (s : State) (key : CtxKey) (va : DWord) (pa e : Nat) (d : Desc) (by_ : Issuer) : Option State :=
  match d.page? va.toNat with
  | none => none
  | some page =>
    let die := entryDie pa
    let new := pteWith e 4 (pteFrame e)
    match s.casEntry key die pa e new with
    | none | some (none, _) => none
    | some (some _, s) =>
      let a := d.rndbase + 8 * page
      let rnd := (mnat s.mem a 4 + 1) % 2 ^ 32
      let s' := if d.ord then (s.engWrite key.m a (toBytes 4 rnd) (.engine (.shard (DieKey.mk key.m die)))).map (fun r =>
        r.2.count key (idxBytes .shard) 8) else some s
      match s' with
      | none => none
      | some s =>
        let (id, s) := s.fresh
        let g : Drain := ⟨id, key, die, va, pteSgid e, page, pa, new, pteFrame e, d.n, d.k, d.ord, if d.ord then rnd else 0,
          s.members d, [], [], [], by_, ⟨[], none, []⟩⟩
        some (State.settlePend { s.stateNote key die g.sg page g.rnd 4 with drains := s.drains ++ [g] })

/-- DRAIN_START: a shev finds the page Partial, and its engine starts a drain (spec/15 R300, R313). -/
def execDrainStart (k : CtxKey) (va : DWord) (s : State) : Out :=
  let mine (x : Shev) : Bool := x.key == k && pageOf x.va == pageOf va && x.on.isNone && !s.shardHeld x.id
  if !s.shevs.any mine then .next s
  else match s.leaf? k va with
    | some (_, pa, e) =>
      if pteState e ≠ 3 then .next s
      else match s.desc? k (pteSgid e) with
        | none => .next s
        | some d => match s.startDrain k va pa e d (((s.shevs.find? mine).map (fun x => ⟨x.team, x.grp, x.pc⟩)).getD ⟨0, 0, 0⟩) with
          | none => .next s
          | some s => .next { s with shevs := s.shevs.map (fun (x : Shev) =>
              if mine x then { x with on := (s.drainOf k va).map (·.id) } else x) }
    | none => .next s

/-- A Gathered page is released: Sharded, no frame (spec/15 R298, R313). -/
def State.release (s : State) (key : CtxKey) (va : DWord) (pa e : Nat) : Option (Option Nat × State) :=
  (s.casEntry key (entryDie pa) pa e (pteWith e 1 0)).map (fun r => (r.1,
    if r.1.isSome then r.2.stateNote key (entryDie pa) (pteSgid e) (s.shardPage key (pteSgid e) va) 0 1 else r.2))

/-- The engine acts on a shev: a Gathered page is released, a drain in progress is joined, a gather in progress completes
first, a Partial page waits for DRAIN_START, and any other entry needs nothing (spec/15 R313). -/
def State.engineShev (s : State) (x : Shev) : State :=
  if s.shardHeld x.id then s else
  match x.on with
  | some _ => s
  | none => match s.leaf? x.key x.va with
    | none => s.shevDone x none
    | some (_, pa, e) => match pteState e with
      | 1 => if (s.gatherOf x.key x.va).isSome then s else s.shevDone x none
      | 2 => match s.release x.key x.va pa e with
        | none | some (none, _) => s
        | some (some w, s) => (s.shevDone x (some w)).settlePend
      | 3 => s
      | 4 => match s.drainOf x.key x.va with
        | some g => { s with shevs := s.shevs.map (fun (y : Shev) => if y.id = x.id then { y with on := some g.id } else y) }
        | none => s.shevDone x none
      | _ => s.shevDone x none

def Drain.sliceBytes (g : Drain) : Nat := 2 ^ 21 / g.n

/-- When every contribution is acknowledged or dropped, the page becomes Absent and the frame returns (spec/15 R300). -/
def State.finishDrain (s : State) (g : Drain) : State :=
  if !(List.range g.n).all (fun j => g.acked.contains j) then s
  else match s.casEntry g.key g.die g.entryPa g.entry (pteWith g.entry 6 0) with
    | none => s
    | some (none, s) => s.endDrain g none
    | some (some w, s) => ((s.stateNote g.key g.die g.sg g.page g.rnd 6).endDrain g (some w)).settlePend

/-- A contribution of a drain is done with: acknowledged, or dropped. -/
def State.contribDone (s : State) (op j : Nat) : State :=
  match s.drains.find? (fun g => g.id == op) with
  | none => s
  | some g =>
    let g := { g with acked := g.acked ++ [j] }
    (s.setDrain g).finishDrain g

/-- A contribution that is dropped is counted and logged (spec/15 R304). -/
def State.noteDropped (s : State) (g : Drain) (j : Nat) : State :=
  let owner := g.members.getD j 0
  (s.count g.key 0x6001 1).logErr g.key (s.errRec g.key 0 0x0E g.va 0 (BitVec.ofNat 64 (j + 2 ^ 8 * owner)) owner 0)
/-- A contribution is dropped: it is done with (spec/15 R304). -/
def State.dropContrib (s : State) (op j : Nat) : State :=
  match s.drains.find? (fun g => g.id == op) with
  | none => s
  | some g => (s.noteDropped g j).contribDone op j

/-- The contribution of a drain to slice j. -/
def Drain.ask (g : Drain) (j : Nat) (bs : List Byte) : ShardMsg := ⟨g.key, g.die, g.sg, g.page, j, g.n, g.ord, g.me, g.rnd, bs⟩

/-- One step of a drain: slice j is read and sent to its owner (spec/15 R300). -/
def State.engineDrain (s : State) (op piece : Nat) : State :=
  match s.shevs.find? (fun x => x.id == op) with
  | some x => s.engineShev x
  | none => match s.drains.find? (fun g => g.id == op) with
    | none => s
    | some g =>
      if (s.die ⟨g.key.m, g.die⟩).lost then s
      else if (List.range g.n).all (fun j => g.acked.contains j) then s.finishDrain g
      else if g.n ≤ piece || g.slices.any (fun e => e.1 == piece) then s
      else
        let n := g.sliceBytes
        match s.shardRead g.key.m (g.frame + piece * n) (n / 128) with
        | .wait => s
        | .lost => (s.setDrain { g with slices := g.slices ++ [(piece, [])] }).dropContrib op piece
        | .ok bs s =>
          let va : DWord := BitVec.ofNat 64 (pageOf g.va * 2 ^ 21 + piece * n)
          let (s, h) := (s.count g.key (idxBytes .shard) n).noteEngine g.key (g.die * 48) g.by_ .shard false g.note.hits va n
          let s := s.setDrain { g with slices := g.slices ++ [(piece, bs)], note := ⟨h, none, []⟩ }
          (s.newReq g.key.m (g.members.getD piece 0) (.contrib g.id (g.ask piece bs))).2.shardNote g.key ⟨g.key.m, g.die⟩ 4 (g.members.getD piece 0)
            g.sg g.page piece g.rnd true 0

/-- CN_ACK: an acknowledgement reaches the draining engine (spec/15 R300). -/
def execCnAck (r : Nat) (s : State) : Out :=
  match s.shardReply r with
  | some (_, op, j, .cnAck) => .next ((s.takeReply r).contribDone op j)
  | _ => .next s
/-- CN_FULL: an ordered contribution is to be sent again 10 µs later (spec/15 R302). -/
def execCnFull (r : Nat) (s : State) : Out :=
  match s.shardReply r with
  | some (q, op, j, .cnFull) =>
    let s := s.takeReply r
    match s.drains.find? (fun g => g.id == op) with
    | none => .next s
    | some g => .next (s.setDrain { g with retry := g.retry ++ [(j, s.wall q.src + 10000)] })
  | _ => .next s
/-- CN_NAK: a refused contribution is dropped (spec/15 R304). -/
def execCnNak (r : Nat) (s : State) : Out :=
  match s.shardReply r with
  | some (_, op, j, .cnNak _) => .next ((s.takeReply r).dropContrib op j)
  | _ => .next s
/-- CONTRIB_RESEND: 10 µs after a CN_FULL refusal the contribution goes as a new request (spec/15 R302). -/
def execContribResend (r : Nat) (s : State) : Out :=
  match s.req? r with
  | none => .next s
  | some q => match q.payload with
    | .contrib op x => match s.drains.find? (fun g => g.id == op) with
      | none => .next s
      | some g => match g.retry.find? (fun e => e.1 == x.slice) with
        | none => .next s
        | some e =>
          if q.reply = some .cnFull ∧ q.closed ∧ e.2 ≤ s.wall q.src then
            .next ((((s.setDrain { g with retry := g.retry.filter (fun y => y.1 ≠ x.slice) }).setReq r (fun q =>
              { q with reply := some .done })).newReq q.src q.dst (.contrib op x)).2.shardNote g.key ⟨q.src, g.die⟩ 4 q.dst g.sg g.page
                x.slice g.rnd true 0)
          else .next s
    | .entry .. | .lane .. | .fill .. | .lock .. | .flag _ | .shuttle _ | .stream _ | .slReq .. | .unlk _ | .engine _ => .next s

/-! ### The pool (spec/15 R298) -/

/-- ABSENT_ALLOCATE: an Absent fault takes a frame, zeroes it, and writes the entry Partial; while the entry must wait none is taken. -/
def execAbsentAllocate (k : CtxKey) (va : DWord) (s : State) : Out :=
  if !s.someWaits k (pageOf va) .absent then .next s
  else match s.leaf? k va with
    | some (_, pa, e) =>
      if pteState e ≠ 6 ∨ (s.ctx? k).any (·.poolLost) then .next (s.wakePage k (pageOf va))
      else
        let die := entryDie pa
        match s.freeFrames k with
        | [] => .next (s.poolEmpty k va die (pteSgid e))
        | f :: _ => match s.shardWrite k.m die f (List.replicate (2 ^ 21) 0#8) (2 ^ 14) with
          | none => .next s
          | some t =>
            let (i, s') := (t.count k (idxBytes .shard) (2 ^ 21)).fresh
            let s' := (s'.noteEngine k (die * 48) (s.firstWaiter k (pageOf va)) .shard true [] (BitVec.ofNat 64 (pageOf va * 2 ^ 21)) (2 ^ 21)).1
            let s' := s'.modCtx k (fun c => { c with frames := c.frames ++ [(f, pa, va, pteSgid e, i)] })
            match s'.casEntry k die pa e (pteWith e 3 f) with
            | none | some (none, _) => .next s
            | some (some _, s) => .next (((s.stateNote k die (pteSgid e) (s.shardPage k (pteSgid e) va) 0 3).wakePage k (pageOf va)).settlePend)
    | none => .next (s.wakePage k (pageOf va))

/-- The page, of those whose frame was handed out first, that the pressure rule may choose: frame, entry, address; none with a gather
under way, Draining, or of a group with ORD = 1 (spec/15 R298). -/
def State.pressurePage (s : State) (k : CtxKey) (c : Context) : Option (Nat × Nat × DWord) :=
  let may := c.frames.filter (fun f =>
    let e := s.entryAt f.2.1
    !c.returning.contains f.1 && (s.gatherOf k f.2.2.1).isNone && (pteState e == 2 || pteState e == 3) &&
    (s.desc? k (pteSgid e)).any (fun d => !d.ord))
  (may.find? (fun f => may.all (fun g => decide (f.2.2.2.2 ≤ g.2.2.2.2)))).map (fun f => (f.1, f.2.1, f.2.2.1))

/-- One entry that holds a frame of a withdrawn pool becomes Orphaned (spec/15 R310); an entry that a lost die homes reads as lost
anyway. -/
def State.orphanOne (s : State) (k : CtxKey) (c : Context) : State :=
  match c.frames.find? (fun f =>
    let e := s.entryAt f.2.1
    pteV e && pteLeaf e && (pteState e == 2 || pteState e == 3 || pteState e == 4) && pteFrame e == f.1 && !s.homeLost f.2.1) with
  | none => s
  | some f =>
    let e := s.entryAt f.2.1
    match s.casEntry k (entryDie f.2.1) f.2.1 e (pteWith e 5 (pteFrame e)) with
    | none | some (none, _) => s
    | some (some _, s) => ((s.stateNote k (entryDie f.2.1) (pteSgid e) (s.shardPage k (pteSgid e) f.2.2.1) 0 5).wakePage k
        (pageOf f.2.2.1)).settlePend

/-- POOL_PRESSURE: below LOWAT free frames the oldest Gathered or Partial page is released or drained; of a pool that is withdrawn, the
engines make an entry Orphaned (spec/15 R298, R310). -/
def execPoolPressure (k : CtxKey) (s : State) : Out :=
  match s.ctx? k with
  | none => .next s
  | some c =>
    if c.poolLost then .next (s.orphanOne k c)
    else if c.p.lowat ≤ (s.freeFrames k).length then .next s
    else match s.pressurePage k c with
      | none => .next s
      | some (_, pa, va) =>
        let e := s.entryAt pa
        if pteState e = 2 then match s.release k va pa e with
          | none | some (none, _) => .next s
          | some (some _, s) => .next s.settlePend
        else match s.desc? k (pteSgid e) with
          | none => .next s
          | some d => match s.startDrain k va pa e d ⟨0, 0, 0⟩ with
            | none => .next s
            | some s => .next s

/-- FRAME_RETURN: a frame that its entry has left becomes free once its leases have passed and no line of it is pinned or
locked. -/
def execFrameReturn (k : CtxKey) (frame : Nat) (s : State) : Out :=
  match s.ctx? k with
  | none => .next s
  | some c =>
    let inside (l : Nat) : Bool := decide (frame ≤ l * 128) && decide (l * 128 < frame + 2 ^ 21)
    if !c.returning.contains frame ||
      s.lines.any (fun e => inside e.1 && (e.2.lock.isSome || !(e.2.lease == 0 || passed (s.wall k.m) e.2.lease))) ||
      s.cores.any (fun x => x.2.pins.any inside) then .next s
    else .next (s.setCtx k { c with frames := c.frames.filter (fun f => f.1 ≠ frame)
                                    returning := c.returning.filter (fun f => f ≠ frame) })

/-! ### The fault buffer, moved tables, walks -/

/-- FAULT_FLUSH: the generation advances, old records are discarded, and everything that waits on a recorded fault replays
(spec/15 R307). It is asked for by FLUSH = 1 in the block. -/
def execFaultFlush (m : Nat) (s : State) : Out :=
  let b := s.fbBlock m
  if !(mnat s.mem (b + 0x18) 8).testBit 8 then .next s
  else
    let md := s.module m
    let put := md.fb.put
    let get := s.fbGet m
    let mem := (List.range (put - get)).foldl (fun mem i =>
      let a := s.fbRing m + 32 * ((get + i) % 4096)
      if (mread mem a).getLsbD 0 && mread mem (a + 19) != md.fb.gen + 1 then mwrite mem a (mread mem a &&& 0xFE#8) else mem) s.mem
    let mem := mwriteN (mwriteN mem (b + 0x10) (toBytes 8 put)) (b + 0x18) (toBytes 8 0)
    let s := ({ s with mem := mem }.setModule m { md with fb := { md.fb with gen := md.fb.gen + 1 } }).syncFb m
    let old := s.ctxs
    let s := { s with ctxs := s.ctxs.map (fun (c : CtxKey × Context) => if c.1.m = m then (c.1, { c.2 with recorded := [], stale := [] }) else c) }
    .next (old.foldl (fun s c => if c.1.m ≠ m then s else
      s.wake c.1 (fun r => match r.kind with
        | .notPresent | .movedStale | .poolEmpty => true
        | .gather | .absent => c.2.recorded.any (fun e => e.2 == 2 && e.1 / 32 == pageOf r.va)
        | .drain => false) Replay.again) s)

/-- MOVED_ENTRY_EXPIRE: a moved entry frees itself 100 µs after the switch (spec/15 R308). -/
def execMovedEntryExpire (m frame : Nat) (s : State) : Out :=
  .next (s.modModule m (fun x => { x with moved := x.moved.filter (fun e => !(e.1 == frame && decide (e.2.2 ≤ x.wall.toNat))) }))

/-- An access of a group or engine of a die still needs the translation of an address: the word at a PC, a lane of an outstanding
instruction, a store in a buffer, a fault that is waited for. -/
def State.needs (s : State) (d : DieKey) (k : CtxKey) (va : DWord) : Bool :=
  let page (v : DWord) : Bool := v.toNat / 2 ^ 16 == va.toNat / 2 ^ 16
  let note (n : EngNote) : Bool := n.fault.any (fun f => page f.2.1)
  s.groups.any (fun e => e.2.key == k && e.1.die == d && (e.2.f0.any (fun f => page f.pc) || e.2.f1.any (fun f => page f.pc) ||
    e.2.replay.any (fun r => page r.va) || e.2.flights.any (fun f => f.parts.any (fun p => p.space == .global && page p.va)) ||
    e.2.sb.any (fun x => page x.va))) ||
  s.cores.any (fun c => c.1.die == d && c.2.copies.any (fun o => o.key == k && note o.note)) ||
  s.colls.any (fun o => o.key == k && o.die == d && note o.note)

/-- PAGE_WALK: the walk of an address that an access of the die needs ends with a leaf, a not-present fault or a malformed result;
the entries it has read stay in the die's walker cache. The fault or the trap is the access's own, which records it when it meets it
(spec/15 R293, R295; spec/17 R319; log entry 78). -/
def execPageWalk (d : DieKey) (k : CtxKey) (va : DWord) (kind : AccKind) (s : State) : Out :=
  if d.m ≠ k.m ∨ (s.die d).lost = true ∨ s.needs d k va = false then .next s
  else match kind with
    | .read | .write | .fetch => .next (s.noteDieWalk d (s.walked k va))

/-! ### The engines of R169 -/

/-- ENGINE: an engine performs one read or write of one of its operations (spec/09 R169). -/
def execEngine (e : EngRef) (piece : Nat) (s : State) : Out :=
  match e with
  | .copy k op => .next (s.engineCopy k op piece)
  | .tile k => .next (s.engineTile k piece)
  | .coll op => .next (s.engineColl op piece)
  | .gather op => .next (s.engineGather op piece)
  | .drain op => .next (s.engineDrain op piece)

end Sys2Proof.Machine
end

