-- ==== Sys2Proof/Machine/Requests.lean ====
section
/-! DEFINITION. Requests on the fabric (spec/09 R170; spec/11 R229 to R233): DELIVER, REQUEST_RESEND, REQUEST_FAIL,
LATE_REPLY, RESPONSE_CACHE_ENTRY_EXPIRY. -/

namespace Sys2Proof.Machine

/-- Add 1 to an end-to-end counter of a module, saturating (spec/11 R233). -/
def State.fab (s : State) (m : Nat) (f : FabCtr → FabCtr) : State := s.modModule m (fun x => { x with fab := f x.fab })
def sat32 (n : Nat) : Nat := min (n + 1) (2 ^ 32 - 1)

/-- A duplicate of the request is served again (spec/15 R304). -/
def Payload.again : Payload → Bool
  | .slReq .. => true
  | .entry .. | .lane .. | .fill .. | .lock .. | .flag _ | .shuttle _ | .stream _ | .contrib .. | .unlk _ | .engine _ => false

/-- A copy of a request arrives at its target: the first is taken unless its deadline is past; a duplicate is dropped, or
answered again (spec/11 R229, R231). -/
def State.arrive (s : State) (q : Req) : State :=
  let s := s.setReq q.id (fun r => { r with inFlight := r.inFlight - 1 })
  if !s.routed q.src q.dst then s
  else if q.arrived then
    if q.performed && q.payload.cachedKind then
      if q.cached then (s.setReq q.id (fun r => { r with replies := r.replies + 1 })).fab q.dst (fun c => { c with dupcache := sat32 c.dupcache })
      else s.fab q.dst (fun c => { c with dupdrop := sat32 c.dupdrop })
    else
      let s := s.fab q.dst (fun c => { c with dupdrop := sat32 c.dupdrop })
      if q.payload.again && q.performed && !q.closed then
        { s.setReq q.id (fun r => { r with performed := false, arr := s.nextId }) with nextId := s.nextId + 1 }
      else if q.reply.isSome then s.setReq q.id (fun r => { r with replies := r.replies + 1 }) else s
  else if decide (s.wall q.dst + 32 < q.deadline) then
    { s.setReq q.id (fun r => { r with arrived := true, arr := s.nextId }) with nextId := s.nextId + 1 }
  else s.fab q.dst (fun c => { c with staletgt := sat32 c.staletgt })

/-- The sender takes the reply of a request it waits for (spec/11 R230, R231). -/
def State.replied (s : State) (q : Req) : State :=
  let s := s.setReq q.id (fun r => { r with closed := true, cached := false, replies := r.replies - 1 })
  match q.payload, q.reply with
  | .entry k e, some .moved => s.setEntry k e .moved
  | .lane k fl i, some .moved => s.modGroup k (fun g => g.refuse fl [i])
  | .flag i, _ => { s with flags := s.flags.filter (fun f => !(f.id == i && f.ba.isSome)) }
  | .unlk i, _ => { s with unlks := s.unlks.filter (fun u => u.id ≠ i) }
  | .stream i, some r =>
    match s.colls.find? (fun o => o.unacked.contains i) with
    | none => s
    | some o => if r = .noPeer then s.collFailing o.id .noPeer else s.setColl { o with unacked := o.unacked.filter (fun x => x ≠ i) }
  | _, _ => s

/-- Shard replies are taken by steps of their own (spec/15 R304). -/
def Payload.shard : Payload → Bool
  | .slReq .. | .contrib .. => true
  | .entry .. | .lane .. | .fill .. | .lock .. | .flag _ | .shuttle _ | .stream _ | .unlk _ | .engine _ => false

/-- DELIVER: a fabric channel delivers one message of a request: a copy of it to the target, or a reply to the sender (spec/09
R170). -/
def execDeliver (r : Nat) (s : State) : Out :=
  match s.req? r with
  | none => .next s
  | some q =>
    let back := decide (0 < q.replies) && !q.closed && !q.payload.shard
    if 0 < q.inFlight ∧ (!back ∨ Config.pick s.freeCtr) then
      if s.behind q then .next s else .next { s.arrive q with freeCtr := s.freeCtr + 1 }
    else if back then .next { s.replied q with freeCtr := s.freeCtr + 1 }
    else .next s

/-- REQUEST_RESEND: at 10, 20, 30 and 40 µs the sender sends an unanswered request again; one that has waited for the target's
window is sent for the first time (spec/11 R229, R231). -/
def execRequestResend (r : Nat) (s : State) : Out :=
  match s.req? r with
  | none => .next s
  | some q =>
    if q.sends = 0 then
      .next (if q.closed || s.ahead q.src q.dst q.seq then s else s.setReq r (fun q => { q with
        sends := 1, inFlight := 1, sentAt := s.wall q.src, deadline := s.wall q.src + 50000 }))
    else if q.closed || 4 < q.sends || s.wall q.src < q.sentAt + 10000 * q.sends then .next s
    else .next ((s.setReq r (fun q => { q with sends := q.sends + 1, inFlight := q.inFlight + 1 })).fab q.src
      (fun c => { c with resent := sat32 c.resent }))

/-- A line whose fill has failed: the lanes that wait for it lose it; its eyelets are struck and the copy dropped (spec/11
R232). -/
def State.failFill (s : State) (k : GKey) (l : Nat) : State :=
  match s.group? k with
  | none => s
  | some g =>
    let s := g.flights.foldl (fun s f =>
      let mine (p : Part) : Bool := p.space == .global && p.bytes.isNone && lineOf p.addr == l
      let isLoad := match f.kind with
        | .load .. | .launch .. => true
        | .value | .atom .. | .lock .. | .bar .. | .qpop .. | .shuttle .. => false
      if isLoad && f.parts.any mine then
        s.loseLanes k f.id (maskOf ((f.parts.filter mine).map (·.lane))) (((f.parts.find? mine).map (·.va)).getD 0)
      else s) s
    let ys := (s.core k.core).eyelets.filter (fun y => y.pa == l && y.grp == k.g)
    if ys.isEmpty then s
    else ys.foldl (fun s y => s.freeEyelet k.core y true) { s with copies := terase s.copies (k.die, l) }

/-- A store-buffer entry whose request has failed: it may have been performed; an acknowledged one lands nothing (spec/11
R232). -/
def State.failEntry (s : State) (k : GKey) (x : SbEntry) : State :=
  let s := match x.st with
    | .performed w => match s.gwctOf? w with
      | some _ => match s.group? k with
        | some g => s.writeInPlace g.team g.gidx 0 x.id (s.pend.filter (fun p => p.id == w))
        | none => s
      | none => s
    | .queued | .sent _ | .moved | .acked _ => s
  match x.op with
  | .ack .. =>
    let s := s.modGroup k (fun g => { g with sb := g.sb.filter (fun y => y.id ≠ x.id) }.fillSb)
    let s := s.lateLost k x.mask x.va x.pc
    s.tryEnd (((s.group? k).map (·.team)).getD 0)
  | .bytes _ | .red .. => s.dropEntry k x

/-- An unlk whose request has failed is dropped, counted and logged; it may have been performed (spec/11 R232). -/
def State.failUnlk (s : State) (i : Nat) : State :=
  match s.unlks.find? (fun u => u.id == i) with
  | none => s
  | some u =>
    let s := if u.performed then { s with unlks := s.unlks.filter (fun x => x.id ≠ i) } else s
    let s := (s.count u.key 0x6000 1).logErr u.key (s.errRec u.key u.team 0x0F (BitVec.ofNat 64 (u.line * 128)) u.pc 0 u.k.m u.k.g)
    s.pendTeam u.team u.gidx ⟨0x0A, u.mask, u.va, u.pc, 0⟩

/-- The samples that a failed request carries (spec/18 R327). -/
def State.reqStitch (s : State) (p : Payload) (y : Stitch) : Bool :=
  match p with
  | .entry k e => y.of k e
  | .lane k fl i => ((s.group? k).bind (fun g => g.flight? fl)).any (fun x => x.parts[i]?.any (fun p => y.asks k x p))
  | .lock k fl => ((s.group? k).bind (fun g => g.flight? fl)).any (fun x => y.of k x.ord)
  | .fill k l => (s.group? k).any (fun g => g.flights.any (fun f => f.parts.any (fun p =>
      p.bytes.isNone && lineOf p.addr == l && y.asks k f p))) ||
      (y.core == k.core && y.grp == k.g && (s.core k.core).eyelets.any (fun e => e.pa == l && y.eyelet e))
  | .flag i => (s.flags.find? (fun f => f.id == i)).any (fun f => y.of f.k f.ord && f.lane == y.lane)
  | .unlk i => (s.unlks.find? (fun u => u.id == i)).any (fun u => y.of u.k u.ord)
  | .shuttle _ | .stream _ | .slReq .. | .contrib .. | .engine _ => false

/-- REQUEST_FAIL: a request whose deadline has passed without a reply fails with its fate, and its failure is recorded; one that waited
at its target has been discarded there (spec/11 R229, R232, R233). -/
def execRequestFail (r : Nat) (s : State) : Out :=
  match s.req? r with
  | none => .next s
  | some q =>
    if q.closed || q.sends == 0 || !passed (s.wall q.src) q.deadline then .next s
    else
      let s := match q.who with
        | some w => s.noteReqFail q.src w.key w.team w.addr w.pc q.dst w.grp
        | none => s.fab q.src (fun c => { c with reqfail := sat32 c.reqfail })
      let s := if q.arrived && !q.performed then s.fab q.dst (fun c => { c with staletgt := sat32 c.staletgt }) else s
      let s := s.setReq r (fun q => { q with closed := true, failed := true })
      let s := s.dropStitches (s.reqStitch q.payload)
      .next (match q.payload with
        | .entry k e => match (s.group? k).bind (fun g => g.entry? e) with
          | some x => s.failEntry k x
          | none => s
        | .lane k fl i => match (s.group? k).bind (fun g => (g.flight? fl).bind (fun f => f.parts[i]?)) with
          | some p => s.loseLanes k fl (maskOf [p.lane]) p.va
          | none => s
        | .fill k l => s.failFill k l
        | .lock k fl => s.failLock k fl
        | .flag i => s.failFlag i
        | .unlk i => s.failUnlk i
        | .shuttle _ | .engine _ => s
        | .stream i => match s.streams.find? (fun x => x.id == i) with
          | some x => ({ s with streams := s.streams.filter (fun y => y.id ≠ i || y.held.isSome) }).collFailing x.op .deadline
          | none => match s.colls.find? (fun o => o.unacked.contains i) with
            | some o => s.collFailing o.id .deadline
            | none => s
        | .slReq op _ => match s.gathers.find? (fun g => g.id == op) with
          | some g => s.failGather g
          | none => s
        | .contrib op x => s.dropContrib op x.slice)

/-- LATE_REPLY: a reply whose tag awaits none is discarded and counted (spec/11 R230, R241). -/
def execLateReply (r : Nat) (s : State) : Out :=
  match s.req? r with
  | some q =>
    if q.closed && 0 < q.replies then
      .next (((s.noteReply q).setReq r (fun q => { q with replies := q.replies - 1 })).fab q.src (fun c => { c with latereply := sat32 c.latereply }))
    else .next s
  | none => match s.shuttles.find? (fun p => p.id == r && p.dead && p.res.isSome) with
    | some p => .next (State.fab { s with shuttles := s.shuttles.filter (fun x => x.id ≠ r) } p.k.m
        (fun c => { c with latereply := sat32 c.latereply }))
    | none => .next s

/-- RESPONSE_CACHE_ENTRY_EXPIRY: a cache entry is freed when the request's deadline passes (spec/11 R231). -/
def execResponseCacheEntryExpiry (r : Nat) (s : State) : Out :=
  match s.req? r with
  | none => .next s
  | some q => if q.cached && passed (s.wall q.dst) q.deadline then .next (s.setReq r (fun q => { q with cached := false })) else .next s

end Sys2Proof.Machine
end

