-- ==== Sys2Proof/Machine/System.lean ====
section
/-! DEFINITION. The trap and system instructions of class 0x0F (spec/14 R258 to R266, R283 to R285): trap, rfh, mfs, mts,
launch, evsig, qpop and QPOP_WAKE, with the additions to events (spec/14 R286); the words of a fetched block (spec/02 R24, R25). -/

namespace Sys2Proof.Machine

/-! ### Blocks and words -/

/-- The fetch block that holds an address (spec/02 R24). -/
def blockOf (pc : DWord) : DWord := pc &&& ~~~63#64

/-- The words of a fetch block as a core's instruction cache holds them. -/
def State.block? (s : State) (k : CoreKey) (ctx : Nat) (pc : DWord) : Option (List DWord) :=
  ((s.core k).icache.find? (fun e => e.1 == ctx && e.2.1 == blockOf pc)).map (·.2.2)

/-- The index of a word in its block. -/
def wordIx (pc : DWord) : Nat := pc.toNat / 8 % 8

/-- The instruction at an address of a fetched block: a W-format word lies at an even index (spec/02 R25). -/
def decodeAt (ws : List DWord) (pc : DWord) : Except DecErr Instr :=
  let i := wordIx pc
  decodeWords ((ws.getD i 0).toNat) (if i % 2 = 0 then (ws[i + 1]?).map (fun w => w.toNat) else none)

/-! ### Traps -/

/-- trap (spec/14 R264). -/
def execTrap (code : BitVec 12) (s : State) : Out :=
  issue (.trap code) s (fun x => .trap { code := 0x19, detail := code.toNat, hpc := some x.next })

/-- The class of a word. -/
def wordClass (w : DWord) : Nat := w.toNat / 2 ^ 58

/-- A word that rfh leaves to all lanes: class 0x01 and chk (spec/14 R266). -/
def unmasked (w : DWord) : Bool :=
  wordClass w == 0x01 || (match decodeTableWord 64 w.toNat with
    | some (.chk _) => true
    | _ => false)

/-- The word at a virtual address as the page table maps it: none where it cannot be read. -/
def State.wordAt (s : State) (k : CtxKey) (va : DWord) : Option DWord :=
  match s.xlat k va .fetch with
  | .ok pa _ => some (BitVec.ofNat 64 (mnat s.mem pa 8))
  | .trap _ | .fault .. | .wait => none

/-- The word that a fragment of a core would execute at an address: as the instruction cache holds it, else as memory
does. -/
def State.codeAt (s : State) (ck : CoreKey) (k : CtxKey) (va : DWord) : Option DWord :=
  match (s.core ck).icache.find? (fun e => e.1 == k.ctx && e.2.1 == va &&& ~~~63#64) with
  | some e => e.2.2[va.toNat % 64 / 8]?
  | none => s.wordAt k va

/-- rfh: the entry state comes back, the PC is HPC, and the word there executes for the lanes of HMASK alone (spec/14
R266). -/
def execRfh (s : State) : Out :=
  issue .rfh s (fun x =>
    match x.g.handler with
    | none => .wait
    | some h =>
      let only := match x.s.codeAt x.k.core x.g.key x.g.sr.hpc with
        | some w => if unmasked w then none else some (x.g.sr.hmask.setWidth 32 &&& h.mask)
        | none => some (x.g.sr.hmask.setWidth 32 &&& h.mask)
      let f := { x.f.redirect x.g.sr.hpc x.cycle with
        mask := h.mask, tok := h.tok, rj := h.rj, depth := h.depth, only := only }
      .ok (x.s.setGroup x.k ({ x.g with handler := none }.setFrag x.sl (some f))))

/-! ### Special registers (spec/02 R35, spec/03 R59, spec/06 R95, R96, spec/07 R120, spec/08 R163, spec/10 R203, spec/11
R228, spec/14 R261) -/

/-- The value of a group register at issue. -/
def Iss.sreg (x : Iss) (n : Nat) : DWord :=
  let t := x.s.team? x.g.team
  let gr := t.bind (fun t => x.s.grid? t.grid)
  let c := x.s.ctx? x.g.key
  let nat (v : Nat) : DWord := BitVec.ofNat 64 v
  match n with
  | 0x001 => nat x.g.gidx
  | 0x002 => nat ((t.map (·.x)).getD 0)
  | 0x003 => nat ((t.map (·.y)).getD 0)
  | 0x004 => nat ((t.map (·.z)).getD 0)
  | 0x005 => nat ((gr.map (·.gx)).getD 0)
  | 0x006 => nat ((gr.map (·.gy)).getD 0)
  | 0x007 => nat ((gr.map (·.gz)).getD 0)
  | 0x008 => nat x.k.c
  | 0x009 => nat (x.k.c % 48 / 4)
  | 0x00A => nat (x.k.c / 48)
  | 0x00B => nat x.k.m
  | 0x010 => nat (x.s.wall x.k.m)
  | 0x011 => nat ((c.map (·.ctxclk)).getD 0)
  | 0x012 => x.g.sr.gtimer
  | 0x021 => x.g.sr.fmode
  | 0x030 => x.g.sr.hstat
  | 0x031 => x.g.sr.hpc
  | 0x032 => x.g.sr.hmask
  | 0x040 => x.f.mask.setWidth 64
  | 0x041 => nat (x.f.depth.toNat * 2 ^ 16 + x.f.tok.toNat)
  | 0x042 => nat (((x.s.region? x.g.team).map (·.2)).getD 0)
  | 0x043 => nat ((t.map (·.s)).getD 0)
  | 0x044 => nat (x.s.pksBytes x.g.key)
  | 0x045 => x.g.sr.lease
  | 0x046 => x.g.sr.eystruck.setWidth 64
  | 0x047 => nat (min x.g.locks.length 7 + (if x.g.flights.any (fun f => match f.kind with
      | .lock .. => true
      | .value | .load .. | .atom .. | .bar .. | .qpop .. | .launch .. | .shuttle .. => false) then 8 else 0))
  | 0x048 => nat ((c.map (·.p.locklim)).getD 0)
  | 0x049 => nat (x.s.copiesOf x.g.team x.g.gidx)
  | 0x04A => x.g.sr.mrows
  | 0x04B => x.g.sr.ncols
  | 0x04C => if t.any (·.tiles) then (x.s.core x.k.core).mprog.setWidth 64 else 0#64
  | 0x04D => x.g.sr.ackba
  | 0x04E => (x.s.module x.k.m).optgrp.setWidth 64
  | 0x04F => x.g.sr.haddr
  | 0x050 => x.g.sr.hapc
  | 0x051 => x.g.sr.gtcmp
  | 0x052 => x.g.sr.wdead
  | _ => 0#64

/-- A lane register in one lane. -/
def Sregs.lane (r : Sregs) (n lane : Nat) : Word := if n = 0x020 then nget 0#32 r.seed lane else BitVec.ofNat 32 lane

/-- mfs (spec/14 R260). -/
def execMfs (d : Fin 256) (n : BitVec 12) (s : State) : Out :=
  issue (.mfs d n) s (fun x =>
    let regs := if (sregKind n.toNat).any (·.1) then
        (lanesOf x.act).foldl (fun (r : Regs) l => r.wrV d.val l (x.g.sr.lane n.toNat l)) x.g.regs
      else x.g.regs.wrS d.val (x.sreg n.toNat)
    .ok (x.short (Instr.dests (.mfs d n)) regs))

/-- FMODE after a write: bits 12:8 and 3, and an assigned RM (spec/06 R95). -/
def fmodeWrite (old v : DWord) : DWord :=
  let rm := v &&& 7#64
  (v &&& 0x1F08#64) ||| (if rm.toNat ≤ 4 then rm else old &&& 7#64)

/-- LEASE after a write (spec/07 R120). -/
def leaseWrite (old v : DWord) : DWord :=
  if [256, 512, 1024, 2048, 4096, 8192, 16384].contains v.toNat then v else old

/-- A write of a group register (spec/14 R260, R261). -/
def Sregs.write (r : Sregs) (n : Nat) (v : DWord) : Sregs :=
  match n with
  | 0x012 => { r with gtimer := v }
  | 0x021 => { r with fmode := fmodeWrite r.fmode v }
  | 0x031 => { r with hpc := v }
  | 0x032 => { r with hmask := v }
  | 0x045 => { r with lease := leaseWrite r.lease v }
  | 0x04A => { r with mrows := v }
  | 0x04B => { r with ncols := v }
  | 0x04D => { r with ackba := v }
  | 0x051 => { r with gtcmp := v }
  | 0x052 => { r with wdead := v }
  | _ => r

/-- mts (spec/14 R260): SEED in the lanes of Active(), a group register whole. -/
def execMts (a : Fin 256) (n : BitVec 12) (s : State) : Out :=
  issue (.mts a n) s (fun x =>
    let sr := if (sregKind n.toNat).any (·.1) then
        { x.g.sr with seed := (lanesOf x.act).foldl (fun (m : NMap Word) l => nset 0#32 m l (x.g.regs.rdV a.val l)) x.g.sr.seed }
      else x.g.sr.write n.toNat (x.g.regs.rdS a.val)
    .ok (x.step { x.g with sr := sr }))

/-! ### launch (spec/14 R283) -/

/-- launch: after a release, its packet is read as a load of the group path and then pushed. -/
def execLaunch (la : Fin 16) (d a b : SReg) (s : State) : Out :=
  issue (.launch la d a b) s (fun x =>
    let i : Instr := .launch la d a b
    let pa := x.g.regs.rdS a.val
    if pa &&& 63#64 ≠ 0 then .ok (x.later 15 la.val (Instr.dests i) 0 [.s d.val 3#64] 0#5)
    else x.withRelease true .pod (
      let ps := x.s.parts x.g.key .read (maskOf ((lanesOf x.f.mask).take 1)) 64 (fun _ => pa)
      match x.s.decide130 x.g.key x.g.team x.k.g x.f.pc ps with
      | .wait => .wait
      | .trap t => .trap { t with lanes := none }
      | .go ok bad flt =>
        match flt with
        | some f => .ok (x.partialFault x.s x.g (if bad = 0 then 0 else x.f.mask) f .read)
        | none =>
          let s := x.s.noteParts x.k x.g.key ok
          let s := x.noteAccess s 0 (ok.map (fun p => (p.va, p.len)))
          let fl := { x.flight (.launch d.val ((x.g.regs.rdS b.val).toNat % 256)) (Instr.dests i) with
            parts := ok.map globalPart }
          .ok (s.setGroup x.k (x.g.launchFlight x.sl x.f x.next la.val fl))))

/-! ### qpop (spec/14 R284) -/

/-- One try of a pop at the home of its queue's block, as one step: the entry and status, or none while it waits. -/
def State.pop (s : State) (k : CtxKey) (q : Nat) (nb : Bool) : Option (DWord × Nat) × State :=
  match s.queue? k q with
  | none => (some (0, 2), s)
  | some qu =>
    let h := s.qHead qu
    if !qu.data then (some (0, 2), s)
    else if h ≠ s.qTail qu ∧ !qu.off then
      let e := mnat s.mem (qu.slotAt h) 8
      let bit := mnat s.mem (qu.block + 8) 8 / 2 ^ 63 * 2 ^ 63
      let s := s.hwStore (qu.block + 8) (toBytes 8 (bit + (h + 1) % 2 ^ 63) ++ toBytes 8 (h + 1))
      (some (BitVec.ofNat 64 e, 0), s.count k (idxBytes .group) 8)
    else if nb then (some (0, 1), s)
    else (none, s)

/-- The register writes of a pop. -/
def popWrites (d : Nat) (r : DWord × Nat) : List RegW := [.s d r.1, .s (d + 1) (BitVec.ofNat 64 r.2)]

/-- qpop and qpop.nb: an acquire whose first try comes with its issue. -/
def Iss.qpop (x : Iss) (i : Instr) (la : Nat) (d a : SReg) (nb : Bool) : Res :=
  if x.g.acqBlocks x.f.mask x.g.nextId then .wait
  else
    let q := (x.g.regs.rdS a.val).toNat % 256
    let fl := { x.flight (.qpop d.val q) (Instr.dests i) with acq := true }
    match x.s.pop x.g.key q nb with
    | (some r, s) => .ok (s.setGroup x.k (x.g.launchFlight x.sl x.f x.next la
        { fl with ready := true, writes := popWrites d.val r }))
    | (none, s) => .ok (s.setGroup x.k (x.g.launchFlight x.sl x.f x.next la fl))

def execQpop (la : Fin 16) (d a : SReg) (s : State) : Out :=
  issue (.qpop la d a) s (fun x => x.qpop (.qpop la d a) la.val d a false)
def execQpopNb (la : Fin 16) (d a : SReg) (s : State) : Out :=
  issue (.qpopNb la d a) s (fun x => x.qpop (.qpopNb la d a) la.val d a true)

/-- QPOP_WAKE: a waiting qpop tries again (spec/14 R284). -/
def execQpopWake (k : GKey) (fl : Nat) (s : State) : Out :=
  match s.group? k with
  | none => .next s
  | some g => match g.flight? fl with
    | none => .next s
    | some f => match f.kind with
      | .qpop d q =>
        if f.ready then .next s
        else match s.pop g.key q false with
          | (none, _) => .next s
          | (some r, s) => .next (s.modGroup k (fun g =>
              g.modFlight fl (fun f => { f with ready := true, writes := popWrites d r })))
      | .value | .load .. | .atom .. | .lock .. | .bar .. | .launch .. | .shuttle .. => .next s

/-! ### Events (spec/14 R285, R286) -/

/-- A packet of a queue is complete: PROGRESS advances past it when every earlier one is (spec/14 R279). -/
def State.completePacket (s : State) (k : CtxKey) (q idx : Nat) : State :=
  let s := s.modQueue k q (fun qu => { qu with packets := qu.packets.map (fun (p : Packet) =>
    if p.idx = idx then { p with done := true } else p) })
  match s.queue? k q with
  | none => s
  | some qu =>
    let n := (qu.packets.takeWhile (fun p => p.done)).length
    if n = 0 then s else
      let w := mnat s.mem (qu.block + 8) 8
      (s.modQueue k q (fun qu => { qu with packets := qu.packets.drop n })).hwStore (qu.block + 8)
        (toBytes 8 (w / 2 ^ 63 * 2 ^ 63 + (w % 2 ^ 63 + n) % 2 ^ 63))

/-- An addition to an event's COUNT, one step at the table: every waiter it satisfies completes, inline entries first. -/
def State.addEvent (s : State) (k : CtxKey) (id n : Nat) (pc : DWord) (team grp : Nat) : State :=
  let md := s.module k.m
  match md.events.find? (fun e => e.1 == id && e.2.key == k) with
  | none => s.logErr k (s.errRec k team 0x0B 0 pc (BitVec.ofNat 64 id) k.m grp)
  | some (_, e) =>
    let c : DWord := BitVec.ofNat 64 (min (e.count.toNat + n) (2 ^ 64 - 1))
    let sat (w : CtxKey × Nat × Nat × Nat) : Bool := decide (w.2.2.2 ≤ c.toNat)
    let e' := { e with count := c, inline := e.inline.filter (fun w => !sat w), overflow := e.overflow.filter (fun w => !sat w) }
    let s := s.setModule k.m { md with events := md.events.map (fun (x : Nat × Event) => if x.1 = id then (id, e') else x) }
    (e.inline.filter sat ++ e.overflow.filter sat).foldl (fun s w => s.completePacket w.1 w.2.1 w.2.2.1) s

/-- The place of an addition among those that arrive at the table in one core cycle: queue packets, evsig in rising core number, grid
completions (spec/14 R286). -/
def EvAdd.rank (a : EvAdd) : Nat :=
  match a.src with
  | .packet .. => 0
  | .evsig c => 1 + c
  | .grid => 1024

/-- An addition is sent to the event table of a module. -/
def State.sendAdd (s : State) (m : Nat) (a : EvAdd) : State :=
  s.modModule m (fun x => { x with
    adds := x.adds.filter (fun b => decide (b.rank ≤ a.rank)) ++ a :: x.adds.filter (fun b => decide (a.rank < b.rank)) })

/-- The table applies one addition; a SIGNAL_EVENT is then complete. -/
def State.applyAdd (s : State) (a : EvAdd) : State :=
  let s := s.addEvent a.key a.id a.n a.pc a.team a.grp
  match a.src with
  | .packet q idx => s.completePacket a.key q idx
  | .evsig _ | .grid => s

/-- One cycle of the event table, which a stalled control plane puts off (spec/01 R15): the additions on their way arrive in it
together and are applied in their order (spec/14 R286; log entry 83). -/
def State.eventTable (s : State) (m : Nat) : State :=
  (s.module m).adds.foldl State.applyAdd (s.modModule m (fun x => { x with adds := [] }))

/-- evsig: its addition is sent to the event table (spec/14 R285, R286). -/
def execEvsig (a : SReg) (s : State) : Out :=
  issue (.evsig a) s (fun x => x.withRelease true .sys (
    let v := (x.g.regs.rdS a.val).toNat
    let s := x.s.sendAdd x.k.m ⟨x.g.key, v % 2 ^ 16, max 1 (v / 2 ^ 32), .evsig x.k.c, x.f.pc, x.g.team, x.k.g⟩
    .ok (s.setGroup x.k (x.g.goto x.sl x.f x.next))))

end Sys2Proof.Machine
end

