-- ==== Sys2Proof/Machine/Sched.lean ====
section
/-! DEFINITION. Residency and time (spec/01 R9 to R18; spec/03 R43, R60, R64; spec/07 R114 to R117, R130; spec/09 R168;
spec/14 R262, R271 to R276): TEAM_MAKE_RESIDENT, RESTORE, SAVE, QUANTUM_EXPIRY, REMOTE_LOAD_BLOCK, FAULT_REPLAY,
CARVE_CHANGE, GTIMER_MATCH, DEADLINE, TICK and the cycle of a core's clock. -/

namespace Sys2Proof.Machine

/-! ### Room on a core (spec/01 R9, spec/07 R115) -/

/-- The core on which a team is resident. -/
def Team.coreOf (t : Team) : Option Nat :=
  match t.st with
  | .resident c _ _ => some c
  | .listed | .saved _ | .ended => none
def Team.regionOf (t : Team) : Option Nat :=
  match t.st with
  | .resident _ r _ => some r
  | .listed | .saved _ | .ended => none
/-- The resident teams of a core. -/
def State.teamsOn (s : State) (k : CoreKey) : List (Nat × Team) :=
  s.teams.filter (fun t => t.2.key.m == k.m && t.2.coreOf == some k.c)
/-- Vector register bytes of a team. -/
def Team.regBytes (t : Team) : Nat := t.gpt * t.nregs * 128
/-- The number of regions of a carve (spec/07 R115, spec/10 R204). -/
def Team.regions (t : Team) : Nat :=
  let k := min (if t.s = 0 then 32 else 2 ^ 18 / t.s) (min (32 / t.gpt) (2 ^ 18 / t.regBytes))
  if t.tiles then min k 1 else k

/-- The lowest free region of a team on a core that runs its launch, where it has room. -/
def State.regionFor (s : State) (k : CoreKey) (t : Team) : Option Nat :=
  let on := s.teamsOn k
  match (s.core k).carve with
  | none => none
  | some c =>
    if c.grid ≠ t.grid then none
    else if 32 < (on.map (fun x => x.2.gpt)).sum + t.gpt || 2 ^ 18 < (on.map (fun x => x.2.regBytes)).sum + t.regBytes then none
    else (List.range c.k).find? (fun r => !on.any (fun x => x.2.regionOf == some r))

/-- A core has room for a team: it runs the team's launch and has a region, or it is empty and may change its carve. -/
def State.hasRoom (s : State) (k : CoreKey) (t : Team) : Bool :=
  (s.regionFor k t).isSome || ((s.teamsOn k).isEmpty && ((s.core k).carve.map (·.grid) != some t.grid))

/-- The resident groups of a core. -/
def State.groupsOn (s : State) (k : CoreKey) : List (GKey × Group) := s.groups.filter (fun g => g.1.core == k)

/-- A die that has come to a context is its own once no team of another context is resident there (spec/14 R289). -/
def State.dieGiven (s : State) (k : CtxKey) (d : Nat) : Bool :=
  !s.teams.any (fun t => t.2.key.m == k.m && t.2.key != k && t.2.coreOf.any (fun c => c / 48 == d))

/-- The core of the context's partition that the scheduler takes: with room, the fewest resident groups, the lowest
number (spec/14 R274). -/
def State.chooseCore (s : State) (k : CtxKey) (t : Team) : Option CoreKey :=
  match s.ctx? k with
  | none => none
  | some c =>
    let all := (List.range 576).filter (fun n => c.dies.contains (n / 48) && s.dieGiven k (n / 48) && !(s.module k.m).lostDies.contains (n / 48) &&
      s.hasRoom ⟨k.m, n⟩ t)
    let size (n : Nat) := (s.groupsOn ⟨k.m, n⟩).length
    (all.foldl (fun (b : Option Nat) n => match b with
      | none => some n
      | some m => if size n < size m then some n else some m) none).map (fun n => ⟨k.m, n⟩)

/-- The head of a context's list: among the teams that joined in the head's quantum, the first of highest priority
(spec/14 R274). -/
def State.headTeam (s : State) (k : CtxKey) : Option Nat :=
  match s.ctx? k with
  | none => none
  | some c =>
    let q := c.p.quantumUs * 1000
    let at_ (t : Nat) : Nat := ((s.team? t).map (fun x => x.joined / q)).getD 0
    let pr (t : Nat) : Nat := ((s.team? t).map (·.prio)).getD 0
    match c.runnable with
    | [] => none
    | h :: rest => some ((rest.filter (fun t => at_ t == at_ h)).foldl (fun b t => if pr b < pr t then t else b) h)

/-! ### Becoming resident -/

/-- The special registers at launch (spec/02 R35 and the tables that follow it; log entry 3). -/
def Sregs.launch : Sregs where
  gtimer := 0
  gtcmp := 0
  wdead := 0
  seed := []
  fmode := 0
  lease := 2048
  eystruck := 0
  mrows := BitVec.allOnes 64
  ncols := BitVec.allOnes 64
  ackba := 0
  hstat := 0
  hpc := 0
  hmask := 0
  haddr := 0
  hapc := 0

/-- Registers at launch: zero, but for s1 to s4 (spec/02 R34, spec/14 R280). -/
def Regs.launch (args : List DWord) : Regs :=
  (List.range 4).foldl (fun r i => r.wrS (i + 1) (args.getD i 0)) ⟨[], [], [], []⟩

/-- A group as it starts (spec/03 R43). -/
def Team.newGroup (t : Team) (id gidx cycle : Nat) : Group where
  team := id
  key := t.key
  gidx := gidx
  nregs := t.nregs
  f0 := some (Frag.plain t.entry allLanes 0 0 0 cycle)
  f1 := none
  stack := []
  tokctr := 0
  exited := 0
  regs := Regs.launch t.args
  sr := Sregs.launch
  handler := none
  late := []
  taker := none
  replay := none
  flights := []
  badRegs := []
  sb := []
  loc := []
  wbs := []
  gwct := []
  gwm := []
  locks := []
  cpyErr := 0
  shOps := []
  nextId := 0
  regReady := []
  gtHit := false
  halting := false
  ended := false
  logAt := none

/-- A WDEAD that has passed becomes 0 and its cause pending (spec/14 R262, R276). -/
def Group.deadline (g : Group) (wall : Nat) : Group :=
  if g.sr.wdead ≠ 0 ∧ passed wall g.sr.wdead.toNat then { g with sr := { g.sr with wdead := 0 } }.pend ⟨0x1B, 0, 0, 0, 0⟩ else g

/-- A fragment as it issues first on the core it returns to. -/
def Frag.restored (f : Frag) (cycle : Nat) : Frag := { f with issueAt := cycle }

/-- A group image on the core it returns to; a WDEAD that has passed makes its cause pending (spec/14 R272, R276). -/
def Group.restored (g : Group) (cycle wall : Nat) : Group :=
  { g.deadline wall with
    f0 := g.f0.map (fun f => f.restored cycle)
    f1 := g.f1.map (fun f => f.restored cycle)
    flights := g.flights.map (fun f => { f with wallAt := wall }) }

/-- The lowest free core group numbers of a core, in rising order (spec/03 R60). -/
def State.freeGroups (s : State) (k : CoreKey) : List Nat :=
  (List.range 32).filter (fun n => (s.group? ⟨k.m, k.c, n⟩).isNone)

/-- The lines a restored group holds are granted again to its new slice (spec/08 R158). -/
def State.regrant (s : State) (gk : GKey) (g : Group) : State :=
  g.locks.foldl (fun s h => match (s.line h.line).lock with
    | none => s
    | some e => if e.st = .saved then
        s.modLine h.line (fun x => { x with lock := some { e with
          holder := { e.holder with m := gk.m, core := gk.c, grp := gk.g }, st := .granting (s.grantTime h.line) } })
      else s) s

/-- An interval of resident cycles opens with the first team of the context on the core (spec/19 R341). -/
def State.openInterval (s : State) (k : CtxKey) (c : Nat) : State :=
  if (s.teamsOn ⟨k.m, c⟩).any (fun t => t.2.key == k) then s
  else s.modCtx k (fun x => { x with openIv := nset 0 x.openIv c (s.wall k.m) })

/-- Bytes of a core's tile state from t0 up: tiles with side-arrays, then accumulators (spec/10 R204). -/
def tileSize : Nat := 133120

/-- A team becomes resident in a region of a core: at its first residency with groups as they start and memory that reads
zero, else from its images (spec/07 R114, R116; spec/10 R204; spec/14 R275). -/
def State.place (s : State) (id : Nat) (t : Team) (k : CoreKey) (r : Nat) : State :=
  let now := s.wall k.m
  let cyc := (s.core k).cycle
  let s := s.openInterval t.key k.c
  let imgs : List (Nat × Group) := if t.fresh then (List.range t.gpt).map (fun i => (i, t.newGroup id i cyc))
    else t.images.map (fun e => (e.1, e.2.restored cyc now))
  let placed := (s.freeGroups k).zip imgs
  let s := { s.sound .scratch (scratchAt k (r * t.s)) t.s with
    groups := s.groups ++ placed.map (fun (e : Nat × Nat × Group) => ((⟨k.m, k.c, e.1⟩ : GKey), e.2.2))
    scratch := mpaste (mclear s.scratch (scratchAt k (r * t.s)) t.s) (scratchAt k (r * t.s)) (if t.fresh then [] else t.region)
    tiles := if t.tiles then mpaste (mclear s.tiles (tileAt k 0 0) tileSize) (tileAt k 0 0) (if t.fresh then [] else t.tileImg)
      else s.tiles
    badTiles := if t.tiles then s.badTiles.filter (fun w => !wordIn w [(tileAt k 0 0, tileSize)]) else s.badTiles }
  let s := s.modCore k (fun c => { c with
    lastPos := if t.fresh then c.lastPos else []
    tileQ := if t.tiles then (if t.fresh then [] else t.tileQImg) else c.tileQ
    mprog := if t.tiles then (if t.fresh then 0 else t.mprogImg) else c.mprog })
  let s := s.setTeam id { t with st := .resident k.c r now, fresh := false, images := [], region := [], tileImg := [],
                                 tileQImg := [], lastCore := k.c }
  let s := s.modCtx t.key (fun c => { c with runnable := c.runnable.filter (fun x => x ≠ id) })
  (placed.foldl (fun (s : State) (e : Nat × Nat × Group) => s.regrant ⟨k.m, k.c, e.1⟩ e.2.2) s).reeval

/-- The scheduler may make teams of a context resident. -/
def State.schedules (s : State) (k : CtxKey) : Bool :=
  (s.ctx? k).any (fun c => !c.halted && !c.haltedDbg && c.torn.isNone && !c.dies.isEmpty)

/-- The head of a context's list becomes resident on the chosen core, once that core's carve is its launch's. -/
def State.makeResident (s : State) (k : CtxKey) (want : Nat → Team → Bool) : State :=
  if !s.schedules k then s
  else match s.headTeam k with
    | none => s
    | some id => match s.team? id with
      | none => s
      | some t =>
        if t.halted || t.stop.isSome || !want id t then s
        else match s.chooseCore k t with
          | none => s
          | some c => match s.regionFor c t with
            | none => s
            | some r => s.place id t c r

/-- TEAM_MAKE_RESIDENT (spec/14 R274). -/
def execTeamMakeResident (k : CtxKey) (s : State) : Out := .next (s.makeResident k (fun _ _ => true))

/-- RESTORE: a saved team, at the head of its context's list, returns to a core (spec/03 R64, spec/14 R274, R275). -/
def execRestore (team : Nat) (s : State) : Out :=
  match s.team? team with
  | none => .next s
  | some t => .next (s.makeResident t.key (fun id x => id == team && x.st == .saved true))

/-! ### Carves (spec/07 R115, R117) -/

/-- The lines of a slice in the banks that pass to the scratchpad: which lines they hold is left open. -/
def State.movedBanks (s : State) (k : CoreKey) (l : Nat) : Bool :=
  l % 48 == k.c % 48 && Config.inBanks s.freeCtr l
/-- A store of the die to a line is not yet performed (spec/07 R117). -/
def State.storePending (s : State) (d : DieKey) (l : Nat) : Bool :=
  s.groups.any (fun g => g.1.die == d && g.2.sb.any (fun e => e.sector / 4 == l && !e.st.done))

/-- A locked line in a moved bank is force-released: its holder takes a lock-lost trap (spec/07 R117, spec/08 R162). -/
def State.loseLock (s : State) (l : Nat) : State :=
  match (s.line l).lock with
  | none => s
  | some e =>
    let w := e.holder
    let s := s.forceRelease w.key w.team w.grp ⟨l, e.vline, e.pc, 0, false⟩
    s.modMember w.team w.gidx (fun g =>
      { g with locks := g.locks.filter (fun h => h.line ≠ l) }.pend ⟨0x0F, 0, e.vline, e.pc, 0⟩)

/-- CARVE_CHANGE: an empty core takes the carve of the launch whose team is to come; banks that pass to the scratchpad are
emptied of lines and keep the bytes that the scratchpad last held there (spec/07 R115, R117; log entry 90). -/
def execCarveChange (k : CoreKey) (grid : Nat) (s : State) : Out :=
  match s.grid? grid with
  | none => .next s
  | some gr => match (s.headTeam gr.key).bind s.team? with
    | none => .next s
    | some t =>
      if t.grid ≠ grid || !s.schedules gr.key || s.chooseCore gr.key t ≠ some k || !(s.teamsOn k).isEmpty ||
        (s.core k).carve.any (fun c => c.grid == grid) then .next s
      else
        let new : Carve := ⟨grid, t.s, t.regions⟩
        let old := s.carveBytes k
        let grows := decide (old < new.k * new.s)
        let d := k.die
        let copies := (s.copies.filter (fun c => c.1.1 == d && s.movedBanks k c.1.2)).map (fun c => c.1.2)
        let locked := (s.lines.filter (fun e => s.movedBanks k e.1 && e.2.lock.any (fun x => x.st == .held &&
          x.holder.m == k.m && x.holder.core / 48 == d.d))).map (·.1)
        let busy := s.groups.any (fun g => g.1.die == d && g.2.sb.any (fun e => !e.st.done && s.movedBanks k (e.sector / 4)))
        if grows && busy then .next s
        else
          let s := if grows then
              let s := { s with copies := s.copies.filter (fun c => !(c.1.1 == d && copies.contains c.1.2)) }
              locked.foldl (fun s l => s.loseLock l) { s with freeCtr := s.freeCtr + 1 }
            else s
          .next (s.modCore k (fun c => { c with carve := some new })).reeval

/-! ### Leaving a core (spec/03 R64, spec/07 R136, spec/09 R168, spec/10 R218, spec/14 R271 to R275) -/

/-- A fragment waits at a blocking point: in bar.wait, or past the window of a lock request, a qpop or a remote load that
has become one (spec/14 R271). -/
def Group.fragBlocked (g : Group) (f : Frag) : Bool :=
  f.wait.isSome || f.windows.any (fun w => w.left == 0 && g.flights.any (fun fl => fl.id == w.flight && (match fl.kind with
    | .lock .. | .qpop .. => !fl.ready
    | .load .. => fl.blocked
    | .value | .atom .. | .bar .. | .launch .. | .shuttle .. => false)))

/-- The scope of the release that a word performs before it leaves the fragment (spec/09 R171; spec/14 R283, R285). -/
def Instr.releaseScope : Instr → Option Scope
  | .stl f | .sts f | .std f | .stk f | .stg f | .stAck f => if f.order.rel then some f.scope else none
  | .atomAdd f | .atomMin f | .atomMax f | .atomAnd f | .atomOr f | .atomXor f | .atomSwap f | .atomCas f
  | .redAdd f | .redMin f | .redMax f | .redAnd f | .redOr f | .redXor f => if f.order.rel then some f.scope else none
  | .atomFaddF32 f | .atomFaddBf16 f | .redFaddF32 f | .redFaddBf16 f => if f.order.rel then some f.scope else none
  | .cwb f => if f.order.rel then some f.scope else none
  | .unlk f => some f.scope
  | .barArrive f => if f.order.rel then some f.scope else none
  | .fenceRel sc | .fenceFull sc => some sc
  | .launch .. => some .pod
  | .evsig _ => some .sys
  | _ => none
/-- A word that may need a new entry of the store buffer (spec/07 R126; spec/08 R146; spec/11 R235). -/
def Instr.entersSb : Instr → Bool
  | .stg _ | .stAck _ | .redAdd _ | .redMin _ | .redMax _ | .redAnd _ | .redOr _ | .redXor _ | .redFaddF32 _ | .redFaddBf16 _ => true
  | _ => false
/-- A fragment is not eligible: it may not issue, the block of its next word is not fetched, a register or FMODE holds that word, or it
waits as a release must, or for room in the store buffer (spec/03 R58, R61; spec/06 R95; spec/07 R126, R128). -/
def State.ineligible (s : State) (k : GKey) (sl : Slot) (g : Group) (f : Frag) : Bool :=
  s.heldFrag k sl g f || f.fence.isSome || (match s.block? k.core g.key.ctx f.pc with
    | none => true
    | some ws => match decodeAt ws f.pc with
      | .error _ => false
      | .ok i => g.regHeld f (Instr.waitRegs i) (s.core k.core).cycle || Instr.waitFloat i g ||
          (Instr.releaseScope i).any (fun sc => !s.released k g f.mask (sc == .sys)) ||
          (Instr.entersSb i && (!g.entering.isEmpty || decide (8 ≤ g.sb.length))))

/-- A fragment stalled on the status of a lock or on a qpop whose window is closed: its next word names a register of the
request (spec/02 R32, spec/14 R269, R271). -/
def State.stalledOn (s : State) (k : GKey) (g : Group) (f : Frag) : Bool :=
  let open_ := g.flights.filter (fun fl => s.stays g fl && fl.mask &&& f.mask != 0#32)
  !open_.isEmpty && (match (s.block? k.core g.key.ctx f.pc).map (fun ws => decodeAt ws f.pc) with
    | some (.ok i) => open_.any (fun fl => fl.dests.any (fun d => (Instr.waitRegs i).contains d))
    | some (.error _) | none => false)

/-- A group is at a blocking point, faulting or replayable: no fragment of it is eligible (spec/14 R271). -/
def State.groupWaits (s : State) (k : GKey) (g : Group) : Bool :=
  g.ended || g.replay.isSome ||
  (let g' := { g with halting := false }
   let fs := [(Slot.f0, g.f0), (Slot.f1, g.f1)].filterMap (fun e => e.2.map (fun f => (e.1, f)))
   let blk (f : Frag) : Bool := g.fragBlocked f || s.stalledOn k g f
   fs.any (fun e => blk e.2) && fs.all (fun e => blk e.2 || s.ineligible k e.1 g' e.2))

/-- A team is waiting (spec/14 R271). -/
def State.teamWaits (s : State) (team : Nat) : Bool := (s.groupsOf team).all (fun e => s.groupWaits e.1 e.2)

/-- A saved wake condition of a group holds, or it can be replayed (spec/14 R271, R284). -/
def State.groupWakes (s : State) (g : Group) : Bool :=
  !g.ended && (g.replay.any (·.ready) || s.imageWakes g || g.flights.any (fun f => match f.kind with
    | .lock .. => f.ready
    | .qpop _ q => f.ready || (match s.queue? g.key q with
      | some qu => !qu.off && s.qHead qu != s.qTail qu
      | none => true)
    | .load .. => f.blocked || f.ready
    | .value | .atom .. | .bar .. | .launch .. | .shuttle .. => false))

/-- An outstanding instruction does not hold up a save: a request that stays pending, an abandoned load (spec/02 R32, spec/14 R272). -/
def State.leaves (s : State) (g : Group) (f : Flight) : Bool :=
  match f.kind with
  | .lock .. | .qpop .. => s.stays g f
  | .load .. => f.blocked
  | .value | .atom .. | .bar .. | .launch .. | .shuttle .. => false

/-- A group may be saved: the waits of R32, R136 and R168 are over. -/
def State.canSave (s : State) (k : GKey) (g : Group) : Bool :=
  g.halting && g.flights.all (s.leaves g) && g.sb.isEmpty && g.entering.isEmpty && g.loc.isEmpty && g.wbs.isEmpty &&
  !(s.core k.core).eyelets.any (fun e => e.grp == k.g) &&
  !s.barq.any (fun q => match q.src with
    | .group k' .. => k' == k
    | .landing .. | .flag => false)

/-- The macro in progress is at a chunk boundary, with no line asked for, or the fetch of its current chunk waits on a fault (spec/10 R218). -/
def Core.tileRests (c : Core) : Bool :=
  match c.tileQ with
  | [] => true
  | e :: _ =>
    let j := chunkOf c e
    (e.got.isEmpty && e.note.sent.isEmpty) || (e.note.fault.isSome && e.op.macro?.any (fun x =>
      !(x.lines j).all (fun l => e.got.any (fun g => g.chunk == j && g.vline == l.1))))

/-- A group's image: no window, no mark and no fence begun; abandoned loads are to be replayed (spec/14 R272, R275). -/
def Group.image (g : Group) : Group :=
  let fr (f : Frag) : Frag := { f with windows := [], mark := none, issueAt := 0, fence := none }
  { g with
    f0 := g.f0.map fr
    f1 := g.f1.map fr
    halting := false
    taker := none
    regReady := []
    logAt := none
    flights := g.flights.map (fun f => if f.blocked then
      { f with blocked := false, ready := true, parts := f.parts.map (fun (p : Part) => { p with bytes := none }) } else f) }

/-- Registers whose image was not written: their values at the restore are open. -/
def Regs.unsaved (r : Regs) (ctr : Nat) : Regs where
  v := (List.range 8192).foldl (fun m i => nset 0#32 m i ((Config.savedWord ctr i).setWidth 32)) r.v
  s := (List.range 63).foldl (fun m i => nset 0#64 m (i + 1) (Config.savedWord ctr (8192 + i))) r.s
  p := (List.range 7).foldl (fun m i => nset 0#32 m i ((Config.savedWord ctr (8255 + i)).setWidth 32)) r.p
  q := (List.range 3).foldl (fun m i => nset false m i ((Config.savedWord ctr (8262 + i)).getLsbD 0)) r.q

/-- The write of an image to the context's save area meets no reserved or unpopulated address (spec/14 R275; log entry 44). -/
def State.imageFits (s : State) (p : CtxParams) (ctr : Nat) : Bool := s.populated (p.saveBase + Config.saveAt ctr % max 1 p.saveLen)
/-- A group as its image holds it; where the image cannot be written the group takes PHYS_RANGE_SAVE at its restore (spec/14 R263, R275;
log entry 44). -/
def State.writeImage (s : State) (p : CtxParams) (ctr : Nat) (g : Group) : Group :=
  if s.imageFits p ctr then g
  else { g with regs := g.regs.unsaved ctr }.pend ⟨0x1C, 0, 0, 0, 0⟩
/-- An image enters the save area in device memory: which bytes it takes there, and what they are, is open (spec/14 R275; log entry
44). -/
def State.fillArea (s : State) (p : CtxParams) (ctr : Nat) : State :=
  if !s.imageFits p ctr then s
  else
    let off := Config.saveAt ctr % max 1 p.saveLen
    { s with mem := mwriteN s.mem (p.saveBase + off) ((Config.saveBytes ctr).take (p.saveLen - off)) }
/-- n bytes of a part of a team image that could not be written, as the restore finds them. -/
def freeImage (ctr n : Nat) : Memory := mwriteN [] 0 ((List.range n).map (fun i => Config.freeByte (ctr + i)))

/-- A team leaves its core: images, region, tile state, held locks, interval; it is runnable or waits. Each group has an image in the
save area, and the team one of its own, whose loss every group is told of (spec/14 R271 to R275; log entry 44). -/
def State.saveTeam (s : State) (id : Nat) : State :=
  match s.team? id with
  | none => s
  | some t => match t.st with
    | .listed | .saved _ | .ended => s
    | .resident c r _ =>
      let k : CoreKey := ⟨t.key.m, c⟩
      let gs := s.groupsOf id
      let run := !s.teamWaits id || gs.any (fun e => s.groupWakes e.2) ||
        (t.tiles && !(s.core k).tileQ.isEmpty && gs.all (fun e => e.2.ended))
      let gone := gs.flatMap (fun e => (e.2.flights.filter (·.blocked)).map (fun f => (e.1, f.ord)))
      let s := s.dropStitches (fun y => !s.answered y && gone.any (fun e => y.of e.1 e.2))
      let s := if t.tiles then (s.core k).tileQ.foldl (fun s e => s.dropAsks e.note) s else s
      let s := s.modCore k (fun c => if t.tiles then
        { c with tileQ := c.tileQ.map (fun (e : TileEnt) => { e with got := [], note := { e.note with sent := [] } }), pins := [] } else c)
      let core := s.core k
      let s := gs.foldl (fun s e => e.2.locks.foldl (fun s h => s.modLine h.line (fun x =>
        { x with lock := x.lock.map (fun y => if y.st = .held then { y with st := .saved } else y) })) s) s
      let s := { s with
        groups := s.groups.filter (fun e => e.2.team ≠ id)
        reqs := s.reqs.map (fun (q : Req) => match q.payload with
          | .fill g _ => if gs.any (fun e => e.1 == g) then { q with closed := true } else q
          | .entry .. | .lane .. | .lock .. | .flag _ | .shuttle _ | .stream _ | .slReq .. | .contrib .. | .unlk _ | .engine _ => q) }
      let ctr := s.freeCtr
      let p? := (s.ctx? t.key).map (·.p)
      let own := ctr + gs.length
      let lost := p?.any (fun p => !s.imageFits p own)
      let s := p?.toList.foldl (fun s p => (List.range (gs.length + 1)).foldl (fun s i => s.fillArea p (ctr + i)) s)
        { s with freeCtr := own + 1 + (if lost then t.s + tileSize else 0) }
      let wr (i : Nat) (g : Group) : Group :=
        match s.ctx? t.key with
        | none => g
        | some c =>
          let g := s.writeImage c.p (ctr + i) g
          if lost then g.pend ⟨0x1C, 0, 0, 0, 0⟩ else g
      let s := s.setTeam id { t with
        st := .saved run
        joined := s.wall t.key.m
        images := gs.mapIdx (fun i (e : GKey × Group) => (e.2.gidx, wr i e.2.image))
        region := if lost then freeImage (own + 1) t.s else mslice s.scratch (scratchAt k (r * t.s)) t.s
        tileImg := if !t.tiles then [] else if lost then freeImage (own + 1 + t.s) tileSize else mslice s.tiles (tileAt k 0 0) tileSize
        tileQImg := if t.tiles then core.tileQ else []
        mprogImg := if t.tiles then core.mprog else 0 }
      let s := s.modCore k (fun c => { c with
        arrlog := c.arrlog.filter (fun a => a.team ≠ id)
        tileQ := if t.tiles then [] else c.tileQ })
      let s := if run && !t.halted && t.stop.isNone then
          s.modCtx t.key (fun c => { c with runnable := c.runnable ++ [id] }) else s
      s.closeInterval t.key c

/-- Every group of a resident team may leave its core. -/
def State.teamLeaves (s : State) (id : Nat) : Bool :=
  match s.team? id with
  | none => false
  | some t => match t.st with
    | .resident c _ _ => !(s.module t.key.m).lostDies.contains (c / 48) && (s.groupsOf id).all (fun e => s.canSave e.1 e.2) &&
        (!t.tiles || (s.core ⟨t.key.m, c⟩).tileRests)
    | .listed | .saved _ | .ended => false

/-- SAVE: a halting team, its pending state settled, leaves its core (spec/09 R168, spec/14 R273 to R275); a debug stop saves
its team by TEAM_STOP. -/
def execSave (team : Nat) (s : State) : Out :=
  .next (if s.teamLeaves team && (s.team? team).any (fun t => t.stop.isNone) then s.saveTeam team else s)

/-- Mark every group of a team halting. -/
def State.haltTeam (s : State) (team : Nat) : State :=
  { s with groups := s.groups.map (fun (e : GKey × Group) => if e.2.team = team then (e.1, { e.2 with halting := true }) else e) }

/-- QUANTUM_EXPIRY: a team that waits past its quantum, or has been resident for two, gives way to a runnable team that is
not resident (spec/14 R273). -/
def execQuantumExpiry (team : Nat) (s : State) : Out :=
  match s.team? team with
  | none => .next s
  | some t => match t.st, s.ctx? t.key with
    | .resident _ _ since, some c =>
      let q := c.p.quantumUs * 1000
      let d := s.wall t.key.m - since
      if t.stop.isNone && !c.runnable.isEmpty && ((q ≤ d && s.teamWaits team) || 2 * q ≤ d) then .next (s.haltTeam team)
      else .next s
    | _, _ => .next s

/-- REMOTE_LOAD_BLOCK: a part of an ldg or ld.spec to another module has been outstanding for 2 µs (spec/14 R271, R272). -/
def execRemoteLoadBlock (k : GKey) (fl : Nat) (s : State) : Out :=
  match s.group? k with
  | none => .next s
  | some g => match g.flight? fl with
    | none => .next s
    | some f =>
      let isLoad := match f.kind with
        | .load .. => true
        | .value | .atom .. | .lock .. | .bar .. | .qpop .. | .launch .. | .shuttle .. => false
      if isLoad && f.parts.any (fun p => p.space == .global && p.bytes.isNone && paMod p.addr != k.m) &&
        f.wallAt + 2000 ≤ s.wall k.m then .next (s.setGroup k (g.modFlight fl (fun f => { f with blocked := true })))
      else .next s

/-- FAULT_REPLAY: a replayable group whose fault has been served executes the instruction again for its faulting lanes; a
failed gather traps them (spec/07 R130, spec/15 R304). -/
def execFaultReplay (k : GKey) (s : State) : Out :=
  match s.group? k with
  | none => .next s
  | some g => match g.replay with
    | none => .next s
    | some r =>
      if !r.ready then .next s
      else match r.lost, g.frag r.slot with
        | some (slice, owner), some f =>
          if !s.settled g f.mask || (s.core k.core).eyeletIn k.g f.mask then .next s
          else
            let f := { f with only := none }
            .next (s.takeTrap k r.slot ({ g with replay := none }.setFrag r.slot (some f)) f
              { code := 0x18, lanes := some r.lanes, addr := r.va, detail := slice + owner * 256 })
        | _, _ => .next (s.setGroup k { g with replay := none })

/-! ### Timers (spec/14 R262, R276) -/

/-- GTIMER_MATCH: the compare has fired. -/
def execGtimerMatch (k : GKey) (s : State) : Out :=
  match s.group? k with
  | none => .next s
  | some g => if g.gtHit then .next (s.setGroup k ({ g with gtHit := false }.pend ⟨0x1A, 0, 0, 0, 0⟩)) else .next s

/-- DEADLINE: WDEAD has passed; it becomes 0. -/
def execDeadline (k : GKey) (s : State) : Out :=
  match s.group? k with
  | none => .next s
  | some g =>
    if g.sr.wdead ≠ 0 ∧ passed (s.wall k.m) g.sr.wdead.toNat then .next (s.setGroup k (g.deadline (s.wall k.m)))
    else .next s

/-! ### Clocks (spec/01 R13, R14, R17, R18) -/

/-- The island of a core. -/
def islandOf (c : Nat) : Nat := c / 48 * 4 + c % 48 / 12
/-- The frequency of a core's clock in MHz. -/
def State.mhz (s : State) (k : CoreKey) : Nat := nget 2400 (s.module k.m).islands (islandOf k.c)

/-- A cycle of a core's clock: the timers of its resident groups and the counts of their held locks (spec/08 R159, spec/14
R262). -/
def Group.cycle (g : Group) : Group :=
  let t := g.sr.gtimer + 1
  { g with
    sr := { g.sr with gtimer := t }
    gtHit := g.gtHit || (g.sr.gtcmp != 0 && t == g.sr.gtcmp)
    locks := g.locks.map (fun h => { h with cycles := h.cycles + 1 }) }
/-- The cycle of a core is over: every issue slot has scanned, and the results that land in it have landed (spec/02 R360, spec/03
R62). -/
def State.cycleOver (s : State) (k : CoreKey) : Bool :=
  (s.groupsOn k).isEmpty || ((s.core k).scanned == 4 &&
    (s.groupsOn k).all (fun g => g.2.flights.all (fun f => !f.due (s.core k).cycle)))
/-- The cycle turn of a core, when a whole cycle of its clock has passed. -/
def State.coreCycle (s : State) (k : CoreKey) : State :=
  let c := s.core k
  if c.credit < 1000 || !s.cycleOver k then s
  else
    let s := s.setCore k { c with credit := c.credit - 1000, cycle := c.cycle + 1, scanned := 0 }
    { s with groups := s.groups.map (fun (e : GKey × Group) => if e.1.core = k then (e.1, e.2.cycle) else e) }

/-- TICK: WALLTIME advances by 1 ns on all modules, once every cycle of the last ns has passed (spec/01 R13, R14; spec/09
R167; spec/14 R262). -/
def execTick (s : State) : Out :=
  if s.cores.any (fun c => decide (1000 ≤ c.2.credit) && !(s.groupsOn c.1).isEmpty) then .next s
  else .next { s with
    mods := s.mods.map (fun (e : Nat × Module) => (e.1, { e.2 with wall := e.2.wall + 1 }))
    parked := s.parked.map (fun (e : Nat × Module) => (e.1, { e.2 with wall := e.2.wall + 1 }))
    ctxs := s.ctxs.map (fun (e : CtxKey × Context) => if e.2.dies.isEmpty || e.2.torn.isSome then e else
      (e.1, { e.2 with ctxclk := e.2.ctxclk + (e.2.clkRem + 12) / 5, clkRem := (e.2.clkRem + 12) % 5 }))
    cores := s.cores.map (fun (e : CoreKey × Core) =>
      let n := e.2.credit + s.mhz e.1
      if (s.groupsOn e.1).isEmpty then (e.1, { e.2 with cycle := e.2.cycle + n / 1000, credit := n % 1000, scanned := 0 })
      else (e.1, { e.2 with credit := n })) }

end Sys2Proof.Machine
end

