-- ==== Sys2Proof/Machine/Debug.lean ====
section
/-! DEFINITION. Debug and trace (spec/18 R321 to R336): bkpt, trc, smark, breakpoints, team stops, the trigger sequencer,
watch hits, stitch records and stores to the debug block. -/

namespace Sys2Proof.Machine

/-! ### The trigger sequencer (spec/18 R331 to R334) -/

/-- The team filter. -/
def State.filterPasses (s : State) (k : CtxKey) (e : TrigEv) : Bool :=
  let xy := s.dbg k 0x68
  let zm := s.dbg k 0x70
  (!zm.testBit 32 || e.x == xy % 2 ^ 32) && (!zm.testBit 33 || e.y == xy / 2 ^ 32) && (!zm.testBit 34 || e.z == zm % 2 ^ 32)

/-- An event matches a selector (spec/18 R331). A started packet and a MARK have no team to filter. -/
def State.selects (s : State) (k : CtxKey) (sel : Nat) (e : TrigEv) : Bool :=
  match sel with
  | 1 => s.filterPasses k e && e.pc.any (fun p => decide (s.dbg k 0x40 ≤ p.toNat) && decide (p.toNat ≤ s.dbg k 0x48))
  | 2 => s.filterPasses k e && e.addr.any (fun a =>
      decide (a.1.toNat ≤ s.dbg k 0x58) && decide (s.dbg k 0x50 < a.1.toNat + a.2.1) &&
      ((a.2.2.1 && (s.dbg k 0x60).testBit 1) || (a.2.2.2 && (s.dbg k 0x60).testBit 0)))
  | 3 =>
    let w := s.dbg k 0x78
    let arg := w / 2 ^ 32
    e.code != 0 && e.code == w % 256 && (e.code == 5 || e.code == 6 || s.filterPasses k e) &&
      (match e.code with
        | 1 => arg == 0xFFFFFFFF || e.arg == arg % 4096
        | 2 => decide (arg ≤ e.arg)
        | 6 => e.arg == arg
        | _ => true)
  | _ => false

/-- Keep the record of an event that capture admits. -/
def State.keepRecord (s : State) (k : CtxKey) (r : List DWord) : State :=
  match r with
  | [] => s
  | [e] =>
    let s := s.modCtx k (fun c => { c with issBuf := c.issBuf ++ [e] })
    if (s.ctx? k).any (fun c => decide (7 ≤ c.issBuf.length)) then s.flushIssue k else s
  | _ => s.capture k r

/-- One rule at an event: its event A, else its event B with the count; whether it fires (spec/18 R332). A reserved selector A never
lets it fire (R331). -/
def State.ruleStep (s : State) (k : CtxKey) (freeze : Bool) (a : Bool) (c : Nat) (e : TrigEv) : Bool × Nat × Bool :=
  let (n, bsel, asel) := s.seqRule k freeze
  if 4 ≤ asel then (a, c, false)
  else if asel ≠ 0 ∧ s.selects k asel e then (true, c, false)
  else if a && s.selects k bsel e then
    let c := min (c + 1) (2 ^ 32 - 1)
    (a, c, decide (n ≤ c))
  else (a, c, false)

/-- The sequencer takes an event (spec/18 R332). -/
def State.takeEvent (s : State) (k : CtxKey) (e : TrigEv) : State :=
  let x := s.seqSt k
  let x' : SeqSt := match x.seq with
    | 1 =>
      let r := s.ruleStep k false x.a0 x.c0 e
      let y := { x with a0 := r.1, c0 := r.2.1 }
      if r.2.2 then s.seqEnter k { y with seq := 2 } else y
    | 2 =>
      let r := s.ruleStep k true x.a1 x.c1 e
      let y := { x with a1 := r.1, c1 := r.2.1 }
      if r.2.2 then { y with seq := 3 } else y
    | _ => x
  let s := if (admits x.seq || x'.seq == 2) && s.bringsRec k e then s.keepRecord k e.rec_ else s
  s.putSeq k x'

/-- The event that the sequencer takes next: the earliest, of equal ones that of the lowest core (spec/18 R331). -/
def nextEvent : List TrigEv → Option TrigEv
  | [] => none
  | e :: es => match nextEvent es with
    | none => some e
    | some f => if f.wtime < e.wtime ∨ (f.wtime = e.wtime ∧ f.core < e.core) then some f else some e

/-- Remove the first occurrence. -/
def dropEvent (e : TrigEv) : List TrigEv → List TrigEv
  | [] => []
  | x :: xs => if x = e then xs else x :: dropEvent e xs

/-- SEQUENCER_EVENT: the sequencer takes one event, once the ns in which it occurred is over (spec/18 R331, R332). -/
def execSequencerEvent (k : CtxKey) (s : State) : Out :=
  match s.ctx? k with
  | none => .next s
  | some c => match nextEvent c.trig with
    | none => .next s
    | some e =>
      if s.wall k.m ≤ e.wtime then .next s
      else .next ((s.setCtx k { c with trig := dropEvent e c.trig }).takeEvent k e)

/-! ### Stores to the debug block (spec/18 R321) -/

/-- SEQ_WRITE (spec/18 R332). -/
def execSeqWrite (k : CtxKey) (v : DWord) (s : State) : Out := .next (s.storeSeq k v.toNat)
/-- WHRD_WRITE (spec/18 R321). -/
def execWhrdWrite (k : CtxKey) (v : DWord) (s : State) : Out := .next (s.storeWhrd k v.toNat)
/-- WHBASE_WRITE (spec/18 R321). -/
def execWhbaseWrite (k : CtxKey) (v : DWord) (s : State) : Out := .next (s.storeWhbase k v.toNat)
/-- CAPBASE_WRITE (spec/18 R321). -/
def execCapbaseWrite (k : CtxKey) (v : DWord) (s : State) : Out := .next (s.storeCapbase k v.toNat)
/-- REGISTER_WRITE (spec/18 R321). -/
def execRegisterWrite (k : CtxKey) (off : Nat) (v : DWord) (s : State) : Out := .next (s.storeReg k off v.toNat)

/-! ### The words of class 0x10 (spec/18 R322 to R325) -/

/-- bkpt (spec/18 R323). -/
def execBkpt (code : BitVec 12) (s : State) : Out :=
  issue (.bkpt code) s (fun x =>
    let s := x.step x.g
    .ok (if (x.s.dbg x.g.key 0).testBit 0 then s.teamStop x.g.team (.bkpt code) x.f.pc (some (x.g.gidx, x.sl)) else s))

/-- The record of a trc (spec/18 R324). -/
def Iss.trcRecord (x : Iss) (v : DWord) (tag : BitVec 12) : List DWord :=
  let t := x.s.team? x.g.team
  let n (f : Team → Nat) : Nat := (t.map f).getD 0
  [1#64, 0#64, BitVec.ofNat 64 (tag.toNat * 2 ^ 52 + x.k.g * 2 ^ 47 + slotIx x.sl * 2 ^ 46),
    BitVec.ofNat 64 (n (·.z) * 2 ^ 32 + x.f.mask.toNat), BitVec.ofNat 64 (n (·.x) * 2 ^ 32 + n (·.y)),
    (x.s.module x.k.m).wall, x.f.pc, v]

/-- trc (spec/18 R324): its event in every case; its record is kept when TRCEN is set as the event is taken (spec/18 R321). -/
def execTrc (a : SReg) (tag : BitVec 12) (s : State) : Out :=
  issue (.trc a tag) s (fun x =>
    let t := x.s.team? x.g.team
    let r := x.trcRecord (x.g.regs.rdS a.val) tag
    let s := x.s.offer x.g.key ⟨x.s.wall x.k.m, x.k.c, none, none, 1, tag.toNat, (t.map (·.x)).getD 0, (t.map (·.y)).getD 0,
      (t.map (·.z)).getD 0, r⟩
    .ok ({ x with s := s }.step x.g))

/-- smark (spec/18 R325). -/
def execSmark (tag : BitVec 12) (s : State) : Out :=
  issue (.smark tag) s (fun x => .ok (x.s.setGroup x.k (x.g.goto x.sl { x.f with mark := some tag } x.next)))

/-! ### Breakpoints (spec/18 R329) -/

/-- A valid breakpoint of a kind matches a PC. -/
def State.bpMatch (s : State) (k : CtxKey) (pc : DWord) (log : Bool) : Bool :=
  (List.range 16).any (fun b =>
    let v := s.dbg k (0x100 + 8 * b)
    v.testBit 0 && v.testBit 1 == log && v / 8 == pc.toNat / 8)

/-- BREAKPOINT_HIT: the word does not issue; the team stops, and the fragment issues it without a further hit when it is
continued (spec/18 R329). -/
def execBreakpointHit (s : State) : Out :=
  match s.group? s.cur.k with
  | none => .next s
  | some g => match g.frag s.cur.slot with
    | none => .next s
    | some f =>
      if f.bpSkip || s.heldFrag s.cur.k s.cur.slot g f || !s.bpMatch g.key f.pc false then .next s
      else .next ((s.setGroup s.cur.k (g.setFrag s.cur.slot (some { f with bpSkip := true }))).teamStop g.team .brk f.pc
        (some (g.gidx, s.cur.slot)))

/-- A record of 8 words with its kind. -/
def kindRecord (kind : Nat) (ws : List DWord) : List DWord :=
  match ws with
  | [] => BitVec.ofNat 64 kind :: List.replicate 7 0#64
  | w :: ws => ((w &&& ~~~255#64) ||| BitVec.ofNat 64 kind) :: (ws ++ List.replicate 7 0#64).take 7

/-- LOG_BREAKPOINT: the snapshot of the state that the word left goes to the capture ring (spec/18 R329); a team that the word ended
leaves its core then. -/
def execLogBreakpoint (s : State) : Out :=
  match s.group? s.cur.k with
  | none => .next s
  | some g => match g.logAt with
    | none => .next s
    | some (sl, pc) =>
      let t := s.team? g.team
      let n (f : Team → Nat) : Nat := (t.map f).getD 0
      let snap : Snapshot := ⟨pc, (s.module g.key.m).wall, n (·.x), n (·.y), n (·.z), s.cur.k.g, sl, g.f0, g.f1, g.stackBytes,
        { g.regs with v := g.regs.v.filter (fun e => (Config.namedVregs pc).contains (e.1 / 32)) },
        g.flights.flatMap (fun f => f.dests)⟩
      let s := s.setGroup s.cur.k { g with logAt := none }
      let s := s.capture g.key (kindRecord 3 (Config.snapshotHead snap))
      .next (((Config.snapshotBodies snap).foldl (fun s b => s.capture g.key (kindRecord 4 b)) s).tryEnd g.team)

/-! ### Team stops (spec/18 R329, R330) -/

/-- A record of the arrival dump: the object's bytes are those at its unit now; when its level no longer holds it they are
open. -/
def State.dumpRecord (s : State) (team : Nat) (key : CtxKey) (die : DieKey) (e : ArrLog) (ent : Nat) : State :=
  let obj := match (s.barRef team key die e.ba).bind s.objRead with
    | some v => v
    | none => ofBytes ((List.range 16).map (fun i => Config.freeByte (s.freeCtr + i)))
  { s with freeCtr := s.freeCtr + 16 }.capture key [5#64, 0#64,
    BitVec.ofNat 64 (e.grp * 2 ^ 59 + slotIx e.frag * 2 ^ 58 + ent * 2 ^ 56 + (if e.comp then 2 ^ 55 else 0) +
      (if e.drop then 2 ^ 54 else 0)),
    BitVec.ofNat 64 (e.phase.toNat * 2 ^ 32 + e.bytes.toNat), e.wtime, BitVec.ofNat 64 (obj % 2 ^ 64),
    BitVec.ofNat 64 (obj / 2 ^ 64), e.ba]

/-- The waiting fragments of a group as log entries. -/
def Group.waiting (g : Group) (grp : Nat) : List ArrLog :=
  [(Slot.f0, g.f0), (Slot.f1, g.f1)].filterMap (fun (e : Slot × Option Frag) => (e.2.bind (·.wait)).map (fun (w : BarWait) =>
    ⟨g.team, w.ba, w.since, w.phase, 0, grp, e.1, 2, false, false⟩))

/-- Insert by WALLTIME. -/
def insertLog (e : ArrLog) : List ArrLog → List ArrLog
  | [] => [e]
  | x :: xs => if e.wtime.toNat < x.wtime.toNat then e :: x :: xs else x :: insertLog e xs

/-- TEAM_STOP: every group has stopped: the team is saved and halted, the issue record and the arrival dump are written
(spec/18 R329, R330, R334). -/
def execTeamStop (team : Nat) (cause : StopCause) (s : State) : Out :=
  match s.team? team with
  | none => .next s
  | some t =>
    if t.halted || t.stop.all (fun c => c.1 != cause) then .next s
    else
      let here := match t.st with
        | .resident .. => true
        | .listed | .saved _ | .ended => false
      if here && !s.teamLeaves team then .next s
      else
        let die : DieKey := ⟨t.key.m, (t.coreOf.getD t.lastCore) / 48⟩
        let log := match t.coreOf with
          | some c => (s.core ⟨t.key.m, c⟩).arrlog.filter (fun a => a.team == team)
          | none => []
        let waits := if here then (s.groupsOf team).flatMap (fun e => e.2.waiting e.1.g)
          else t.images.flatMap (fun e => e.2.waiting e.1)
        let s := if here then s.saveTeam team else s
        let s := (s.modTeam team (fun t => { t with halted := true })).modCtx t.key (fun c =>
          { c with runnable := c.runnable.filter (fun x => x ≠ team) })
        let s := s.flushIssue t.key
        let s := ((if here then waits else []).foldl (fun l e => insertLog e l) log).foldl
          (fun s e => s.dumpRecord team t.key die e e.ent) s
        .next (waits.foldl (fun s e => s.dumpRecord team t.key die e 2) s)

/-- A halted team goes on: it joins its context's list when it is runnable (spec/18 R329). -/
def State.contTeam (s : State) (team : Nat) (step : Bool) : State :=
  match s.team? team with
  | none => s
  | some t =>
    if !t.halted then s
    else
      let s := s.setTeam team { t with halted := false, stop := none, also := [], stepping := step, joined := s.wall t.key.m,
                                       stopAt := if step then t.stopAt else none }
      let run := match t.st with
        | .listed | .saved true => true
        | .saved false | .resident .. | .ended => false
      if run then s.modCtx t.key (fun c => { c with runnable := c.runnable ++ [team] }) else s

/-- DEBUG_CONT: svdb continues a halted team, or a halted context with its teams (spec/18 R329, R336). -/
def execDebugCont (t : ContTarget) (s : State) : Out :=
  match t with
  | .team t => .next (s.contTeam t false)
  | .ctx k => match s.ctx? k with
    | none => .next s
    | some c =>
      if !c.haltedDbg then .next s
      else .next ((s.teams.filter (fun e => e.2.key == k)).foldl (fun s e => s.contTeam e.1 false)
        (s.setCtx k { c with haltedDbg := false }))

/-- DEBUG_STEP: the stopped fragment is to issue one word, after which the team stops again (spec/18 R329). -/
def execDebugStep (team : Nat) (s : State) : Out :=
  match s.team? team with
  | none => .next s
  | some t => if t.stopAt.isNone then .next s else .next (s.contTeam team true)

/-! ### Watches (spec/18 R335, R336) -/

/-- The fragment at which a watch of the group path stops: the accessing one. -/
def State.watchFrag (s : State) (a : WatchAcc) : Option (Nat × Slot) :=
  match a.path with
  | .group => ((s.groupsOf a.team).find? (fun e => e.1.g == a.grp)).map (fun e => (e.2.gidx, a.slot))
  | .copy | .tile | .coll | .shard => none

/-- WATCH_HIT: the record of a watched access, and the stop that it asks for, the second of a halting team being reported with the first
(spec/18 R321, R329, R335, R336). -/
def execWatchHit (i : Nat) (s : State) : Out :=
  match s.watches[i]? with
  | none => .next s
  | some a =>
    if (s.watches.take i).any (fun b => b.key == a.key) then .next s
    else
      let k := a.key
      let t := s.team? a.team
      let ended := !t.any (fun t => t.st != .ended)
      let halted := (s.ctx? k).any (·.haltedDbg)
      let asks := (s.dbg k (0x88 + 16 * a.w)).testBit 50
      let stops := asks && !halted && (ended || t.any (fun t => !t.halted))
      let n := s.dbg k 0xC8
      let d := s.dbg k 0xD0
      let num (f : Team → Nat) : Nat := (t.map f).getD 0
      let r : Nat := a.va.toNat * 2 ^ 192 + a.pc.toNat * 2 ^ 128 + num (·.x) * 2 ^ 96 + num (·.y) * 2 ^ 64 + num (·.z) * 2 ^ 32 +
        a.grp * 2 ^ 15 + Path.code a.path * 2 ^ 12 + a.acc * 2 ^ 10 + a.w * 2 ^ 8 + (if stops then 2 else 0) +
        (if ended then 1 else 0)
      let s := { s with watches := s.watches.eraseIdx i }
      let s := if n - s.dbg k 0xD8 = 256 then
          s.setDbg k 0xD0 (d / 2 ^ 32 * 2 ^ 32 + min (d % 2 ^ 32 + 1) (2 ^ 32 - 1))
        else State.setDbg { s with mem := mwriteN s.mem (s.dbg k 0xC0 + 32 * (n % 256)) (toBytes 32 r) } k 0xC8 (n + 1)
      let s := if !stops then s
        else if ended then
          (s.teams.filter (fun e => e.2.key == k)).foldl (fun s e => s.teamStop e.1 .watch a.pc none)
            (s.modCtx k (fun c => { c with haltedDbg := true }))
        else s.teamStop a.team .watch a.pc (s.watchFrag a)
      .next (s.tryEnd a.team)

/-! ### Stitch records (spec/18 R327, R328) -/

/-- STITCH_RECORD_RETURN: the record comes back with the reply; the core's sample buffer takes it, or SDROP counts it. -/
def execStitchRecordReturn (i : Nat) (s : State) : Out :=
  match s.stitches.find? (fun y => y.id == i) with
  | none => .next s
  | some y =>
    if !s.answered y then .next s
    else
      let total := min (s.wall y.core.m - y.issued) (2 ^ 31 - 1)
      let s := { s with stitches := s.stitches.filter (fun z => z.id ≠ i) }
      let w := s.dbg y.key 0xD0
      let s := if (s.core y.core).samples.length < 64 then
          s.modCore y.core (fun c => { c with samples := c.samples ++ [{ y with total := total }] })
        else s.setDbg y.key 0xD0 (min (w / 2 ^ 32 + 1) (2 ^ 32 - 1) * 2 ^ 32 + w % 2 ^ 32)
      .next (s.offer y.key ⟨s.wall y.core.m, y.core.c, none, none, 2, total, y.x, y.y, y.z, []⟩)

end Sys2Proof.Machine
end

