-- ==== Sys2Proof/Machine/Plane.lean ====
section
/-! DEFINITION. The control plane and the host (spec/14 R277 to R289; spec/12 R252; spec/01 R12): contexts, queues and their
packets, events, grids, partitions, host accesses. -/

namespace Sys2Proof.Machine

/-! ### Packets (spec/14 R279, R280) -/

/-- A context's queues start packets: it is not halted or torn down and holds a partition (spec/14 R268, R277; spec/18
R336). -/
def State.mayStart (s : State) (k : CtxKey) : Bool := s.schedules k

/-- A packet that is about to start: its index and where its 64 bytes lie. -/
structure Pkt where
  idx : Nat
  pa : Nat
deriving DecidableEq, Repr

/-- The next packet of a command queue, if every rule but the partition lets it start: no WAIT_EVENT before it is
incomplete; a SIGNAL_EVENT, MARK or FENCE also waits for every earlier packet (spec/14 R280). -/
def State.startable (s : State) (k : CtxKey) (q : Nat) : Option Pkt :=
  match s.queue? k q with
  | none => none
  | some qu =>
    let h := s.qHead qu
    if qu.data || qu.off || h == s.qTail qu || !s.qValid qu then none
    else
      let pa := qu.slotAt h
      let ty := mnat s.mem pa 1
      let waits := qu.packets.any (fun p => p.typ == 2 && !p.done)
      let all := decide (3 ≤ ty) && decide (ty ≤ 5) && !qu.packets.isEmpty
      if waits || all then none else some ⟨h, pa⟩

/-- The packet that starts now. -/
def State.starts (s : State) (k : CtxKey) (q : Nat) : Option Pkt := if s.mayStart k then s.startable k q else none

/-- A field of a packet. -/
def State.pk (s : State) (p : Pkt) (off n : Nat) : Nat := mnat s.mem (p.pa + off) n

/-- A packet starts: HEAD advances. -/
def State.startPacket (s : State) (k : CtxKey) (q : Nat) (p : Pkt) (typ evid value : Nat) : State :=
  match s.queue? k q with
  | none => s
  | some qu => (s.modQueue k q (fun qu => { qu with packets := qu.packets ++ [⟨p.idx, typ, false, evid, value⟩] })).hwStore
      (qu.block + 16) (toBytes 8 (p.idx + 1))

/-- A packet that fails its checks completes at once: LSTAT, LIDX and the error log record it (spec/14 R279). -/
def State.rejectPacket (s : State) (k : CtxKey) (q : Nat) (p : Pkt) (typ st : Nat) : State :=
  match s.queue? k q with
  | none => s
  | some qu =>
    let s := (s.startPacket k q p typ 0 0).hwStore (qu.block + 0x28) (toBytes 4 (p.idx % 2 ^ 32) ++ toBytes 4 st)
    (s.logErr k ⟨(s.module k.m).wall, 0, 0, 0, 0, 0, BitVec.ofNat 64 st, k.m, 0, 0x09⟩).completePacket k q p.idx

/-- A grid's addition to its completion event, sent to the table; event 0 is none (spec/14 R280, R286). -/
def State.signalGrid (s : State) (k : CtxKey) (ev : Nat) : State :=
  if ev = 0 then s else s.sendAdd k.m ⟨k, ev, 1, .grid, 0, 0, 0⟩

/-- The first check of R279 that a LAUNCH fails: reserved fields and extents, entry, sizes, scratchpad, team. -/
def State.launchStatus (s : State) (p : Pkt) : Option Nat :=
  let gx := s.pk p 16 4
  let gy := s.pk p 20 4
  let gz := s.pk p 24 4
  let gpt := s.pk p 4 1
  let regs := s.pk p 5 1
  if s.pk p 1 1 ≠ 0 ∨ s.pk p 28 1 / 2 ≠ 0 ∨ s.pk p 29 3 ≠ 0 ∨ gx = 0 ∨ gy = 0 ∨ gz = 0 ∨ 2 ^ 32 < gx * gy * gz then some 2
  else if s.pk p 8 8 % 64 ≠ 0 then some 3
  else if gpt = 0 ∨ 32 < gpt ∨ regs = 0 ∨ 32 < regs ∨ 64 < s.pk p 7 1 then some 5
  else if 16 < s.pk p 6 1 then some 1
  else if 2 ^ 18 < gpt * (8 * regs) * 128 then some 4
  else none

/-- A team as its launch lists it. -/
def State.newTeam (s : State) (k : CtxKey) (p : Pkt) (grid prio : Nat) (n gx gy : Nat) : Team where
  grid := grid
  key := k
  x := n % gx
  y := n / gx % gy
  z := n / (gx * gy)
  gpt := s.pk p 4 1
  nregs := 8 * s.pk p 5 1
  s := s.pk p 6 1 * 16384
  lpv := s.pk p 7 1
  tiles := s.pk p 28 1 == 1
  prio := prio
  entry := BitVec.ofNat 64 (s.pk p 8 8)
  args := (List.range 4).map (fun i => BitVec.ofNat 64 (s.pk p (32 + 8 * i) 8))
  st := .listed
  joined := s.wall k.m
  fresh := true
  images := []
  region := []
  tileImg := []
  tileQImg := []
  mprogImg := 0
  lastCore := 0
  stop := none
  also := []
  stopAt := none
  stepping := false
  halted := false
  phc := 0
  gwct := 0
  endedGroups := []

/-- The grid of a LAUNCH: its teams join the tail of the context's list, x first (spec/14 R274, R280, R281); the instruction
caches forget the context's blocks (spec/02 R27; log entry 101). -/
def State.runGrid (s : State) (k : CtxKey) (q : Nat) (p : Pkt) : State :=
  let gx := s.pk p 16 4
  let gy := s.pk p 20 4
  let gz := s.pk p 24 4
  let prio := ((s.queue? k q).map (·.prio)).getD 0
  let n := gx * gy * gz
  let (id, s1) := s.fresh
  let base := s1.nextId
  let s := { s1 with
    nextId := base + n
    cores := s1.cores.map (fun (c : CoreKey × Core) => if c.1.m = k.m then
      (c.1, { c.2 with icache := c.2.icache.filter (fun e => e.1 ≠ k.ctx) }) else c)
    grids := tset s1.grids id ⟨k, q, p.idx, gx, gy, gz, s.pk p 2 2, n, false⟩
    teams := s1.teams ++ (List.range n).map (fun i => (base + i, s.newTeam k p id prio i gx gy)) }
  s.modCtx k (fun c => { c with runnable := c.runnable ++ (List.range n).map (fun i => base + i) })

/-- A LAUNCH started: event 5 (spec/18 R331). -/
def State.noteLaunch (s : State) (k : CtxKey) : State := s.offer k ⟨s.wall k.m, 1152, none, none, 5, 0, 0, 0, 0, []⟩

/-- LAUNCH_PACKET: a LAUNCH starts, is checked and runs its grid or is rejected; a packet of reserved TYPE, or a MARK of
reserved action, is rejected (spec/14 R279, R280, R281; spec/18 R333). -/
def execLaunchPacket (k : CtxKey) (q : Nat) (s : State) : Out :=
  match s.starts k q with
  | none => .next s
  | some p =>
    let ty := s.pk p 0 1
    if ty = 1 then
      let s := s.noteLaunch k
      .next (match s.launchStatus p with
        | some st => (s.rejectPacket k q p 1 st).signalGrid k (s.pk p 2 2)
        | none => (s.startPacket k q p 1 0 0).runGrid k q p)
    else if ty = 0 ∨ 5 < ty ∨ (ty = 4 ∧ (s.pk p 1 1 = 0 ∨ 5 < s.pk p 1 1)) then .next (s.rejectPacket k q p ty 2)
    else .next s

/-- A queue stops as QUEUE_BAD would, at a WAIT_EVENT on an inactive event (spec/14 R286, R287). -/
def State.eventStops (s : State) (k : CtxKey) (q id : Nat) : State :=
  (s.modQueue k q (fun qu => { qu with badEvent := true })).logErr k
    ⟨(s.module k.m).wall, BitVec.ofNat 64 (((s.queue? k q).map (·.block)).getD 0), 0, 0, 0, 0, BitVec.ofNat 64 id, k.m, 0, 0x0A⟩

/-- WAIT_EVENT: the packet completes when COUNT has reached VALUE, else it joins the event's wait list (spec/14 R280,
R286). -/
def execWaitEvent (k : CtxKey) (q : Nat) (s : State) : Out :=
  match s.starts k q with
  | none => .next s
  | some p =>
    if s.pk p 0 1 ≠ 2 then .next s
    else if s.pk p 1 1 ≠ 0 ∨ s.pk p 4 4 ≠ 0 ∨ (List.range 6).any (fun i => s.pk p (16 + 8 * i) 8 != 0) then
      .next (s.rejectPacket k q p 2 2)
    else
      let id := s.pk p 2 2
      let v := s.pk p 8 8
      let s := s.startPacket k q p 2 id v
      let md := s.module k.m
      match md.events.find? (fun e => e.1 == id && e.2.key == k) with
      | none => .next (s.eventStops k q id)
      | some (_, e) =>
        if v ≤ e.count.toNat then .next (s.completePacket k q p.idx)
        else
          let w := (k, q, p.idx, v)
          let e' := if e.inline.length < 16 then { e with inline := e.inline ++ [w] }
            else { e with overflow := e.overflow ++ [w] }
          .next (s.setModule k.m { md with events := md.events.map (fun (x : Nat × Event) => if x.1 = id then (id, e') else x) })

/-- SIGNAL_EVENT: an addition of ADD, where 0 acts as 1, is sent to the table; the packet is complete once it is added (spec/14 R280,
R286). -/
def execSignalEvent (k : CtxKey) (q : Nat) (s : State) : Out :=
  match s.starts k q with
  | none => .next s
  | some p =>
    if s.pk p 0 1 ≠ 3 then .next s
    else if s.pk p 1 1 ≠ 0 ∨ (List.range 7).any (fun i => s.pk p (8 + 8 * i) 8 != 0) then .next (s.rejectPacket k q p 3 2)
    else
      let id := s.pk p 2 2
      let n := max 1 (s.pk p 4 4)
      .next ((s.startPacket k q p 3 id 0).sendAdd k.m ⟨k, id, n, .packet q p.idx, 0, 0, 0⟩)

/-- FENCE: it starts once every earlier packet is complete, and completes at once (spec/14 R280). -/
def execFencePacket (k : CtxKey) (q : Nat) (s : State) : Out :=
  match s.starts k q with
  | none => .next s
  | some p =>
    if s.pk p 0 1 ≠ 5 then .next s
    else if s.pk p 1 7 ≠ 0 ∨ (List.range 7).any (fun i => s.pk p (8 + 8 * i) 8 != 0) then .next (s.rejectPacket k q p 5 2)
    else .next ((s.startPacket k q p 5 0 0).completePacket k q p.idx)

/-- A MARK of an action acts on the sequencer at the instant it starts, every event offered before it having been taken
(spec/18 R333). -/
def State.markPacket (s : State) (k : CtxKey) (q act : Nat) (f : State → Nat → State) : State :=
  match s.starts k q with
  | none => s
  | some p =>
    if s.pk p 0 1 ≠ 4 ∨ s.pk p 1 1 ≠ act ∨ !((s.ctx? k).any (fun c => c.trig.isEmpty)) then s
    else if s.pk p 2 2 ≠ 0 ∨ (List.range 7).any (fun i => s.pk p (8 + 8 * i) 8 != 0) then s.rejectPacket k q p 4 2
    else
      let mark := s.pk p 4 4
      (f (s.startPacket k q p 4 act mark) mark).completePacket k q p.idx

/-- MARK_ARM (spec/18 R333). -/
def execMarkArm (k : CtxKey) (q : Nat) (s : State) : Out :=
  .next (s.markPacket k q 1 (fun s _ => s.putSeq k (s.seqEnter k ⟨1, false, false, 0, 0⟩)))
/-- MARK_DISARM (spec/18 R333). -/
def execMarkDisarm (k : CtxKey) (q : Nat) (s : State) : Out :=
  .next (s.markPacket k q 2 (fun s _ => s.putSeq k ⟨0, false, false, 0, 0⟩))
/-- MARK_START (spec/18 R333). -/
def execMarkStart (k : CtxKey) (q : Nat) (s : State) : Out :=
  .next (s.markPacket k q 3 (fun s _ => s.putSeq k (s.seqEnter k { s.seqSt k with seq := 2, a1 := false, c1 := 0 })))
/-- MARK_FREEZE (spec/18 R333). -/
def execMarkFreeze (k : CtxKey) (q : Nat) (s : State) : Out :=
  .next (s.markPacket k q 4 (fun s _ => s.putSeq k { s.seqSt k with seq := 3 }))
/-- MARK_EVENT (spec/18 R331, R333). -/
def execMarkEvent (k : CtxKey) (q : Nat) (s : State) : Out :=
  .next (s.markPacket k q 5 (fun s mark => s.takeEvent k ⟨s.wall k.m, 1152, none, none, 6, mark, 0, 0, 0, []⟩))

/-! ### Grids (spec/12 R252) -/

/-- A queued tile instruction that stores for its group; the others belong to the matrix engine and its fetch unit alone. -/
def TileEnt.stores (e : TileEnt) : Bool :=
  match e.op with
  | .st .. | .accSt .. => true
  | .ld .. | .zero .. | .mmac .. | .mmacg .. | .accLd .. | .cvt .. => false

/-- A team has ended, or is held back by nothing but operations of its engines, which no completion waits for, wherever it is: every
group has ended and performed what it issued (spec/12 R252); the latest GWCT returned to it. -/
def State.teamDone (s : State) (id : Nat) (t : Team) : Option Nat :=
  let doneBy (gs : List Group) (q : List TileEnt) : Option Nat :=
    if gs.all Group.drained && (!t.tiles || q.all (fun e => !e.stores)) then
      some (gs.foldl (fun n g => max n (g.gwctOf allLanes)) t.gwct)
    else none
  match t.st with
  | .ended => some t.gwct
  | .resident c _ _ => doneBy ((s.groupsOf id).map (·.2)) (s.core ⟨t.key.m, c⟩).tileQ
  | .saved _ => doneBy (t.images.map (·.2)) t.tileQImg
  | .listed => none

/-- Everything the grid's groups issued has been performed and has passed. -/
def State.gridDone (s : State) (grid : Nat) (m : Nat) : Bool :=
  let of (t : Nat) : Bool := (s.team? t).any (fun x => x.grid == grid)
  s.teams.all (fun t => t.2.grid != grid || (s.teamDone t.1 t.2).any (fun n => n == 0 || passed (s.wall m) n)) &&
  !s.unlks.any (fun u => of u.team && !u.performed) &&
  !s.flags.any (fun f => of f.team) && !s.landings.any (fun l => l.ack && of l.team) &&
  !s.barq.any (fun q => of q.team && (match q.src with
    | .group .. | .flag | .landing none none _ => true
    | .landing .. => false))

/-- GRID_COMPLETE: the grid is reported complete and its event signalled; its LAUNCH packet is complete (spec/12 R252,
spec/14 R280). -/
def execGridComplete (grid : Nat) (s : State) : Out :=
  match s.grid? grid with
  | none => .next s
  | some g =>
    let busy := (s.teams.filter (fun t => t.2.grid == grid && t.2.st != .ended)).length
    if g.complete || g.left ≠ busy || !s.gridDone grid g.key.m then .next s
    else .next (((s.setGrid grid { g with complete := true }).signalGrid g.key g.sigev).completePacket g.key g.q g.idx)

/-! ### Events (spec/14 R286, R287) -/

/-- EVENT_ACTIVATE: an ID from 1 to 65,535 that is not active, among at most 4,096. -/
def execEventActivate (k : CtxKey) (id : Nat) (s : State) : Out :=
  let md := s.module k.m
  if id = 0 ∨ 65535 < id ∨ 4096 ≤ md.events.length ∨ md.events.any (fun e => e.1 == id) ∨
    !((s.ctx? k).any (fun c => c.torn.isNone)) then .next s
  else .next (s.setModule k.m { md with events := md.events ++ [(id, ⟨k, 0, [], []⟩)] })

/-- Deactivate an event, one step at the table: the queues that wait on it stop. -/
def State.dropActive (s : State) (m id : Nat) : State :=
  let md := s.module m
  match md.events.find? (fun e => e.1 == id) with
  | none => s
  | some (_, e) =>
    let s := s.setModule m { md with events := md.events.filter (fun x => x.1 ≠ id) }
    (e.inline ++ e.overflow).foldl (fun s w => s.eventStops w.1 w.2.1 id) s

/-- EVENT_DEACTIVATE (spec/14 R287). -/
def execEventDeactivate (m id : Nat) (s : State) : Out := .next (s.dropActive m id)

/-! ### Queues (spec/14 R277, R278) -/

/-- Bit 63 of PROGRESS says whether the queues of a context are resident; the window goes on to show the value held at a switch-out
(spec/14 R278). -/
def State.queuesResident (s : State) (k : CtxKey) (on : Bool) : State :=
  match s.ctx? k with
  | none => s
  | some c => c.queues.foldl (fun s q =>
      let w := mnat s.mem (q.2.block + 8) 8
      if w.testBit 63 = on then s
      else (s.modQueue k q.1 (fun x => { x with outAt := w % 2 ^ 63 })).hwStore (q.2.block + 8)
        (toBytes 8 (w % 2 ^ 63 + (if on then 2 ^ 63 else 0)))) s

/-- QUEUE_CREATE: the control plane writes the block of a new queue. -/
def execQueueCreate (p : QueueParams) (s : State) : Out :=
  match s.ctx? p.k with
  | none => .next s
  | some c =>
    if c.torn.isSome || 255 < p.q || c.queues.any (fun q => q.1 == p.q) || p.block % 128 ≠ 0 || p.ring % 64 ≠ 0 ||
      !ownLpddr p.k.m p.block || !ownLpddr p.k.m p.ring || p.logsz < 4 || 20 < p.logsz || 3 < p.prio then .next s
    else
      let s := s.setCtx p.k { c with queues := c.queues ++ [(p.q, ⟨p.block, p.ring, p.logsz, p.prio, p.data, p.devpush, false,
        false, [], 0⟩)] }
      let cfg := (if p.devpush then 2 ^ 14 else 0) + p.prio * 2 ^ 12 + (if p.data then 2 ^ 11 else 0) + p.logsz
      .next (s.hwStore p.block (toBytes 8 0 ++ toBytes 8 (if c.dies.isEmpty then 0 else 2 ^ 63) ++ toBytes 8 0 ++
        toBytes 8 p.ring ++ toBytes 8 cfg ++ toBytes 88 0))

/-- What a window read of PROGRESS returns: while the queue is switched out, the value held at the switch-out (spec/14 R278). -/
def State.windowProgress (s : State) (q : Queue) : Nat :=
  let w := mnat s.mem (q.block + 8) 8
  if w.testBit 63 then w else q.outAt

/-- A window write that is ignored is logged (spec/14 R278). -/
def State.windowIgnored (s : State) (k : CtxKey) (n : Nat) (q : Queue) : State :=
  s.logErr k ⟨(s.module k.m).wall, BitVec.ofNat 64 q.block, 0, 0, 0, 0, BitVec.ofNat 64 n, k.m, 0, 0x10⟩

/-- HOST_TAIL_WRITE: a window write of TAIL is a store to the block; one to a DEVPUSH queue is ignored and logged. It
restarts a queue that a WAIT_EVENT on an inactive event stopped, whose WAIT_EVENT completes (spec/14 R278, R287). -/
def execHostTailWrite (k : CtxKey) (q : Nat) (v : DWord) (s : State) : Out :=
  match s.queue? k q with
  | none => .next s
  | some qu =>
    if qu.devpush then .next (s.windowIgnored k q qu)
    else
      let s := s.hwStore qu.block (toBytes 8 v.toNat)
      if !qu.badEvent then .next s
      else
        let s := s.modQueue k q (fun qu => { qu with badEvent := false })
        .next ((qu.packets.filter (fun p => p.typ == 2 && !p.done)).foldl (fun s p => s.completePacket k q p.idx) s)

/-! ### Host accesses (spec/01 R12) -/

/-- The parts of a host access by line. -/
def lineCuts (pa : Nat) : Nat → Nat → List (Nat × Nat)
  | 0, _ => []
  | _, 0 => []
  | fuel + 1, n =>
    let l := min n (128 - pa % 128)
    (pa, l) :: (lineCuts (pa + l) fuel (n - l))

/-- The host holds a lease on a line that it has read, as a proxy does; none is given on a locked line (spec/09 R172, spec/08 R154). -/
def State.hostLease (s : State) (m l : Nat) : State :=
  if (s.line l).lock.isSome then s
  else { s with freeCtr := s.freeCtr + 1 }.enterLease m l (s.wall m + (Config.hostLease s.freeCtr).toNat)

/-- Read bytes for the host: none while some line must wait; lost bytes are open. -/
def State.hostRead (s : State) (m : Nat) : List (Nat × Nat) → Option (List Byte × State)
  | [] => some ([], s)
  | (pa, n) :: rest => match s.engRead m pa n with
    | .wait => none
    | .lost => (State.hostRead { s with freeCtr := s.freeCtr + n } m rest).map (fun r =>
        ((List.range n).map (fun i => Config.freeByte (s.freeCtr + i)) ++ r.1, r.2))
    | .ok bs s => (State.hostRead (s.hostLease m (lineOf pa)) m rest).map (fun r => (bs ++ r.1, r.2))

/-- Write bytes for the host. -/
def State.hostWrite (s : State) (m : Nat) (bs : List Byte) (base : Nat) : List (Nat × Nat) → Option State
  | [] => some s
  | (pa, n) :: rest => match s.engWrite m pa ((bs.drop (pa - base)).take n) .host with
    | none => none
    | some (_, s) => State.hostWrite s.settlePend m bs base rest

/-- HOST_ACCESS: the host loads or stores device memory of its module, which has left reset (spec/01 R4), coherently at .sys scope (spec/01 R12), or reaches a queue's
window: it reads TAIL or PROGRESS there, or writes at PROGRESS, which is ignored and logged (spec/14 R278). -/
def execHostAccess (a : HostAcc) (s : State) : Out :=
  match a with
  | .load m addr len =>
    let pa := m * 2 ^ 48 + addr
    if !(s.module m).ready || !s.populated pa || !s.populated (pa + len - 1) || 2 ^ 48 ≤ addr + len then .next s
    else match s.hostRead m (lineCuts pa (len + 1) len) with
      | none => .next s
      | some (bs, s) => .next (s.modModule m (fun x => { x with hostRead := bs }))
  | .store m addr bs =>
    let pa := m * 2 ^ 48 + addr
    if !(s.module m).ready || !s.populated pa || !s.populated (pa + bs.length - 1) || 2 ^ 48 ≤ addr + bs.length then .next s
    else match s.hostWrite m bs pa (lineCuts pa (bs.length + 1) bs.length) with
      | none => .next s
      | some s => .next s
  | .windowRead k q progress => match s.queue? k q with
    | none => .next s
    | some qu =>
      let v := if progress then s.windowProgress qu else s.qTail qu
      .next (s.modModule k.m (fun x => { x with hostRead := toBytes 8 v }))
  | .windowProgress k q => match s.queue? k q with
    | none => .next s
    | some qu => .next (s.windowIgnored k q qu)

/-! ### Contexts (spec/14 R275, R288; spec/19 R341, R342) -/

/-- The figures of a context are within their bounds (spec/07 R119; spec/08 R159; spec/13 R256; spec/14 R265, R273, R288; spec/15 R290,
R298, R302; spec/18 R321); its save area holds at least the vector registers of every core (spec/14 R275; log entry 44). -/
def CtxOk (p : CtxParams) : Bool :=
  decide (p.k.ctx < 4096) && ownLpddr p.k.m p.ptroot && p.ptroot % 4096 == 0 && p.handler &&& 63#64 == 0#64 &&
  decide (100 ≤ p.quantumUs) && decide (p.quantumUs ≤ 100000) &&
  ((List.range 15).map (fun i => 2 ^ (16 + i))).contains p.locklim &&
  decide (1 ≤ p.mind) && decide (p.mind ≤ 12) && decide (1 ≤ p.weight) && decide (p.weight ≤ 255) &&
  p.pksMib % 16 == 0 && decide (p.pksMib ≤ 16 * p.mind) &&
  decide (1 ≤ p.poolN) && decide (p.poolN ≤ 65536) && p.poolBase % 2 ^ 21 == 0 && ownLpddr p.k.m p.poolBase &&
  decide (p.poolBase % 2 ^ 48 + p.poolN * 2 ^ 21 ≤ 0x018000000000) && ownLpddr p.k.m p.sgTable &&
  decide (2 ≤ p.shardStaging) && decide (p.shardStaging ≤ 256) && p.dbgBase % 512 == 0 && ownLpddr p.k.m p.dbgBase &&
  [p.errBase, p.collBase, p.shardBase].all (fun a => a % 64 == 0 && ownLpddr p.k.m a) &&
  decide (p.collBase % 2 ^ 48 + 2 ^ 22 ≤ 0x018000000000) && decide (576 * 2 ^ 18 ≤ p.saveLen)

/-- A context at its creation: counters zeroed, no partition yet. -/
def Context.fresh (p : CtxParams) (now : Nat) : Context where
  p := p
  dies := []
  prevDies := []
  slices := 0
  ctxclk := 0
  clkRem := 0
  frames := []
  returning := []
  poolLost := false
  queues := []
  runnable := []
  usage := []
  sat := []
  err := []
  logovf := 0
  halted := false
  haltedDbg := false
  fault := none
  collSeq := []
  recorded := []
  stale := []
  trig := []
  issBuf := []
  created := now
  torn := none
  openIv := []

/-- The dies without the trace records of a context (spec/13 R257, spec/16 R318). -/
def State.dropTraces (s : State) (k : CtxKey) : Table DieKey Die :=
  s.dies.map (fun (d : DieKey × Die) => if d.1.m = k.m then (d.1, { d.2 with
    collRecs := d.2.collRecs.filter (fun r => r.1 ≠ k.ctx), shardRecs := d.2.shardRecs.filter (fun r => r.1 ≠ k.ctx) }) else d)

/-- CONTEXT_CREATE: the control plane creates a context on a module that is ready and not retired; its package scratchpad
and debug block read zero (spec/14 R275, spec/07 R119, spec/18 R321, spec/19 R346). -/
def execContextCreate (p : CtxParams) (s : State) : Out :=
  match tget s.mods p.k.m with
  | none => .next s
  | some md =>
    if !md.ready || md.life == .retired || (s.ctx? p.k).isSome || !CtxOk p then .next s
    else
      let s := { s.sound .pks (pksAt p.k 0) (2 ^ 48) with
        ctxs := s.ctxs ++ [(p.k, { Context.fresh p md.wall.toNat with poolLost := !md.lostDies.isEmpty })]
        collLost := s.collLost.filter (fun c => c.1 ≠ p.k)
        dies := s.dropTraces p.k
        pks := mclear s.pks (pksAt p.k 0) (2 ^ 48)
        mem := mclear s.mem p.dbgBase 512 }
      .next s

/-- A context's groups leave the machine: the merged reductions they have a part in are performed and counted, their locks are
force-released, their requests and waits go (spec/08 R150, spec/19 R340). -/
def State.dropTeams (s : State) (k : CtxKey) : State :=
  let s := (s.lines.filter (fun l => l.2.red.any (fun r => r.from_.any (fun c => (s.group? c.1).any (fun g => g.key == k))))).foldl
    (fun s l => s.applyRed l.1) s
  let own (t : Nat) : Bool := (s.team? t).any (fun x => x.key == k)
  let gone (g : GKey) : Bool := (s.group? g).any (fun x => x.key == k)
  let held := (s.groupsOfCtx k).flatMap (fun e => e.2.locks.map (fun h => (e.2.team, e.1.g, h))) ++
    (s.teams.filter (fun t => t.2.key == k)).flatMap (fun t => t.2.images.flatMap (fun i => i.2.locks.map (fun h => (t.1, 0, h))))
  let s := held.foldl (fun s e => s.forceRelease k e.1 e.2.1 e.2.2) s
  { s with
    groups := s.groups.filter (fun e => e.2.key ≠ k)
    teams := s.teams.map (fun (t : Nat × Team) => if t.2.key = k then (t.1, { t.2 with st := .ended, images := [], tileQImg := [] }) else t)
    cores := s.cores.map (fun (c : CoreKey × Core) => (c.1, { c.2 with
      eyelets := c.2.eyelets.filter (fun y => !gone ⟨c.1.m, c.1.c, y.grp⟩)
      tlb := if c.1.m = k.m then c.2.tlb.filter (fun e => e.ctx ≠ k.ctx) else c.2.tlb
      icache := if c.1.m = k.m then c.2.icache.filter (fun e => e.1 ≠ k.ctx) else c.2.icache
      arrlog := c.2.arrlog.filter (fun a => !own a.team) }))
    dies := s.dies.map (fun (d : DieKey × Die) => if d.1.m = k.m then
      (d.1, { d.2 with walker := d.2.walker.filter (fun e => e.ctx ≠ k.ctx) }) else d)
    lines := s.lines.map (fun (l : Nat × Line) => (l.1, { l.2 with
      queue := l.2.queue.filter (fun w => w.key ≠ k)
      lock := l.2.lock.map (fun e => if e.holder.key = k then { e with st := .handoff } else e) }))
    reqs := s.reqs.map (fun (q : Req) => match q.payload with
      | .entry g _ | .lane g _ _ | .fill g _ | .lock g _ => if gone g then { q with closed := true } else q
      | .flag _ | .shuttle _ | .stream _ | .slReq .. | .contrib .. | .unlk _ | .engine _ => q)
    pend := s.pend.map (fun (p : PendWrite) => match p.origin with
      | .entry g _ | .lane g _ _ => if gone g then { p with origin := .host } else p
      | .engine _ | .flag _ | .host => p)
    flags := s.flags.filter (fun f => f.key ≠ k || f.performed)
    barq := s.barq.filter (fun q => q.key ≠ k)
    shuttles := s.shuttles.map (fun (p : Shuttle) => if p.key = k then { p with dead := true } else p)
    watches := s.watches.filter (fun w => w.key ≠ k) }

/-- CONTEXT_TEARDOWN: the control plane tears a context down once no copy of it is incomplete; intervals still open end,
locks are force-released, staged state is discarded, events are deactivated (spec/08 R162; spec/10 R200; spec/13 R256;
spec/14 R287; spec/15 R301; spec/19 R341, R342). -/
def execContextTeardown (k : CtxKey) (s : State) : Out :=
  match s.ctx? k with
  | none => .next s
  | some c =>
    if c.torn.isSome || s.cores.any (fun x => x.2.copies.any (fun o => o.key == k)) then .next s
    else
      let on := (s.teams.filterMap (fun t => if t.2.key = k then t.2.coreOf else none)).eraseDups
      let tileOn := on.filter (fun n => (s.tileOwner ⟨k.m, n⟩).any (fun t => t.2.key == k))
      let s := (s.dropTeams k).eventTable k.m
      let s := on.foldl (fun s n => s.closeInterval k n) s
      let s := tileOn.foldl (fun s n => s.modCore ⟨k.m, n⟩ (fun x => { x with tileQ := [], pins := [] })) s
      let s := (s.module k.m).events.foldl (fun s e => if e.2.key = k then s.dropActive k.m e.1 else s) s
      let s := s.queuesResident k false
      let s := { s with
        contribs := s.contribs.filter (fun x => x.key ≠ k)
        rounds := s.rounds.filter (fun r => r.1.1 ≠ k)
        dies := (s.dropTraces k).map (fun (d : DieKey × Die) => (d.1, { d.2 with applying := d.2.applying.filter (fun a => a.key ≠ k) }))
        streams := s.streams.filter (fun x => !(x.held.isSome && x.holder == some k)) }
      .next ((s.modCtx k (fun c => { c with dies := [], prevDies := [], runnable := [], trig := [], issBuf := [],
                                            torn := some (s.wall k.m) })).settlePend)

/-! ### Partitions (spec/14 R288, R289) -/

/-- A context's priority: the highest of its queues that hold a packet not yet complete (spec/14 R282). -/
def State.ctxPrio (s : State) (c : Context) : Nat :=
  (c.queues.filter (fun q => !q.2.data && (!q.2.packets.isEmpty || s.qHead q.2 != s.qTail q.2))).foldl
    (fun p q => max p q.2.prio) 0

/-- A context is runnable: a runnable team, or a queue with a packet that can start (spec/14 R271, R288). -/
def State.ctxRunnable (s : State) (k : CtxKey) (c : Context) : Bool :=
  c.torn.isNone && !c.halted && !c.haltedDbg &&
  (!c.runnable.isEmpty || c.queues.any (fun q => (s.startable k q.1).isSome) ||
   s.teams.any (fun t => t.2.key == k && t.2.coreOf.isSome && !t.2.halted &&
     (!s.teamWaits t.1 || (s.groupsOf t.1).any (fun e => s.groupWakes e.2))))

/-- The runnable contexts of a module, in rising order of their numbers. -/
def State.runnableCtxs (s : State) (m : Nat) : List (Nat × Context) :=
  (s.ctxs.filter (fun c => c.1.m == m && s.ctxRunnable c.1 c.2)).foldl (fun (l : List (Nat × Context)) c =>
    (l.filter (fun x => x.1 < c.1.ctx)) ++ (c.1.ctx, c.2) :: l.filter (fun x => c.1.ctx < x.1)) []

/-- Spare dies by weight: whole shares, then the largest remainders, ties to the lower number (spec/14 R288). -/
def shares (spare : Nat) (ws : List (Nat × Nat)) : List (Nat × Nat) :=
  let tot := (ws.map (·.2)).sum
  let whole := ws.map (fun w => (w.1, spare * w.2 / tot, spare * w.2 % tot))
  let rest := spare - (whole.map (·.2.1)).sum
  let rank (w : Nat × Nat × Nat) : Nat := (whole.filter (fun v => decide (w.2.2 < v.2.2) || (v.2.2 == w.2.2 && decide (v.1 < w.1)))).length
  whole.map (fun w => (w.1, w.2.1 + (if rank w < rest then 1 else 0)))

/-- Place sizes on dies: each context in turn keeps its previous dies, the lowest first; each then takes the lowest that
none has kept or taken. -/
def placeDies (avail : List Nat) (cs : List (Nat × Nat × List Nat)) : List (Nat × List Nat) :=
  let kept := cs.foldl (fun (a : List (Nat × Nat × List Nat)) c =>
    let used := a.flatMap (fun x => x.2.2)
    a ++ [(c.1, c.2.1, ((avail.filter (fun d => c.2.2.contains d && !used.contains d)).take c.2.1))]) []
  kept.foldl (fun (a : List (Nat × List Nat)) c =>
    let used := kept.flatMap (fun x => x.2.2) ++ a.flatMap (fun x => x.2)
    a ++ [(c.1, c.2.2 ++ (avail.filter (fun d => !used.contains d)).take (c.2.1 - c.2.2.length))]) []

/-- The contexts packed into a slice: in rotation order, each that still finds its MIND dies free. -/
def packSlice (n : Nat) (cs : List (Nat × Context)) : List (Nat × Context) :=
  (cs.foldl (fun (a : Nat × List (Nat × Context)) c =>
    if c.2.p.mind ≤ a.1 then (a.1 - c.2.p.mind, a.2 ++ [c]) else a) (n, [])).2

/-- Rotation order from the first context that still has slices left. -/
def rotation (cs : List (Nat × Context)) (left : NMap Nat) : List (Nat × Context) :=
  let i := (cs.takeWhile (fun c => nget 0 left c.1 == 0)).length
  cs.drop i ++ cs.take i

/-- The C-dies of which an island holds a part: islands 0 to 47 are those of the C-dies, four to a die, 48 to 53 the LPDDR physical
layers, one to a pair of dies; then the electrical ports, the optical engines, the CXL ports with the Ndosen link, the B-die logic and
the management controller hold none (spec/01 R17; log entry 57). -/
def islandDies (i : Nat) : List Nat :=
  if i < 48 then [i / 4] else if i < 54 then [2 * (i - 48), 2 * (i - 48) + 1] else []

/-- The islands of dies that a context is given power up to their full clock (spec/01 R18; log entry 82). -/
def Module.powered (x : Module) (dies : List Nat) : Module :=
  { x with islands := x.islands.filter (fun e => e.2 != 0 || !(islandDies e.1).any dies.contains) }

/-- New partitions take effect: contexts that hold none lose their dies, teams on dies that leave are to be saved at once
(spec/14 R273, R288, R289). -/
def State.partition (s : State) (m : Nat) (ps : List (Nat × List Nat)) : State :=
  let of (c : Nat) : List Nat := ((ps.find? (fun p => p.1 == c)).map (·.2)).getD []
  let ks := (s.ctxs.filter (fun c => c.1.m == m)).map (·.1)
  let s := s.modModule m (fun x => x.powered (ps.flatMap (·.2)))
  ks.foldl (fun s k =>
    let dies := of k.ctx
    let s := s.modCtx k (fun c => { c with dies := dies, prevDies := if dies.isEmpty then c.prevDies else dies })
    let out := (s.teams.filter (fun t => t.2.key == k && t.2.coreOf.any (fun c => !dies.contains (c / 48)))).map (·.1)
    (out.foldl (fun s t => s.haltTeam t) s).queuesResident k (!dies.isEmpty)) s

/-- PARTITION_RECOMPUTE: at a multiple of 1 ms when the set of runnable contexts has changed, and at every 10 ms while time
is sliced (spec/14 R288). -/
def execPartitionRecompute (m : Nat) (s : State) : Out :=
  let md := s.module m
  let now := md.wall.toNat
  let cs := s.runnableCtxs m
  let set := cs.map (·.1)
  let boundary := md.sliced && now % 10000000 == 0 && md.sliceAt != now
  if !(boundary || (now % 1000000 == 0 && set != md.runSet)) then .next s
  else
    let avail := (List.range 12).filter (fun d => !md.lostDies.contains d)
    let need := (cs.map (fun c => c.2.p.mind)).sum
    if need ≤ avail.length then
      let extra := shares (avail.length - need) (cs.map (fun c => (c.1, c.2.p.weight)))
      let sizes := cs.map (fun (c : Nat × Context) => (c.1, c.2.p.mind + (((extra.find? (fun e => e.1 == c.1)).map (·.2)).getD 0), c.2.prevDies))
      .next ((s.setModule m { md with runSet := set, sliced := false, left := [] }).partition m (placeDies avail sizes))
    else
      let full (c : Nat × Context) : Nat := s.ctxPrio c.2 + 1
      let used (c : Nat × Context) : Nat := if boundary && !c.2.dies.isEmpty then 1 else 0
      let left := cs.map (fun (c : Nat × Context) => (c.1, (if md.runSet.contains c.1 && md.sliced then nget 0 md.left c.1 else full c) - used c))
      let left := if left.all (fun e => e.2 == 0) then cs.map (fun c => (c.1, full c)) else left
      let packed := packSlice avail.length (rotation cs left)
      let cs' := cs.filter (fun c => packed.any (fun p => p.1 == c.1))
      let md := { md with runSet := set, sliced := true, left := left.filter (fun e => e.2 != 0), sliceAt := if now % 10000000 = 0 then now else md.sliceAt }
      .next ((s.setModule m md).partition m (placeDies avail (cs'.map (fun (c : Nat × Context) => (c.1, c.2.p.mind, c.2.prevDies)))))

end Sys2Proof.Machine
end

