-- ==== Sys2Proof/Machine/Fetch.lean ====
section
/-! DEFINITION. Fetching and issuing (spec/02 R24, R25, R28, R37, R38; spec/03 R60 to R62): the fetch of a block, the word at a
fragment's PC, the illegal-instruction step, the scan of an issue slot, and what one turn of the machine does. -/

namespace Sys2Proof.Machine

/-! ### Words -/

/-- A register-target branch that the first word names, whatever its reserved fields hold (spec/02 R38). -/
def looseInstr (ws : List DWord) (pc : DWord) : Option Instr := readInstr (Raw.unpack (ws.getD (wordIx pc) 0).toNat none)

/-- What the fragment State.cur would do next. -/
inductive Todo where
  /-- Nothing: there is none, or it is not eligible. -/
  | idle
  /-- It takes a late cause (spec/14 R269). -/
  | late
  /-- Its block is not fetched. -/
  | fetch
  /-- Its word is illegal at decode. -/
  | illegal
  /-- Its word. -/
  | word (i : Instr)
deriving DecidableEq, Repr

/-- What a fragment would do next (spec/03 R61, spec/02 R28, R37, spec/14 R269). -/
def State.todo (s : State) (r : FragRef) : Todo :=
  match s.group? r.k with
  | none => .idle
  | some g => match g.frag r.slot with
    | none => .idle
    | some f =>
      let w := (s.block? r.k.core g.key.ctx f.pc).map (fun ws => decodeAt ws f.pc)
      let rs := w.map (fun w => match w with
        | .ok i => Instr.waitRegs i
        | .error _ => [])
      if s.takesLate r.k r.slot g f rs then .late
      else if s.heldFrag r.k r.slot g f then .idle
      else match w with
        | none => .fetch
        | some (.ok i) => .word i
        | some (.error _) => .illegal

/-! ### The steps of a fragment -/

/-- A fetch fault of the fragment's own kind (spec/02 R28): a trap names the word's address. -/
def State.fetchTrap (s : State) (k : GKey) (sl : Slot) (g : Group) (f : Frag) (code : Nat) : State :=
  s.wordTrap k sl g f { code := code, addr := f.pc, log := s.malRec g.key g.team f.pc f.pc k.g,
                        walks := s.walked g.key f.pc }

/-- INSTRUCTION_FETCH: the fragment fetches the block of its next word, as memory holds it then (log entry 86); each outcome of its
translation is the word's own (spec/02 R27, R28; spec/14 R268). No breakpoint is met at a word whose fetch traps (log entry 60). -/
def execInstructionFetch (s : State) : Out :=
  let r := s.cur
  if s.todo r ≠ .fetch then .next s
  else match s.group? r.k with
    | none => .next s
    | some g => match g.frag r.slot with
      | none => .next s
      | some f =>
        let b := blockOf f.pc
        match s.xlat g.key b .fetch with
        | .ok pa _ =>
          if s.damagedAt pa 64 then .next (s.fetchTrap r.k r.slot g f 0x0A)
          else
            let ws := (List.range 8).map (fun i => BitVec.ofNat 64 (mnat s.mem (pa + 8 * i) 8))
            .next ((s.noteWalk r.k.core (s.walked g.key b)).modCore r.k.core (fun c =>
              { c with icache := (g.key.ctx, b, ws) :: c.icache.filter (fun e => !(e.1 == g.key.ctx && e.2.1 == b)) }))
        | .trap code => .next (s.fetchTrap r.k r.slot g f code)
        | .fault kind lvl =>
          if g.handler.isSome then
            .next (State.escalate { s with freeCtr := s.freeCtr + 1 } r.k g f (Config.freeByte s.freeCtr).toNat)
          else .next (s.markReplay r.k r.slot g f.mask (kind, f.pc, lvl, s.walked g.key b) .fetch)
        | .wait => .next s

/-- ILLEGAL_INSTRUCTION: the word's CLASS or OP is unassigned, or its fields are illegal at decode; a misaligned register target
comes first (spec/02 R23, R25, R37, R38). -/
def execIllegalInstruction (s : State) : Out :=
  let r := s.cur
  if s.todo r ≠ .illegal then .next s
  else match s.group? r.k with
    | none => .next s
    | some g => match g.frag r.slot with
      | none => .next s
      | some f =>
        let i := (s.block? r.k.core g.key.ctx f.pc).bind (fun ws => looseInstr ws f.pc)
        let tgt := i.bind (fun i => Instr.regTarget i g.regs f)
        if tgt.isSome && i.any (fun i => g.regHeld f (Instr.live i) (s.core r.k.core).cycle) then .next s
        else if g.lateFirst then .next (s.takeLate r.k r.slot g f)
        else if tgt.any (fun t => t &&& 63#64 ≠ 0#64) then .next (s.wordTrap r.k r.slot g f { code := 0x01, addr := tgt.getD 0 })
        else .next (s.wordTrap r.k r.slot g f { code := 0x02 })

/-! ### Turns -/

/-- The meaning of an instruction, as Dispatch gives it. -/
abbrev Exec := Instr → State → Out

/-- A group but for what a fragment keeps while it waits: its fence and the mark that it is to take a pending cause. -/
def Group.atRest (g : Group) : Group :=
  { g with taker := none, f0 := g.f0.map (fun f => { f with fence := none }), f1 := g.f1.map (fun f => { f with fence := none }) }

/-- The fragment did something, which uses up its slot's cycle: its issue slot is used, or its group has changed, by a trap, a pending
cause or a breakpoint's stop (spec/03 R62; log entry 97). -/
def State.acted (s s' : State) (r : FragRef) : Bool :=
  nget 0 (s'.core r.k.core).lastIssue (r.k.g % 4) == (s.core r.k.core).cycle + 1 ||
  (s'.group? r.k).map Group.atRest != (s.group? r.k).map Group.atRest

/-- The positions of an issue slot in scan order: from the one after its last issue on, cyclically (spec/03 R60, R62). -/
def State.positions (s : State) (k : CoreKey) (slot : Nat) : List FragRef :=
  let all := (List.range 8).flatMap (fun j => [(⟨⟨k.m, k.c, 4 * j + slot⟩, .f0⟩ : FragRef), ⟨⟨k.m, k.c, 4 * j + slot⟩, .f1⟩])
  let last := nget 0 (s.core k).lastPos slot
  let after := all.filter (fun r => decide (last ≤ 2 * r.k.g + slotIx r.slot))
  after ++ all.filter (fun r => !after.contains r)

/-- A breakpoint stops the fragment before its word (spec/18 R329). -/
def State.breaks (s : State) (r : FragRef) : Bool :=
  match s.group? r.k with
  | none => false
  | some g => (g.frag r.slot).any (fun f => !f.bpSkip && s.bpMatch g.key f.pc false)

/-- A word of State.cur under a log breakpoint: the snapshot follows what the word did, its issue or its precise trap (spec/18
R329). -/
def State.logged (ex : Exec) (s : State) (g : Group) (pc : DWord) (run : State → Out) : Out :=
  let r := s.cur
  if !s.bpMatch g.key pc true then run s
  else match run (s.setGroup r.k { g with logAt := some (r.slot, pc) }) with
    | .next s' =>
      if nget 0 (s'.core r.k.core).lastIssue (r.k.g % 4) == (s.core r.k.core).cycle + 1 ||
        (s'.group? r.k).any (fun g' => g'.handler.isSome && g.handler.isNone) then ex .logBreakpoint s'
      else .next (s'.modGroup r.k (fun g => { g with logAt := none }))
    | o => o

/-- A word of State.cur issues under a breakpoint check (spec/18 R329): a breakpoint stops the team before a word that would do
something, a log breakpoint takes the snapshot after it; i is none for an illegal word. -/
def State.issueWord (ex : Exec) (s : State) (i : Option Instr) : Out :=
  let r := s.cur
  match s.group? r.k with
  | none => .next s
  | some g => match g.frag r.slot with
    | none => .next s
    | some f =>
      let ready := match i with
        | none => !g.lateFirst
        | some i => match prelude i s with
          | .go _ | .lost _ | .trap .. => true
          | .empty | .late .. | .hold | .first _ => false
      let run := ex (i.getD .illegalInstruction)
      let acts := match run s with
        | .next t => s.acted t r
        | .fault _ | .refused _ => false
      if ready && s.breaks r && acts then ex .breakpointHit s
      else if ready then s.logged ex g f.pc run else run s

/-- What a fragment does when its slot's scan reaches it (spec/03 R61, R62). -/
def State.tryIssue (ex : Exec) (s : State) (r : FragRef) : Out :=
  let s' := { s with cur := r }
  match s.todo r with
  | .idle | .fetch => .next s
  | .late => ex .lateTrapTake s'
  | .illegal => s'.issueWord ex none
  | .word i => s'.issueWord ex (some i)

/-- The first fragment of a list that does something; one that only waits is passed over (spec/03 R62; log entry 97). -/
def State.scan (ex : Exec) (s : State) : List FragRef → Out
  | [] => .next s
  | r :: rs => match s.tryIssue ex r with
    | .next t => if s.acted t r then .next t else State.scan ex { t with cur := s.cur } rs
    | o => o

/-- The scan of issue slot i: the slots of a core scan in the order of their numbers, each once in a cycle (spec/03 R62, spec/10
R207; log entry 2). -/
def State.slotTurn (ex : Exec) (s : State) (k : CoreKey) (i : Nat) : Out :=
  if (s.core k).scanned ≠ i then .next s
  else match s.scan ex (s.positions k i) with
    | .next t => .next (t.modCore k (fun c => { c with scanned := i + 1 }))
    | o => o

/-- The steps that only a fragment's own turn takes. -/
def Instr.ofTurn : Instr → Bool
  | .instructionFetch | .illegalInstruction | .lateTrapTake | .breakpointHit | .logBreakpoint => true
  | _ => false

/-- A machine step of spec/95: no instruction word. -/
def Instr.isEvent (i : Instr) : Bool := (encodeRaw i).isNone && !Instr.ofTurn i

/-- What one turn does. -/
def State.takeTurn (ex : Exec) (s : State) (t : Turn) : Out :=
  match t with
  | .event i => if Instr.isEvent i then ex i s else .next s
  | .fetch r => ex .instructionFetch { s with cur := r }
  | .slot k i => s.slotTurn ex k i
  | .cycle k => .next (s.coreCycle k)
  | .table m => .next (s.eventTable m)

/-- One step of the machine: the next turn that is decided, or one that is decided now (spec/09 R167; log entry 2). -/
def State.oneStep (ex : Exec) (s : State) : Out :=
  match s.agenda with
  | t :: ts => State.takeTurn ex { s with agenda := ts } t
  | [] =>
    let s' := { s with freeCtr := s.freeCtr + 1 }
    match Config.turn s.freeCtr with
    | some t => s'.takeTurn ex t
    | none => .next s'

/-! ### Placing one instruction -/

/-- A module, context and team for an instruction that is placed to run first: a team of one group on core 0 with every feature
that a word may need. -/
def placedTeam : Team where
  grid := 0
  key := ⟨0, 0⟩
  x := 0
  y := 0
  z := 0
  gpt := 1
  nregs := 256
  s := 16384
  lpv := 64
  tiles := true
  prio := 0
  entry := 0
  args := []
  st := .resident 0 0 0
  joined := 0
  fresh := false
  images := []
  region := []
  tileImg := []
  tileQImg := []
  mprogImg := 0
  lastCore := 0
  stop := none
  also := []
  stopAt := none
  stepping := false
  halted := false
  phc := 0
  gwct := 0
  endedGroups := []

/-- The words of an opcode-table number, the first in its low bits, two at most. -/
def tableWords (nbits w : Nat) : List DWord := [BitVec.ofNat 64 (w % 2 ^ nbits), BitVec.ofNat 64 (w % 2 ^ nbits / 2 ^ 64)]

/-- The state with an instruction placed to run next: a resident group whose fragment F0 stands at address 0, its block in the
instruction cache, and the slot that serves it next (log entry 2). -/
def State.placeWord (s : State) (nbits w : Nat) : State :=
  let k : CoreKey := ⟨0, 0⟩
  let gk : GKey := ⟨0, 0, 0⟩
  let cyc := (s.core k).cycle
  { s with
    agenda := [.slot k 0]
    cur := ⟨gk, .f0⟩
    teams := tset s.teams 0 placedTeam
    groups := tset s.groups gk { placedTeam.newGroup 0 0 cyc with nregs := 256 }
    cores := tset s.cores k { (s.core k) with
      icache := [(0, 0, tableWords nbits w ++ List.replicate 6 0)]
      lastIssue := []
      scanned := 0 } }

end Sys2Proof.Machine
end

