-- ==== Sys2Proof/Machine/IntScalar.lean ====
section
/-! DEFINITION. The scalar integer instructions of class 0x02 (spec/05 R69 to R76). -/

namespace Sys2Proof.Machine

/-- A short-latency scalar result. -/
def Iss.sresult (x : Iss) (i : Instr) (d : SReg) (v : DWord) : Res :=
  .ok (x.short (Instr.dests i) (x.g.regs.wrS d.val v))

/-- A group-predicate result. -/
def Iss.qresult (x : Iss) (i : Instr) (q : QReg) (v : Bool) : Res :=
  .ok (x.short (Instr.dests i) (x.g.regs.wrQ q.val v))

/-- A scalar operand of w bits (spec/05 R69). -/
def Regs.srcS (r : Regs) (ty : IntTy) (i : SReg) : Nat := (r.rdS i.val).toNat % 2 ^ IntTy.w ty

/-- The result of an R71 operation on scalar registers. -/
def sintValue (op : IOp) (f : SInt) (r : Regs) : DWord :=
  scalarResult f.ty (op.eval f.ty f.sat (r.srcS f.ty f.a) (r.srcS f.ty f.b) (r.srcS f.ty f.c) f.n.val)

/-- The result of an R75 operation on a scalar register and an immediate, at w = 64. -/
def simmValue (op : IOp) (f : SImmF) (r : Regs) : DWord :=
  BitVec.ofNat 64 (op.eval .i64 false (r.rdS f.a.val).toNat (imm28 64 f.imm) 0 0)

/-- sadd (spec/05 R71). -/
def execSadd (f : SInt) (s : State) : Out :=
  issue (.sadd f) s (fun x => x.sresult (.sadd f) f.d (sintValue .add f x.g.regs))

/-- ssub (spec/05 R71). -/
def execSsub (f : SInt) (s : State) : Out :=
  issue (.ssub f) s (fun x => x.sresult (.ssub f) f.d (sintValue .sub f x.g.regs))

/-- smulLo (spec/05 R71). -/
def execSmulLo (f : SInt) (s : State) : Out :=
  issue (.smulLo f) s (fun x => x.sresult (.smulLo f) f.d (sintValue .mulLo f x.g.regs))

/-- smulHi (spec/05 R71). -/
def execSmulHi (f : SInt) (s : State) : Out :=
  issue (.smulHi f) s (fun x => x.sresult (.smulHi f) f.d (sintValue .mulHi f x.g.regs))

/-- smad (spec/05 R71). -/
def execSmad (f : SInt) (s : State) : Out :=
  issue (.smad f) s (fun x => x.sresult (.smad f) f.d (sintValue .mad f x.g.regs))

/-- smin (spec/05 R71). -/
def execSmin (f : SInt) (s : State) : Out :=
  issue (.smin f) s (fun x => x.sresult (.smin f) f.d (sintValue .min f x.g.regs))

/-- smax (spec/05 R71). -/
def execSmax (f : SInt) (s : State) : Out :=
  issue (.smax f) s (fun x => x.sresult (.smax f) f.d (sintValue .max f x.g.regs))

/-- sabs (spec/05 R71). -/
def execSabs (f : SInt) (s : State) : Out :=
  issue (.sabs f) s (fun x => x.sresult (.sabs f) f.d (sintValue .abs f x.g.regs))

/-- sand (spec/05 R71). -/
def execSand (f : SInt) (s : State) : Out :=
  issue (.sand f) s (fun x => x.sresult (.sand f) f.d (sintValue .and f x.g.regs))

/-- sor (spec/05 R71). -/
def execSor (f : SInt) (s : State) : Out :=
  issue (.sor f) s (fun x => x.sresult (.sor f) f.d (sintValue .or f x.g.regs))

/-- sxor (spec/05 R71). -/
def execSxor (f : SInt) (s : State) : Out :=
  issue (.sxor f) s (fun x => x.sresult (.sxor f) f.d (sintValue .xor f x.g.regs))

/-- sandn (spec/05 R71). -/
def execSandn (f : SInt) (s : State) : Out :=
  issue (.sandn f) s (fun x => x.sresult (.sandn f) f.d (sintValue .andn f x.g.regs))

/-- snot (spec/05 R71). -/
def execSnot (f : SInt) (s : State) : Out :=
  issue (.snot f) s (fun x => x.sresult (.snot f) f.d (sintValue .not f x.g.regs))

/-- sshl (spec/05 R71). -/
def execSshl (f : SInt) (s : State) : Out :=
  issue (.sshl f) s (fun x => x.sresult (.sshl f) f.d (sintValue .shl f x.g.regs))

/-- sshr (spec/05 R71). -/
def execSshr (f : SInt) (s : State) : Out :=
  issue (.sshr f) s (fun x => x.sresult (.sshr f) f.d (sintValue .shr f x.g.regs))

/-- ssar (spec/05 R71). -/
def execSsar (f : SInt) (s : State) : Out :=
  issue (.ssar f) s (fun x => x.sresult (.ssar f) f.d (sintValue .sar f x.g.regs))

/-- srot (spec/05 R71). -/
def execSrot (f : SInt) (s : State) : Out :=
  issue (.srot f) s (fun x => x.sresult (.srot f) f.d (sintValue .rot f x.g.regs))

/-- spopc (spec/05 R71). -/
def execSpopc (f : SInt) (s : State) : Out :=
  issue (.spopc f) s (fun x => x.sresult (.spopc f) f.d (sintValue .popc f x.g.regs))

/-- sclz (spec/05 R71). -/
def execSclz (f : SInt) (s : State) : Out :=
  issue (.sclz f) s (fun x => x.sresult (.sclz f) f.d (sintValue .clz f x.g.regs))

/-- sctz (spec/05 R71). -/
def execSctz (f : SInt) (s : State) : Out :=
  issue (.sctz f) s (fun x => x.sresult (.sctz f) f.d (sintValue .ctz f x.g.regs))

/-- sbrev (spec/05 R71). -/
def execSbrev (f : SInt) (s : State) : Out :=
  issue (.sbrev f) s (fun x => x.sresult (.sbrev f) f.d (sintValue .brev f x.g.regs))

/-- sbfe (spec/05 R71). -/
def execSbfe (f : SInt) (s : State) : Out :=
  issue (.sbfe f) s (fun x => x.sresult (.sbfe f) f.d (sintValue .bfe f x.g.regs))

/-- sbfi (spec/05 R71). -/
def execSbfi (f : SInt) (s : State) : Out :=
  issue (.sbfi f) s (fun x => x.sresult (.sbfi f) f.d (sintValue .bfi f x.g.regs))

/-- smov (spec/05 R71). -/
def execSmov (f : SInt) (s : State) : Out :=
  issue (.smov f) s (fun x => x.sresult (.smov f) f.d (sintValue .mov f x.g.regs))

/-- ssext (spec/05 R71). -/
def execSsext (f : SInt) (s : State) : Out :=
  issue (.ssext f) s (fun x => x.sresult (.ssext f) f.d (sintValue .sext f x.g.regs))

/-- szext (spec/05 R71). -/
def execSzext (f : SInt) (s : State) : Out :=
  issue (.szext f) s (fun x => x.sresult (.szext f) f.d (sintValue .zext f x.g.regs))

/-- scmp (spec/05 R72). -/
def execScmp (f : SCmpF) (s : State) : Out :=
  issue (.scmp f) s (fun x =>
    let w := if f.w64 then 64 else 32
    x.qresult (.scmp f) f.q (ICond.eval f.cond w ((x.g.regs.rdS f.a.val).toNat % 2 ^ w) ((x.g.regs.rdS f.b.val).toNat % 2 ^ w)))

/-- ssel (spec/05 R73). -/
def execSsel (f : SSelF) (s : State) : Out :=
  issue (.ssel f) s (fun x =>
    x.sresult (.ssel f) f.d (scalarResult f.ty (x.g.regs.srcS f.ty (if x.g.regs.rdQ f.q.val then f.a else f.b))))

/-- smovw (spec/05 R74). -/
def execSmovw (f : SMovwF) (s : State) : Out :=
  issue (.smovw f) s (fun x => x.sresult (.smovw f) f.d (scalarResult f.ty (f.imm.toNat % 2 ^ IntTy.w f.ty)))

/-- slea (spec/05 R71). -/
def execSlea (f : SInt) (s : State) : Out :=
  issue (.slea f) s (fun x =>
    x.sresult (.slea f) f.d (BitVec.ofNat 64 (leaResult f.ty (x.g.regs.rdS f.a.val).toNat (x.g.regs.srcS f.ty f.b) f.n.val)))

/-- sadd with an immediate (spec/05 R75). -/
def execSaddImm (f : SImmF) (s : State) : Out :=
  issue (.saddImm f) s (fun x => x.sresult (.saddImm f) f.d (simmValue .add f x.g.regs))

/-- sand with an immediate (spec/05 R75). -/
def execSandImm (f : SImmF) (s : State) : Out :=
  issue (.sandImm f) s (fun x => x.sresult (.sandImm f) f.d (simmValue .and f x.g.regs))

/-- sor with an immediate (spec/05 R75). -/
def execSorImm (f : SImmF) (s : State) : Out :=
  issue (.sorImm f) s (fun x => x.sresult (.sorImm f) f.d (simmValue .or f x.g.regs))

/-- sxor with an immediate (spec/05 R75). -/
def execSxorImm (f : SImmF) (s : State) : Out :=
  issue (.sxorImm f) s (fun x => x.sresult (.sxorImm f) f.d (simmValue .xor f x.g.regs))

/-- sshl with an immediate (spec/05 R75). -/
def execSshlImm (f : SImmF) (s : State) : Out :=
  issue (.sshlImm f) s (fun x => x.sresult (.sshlImm f) f.d (simmValue .shl f x.g.regs))

/-- sshr with an immediate (spec/05 R75). -/
def execSshrImm (f : SImmF) (s : State) : Out :=
  issue (.sshrImm f) s (fun x => x.sresult (.sshrImm f) f.d (simmValue .shr f x.g.regs))

/-- ssar with an immediate (spec/05 R75). -/
def execSsarImm (f : SImmF) (s : State) : Out :=
  issue (.ssarImm f) s (fun x => x.sresult (.ssarImm f) f.d (simmValue .sar f x.g.regs))

/-- smov with an immediate (spec/05 R75). -/
def execSmovImm (f : SImmF) (s : State) : Out :=
  issue (.smovImm f) s (fun x => x.sresult (.smovImm f) f.d (f.imm.signExtend 64))

/-- scmp with an immediate (spec/05 R72, R75). -/
def execScmpImm (f : SCmpImmF) (s : State) : Out :=
  issue (.scmpImm f) s (fun x =>
    let w := if f.w64 then 64 else 32
    x.qresult (.scmpImm f) f.q (ICond.eval f.cond w ((x.g.regs.rdS f.a.val).toNat % 2 ^ w) (imm28 w f.imm)))

end Sys2Proof.Machine
end

