-- ==== Sys2Proof/Machine/Hash.lean ====
section
/-! DEFINITION. SHA-384, by which the module measures its images and names itself (spec/19 R342, R345). The algorithm is that of FIPS
180-4, which the spec names and does not restate (log entry 79). -/

namespace Sys2Proof

/-- The first `n` primes, by trial division of the odd numbers from 3 on. -/
def firstPrimes (n : Nat) : List Nat :=
  ((List.range 256).foldl (fun ps i =>
    let c := 2 * i + 3
    if ps.any (fun p => c % p == 0) then ps else ps ++ [c]) [2]).take n

/-- The first 64 bits of the fractional part of the `k`-th root of `p`: the largest whole number whose `k`-th power does not exceed
`p * 2 ^ (64 * k)`, built bit by bit from the top, without its whole part. -/
def rootBits (k p : Nat) : BitVec 64 :=
  BitVec.ofNat 64 ((List.range 70).foldl (fun r i =>
    let r' := r + 2 ^ (69 - i)
    if r' ^ k ≤ p * 2 ^ (64 * k) then r' else r) 0)

/-- The constants of the 80 rounds: from the cube roots of the first 80 primes. -/
def shaK : List (BitVec 64) := (firstPrimes 80).map (rootBits 3)

/-- The eight words a digest starts from: from the square roots of the ninth to the sixteenth prime. -/
def shaInit : List (BitVec 64) := ((firstPrimes 16).drop 8).map (rootBits 2)

/-- Big-endian bytes of a number. -/
def bytesBE (n v : Nat) : List (BitVec 8) := (List.range n).map (fun i => BitVec.ofNat 8 (v / 256 ^ (n - 1 - i)))
/-- The big-endian value of bytes. -/
def natBE (bs : List (BitVec 8)) : Nat := bs.foldl (fun a b => a * 256 + b.toNat) 0

/-- The message followed by a one bit, zeros, and its length in bits, to a multiple of 128 bytes. -/
def shaPad (bs : List (BitVec 8)) : List (BitVec 8) :=
  let n := bs.length
  bs ++ 0x80#8 :: List.replicate ((239 - n % 128) % 128) 0#8 ++ bytesBE 16 (8 * n)

/-- The exclusive or of a word turned right by each of `rs`, and shifted right by `n` where `n` is not 0. -/
def spread (w : BitVec 64) (rs : List Nat) (n : Nat) : BitVec 64 :=
  rs.foldl (fun x r => x ^^^ w.rotateRight r) (if n = 0 then 0 else w >>> n)

/-- The 80 words of a block's message schedule, the latest first: 16 of the message, then each from the words 2, 7, 15 and 16 before
it. -/
def shaSchedule (blk : List (BitVec 8)) : List (BitVec 64) :=
  let message := (List.range 16).map (fun i => BitVec.ofNat 64 (natBE ((blk.drop (8 * (15 - i))).take 8)))
  (List.range 64).foldl (fun w _ =>
    (spread (w.getD 1 0) [19, 61] 6 + w.getD 6 0 + spread (w.getD 14 0) [1, 8] 7 + w.getD 15 0) :: w) message

/-- The working words of one round, as a value that names them. -/
structure ShaWords where
  /-- Words 0 to 3. -/
  (a b c d : BitVec 64)
  /-- Words 4 to 7. -/
  (e f g h : BitVec 64)
  deriving DecidableEq, Repr

/-- The words as a list, and a list's words. -/
def ShaWords.list (v : ShaWords) : List (BitVec 64) := [v.a, v.b, v.c, v.d, v.e, v.f, v.g, v.h]
def ShaWords.of (l : List (BitVec 64)) : ShaWords :=
  let at_ (i : Nat) : BitVec 64 := l.getD i 0
  ⟨at_ 0, at_ 1, at_ 2, at_ 3, at_ 4, at_ 5, at_ 6, at_ 7⟩

/-- One round, with the sum of its constant and its schedule word: a choice by the fifth word, the majority of the first three, and
the words moved one place on. -/
def ShaWords.round (v : ShaWords) (kw : BitVec 64) : ShaWords :=
  let choice := v.g ^^^ v.e &&& (v.f ^^^ v.g)
  let majority := v.a &&& (v.b ||| v.c) ||| v.b &&& v.c
  let up := v.h + kw + choice + spread v.e [14, 18, 41] 0
  let low := majority + spread v.a [28, 34, 39] 0
  { a := up + low, b := v.a, c := v.b, d := v.c, e := v.d + up, f := v.e, g := v.f, h := v.g }

/-- A block taken into a digest. -/
def shaBlock (digest : List (BitVec 64)) (blk : List (BitVec 8)) : List (BitVec 64) :=
  let kws := List.zipWith (· + ·) shaK (shaSchedule blk).reverse
  List.zipWith (· + ·) digest (kws.foldl ShaWords.round (.of digest)).list

/-- SHA-384 of a message: 48 bytes. -/
def sha384 (bs : List (BitVec 8)) : List (BitVec 8) :=
  let p := shaPad bs
  let digest := (List.range (p.length / 128)).foldl (fun h i => shaBlock h ((p.drop (128 * i)).take 128)) shaInit
  (digest.take 6).flatMap (fun w => bytesBE 8 w.toNat)

end Sys2Proof
end

