-- ==== Sys2Proof/Machine/Manage.lean ====
section
/-! DEFINITION. The management plane (spec/01 R8, R15 to R18; spec/15 R309, R310; spec/19): records, measurements, reset and
life cycle, jobs, islands, lost dies and modules, errors of the memories. -/

namespace Sys2Proof.Machine

/-! ### Records (spec/19 R342 to R344) -/

/-- The first n bytes of a list, padded with zeros. -/
def fit (n : Nat) (bs : List Byte) : List Byte := (bs ++ List.replicate n 0#8).take n

/-- DEVID: bytes 0 to 7 of SHA-384 of the module's Ed25519 public key. -/
def devId (dev : Nat) : List Byte := fit 8 (sha384 (Config.keyA dev))

/-- Measurement index 2: SHA-384 of the image that was run (spec/19 R345). -/
def Module.fwMeas (md : Module) : List Byte := fit 48 (sha384 (md.image.getD (Config.flashImage md.dev)))

/-- The signed bytes of a record: header and entries. -/
def Module.recordBody (md : Module) (m kind : Nat) (ctx tstart tend : List Byte) (entries : List (List Byte)) : List Byte :=
  toBytes 2 kind ++ toBytes 2 1 ++ toBytes 4 md.rseq ++ devId md.dev ++ toBytes 8 md.jobid.toNat ++
  toBytes 2 (if md.inJob then m else 0xFFFF) ++ ctx ++ toBytes 4 entries.length ++ tstart ++ tend ++ md.fwMeas ++
  toBytes 4 md.boot ++ List.replicate 28 0#8 ++ entries.flatten

/-- The public key that certificate slot 0 certifies, and the chain (spec/19 R343). -/
def Module.slot0 (md : Module) : List Byte × List Byte := (Config.keyA md.dev, Config.certSlot0 (Config.keyA md.dev))
/-- A record as the host reads it through the record window, or a requester over MCTP: the signed bytes, SIGA, SIGB (spec/19 R342). -/
def Record.bytes (r : Record) : List Byte := r.body ++ fit 64 r.sigA ++ fit 3309 r.sigB
/-- A record is valid only when both signatures verify against the module's two keys: what the module's own signing makes of a body does,
and what else does the two schemes say (spec/19 R343; log entry 7). -/
def Record.valid (r : Record) (dev : Nat) : Bool :=
  (fit 64 r.sigA == fit 64 (Config.signA dev r.body) || Config.verifyA (Config.keyA dev) r.body (fit 64 r.sigA)) &&
  (fit 3309 r.sigB == fit 3309 (Config.signB dev r.body) || Config.verifyB (Config.keyB dev) r.body (fit 3309 r.sigB))
/-- The record window: records leave in the order of their RSEQ, each until it is acknowledged (spec/19 R342). -/
def Module.window (md : Module) : Option (List Byte) := md.records.head?.map Record.bytes

/-- A record is signed, numbered and held (spec/19 R342, R343). -/
def Module.emit (md : Module) (kind : Nat) (body : List Byte) : Module :=
  { md with
    rseq := md.rseq + 1
    records := md.records ++ [⟨kind, md.rseq, body, fit 64 (Config.signA md.dev body), fit 3309 (Config.signB md.dev body)⟩] }

/-- The usage entries of a context, in increasing index: every counter that is not zero (a sticky one is not). -/
def Context.entries (c : Context) : List (List Byte) :=
  c.usage.map (fun e => toBytes 2 e.1 ++ [if c.sat.contains e.1 then 1#8 else 0#8] ++ List.replicate 5 0#8 ++ toBytes 8 e.2)

/-- Every engine operation of a context has completed, and no message it has sent can still be performed and counted (spec/01 R16, spec/19
R342). -/
def State.enginesIdle (s : State) (k : CtxKey) : Bool :=
  !(s.cores.any (fun c => c.2.copies.any (fun o => o.key == k)) || s.colls.any (fun o => o.key == k) ||
    s.gathers.any (fun g => g.key == k) || s.drains.any (fun g => g.key == k) || s.shevs.any (fun x => x.key == k) ||
    s.shuttles.any (fun p => p.key == k && p.res.isNone) ||
    s.reqs.any (fun q => q.payload.msg.any (fun x => x.key == k) && !q.performed && !(s.module q.dst).lost &&
      decide (s.wall q.dst + 32 < q.deadline)) ||
    s.dies.any (fun d => d.2.applying.any (fun a => a.by_ == k)))

/-- USAGE_RECORD_EMIT: the signed account of a context that has been torn down and whose engine operations have completed; the
context is gone (spec/01 R16, spec/19 R342). -/
def execUsageRecordEmit (k : CtxKey) (s : State) : Out :=
  match s.ctx? k with
  | none => .next s
  | some c => match c.torn with
    | none => .next s
    | some t =>
      if !s.enginesIdle k then .next s
      else
        let md := s.module k.m
        let body := md.recordBody k.m 1 (toBytes 2 k.ctx) (toBytes 8 c.created) (toBytes 8 t) c.entries
        .next ({ s with
          ctxs := s.ctxs.filter (fun x => x.1 ≠ k)
          teams := s.teams.filter (fun x => x.2.key ≠ k)
          grids := s.grids.filter (fun x => x.2.key ≠ k) }.setModule k.m (md.emit 1 body))

/-- INTERIM_RECORD: a snapshot of a live context's counters; its TEND is left open (spec/01 R16, spec/19 R342). -/
def execInterimRecord (k : CtxKey) (s : State) : Out :=
  match s.ctx? k with
  | none => .next s
  | some c =>
    if c.torn.isSome then .next s
    else
      let md := s.module k.m
      let tend := (List.range 8).map (fun i => Config.freeByte (s.freeCtr + i))
      let body := md.recordBody k.m 3 (toBytes 2 k.ctx) (toBytes 8 c.created) tend c.entries
      .next (State.setModule { s with freeCtr := s.freeCtr + 8 } k.m (md.emit 3 body))

/-- RECORD_ACK: the host or a requester acknowledges a record, which need no longer be held (spec/19 R342). -/
def execRecordAck (m rseq : Nat) (s : State) : Out :=
  .next (s.modModule m (fun md => { md with records := md.records.eraseP (fun r => r.rseq == rseq) }))

/-! ### Measurements (spec/19 R345) -/

/-- The code of a life-cycle state (spec/19 R346). -/
def lifeCode : LifeCycle → Nat
  | .provision => 1
  | .operate => 2
  | .recovery => 3
  | .retired => 4

/-- The measurement blocks by index, fixed for the life of a boot. -/
def Module.blocks (md : Module) : List (Nat × List Byte) :=
  [(1, fit 48 (sha384 Config.bootRom)), (2, md.fwMeas),
   (3, [BitVec.ofNat 8 (lifeCode md.bootLife), if md.image.isSome then 1#8 else 0#8]), (4, fit 1952 (Config.keyB md.dev))]

/-- GET_MEASUREMENTS: the module answers with its blocks, signed together with the Ed25519 key. -/
def execGetMeasurements (m : Nat) (s : State) : Out :=
  .next (s.modModule m (fun md =>
    let all := md.blocks.flatMap (fun b => BitVec.ofNat 8 b.1 :: b.2)
    { md with meas := md.blocks.map (fun b => ⟨b.1, 0, b.2, Config.signA md.dev all, []⟩) }))

/-! ### Reset and life cycle (spec/01, spec/19 R345, R346) -/

/-- The bytes of a region of module m among cells that lie unit apart. -/
def ofModule (unit m a : Nat) : Bool := a / unit == m
/-- The cells of other modules. -/
def notOf (mem : Memory) (unit m : Nat) : Memory := mem.filter (fun c => !ofModule unit m c.1)
/-- A byte of the CXL tier of module m. -/
def cxlOf (m pa : Nat) : Bool := ofModule (2 ^ 48) m pa && decide (0x020000000000 ≤ pa % 2 ^ 48)

/-- The wipe of a module: zero in all SRAM and LPDDR, the CXL tier as its devices hold it; no context, queue or link is
left (spec/19 R346). -/
def State.wipe (s : State) (m : Nat) : State :=
  let mine (k : CtxKey) : Bool := k.m == m
  let dirty (a : Nat) : Bool := (s.line (lineOf a)).dirty
  let keep := s.mem.filter (fun c => !ofModule (2 ^ 48) m c.1 || (cxlOf m c.1 && !dirty c.1))
  let held := s.dev.filter (fun c => cxlOf m c.1 && dirty c.1)
  let s := { s with
    mem := mpaste keep 0 held
    dev := s.dev.filter (fun c => !ofModule (2 ^ 48) m c.1 || cxlOf m c.1)
    damaged := s.damaged.filter (fun d => paMod d.1 ≠ m || cxlOf m d.1)
    scratch := notOf s.scratch (576 * 2 ^ 18) m
    tiles := notOf s.tiles (576 * 2 ^ 18) m
    badTiles := s.badTiles.filter (fun w => !ofModule (576 * 2 ^ 18) m (4 * w))
    pks := notOf s.pks (4096 * 2 ^ 48) m
    lpm := s.lpm.filter (fun c => !(s.team? (c.1 / (32 * 2 ^ 24))).any (fun t => mine t.key))
    cores := s.cores.filter (fun c => c.1.m ≠ m)
    dies := s.dies.filter (fun d => d.1.m ≠ m)
    groups := s.groups.filter (fun g => g.1.m ≠ m)
    teams := s.teams.filter (fun t => !mine t.2.key)
    grids := s.grids.filter (fun g => !mine g.2.key)
    ctxs := s.ctxs.filter (fun c => !mine c.1)
    lines := s.lines.filter (fun l => lineMod l.1 ≠ m)
    copies := s.copies.filter (fun c => c.1.1.m ≠ m && lineMod c.1.2 ≠ m)
    proxies := s.proxies.filter (fun p => p.1.1 ≠ m && lineMod p.1.2 ≠ m)
    reqs := s.reqs.filter (fun r => r.src ≠ m)
    flags := s.flags.filter (fun f => f.k.m ≠ m)
    unlks := s.unlks.filter (fun u => u.k.m ≠ m)
    collLost := s.collLost.filter (fun c => !mine c.1)
    spoiled := s.spoiled.filter (fun w => match w.1 with
      | .scratch | .die => !ofModule (576 * 2 ^ 18) m (4 * w.2)
      | .pks => !ofModule (4096 * 2 ^ 48) m (4 * w.2)
      | .lane => !(s.team? (4 * w.2 / (32 * 2 ^ 24))).any (fun t => mine t.key)
      | .global => true)
    shuttles := s.shuttles.filter (fun p => p.k.m ≠ m)
    colls := s.colls.filter (fun o => o.die.m ≠ m)
    streams := s.streams.filter (fun x => x.dst ≠ m && x.key.m ≠ m)
    gathers := s.gathers.filter (fun g => !mine g.key)
    drains := s.drains.filter (fun g => !mine g.key)
    shevs := s.shevs.filter (fun x => !mine x.key)
    contribs := s.contribs.filter (fun x => !mine x.key)
    rounds := s.rounds.filter (fun r => !mine r.1.1)
    landings := s.landings.filter (fun l => !mine l.key)
    barq := s.barq.filter (fun q => !mine q.key)
    stitches := s.stitches.filter (fun y => y.core.m ≠ m)
    watches := s.watches.filter (fun w => !mine w.key)
    pend := s.pend.filter (fun p => lineMod p.line ≠ m) }
  s

/-- The stores that a dirty line holds are lost: each is logged and counted, and its group takes a late data-lost trap with the PC and
the address of the store (spec/07 R131, spec/15 R309, spec/19 R347). -/
def State.loseWriters (s : State) (l : Nat) : State :=
  ((s.line l).writers.foldl (fun s w =>
    let s := (s.count w.key 0x6000 1).logErr w.key (s.errRec w.key w.team 0x0F (BitVec.ofNat 64 (l * 128)) w.pc 0 w.k.m w.k.g)
    s.pendTeam w.team w.gidx ⟨0x0A, w.mask, w.va, w.pc, 0⟩) s).modLine l (fun x => { x with writers := [] })

/-- Lines of other homes that a module held, or of which it held a copy, stand at their homes again; what the home then holds of a
line that the module alone had is left open. -/
def State.reclaim (s : State) (m : Nat) : State :=
  s.lines.foldl (fun s e => match e.2.dir with
    | .uncached => s
    | .shared ms => s.modLine e.1 (fun x => { x with dir := .shared (ms.filter (fun y => y ≠ m)) })
    | .exclusive o =>
      if o ≠ m then s
      else
        let s := s.loseWriters e.1
        let bs := (List.range 128).map (fun i => Config.freeByte (s.freeCtr + i))
        State.modLine { s with mem := mwriteN s.mem (e.1 * 128) bs, freeCtr := s.freeCtr + 128 } e.1
          (fun x => { x with dir := .uncached, racks := 0, ver := x.ver + 1 })) s

/-- No acknowledgement of a module is awaited any longer. -/
def State.unawait (s : State) (m : Nat) : State :=
  (State.replyDone { s with pend := s.pend.map (fun (p : PendWrite) => { p with wait := p.wait.filter (fun x => x ≠ m) }) }).settlePend

/-- A module as the wipe leaves it: it keeps its pod number, and with it its job, until the job ends (spec/01 R8, spec/19 R346; log
entry 52). -/
def Module.wiped (md : Module) : Module :=
  { Module.reset with
    dev := md.dev
    wall := md.wall
    inJob := md.inJob
    jobid := md.jobid
    optgrp := md.optgrp
    ports := md.ports
    jobStart := md.jobStart
    lostDies := if md.inJob then md.lostDies else []
    lost := md.lost
    ready := md.ready
    life := md.life
    bootLife := md.bootLife
    boot := md.boot
    rseq := md.rseq
    image := md.image
    islands := md.islands
    volts := md.volts
    fab := md.fab
    errs := md.errs
    records := md.records }

/-- Wipe a module that the state holds. -/
def State.wipeModule (s : State) (m : Nat) : State :=
  let md := s.module m
  ((((s.wipe m).setModule m md.wiped).reclaim m).unawait m).syncFb m

/-- A boot: the ROM measures and runs an image after the wipes; the boot count rises, records are counted from 0, the error
counters are cleared (spec/19 R342, R345, R346, R348). -/
def State.bootModule (s : State) (m : Nat) (img : Option (List Byte)) : State :=
  match tget s.mods m with
  | none => s
  | some _ => (s.wipeModule m).modModule m (fun md => { md with
      boot := (md.boot + 1) % 2 ^ 32, bootLife := md.life, rseq := 0, image := img, errs := ⟨[], []⟩ })

/-- RESET: the management plane orders a reset (spec/19 R346). -/
def execReset (m : Nat) (s : State) : Out := .next (s.bootModule m none)

/-- POWER_ON: the module powers up; every island runs at 2.4 GHz; a module of which a die fails its self-test does not leave reset
(spec/01 R4, R18, spec/19 R345). -/
def execPowerOn (m : Nat) (s : State) : Out :=
  match tget s.mods m with
  | none => .next s
  | some _ =>
    let s := s.bootModule m none
    .next (State.modModule { s with freeCtr := s.freeCtr + 1 } m (fun md => { md with
      islands := [], volts := [], ready := Config.selfTest s.freeCtr }))

/-- HOST_PUSHED_RECOVERY_IMAGE: the module boots an image that the host pushes (spec/19 R345). -/
def execHostPushedRecoveryImage (m : Nat) (img : List Byte) (s : State) : Out := .next (s.bootModule m (some img))

/-- LIFECYCLE_CHANGE: the wipes, then the new state (spec/19 R346). -/
def execLifecycleChange (m : Nat) (st : LifeCycle) (s : State) : Out :=
  match tget s.mods m with
  | none => .next s
  | some md => if md.life = st then .next s
    else .next ((s.wipeModule m).modModule m (fun md => { md with life := st }))

/-! ### Jobs (spec/01 R8, spec/11 R233, spec/19 R344) -/

/-- The cells of module a, moved to module b, where modules lie unit apart. -/
def moveCells (mem : Memory) (unit a b : Nat) : Memory :=
  (mem.filter (fun c => ofModule unit a c.1)).map (fun c => (c.1 % unit + b * unit, c.2))

/-- A line of module a as module b names it. -/
def moveLine (b l : Nat) : Nat := l % 2 ^ 41 + b * 2 ^ 41

/-- One module takes a pod number, and nothing else remains: no module holds a context. Its memories, lines, cores and dies
keep their contents. -/
def State.rekey (s : State) (a b : Nat) (md : Module) : State :=
  { State.reset with
    agenda := s.agenda
    freeCtr := s.freeCtr
    parked := s.parked
    mods := [(b, { md with moved := md.moved.map (fun e => (e.1 % 2 ^ 48 + b * 2 ^ 48, e.2)) })]
    dies := (s.dies.filter (fun d => d.1.m == a)).map (fun d => ({ d.1 with m := b }, d.2))
    cores := (s.cores.filter (fun c => c.1.m == a)).map (fun c => ({ c.1 with m := b }, c.2))
    mem := moveCells s.mem (2 ^ 48) a b
    dev := moveCells s.dev (2 ^ 48) a b
    scratch := moveCells s.scratch (576 * 2 ^ 18) a b
    tiles := moveCells s.tiles (576 * 2 ^ 18) a b
    lines := (s.lines.filter (fun l => lineMod l.1 == a)).map (fun l =>
      (moveLine b l.1, { l.2 with dir := .uncached, racks := 0, lock := none, queue := [] }))
    copies := (s.copies.filter (fun c => c.1.1.m == a && lineMod c.1.2 == a)).map (fun c =>
      (({ c.1.1 with m := b }, moveLine b c.1.2), c.2))
    damaged := (s.damaged.filter (fun d => paMod d.1 == a)).map (fun d => (d.1 % 2 ^ 48 + b * 2 ^ 48, d.2))
    nextId := s.nextId }

/-- Nothing of a context, and no request, is under way. -/
def State.quiet (s : State) : Bool :=
  s.ctxs.isEmpty && s.groups.isEmpty && s.pend.isEmpty && s.reqs.all (fun r => r.closed && r.replies == 0) &&
  s.shuttles.isEmpty

/-- Both ends of a link name each other; each end may have found the other good or bad, and a partner that has failed need not be a
member (spec/19 R344; log entry 55). -/
def linkOk (all : List JobMember) (x : JobMember) (i : Nat) (p : PortInfo) : Bool :=
  p.status == 0 || (p.status == 2 && all.all (fun y => y.pod != p.partner)) ||
  all.any (fun y => y.pod == p.partner && (y.ports[p.partnerPort]?).any (fun q =>
    q.status != 0 && q.partner == x.pod && q.partnerPort == i))

/-- A job's members are distinct pod numbers, each with its 32 ports, whose links both ends show. -/
def JobOk (p : JobParams) : Bool :=
  let all := p.self :: p.others
  all.all (fun x => decide (x.pod < 1024) && x.ports.length == 32 && (x.ports.mapIdx (linkOk all x)).all id) && decide (all.map (·.pod)).Nodup

/-- The own rack group is part of every connected optical group. -/
def withRack (m : Nat) (g : BitVec 16) : BitVec 16 := g ||| (1#16 <<< (m / 64 % 16))

/-- The entries of a membership record; the partner's DEVID is that of the member which has its pod number, else what the port found
(spec/19 R344). -/
def portEntries (dev : Nat → Option Nat) (ports : List PortInfo) : List (List Byte) :=
  ports.zipIdx.map (fun e => toBytes 1 e.2 ++ toBytes 1 e.1.status ++ toBytes 2 e.1.partner ++ toBytes 1 e.1.partnerPort ++
    [0#8, 0#8, 0#8] ++
    (match e.1.status, dev e.1.partner with
      | 0, _ | _, none => toBytes 8 e.1.partnerDev.toNat
      | _, some d => devId d))

/-- A module joins a job and emits its membership record; CTX in it is left open. -/
def Module.join (md : Module) (x : JobMember) (jobid : DWord) (dev : Nat → Option Nat) (ctx : List Byte) : Module :=
  let md := { md with
    inJob := true, jobid := jobid, optgrp := withRack x.pod x.optgrp, ports := x.ports, jobStart := md.wall, fab := ⟨0, 0, 0, 0, 0, 0⟩ }
  md.emit 2 (md.recordBody x.pod 2 ctx (toBytes 8 md.wall.toNat) (toBytes 8 0) (portEntries dev x.ports))

/-- A module that joins a job comes from a reset; one that has left another job has kept its records and its clock, and counted its boots
(spec/01 R13, spec/19 R342). A clock that the model has not followed differs by at most 20 ns from every other. -/
def State.comes (s : State) (dev i : Nat) : Module :=
  match tget s.parked dev with
  | some md => { md with boot := (md.boot + 1) % 2 ^ 32, rseq := 0 }
  | none =>
    let walls := (s.mods ++ s.parked).map (fun e => e.2.wall.toNat)
    let hi := walls.foldl max 0
    let lo := walls.foldl min hi
    { Module.reset with dev := dev, wall := BitVec.ofNat 64 (hi - 20 + Config.skew i % (lo + 20 - (hi - 20) + 1)) }

/-- JOB_FORMATION: a module that holds no context takes its pod number and authenticates its partners; the other members
join as they come from reset (spec/01 R8, R13; spec/11 R233; spec/19 R344). -/
def execJobFormation (p : JobParams) (s : State) : Out :=
  match s.mods with
  | [(a, md)] =>
    if md.inJob || !s.quiet || !JobOk p || !md.ready then .next s
    else
      let free (i : Nat) : List Byte := [Config.freeByte (s.freeCtr + 2 * i), Config.freeByte (s.freeCtr + 2 * i + 1)]
      let dev (pod : Nat) : Option Nat := if pod = p.self.pod then some md.dev else
        if p.others.any (fun o => o.pod == pod) then some (1 + pod) else none
      let own := md.join p.self p.jobid dev (free 0)
      let others := p.others.zipIdx.foldl (fun (t : List (Nat × Module)) e =>
        let x := { s with mods := s.mods ++ t }.comes (1 + e.1.pod) (s.freeCtr + e.2)
        t ++ [(e.1.pod, x.join e.1 p.jobid dev (free (1 + e.2)))]) []
      let s := s.rekey a p.self.pod own
      let s := { s with mods := s.mods ++ others, parked := s.parked.filter (fun e => !others.any (fun o => o.2.dev == e.1)), freeCtr := s.freeCtr + 2 * (1 + others.length) }
      .next ((s.mods.map (·.1)).foldl (fun s m => s.syncFb m) s)
  | _ => .next s

/-- JOB_END: with no context left, the job ends; the module that the host holds goes on alone with pod number 0 (spec/01
R8). -/
def execJobEnd (s : State) : Out :=
  match s.mods.find? (fun e => e.2.dev == 0) with
  | none => .next s
  | some (a, md) =>
    if (!md.inJob && a == 0) || !s.quiet then .next s
    else
      let alone (md : Module) : Module := { md with inJob := false, jobid := 0, optgrp := 0, ports := [], lost := false, jobStart := 0 }
      let rest := (s.mods.filter (fun e => e.1 ≠ a)).foldl (fun t e => tset t e.2.dev { Module.reset with
        dev := e.2.dev, wall := e.2.wall, boot := e.2.boot, rseq := e.2.rseq, records := e.2.records, life := e.2.life, bootLife := e.2.life }) s.parked
      .next (State.syncFb { s.rekey a 0 (alone md) with parked := rest } 0)

/-- OPTICAL_RECONFIGURE: between job phases, with no remote request outstanding, modules take new optical groups (spec/01 R8,
spec/11 R227). -/
def execOpticalReconfigure (groups : List (Nat × BitVec 16)) (s : State) : Out :=
  if s.reqs.any (fun r => !r.closed) || s.shuttles.any (fun p => !p.dead) || s.pend.any (fun p => !p.wait.isEmpty) then .next s
  else .next { s with mods := s.mods.map (fun (e : Nat × Module) =>
    match groups.find? (fun g => g.1 == e.1) with
    | some g => if e.2.inJob then (e.1, { e.2 with optgrp := withRack e.1 g.2 }) else e
    | none => e) }

/-! ### Islands (spec/01 R17, R18) -/

/-- ISLAND_SET: the management controller sets an island's frequency, 0 for off, and its voltage in mV. An island that holds a part of
a C-die in a partition stays on, and so does island 0 of a die while another of its die is on; the management controller's own stays
powered. What becomes of an access homed on a die of no partition whose islands are off the spec does not say: it is served (log entry
80). -/
def execIslandSet (m island : Nat) (v : IslandLevel) (s : State) : Out :=
  let md := s.module m
  let d := island / 4
  let on (i : Nat) : Bool := nget 2400 md.islands i != 0
  let part := s.ctxs.any (fun c => c.1.m == m && (islandDies island).any (fun d => c.2.dies.contains d))
  let rest := [4 * d + 1, 4 * d + 2, 4 * d + 3].any on
  if 64 ≤ island ∨ (v.mhz = 0 ∧ (island = 63 ∨ part)) ∨ (tget s.mods m).isNone then .next s
  else if island < 48 ∧ (2400 < v.mhz ∨ (v.mhz = 0 ∧ island % 4 = 0 ∧ rest) ∨ (v.mhz ≠ 0 ∧ island % 4 ≠ 0 ∧ ¬ on (4 * d))) then
    .next s
  else .next (s.setModule m { md with islands := nset 2400 md.islands island v.mhz, volts := nset 0 md.volts island v.mv })

/-! ### Lost dies and modules (spec/15 R309, R310; spec/08 R162; spec/07 R131) -/

/-- A lock whose home is lost: its holder takes a data-lost trap, every waiter receives DEADLOCK with hop count 0 (spec/08
R162). -/
def State.loseLockTable (s : State) (l : Nat) : State :=
  let ln := s.line l
  let s := ln.queue.foldl (fun s w => s.deadlock l w 0) s
  match ln.lock with
  | none => s
  | some e =>
    let w := e.holder
    let s := s.modLine l (fun x => { x with lock := none })
    let hit (g : Group) : Group :=
      let g := { g with locks := g.locks.filter (fun h => h.line ≠ l) }
      match e.st with
      | .granting _ => (g.dropFlight w.flight).pend ⟨0x0A, 0, e.vline, e.pc, 0⟩
      | .held | .saved => g.pend ⟨0x0A, 0, e.vline, e.pc, 0⟩
      | .handoff => g
    (s.modMember w.team w.gidx hit).makeRunnable w.team

/-- The line that a request names. -/
def State.reqLine (s : State) (p : Payload) : Option Nat :=
  match p with
  | .entry k e => ((s.group? k).bind (fun g => g.entry? e)).map (fun x => x.sector / 4)
  | .lane k fl i => ((s.group? k).bind (fun g => (g.flight? fl).bind (fun f => f.parts[i]?))).map (fun p => lineOf p.addr)
  | .fill _ l => some l
  | .lock k fl => ((s.group? k).bind (fun g => g.flight? fl)).bind (fun f => match f.kind with
    | .lock _ l _ _ _ => some l
    | .value | .load .. | .atom .. | .bar .. | .qpop .. | .launch .. | .shuttle .. => none)
  | .flag i => (s.flags.find? (fun f => f.id == i)).bind (fun f => if f.ba.isNone then some (lineOf f.pa) else none)
  | .shuttle _ | .stream _ | .slReq .. | .contrib .. | .unlk _ | .engine _ => none

/-- An outstanding instruction of a group loses what it asked of lost homes (spec/07 R131). -/
def State.loseFlight (s : State) (k : GKey) (gone : Nat → Bool) (f : Flight) : State :=
  let mine (p : Part) : Bool := p.space == .global && p.bytes.isNone && gone (lineOf p.addr)
  match f.kind with
  | .load .. | .launch .. | .atom .. =>
    if f.parts.any mine then
      s.loseLanes k f.id (maskOf ((f.parts.filter mine).map (·.lane))) (((f.parts.find? mine).map (·.va)).getD 0)
    else s
  | .lock _ l _ _ _ =>
    if gone l && !f.ready && ((s.group? k).bind (fun g => g.flight? f.id)).any (fun f => !f.ready) then s.failLock k f.id else s
  | .value | .bar .. | .qpop .. | .shuttle .. => s

/-- The outstanding accesses of every group to lost homes are lost, stores dropped and logged, flags lost; a request that is
under way on the fabric is left to its deadline where `wait` says so (spec/15 R309). -/
def State.loseAccesses (s : State) (gone : Nat → Bool) (wait : Bool) : State :=
  let open_ (k : GKey) (l : Nat) : Bool := wait && s.reqs.any (fun q => !q.closed && s.reqLine q.payload == some l && (match q.payload with
    | .entry g _ | .lane g _ _ | .fill g _ | .lock g _ => g == k
    | .flag _ | .shuttle _ | .stream _ | .slReq .. | .contrib .. | .unlk _ | .engine _ => false))
  let ids := (s.reqs.filter (fun q => !wait && !q.closed && (s.reqLine q.payload).any gone)).map (·.id)
  let s' := s.groups.foldl (fun s e =>
    let lost (l : Nat) : Bool := gone l && !open_ e.1 l
    let s := e.2.flights.foldl (fun s f => s.loseFlight e.1 lost f) s
    let s := (e.2.sb ++ e.2.entering).foldl (fun s x => if lost (x.sector / 4) then s.dropEntry e.1 x else s) s
    (e.2.wbs.filter (fun w => gone w.line)).foldl (fun s w => (s.lateLost e.1 w.mask w.va w.pc).modGroup e.1 (fun g =>
      { g with wbs := g.wbs.filter (fun x => x.id ≠ w.id) })) s) s
  let s' := s.flags.foldl (fun s f => if f.ba.isNone && !f.performed && gone (lineOf f.pa) && (!wait || f.req.isNone) then s.failFlag f.id else s) s'
  { s' with reqs := s'.reqs.map (fun (q : Req) => if ids.contains q.id then { q with closed := true } else q) }

/-- A dirty line is dropped in which no group's store is known: its address is logged and counted in the contexts of the module whose
cache held it (spec/15 R309, spec/19 R347; log entry 48). -/
def State.loseUnknown (s : State) (l : Nat) : State :=
  let m := (s.line l).point.mod l
  if !(s.line l).writers.isEmpty then s
  else (s.ctxs.filter (fun c => c.1.m == m && c.2.torn.isNone)).foldl (fun s c =>
    (s.count c.1 0x6000 1).logErr c.1 ⟨(s.module m).wall, BitVec.ofNat 64 (l * 128), 0, 0, 0, 0, 0, m, 0, 0x0F⟩) s

/-- Copies and proxies of lost lines are dropped, dirty ones in a surviving cache with the stores they hold; writes to them wait for no
acknowledgement. -/
def State.loseCaches (s : State) (gone : Nat → Bool) : State :=
  let s := (s.lines.filter (fun e => gone e.1 && e.2.dirty && e.2.point != .home)).foldl (fun s e =>
    (s.loseUnknown e.1).loseWriters e.1) s
  (State.replyDone { s with
    copies := s.copies.filter (fun c => !gone c.1.2)
    proxies := s.proxies.filter (fun p => !gone p.1.2)
    pend := s.pend.map (fun (p : PendWrite) => if gone p.line then { p with wait := [] } else p) }).settlePend

/-- The proxy slices of a lost die: a line that one of them alone held has lost its latest bytes and the stores in it; its home serves
it again (spec/11 R223, R225; log entry 48). -/
def State.dropProxies (s : State) (m d : Nat) : State :=
  (s.proxies.filter (fun p => p.1.1 == m && lineDie p.1.2 == d)).foldl (fun s p =>
    let l := p.1.2
    let s := { s with
      proxies := terase s.proxies (m, l)
      pend := s.pend.map (fun (w : PendWrite) => if w.line = l then { w with wait := w.wait.filter (fun x => x ≠ m) } else w) }
    if p.2.excl then
      let s := s.loseWriters l
      let bs := (List.range 128).map (fun i => Config.freeByte (s.freeCtr + i))
      State.modLine { s with mem := mwriteN s.mem (l * 128) bs, freeCtr := s.freeCtr + 128 } l
        (fun x => { x with dir := .uncached, racks := 0, ver := x.ver + 1 })
    else s.forget l m) s

/-- The groups of cores that a test picks stop for good. -/
def State.stopGroups (s : State) (p : CoreKey → Bool) : State :=
  { s with groups := s.groups.map (fun (e : GKey × Group) => if p e.1.core then (e.1, { e.2 with halting := true }) else e) }

/-- A context's pool is withdrawn: its gathers and drains are abandoned, contributions not yet sent are dropped, waiting groups replay;
its engines then make the entries that hold a frame Orphaned (spec/15 R310, State.orphanOne). -/
def State.losePool (s : State) (k : CtxKey) : State :=
  let s := s.modCtx k (fun c => { c with poolLost := true })
  let s := (s.gathers.filter (fun g => g.key == k)).foldl (fun s g => s.endGather g) s
  let s := (s.drains.filter (fun g => g.key == k)).foldl (fun s g =>
    let todo := (List.range g.n).filter (fun j => !g.slices.any (fun e => e.1 == j) || g.retry.any (fun e => e.1 == j))
    (todo.foldl (fun s j => s.noteDropped g j) s).endDrain g none) s
  s.wake k (fun r => match r.kind with
    | .gather | .drain | .absent | .poolEmpty => true
    | .notPresent | .movedStale => false) Replay.again

/-- DIE_LOST: the management controller declares a C-die lost (spec/15 R309, R310; spec/08 R162; spec/14 R289). Lane-private arrays and
the package scratchpad keep their bytes (log entry 105). -/
def execDieLost (m d : Nat) (s : State) : Out :=
  match tget s.mods m with
  | none => .next s
  | some md =>
    if 12 ≤ d ∨ md.lostDies.contains d then .next s
    else
      let gone (l : Nat) : Bool := lineMod l == m && lineDie l == d
      let s := s.setModule m { md with lostDies := md.lostDies ++ [d] }
      let s := s.setDie ⟨m, d⟩ { (s.die ⟨m, d⟩) with lost := true, walker := [], applying := [] }
      let s := s.stopGroups (fun c => c.m == m && c.c / 48 == d)
      let s := s.dropProxies m d
      let homed := (s.lines.filter (fun e => gone e.1)).map (·.1)
      let s := homed.foldl (fun s l => s.loseLockTable l) s
      let s := (s.loseAccesses gone false).loseCaches gone
      let s := { s with
        copies := s.copies.filter (fun c => c.1.1 ≠ DieKey.mk m d)
        lines := s.lines.filter (fun e => !gone e.1) }
      let s := { s with ctxs := s.ctxs.map (fun (c : CtxKey × Context) => if c.1.m = m then
        (c.1, { c.2 with dies := c.2.dies.filter (fun x => x ≠ d) }) else c) }
      .next ((s.ctxs.filter (fun c => c.1.m == m)).foldl (fun s c => s.losePool c.1) s)

/-- MODULE_LOST: the fabric layer declares a module of the job lost: every surviving module drops what it holds of it; requests in
flight to it fail by their deadlines (spec/15 R309, R310). -/
def execModuleLost (m : Nat) (s : State) : Out :=
  match tget s.mods m with
  | none => .next s
  | some md =>
    if !md.inJob || md.lost then .next s
    else
      let gone (l : Nat) : Bool := lineMod l == m
      let s := (s.setModule m { md with lost := true }).stopGroups (fun c => c.m == m)
      let s := ((s.lines.filter (fun e => gone e.1)).map (·.1)).foldl (fun s l => s.loseLockTable l) s
      .next ((((s.loseAccesses gone true).loseCaches gone).reclaim m).unawait m)

/-! ### Errors of the memories (spec/19 R347, R348) -/

/-- Count an uncorrectable error of a structure. -/
def State.countBad (s : State) (m st : Nat) : State :=
  s.modModule m (fun md => { md with errs := { md.errs with
    uncorrectable := nset 0 md.errs.uncorrectable st (min (nget 0 md.errs.uncorrectable st + 1) (2 ^ 32 - 1)) } })

/-- The record of an uncorrectable error that a group meets: DETAIL is the structure's code. -/
def State.logBad (s : State) (k : GKey) (addr : DWord) (st : Nat) : State :=
  match s.group? k with
  | none => s
  | some g => s.logErr g.key (s.errRec g.key g.team 0x11 addr 0 (BitVec.ofNat 64 st) k.m k.g)

/-- The outstanding reads of a group that touch a damaged byte of a local level have no effect in the lanes that read it. -/
def State.loseLocal (s : State) (k : GKey) (sp : Space) (a : Nat) : State :=
  match s.group? k with
  | none => s
  | some g =>
    let mine (p : Part) : Bool := p.space == sp && p.bytes.isNone && (List.range p.len).any (fun i => locByte sp p.addr i == a)
    g.flights.foldl (fun s f => if f.parts.any mine then
      s.loseLanes k f.id (maskOf ((f.parts.filter mine).map (·.lane))) (((f.parts.find? mine).map (·.va)).getD 0) else s) s

/-- A word of a local level is damaged: every read of it fails until a store overwrites it (State.spoiledAt, State.storeLoc). -/
def State.spoilWord (s : State) (sp : Space) (a : Nat) : State :=
  if s.spoiled.contains (sp, a / 4) then s else { s with spoiled := s.spoiled ++ [(sp, a / 4)] }

/-- A register of a group is damaged, a vector or predicate register in a lane: every word that reads it there fails until a word writes
it (prelude). -/
def State.spoil (s : State) (k : GKey) (r : Reg) (lane : Nat) : State :=
  s.modGroup k (fun g => if g.badRegs.contains (r, lane) then g else { g with badRegs := g.badRegs ++ [(r, lane)] })

/-- An access of a group meets the loss of a line: a read loses its lanes, a store that has not been performed and a write-back are
named in the late trap; none of them is a store that the line held (spec/07 R131). -/
def State.meetLoss (s : State) (k : GKey) (l : Nat) : State :=
  match s.group? k with
  | none => s
  | some g =>
    let mine (p : Part) : Bool := p.space == .global && p.bytes.isNone && lineOf p.addr == l
    let s := g.flights.foldl (fun s f => if f.parts.any mine then
      s.loseLanes k f.id (maskOf ((f.parts.filter mine).map (·.lane))) (((f.parts.find? mine).map (·.va)).getD 0) else s) s
    let s := (g.sb.filter (fun x => x.sector / 4 == l && !x.st.done)).foldl (fun s x => s.lateLost k x.mask x.va x.pc) s
    (g.wbs.filter (fun w => w.line == l)).foldl (fun s w => s.lateLost k w.mask w.va w.pc) s

/-- A dirty line is lost: it reads as its device holds it; every group whose store it held, and the accessing group, take a data-lost
trap. A loss in which no group's store is known is logged in the accessing group's context, or without one as State.loseUnknown says
(spec/19 R347). -/
def State.loseDirty (s : State) (l : Nat) (reader : Option GKey) : State :=
  let known := !(s.line l).writers.isEmpty
  let s := (if reader.isNone then s.loseUnknown l else s).loseWriters l
  let s := { s with mem := mwriteN s.mem (l * 128) (mreadN s.dev (l * 128) 128) }
  let s := (s.modLine l (fun x => { x with dirty := false, ver := x.ver + 1 })).noteEntries l
  match reader with
  | none => s
  | some k =>
    let s := match s.group? k, known with
      | some g, false => (s.count g.key 0x6000 1).logErr g.key (s.errRec g.key g.team 0x0F (BitVec.ofNat 64 (l * 128)) 0 0 k.m k.g)
      | _, _ => s
    s.meetLoss k l

/-- UNCORRECTABLE_ERROR: an error that check bits cannot mend is handled as its structure says, and counted (spec/19 R347,
R348). -/
def execUncorrectableError (e : ErrSite) (s : State) : Out :=
  .next (match e with
  | .l1Copy d line => State.countBad { s with copies := terase s.copies (d, line) } d.m 3
  | .l2Clean line => if (s.line line).dirty then s else s.countBad (lineMod line) 6
  | .proxyCopy m line => match tget s.proxies (m, line) with
    | none => s
    | some p => if p.excl || p.dropped then s
        else State.countBad { s with proxies := tset s.proxies (m, line) { p with data := s.lineBytes line, ver := (s.line line).ver } } m 6
  | .icache k blk => (s.modCore k (fun c => { c with icache := c.icache.filter (fun e => e.2.1 ≠ blk) })).countBad k.m 4
  | .transl k => (s.modCore k (fun c => { c with tlb := [] })).countBad k.m 8
  | .walker d => (s.modDie d (fun x => { x with walker := [] })).countBad d.m 8
  | .directory line => s.countBad (lineMod line) 8
  | .l2Dirty line reader => if (s.line line).dirty then (s.loseDirty line reader).countBad ((s.line line).point.mod line) 6 else s
  | .storeEntry k x => match (s.group? k).bind (fun g => g.entry? x) with
    | some y => (s.dropEntry k y).countBad k.m 8
    | none => s
  | .dram pa len k fl part =>
    let st := if pa % 2 ^ 48 < 0x018000000000 then 9 else 10
    let s := { s with damaged := s.damaged ++ [(pa, len)] }
    match (s.group? k).bind (fun g => (g.flight? fl).bind (fun f => f.parts[part]?)) with
    | none => s.countBad (paMod pa) st
    | some p => ((s.loseLanes k fl (maskOf [p.lane]) p.va).logBad k p.va st).countBad (paMod pa) st
  | .vreg k reg lane => ((s.spoil k (.v reg) lane).logBad k 0 1).countBad k.m 1
  | .reg k r lane => ((s.spoil k r (match r with
      | .v _ | .p _ => lane
      | .s _ | .q _ => 0)).logBad k 0 1).countBad k.m 1
  | .scratch k off reader =>
    let a := scratchAt k off
    (((s.spoilWord .scratch a).loseLocal reader .scratch a).logBad reader 0 2).countBad k.m 2
  | .pks k off reader =>
    let a := pksAt k off
    (((s.spoilWord .pks a).loseLocal reader .pks a).logBad reader 0 7).countBad k.m 7
  | .lanePriv k off => match s.group? k with
    | none => s
    | some g =>
      let a := lpAt g.team g.gidx 0 0 + off
      (((s.spoilWord .lane a).loseLocal k .lane a).logBad k 0 9).countBad k.m 9
  | .tile k off =>
    let w := tileAt k 0 (off % tileSize) / 4
    State.countBad (if s.badTiles.contains w then s else { s with badTiles := s.badTiles ++ [w] }) k.m 5
  | .lockTable line => (s.loseLockTable line).countBad (lineMod line) 8
  | .eyelet k i => match (s.core k).eyelets[i]? with
    | none => s
    | some y => (s.freeEyelet k y true).countBad k.m 8)

/-- CORRECTED_ERROR: a corrected error of a structure is counted and has no other effect (spec/19 R348). -/
def execCorrectedError (m : Nat) (st : Fin 11) (s : State) : Out :=
  if st.val = 0 ∨ (tget s.mods m).isNone then .next s
  else .next (s.modModule m (fun md => { md with errs := { md.errs with
    corrected := nset 0 md.errs.corrected st.val (min (nget 0 md.errs.corrected st.val + 1) (2 ^ 32 - 1)) } }))

end Sys2Proof.Machine
end

