-- ==== Sys2Proof/Machine/Dispatch.lean ====
section
/-! DEFINITION. The dispatch: one arm per instruction. -/

namespace Sys2Proof.Machine

/-- The meaning of every instruction and machine step. -/
def exec (i : Instr) (s : State) : Host.Outcome State Fault Refusal :=
  match i with
  | .bra t => Sys2Proof.Machine.execBra t s
  | .braDiv g t r => Sys2Proof.Machine.execBraDiv g t r s
  | .brq t q qn => Sys2Proof.Machine.execBrq t q qn s
  | .brx a => Sys2Proof.Machine.execBrx a s
  | .call t => Sys2Proof.Machine.execCall t s
  | .callx d a => Sys2Proof.Machine.execCallx d a s
  | .ret a => Sys2Proof.Machine.execRet a s
  | .join => Sys2Proof.Machine.execJoin s
  | .exit => Sys2Proof.Machine.execExit s
  | .nop => Sys2Proof.Machine.execNop s
  | .sadd f => Sys2Proof.Machine.execSadd f s
  | .ssub f => Sys2Proof.Machine.execSsub f s
  | .smulLo f => Sys2Proof.Machine.execSmulLo f s
  | .smulHi f => Sys2Proof.Machine.execSmulHi f s
  | .smad f => Sys2Proof.Machine.execSmad f s
  | .smin f => Sys2Proof.Machine.execSmin f s
  | .smax f => Sys2Proof.Machine.execSmax f s
  | .sabs f => Sys2Proof.Machine.execSabs f s
  | .sand f => Sys2Proof.Machine.execSand f s
  | .sor f => Sys2Proof.Machine.execSor f s
  | .sxor f => Sys2Proof.Machine.execSxor f s
  | .sandn f => Sys2Proof.Machine.execSandn f s
  | .snot f => Sys2Proof.Machine.execSnot f s
  | .sshl f => Sys2Proof.Machine.execSshl f s
  | .sshr f => Sys2Proof.Machine.execSshr f s
  | .ssar f => Sys2Proof.Machine.execSsar f s
  | .srot f => Sys2Proof.Machine.execSrot f s
  | .spopc f => Sys2Proof.Machine.execSpopc f s
  | .sclz f => Sys2Proof.Machine.execSclz f s
  | .sctz f => Sys2Proof.Machine.execSctz f s
  | .sbrev f => Sys2Proof.Machine.execSbrev f s
  | .sbfe f => Sys2Proof.Machine.execSbfe f s
  | .sbfi f => Sys2Proof.Machine.execSbfi f s
  | .scmp f => Sys2Proof.Machine.execScmp f s
  | .ssel f => Sys2Proof.Machine.execSsel f s
  | .smov f => Sys2Proof.Machine.execSmov f s
  | .smovw f => Sys2Proof.Machine.execSmovw f s
  | .slea f => Sys2Proof.Machine.execSlea f s
  | .ssext f => Sys2Proof.Machine.execSsext f s
  | .szext f => Sys2Proof.Machine.execSzext f s
  | .saddImm f => Sys2Proof.Machine.execSaddImm f s
  | .sandImm f => Sys2Proof.Machine.execSandImm f s
  | .sorImm f => Sys2Proof.Machine.execSorImm f s
  | .sxorImm f => Sys2Proof.Machine.execSxorImm f s
  | .sshlImm f => Sys2Proof.Machine.execSshlImm f s
  | .sshrImm f => Sys2Proof.Machine.execSshrImm f s
  | .ssarImm f => Sys2Proof.Machine.execSsarImm f s
  | .scmpImm f => Sys2Proof.Machine.execScmpImm f s
  | .smovImm f => Sys2Proof.Machine.execSmovImm f s
  | .vadd f => Sys2Proof.Machine.execVadd f s
  | .vsub f => Sys2Proof.Machine.execVsub f s
  | .vmulLo f => Sys2Proof.Machine.execVmulLo f s
  | .vmulHi f => Sys2Proof.Machine.execVmulHi f s
  | .vmad f => Sys2Proof.Machine.execVmad f s
  | .vmin f => Sys2Proof.Machine.execVmin f s
  | .vmax f => Sys2Proof.Machine.execVmax f s
  | .vabs f => Sys2Proof.Machine.execVabs f s
  | .vand f => Sys2Proof.Machine.execVand f s
  | .vor f => Sys2Proof.Machine.execVor f s
  | .vxor f => Sys2Proof.Machine.execVxor f s
  | .vandn f => Sys2Proof.Machine.execVandn f s
  | .vnot f => Sys2Proof.Machine.execVnot f s
  | .vshl f => Sys2Proof.Machine.execVshl f s
  | .vshr f => Sys2Proof.Machine.execVshr f s
  | .vsar f => Sys2Proof.Machine.execVsar f s
  | .vrot f => Sys2Proof.Machine.execVrot f s
  | .vpopc f => Sys2Proof.Machine.execVpopc f s
  | .vclz f => Sys2Proof.Machine.execVclz f s
  | .vctz f => Sys2Proof.Machine.execVctz f s
  | .vbrev f => Sys2Proof.Machine.execVbrev f s
  | .vbfe f => Sys2Proof.Machine.execVbfe f s
  | .vbfi f => Sys2Proof.Machine.execVbfi f s
  | .vcmp f => Sys2Proof.Machine.execVcmp f s
  | .vsel f => Sys2Proof.Machine.execVsel f s
  | .vmov f => Sys2Proof.Machine.execVmov f s
  | .vmovw f => Sys2Proof.Machine.execVmovw f s
  | .vlea f => Sys2Proof.Machine.execVlea f s
  | .vsext f => Sys2Proof.Machine.execVsext f s
  | .vzext f => Sys2Proof.Machine.execVzext f s
  | .vaddImm f => Sys2Proof.Machine.execVaddImm f s
  | .vandImm f => Sys2Proof.Machine.execVandImm f s
  | .vorImm f => Sys2Proof.Machine.execVorImm f s
  | .vxorImm f => Sys2Proof.Machine.execVxorImm f s
  | .vshlImm f => Sys2Proof.Machine.execVshlImm f s
  | .vshrImm f => Sys2Proof.Machine.execVshrImm f s
  | .vsarImm f => Sys2Proof.Machine.execVsarImm f s
  | .vcmpImm f => Sys2Proof.Machine.execVcmpImm f s
  | .vmovImm f => Sys2Proof.Machine.execVmovImm f s
  | .shflIdx f => Sys2Proof.Machine.execShflIdx f s
  | .shflUp f => Sys2Proof.Machine.execShflUp f s
  | .shflDn f => Sys2Proof.Machine.execShflDn f s
  | .shflXor f => Sys2Proof.Machine.execShflXor f s
  | .voteAny f => Sys2Proof.Machine.execVoteAny f s
  | .voteAll f => Sys2Proof.Machine.execVoteAll f s
  | .voteBal f => Sys2Proof.Machine.execVoteBal f s
  | .redux f => Sys2Proof.Machine.execRedux f s
  | .vtos f => Sys2Proof.Machine.execVtos f s
  | .stov f => Sys2Proof.Machine.execStov f s
  | .fadd f => Sys2Proof.Machine.execFadd f s
  | .fsub f => Sys2Proof.Machine.execFsub f s
  | .fmul f => Sys2Proof.Machine.execFmul f s
  | .fma f => Sys2Proof.Machine.execFma f s
  | .fmin f => Sys2Proof.Machine.execFmin f s
  | .fmax f => Sys2Proof.Machine.execFmax f s
  | .fcmp f => Sys2Proof.Machine.execFcmp f s
  | .frcp f => Sys2Proof.Machine.execFrcp f s
  | .frsq f => Sys2Proof.Machine.execFrsq f s
  | .fsqrt f => Sys2Proof.Machine.execFsqrt f s
  | .fex2 f => Sys2Proof.Machine.execFex2 f s
  | .flg2 f => Sys2Proof.Machine.execFlg2 f s
  | .ftanh f => Sys2Proof.Machine.execFtanh f s
  | .fdot4 f => Sys2Proof.Machine.execFdot4 f s
  | .cvt f => Sys2Proof.Machine.execCvt f s
  | .cvtFi f => Sys2Proof.Machine.execCvtFi f s
  | .cvtIf f => Sys2Proof.Machine.execCvtIf f s
  | .qblkHist f => Sys2Proof.Machine.execQblkHist f s
  | .qblkClip f => Sys2Proof.Machine.execQblkClip f s
  | .qblkQ f => Sys2Proof.Machine.execQblkQ f s
  | .ldl f => Sys2Proof.Machine.execLdl f s
  | .stl f => Sys2Proof.Machine.execStl f s
  | .lds f => Sys2Proof.Machine.execLds f s
  | .sts f => Sys2Proof.Machine.execSts f s
  | .ldd f => Sys2Proof.Machine.execLdd f s
  | .std f => Sys2Proof.Machine.execStd f s
  | .ldk f => Sys2Proof.Machine.execLdk f s
  | .stk f => Sys2Proof.Machine.execStk f s
  | .ldg f => Sys2Proof.Machine.execLdg f s
  | .stg f => Sys2Proof.Machine.execStg f s
  | .ldSpec f => Sys2Proof.Machine.execLdSpec f s
  | .chk t => Sys2Proof.Machine.execChk t s
  | .pf f l2 => Sys2Proof.Machine.execPf f l2 s
  | .cwb f => Sys2Proof.Machine.execCwb f s
  | .cinv f => Sys2Proof.Machine.execCinv f s
  | .atomAdd f => Sys2Proof.Machine.execAtomAdd f s
  | .atomMin f => Sys2Proof.Machine.execAtomMin f s
  | .atomMax f => Sys2Proof.Machine.execAtomMax f s
  | .atomAnd f => Sys2Proof.Machine.execAtomAnd f s
  | .atomOr f => Sys2Proof.Machine.execAtomOr f s
  | .atomXor f => Sys2Proof.Machine.execAtomXor f s
  | .atomSwap f => Sys2Proof.Machine.execAtomSwap f s
  | .atomCas f => Sys2Proof.Machine.execAtomCas f s
  | .atomFaddF32 f => Sys2Proof.Machine.execAtomFaddF32 f s
  | .atomFaddBf16 f => Sys2Proof.Machine.execAtomFaddBf16 f s
  | .redAdd f => Sys2Proof.Machine.execRedAdd f s
  | .redMin f => Sys2Proof.Machine.execRedMin f s
  | .redMax f => Sys2Proof.Machine.execRedMax f s
  | .redAnd f => Sys2Proof.Machine.execRedAnd f s
  | .redOr f => Sys2Proof.Machine.execRedOr f s
  | .redXor f => Sys2Proof.Machine.execRedXor f s
  | .redFaddF32 f => Sys2Proof.Machine.execRedFaddF32 f s
  | .redFaddBf16 f => Sys2Proof.Machine.execRedFaddBf16 f s
  | .lck f => Sys2Proof.Machine.execLck f s
  | .lckTry f => Sys2Proof.Machine.execLckTry f s
  | .unlk f => Sys2Proof.Machine.execUnlk f s
  | .barInit f => Sys2Proof.Machine.execBarInit f s
  | .barArrive f => Sys2Proof.Machine.execBarArrive f s
  | .barExpect f => Sys2Proof.Machine.execBarExpect f s
  | .barWait f => Sys2Proof.Machine.execBarWait f s
  | .barTest f => Sys2Proof.Machine.execBarTest f s
  | .fenceAcq sc => Sys2Proof.Machine.execFenceAcq sc s
  | .fenceRel sc => Sys2Proof.Machine.execFenceRel sc s
  | .fenceFull sc => Sys2Proof.Machine.execFenceFull sc s
  | .fenceX src dst sc => Sys2Proof.Machine.execFenceX src dst sc s
  | .cpy f => Sys2Proof.Machine.execCpy f s
  | .cpy2d f => Sys2Proof.Machine.execCpy2d f s
  | .cpyWait d n => Sys2Proof.Machine.execCpyWait d n s
  | .tld f => Sys2Proof.Machine.execTld f s
  | .tst f => Sys2Proof.Machine.execTst f s
  | .tzero acc n => Sys2Proof.Machine.execTzero acc n s
  | .mmac f => Sys2Proof.Machine.execMmac f s
  | .mmacg f => Sys2Proof.Machine.execMmacg f s
  | .taccLd f => Sys2Proof.Machine.execTaccLd f s
  | .taccSt f => Sys2Proof.Machine.execTaccSt f s
  | .tcvt f => Sys2Proof.Machine.execTcvt f s
  | .tileOpExecute k => Sys2Proof.Machine.execTileOpExecute k s
  | .mmacgChunk k => Sys2Proof.Machine.execMmacgChunk k s
  | .stAck f => Sys2Proof.Machine.execStAck f s
  | .fflArr f => Sys2Proof.Machine.execFflArr f s
  | .fflB32 f => Sys2Proof.Machine.execFflB32 f s
  | .fflB64 f => Sys2Proof.Machine.execFflB64 f s
  | .shtl f => Sys2Proof.Machine.execShtl f s
  | .shtlT f => Sys2Proof.Machine.execShtlT f s
  | .collAg d p => Sys2Proof.Machine.execCollAg d p s
  | .collRs d p => Sys2Proof.Machine.execCollRs d p s
  | .collAr d p => Sys2Proof.Machine.execCollAr d p s
  | .collBc d p => Sys2Proof.Machine.execCollBc d p s
  | .shg a => Sys2Proof.Machine.execShg a s
  | .shev a b => Sys2Proof.Machine.execShev a b s
  | .shq la d a => Sys2Proof.Machine.execShq la d a s
  | .pgq la d a => Sys2Proof.Machine.execPgq la d a s
  | .trap code => Sys2Proof.Machine.execTrap code s
  | .rfh => Sys2Proof.Machine.execRfh s
  | .mfs d n => Sys2Proof.Machine.execMfs d n s
  | .mts a n => Sys2Proof.Machine.execMts a n s
  | .launch la d a b => Sys2Proof.Machine.execLaunch la d a b s
  | .evsig a => Sys2Proof.Machine.execEvsig a s
  | .qpop la d a => Sys2Proof.Machine.execQpop la d a s
  | .qpopNb la d a => Sys2Proof.Machine.execQpopNb la d a s
  | .bkpt code => Sys2Proof.Machine.execBkpt code s
  | .trc a tag => Sys2Proof.Machine.execTrc a tag s
  | .smark tag => Sys2Proof.Machine.execSmark tag s
  | .instructionFetch => Sys2Proof.Machine.execInstructionFetch s
  | .resultLand k fl => Sys2Proof.Machine.execResultLand k fl s
  | .lateTrapTake => Sys2Proof.Machine.execLateTrapTake s
  | .read k fl part => Sys2Proof.Machine.execRead k fl part s
  | .fill k line => Sys2Proof.Machine.execFill k line s
  | .drain k e => Sys2Proof.Machine.execDrain k e s
  | .perform w => Sys2Proof.Machine.execPerform w s
  | .storeAck k e => Sys2Proof.Machine.execStoreAck k e s
  | .atomReply k fl => Sys2Proof.Machine.execAtomReply k fl s
  | .redEntryApply line => Sys2Proof.Machine.execRedEntryApply line s
  | .movedResend k e => Sys2Proof.Machine.execMovedResend k e s
  | .engine e piece => Sys2Proof.Machine.execEngine e piece s
  | .land n => Sys2Proof.Machine.execLand n s
  | .barrier n => Sys2Proof.Machine.execBarrier n s
  | .deliver r => Sys2Proof.Machine.execDeliver r s
  | .resolve k e => Sys2Proof.Machine.execResolve k e s
  | .tick => Sys2Proof.Machine.execTick s
  | .expiredCopyDrop d line => Sys2Proof.Machine.execExpiredCopyDrop d line s
  | .save team => Sys2Proof.Machine.execSave team s
  | .restore team => Sys2Proof.Machine.execRestore team s
  | .teamMakeResident k => Sys2Proof.Machine.execTeamMakeResident k s
  | .quantumExpiry team => Sys2Proof.Machine.execQuantumExpiry team s
  | .remoteLoadBlock k fl => Sys2Proof.Machine.execRemoteLoadBlock k fl s
  | .faultReplay k => Sys2Proof.Machine.execFaultReplay k s
  | .carveChange k grid => Sys2Proof.Machine.execCarveChange k grid s
  | .lockRequest k fl => Sys2Proof.Machine.execLockRequest k fl s
  | .lockGrant line => Sys2Proof.Machine.execLockGrant line s
  | .lockHandoff line => Sys2Proof.Machine.execLockHandoff line s
  | .resUpdate line waiter res => Sys2Proof.Machine.execResUpdate line waiter res s
  | .lckTryTimeout line waiter => Sys2Proof.Machine.execLckTryTimeout line waiter s
  | .deadlockProbe line waiter => Sys2Proof.Machine.execDeadlockProbe line waiter s
  | .lockTimeout k line => Sys2Proof.Machine.execLockTimeout k line s
  | .proxyReadMiss m line => Sys2Proof.Machine.execProxyReadMiss m line s
  | .invalidate m line => Sys2Proof.Machine.execInvalidate m line s
  | .invalidateAck m line => Sys2Proof.Machine.execInvalidateAck m line s
  | .recall m line => Sys2Proof.Machine.execRecall m line s
  | .proxyEvict m line => Sys2Proof.Machine.execProxyEvict m line s
  | .requestResend r => Sys2Proof.Machine.execRequestResend r s
  | .requestFail r => Sys2Proof.Machine.execRequestFail r s
  | .lateReply r => Sys2Proof.Machine.execLateReply r s
  | .ackSend n => Sys2Proof.Machine.execAckSend n s
  | .flagApply n => Sys2Proof.Machine.execFlagApply n s
  | .shuttleStep n => Sys2Proof.Machine.execShuttleStep n s
  | .shuttleReturn k fl => Sys2Proof.Machine.execShuttleReturn k fl s
  | .collStreamReceive n => Sys2Proof.Machine.execCollStreamReceive n s
  | .collFail op cause => Sys2Proof.Machine.execCollFail op cause s
  | .gtimerMatch k => Sys2Proof.Machine.execGtimerMatch k s
  | .deadline k => Sys2Proof.Machine.execDeadline k s
  | .hostTailWrite k q v => Sys2Proof.Machine.execHostTailWrite k q v s
  | .hostAccess a => Sys2Proof.Machine.execHostAccess a s
  | .qpopWake k fl => Sys2Proof.Machine.execQpopWake k fl s
  | .launchPacket k q => Sys2Proof.Machine.execLaunchPacket k q s
  | .waitEvent k q => Sys2Proof.Machine.execWaitEvent k q s
  | .signalEvent k q => Sys2Proof.Machine.execSignalEvent k q s
  | .fencePacket k q => Sys2Proof.Machine.execFencePacket k q s
  | .markArm k q => Sys2Proof.Machine.execMarkArm k q s
  | .markDisarm k q => Sys2Proof.Machine.execMarkDisarm k q s
  | .markStart k q => Sys2Proof.Machine.execMarkStart k q s
  | .markFreeze k q => Sys2Proof.Machine.execMarkFreeze k q s
  | .markEvent k q => Sys2Proof.Machine.execMarkEvent k q s
  | .gridComplete grid => Sys2Proof.Machine.execGridComplete grid s
  | .eventActivate k id => Sys2Proof.Machine.execEventActivate k id s
  | .eventDeactivate m id => Sys2Proof.Machine.execEventDeactivate m id s
  | .partitionRecompute m => Sys2Proof.Machine.execPartitionRecompute m s
  | .contextCreate p => Sys2Proof.Machine.execContextCreate p s
  | .contextTeardown k => Sys2Proof.Machine.execContextTeardown k s
  | .queueCreate p => Sys2Proof.Machine.execQueueCreate p s
  | .jobFormation p => Sys2Proof.Machine.execJobFormation p s
  | .jobEnd => Sys2Proof.Machine.execJobEnd s
  | .opticalReconfigure groups => Sys2Proof.Machine.execOpticalReconfigure groups s
  | .islandSet m island v => Sys2Proof.Machine.execIslandSet m island v s
  | .dieLost m d => Sys2Proof.Machine.execDieLost m d s
  | .moduleLost m => Sys2Proof.Machine.execModuleLost m s
  | .powerOn m => Sys2Proof.Machine.execPowerOn m s
  | .reset m => Sys2Proof.Machine.execReset m s
  | .lifecycleChange m st => Sys2Proof.Machine.execLifecycleChange m st s
  | .getMeasurements m => Sys2Proof.Machine.execGetMeasurements m s
  | .usageRecordEmit k => Sys2Proof.Machine.execUsageRecordEmit k s
  | .interimRecord k => Sys2Proof.Machine.execInterimRecord k s
  | .recordAck m rseq => Sys2Proof.Machine.execRecordAck m rseq s
  | .pageWalk d k va kind => Sys2Proof.Machine.execPageWalk d k va kind s
  | .absentAllocate k va => Sys2Proof.Machine.execAbsentAllocate k va s
  | .gatherStart k va => Sys2Proof.Machine.execGatherStart k va s
  | .slReq r => Sys2Proof.Machine.execSlReq r s
  | .slData r => Sys2Proof.Machine.execSlData r s
  | .slNak r => Sys2Proof.Machine.execSlNak r s
  | .contrib r => Sys2Proof.Machine.execContrib r s
  | .cnAck r => Sys2Proof.Machine.execCnAck r s
  | .cnFull r => Sys2Proof.Machine.execCnFull r s
  | .cnNak r => Sys2Proof.Machine.execCnNak r s
  | .roundCommit k sg page slice => Sys2Proof.Machine.execRoundCommit k sg page slice s
  | .drainStart k va => Sys2Proof.Machine.execDrainStart k va s
  | .poolPressure k => Sys2Proof.Machine.execPoolPressure k s
  | .frameReturn k frame => Sys2Proof.Machine.execFrameReturn k frame s
  | .faultFlush m => Sys2Proof.Machine.execFaultFlush m s
  | .movedEntryExpire m frame => Sys2Proof.Machine.execMovedEntryExpire m frame s
  | .breakpointHit => Sys2Proof.Machine.execBreakpointHit s
  | .logBreakpoint => Sys2Proof.Machine.execLogBreakpoint s
  | .teamStop team cause => Sys2Proof.Machine.execTeamStop team cause s
  | .debugCont t => Sys2Proof.Machine.execDebugCont t s
  | .debugStep team => Sys2Proof.Machine.execDebugStep team s
  | .watchHit n => Sys2Proof.Machine.execWatchHit n s
  | .stitchRecordReturn n => Sys2Proof.Machine.execStitchRecordReturn n s
  | .sequencerEvent k => Sys2Proof.Machine.execSequencerEvent k s
  | .seqWrite k v => Sys2Proof.Machine.execSeqWrite k v s
  | .whrdWrite k v => Sys2Proof.Machine.execWhrdWrite k v s
  | .whbaseWrite k v => Sys2Proof.Machine.execWhbaseWrite k v s
  | .capbaseWrite k v => Sys2Proof.Machine.execCapbaseWrite k v s
  | .registerWrite k off v => Sys2Proof.Machine.execRegisterWrite k off v s
  | .uncorrectableError e => Sys2Proof.Machine.execUncorrectableError e s
  | .correctedError m st => Sys2Proof.Machine.execCorrectedError m st s
  | .writebackComplete k n => Sys2Proof.Machine.execWritebackComplete k n s
  | .illegalInstruction => Sys2Proof.Machine.execIllegalInstruction s
  | .lockGrantWithdrawal line => Sys2Proof.Machine.execLockGrantWithdrawal line s
  | .responseCacheEntryExpiry r => Sys2Proof.Machine.execResponseCacheEntryExpiry r s
  | .contribResend r => Sys2Proof.Machine.execContribResend r s
  | .hostPushedRecoveryImage m img => Sys2Proof.Machine.execHostPushedRecoveryImage m img s

end Sys2Proof.Machine
end

