-- ==== Sys2Proof/Machine/Step.lean ====
section
/-! DEFINITION. The step of the machine (spec/09 R167): one turn; and the placing of one instruction to run next. The turns
themselves stand in Machine/Fetch.lean. -/

namespace Sys2Proof.Machine

/-- One step of the machine. -/
def step (s : State) : Host.Outcome State Fault Refusal := State.oneStep exec s

/-- The state whose very next step runs the given instruction: a team is resident on core 0, its block is fetched and its issue slot
scans next (log entry 2). -/
def State.withFetchWord (s : State) (nbits w : Nat) : State := s.placeWord nbits w

end Sys2Proof.Machine
end

