-- ==== Sys2Proof/Safety.lean ====
section
/-! DEFINITION. What claims speak of: a step to a state, the states that a run reaches, the form that the memories of every
state keep, what the issue of a word notes beside its effect, and the instructions of one shape. -/

namespace Sys2Proof.Machine

/-- A step answers the state t. -/
def StepsTo (s t : State) : Prop := step s = .next t

/-- The states that a run from s reaches (spec/09 R167: a finite or infinite sequence of steps). -/
inductive Reaches : State → State → Prop where
  | refl (s : State) : Reaches s s
  | step {s t u : State} (h : Reaches s t) (h' : StepsTo t u) : Reaches s u

/-- The turn that the machine takes next is t. -/
def State.decides (s : State) (t : Turn) : Prop := s.agenda.head? = some t ∨ (s.agenda = [] ∧ Config.turn s.freeCtr = some t)

/-- A run in which no turn is put off for ever: what a claim that an access, a step or an engine operation is eventually performed
(spec/02 R360) assumes of the order of the turns, which is free (log entry 2). -/
def FairRun (r : Nat → State) : Prop :=
  (∀ n, StepsTo (r n) (r (n + 1))) ∧ ∀ t n, ∃ m, n ≤ m ∧ (r m).decides t

/-- Every memory of the state is in its canonical form. -/
def State.memOk (s : State) : Bool :=
  s.mem.wf && s.dev.wf && s.scratch.wf && s.pks.wf && s.lpm.wf && s.tiles.wf

/-- A state in which the machine goes on: its step is neither a fault nor a refusal. -/
def State.runs (s : State) : Prop := ∃ t, StepsTo s t

/-- A group as it was, but that it may be marked as halting (spec/18 R329). -/
def SameButHalting (g g' : Group) : Prop := g' = g ∨ g' = { g with halting := true }

/-- t is s but for what the issue of a word notes beside its effect: the issue slots of its core (spec/03 R62), the events
offered to its context's trigger sequencer (spec/18 R331) and a stop of its team (spec/18 R329). -/
def Noted (s t : State) : Prop :=
  ∃ cs xs ts gs, t = { s with cores := cs, ctxs := xs, teams := ts, groups := gs } ∧
    (∀ k, (tget cs k).map (fun c => { c with lastIssue := [], lastPos := [] }) =
        (tget s.cores k).map (fun c => { c with lastIssue := [], lastPos := [] }) ∨
      (tget s.cores k = none ∧ ∃ c, tget cs k = some c ∧ { c with lastIssue := [], lastPos := [] } = Core.fresh)) ∧
    (∀ k, (tget xs k).map (fun c => { c with trig := [] }) = (s.ctx? k).map (fun c => { c with trig := [] })) ∧
    (∀ k, (tget ts k).map (fun c => { c with stop := none, also := [], stopAt := none, stepping := false }) =
      (s.team? k).map (fun c => { c with stop := none, also := [], stopAt := none, stepping := false })) ∧
    ∀ k, (tget gs k = none ∧ s.group? k = none) ∨
      ∃ g g', s.group? k = some g ∧ tget gs k = some g' ∧ SameButHalting g g'

/-- t is s but for what an access notes beside its effect: the translation caches, the usage counters, the sampling countdown, and
what it offers to the debug facilities (spec/15 R295; spec/18 R325, R326, R331; spec/19 R339). -/
def AccessNoted (s t : State) : Prop :=
  ∃ cs ds xs ws ys n c, t = { s with cores := cs, dies := ds, ctxs := xs, watches := ws, stitches := ys, nextId := n, freeCtr := c } ∧
    (∀ k, { t.core k with tlb := [], countdown := 0 } = { s.core k with tlb := [], countdown := 0 }) ∧
    (∀ k, { t.die k with walker := [] } = { s.die k with walker := [] }) ∧
    ∀ k, (t.ctx? k).map (fun x => { x with trig := [], usage := [], sat := [] }) =
      (s.ctx? k).map (fun x => { x with trig := [], usage := [], sat := [] })

/-- What a release asks for before it leaves the fragment holds: the earlier accesses of its lanes are performed, their write
commit times have passed, no eyelet of theirs is in flight or struck (spec/07 R128, R135; spec/09 R172). -/
def Iss.mayRelease (x : Iss) (rel : Bool) (sc : Scope) : Prop :=
  rel = true → x.s.released x.k x.g x.f.mask (sc == .sys) = true ∧
    (x.s.core x.k.core).eyeletIn x.k.g x.f.mask = false ∧ x.g.sr.eystruck &&& x.f.mask = 0#32

/-- Every part of an access of n bytes translates (spec/15 R294). -/
def Iss.allTranslate (x : Iss) (acc : AccKind) (n : Nat) (ea : Nat → DWord) : Prop :=
  ∀ p ∈ x.s.parts x.g.key acc x.act n ea, ∃ pa leaf, p.fate = .ok pa leaf

/-! ### What the lanes of an instruction do -/

/-- The draw of a lane and its next seed: in mode SR one step of the lane's generator (spec/06 R94). -/
def drawOf (mode : RMode) (seed : NMap Word) (l : Nat) : Nat × Word :=
  if mode = .sr then lfsr (nget 0#32 seed l) l else (0, nget 0#32 seed l)

/-- The union of the flags of the lanes that act (spec/06 R95). -/
def flagsOf (act : LaneMask) (fl : Nat → Flags) : Flags := (lanesOf act).foldl (fun a l => a ||| fl l) 0#5

/-- The seeds after one rounding in each lane that acts: the others keep theirs (spec/06 R94). -/
def SeedsAfter (mode : RMode) (act : LaneMask) (seed seed' : NMap Word) : Prop :=
  ∀ l, nget 0#32 seed' l = if l < 32 ∧ act.getLsbD l = true then (drawOf mode seed l).2 else nget 0#32 seed l

/-- A float or conversion word of the short class took effect: registers r, the seeds that its roundings left, its flags (spec/06
R94, R95, R98); idx and per say what each active lane counts (spec/19 R339, R340). -/
def ShortFloat (i : Instr) (x : Iss) (s : State) (idx per : Nat) (mode : RMode) (fl : Nat → Flags) (r : Regs) : Prop :=
  ∃ seed, SeedsAfter mode x.act x.g.sr.seed seed ∧
    exec i s = .next (x.done (({ x with
      s := x.s.count x.g.key idx (per * (lanesOf x.act).length)
      g := { x.g with sr := { x.g.sr with seed := seed, fmode := orFlags x.g.sr.fmode (flagsOf x.act fl) } } } : Iss).short
        (Instr.dests i ++ [fmodeReg]) r))

/-- The codes of a format of one byte. -/
def oneByteFormats : List Fmt :=
  [.e4m3, .e5m2] ++ [false, true].flatMap (fun u => [false, true].flatMap (fun x =>
    (List.range 7).map (fun p => .b8 u x (Fin.ofNat 7 p))))

/-! ### Instructions of one shape -/

/-- The operations of spec/05 R71 on scalar registers. -/
def scalarOps : List (IOp × (SInt → Instr)) :=
  [(.add, .sadd), (.sub, .ssub), (.mulLo, .smulLo), (.mulHi, .smulHi), (.mad, .smad), (.min, .smin), (.max, .smax),
   (.abs, .sabs), (.and, .sand), (.or, .sor), (.xor, .sxor), (.andn, .sandn), (.not, .snot), (.shl, .sshl),
   (.shr, .sshr), (.sar, .ssar), (.rot, .srot), (.popc, .spopc), (.clz, .sclz), (.ctz, .sctz), (.brev, .sbrev),
   (.bfe, .sbfe), (.bfi, .sbfi), (.mov, .smov), (.sext, .ssext), (.zext, .szext)]

/-- The operations of spec/05 R71 on vector registers. -/
def vectorOps : List (IOp × (VInt → Instr)) :=
  [(.add, .vadd), (.sub, .vsub), (.mulLo, .vmulLo), (.mulHi, .vmulHi), (.mad, .vmad), (.min, .vmin), (.max, .vmax),
   (.abs, .vabs), (.and, .vand), (.or, .vor), (.xor, .vxor), (.andn, .vandn), (.not, .vnot), (.shl, .vshl),
   (.shr, .vshr), (.sar, .vsar), (.rot, .vrot), (.popc, .vpopc), (.clz, .vclz), (.ctz, .vctz), (.brev, .vbrev),
   (.bfe, .vbfe), (.bfi, .vbfi), (.mov, .vmov), (.sext, .vsext), (.zext, .vzext)]

/-- The operations of spec/05 R75 with an immediate, on scalar and on vector registers. -/
def scalarImmOps : List (IOp × (SImmF → Instr)) :=
  [(.add, .saddImm), (.and, .sandImm), (.or, .sorImm), (.xor, .sxorImm), (.shl, .sshlImm), (.shr, .sshrImm),
   (.sar, .ssarImm)]
def vectorImmOps : List (IOp × (VImmF → Instr)) :=
  [(.add, .vaddImm), (.and, .vandImm), (.or, .vorImm), (.xor, .vxorImm), (.shl, .vshlImm), (.shr, .vshrImm),
   (.sar, .vsarImm)]

/-- The float operations of spec/06 R98 with short latency, with what each counts per lane, and the L ones. -/
def floatShort : List (FOp × Nat × (FltF → Instr)) :=
  [(.add, 1, .fadd), (.sub, 1, .fsub), (.mul, 1, .fmul), (.fma, 2, .fma)]
def floatLong : List (FOp × (FltF → Instr)) :=
  [(.rcp, .frcp), (.rsq, .frsq), (.sqrt, .fsqrt), (.ex2, .fex2), (.lg2, .flg2), (.tanh, .ftanh)]

/-- The loads and stores of the local levels (spec/07 R121). -/
def localLoads : List (Space × (MemF → Instr)) := [(.lane, .ldl), (.scratch, .lds), (.die, .ldd), (.pks, .ldk)]
def localStores : List (Space × (MemF → Instr)) := [(.lane, .stl), (.scratch, .sts), (.die, .std), (.pks, .stk)]

/-- The atomics and the reductions of one shape: operation code, constructor (spec/08 R140). -/
def atomOps : List (Nat × (AtomF → Instr)) :=
  [(0, .atomAdd), (1, .atomMin), (2, .atomMax), (3, .atomAnd), (4, .atomOr), (5, .atomXor), (6, .atomSwap), (7, .atomCas)]
def atomFOps : List (Nat × (AtomFF → Instr)) := [(8, .atomFaddF32), (9, .atomFaddBf16)]
def redOps : List (Nat × (AtomF → Instr)) :=
  [(0, .redAdd), (1, .redMin), (2, .redMax), (3, .redAnd), (4, .redOr), (5, .redXor)]
def redFOps : List (Nat × (AtomFF → Instr)) := [(8, .redFaddF32), (9, .redFaddBf16)]

end Sys2Proof.Machine
end

