-- ==== Sys2Proof/Certificates/Slice0/Obligations.lean ====
section
/-! DEFINITION. The statements for the provers: each obligation is one Prop; where it has several parts, they stand before it
under Claims. -/

open Sys2Proof Sys2Proof.Machine

/-- The words that the spec writes out, one for each class (spec/02 to spec/18), decode to the instructions that it writes
beside them. -/
def Obligations.SpecWordsDecode : Prop :=
  decodeWords 0x0410200000300050 none = .ok (.braDiv ⟨2, false⟩ 3 5) ∧
  decodeWords 0x0A00705040000040 none = .ok (.saddImm ⟨5, 4, 0x40⟩) ∧
  decodeWords 0x0E70743030000004 none = .ok (.vcmpImm ⟨⟨7, false⟩, .gtS, false, 3, 3, 4⟩) ∧
  decodeWords 0x1010704020001201 none = .ok (.shflUp ⟨0, ⟨7, false⟩, false, .w8, false, 1, 4, 2, 0, 1⟩) ∧
  decodeWords 0x1430708020308000 none = .ok (.fma ⟨0, ⟨7, false⟩, .f32, .rne, false, false, 8, 2, 3, 8⟩) ∧
  decodeWords 0x1800706040002C18 none = .ok (.cvt ⟨⟨7, false⟩, .f32, .b8 false true 3, .rne, true, 2, 6, 4⟩) ∧
  decodeWords 0x1C22707020301064 none =
    .ok (.lds ⟨2, ⟨7, false⟩, 7, ⟨.s32, 2, 3, 0x10⟩, .pkg, .relaxed, .b32⟩) ∧
  decodeWords 0x201070AC60000875 none =
    .ok (.stg ⟨0, ⟨7, false⟩, 10, ⟨.none, 6, 0, 8⟩, .pkg, .release, .b64⟩) ∧
  decodeWords 0x240270406020086C none =
    .ok (.atomAdd ⟨2, ⟨7, false⟩, 4, ⟨.s32, 6, 2, 8⟩, .pkg, .acquire, .u32⟩) ∧
  decodeWords 0x2810706CC0002070 none = .ok (.barArrive ⟨0, 6, 12, 0x20, 0, .pkg, .release⟩) ∧
  decodeWords 0x2C1071415165C300 (some 0x0000800004001000) =
    .ok (.cpy2d ⟨20, 21, 22, 23, .scratch, .global, 0x80, 0x400, true, false, 0⟩) ∧
  decodeWords 0x303070100112CB20 none =
    .ok (.mmac ⟨false, 1, false, false, 0, true, false, 1, .b8 false true 3, .b8 false true 3, true⟩) ∧
  decodeWords 0x342070A04100C000 (some 0x6003) = .ok (.shtl ⟨0, ⟨7, false⟩, 10, 4, 16, 12, 3, 0xC00⟩) ∧
  decodeWords 0x3810700080C00000 none = .ok (.shev 8 12) ∧
  decodeWords 0x3C427090A0B00000 none = .ok (.launch 2 9 10 11) ∧
  decodeWords 0x40207000000003A5 none = .ok (.smark 0x3A5)

/-- Decoding the encoding of a well-formed instruction gives it back, whatever follows it, as words and as bytes: no bit
of an encoding is dropped (spec/02 R19 to R23, R25; spec/00 R1). -/
def Obligations.EncodeThenDecode : Prop :=
  ∀ (i : Instr) (ws : List Nat), i.wf = true → encode i = some ws →
    ((∃ w, ws = [w] ∧ w < 2 ^ 64 ∧ ∀ next, decodeWords w next = .ok i) ∨
      (∃ w v, ws = [w, v] ∧ w < 2 ^ 64 ∧ v < 2 ^ 64 ∧ decodeWords w (some v) = .ok i)) ∧
    ∀ bs, decode (ws.flatMap (leBytes 8) ++ bs) = .ok i

/-- A word is accepted only as the encoding of a well-formed instruction: a reserved field that is not zero, a reserved
value and an unassigned class or OP never decode (spec/02 R23, R36, R37). -/
def Obligations.DecodedIsEncoded : Prop :=
  ∀ (w : Nat) (next : Option Nat) (i : Instr), w < 2 ^ 64 → decodeWords w next = .ok i →
    i.wf = true ∧ opAssigned (w / 2 ^ 58 % 64) (w / 2 ^ 52 % 64) = true ∧
    (encode i = some [w] ∨ ∃ v, next = some v ∧ encode i = some [w, v])

/-- A fragment may issue a word when its group is resident, neither halted nor waiting for a fault, its branch and issue
delays are over, its windows are open or their instruction has landed, no late cause is to be taken, no load is to execute again, no
watch is to stop it, no register that the word names is pending, it reads no damaged scalar register, and no decode trap is raised; the
word then executes for the active lanes under its guard, those aside that read a register which an error has damaged (spec/02 R29 to
R31, R38; spec/03 R58, R61, R63; spec/14 R272; spec/18 R336; spec/19 R347). -/
def Obligations.WordIssuesWhenFree : Prop :=
  ∀ (i : Instr) (s : State) (g : Group) (f : Frag),
    s.group? s.cur.k = some g → g.frag s.cur.slot = some f →
    (g.late = [] ∨ g.handler.isSome = true) →
    g.halting = false → g.ended = false → g.replay = none → f.wait = none → f.entering = [] →
    (∀ h, g.handler = some h → f.mask &&& h.mask ≠ 0#32) →
    f.issueAt ≤ (s.core s.cur.k.core).cycle →
    nget 0 (s.core s.cur.k.core).lastIssue (s.cur.k.g % 4) ≤ (s.core s.cur.k.core).cycle →
    (∀ w ∈ f.windows, 0 < w.left ∨ ∀ fl ∈ g.flights, fl.id ≠ w.flight) →
    Instr.decodeTrap i s g f = none →
    (∀ e ∈ g.regReady, e.1 ∈ Instr.waitRegs i → e.2 ≤ (s.core s.cur.k.core).cycle) →
    (∀ fl ∈ g.flights, ∀ d ∈ fl.dests, d ∉ Instr.waitRegs i) →
    Instr.waitFloat i g = false → g.replays f = false → s.watchHolds g = false → g.badWhole i = false →
    ∃ x, prelude i s = .go x ∧ x.s = s ∧ x.k = s.cur.k ∧ x.sl = s.cur.slot ∧ x.f = f.countIssue ∧
      (g.badRegs = [] → x.g = g.setFrag s.cur.slot (some f.countIssue) ∧
        x.act = f.mask &&& g.regs.guard (Instr.guardOf i) &&& f.only.getD allLanes) ∧
      x.g = (g.met i f).setFrag s.cur.slot (some f.countIssue) ∧ x.act = Instr.active i g f ∧
      x.next = f.pc + BitVec.ofNat 64 (8 * Instr.words i)

/-- When one word meets several decode conditions, the first of the order is raised: a misaligned register target, an illegal
word, a register outside the group's, a protected destination of an open window (spec/02 R38, with R23, R24, R31, R34). -/
def Claims.DecodeTrapOrder : Prop :=
  ∀ (i : Instr) (s : State) (g : Group) (f : Frag),
    (∀ t, Instr.regTarget i g.regs f = some t → t &&& 63#64 ≠ 0#64 →
      Instr.decodeTrap i s g f = some { code := 0x01, addr := t }) ∧
    ((∀ t, Instr.regTarget i g.regs f = some t → t &&& 63#64 = 0#64) →
      ((i.wf = false ∨ Instr.illegalHere i s g f = true) → Instr.decodeTrap i s g f = some { code := 0x02 }) ∧
      (i.wf = true → Instr.illegalHere i s g f = false →
        ((∃ n, Reg.v n ∈ Instr.named i ∧ g.nregs ≤ n) → Instr.decodeTrap i s g f = some { code := 0x03 }) ∧
        ((∀ n, Reg.v n ∈ Instr.named i → n < g.nregs) →
          ((∃ w ∈ f.windows, 0 < w.left ∧ ∃ d ∈ w.dests, d ∈ Instr.live i) →
            Instr.decodeTrap i s g f = some { code := 0x04 }) ∧
          ((∀ w ∈ f.windows, 0 < w.left → ∀ d ∈ w.dests, d ∉ Instr.live i) → Instr.decodeTrap i s g f = none))))

/-- Every instruction word takes its late cause, waits, or raises its decode trap before it has any effect of its own (spec/02
R38, spec/03 R61, spec/14 R269); one that reads a damaged scalar register issues and does nothing else, which is the model's choice
(log entry 100). -/
def Claims.TrapsComeBeforeTheWord : Prop :=
  ∀ (i : Instr) (s : State), (encodeRaw i).isSome = true →
    (∀ k sl g f, prelude i s = .late k sl g f → exec i s = .next (s.takeLate k sl g f)) ∧
    (prelude i s = .hold → exec i s = .next s) ∧
    (∀ k sl g f t, prelude i s = .trap k sl g f t → exec i s = .next (s.wordTrap k sl g f t)) ∧
    (∀ x, prelude i s = .lost x → exec i s = .next (x.done (x.step x.g))) ∧
    (prelude i s = .empty → exec i s = .fault .noFragment)

/-- Decode traps are raised in the order of the spec, before a word has any effect of its own. -/
def Obligations.DecodeTraps : Prop :=
  Claims.DecodeTrapOrder ∧ Claims.TrapsComeBeforeTheWord

/-- What a word's issue notes beside its effect, and nothing else: every other table of the state, every register, fragment and
outstanding access stays as its effect left it (spec/03 R62; spec/18 R329, R331). -/
def Obligations.IssueNotesNothingElse : Prop :=
  ∀ (x : Iss) (s : State), Noted s (x.done s)

/-- A step whose turn is the scan of an issue slot runs the instruction that the bytes at the program counter decode to, for
the first fragment in scan order that is free to act: its result is that of exec at the state with that fragment current, but that the
slot counts as scanned in this cycle (spec/02 R24, R28; spec/03 R60 to R62). The fragments before it in scan order do nothing, and no
breakpoint stands at the word (spec/18 R329). That a trap or a late cause uses up the slot's cycle as an issue does is the model's
choice (log entry 97). -/
def Obligations.StepRunsDecodedInstruction : Prop :=
  ∀ (s t : State) (k : CoreKey) (n : Nat) (ts : List Turn) (before after : List FragRef) (r : FragRef) (g : Group) (f : Frag)
    (ws : List DWord) (i : Instr),
    s.agenda = .slot k n :: ts → (s.core k).scanned = n →
    State.positions { s with agenda := ts } k n = before ++ r :: after →
    (∀ q ∈ before, State.tryIssue exec { s with agenda := ts } q = .next { s with agenda := ts }) →
    s.group? r.k = some g → g.frag r.slot = some f →
    s.takesLate r.k r.slot g f (some (Instr.waitRegs i)) = false →
    s.heldFrag r.k r.slot g f = false →
    s.block? r.k.core g.key.ctx f.pc = some ws → decodeAt ws f.pc = .ok i →
    s.bpMatch g.key f.pc false = false → s.bpMatch g.key f.pc true = false →
    exec i { s with agenda := ts, cur := r } = .next t →
    State.acted { s with agenda := ts } t r = true →
    step s = .next (t.modCore k (fun c => { c with scanned := n + 1 }))

/-- Taking a trap: with nothing outstanding and outside handler mode, HSTAT, HPC, HMASK, HADDR and HAPC are written, the entry
state is kept, and the fragment goes to the handler entry at depth 0 with token 0, to issue from 4 cycles on; of the other fragment,
windows that it inherited from lock and queue requests close; no general register changes (spec/14 R263, R265; spec/02 R32, R38). -/
def Claims.TrapEntersHandler : Prop :=
  ∀ (s : State) (k : GKey) (sl : Slot) (g : Group) (f : Frag) (t : TrapInfo) (c : Context),
    s.settled g f.mask = true → (s.core k.core).eyeletIn k.g f.mask = false → g.handler = none → t.log = none →
    s.ctx? g.key = some c → t.code < 256 →
    ∃ g', (s.takeTrap k sl g f t).group? k = some g' ∧
      g'.sr.hstat.toNat % 256 = t.code ∧ g'.sr.hstat.getLsbD 8 = false ∧
      g'.sr.hstat.toNat / 2 ^ 10 % 2 ^ 32 = (t.lanes.getD f.mask).toNat ∧
      g'.sr.hpc = t.hpc.getD f.pc ∧ g'.sr.hmask = f.mask.setWidth 64 ∧ g'.sr.haddr = t.addr ∧ g'.sr.hapc = 0 ∧
      g'.handler = some ⟨sl, f.tok, f.rj, f.depth, f.mask⟩ ∧
      (∃ f', g'.frag sl = some f' ∧ f'.pc = c.p.handler ∧ f'.mask = f.mask ∧ f'.tok = 0 ∧ f'.rj = 0 ∧ f'.depth = 0 ∧
        f'.windows = [] ∧ f'.issueAt = (s.core k.core).cycle + 4) ∧
      g'.frag (Slot.other sl) = (g.frag (Slot.other sl)).map (g.closeStays f.mask) ∧
      ((g.frag (Slot.other sl)).bind Frag.goneLate = none → g'.late = g.late) ∧ g'.regs = g.regs ∧ g'.stack = g.stack ∧ g'.sb = g.sb ∧
      g'.flights = g.flights

/-- A trap waits until what the fragment has outstanding has landed or failed, but for a lock request in a bobbin queue and a qpop on an
empty queue: until then nothing changes (spec/02 R32, spec/14 R265). -/
def Claims.TrapWaitsForOutstanding : Prop :=
  ∀ (s : State) (k : GKey) (sl : Slot) (g : Group) (f : Frag) (t : TrapInfo),
    (∃ fl ∈ g.flights, fl.mask &&& f.mask ≠ 0#32 ∧ fl.dests ≠ [] ∧ s.stays g fl = false) → s.takeTrap k sl g f t = s

/-- A trap in handler mode escalates: the context is halted, every group of the context on the module is marked as halting, and
the first such trap leaves the context's fault record with the cause and the trap registers (spec/14 R268). -/
def Claims.TrapInHandlerEscalates : Prop :=
  ∀ (s : State) (k : GKey) (sl : Slot) (g : Group) (f : Frag) (t : TrapInfo) (c : Context),
    s.settled g f.mask = true → (s.core k.core).eyeletIn k.g f.mask = false → g.handler.isSome = true → t.log = none →
    s.ctx? g.key = some c →
    ∃ c', (s.takeTrap k sl g f t).ctx? g.key = some c' ∧ c'.halted = true ∧
      (c.fault = none → ∃ r, c'.fault = some r ∧ r.cause = t.code ∧ r.pc = f.pc ∧ r.hstat = g.sr.hstat ∧ r.hpc = g.sr.hpc ∧
        r.haddr = g.sr.haddr ∧ r.gidx = g.gidx) ∧
      (∀ r, c.fault = some r → c'.fault = some r) ∧
      ∀ j h, s.group? j = some h → h.key = g.key →
        (s.takeTrap k sl g f t).group? j = some { h with halting := true }

/-- Taking a trap: what is saved, where the fragment goes, when it waits, and when it escalates. -/
def Obligations.TrapEntry : Prop :=
  Claims.TrapEntersHandler ∧ Claims.TrapWaitsForOutstanding ∧ Claims.TrapInHandlerEscalates

/-- Taking a late cause: of several pending causes the one with the lowest code is taken, at an instruction boundary: HPC is the
PC of the next word, HAPC that of the instruction, and the others stay pending (spec/14 R263, R265, R269). -/
def Claims.LateTrapTakesLowestCode : Prop :=
  ∀ (s : State) (g : Group) (f : Frag) (l : Late) (c : Context),
    s.group? s.cur.k = some g → g.frag s.cur.slot = some f → g.handler = none → g.halting = false → g.replay = none →
    g.ended = false → s.early s.cur.k f = false → (g.taker = none ∨ g.taker = some s.cur.slot) → s.settled g f.mask = true →
      (s.core s.cur.k.core).eyeletIn s.cur.k.g f.mask = false →
    s.ctx? g.key = some c → l ∈ g.late → (∀ m ∈ g.late, m ≠ l → l.code < m.code) → l.code < 256 → l.lanes ≠ 0#32 →
    ∃ t g', exec .lateTrapTake s = .next t ∧ t.group? s.cur.k = some g' ∧
      g'.sr.hstat.toNat % 256 = l.code ∧ g'.sr.hstat.getLsbD 8 = true ∧
      g'.sr.hstat.toNat / 2 ^ 10 % 2 ^ 32 = l.lanes.toNat ∧
      g'.sr.hpc = f.pc ∧ g'.sr.hmask = f.mask.setWidth 64 ∧ g'.sr.haddr = l.addr ∧ g'.sr.hapc = l.pc ∧
      g'.handler = some ⟨s.cur.slot, f.tok, f.rj, f.depth, f.mask⟩ ∧
      (∃ f', g'.frag s.cur.slot = some f' ∧ f'.pc = c.p.handler ∧ f'.tok = 0 ∧ f'.depth = 0) ∧
      (∀ m ∈ g.late, m.code ≠ l.code → m ∈ g'.late) ∧ (∀ m ∈ g'.late, m.code = l.code → m.code = 0x07) ∧
      ((g.frag (Slot.other s.cur.slot)).bind Frag.goneLate = none → g'.late = g.late.filter (fun m => m.code ≠ l.code)) ∧
      g'.regs = g.regs

/-- The timers of a group: a compare that has fired makes code 0x1A pending, a deadline that has passed makes code 0x1B pending and
is cleared; otherwise nothing changes (spec/14 R262, R263, R276). -/
def Claims.GroupTimers : Prop :=
  ∀ (s : State) (k : GKey) (g : Group), s.group? k = some g →
    (g.gtHit = true → exec (.gtimerMatch k) s = .next (s.setGroup k (Group.pend { g with gtHit := false } ⟨0x1A, 0, 0, 0, 0⟩))) ∧
    (g.gtHit = false → exec (.gtimerMatch k) s = .next s) ∧
    (g.sr.wdead ≠ 0#64 → passed (s.wall k.m) g.sr.wdead.toNat = true →
      exec (.deadline k) s = .next (s.setGroup k (Group.pend { g with sr := { g.sr with wdead := 0 } } ⟨0x1B, 0, 0, 0, 0⟩))) ∧
    (g.sr.wdead = 0#64 ∨ passed (s.wall k.m) g.sr.wdead.toNat = false → exec (.deadline k) s = .next s)

/-- Late causes become pending and the one of the lowest code is taken. -/
def Obligations.LateTraps : Prop :=
  Claims.LateTrapTakesLowestCode ∧ Claims.GroupTimers

/-- Fetching: where the block of the fragment's next word is not yet fetched and its address translates, the block's eight words
enter the core's instruction cache (spec/02 R24, R28); that they are those that memory then holds, where R27 leaves older bytes open, is
the model's choice (log entry 86). -/
def Claims.FetchFillsTheBlock : Prop :=
  ∀ (s : State) (g : Group) (f : Frag) (pa : Nat) (leaf : Nat),
    s.todo s.cur = .fetch → s.group? s.cur.k = some g → g.frag s.cur.slot = some f →
    s.xlat g.key (blockOf f.pc) .fetch = .ok pa leaf → s.damagedAt pa 64 = false →
    ∃ t, exec .instructionFetch s = .next t ∧
      t.block? s.cur.k.core g.key.ctx f.pc =
        some ((List.range 8).map (fun n => BitVec.ofNat 64 (mnat s.mem (pa + 8 * n) 8))) ∧
      t.groups = s.groups ∧ t.mem = s.mem

/-- A word whose CLASS and OP are not assigned or whose fields are illegal traps with code 0x02 at decode; a misaligned target in
the register that its CLASS and OP name comes first (spec/02 R23, R37, R38). -/
def Claims.IllegalWordTraps : Prop :=
  ∀ (s : State) (g : Group) (f : Frag) (ws : List DWord),
    s.todo s.cur = .illegal → s.group? s.cur.k = some g → g.frag s.cur.slot = some f →
    s.block? s.cur.k.core g.key.ctx f.pc = some ws →
    (∀ e, decodeAt ws f.pc ≠ .ok e) ∧
    ((∀ i t, looseInstr ws f.pc = some i → Instr.regTarget i g.regs f = some t → t &&& 63#64 = 0#64 ∧
        g.interlocked (Instr.live i) (s.core s.cur.k.core).cycle = false) → g.lateFirst = false →
      exec .illegalInstruction s = .next (s.wordTrap s.cur.k s.cur.slot g f { code := 0x02 })) ∧
    (∀ i t, looseInstr ws f.pc = some i → Instr.regTarget i g.regs f = some t → t &&& 63#64 ≠ 0#64 →
      g.interlocked (Instr.live i) (s.core s.cur.k.core).cycle = false → g.lateFirst = false →
      exec .illegalInstruction s = .next (s.wordTrap s.cur.k s.cur.slot g f { code := 0x01, addr := t }))

/-- A fetch fills the block as memory holds it, and an unassigned or illegal word traps with code 0x02. -/
def Obligations.FetchAndIllegalWords : Prop :=
  Claims.FetchFillsTheBlock ∧ Claims.IllegalWordTraps

/-- Reset: what the spec says of a module after reset: outside a job with pod number 0 and ready, its LPDDR
memory wiped, its lock tables, caches and queues empty, no context, and nothing outstanding (spec/01 R8; spec/19 R346, R348); the
bytes of FBBASE are those of log entry 5, and that the CXL tier, whose contents R346 leaves as they were, reads 0 is the model's choice
(log entry 4). -/
def Claims.ResetModule : Prop :=
  (∀ a, a < 0x017FFFFE0002 ∨ 0x017FFFFE0005 < a → mread State.reset.mem a = 0#8) ∧
  (∃ m, tget State.reset.mods 0 = some m ∧ m.inJob = false ∧ m.ready = true ∧ m.lost = false ∧ m.lostDies = [] ∧
    m.records = [] ∧ m.moved = [] ∧ m.events = [] ∧ m.errs.corrected = [] ∧ m.errs.uncorrectable = []) ∧
  State.reset.ctxs = [] ∧ State.reset.groups = [] ∧ State.reset.lines = [] ∧ State.reset.copies = [] ∧
  State.reset.reqs = [] ∧ (∀ n, mread State.reset.scratch n = 0#8 ∧ mread State.reset.pks n = 0#8 ∧ mread State.reset.lpm n = 0#8)

/-- After reset every memory of the state is in its canonical form: addresses strictly rising, no byte equal to what an unlisted byte
reads as. -/
def Claims.ResetMemoriesCanonical : Prop := State.reset.memOk = true

/-- What the spec says of a module after reset, and the canonical form of its memories. -/
def Obligations.ResetState : Prop :=
  Claims.ResetModule ∧ Claims.ResetMemoriesCanonical

/-- The operations of R71 for every TYPE, as operations on bit vectors of its width w: sums and products wrap, or are clamped to the range
of TYPE where SAT is set; sources are read signed or unsigned by TYPE where the operation's sign matters; a shift amount of w or more
shifts everything out; bfe and bfi act on the field that b names, sext and zext on the low n bits (spec/05 R71). -/
def Obligations.IntegerOperations : Prop :=
  ∀ (ty : IntTy) (a b c : BitVec (IntTy.w ty)) (n : Nat),
    let w := IntTy.w ty
    let v (x : BitVec (IntTy.w ty)) : Int := if ty.signed then x.toInt else x.toNat
    let clamp (x : Int) : Nat := (BitVec.ofInt (IntTy.w ty) (max (IntTy.lo ty) (min (IntTy.hi ty) x))).toNat
    let r (o : IOp) (sat : Bool) : Nat := o.eval ty sat a.toNat b.toNat c.toNat n
    (r .add false = (a + b).toNat ∧ r .sub false = (a - b).toNat ∧ r .mulLo false = (a * b).toNat ∧ r .mad false = (a * b + c).toNat) ∧
    (r .add true = clamp (v a + v b) ∧ r .sub true = clamp (v a - v b) ∧ r .mad true = clamp (v a * v b + v c)) ∧
    r .mulHi false = (BitVec.ofInt (IntTy.w ty) (v a * v b / 2 ^ w)).toNat ∧
    (r .min false = (if v a < v b then a else b).toNat ∧ r .max false = (if v a < v b then b else a).toNat) ∧
    (ty.signed = true → r .abs false = a.toInt.natAbs ∧ r .abs true = min a.toInt.natAbs (2 ^ (w - 1) - 1)) ∧
    (r .and false = (a &&& b).toNat ∧ r .or false = (a ||| b).toNat ∧ r .xor false = (a ^^^ b).toNat ∧
      r .andn false = (a &&& ~~~b).toNat ∧ r .not false = (~~~a).toNat ∧ r .mov false = a.toNat) ∧
    (r .shl false = (a <<< b.toNat).toNat ∧ r .shr false = (a >>> b.toNat).toNat ∧ r .sar false = (a.sshiftRight b.toNat).toNat ∧
      r .rot false = (a.rotateLeft b.toNat).toNat) ∧
    r .popc false = ((List.range w).filter (fun i => a.getLsbD i)).length ∧
    (a ≠ 0 → r .clz false = w - 1 - Nat.log2 a.toNat) ∧ (a = 0 → r .clz false = w ∧ r .ctz false = w) ∧
    (∀ k, k < w → a.getLsbD k = true → (∀ j, j < k → a.getLsbD j = false) → r .ctz false = k) ∧
    (∀ i, i < w → (r .brev false).testBit i = a.getLsbD (w - 1 - i)) ∧
    (n + 1 < w → r .sext false = ((a.setWidth (n + 1)).signExtend w).toNat ∧ r .zext false = a.toNat % 2 ^ (n + 1)) ∧
    (w ≤ n + 1 → r .sext false = a.toNat ∧ r .zext false = a.toNat) ∧
    (∀ pos len, pos = b.toNat % 256 → len = min (b.toNat / 256 % 256) (w - pos) →
      (w ≤ pos ∨ b.toNat / 256 % 256 = 0 → r .bfe false = 0 ∧ r .bfi false = c.toNat) ∧
      (pos < w → b.toNat / 256 % 256 ≠ 0 →
        r .bfe false = (if ty.signed then ((a >>> pos).setWidth len).signExtend w else ((a >>> pos).setWidth len).setWidth w).toNat ∧
        ∀ i, i < w → (r .bfi false).testBit i = if pos ≤ i ∧ i < pos + len then a.getLsbD (i - pos) else c.getLsbD i))

/-- A scalar operation of R71 reads sA, sB and sC at its type's width and writes sD, which a write of s0 leaves 0; the result is
readable 4 cycles on, the fragment goes on to the next word, and nothing else changes but what the issue notes (spec/02 R33;
spec/03 R63; spec/05 R69 to R71). -/
def Claims.ScalarIntegerResults : Prop :=
  ∀ p ∈ scalarOps, ∀ (f : SInt) (s : State) (x : Iss), prelude (p.2 f) s = .go x →
    exec (p.2 f) s = .next (x.done (x.short (Instr.dests (p.2 f)) (x.g.regs.wrS f.d.val
      (scalarResult f.ty (p.1.eval f.ty f.sat ((x.g.regs.rdS f.a.val).toNat % 2 ^ IntTy.w f.ty)
        ((x.g.regs.rdS f.b.val).toNat % 2 ^ IntTy.w f.ty) ((x.g.regs.rdS f.c.val).toNat % 2 ^ IntTy.w f.ty) f.n.val)))))

/-- The other scalar words: scmp and scmp with an immediate write the group predicate of their condition, ssel takes sA or sB by
a group predicate, smovw and smov write an immediate, slea a scaled sum, and the operations with an immediate act at 64 bits (spec/05
R71 to R75). -/
def Claims.ScalarOtherResults : Prop :=
  (∀ (f : SCmpF) (s : State) (x : Iss), prelude (.scmp f) s = .go x →
    exec (.scmp f) s = .next (x.done (x.short (Instr.dests (.scmp f)) (x.g.regs.wrQ f.q.val
      (ICond.eval f.cond (if f.w64 then 64 else 32) ((x.g.regs.rdS f.a.val).toNat % 2 ^ (if f.w64 then 64 else 32))
        ((x.g.regs.rdS f.b.val).toNat % 2 ^ (if f.w64 then 64 else 32))))))) ∧
  (∀ (f : SCmpImmF) (s : State) (x : Iss), prelude (.scmpImm f) s = .go x →
    exec (.scmpImm f) s = .next (x.done (x.short (Instr.dests (.scmpImm f)) (x.g.regs.wrQ f.q.val
      (ICond.eval f.cond (if f.w64 then 64 else 32) ((x.g.regs.rdS f.a.val).toNat % 2 ^ (if f.w64 then 64 else 32))
        (imm28 (if f.w64 then 64 else 32) f.imm)))))) ∧
  (∀ (f : SSelF) (s : State) (x : Iss), prelude (.ssel f) s = .go x →
    exec (.ssel f) s = .next (x.done (x.short (Instr.dests (.ssel f)) (x.g.regs.wrS f.d.val (scalarResult f.ty
      ((if x.g.regs.rdQ f.q.val then x.g.regs.rdS f.a.val else x.g.regs.rdS f.b.val).toNat % 2 ^ IntTy.w f.ty)))))) ∧
  (∀ (f : SMovwF) (s : State) (x : Iss), prelude (.smovw f) s = .go x →
    exec (.smovw f) s = .next (x.done (x.short (Instr.dests (.smovw f)) (x.g.regs.wrS f.d.val
      (scalarResult f.ty (f.imm.toNat % 2 ^ IntTy.w f.ty)))))) ∧
  (∀ (f : SInt) (s : State) (x : Iss), prelude (.slea f) s = .go x →
    exec (.slea f) s = .next (x.done (x.short (Instr.dests (.slea f)) (x.g.regs.wrS f.d.val (BitVec.ofInt 64
      ((x.g.regs.rdS f.a.val).toNat + readAs (IntTy.w f.ty) f.ty.signed ((x.g.regs.rdS f.b.val).toNat % 2 ^ IntTy.w f.ty) *
        2 ^ f.n.val)))))) ∧
  (∀ (f : SImmF) (s : State) (x : Iss), prelude (.smovImm f) s = .go x →
    exec (.smovImm f) s = .next (x.done (x.short (Instr.dests (.smovImm f))
      (x.g.regs.wrS f.d.val (f.imm.signExtend 64))))) ∧
  (∀ p ∈ scalarImmOps, ∀ (f : SImmF) (s : State) (x : Iss), prelude (p.2 f) s = .go x →
    exec (p.2 f) s = .next (x.done (x.short (Instr.dests (p.2 f)) (x.g.regs.wrS f.d.val
      (BitVec.ofNat 64 (p.1.eval .i64 false (x.g.regs.rdS f.a.val).toNat (imm28 64 f.imm) 0 0))))))

/-- Every scalar integer word: its result, its timing and its frame. -/
def Obligations.ScalarResults : Prop :=
  Claims.ScalarIntegerResults ∧ Claims.ScalarOtherResults

/-- A vector operation of R71 acts on each active lane alone: an active lane's destination takes the result of that lane's
sources as they were at issue, B from a vector or a scalar register; an inactive lane, every other vector register, every scalar
register and every predicate keep their values (spec/02 R29, R33; spec/05 R69 to R71). -/
def Claims.VectorIntegerResults : Prop :=
  ∀ p ∈ vectorOps, ∀ (f : VInt) (s : State) (x : Iss), prelude (p.2 f) s = .go x →
    ∃ r : Regs, exec (p.2 f) s = .next (x.done (x.short (Instr.dests (p.2 f)) r)) ∧
      r.s = x.g.regs.s ∧ r.p = x.g.regs.p ∧ r.q = x.g.regs.q ∧
      (∀ l, l < 32 → x.act.getLsbD l = true →
        r.rdW f.ty.wide f.d.val l = p.1.eval f.ty f.sat (x.g.regs.rdW f.ty.wide f.a.val l)
          (x.g.regs.srcB f.sb f.ty.wide f.b.val l) (x.g.regs.rdW f.ty.wide f.c.val l) f.n.val) ∧
      (∀ l, l < 32 → x.act.getLsbD l = false → ∀ n, r.rdV n l = x.g.regs.rdV n l) ∧
      ∀ l n, l < 32 → n ≠ f.d.val → (f.ty.wide = true → n ≠ f.d.val + 1) → r.rdV n l = x.g.regs.rdV n l

/-- The other vector words, lane by lane: vcmp sets one predicate bit per active lane, vsel takes A or B by the lane's predicate
bit, vmovw and vmov write an immediate, vlea a scaled 64-bit sum, and the operations with an immediate act at 32 bits; inactive
lanes and every other register keep their values (spec/02 R29; spec/05 R71 to R75). -/
def Claims.VectorOtherResults : Prop :=
  (∀ (f : VCmpF) (s : State) (x : Iss), prelude (.vcmp f) s = .go x →
    ∃ r : Regs, exec (.vcmp f) s = .next (x.done (x.short (Instr.dests (.vcmp f)) r)) ∧
      r.v = x.g.regs.v ∧ r.s = x.g.regs.s ∧ r.q = x.g.regs.q ∧
      ∀ l n, l < 32 → (r.rdP n).getLsbD l = if n = f.p.val ∧ n ≠ 7 ∧ x.act.getLsbD l = true then
        ICond.eval f.cond (if f.w64 then 64 else 32) (x.g.regs.rdW f.w64 f.a.val l) (x.g.regs.srcB f.sb f.w64 f.b.val l)
        else (x.g.regs.rdP n).getLsbD l) ∧
  (∀ (f : VCmpImmF) (s : State) (x : Iss), prelude (.vcmpImm f) s = .go x →
    ∃ r : Regs, exec (.vcmpImm f) s = .next (x.done (x.short (Instr.dests (.vcmpImm f)) r)) ∧
      r.v = x.g.regs.v ∧ r.s = x.g.regs.s ∧ r.q = x.g.regs.q ∧
      ∀ l n, l < 32 → (r.rdP n).getLsbD l = if n = f.p.val ∧ n ≠ 7 ∧ x.act.getLsbD l = true then
        ICond.eval f.cond (if f.w64 then 64 else 32) (x.g.regs.rdW f.w64 f.a.val l) (imm28 (if f.w64 then 64 else 32) f.imm)
        else (x.g.regs.rdP n).getLsbD l) ∧
  (∀ (f : VSelF) (s : State) (x : Iss), prelude (.vsel f) s = .go x →
    ∃ r : Regs, exec (.vsel f) s = .next (x.done (x.short (Instr.dests (.vsel f)) r)) ∧
      r.s = x.g.regs.s ∧ r.p = x.g.regs.p ∧ r.q = x.g.regs.q ∧
      (∀ l n, l < 32 → n ≠ f.d.val → (f.ty.wide = true → n ≠ f.d.val + 1) → r.rdV n l = x.g.regs.rdV n l) ∧
      ∀ l, l < 32 → r.rdW f.ty.wide f.d.val l = if x.act.getLsbD l = true then
        (if (x.g.regs.rdP f.p.val).getLsbD l then x.g.regs.rdW f.ty.wide f.a.val l
          else x.g.regs.srcB f.sb f.ty.wide f.b.val l) else x.g.regs.rdW f.ty.wide f.d.val l) ∧
  (∀ (f : VMovwF) (s : State) (x : Iss), prelude (.vmovw f) s = .go x →
    ∃ r : Regs, exec (.vmovw f) s = .next (x.done (x.short (Instr.dests (.vmovw f)) r)) ∧
      r.s = x.g.regs.s ∧ r.p = x.g.regs.p ∧ r.q = x.g.regs.q ∧
      (∀ l n, l < 32 → n ≠ f.d.val → (f.ty.wide = true → n ≠ f.d.val + 1) → r.rdV n l = x.g.regs.rdV n l) ∧
      ∀ l, l < 32 → r.rdW f.ty.wide f.d.val l =
        if x.act.getLsbD l = true then f.imm.toNat % 2 ^ IntTy.w f.ty else x.g.regs.rdW f.ty.wide f.d.val l) ∧
  (∀ (f : VInt) (s : State) (x : Iss), prelude (.vlea f) s = .go x →
    ∃ r : Regs, exec (.vlea f) s = .next (x.done (x.short (Instr.dests (.vlea f)) r)) ∧
      r.s = x.g.regs.s ∧ r.p = x.g.regs.p ∧ r.q = x.g.regs.q ∧
      (∀ l n, l < 32 → n ≠ f.d.val → n ≠ f.d.val + 1 → r.rdV n l = x.g.regs.rdV n l) ∧
      ∀ l, l < 32 → r.rdV64 f.d.val l = if x.act.getLsbD l = true then
        BitVec.ofInt 64 ((x.g.regs.rdV64 f.a.val l).toNat +
          readAs (IntTy.w f.ty) f.ty.signed (x.g.regs.srcB f.sb f.ty.wide f.b.val l) * 2 ^ f.n.val)
        else x.g.regs.rdV64 f.d.val l) ∧
  (∀ (f : VImmF) (s : State) (x : Iss), prelude (.vmovImm f) s = .go x →
    ∃ r : Regs, exec (.vmovImm f) s = .next (x.done (x.short (Instr.dests (.vmovImm f)) r)) ∧
      r.s = x.g.regs.s ∧ r.p = x.g.regs.p ∧ r.q = x.g.regs.q ∧
      ∀ l n, l < 32 → r.rdV n l =
        if n = f.d.val ∧ x.act.getLsbD l = true then f.imm.signExtend 32 else x.g.regs.rdV n l) ∧
  (∀ p ∈ vectorImmOps, ∀ (f : VImmF) (s : State) (x : Iss), prelude (p.2 f) s = .go x →
    ∃ r : Regs, exec (p.2 f) s = .next (x.done (x.short (Instr.dests (p.2 f)) r)) ∧
      r.s = x.g.regs.s ∧ r.p = x.g.regs.p ∧ r.q = x.g.regs.q ∧
      ∀ l n, l < 32 → r.rdV n l = if n = f.d.val ∧ x.act.getLsbD l = true then
        BitVec.ofNat 32 (p.1.eval .i32 false (x.g.regs.rdV f.a.val l).toNat (imm28 32 f.imm) 0 0)
        else x.g.regs.rdV n l)

/-- Every vector integer word: the active lanes take their results, everything else stays. -/
def Obligations.VectorResults : Prop :=
  Claims.VectorIntegerResults ∧ Claims.VectorOtherResults

/-- The lane exchanges: a shuffle gives each active lane the value of its source lane when that lane is in its segment and
active, and its own value otherwise, with the validity in PV; a vote gives each active lane the any or the all of its segment; vote.bal,
redux and vtos give one scalar, stov gives every active lane the scalar; what lands 8 cycles after issue changes nothing else
(spec/05 R78 to R83). -/
def Obligations.LaneExchangeResults : Prop :=
  (∀ (mk : ShflF → Instr) (src : Regs → ShflF → Nat → Option Nat),
    (mk, src) ∈ [(Instr.shflIdx, fun (r : Regs) (f : ShflF) l =>
        if r.srcB f.sb false f.b.val l < Seg.size f.seg then some (l / Seg.size f.seg * Seg.size f.seg + r.srcB f.sb false f.b.val l)
        else none),
      (.shflUp, fun _ f l => if f.k.val ≤ l then some (l - f.k.val) else none),
      (.shflDn, fun _ f l => some (l + f.k.val)), (.shflXor, fun _ f l => some (l ^^^ f.k.val))] →
    ∀ (f : ShflF) (s : State) (x : Iss), prelude (mk f) s = .go x →
    ∃ ws, exec (mk f) s = .next (x.done (x.later 4 f.la.val (Instr.dests (mk f)) 8 ws 0#5)) ∧
      ∀ (r : Regs) l, l < 32 →
        ((r.apply ws).s = r.s ∧ (r.apply ws).q = r.q) ∧
        (∀ n, n ≠ f.d.val → (f.w64 = true → n ≠ f.d.val + 1) → (r.apply ws).rdV n l = r.rdV n l) ∧
        (∀ n, n ≠ f.pv.val → (r.apply ws).rdP n = r.rdP n) ∧
        (x.act.getLsbD l = false → ∀ n, (r.apply ws).rdV n l = r.rdV n l ∧ ((r.apply ws).rdP n).getLsbD l = (r.rdP n).getLsbD l) ∧
        (x.act.getLsbD l = true → ∀ j, src x.g.regs f l = some j →
          j < 32 ∧ j / Seg.size f.seg = l / Seg.size f.seg ∧ x.act.getLsbD j = true →
          (r.apply ws).rdW f.w64 f.d.val l = x.g.regs.rdW f.w64 f.a.val j ∧
          (f.pv.val ≠ 7 → ((r.apply ws).rdP f.pv.val).getLsbD l = true)) ∧
        (x.act.getLsbD l = true →
          (∀ j, src x.g.regs f l = some j → ¬ (j < 32 ∧ j / Seg.size f.seg = l / Seg.size f.seg ∧ x.act.getLsbD j = true)) →
          (r.apply ws).rdW f.w64 f.d.val l = x.g.regs.rdW f.w64 f.a.val l ∧
          (f.pv.val ≠ 7 → ((r.apply ws).rdP f.pv.val).getLsbD l = false))) ∧
  (∀ (f : VoteF) (s : State) (x : Iss) (all : Bool),
    prelude (if all then .voteAll f else .voteAny f) s = .go x →
    ∃ ws, exec (if all then .voteAll f else .voteAny f) s =
        .next (x.done (x.later 4 f.la.val (Instr.dests (.voteAny f)) 8 ws 0#5)) ∧
      ∀ (r : Regs) l n, l < 32 → ((r.apply ws).s = r.s ∧ (r.apply ws).q = r.q ∧ (r.apply ws).v = r.v) ∧
        (¬ (n = f.d.val ∧ n ≠ 7 ∧ x.act.getLsbD l = true) → ((r.apply ws).rdP n).getLsbD l = (r.rdP n).getLsbD l) ∧
        (n = f.d.val → n ≠ 7 → x.act.getLsbD l = true → (((r.apply ws).rdP n).getLsbD l = true ↔
          if all then ∀ j, j < 32 → j / Seg.size f.seg = l / Seg.size f.seg → x.act.getLsbD j = true →
            (x.g.regs.rdP f.a.val).getLsbD j = true
          else ∃ j, j < 32 ∧ j / Seg.size f.seg = l / Seg.size f.seg ∧ x.act.getLsbD j = true ∧
            (x.g.regs.rdP f.a.val).getLsbD j = true))) ∧
  (∀ (f : BalF) (s : State) (x : Iss), prelude (.voteBal f) s = .go x →
    exec (.voteBal f) s = .next (x.done (x.later 4 f.la.val (Instr.dests (.voteBal f)) 8
      [.s f.d.val ((x.act &&& x.g.regs.rdP f.a.val).setWidth 64)] 0#5))) ∧
  (∀ (f : ReduxF) (s : State) (x : Iss), prelude (.redux f) s = .go x →
    ∃ d, exec (.redux f) s = .next (x.done (x.later 4 f.la.val (Instr.dests (.redux f)) 8 [.s f.d.val d] 0#5)) ∧
      (f.op = .add → d.toNat = ((lanesOf x.act).map (fun l => x.g.regs.rdW f.w64 f.a.val l)).sum % 2 ^ (if f.w64 then 64 else 32)) ∧
      (∀ l ∈ lanesOf x.act,
        (f.op = .maxU → x.g.regs.rdW f.w64 f.a.val l ≤ d.toNat) ∧ (f.op = .minU → d.toNat ≤ x.g.regs.rdW f.w64 f.a.val l) ∧
        (f.op = .maxI → toSigned (if f.w64 then 64 else 32) (x.g.regs.rdW f.w64 f.a.val l) ≤ d.toInt) ∧
        (f.op = .minI → d.toInt ≤ toSigned (if f.w64 then 64 else 32) (x.g.regs.rdW f.w64 f.a.val l))) ∧
      (x.act ≠ 0#32 → (f.op = .maxU ∨ f.op = .minU) → ∃ l ∈ lanesOf x.act, d.toNat = x.g.regs.rdW f.w64 f.a.val l) ∧
      (x.act ≠ 0#32 → (f.op = .maxI ∨ f.op = .minI) →
        ∃ l ∈ lanesOf x.act, d.toInt = toSigned (if f.w64 then 64 else 32) (x.g.regs.rdW f.w64 f.a.val l)) ∧
      (∀ b, (f.op = .and → (d.getLsbD b = true ↔ b < (if f.w64 then 64 else 32) ∧
          ∀ l ∈ lanesOf x.act, (x.g.regs.rdW f.w64 f.a.val l).testBit b = true)) ∧
        (f.op = .or → (d.getLsbD b = true ↔ ∃ l ∈ lanesOf x.act, (x.g.regs.rdW f.w64 f.a.val l).testBit b = true)) ∧
        (f.op = .xor → (d.getLsbD b = true ↔
          ((lanesOf x.act).filter (fun l => (x.g.regs.rdW f.w64 f.a.val l).testBit b)).length % 2 = 1))) ∧
      (x.act = 0#32 → d = (match f.op with
        | .add | .maxU | .or | .xor => 0#64
        | .minI => if f.w64 then 0x7FFFFFFFFFFFFFFF#64 else 0x7FFFFFFF#64
        | .maxI => if f.w64 then 0x8000000000000000#64 else 0xFFFFFFFF80000000#64
        | .minU | .and => if f.w64 then 0xFFFFFFFFFFFFFFFF#64 else 0xFFFFFFFF#64))) ∧
  (∀ (f : VtosF) (s : State) (x : Iss), prelude (.vtos f) s = .go x →
    ∃ d, exec (.vtos f) s = .next (x.done (x.later 4 f.la.val (Instr.dests (.vtos f)) 8 [.s f.d.val d] 0#5)) ∧
      (∀ l, (if f.fa then (lanesOf x.act).head? = some l else l = f.k.val ∧ x.act.getLsbD l = true) →
        d.toNat = x.g.regs.rdW f.w64 f.a.val l) ∧
      ((if f.fa then x.act = 0#32 else x.act.getLsbD f.k.val = false) → d = 0#64)) ∧
  (∀ (f : StovF) (s : State) (x : Iss), prelude (.stov f) s = .go x →
    ∃ ws, exec (.stov f) s = .next (x.done (x.later 4 f.la.val (Instr.dests (.stov f)) 8 ws 0#5)) ∧
      ∀ (r : Regs) l, l < 32 → ((r.apply ws).s = r.s ∧ (r.apply ws).q = r.q ∧ (r.apply ws).p = r.p) ∧
        (∀ n, n ≠ f.d.val → (f.w64 = true → n ≠ f.d.val + 1) → (r.apply ws).rdV n l = r.rdV n l) ∧
        (r.apply ws).rdW f.w64 f.d.val l = if x.act.getLsbD l = true then
        (x.g.regs.rdS f.a.val).toNat % 2 ^ (if f.w64 then 64 else 32) else r.rdW f.w64 f.d.val l)

/-- The roundings that the spec works out (spec/06 R93, R94, table Worked roundings). -/
def Claims.WorkedRoundings : Prop :=
  (roundTo (Fmt.f32.val 0x3F808000) .bf16 .rne false 0).1 = 0x3F80 ∧
  (roundTo (Fmt.f32.val 0x3F808000) .bf16 .rup false 0).1 = 0x3F81 ∧
  (roundTo (Fmt.f32.val 0x3E99999A) (.b8 false true 3) .rne false 0).1 = 0x32 ∧
  (roundTo (Fmt.f32.val 0x3E99999A) (.b8 false true 3) .rtz false 0).1 = 0x31 ∧
  (roundTo (Val.ofInt 230) (.b8 false true 3) .rne false 0).1 = 0x7E ∧
  (roundTo (Val.ofInt 235) (.b8 false true 3) .rne false 0).1 = 0x7F ∧
  (roundTo (Val.ofInt 235) (.b8 false true 3) .rne true 0).1 = 0x7E ∧
  (roundTo (Val.ofInt 300) (.b8 false false 3) .rne false 0).1 = 0x80 ∧
  (roundTo (Val.ofInt 300) (.b8 false false 3) .rne true 0).1 = 0x7F ∧
  (roundTo (.fin true 1 (-1) false) (.b8 true true 3) .rne false 0).1 = 0xFF ∧
  (roundTo (Val.ofInt 500) .e4m3 .rne false 0).1 = 0x7F ∧
  (roundTo (Val.ofInt 500) .e4m3 .rne true 0).1 = 0x7E ∧
  (roundTo (Fmt.f32.val 0x3E99999A) (.b8 false true 3) .sr false (lfsr 0x12345678#32 0).1).1 = 0x32 ∧
  (lfsr 0x12345678#32 0).2 = 0x091A2B3C#32

/-- Every finite code of every one-byte format is in its own format's grid: rounding its value gives the code back and sets no
flag, in every mode and with every draw; a NaN gives the format's NaN code (spec/06 R88, R91, R93). -/
def Claims.OneByteCodesRoundToThemselves : Prop :=
  ∀ fm ∈ oneByteFormats, ∀ c < 256, ∀ (mode : RMode) (sat : Bool) (r : Nat),
    (∀ n m e st, fm.val c = .fin n m e st → roundTo (fm.val c) fm mode sat r = (c, 0#5)) ∧
    (∀ sig, fm.val c = .nan sig → roundTo (fm.val c) fm mode sat r = ((Fmt.par fm).nan, 0#5))

/-- The special cases of the float operations: zeros, infinities and NaNs and the flags they set (spec/06 R87, R99). -/
def Claims.FloatSpecialCases : Prop :=
  ∀ (mode : RMode) (sat ftz : Bool) (r b c : Nat),
    fltLane .rcp .f32 mode false ftz r 0 b c = (0x7F800000, .dz) ∧
    fltLane .rcp .f32 mode false ftz r 0x80000000 b c = (0xFF800000, .dz) ∧
    fltLane .rcp .f32 mode sat ftz r 0x7F800000 b c = (0, 0#5) ∧
    fltLane .rsq .f32 mode sat ftz r 0xBF800000 b c = (0x7FC00000, .nv) ∧
    fltLane .sqrt .f32 mode sat ftz r 0x80000000 b c = (0x80000000, 0#5) ∧
    fltLane .sqrt .f32 mode sat ftz r 0xBF800000 b c = (0x7FC00000, .nv) ∧
    fltLane .ex2 .f32 mode sat ftz r 0xFF800000 b c = (0, 0#5) ∧
    fltLane .ex2 .f32 mode sat ftz r 0 b c = (0x3F800000, 0#5) ∧
    fltLane .lg2 .f32 mode false ftz r 0 b c = (0xFF800000, .dz) ∧
    fltLane .lg2 .f32 mode sat ftz r 0x3F800000 b c = (0, 0#5) ∧
    fltLane .tanh .f32 mode sat ftz r 0xFF800000 b c = (0xBF800000, 0#5) ∧
    fltLane .add .f32 mode sat ftz r 0x7F800000 0xFF800000 c = (0x7FC00000, .nv) ∧
    fltLane .mul .f32 mode sat ftz r 0 0x7F800000 c = (0x7FC00000, .nv) ∧
    fltLane .fma .f32 mode sat ftz r 0 0x7F800000 0x7FC00000 = (0x7FC00000, .nv) ∧
    fltLane .add .f32 mode sat ftz r 0x7FC00001 0x3F800000 c = (0x7FC00000, 0#5) ∧
    fltLane .add .f32 mode sat ftz r 0x7F800001 0x3F800000 c = (0x7FC00000, .nv) ∧
    fltLane .sub .f32 mode sat ftz r 0x3F800000 0x3F800000 c = ((if mode = .rdn then 0x80000000 else 0), 0#5)

/-- Rounding into the formats, and the special cases of the float operations. -/
def Obligations.FloatFormats : Prop :=
  Claims.WorkedRoundings ∧ Claims.OneByteCodesRoundToThemselves ∧ Claims.FloatSpecialCases

/-- fadd, fsub, fmul and fma: each active lane's destination takes the lane's exact result rounded once by RND and SAT at the
type's width, with one draw of the lane's seed in mode SR; FMODE takes the flags of the lanes; each active lane counts its operations
(spec/06 R94, R95, R98, R99; spec/19 R340). -/
def Claims.FloatShortResults : Prop :=
  ∀ p ∈ floatShort, ∀ (f : FltF) (s : State) (x : Iss), prelude (p.2.2 f) s = .go x →
    ∃ r : Regs, ShortFloat (p.2.2 f) x s (idxFloat f.ft.fmt) p.2.1 (f.rnd.mode x.g.rm)
        (fun l => (fltLane p.1 f.ft (f.rnd.mode x.g.rm) f.sat x.g.ftz (drawOf (f.rnd.mode x.g.rm) x.g.sr.seed l).1
          ((x.g.regs.rdV f.a.val l).toNat % FT.bits f.ft) (x.g.regs.srcB f.sb false f.b.val l % FT.bits f.ft)
          ((x.g.regs.rdV f.c.val l).toNat % FT.bits f.ft)).2) r ∧
      r.s = x.g.regs.s ∧ r.p = x.g.regs.p ∧ r.q = x.g.regs.q ∧
      ∀ l n, l < 32 → r.rdV n l = if n = f.d.val ∧ x.act.getLsbD l = true then
        BitVec.ofNat 32 (fltLane p.1 f.ft (f.rnd.mode x.g.rm) f.sat x.g.ftz (drawOf (f.rnd.mode x.g.rm) x.g.sr.seed l).1
          ((x.g.regs.rdV f.a.val l).toNat % FT.bits f.ft) (x.g.regs.srcB f.sb false f.b.val l % FT.bits f.ft)
          ((x.g.regs.rdV f.c.val l).toNat % FT.bits f.ft)).1
        else x.g.regs.rdV n l

/-- frcp, frsq, fsqrt, fex2, flg2 and ftanh: the same, landing with their flags 14 cycles after issue (spec/06 R94, R98, R99). -/
def Claims.FloatLongResults : Prop :=
  ∀ p ∈ floatLong, ∀ (f : FltF) (s : State) (x : Iss), prelude (p.2 f) s = .go x →
    ∃ seed ws, SeedsAfter (f.rnd.mode x.g.rm) x.act x.g.sr.seed seed ∧
      exec (p.2 f) s = .next (x.done (({ x with
        s := x.s.count x.g.key (idxFloat f.ft.fmt) (lanesOf x.act).length
        g := { x.g with sr := { x.g.sr with seed := seed } } } : Iss).later 5 f.la.val (Instr.dests (p.2 f)) 14 ws
          (flagsOf x.act (fun l => (fltLane p.1 f.ft (f.rnd.mode x.g.rm) f.sat x.g.ftz (drawOf (f.rnd.mode x.g.rm) x.g.sr.seed l).1
            ((x.g.regs.rdV f.a.val l).toNat % FT.bits f.ft) (x.g.regs.srcB f.sb false f.b.val l % FT.bits f.ft)
            ((x.g.regs.rdV f.c.val l).toNat % FT.bits f.ft)).2)))) ∧
      ∀ (r : Regs) l n, l < 32 → ((r.apply ws).s = r.s ∧ (r.apply ws).p = r.p ∧ (r.apply ws).q = r.q) ∧
        (r.apply ws).rdV n l = if n = f.d.val ∧ x.act.getLsbD l = true then
        BitVec.ofNat 32 (fltLane p.1 f.ft (f.rnd.mode x.g.rm) f.sat x.g.ftz (drawOf (f.rnd.mode x.g.rm) x.g.sr.seed l).1
          ((x.g.regs.rdV f.a.val l).toNat % FT.bits f.ft) (x.g.regs.srcB f.sb false f.b.val l % FT.bits f.ft)
          ((x.g.regs.rdV f.c.val l).toNat % FT.bits f.ft)).1
        else r.rdV n l

/-- fmin, fmax, fcmp and fdot4: each active lane's result and flags are those of its own operands; nothing else changes but what
the word counts (spec/06 R98, R100, R101; spec/19 R339, R340). -/
def Claims.FloatOtherResults : Prop :=
  (∀ (f : FMinF) (s : State) (x : Iss) (mx : Bool), prelude (if mx then .fmax f else .fmin f) s = .go x →
    ∃ r : Regs, ShortFloat (if mx then .fmax f else .fmin f) x s (idxFloat f.ft.fmt) 1 .rne
        (fun l => (fminLane mx f.ft x.g.ftz ((x.g.regs.rdV f.a.val l).toNat % FT.bits f.ft)
          (x.g.regs.srcB f.sb false f.b.val l % FT.bits f.ft)).2) r ∧
      r.s = x.g.regs.s ∧ r.p = x.g.regs.p ∧ r.q = x.g.regs.q ∧
      ∀ l n, l < 32 → r.rdV n l = if n = f.d.val ∧ x.act.getLsbD l = true then
        BitVec.ofNat 32 (fminLane mx f.ft x.g.ftz ((x.g.regs.rdV f.a.val l).toNat % FT.bits f.ft)
          (x.g.regs.srcB f.sb false f.b.val l % FT.bits f.ft)).1 else x.g.regs.rdV n l) ∧
  (∀ (f : FCmpF) (s : State) (x : Iss), prelude (.fcmp f) s = .go x →
    ∃ r : Regs, ShortFloat (.fcmp f) x s (idxFloat f.ft.fmt) 1 .rne
        (fun l => (fcmpLane f.cond f.ft x.g.ftz ((x.g.regs.rdV f.a.val l).toNat % FT.bits f.ft)
          (x.g.regs.srcB f.sb false f.b.val l % FT.bits f.ft)).2) r ∧
      r.v = x.g.regs.v ∧
      r.s = x.g.regs.s ∧ r.q = x.g.regs.q ∧
      ∀ l n, l < 32 → (r.rdP n).getLsbD l = if n = f.p.val ∧ n ≠ 7 ∧ x.act.getLsbD l = true then
        (fcmpLane f.cond f.ft x.g.ftz ((x.g.regs.rdV f.a.val l).toNat % FT.bits f.ft)
          (x.g.regs.srcB f.sb false f.b.val l % FT.bits f.ft)).1 else (x.g.regs.rdP n).getLsbD l) ∧
  (∀ (f : FDotF) (s : State) (x : Iss), prelude (.fdot4 f) s = .go x →
    ∃ r : Regs, ShortFloat (.fdot4 f) x s (idxFloat f.fmt) 8 .rne
        (fun l => (fdotLane f.fmt x.g.ftz (x.g.regs.rdV f.a.val l).toNat (x.g.regs.rdV f.b.val l).toNat
          (x.g.regs.rdV f.c.val l).toNat).2) r ∧
      r.s = x.g.regs.s ∧ r.p = x.g.regs.p ∧ r.q = x.g.regs.q ∧
      ∀ l n, l < 32 → r.rdV n l = if n = f.d.val ∧ x.act.getLsbD l = true then
        BitVec.ofNat 32 (fdotLane f.fmt x.g.ftz (x.g.regs.rdV f.a.val l).toNat (x.g.regs.rdV f.b.val l).toNat
          (x.g.regs.rdV f.c.val l).toNat).1 else x.g.regs.rdV n l)

/-- The float words: per-lane results, flags, seeds, timing and frame. -/
def Obligations.FloatResults : Prop :=
  Claims.FloatShortResults ∧ Claims.FloatLongResults ∧ Claims.FloatOtherResults

/-- cvt, cvt.fi and cvt.if: each active lane converts the bytes of its source that BSEL selects; the narrower side takes the byte
position, and the other bytes of a destination narrower than a register stay (spec/06 R94, R103, R104; spec/19 R339). -/
def Claims.ConversionResults : Prop :=
  (∀ (f : CvtF) (s : State) (x : Iss), prelude (.cvt f) s = .go x →
    ∃ r : Regs, ShortFloat (.cvt f) x s (idxConv (Fmt.code f.sfmt) (Fmt.code f.dfmt)) 1 (f.rnd.mode x.g.rm)
        (fun l => (roundTo (f.sfmt.val (subBytes (x.g.regs.rdV f.a.val l) f.sfmt.bytes (sideByte f.sfmt.bytes f.dfmt.bytes f.bsel.val)))
          f.dfmt (f.rnd.mode x.g.rm) f.sat (drawOf (f.rnd.mode x.g.rm) x.g.sr.seed l).1).2) r ∧
      r.s = x.g.regs.s ∧ r.p = x.g.regs.p ∧ r.q = x.g.regs.q ∧
      ∀ l n, l < 32 → r.rdV n l = if n = f.d.val ∧ x.act.getLsbD l = true then
        putBytes (x.g.regs.rdV f.d.val l) f.dfmt.bytes (sideByte f.dfmt.bytes f.sfmt.bytes f.bsel.val)
          (roundTo (f.sfmt.val (subBytes (x.g.regs.rdV f.a.val l) f.sfmt.bytes (sideByte f.sfmt.bytes f.dfmt.bytes f.bsel.val)))
            f.dfmt (f.rnd.mode x.g.rm) f.sat (drawOf (f.rnd.mode x.g.rm) x.g.sr.seed l).1).1
        else x.g.regs.rdV n l) ∧
  (∀ (f : CvtFiF) (s : State) (x : Iss), prelude (.cvtFi f) s = .go x →
    ∃ r : Regs, ShortFloat (.cvtFi f) x s (idxConv (Fmt.code f.sfmt) (intFmt f.ty)) 1 .rne
        (fun l => (toIntClamp (f.sfmt.val (subBytes (x.g.regs.rdV f.a.val l) f.sfmt.bytes f.bsel.val)) (f.rnd.mode x.g.rm).noSr
          (IntTy.lo f.ty) (IntTy.hi f.ty)).2) r ∧
      r.s = x.g.regs.s ∧ r.p = x.g.regs.p ∧ r.q = x.g.regs.q ∧
      (∀ l n, l < 32 → n ≠ f.d.val → (f.ty.wide = true → n ≠ f.d.val + 1) → r.rdV n l = x.g.regs.rdV n l) ∧
      ∀ l, l < 32 → r.rdW f.ty.wide f.d.val l = if x.act.getLsbD l = true then
        ((toIntClamp (f.sfmt.val (subBytes (x.g.regs.rdV f.a.val l) f.sfmt.bytes f.bsel.val)) (f.rnd.mode x.g.rm).noSr
          (IntTy.lo f.ty) (IntTy.hi f.ty)).1 % 2 ^ IntTy.w f.ty).toNat
        else x.g.regs.rdW f.ty.wide f.d.val l) ∧
  (∀ (f : CvtIfF) (s : State) (x : Iss), prelude (.cvtIf f) s = .go x →
    ∃ r : Regs, ShortFloat (.cvtIf f) x s (idxConv (intFmt f.ty) (Fmt.code f.dfmt)) 1 (f.rnd.mode x.g.rm)
        (fun l => (roundTo (Val.ofInt (readAs (IntTy.w f.ty) f.ty.signed (x.g.regs.rdW f.ty.wide f.a.val l)))
          f.dfmt (f.rnd.mode x.g.rm) f.sat (drawOf (f.rnd.mode x.g.rm) x.g.sr.seed l).1).2) r ∧
      r.s = x.g.regs.s ∧ r.p = x.g.regs.p ∧ r.q = x.g.regs.q ∧
      ∀ l n, l < 32 → r.rdV n l = if n = f.d.val ∧ x.act.getLsbD l = true then
        putBytes (x.g.regs.rdV f.d.val l) f.dfmt.bytes f.bsel.val
          (roundTo (Val.ofInt (readAs (IntTy.w f.ty) f.ty.signed (x.g.regs.rdW f.ty.wide f.a.val l)))
            f.dfmt (f.rnd.mode x.g.rm) f.sat (drawOf (f.rnd.mode x.g.rm) x.g.sr.seed l).1).1
        else x.g.regs.rdV n l)

/-- Block quantization: qblk.hist adds the finite non-zero values of the active lanes to the 64 bins, clamped; qblk.clip gives
the smallest clip exponent whose running sum covers the percentile; qblk.q writes the scale and each active lane's code; they land
8 cycles after issue (spec/06 R106 to R108). -/
def Claims.BlockQuantization : Prop :=
  (∀ (f : QHistF) (s : State) (x : Iss), prelude (.qblkHist f) s = .go x →
    ∃ ws, exec (.qblkHist f) s = .next (x.done (x.later 6 f.la.val (Instr.dests (.qblkHist f)) 8 ws 0#5)) ∧
      ∀ (r : Regs) k, k < 64 → ((r.apply ws).s = r.s ∧ (r.apply ws).p = r.p ∧ (r.apply ws).q = r.q) ∧
        (∀ n l, l < 32 → n ≠ f.d.val → n ≠ f.d.val + 1 → (r.apply ws).rdV n l = r.rdV n l) ∧
        ((r.apply ws).rdV (f.d.val + k / 32) (k % 32)).toNat =
        min ((x.g.regs.rdV (f.d.val + k / 32) (k % 32)).toNat +
          ((lanesOf x.act).filter (fun l => histBin (x.g.regs.rdV f.a.val l).toNat = some k)).length) (2 ^ 32 - 1)) ∧
  (∀ (f : QClipF) (s : State) (x : Iss), prelude (.qblkClip f) s = .go x →
    exec (.qblkClip f) s = .next (x.done (x.later 6 f.la.val (Instr.dests (.qblkClip f)) 8
      [.s f.d.val (BitVec.ofInt 64 (clipExp (x.g.regs.bins f.a.val) (x.g.regs.rdS f.b.val).toNat))] 0#5))) ∧
  (∀ (bins : List Nat) (pct : Nat), bins.length = 64 → 0 < bins.sum →
    ∃ k : Nat, k < 64 ∧ clipExp bins pct = (k : Int) - 32 ∧
      (min pct 1024 * bins.sum + 1023) / 1024 ≤ (bins.take (k + 1)).sum ∧
      ∀ j : Nat, j < k → (bins.take (j + 1)).sum < (min pct 1024 * bins.sum + 1023) / 1024) ∧
  (∀ (f : QQuantF) (s : State) (x : Iss), prelude (.qblkQ f) s = .go x →
    ∃ ws, exec (.qblkQ f) s = .next (x.done (({ x with
        s := x.s.count x.g.key (idxConv (Fmt.code .f32) (Fmt.code f.fmt)) (lanesOf x.act).length } : Iss).later 6 f.la.val (Instr.dests (.qblkQ f)) 8 ws 0#5)) ∧
      ∀ (r : Regs) (sx : Int), sx = scaleExp f.fmt (max (-32) (min 31 (x.g.regs.rdS f.b.val).toInt))
          ((lanesOf x.act).map (fun l => (x.g.regs.rdV f.a.val l).toNat)) →
        ((r.apply ws).p = r.p ∧ (r.apply ws).q = r.q ∧ ∀ m, m ≠ f.c.val → (r.apply ws).rdS m = r.rdS m) ∧
        (f.c.val ≠ 0 → (r.apply ws).rdS f.c.val = BitVec.ofNat 64 ((sx + 127).toNat % 256)) ∧
        ∀ l n, l < 32 → (r.apply ws).rdV n l = if n = f.d.val ∧ x.act.getLsbD l = true then
          putBytes (x.g.regs.rdV f.d.val l) 1 f.bsel.val (blockCode f.fmt sx (x.g.regs.rdV f.a.val l).toNat)
          else r.rdV n l)

/-- Conversions and block quantization, lane by lane. -/
def Obligations.ConversionsAndBlocks : Prop :=
  Claims.ConversionResults ∧ Claims.BlockQuantization

/-- bra, brq, brx, call, callx, nop and a ret whose lanes agree: the fragment's next PC is the target (64 bytes per step of the
offset from the word's own block), a fragment that branches issues again from 4 cycles on, a call links the block after its own in
the pair of every lane of the fragment, and nothing else changes (spec/02 R21, R26; spec/03 R49 to R52, R63). -/
def Claims.BranchWords : Prop :=
  (∀ (t : BitVec 24) (s : State) (x : Iss), prelude (.bra t) s = .go x →
    exec (.bra t) s = .next (x.done (x.s.setGroup x.k (x.g.setFrag x.sl (some { x.f with
      pc := (x.f.pc &&& ~~~63#64) + t.signExtend 64 * 64#64, only := none, issueAt := x.cycle + 4 }))))) ∧
  (∀ (t : BitVec 24) (q : QReg) (qn : Bool) (s : State) (x : Iss), prelude (.brq t q qn) s = .go x →
    exec (.brq t q qn) s = .next (x.done (x.s.setGroup x.k (x.g.setFrag x.sl (some { x.f with
      pc := if x.g.regs.rdQ q.val = true ↔ qn = false then (x.f.pc &&& ~~~63#64) + t.signExtend 64 * 64#64 else x.f.pc + 8#64
      only := none, issueAt := x.cycle + 4 }))))) ∧
  (∀ (a : SReg) (s : State) (x : Iss), prelude (.brx a) s = .go x →
    exec (.brx a) s = .next (x.done (x.s.setGroup x.k (x.g.setFrag x.sl (some { x.f with
      pc := x.g.regs.rdS a.val, only := none, issueAt := x.cycle + 4 }))))) ∧
  (∀ (d : VReg) (tgt : DWord) (i : Instr) (s : State) (x : Iss), prelude i s = .go x →
    ((∃ t : BitVec 24, i = .call t ∧ d = 0 ∧ tgt = (x.f.pc &&& ~~~63#64) + t.signExtend 64 * 64#64) ∨
      (∃ a : SReg, i = .callx d a ∧ tgt = x.g.regs.rdS a.val)) →
    ∃ r : Regs, exec i s = .next (x.done (x.s.setGroup x.k (({ x.g with regs := r }.shortReady (vs d.val 2) x.cycle).setFrag x.sl
        (some { x.f with pc := tgt, only := none, issueAt := x.cycle + 4 })))) ∧
      r.s = x.g.regs.s ∧ r.p = x.g.regs.p ∧ r.q = x.g.regs.q ∧
      (∀ l, l < 32 → x.f.mask.getLsbD l = true → r.rdV64 d.val l = (x.f.pc &&& ~~~63#64) + 64#64) ∧
      ∀ l n, l < 32 → x.f.mask.getLsbD l = false ∨ (n ≠ d.val ∧ n ≠ d.val + 1) → r.rdV n l = x.g.regs.rdV n l) ∧
  (∀ (a : VReg) (s : State) (x : Iss) (t : DWord), prelude (.ret a) s = .go x → x.f.mask ≠ 0#32 →
    (∀ l, l < 32 → x.f.mask.getLsbD l = true → x.g.regs.rdV64 a.val l = t) →
    exec (.ret a) s = .next (x.done (x.s.setGroup x.k (x.g.setFrag x.sl (some { x.f with
      pc := t, only := none, issueAt := x.cycle + 4 }))))) ∧
  (∀ (s : State) (x : Iss), prelude .nop s = .go x →
    exec .nop s = .next (x.done (x.s.setGroup x.k (x.g.setFrag x.sl (some { x.f with pc := x.f.pc + 8#64, only := none })))))

/-- A ret whose lanes disagree traps with code 0x06 (spec/03 R51); that it does so where one of their values is misaligned too, of which
the rules give no order, is the model's choice (log entry 87). -/
def Claims.DivergentReturnTraps : Prop :=
  ∀ (a : VReg) (s : State) (x : Iss) (l m : Nat), prelude (.ret a) s = .go x → l < 32 → m < 32 →
    x.f.mask.getLsbD l = true → x.f.mask.getLsbD m = true → x.g.regs.rdV64 a.val l ≠ x.g.regs.rdV64 a.val m →
    exec (.ret a) s = .next (s.wordTrap x.k x.sl x.g x.f { code := 0x06 })

/-- Branches, calls, returns and nop. -/
def Obligations.BranchResults : Prop :=
  Claims.BranchWords ∧ Claims.DivergentReturnTraps

/-- bra.div: without a taken lane it falls through, with every lane taken it branches; else the taken lanes go to the target and
the others to the next word, in the other slot when it is free and on the split stack otherwise, once no result of its lanes is
outstanding, under a new frame unless the fragment's own region rejoins there; a full stack traps with code 0x05 (spec/03 R46, R47, R53;
spec/02 R32). -/
def Obligations.DivergentBranch : Prop :=
  ∀ (gd : Guard) (t : BitVec 24) (r : BitVec 16) (s : State) (x : Iss), prelude (.braDiv gd t r) s = .go x →
    ∀ (tk n : LaneMask) (tgt j : DWord), tk = x.f.mask &&& x.g.regs.guard gd → n = x.f.mask &&& ~~~tk →
    tgt = (x.f.pc &&& ~~~63#64) + t.signExtend 64 * 64#64 → j = (x.f.pc &&& ~~~63#64) + r.signExtend 64 * 64#64 →
    (tk = 0#32 → exec (.braDiv gd t r) s = .next (x.done (x.s.setGroup x.k (x.g.setFrag x.sl (some { x.f with
      pc := x.next, only := none, issueAt := x.cycle + 4 }))))) ∧
    (tk ≠ 0#32 → n = 0#32 → exec (.braDiv gd t r) s = .next (x.done (x.s.setGroup x.k (x.g.setFrag x.sl (some { x.f with
      pc := tgt, only := none, issueAt := x.cycle + 4 }))))) ∧
    (tk ≠ 0#32 → n ≠ 0#32 → (if x.f.depth ≠ 0#8 ∧ j = x.f.rj then 0 else 1) + (if (x.g.frag (Slot.other x.sl)).isSome then 1 else 0) ≤
        32 - x.g.stack.length →
      ((x.g.frag (Slot.other x.sl)).isSome = true → x.g.pendingOf x.f.mask = []) →
      ∃ (k : BitVec 16) (rj : DWord) (d : BitVec 8) (g : Group), exec (.braDiv gd t r) s = .next (x.done (x.s.setGroup x.k g)) ∧
        (x.f.depth ≠ 0#8 ∧ j = x.f.rj → k = x.f.tok ∧ rj = x.f.rj ∧ d = x.f.depth ∧ g.tokctr = x.g.tokctr) ∧
        (¬ (x.f.depth ≠ 0#8 ∧ j = x.f.rj) → k ≠ 0#16 ∧ (∀ e ∈ x.g.stack, e.kind = .frame → e.tok ≠ k) ∧ rj = j ∧ d = x.f.depth + 1 ∧
          g.tokctr = k) ∧
        g.stack = x.g.stack ++ (if x.f.depth ≠ 0#8 ∧ j = x.f.rj then [] else
            [⟨.frame, d, k, x.f.tok, 0, x.f.mask, x.f.pc, j, x.f.rj⟩]) ++
          (if (x.g.frag (Slot.other x.sl)).isSome then [⟨.ready, d, k, 0, n, 0, x.next, rj, 0⟩] else []) ∧
        g.frag x.sl = some { x.f with pc := tgt, mask := tk, tok := k, rj := rj, depth := d, only := none, issueAt := x.cycle + 4 } ∧
        g.frag (Slot.other x.sl) = (if (x.g.frag (Slot.other x.sl)).isSome then x.g.frag (Slot.other x.sl) else
          some { x.f with pc := x.next, mask := n, tok := k, rj := rj, depth := d, only := none, issueAt := x.cycle + 4, mark := none }) ∧
        g.regs = x.g.regs ∧ g.sr = x.g.sr ∧ g.exited = x.g.exited) ∧
    (tk ≠ 0#32 → n ≠ 0#32 → (if x.f.depth ≠ 0#8 ∧ j = x.f.rj then 1 else 2) ≤ 32 - x.g.stack.length →
      (x.g.frag (Slot.other x.sl)).isSome = true → x.g.pendingOf x.f.mask ≠ [] → exec (.braDiv gd t r) s = .next s) ∧
    (tk ≠ 0#32 → n ≠ 0#32 → 32 - x.g.stack.length <
        (if x.f.depth ≠ 0#8 ∧ j = x.f.rj then 0 else 1) + (if (x.g.frag (Slot.other x.sl)).isSome then 1 else 0) →
      exec (.braDiv gd t r) s = .next (s.wordTrap x.k x.sl x.g x.f { code := 0x05 }))

/-- join: with results of its lanes outstanding it waits; outside every open region that rejoins at it, it only advances; the
first arrival of a region parks its lanes and its slot is refilled, a later one adds its lanes, a full stack traps with code 0x05, and
the last one completes the region: the lanes of both go on together at the rejoin address with the region's outer token, rejoin and depth,
after what either has outstanding; a join of an outer region also takes the lanes out of the frames inside it (spec/03 R45, R47, R54, R56,
R57, R63). -/
def Claims.JoinResults : Prop :=
  ∀ (s : State) (x : Iss), prelude .join s = .go x →
    (x.g.pendingOf x.f.mask ≠ [] → exec .join s = .next s) ∧
    (x.g.pendingOf x.f.mask = [] → x.f.tok = 0#16 →
      exec .join s = .next (x.done (x.s.setGroup x.k (x.g.setFrag x.sl (some { x.f with pc := x.f.pc + 8#64, only := none }))))) ∧
    (∀ fr : Entry, x.g.pendingOf x.f.mask = [] → x.f.tok ≠ 0#16 → frameOf x.g.stack x.f.tok = some fr → fr.rj = x.f.pc →
      (x.g.stack.find? (fun e => e.kind == .parked && e.tok == x.f.tok) = none → x.f.mask ≠ fr.xmask →
        lastReady x.g.stack = none → x.g.stack.length < 32 →
        ∃ g, exec .join s = .next (x.done (x.s.setGroup x.k g)) ∧ g.frag x.sl = none ∧
          g.stack = x.g.stack ++ [⟨.parked, fr.depth, x.f.tok, 0, x.f.mask, 0, x.f.pc, fr.rj, 0⟩] ∧
          g.frag (Slot.other x.sl) = x.g.frag (Slot.other x.sl) ∧ g.regs = x.g.regs) ∧
      (∀ e, x.g.stack.find? (fun e => e.kind == .parked && e.tok == x.f.tok) = none → x.f.mask ≠ fr.xmask →
        lastReady x.g.stack = some e → x.g.stack.length < 32 →
        ∃ g, exec .join s = .next (x.done ((x.s.setGroup x.k g).fuseTiles x.k x.sl)) ∧
          g.frag x.sl = some (Frag.plain e.pc e.mask e.tok e.rj e.depth (x.cycle + 8)) ∧
          g.stack = (x.g.stack ++ [(⟨.parked, fr.depth, x.f.tok, 0, x.f.mask, 0, x.f.pc, fr.rj, 0⟩ : Entry)]).filter (fun y => y ≠ e) ∧
          g.frag (Slot.other x.sl) = x.g.frag (Slot.other x.sl) ∧ g.regs = x.g.regs) ∧
      (x.g.stack.find? (fun e => e.kind == .parked && e.tok == x.f.tok) = none → 32 ≤ x.g.stack.length →
        exec .join s = .next (s.wordTrap x.k x.sl x.g x.f { code := 0x05 })) ∧
      (x.g.stack.find? (fun e => e.kind == .parked && e.tok == x.f.tok) = none → x.f.mask = fr.xmask → x.g.stack.length < 32 →
        ∃ g f, exec .join s = .next (x.done ((x.s.setGroup x.k g).fuseTiles x.k x.sl)) ∧ g.stack = x.g.stack.filter (fun e => e ≠ fr) ∧
          g.frag x.sl = some f ∧ f.pc = fr.rj ∧ f.mask = x.f.mask ∧ f.tok = fr.ptok ∧ f.rj = fr.prj ∧ f.depth = fr.depth - 1 ∧
          f.issueAt = x.cycle + 4 ∧ g.frag (Slot.other x.sl) = x.g.frag (Slot.other x.sl) ∧ g.regs = x.g.regs) ∧
      (∀ p, x.g.stack.find? (fun e => e.kind == .parked && e.tok == x.f.tok) = some p → p.mask ||| x.f.mask ≠ fr.xmask →
        ∃ g, exec .join s = .next (x.done ((x.s.setGroup x.k g).fuseTiles x.k x.sl)) ∧
          g.frag x.sl = (lastReady x.g.stack).map (fun e => Frag.plain e.pc e.mask e.tok e.rj e.depth (x.cycle + 8)) ∧
          g.stack = (x.g.stack.map (fun e => if e.kind = .parked ∧ e.tok =
            x.f.tok then { e with mask := e.mask ||| x.f.mask } else e)).filter
            (fun y => lastReady x.g.stack ≠ some y) ∧
          g.frag (Slot.other x.sl) = x.g.frag (Slot.other x.sl) ∧ g.regs = x.g.regs) ∧
      (∀ p ∈ x.g.stack, p.kind = .parked → p.tok = x.f.tok → p.mask ||| x.f.mask = fr.xmask →
        (∀ e ∈ x.g.stack, e.tok = x.f.tok → e = fr ∨ e = p ∨ e.kind = .ready) →
        ∃ g, exec .join s = .next (x.done ((x.s.setGroup x.k g).fuseTiles x.k x.sl)) ∧
          g.stack = x.g.stack.filter (fun e => e ≠ fr ∧ e ≠ p) ∧
          g.flights = x.g.flights.map (fun fl => if fl.mask &&& fr.xmask = 0#32 ∨ fl.mask ||| fr.xmask = fl.mask then fl
            else { fl with mask := fl.mask ||| fr.xmask, past := fl.past ++ [(x.g.nextId, fl.mask)] }) ∧
          (∃ f, g.frag x.sl = some f ∧ f.pc = fr.rj ∧ f.mask = fr.xmask ∧ f.tok = fr.ptok ∧ f.rj = fr.prj ∧
            f.depth = fr.depth - 1 ∧ f.issueAt = x.cycle + 4) ∧
          g.frag (Slot.other x.sl) = x.g.frag (Slot.other x.sl) ∧ g.regs = x.g.regs)) ∧
    (∀ (inner rest : List Entry) (kf : Entry), x.g.pendingOf x.f.mask = [] →
      chainFrom x.g.stack x.f.tok 33 = inner ++ kf :: rest → (∀ e ∈ inner, e.rj ≠ x.f.pc) → kf.rj = x.f.pc →
      (∃ p ∈ x.g.stack, p.kind = .parked ∧ p.tok = kf.tok) ∨ x.g.stack.length < 32 →
      ∃ g, exec .join s = .next (x.done ((x.s.setGroup x.k g).fuseTiles x.k x.sl)) ∧
        (∀ e ∈ g.stack, e.kind = .frame → (∃ c ∈ inner, c.tok = e.tok) → e.xmask &&& x.f.mask = 0#32 ∧ e.xmask ≠ 0#32) ∧
        g.frag (Slot.other x.sl) = x.g.frag (Slot.other x.sl) ∧ g.regs = x.g.regs ∧ g.sr = x.g.sr ∧ g.exited = x.g.exited) ∧
    (x.g.pendingOf x.f.mask = [] → (∀ e ∈ chainFrom x.g.stack x.f.tok 33, e.rj ≠ x.f.pc) →
      exec .join s = .next (x.done (x.s.setGroup x.k (x.g.setFrag x.sl (some { x.f with pc := x.f.pc + 8#64, only := none })))))

/-- exit: with results of its lanes outstanding it waits; else its lanes have exited, have no eyelet struck and leave the frames of
the open regions, and a group whose last lane exits has ended; the slot empties, is refilled from the split stack, or takes the region
that the exit completes (spec/03 R45, R55, R56, R57; spec/07 R134). -/
def Claims.ExitResults : Prop :=
  ∀ (s : State) (x : Iss), prelude .exit s = .go x →
    (x.g.pendingOf x.f.mask ≠ [] → exec .exit s = .next s) ∧
    (x.g.pendingOf x.f.mask = [] → x.g.handler = none → x.g.stack = [] →
      ∃ g t, exec .exit s = .next (x.done t) ∧ t = (x.s.setGroup x.k g).tryEnd x.g.team ∧
        g.frag x.sl = none ∧ g.frag (Slot.other x.sl) = x.g.frag (Slot.other x.sl) ∧
        g.exited = x.g.exited ||| x.f.mask ∧ g.sr.eystruck = x.g.sr.eystruck &&& ~~~x.f.mask ∧ g.stack = [] ∧
        g.ended = (x.g.ended || decide (x.g.exited ||| x.f.mask = allLanes)) ∧ g.regs = x.g.regs ∧ g.sb = x.g.sb ∧
        g.locks = x.g.locks ∧ g.gwct = x.g.gwct) ∧
    (x.g.pendingOf x.f.mask = [] → x.g.handler = none →
      ∃ g, exec .exit s = .next (x.done (((x.s.setGroup x.k g).fuseTiles x.k x.sl).tryEnd x.g.team)) ∧
        g.frag (Slot.other x.sl) = x.g.frag (Slot.other x.sl) ∧
        g.exited = x.g.exited ||| x.f.mask ∧ g.sr.eystruck = x.g.sr.eystruck &&& ~~~x.f.mask ∧
        g.ended = (x.g.ended || decide (x.g.exited ||| x.f.mask = allLanes)) ∧ g.regs = x.g.regs ∧ g.locks = x.g.locks ∧
        (∀ e ∈ g.stack, e.kind = .frame → (∃ c ∈ chainFrom x.g.stack x.f.tok 33, c.tok = e.tok) →
          e.xmask &&& x.f.mask = 0#32 ∧ e.xmask ≠ 0#32) ∧
        (x.f.tok = 0#16 → g.stack = x.g.stack.filter (fun y => lastReady x.g.stack ≠ some y) ∧
          g.frag x.sl = (lastReady x.g.stack).map (fun e => Frag.plain e.pc e.mask e.tok e.rj e.depth (x.cycle + 8))) ∧
        (∀ fr p : Entry, x.f.tok ≠ 0#16 → frameOf x.g.stack x.f.tok = some fr →
          x.g.stack.find? (fun e => e.kind == .parked && e.tok == x.f.tok) = some p → p.mask = fr.xmask &&& ~~~x.f.mask → p.mask ≠ 0#32 →
          ∃ f, g.frag x.sl = some f ∧ f.pc = fr.rj ∧ f.mask = p.mask ∧ f.tok = fr.ptok ∧ f.rj = fr.prj ∧ f.depth = fr.depth - 1 ∧
            f.issueAt = x.cycle + 4)) ∧
    (∀ h, x.g.pendingOf x.f.mask = [] → x.g.handler = some h → x.g.stack = [] →
      ∃ g t, exec .exit s = .next (x.done t) ∧ t = (x.s.setGroup x.k g).tryEnd x.g.team ∧
        g.frag x.sl = none ∧ g.exited = x.g.exited ||| x.f.mask ∧
        (h.mask &&& ~~~x.f.mask = 0#32 → g.handler = none) ∧
        (h.mask &&& ~~~x.f.mask ≠ 0#32 → x.g.exited ||| x.f.mask ≠ allLanes →
          g.handler = some { h with mask := h.mask &&& ~~~x.f.mask }))

/-- join rejoins the lanes of a region, and exit ends lanes, fragments and groups. -/
def Obligations.JoinAndExit : Prop :=
  Claims.JoinResults ∧ Claims.ExitResults

/-- Loads of the lane-private, scratch, die and kept-state memories: when every active lane's address lies in its memory, one
outstanding load opens with its window, for the bytes of every active lane, and nothing else changes (spec/02 R30; spec/07 R110, R111,
R114 to R122; spec/19 R339). -/
def Claims.LocalLoads : Prop :=
  ∀ p ∈ localLoads, ∀ (f : MemF) (s : State) (x : Iss), prelude (p.2 f) s = .go x →
    (∀ l ∈ lanesOf x.act, (x.s.localAt x.g.team x.g.gidx x.g.key x.k.die p.1 l (x.g.regs.ea f.addr l) (sizeBytes f.size)).isSome) →
    ∃ fl : Flight, exec (p.2 f) s = .next (x.done (x.s.setGroup x.k (x.g.launchFlight x.sl x.f x.next f.la.val fl))) ∧
      fl = { x.flight (.load f.size f.d.val) (Instr.dests (p.2 f)) with parts := fl.parts, acq := f.order.acq } ∧
      fl.parts = (lanesOf x.act).flatMap (fun l =>
        match x.s.localAt x.g.team x.g.gidx x.g.key x.k.die p.1 l (x.g.regs.ea f.addr l) (sizeBytes f.size) with
        | some pl => (sectorCuts (x.g.regs.ea f.addr l).toNat (sizeBytes f.size)).map (fun c =>
            (⟨l, pl.1, locByte pl.1 pl.2 c.1, x.g.regs.ea f.addr l + BitVec.ofNat 64 c.1, c.1, c.2, 0, 0, none, 0⟩ : Part))
        | none => [])

/-- Stores of the lane-private, scratch, die and kept-state memories: when every active lane's address lies in its memory and what
a release asks for holds, the bytes of the active lanes leave together, in lane order, to be performed; registers and every memory stay
(spec/07 R110, R111, R121, R128). -/
def Claims.LocalStores : Prop :=
  ∀ p ∈ localStores, ∀ (f : MemF) (s : State) (x : Iss), prelude (p.2 f) s = .go x → x.mayRelease f.order.rel f.scope →
    (∀ l ∈ lanesOf x.act, (x.s.localAt x.g.team x.g.gidx x.g.key x.k.die p.1 l (x.g.regs.ea f.addr l) (sizeBytes f.size)).isSome) →
    ∃ bs, exec (p.2 f) s = .next (x.done (x.s.setGroup x.k ((if x.act = 0#32 then x.g
          else { x.g with
            nextId := x.g.nextId + 1
            loc := x.g.loc ++ [⟨x.g.nextId, x.g.nextId, x.f.mask, x.f.pc, if p.1 = .die then .scratch else p.1, 0, bs, []⟩] }).setFrag
              x.sl (some { x.f with pc := x.next, only := none })))) ∧
      bs = (lanesOf x.act).flatMap (fun l =>
        match x.s.localAt x.g.team x.g.gidx x.g.key x.k.die p.1 l (x.g.regs.ea f.addr l) (sizeBytes f.size) with
        | some pl => (storeBytes x.g.regs f.size f.d.val l).mapIdx (fun j b => (locByte pl.1 pl.2 j, b))
        | none => [])

/-- An access of a local level with a lane outside its memory traps with code 0x07, naming the lanes that fail and the address of
the lowest of them; nothing is read or written (spec/07 R121; spec/14 R263). -/
def Claims.LocalRangeTraps : Prop :=
  ∀ p ∈ localLoads ++ localStores, ∀ (f : MemF) (s : State) (x : Iss) (l : Nat), prelude (p.2 f) s = .go x →
    (lanesOf x.act).find? (fun l =>
      (x.s.localAt x.g.team x.g.gidx x.g.key x.k.die p.1 l (x.g.regs.ea f.addr l) (sizeBytes f.size)).isNone) = some l →
    ∃ t, exec (p.2 f) s = .next (s.wordTrap x.k x.sl x.g x.f t) ∧ t.code = 0x07 ∧ t.addr = x.g.regs.ea f.addr l ∧
      t.lanes = some (maskOf ((lanesOf x.act).filter (fun l =>
        (x.s.localAt x.g.team x.g.gidx x.g.key x.k.die p.1 l (x.g.regs.ea f.addr l) (sizeBytes f.size)).isNone)))

/-- Loads and stores of the local levels, and their range trap. -/
def Obligations.LocalAccesses : Prop :=
  Claims.LocalLoads ∧ Claims.LocalStores ∧ Claims.LocalRangeTraps

/-- ldg and ld.spec whose parts all translate, with no stale line in the die's slices that an ld.spec takes: one outstanding load opens
with its window, one part for each sector of each active lane at the physical address, no byte taken yet; no register and no memory
changes (spec/02 R30; spec/07 R123, R125, R129, R130, R132; spec/15 R294). -/
def Claims.GlobalLoadWords : Prop :=
  ∀ (f : MemF) (i : Instr) (s : State) (x : Iss), prelude i s = .go x →
    (i = .ldg f ∨ (i = .ldSpec f ∧
      (x.specLines (x.s.parts x.g.key .read x.act (sizeBytes f.size) (fun l => x.g.regs.ea f.addr l))).getD [] = [])) →
    x.allTranslate .read (sizeBytes f.size) (fun l => x.g.regs.ea f.addr l) →
    ∃ (t : State) (fl : Flight), AccessNoted x.s t ∧
      exec i s = .next (x.done (t.setGroup x.k ((x.g.unmark x.sl).launchFlight x.sl { x.f with mark := none } x.next f.la.val fl))) ∧
      fl = { x.flight (.load f.size f.d.val) (Instr.dests i) with acq := f.order.acq, parts := fl.parts } ∧
      fl.parts = (x.s.parts x.g.key .read x.act (sizeBytes f.size) (fun l => x.g.regs.ea f.addr l)).map (fun p =>
        ⟨p.lane, .global, p.pa, p.va, p.off, p.len, 0, 0, none, p.leaf⟩)

/-- An ld.spec that reads one line of which its die holds a stale copy, with room in the eyelet tables: the lanes that read the line
take the copy's bytes at once, but for those that their group's stores forward, and an eyelet of the line, the copy's version and these
lanes is in flight; every other part is outstanding as of an ldg; nothing else changes but what the access notes (spec/07 R125, R132;
spec/09 R171). That it waits behind an acquire of its lanes that is outstanding is the model's choice (log entry 69). -/
def Claims.SpeculativeLoadOfStaleLine : Prop :=
  ∀ (f : MemF) (s : State) (x : Iss) (L : Nat) (cp : Copy) (ps : List XPart) (p0 : XPart), prelude (.ldSpec f) s = .go x →
    x.allTranslate .read (sizeBytes f.size) (fun l => x.g.regs.ea f.addr l) →
    ps = x.s.parts x.g.key .read x.act (sizeBytes f.size) (fun l => x.g.regs.ea f.addr l) →
    ps.find? (fun p => lineOf p.pa = L) = some p0 → x.s.staleCopy x.k.die L = some cp →
    (∀ p ∈ ps, lineOf p.pa ≠ L → x.s.staleCopy x.k.die (lineOf p.pa) = none) →
    (∀ y ∈ (x.s.core x.k.core).eyelets, y.grp = x.k.g → y.pa ≠ L) → (x.s.core x.k.core).eyelets.length < 64 →
    ((x.s.core x.k.core).eyelets.filter (fun y => y.grp = x.k.g)).length < 8 →
    (x.g.acqBlocks x.f.mask x.g.nextId = true → exec (.ldSpec f) s = .next s) ∧
    (x.g.acqBlocks x.f.mask x.g.nextId = false → ∃ (t : State) (fl : Flight), AccessNoted x.s t ∧
      exec (.ldSpec f) s = .next (x.done ((t.modCore x.k.core (fun c => { c with eyelets := c.eyelets ++
          [⟨p0.va.ushiftRight 7, L, cp.ver, maskOf ((ps.filter (fun p => lineOf p.pa = L)).map (fun p => p.lane)), x.k.g,
            x.g.sr.lease.toNat, false⟩] })).setGroup x.k
        ((x.g.unmark x.sl).launchFlight x.sl { x.f with mark := none } x.next f.la.val fl))) ∧
      fl = { x.flight (.load f.size f.d.val) (Instr.dests (.ldSpec f)) with acq := f.order.acq, parts := fl.parts } ∧
      fl.parts = ps.map (fun p => (⟨p.lane, .global, p.pa, p.va, p.off, p.len, 0, 0, if lineOf p.pa = L then
          some ((List.range p.len).map (fun i => (x.g.forward (p.pa + i)).getD (cp.data.getD ((p.pa + i) % 128) 0#8)))
        else none, p.leaf⟩ : Part)))

/-- An access of the group path of which some lanes meet a page fault that the system can serve and none meets a trap: the faulting lanes
make the group replayable, the fragment stays at the word to execute again for those lanes alone, and the other lanes' load is outstanding
without a window (spec/07 R130; spec/15 R294). -/
def Claims.FaultingLanesReplay : Prop :=
  ∀ (f : MemF) (s : State) (x : Iss) (bad : LaneMask) (ok : List XPart) (k : FaultKind) (va : DWord) (lvl : Nat) (ws : List TEnt),
    prelude (.ldg f) s = .go x →
    x.s.decide130 x.g.key x.g.team x.k.g x.f.pc
      (x.s.parts x.g.key .read x.act (sizeBytes f.size) (fun l => x.g.regs.ea f.addr l)) = .go ok bad (some (k, va, lvl, ws)) →
    ∃ (t u : State) (g : Group) (fl : Flight) (f0 f1 : Frag), AccessNoted x.s t ∧
      u = t.markReplay x.k x.sl g bad (k, va, lvl, ws) .read ∧ exec (.ldg f) s = .next (x.done u) ∧
      u.group? x.k = some { g with replay := some ⟨x.sl, k, va, .read, bad, false, none⟩ } ∧ (k ≠ .notPresent → u.mem = x.s.mem) ∧
      (s.group? x.k).bind (fun g => g.frag x.sl) = some f0 ∧ g.frag x.sl = some f1 ∧ f1.pc = x.f.pc ∧ f1.only = some bad ∧
      f1.windows = f0.windows ∧ f1.mask = x.f.mask ∧ g.frag (Slot.other x.sl) = x.g.frag (Slot.other x.sl) ∧
      g.flights = x.g.flights ++ [fl] ∧ fl.act = x.act &&& ~~~bad ∧ fl.parts = ok.map globalPart ∧ fl.mask = x.f.mask ∧
      fl.kind = .load f.size f.d.val ∧ fl.dests = Instr.dests (.ldg f) ∧ g.regs = x.g.regs ∧ g.sb = x.g.sb

/-- Global loads, speculative stale loads, and the replay of lanes that meet a page fault. -/
def Obligations.GlobalLoads : Prop :=
  Claims.GlobalLoadWords ∧ Claims.SpeculativeLoadOfStaleLine ∧ Claims.FaultingLanesReplay

/-- The trap rows of R130 in their order: permission, unpopulated address, lost home, unreachable module; the first row that any
lane meets gives the trap, with the lanes that meet it and the address of the lowest of them, before any lane waits or faults (spec/07
R130; spec/14 R263, R264). That the address is that of the part that fails is the model's choice (log entry 91). -/
def Claims.TranslationTrapOrder : Prop :=
  ∀ (s : State) (k : CtxKey) (team grp : Nat) (pc : DWord) (ps : List XPart) (c : Nat) (p : XPart),
    c ∈ [0x08, 0x09, 0x0A, 0x15] → ps.find? (fun q => q.fate = .trap c) = some p →
    (∀ d ∈ [0x08, 0x09, 0x0A, 0x15].takeWhile (fun d => d ≠ c), ∀ q ∈ ps, q.fate ≠ .trap d) →
    ∃ t, s.decide130 k team grp pc ps = .trap t ∧ t.code = c ∧ t.addr = p.va ∧
      t.lanes = some (maskOf ((ps.filter (fun q => q.fate = .trap c)).map (fun q => q.lane)))

/-- A global instruction with a trap among its lanes takes that trap and does nothing else (spec/07 R130); that cwb's addresses are the
bases of its lines is the model's choice (log entry 74). -/
def Claims.GlobalWordsTrap : Prop :=
  ∀ (s : State) (x : Iss) (t : TrapInfo),
    (∀ f, prelude (.ldg f) s = .go x →
      x.s.decide130 x.g.key x.g.team x.k.g x.f.pc (x.s.parts x.g.key .read x.act (sizeBytes f.size) (fun l => x.g.regs.ea f.addr l)) =
        .trap t → exec (.ldg f) s = .next (s.wordTrap x.k x.sl x.g x.f t)) ∧
    (∀ f, prelude (.ldSpec f) s = .go x →
      x.s.decide130 x.g.key x.g.team x.k.g x.f.pc (x.s.parts x.g.key .read x.act (sizeBytes f.size) (fun l => x.g.regs.ea f.addr l)) =
        .trap t → exec (.ldSpec f) s = .next (s.wordTrap x.k x.sl x.g x.f t)) ∧
    (∀ f, prelude (.stg f) s = .go x →
      x.s.decide130 x.g.key x.g.team x.k.g x.f.pc (x.s.parts x.g.key .write x.act (sizeBytes f.size) (fun l => x.g.regs.ea f.addr l)) =
        .trap t → exec (.stg f) s = .next (s.wordTrap x.k x.sl x.g x.f t)) ∧
    (∀ f, prelude (.cwb f) s = .go x →
      x.s.decide130 x.g.key x.g.team x.k.g x.f.pc (x.s.parts x.g.key .write x.act 1 (fun l => x.g.regs.ea f.addr l &&& ~~~127#64)) =
        .trap t → exec (.cwb f) s = .next (s.wordTrap x.k x.sl x.g x.f t))

/-- An atomic or a reduction with an active lane whose word crosses a sector traps with code 0x0B before anything else (spec/08
R143). -/
def Claims.SectorCrossingTraps : Prop :=
  ∀ (i : Instr) (o : AtomOp),
    ((∃ p ∈ atomOps ++ redOps, ∃ f, i = p.2 f ∧ o = AtomF.toOp f p.1) ∨
      (∃ p ∈ atomFOps ++ redFOps, ∃ f, i = p.2 f ∧ o = AtomFF.toOp f p.1)) →
    ∀ (s : State) (x : Iss) (l : Nat), prelude i s = .go x →
    (lanesOf x.act).find? (fun l => 32 < (x.g.regs.ea o.addr l).toNat % 32 + asizeBytes o.size) = some l →
    ∃ t, exec i s = .next (s.wordTrap x.k x.sl x.g x.f t) ∧ t.code = 0x0B ∧ t.addr = x.g.regs.ea o.addr l ∧
      t.lanes = some (maskOf ((lanesOf x.act).filter (fun l => 32 < (x.g.regs.ea o.addr l).toNat % 32 + asizeBytes o.size)))

/-- Traps of the group path: their order, and that the word does nothing else. -/
def Obligations.AccessTraps : Prop :=
  Claims.TranslationTrapOrder ∧ Claims.GlobalWordsTrap ∧ Claims.SectorCrossingTraps

/-- stg and st.ack whose parts all translate, with a release that may leave and room in the store buffer: one entry per sector, or
per acknowledged write, enters the buffer behind those before it, holding the bytes in increasing lane number; no register and no memory
changes. An stg of a sector whose latest entry is a store that has not begun to drain merges into it; with a full buffer it waits. An
st.ack without a barrier object traps with code 0x07 (spec/07 R126, R128 to R130; spec/11 R235). -/
def Obligations.GlobalStores : Prop :=
  (∀ (f : MemF) (s : State) (x : Iss), prelude (.stg f) s = .go x →
    x.allTranslate .write (sizeBytes f.size) (fun l => x.g.regs.ea f.addr l) → x.mayRelease f.order.rel f.scope →
    x.g.entering = [] →
    (∀ p ∈ x.s.parts x.g.key .write x.act (sizeBytes f.size) (fun l => x.g.regs.ea f.addr l),
      ∀ e ∈ x.g.sb, e.sector ≠ p.pa / 32) →
    ∀ secs, secs = storeSectors x.g.regs f.size f.d.val
        (x.s.parts x.g.key .write x.act (sizeBytes f.size) (fun l => x.g.regs.ea f.addr l)) →
    x.g.sb.length + secs.length ≤ 8 →
    ∃ (t : State) (g : Group), AccessNoted x.s t ∧ exec (.stg f) s = .next (x.done (t.setGroup x.k g)) ∧
      g.sb = x.g.sb ++ secs.mapIdx (fun i e =>
        ⟨x.g.nextId + i, x.g.nextId, x.f.mask, x.f.pc, e.2.1, e.1, .bytes e.2.2.2, .queued, e.2.2.1,
          x.storeNote (secs.head?.map (·.1) == some e.1), []⟩) ∧
      (∃ f1, g.frag x.sl = some f1 ∧ f1.pc = x.next ∧ f1.entering = [] ∧ f1.mask = x.f.mask) ∧
      g.frag (Slot.other x.sl) = x.g.frag (Slot.other x.sl) ∧ g.regs = x.g.regs ∧ g.flights = x.g.flights ∧ g.sr = x.g.sr) ∧
  (∀ (f : MemF) (s : State) (x : Iss) (e : SbEntry) (old : List (Nat × Byte)) (sec : Nat) (va : DWord) (vas : List DWord)
      (bs : List (Nat × Byte)), prelude (.stg f) s = .go x →
    x.allTranslate .write (sizeBytes f.size) (fun l => x.g.regs.ea f.addr l) → x.mayRelease f.order.rel f.scope →
    storeSectors x.g.regs f.size f.d.val (x.s.parts x.g.key .write x.act (sizeBytes f.size) (fun l => x.g.regs.ea f.addr l)) =
      [(sec, va, vas, bs)] →
    (x.g.sb.filter (fun e => e.sector = sec)).getLast? = some e → e.op = .bytes old → e.st = .queued →
    ∃ (t : State) (g : Group), AccessNoted x.s t ∧ exec (.stg f) s = .next (x.done (t.setGroup x.k g)) ∧
      g.sb = x.g.sb.map (fun y => if y.id = e.id then { y with
        op := .bytes (old ++ bs), mask := y.mask ||| x.f.mask, ord := x.g.nextId, also := y.also ++ va :: vas
        note := { y.note with tag := x.f.mark.orElse (fun _ => y.note.tag) } } else y) ∧
      (∃ f1, g.frag x.sl = some f1 ∧ f1.pc = x.next) ∧ g.regs = x.g.regs ∧ g.flights = x.g.flights ∧ g.sr = x.g.sr) ∧
  (∀ (f : MemF) (s : State) (x : Iss), prelude (.stg f) s = .go x →
    x.allTranslate .write (sizeBytes f.size) (fun l => x.g.regs.ea f.addr l) → x.mayRelease f.order.rel f.scope → x.act ≠ 0#32 →
    8 ≤ x.g.sb.length →
    (∀ p ∈ x.s.parts x.g.key .write x.act (sizeBytes f.size) (fun l => x.g.regs.ea f.addr l),
      ∀ e ∈ x.g.sb, e.sector ≠ p.pa / 32) →
    exec (.stg f) s = .next s) ∧
  (∀ (f : MemF) (s : State) (x : Iss) (o : BRef), prelude (.stAck f) s = .go x →
    x.s.barRef x.g.team x.g.key x.k.die x.g.sr.ackba = some o →
    x.allTranslate .write (sizeBytes f.size) (fun l => x.g.regs.ea f.addr l) → x.mayRelease f.order.rel f.scope →
    x.g.entering = [] →
    ∀ es, es = x.ackEntries f o (x.s.parts x.g.key .write x.act (sizeBytes f.size) (fun l => x.g.regs.ea f.addr l)) →
    x.g.sb.length + es.length ≤ 8 →
    ∃ (t : State) (g : Group), AccessNoted x.s t ∧ exec (.stAck f) s = .next (x.done (t.setGroup x.k g)) ∧
      g.sb = x.g.sb ++ es.mapIdx (fun i (e : SbEntry) => { e with id := x.g.nextId + i }) ∧
      (∃ f1, g.frag x.sl = some f1 ∧ f1.pc = x.next ∧ f1.entering = []) ∧ g.regs = x.g.regs ∧ g.flights = x.g.flights) ∧
  (∀ (f : MemF) (s : State) (x : Iss), prelude (.stAck f) s = .go x →
    x.s.barRef x.g.team x.g.key x.k.die x.g.sr.ackba = none →
    exec (.stAck f) s = .next (s.wordTrap x.k x.sl x.g x.f { code := 0x07, addr := x.g.sr.ackba }))

/-- chk: with an eyelet of its lanes in flight it waits; else it branches when one of them is struck, and clears their struck
eyelets (spec/07 R134). -/
def Claims.ChkResults : Prop :=
  ∀ (t : BitVec 24) (s : State) (x : Iss), prelude (.chk t) s = .go x →
    ((x.s.core x.k.core).eyeletIn x.k.g x.f.mask = true → exec (.chk t) s = .next s) ∧
    ((x.s.core x.k.core).eyeletIn x.k.g x.f.mask = false →
      exec (.chk t) s = .next (x.done (x.s.setGroup x.k ({ x.g with
        sr := { x.g.sr with eystruck := x.g.sr.eystruck &&& ~~~x.f.mask } }.setFrag x.sl (some { x.f with
          pc := if x.g.sr.eystruck &&& x.f.mask = 0#32 then x.next else (x.f.pc &&& ~~~63#64) + t.signExtend 64 * 64#64
          only := none, issueAt := x.cycle + 4 })))))

/-- The cache controls: pf goes on at once, and a pf to L1 asks for a fill of the line, but for one of which its die holds a Live copy or
the locked line; cwb opens one write-back per line, with release order once what R128 asks for holds; cinv drops the die's copies of the
lines whose translation completes at once, but for a line that its slice holds for a lock (spec/07 R137 to R139). -/
def Claims.CacheControls : Prop :=
  (∀ (f : LineF) (l2 : Bool) (s : State) (x : Iss), prelude (.pf f l2) s = .go x →
    (l2 = true ∨ x.atOnceLines f.addr = [] → ∃ t n, AccessNoted x.s t ∧
      exec (.pf f l2) s = .next (x.done (t.setGroup x.k (({ x.g with nextId := n }.unmark x.sl).setFrag x.sl
        (some { x.f with mark := none, pc := x.next, only := none }))))) ∧
    (∀ l, l2 = false → x.atOnceLines f.addr = [l] → (∀ c, tget x.s.copies (x.k.die, l) = some c → live (x.s.wall x.k.m) c.expiry = false) →
      (x.s.line l).point ≠ .slice x.k.die → (∀ p ∈ (x.s.core x.k.core).pfs, p.1 ≠ l) →
      ∃ (t : State) (g : Group), exec (.pf f l2) s = .next (x.done t) ∧ t.group? x.k = some g ∧
        (t.core x.k.core).pfs = (x.s.core x.k.core).pfs ++ [(l, x.k.g, x.g.sr.lease.toNat)] ∧
        g.frag x.sl = some { x.f with mark := none, pc := x.next, only := none } ∧ g.regs = x.g.regs ∧
        t.copies = x.s.copies ∧ t.lines = x.s.lines ∧ t.mem = x.s.mem ∧ t.dev = x.s.dev)) ∧
  (∀ (f : LineF) (s : State) (x : Iss) (ls : List Nat) (ps : List XPart), prelude (.cwb f) s = .go x →
    x.allTranslate .write 1 (fun l => x.g.regs.ea f.addr l &&& ~~~127#64) →
    (f.order.rel = true → x.s.released x.k x.g x.f.mask (f.scope == .sys) = true) →
    ps = x.s.parts x.g.key .write x.act 1 (fun l => x.g.regs.ea f.addr l &&& ~~~127#64) → ls = (ps.map (fun p => lineOf p.pa)).eraseDups →
    ∃ (t : State) (g : Group), AccessNoted x.s t ∧ exec (.cwb f) s = .next (x.done (t.setGroup x.k g)) ∧
      g.wbs = x.g.wbs ++ ls.mapIdx (fun j l => ⟨x.g.nextId + j, x.f.mask, l, x.f.pc,
        ((ps.find? (fun p => lineOf p.pa = l)).map (fun p => p.va)).getD 0, []⟩) ∧
      (∃ f1, g.frag x.sl = some f1 ∧ f1.pc = x.next) ∧ g.regs = x.g.regs ∧ g.sb = x.g.sb ∧ g.flights = x.g.flights) ∧
  (∀ (f : LineF) (s : State) (x : Iss), prelude (.cinv f) s = .go x →
    ∃ t : State, exec (.cinv f) s = .next (x.done t) ∧
      (∃ n, t.group? x.k = some (({ x.g with nextId := n }.unmark x.sl).setFrag x.sl
        (some { x.f with mark := none, pc := x.next, only := none }))) ∧
      (∀ l ∈ x.atOnceLines f.addr, (x.s.line l).point ≠ .slice x.k.die → tget t.copies (x.k.die, l) = none) ∧
      (∀ d l, d ≠ x.k.die ∨ l ∉ x.atOnceLines f.addr ∨ (x.s.line l).point = .slice x.k.die → tget t.copies (d, l) =
        tget x.s.copies (d, l)) ∧
      t.mem = x.s.mem ∧ t.lines = x.s.lines)

/-- chk, pf, cwb and cinv. -/
def Obligations.ChkAndCacheControls : Prop :=
  Claims.ChkResults ∧ Claims.CacheControls

/-- The new value of a word of w bits under each operation code: add wraps, min and max compare by the size's sign, and, or, xor, swap,
compare and swap; fadd.f32 and each half of fadd.bf16 are the exact sum rounded once to nearest even, with no flush (spec/08 R140,
R145). -/
def Claims.AtomicValues : Prop :=
  (∀ (z : ASize) (old v cmp : BitVec (if z.wide then 64 else 32)),
    let lt (a b : BitVec (if z.wide then 64 else 32)) : Bool := if asizeSigned z then a.slt b else a.ult b
    let r (op : Nat) : Nat := atomOp op z old.toNat v.toNat cmp.toNat
    r 0 = (old + v).toNat ∧ r 1 = (if lt v old then v else old).toNat ∧ r 2 = (if lt old v then v else old).toNat ∧
    r 3 = (old &&& v).toNat ∧ r 4 = (old ||| v).toNat ∧ r 5 = (old ^^^ v).toNat ∧ r 6 = v.toNat ∧
    r 7 = (if old = cmp then v else old).toNat) ∧
  (∀ (old v cmp : Word), atomOp 8 .u32 old.toNat v.toNat cmp.toNat =
    (roundTo (Val.add (Fmt.f32.val old.toNat) (Fmt.f32.val v.toNat) false).1 .f32 .rne false 0).1) ∧
  ∀ (old v cmp : Word) (j : Nat), j < 2 → atomOp 9 .u32 old.toNat v.toNat cmp.toNat / 2 ^ (16 * j) % 2 ^ 16 =
    (roundTo (Val.add (Fmt.bf16.val (old.toNat / 2 ^ (16 * j) % 2 ^ 16)) (Fmt.bf16.val (v.toNat / 2 ^ (16 * j) % 2 ^ 16)) false).1
      .bf16 .rne false 0).1

/-- An atomic whose words lie within their sectors and translate, with a release that may leave and no store of its lanes on the
way to its sectors: one outstanding operation opens with its window, one part per active lane with that lane's operands, and no register
and no memory changes (spec/02 R30; spec/08 R142 to R146). -/
def Claims.AtomicsOpen : Prop :=
  ∀ (i : Instr) (o : AtomOp) (la : Nat),
    ((∃ p ∈ atomOps, ∃ f, i = p.2 f ∧ o = AtomF.toOp f p.1 ∧ la = f.la.val) ∨
      (∃ p ∈ atomFOps, ∃ f, i = p.2 f ∧ o = AtomFF.toOp f p.1 ∧ la = f.la.val)) →
    ∀ (s : State) (x : Iss), prelude i s = .go x →
    (∀ l ∈ lanesOf x.act, (x.g.regs.ea o.addr l).toNat % 32 + asizeBytes o.size ≤ 32) →
    x.allTranslate .write (asizeBytes o.size) (fun l => x.g.regs.ea o.addr l) → x.mayRelease o.order.rel o.scope →
    (∀ e ∈ x.g.sb, e.mask &&& x.f.mask = 0#32 ∨ e.st.done = true) →
    ∃ (t : State) (fl : Flight), AccessNoted x.s t ∧
      exec i s = .next (x.done (t.setGroup x.k ((x.g.unmark x.sl).launchFlight x.sl { x.f with mark := none } x.next la fl))) ∧
      fl = { x.flight (.atom o.op o.size o.d false) (Instr.dests i) with acq := o.order.acq, parts := fl.parts } ∧
      fl.parts = (x.s.parts x.g.key .write x.act (asizeBytes o.size) (fun l => x.g.regs.ea o.addr l)).map (fun p =>
        ⟨p.lane, .global, p.pa, p.va, 0, asizeBytes o.size, (x.g.regs.casData o p.lane).2, (x.g.regs.casData o p.lane).1, none, p.leaf⟩)

/-- A reduction under the same conditions, with room in the store buffer: one entry per sector enters it, holding the operands of
its lanes in increasing lane number (spec/08 R146). -/
def Claims.ReductionsEnterTheBuffer : Prop :=
  ∀ (i : Instr) (o : AtomOp),
    ((∃ p ∈ redOps, ∃ f, i = p.2 f ∧ o = AtomF.toOp f p.1) ∨ (∃ p ∈ redFOps, ∃ f, i = p.2 f ∧ o = AtomFF.toOp f p.1)) →
    ∀ (s : State) (x : Iss), prelude i s = .go x →
    (∀ l ∈ lanesOf x.act, (x.g.regs.ea o.addr l).toNat % 32 + asizeBytes o.size ≤ 32) →
    x.allTranslate .write (asizeBytes o.size) (fun l => x.g.regs.ea o.addr l) → x.mayRelease o.order.rel o.scope →
    x.g.entering = [] →
    ∀ ps secs, ps = x.s.parts x.g.key .write x.act (asizeBytes o.size) (fun l => x.g.regs.ea o.addr l) →
    secs = (ps.map (fun p => p.pa / 32)).eraseDups → x.g.sb.length + secs.length ≤ 8 →
    ∃ (t : State) (g : Group), AccessNoted x.s t ∧ exec i s = .next (x.done (t.setGroup x.k g)) ∧
      g.regs = x.g.regs ∧ g.flights = x.g.flights ∧ (∃ f1, g.frag x.sl = some f1 ∧ f1.pc = x.next ∧ f1.entering = []) ∧
      g.sb.take x.g.sb.length = x.g.sb ∧ g.sb.length = x.g.sb.length + secs.length ∧
      ∀ j sec, secs[j]? = some sec → ∃ e, g.sb[x.g.sb.length + j]? = some e ∧ e.id = x.g.nextId + j ∧ e.sector = sec ∧ e.mask = x.f.mask ∧
        e.pc = x.f.pc ∧ e.st = .queued ∧ e.ord = x.g.nextId ∧
        e.va :: e.also = (ps.filter (fun p => p.pa / 32 = sec)).map (fun p => p.va) ∧
        e.op = .red o.op o.size ((ps.filter (fun p => p.pa / 32 = sec)).map (fun p => (p.pa % 32, x.g.regs.data o.size o.d p.lane)))

/-- What an atomic and a reduction send for their lanes, and the new value under each operation code. -/
def Obligations.AtomicWords : Prop :=
  Claims.AtomicValues ∧ Claims.AtomicsOpen ∧ Claims.ReductionsEnterTheBuffer

/-- lck and lck.try: with no active lane the status is 5; on a line that the group holds, with four locks held or a request
waiting, it is 4 and nothing else changes but what the access notes; else a lock request is outstanding, an acquire, with the timeout that
lck.try takes from sD (spec/08 R153, R162). The latency of a status that needs no request is the model's reading (log entry 22). -/
def Claims.LockRequests : Prop :=
  ∀ (f : LckF) (i : Instr) (tmo : Option Nat) (s : State) (x : Iss), prelude i s = .go x →
    ((i = .lck f ∧ tmo = none) ∨ (i = .lckTry f ∧ tmo = some ((x.g.regs.rdS f.d.val).toNat % 2 ^ 32))) →
    (x.act = 0#32 → exec i s = .next (x.done (x.later 9 f.la.val (Instr.dests i) 0 [.s f.d.val 5#64] 0#5))) ∧
    (∀ l va, x.lockLine f.base f.off = .line l va →
      ((x.g.locks.any (fun h => h.line = l) = true ∨ 4 ≤ x.g.locks.length ∨
          ∃ fl ∈ x.g.flights, ∃ d l' v t b, fl.kind = .lock d l' v t b) →
        ∃ t : State, AccessNoted x.s t ∧
          exec i s = .next (x.done (({ x with s := t } : Iss).later 9 f.la.val (Instr.dests i) 0 [.s f.d.val 4#64] 0#5))) ∧
      (x.g.locks.any (fun h => h.line = l) = false → x.g.locks.length < 4 →
        (∀ fl ∈ x.g.flights, ∀ d l' v t b, fl.kind ≠ .lock d l' v t b) →
        ∃ (t : State) (fl : Flight), AccessNoted x.s t ∧
          exec i s = .next (x.done (t.setGroup x.k ((x.g.unmark x.sl).launchFlight x.sl { x.f with mark := none } x.next f.la.val fl))) ∧
          fl = { x.flight (.lock f.d.val l va tmo false) (Instr.dests i) with acq := true }))

/-- unlk: with no active lane it only advances; on a line that the group does not hold it traps with code 0x0D; else, when its
release may leave, the group no longer holds the line, which the home hands on, asked by a request where it lies on another module
(spec/08 R156, R161; spec/11 R229). That the lock is in handoff from the word's issue on is the model's choice (log entry 12). -/
def Claims.UnlockWord : Prop :=
  ∀ (f : UnlkF) (s : State) (x : Iss), prelude (.unlk f) s = .go x →
    (x.act = 0#32 → ∃ g, exec (.unlk f) s = .next (x.done (x.s.setGroup x.k g)) ∧ g.locks = x.g.locks ∧ g.regs = x.g.regs ∧
      ∃ f1, g.frag x.sl = some f1 ∧ f1.pc = x.next) ∧
    (∀ l va, x.lockLine f.base f.off = .line l va →
      ((∀ h ∈ x.g.locks, h.line ≠ l) → exec (.unlk f) s =
        .next (s.wordTrap x.k x.sl x.g x.f { code := 0x0D, addr := va, walks := x.s.walked x.g.key va })) ∧
      ((∃ h ∈ x.g.locks, h.line = l) → x.mayRelease true f.scope →
        ∃ (t : State) (g : Group), exec (.unlk f) s = .next (x.done (t.setGroup x.k g)) ∧
          g.locks = x.g.locks.filter (fun h => h.line ≠ l) ∧ g.regs = x.g.regs ∧
          (∃ f1, g.frag x.sl = some f1 ∧ f1.pc = x.next) ∧
          (∃ i r, t.unlks = x.s.unlks ++ [⟨i, x.k, x.g.key, x.g.team, x.g.gidx, x.f.mask, l, va, x.f.pc, r, false, x.g.nextId⟩] ∧
            (r = none ↔ lineMod l = x.k.m)) ∧
          (t.line l).lock = (x.s.line l).lock.map (fun e => { e with st := .handoff }) ∧
          (∀ l', l' ≠ l → t.line l' = x.s.line l') ∧ t.mem = x.s.mem))

/-- lck, lck.try and unlk. -/
def Obligations.LockWords : Prop :=
  Claims.LockRequests ∧ Claims.UnlockWord

/-- The barrier words on an object whose address passes its check: bar.init, bar.expect, bar.arrive and bar.test send one request
to the object's unit, behind those before it, and bar.arrive and bar.test open a window for the report; no register, no memory and no
object changes (spec/09 R175, R177 to R180, R182). -/
def Claims.BarrierRequests : Prop :=
  ∀ (f : BarF) (s : State) (x : Iss) (ba : DWord) (o : BRef), ba = x.g.regs.sbase f.base f.off →
    x.s.barRef x.g.team x.g.key x.k.die ba = some o →
    (prelude (.barInit f) s = .go x → (x.g.regs.rdS f.b.val).setWidth 16 ≠ 0#16 →
      exec (.barInit f) s = .next (x.done { x.s with
        groups := tset x.s.groups x.k (x.g.setFrag x.sl (some { x.f with pc := x.next, only := none }))
        barq := x.s.barq ++ [⟨o, .init ((x.g.regs.rdS f.b.val >>> 32).setWidth 32) ((x.g.regs.rdS f.b.val).setWidth 16),
          .group x.k x.sl x.g.gidx none ba x.f.pc 0, x.g.key, x.g.team⟩] })) ∧
    (prelude (.barInit f) s = .go x → (x.g.regs.rdS f.b.val).setWidth 16 = 0#16 →
      exec (.barInit f) s = .next (s.wordTrap x.k x.sl x.g x.f { code := 0x10 })) ∧
    (prelude (.barExpect f) s = .go x →
      exec (.barExpect f) s = .next (x.done { x.s with
        groups := tset x.s.groups x.k (x.g.setFrag x.sl (some { x.f with pc := x.next, only := none }))
        barq := x.s.barq ++ [⟨o, .step false ((x.g.regs.rdS f.b.val).setWidth 32 : Word).toInt,
          .group x.k x.sl x.g.gidx none ba x.f.pc 1, x.g.key, x.g.team⟩] })) ∧
    (prelude (.barArrive f) s = .go x → x.mayRelease f.order.rel f.scope →
      ∃ fl : Flight, exec (.barArrive f) s = .next (x.done { x.s with
        groups := tset x.s.groups x.k (x.g.launchFlight x.sl x.f x.next f.la.val fl)
        barq := x.s.barq ++ [⟨o, .step true ((x.g.regs.rdS f.b.val).setWidth 32 : Word).toInt,
          .group x.k x.sl x.g.gidx (some x.g.nextId) ba x.f.pc 0, x.g.key, x.g.team⟩] }) ∧
        fl.kind = .bar f.d.val false 0 ∧ fl.mask = x.f.mask ∧ fl.dests = Instr.dests (.barArrive f) ∧ fl.ready = false ∧ fl.acq = false) ∧
    (prelude (.barTest f) s = .go x →
      ∃ fl : Flight, exec (.barTest f) s = .next (x.done { x.s with
        groups := tset x.s.groups x.k (x.g.launchFlight x.sl x.f x.next f.la.val fl)
        barq := x.s.barq ++ [⟨o, .test ((x.g.regs.rdS f.b.val).setWidth 32),
          .group x.k x.sl x.g.gidx (some x.g.nextId) ba x.f.pc 0, x.g.key, x.g.team⟩] }) ∧
        fl.kind = .bar f.d.val true ((x.g.regs.rdS f.b.val).setWidth 32) ∧ fl.mask = x.f.mask ∧
        fl.dests = Instr.dests (.barTest f) ∧ fl.ready = false ∧ fl.acq = f.order.acq)

/-- bar.wait, once no request of its group is on the way to the object: where the object's phase is not sB it goes on and the team
counts a phase; where it is, the fragment waits at the barrier (spec/09 R181; spec/18 R328). That it reads the phase at its issue, and
waits for such requests first, is the model's choice (log entry 11). -/
def Claims.BarrierWait : Prop :=
  ∀ (f : BarF) (s : State) (x : Iss) (o : BRef) (v : Nat), prelude (.barWait f) s = .go x →
    x.s.barRef x.g.team x.g.key x.k.die (x.g.regs.sbase f.base f.off) = some o → x.s.objRead o = some v →
    x.s.barPending x.g.team x.g.gidx o = false →
    (v % 2 ^ 32 = (x.g.regs.rdS f.b.val).toNat % 2 ^ 32 →
      exec (.barWait f) s = .next (x.done (x.s.setGroup x.k (x.g.setFrag x.sl (some { x.f with
        wait := some ⟨x.g.regs.sbase f.base f.off, o, (x.g.regs.rdS f.b.val).setWidth 32, f.order.acq, (x.s.module x.k.m).wall, false⟩
        only := none }))))) ∧
    (v % 2 ^ 32 ≠ (x.g.regs.rdS f.b.val).toNat % 2 ^ 32 →
      (f.order.acq = true → (x.s.core x.k.core).eyeletIn x.k.g x.f.mask = false) →
      exec (.barWait f) s = .next (x.done ((x.s.setGroup x.k (x.g.setFrag x.sl (some { x.f with pc := x.next, only := none }))).modTeam
        x.g.team (fun t => { t with phc := t.phc + 1 }))))

/-- A barrier word whose address fails the check of its level traps with code 0x07 and the address (spec/09 R174, R177). -/
def Claims.BarrierAddressTraps : Prop :=
  ∀ (i : Instr) (f : BarF) (s : State) (x : Iss),
    i ∈ [.barInit f, .barArrive f, .barExpect f, .barWait f, .barTest f] → prelude i s = .go x →
    x.s.barRef x.g.team x.g.key x.k.die (x.g.regs.sbase f.base f.off) = none →
    exec i s = .next (s.wordTrap x.k x.sl x.g x.f { code := 0x07, addr := x.g.regs.sbase f.base f.off })

/-- The barrier words: requests, waits and the trap of a bad address. -/
def Obligations.BarrierWords : Prop :=
  Claims.BarrierRequests ∧ Claims.BarrierWait ∧ Claims.BarrierAddressTraps

/-- What the barrier unit does with one step (spec/09 R176): an unset object and a late arrival change only the error fields;
else the pending bytes take db, clamped to 32 bits, an arrival takes one from the pending arrivals, and when none is left and no byte
is pending the phase advances and the arrivals are reloaded. -/
def Obligations.BarrierStepRule : Prop :=
  ∀ (o : BarObj) (da : Bool) (db : Int), -(2 ^ 31) ≤ o.bpend → o.bpend < 2 ^ 31 →
    (o.aper = 0 → o.step da db = ({ o with ecode := 3, ecnt := min (o.ecnt + 1) 0xFFFF }, .none)) ∧
    (o.aper ≠ 0 → da = true → o.apend = 0 → o.step da db = ({ o with ecode := 1, ecnt := min (o.ecnt + 1) 0xFFFF }, .dropped)) ∧
    (o.aper ≠ 0 → (da = true → o.apend ≠ 0) → -(2 ^ 31) ≤ o.bpend + db → o.bpend + db < 2 ^ 31 →
      ¬ ((if da then o.apend - 1 else o.apend) = 0 ∧ o.bpend + db ≤ 0) →
      o.step da db = ({ o with bpend := o.bpend + db, apend := if da then o.apend - 1 else o.apend }, .none)) ∧
    (o.aper ≠ 0 → (da = true → o.apend ≠ 0) → 2 ^ 31 ≤ o.bpend + db →
      o.step da db = ({ o with ecode := 4, ecnt := min (o.ecnt + 1) 0xFFFF, bpend := 2 ^ 31 - 1,
                               apend := if da then o.apend - 1 else o.apend }, .none)) ∧
    (o.aper ≠ 0 → (da = true → o.apend ≠ 0) → o.bpend + db < -(2 ^ 31) → (if da then o.apend - 1 else o.apend) ≠ 0 →
      o.step da db = ({ o with ecode := 4, ecnt := min (o.ecnt + 1) 0xFFFF, bpend := -(2 ^ 31),
                               apend := if da then o.apend - 1 else o.apend }, .none)) ∧
    (o.aper ≠ 0 → (da = true → o.apend ≠ 0) → o.bpend + db = 0 → (if da then o.apend - 1 else o.apend) = 0 →
      o.step da db = ({ o with bpend := 0, phase := (o.phase + 1) % 2 ^ 32, apend := o.aper }, .completed)) ∧
    (o.aper ≠ 0 → (da = true → o.apend ≠ 0) → o.bpend + db < 0 → -(2 ^ 31) ≤ o.bpend + db →
      (if da then o.apend - 1 else o.apend) = 0 →
      o.step da db = ({ o with ecode := 2, ecnt := min (o.ecnt + 1) 0xFFFF, ovr := true, bpend := 0,
                               phase := (o.phase + 1) % 2 ^ 32, apend := o.aper }, .completed)) ∧
    (o.aper ≠ 0 → (da = true → o.apend ≠ 0) → o.bpend + db < -(2 ^ 31) → (if da then o.apend - 1 else o.apend) = 0 →
      o.step da db = ({ o with ecode := 2, ecnt := min (min (o.ecnt + 1) 0xFFFF + 1) 0xFFFF, ovr := true, bpend := 0,
                               phase := (o.phase + 1) % 2 ^ 32, apend := o.aper }, .completed))

/-- The step BARRIER performs one arrived request whose object exists, in the order of its issuer: the object takes its new value,
the issuer of an arrival or a test is told the phase before and the outcome, and every waiter whose phase has passed goes on (spec/09
R175, R176, R179, R182). -/
def Obligations.BarrierUnitStep : Prop :=
  ∀ (s : State) (i : Nat) (q : BarReq) (v : Nat), s.barq[i]? = some q → (∀ p ∈ s.barq.take i, p.sameIssuer q = false) →
    State.objGone { s with barq := s.barq.eraseIdx i } q.o = false →
    State.reqObj { s with barq := s.barq.eraseIdx i } q = some v →
    exec (.barrier i) s = .next
      ((((State.objWrite { s with barq := s.barq.eraseIdx i } q.o (q.op.perform v).1).barReply q v (q.op.perform v).2.1
        (q.op.perform v).2.2)).reeval) ∧
    (∀ ph ap, q.op = .init ph ap → (q.op.perform v).1 = (BarObj.toNat ⟨false, 0, 0, 0, ap.toNat, ap.toNat, ph.toNat⟩)) ∧
    (∀ ph, q.op = .test ph → (q.op.perform v).1 = v ∧ (q.op.perform v).2.1 = if v % 2 ^ 32 = ph.toNat then 0#64 else 1#64) ∧
    (∀ da db, q.op = .step da db → (q.op.perform v).1 = ((BarObj.ofNat v).step da db).1.toNat ∧
      (q.op.perform v).2.1 = BitVec.ofNat 64 (v % 2 ^ 32 +
        (match ((BarObj.ofNat v).step da db).2 with | .none => 0 | .completed => 2 ^ 32 | .dropped => 2 ^ 33)))

/-- The fences: fence.acq goes on when the fragment's earlier loads, tile loads, atomics and lock requests have landed and its eyelets are
resolved,
fence.rel when its earlier accesses are performed and committed, fence.full and fence.x when the paths they name have done so too.
fence.x and fence.full wait for what the group had issued when they began and, from an engine path, for the horizon and the writes that
the path's instances had once its operations were complete; until then the fragment stays at the word and keeps that and the paths to
which it fences (spec/07 R128, R135; spec/09 R184 to R188). -/
def Obligations.Fences : Prop :=
  ∀ (s : State) (x : Iss) (sc : Scope) (goes : State) (waits : FenceAt → State),
    goes = x.done (x.s.setGroup x.k (x.g.setFrag x.sl (some { x.f with pc := x.next, only := none }))) →
    (∀ fa, waits fa = x.s.modGroup x.k (fun g => g.setFrag x.sl ((g.frag x.sl).map (fun f => { f with fence := some fa })))) →
    (((x.s.group? x.k).bind (fun g => g.frag x.sl)).bind (fun (f : Frag) => f.fence) = none →
      x.fence = ⟨x.g.nextId, x.s.nextId, [], []⟩) ∧
    (prelude (.fenceAcq sc) s = .go x →
      (x.acquired = true → exec (.fenceAcq sc) s = .next goes) ∧ (x.acquired = false → exec (.fenceAcq sc) s = .next s)) ∧
    (prelude (.fenceRel sc) s = .go x →
      (x.mayRelease true sc → exec (.fenceRel sc) s = .next goes) ∧
      (x.s.released x.k x.g x.f.mask (sc == .sys) = false → exec (.fenceRel sc) s = .next s) ∧
      (x.s.released x.k x.g x.f.mask (sc == .sys) = true → (x.s.core x.k.core).eyeletIn x.k.g x.f.mask = false →
        x.g.sr.eystruck &&& x.f.mask ≠ 0#32 →
        exec (.fenceRel sc) s = .next (s.wordTrap x.k x.sl x.g x.f { code := 0x0C }))) ∧
    (prelude (.fenceFull sc) s = .go x → x.mayRelease true sc → x.acquired = true →
      (∀ p ∈ fencePaths sc,
        (∃ h ∈ x.fence.hz, h.1 = p ∧ passed (x.s.wall x.k.m) h.2.1 = true ∧ x.s.gwctsIn p sc x.k.core h.2.2 = true) ∨
        ((∀ h ∈ x.fence.hz, h.1 ≠ p) ∧ x.s.pathDone x.g.team x.g.gidx x.fence p = true ∧
          passed (x.s.wall x.k.m) (x.s.horizon p sc x.k.core) = true ∧ x.s.gwctsIn p sc x.k.core x.s.nextId = true)) →
      exec (.fenceFull sc) s = .next goes) ∧
    (∀ q, prelude (.fenceX .group q sc) s = .go x →
      (x.s.groupDone x.k x.g x.fence = true → x.s.released x.k x.g x.f.mask (sc == .sys) = true →
        exec (.fenceX .group q sc) s = .next goes) ∧
      (x.s.groupDone x.k x.g x.fence = false → exec (.fenceX .group q sc) s = .next (waits { x.fence with dsts := [q] }))) ∧
    (∀ p q, p ≠ .group → prelude (.fenceX p q sc) s = .go x →
      (∀ h ∈ x.fence.hz, h.1 = p → (q = .group → passed (x.s.wall x.k.m) h.2.1 = true) →
        (q ≠ .group → x.s.gwctsIn p sc x.k.core h.2.2 = true) → exec (.fenceX p q sc) s = .next goes) ∧
      ((∀ h ∈ x.fence.hz, h.1 ≠ p) →
        (x.s.pathDone x.g.team x.g.gidx x.fence p = false → exec (.fenceX p q sc) s = .next (waits { x.fence with dsts := [q] })) ∧
        (x.s.pathDone x.g.team x.g.gidx x.fence p = true →
          (if q = .group then passed (x.s.wall x.k.m) (x.s.horizon p sc x.k.core) else x.s.gwctsIn p sc x.k.core x.s.nextId) = true →
          exec (.fenceX p q sc) s = .next goes) ∧
        (x.s.pathDone x.g.team x.g.gidx x.fence p = true →
          (if q = .group then passed (x.s.wall x.k.m) (x.s.horizon p sc x.k.core) else x.s.gwctsIn p sc x.k.core x.s.nextId) = false →
          exec (.fenceX p q sc) s =
            .next (waits { x.fence with hz := x.fence.hz ++ [(p, x.s.horizon p sc x.k.core, x.s.nextId)], dsts := [q] }))))

/-- cpy and cpy.2d: a copy whose rows or bytes are none only advances; one that breaks a rule of R196 traps; else, with room in the
queue, one copy operation for the rows joins the core's queue, and no register and no memory changes (spec/10 R196, R197, R201). -/
def Claims.CopyRequests : Prop :=
  ∀ (f : CpyF) (s : State) (x : Iss) (two : Bool) (c : CopyArgs) (i : Instr),
    (i = if two then .cpy2d f else .cpy f) →
    (c = if two then ⟨(x.g.regs.rdS f.b.val).toNat / 2 ^ 32 % 2 ^ 16, (x.g.regs.rdS f.b.val).toNat % 2 ^ 32,
        x.g.regs.rdS f.a.val, x.g.regs.rdS f.d.val, f.sstride.toInt, f.dstride.toInt⟩
      else ⟨1, (x.g.regs.rdS f.b.val).toNat % 2 ^ 32, x.g.regs.rdS f.a.val, x.g.regs.rdS f.d.val, 0, 0⟩) →
    prelude i s = .go x →
    (∀ t, x.copyCheck f two c (x.g.regs.rdS f.c.val) = some t → exec i s = .next (s.wordTrap x.k x.sl x.g x.f t)) ∧
    (x.copyCheck f two c (x.g.regs.rdS f.c.val) = none →
      (c.rows = 0 ∨ c.len = 0 → exec i s = .next (x.done (x.s.setGroup x.k (x.g.setFrag x.sl
        (some { x.f with pc := x.next, only := none }))))) ∧
      (c.rows ≠ 0 → c.len ≠ 0 → (x.s.core x.k.core).copies.length < 64 → x.s.copiesOf x.g.team x.g.gidx < 16 →
        ∃ o : CopyOp, exec i s = .next (x.done ((State.modCore { x.s with nextId := x.s.nextId + 1 } x.k.core
            (fun k => { k with copies := k.copies ++ [o] })).setGroup x.k
              (x.g.setFrag x.sl (some { x.f with pc := x.next, only := none })))) ∧
          o.id = x.s.nextId ∧ o.team = x.g.team ∧ o.gidx = x.g.gidx ∧ o.key = x.g.key ∧ o.pc = x.f.pc ∧ o.slv = f.slv ∧
          o.dlv = f.dlv ∧ o.pieces = c.pieces ∧ o.moved = 0 ∧ o.total = c.rows * c.len ∧
          o.grp = x.k.g ∧ o.die = x.k.die ∧ o.note = ⟨[], none, []⟩ ∧
          o.obj = x.s.copyObj x.g.team x.g.key x.k.die f (x.g.regs.rdS f.c.val)) ∧
      (c.rows ≠ 0 → c.len ≠ 0 → 64 ≤ (x.s.core x.k.core).copies.length ∨ 16 ≤ x.s.copiesOf x.g.team x.g.gidx →
        exec i s = .next s))

/-- The pieces of a copy cover its destination rows exactly: their lengths add to rows times length, each is at most 32 bytes and
stays within a 32-byte-aligned range of the destination, and the sources advance with the destinations (spec/10 R197). -/
def Claims.CopyPiecesCover : Prop :=
  ∀ (c : CopyArgs), (c.pieces.map (fun p => p.len)).sum = c.rows * c.len ∧
    ∀ p ∈ c.pieces, p.st = .todo ∧ 0 < p.len ∧ p.dst.toNat % 32 + p.len ≤ 32 ∧
      ∃ i j, i < c.rows ∧ j + p.len ≤ c.len ∧ p.src = c.src + BitVec.ofInt 64 ((i : Int) * c.sstride) + BitVec.ofNat 64 j ∧
        p.dst = c.dst + BitVec.ofInt 64 ((i : Int) * c.dstride) + BitVec.ofNat 64 j

/-- cpy.wait: with more copies of its group incomplete than N it waits; else sD takes the count of its failed copies, which is
cleared (spec/10 R202). -/
def Claims.CopyWait : Prop :=
  ∀ (d : SReg) (n : Fin 16) (s : State) (x : Iss), prelude (.cpyWait d n) s = .go x →
    (n.val < x.s.copiesOf x.g.team x.g.gidx → exec (.cpyWait d n) s = .next s) ∧
    (x.s.copiesOf x.g.team x.g.gidx ≤ n.val → exec (.cpyWait d n) s = .next (x.done
      (({ x with g := { x.g with cpyErr := 0 } } : Iss).short (Instr.dests (.cpyWait d n))
        (x.g.regs.wrS d.val (BitVec.ofNat 64 (min x.g.cpyErr (2 ^ 32 - 1)))))))

/-- cpy, cpy.2d and cpy.wait, and the pieces of a copy. -/
def Obligations.CopyWords : Prop :=
  Claims.CopyRequests ∧ Claims.CopyPiecesCover ∧ Claims.CopyWait

/-- The tile words, with room in the matrix engine queue: each joins the queue with its operands as they stand at issue, the moves
after their rows are found within the team's region; nothing else changes (spec/10 R204, R207, R208, R210, R211, R213, R215,
R220). -/
def Claims.TileWordsJoinTheQueue : Prop :=
  ∀ (s : State) (x : Iss), (x.s.core x.k.core).tileQ.length < 8 →
    ∀ (i : Instr) (op : TileOp),
    ((∃ acc j, i = .tzero acc j ∧ op = .zero acc j.val) ∨
      (∃ f, i = .mmac f ∧ op = .mmac f x.g.sr.mrows x.g.sr.ncols) ∨
      (∃ f, i = .mmacg f ∧ (x.g.regs.rdS f.c.val).toNat % 2 ^ 32 % 64 = 0 ∧ 64 ≤ (x.g.regs.rdS f.c.val).toNat % 2 ^ 32 ∧
        (x.g.regs.rdS f.c.val).toNat % 2 ^ 32 ≤ 2 ^ 24 ∧ (f.mx = true → f.c.val ≤ 61) ∧
        op = .mmacg f (x.g.regs.rdS f.a.val) (x.g.regs.rdS f.b.val) ((x.g.regs.rdS f.c.val).toNat % 2 ^ 32)
          (x.g.regs.rdS (f.c.val + 1)) (x.g.regs.rdS (f.c.val + 2)) x.g.sr.mrows x.g.sr.ncols) ∨
      (∃ f, i = .tcvt f ∧ op = .cvt f x.g.rm (x.g.regs.rdS f.b.val) x.g.sr.mrows x.g.sr.ncols) ∨
      (∃ (f : TileMvF) (st : Bool) (base p rows len : Nat), i = (if st then .tst f else .tld f) ∧
        base = (x.g.regs.sbase f.base f.off).toNat ∧
        p = (if f.side then 0 else if (x.g.regs.rdS f.pitch.val).toNat % 2 ^ 18 =
          0 then 128 else (x.g.regs.rdS f.pitch.val).toNat % 2 ^ 18) ∧
        rows = (if f.side then 1 else 64) ∧ len = (if f.side then 256 else 128) ∧
        op = (if st then .st f.t.val f.side base p else .ld f.t.val f.side base p) ∧
        ∀ j, j < rows → base + j * p + len ≤ ((x.s.team? x.g.team).map (fun t => t.s)).getD 0) ∨
      (∃ (f : AccMvF) (st : Bool) (base p : Nat), i = (if st then .taccSt f else .taccLd f) ∧
        base = (x.g.regs.sbase f.base f.off).toNat ∧
        p = (if (x.g.regs.rdS f.pitch.val).toNat % 2 ^ 18 = 0 then 256 else (x.g.regs.rdS f.pitch.val).toNat % 2 ^ 18) ∧
        op = (if st then .accSt f.acc.val base p else .accLd f.acc.val base p) ∧
        ∀ j, j < 64 → base + j * p + 256 ≤ ((x.s.team? x.g.team).map (fun t => t.s)).getD 0)) →
    prelude i s = .go x →
    exec i s = .next (x.done ((x.s.modCore x.k.core (fun c =>
        { c with tileQ := c.tileQ ++ [⟨x.g.nextId, op, x.g.gidx, x.f.mask, x.f.pc, x.k.g, ⟨[], none, []⟩, false, [], []⟩] })).setGroup x.k
          ({ x.g with nextId := x.g.nextId + 1 }.setFrag x.sl (some { x.f with pc := x.next, only := none }))))

/-- The tile words wait while the matrix engine queue is full; a move whose rows leave the region traps with code 0x07 and the first
byte outside; an mmacg with a K that R215 does not allow traps with code 0x13 (spec/10 R204, R210, R215). -/
def Claims.TileWordsWaitOrTrap : Prop :=
  ∀ (s : State) (x : Iss) (i : Instr), Instr.isTile i = true → prelude i s = .go x →
    (8 ≤ (x.s.core x.k.core).tileQ.length → exec i s = .next s) ∧
    ((x.s.core x.k.core).tileQ.length < 8 →
      (∀ f, i = .mmacg f → ((x.g.regs.rdS f.c.val).toNat % 2 ^ 32 % 64 ≠ 0 ∨ (x.g.regs.rdS f.c.val).toNat % 2 ^ 32 < 64 ∨
          2 ^ 24 < (x.g.regs.rdS f.c.val).toNat % 2 ^ 32 ∨ (f.mx = true ∧ 61 < f.c.val)) →
        exec i s = .next (s.wordTrap x.k x.sl x.g x.f { code := 0x13 })) ∧
      (∀ f a, (i = .tld f ∨ i = .tst f) → rowsOut (x.g.regs.sbase f.base f.off).toNat (if f.side then 0 else x.pitch f.pitch 128)
          (if f.side then 1 else 64) (if f.side then 256 else 128) (((x.s.team? x.g.team).map (fun t => t.s)).getD 0) = some a →
        exec i s = .next (s.wordTrap x.k x.sl x.g x.f { code := 0x07, addr := BitVec.ofNat 64 a })) ∧
      (∀ f a, (i = .taccLd f ∨ i = .taccSt f) → rowsOut (x.g.regs.sbase f.base f.off).toNat (x.pitch f.pitch 256) 64 256
          (((x.s.team? x.g.team).map (fun t => t.s)).getD 0) = some a →
        exec i s = .next (s.wordTrap x.k x.sl x.g x.f { code := 0x07, addr := BitVec.ofNat 64 a })))

/-- The tile words join the matrix engine queue, wait or trap. -/
def Obligations.TileWords : Prop :=
  Claims.TileWordsJoinTheQueue ∧ Claims.TileWordsWaitOrTrap

/-- ffl.arr, ffl.b32 and ffl.b64 whose addresses are good: one flag per active lane (per sector of it for the store forms) leaves for
its module in increasing lane number, each after the writes to that module that its group issued before the word; the fragment goes on, and
no register, no memory and no store-buffer entry changes (spec/11 R237, R238). -/
def Claims.FlagsLeave : Prop :=
  (∀ (f : FflF) (s : State) (x : Iss), prelude (.fflArr f) s = .go x →
    (∀ l ∈ lanesOf x.act, flagBaOk (x.g.regs.ea f.addr l &&& 0xFC00FFFFFFFFFFFF#64).toNat = true ∧
      x.s.reachable x.k.m ((x.g.regs.ea f.addr l).toNat / 2 ^ 48 % 1024) = true) →
    ∃ (t : State) (fs : List Flag), exec (.fflArr f) s = .next (x.done (t.setGroup x.k ({ x.g with
        nextId := x.g.nextId + 1 }.setFrag x.sl (some { x.f with mark := none, pc := x.next, only := none })))) ∧
      t.mem = x.s.mem ∧ t.groups = x.s.groups ∧ t.flags = x.s.flags ++ fs ∧
      fs.map (fun q => (q.lane, q.m, q.ba, q.va)) = (lanesOf x.act).map (fun l =>
        (l, (x.g.regs.ea f.addr l).toNat / 2 ^ 48 % 1024, some (x.g.regs.ea f.addr l &&& 0xFC00FFFFFFFFFFFF#64), x.g.regs.ea f.addr l)) ∧
      ∀ q ∈ fs, q.k = x.k ∧ q.team = x.g.team ∧ q.performed = false ∧ q.bytes = [] ∧
        q.mask = x.f.mask ∧ q.ord = x.g.nextId ∧ q.waits = x.s.openWrites x.g q.m ∧
        q.ts = (x.g.gwm.filter (fun e => e.1 / 1024 = q.m)).map (fun e => (e.1 % 1024, e.2)) ∧ q.req.isSome = decide (q.m ≠ x.k.m)) ∧
  (∀ (f : FflF) (s : State) (x : Iss) (i : Instr) (z : MSize), (i, z) ∈ [(.fflB32 f, .b32), (.fflB64 f, .b64)] → prelude i s = .go x →
    x.allTranslate .write (sizeBytes z) (fun l => x.g.regs.ea f.addr l) →
    ∃ (t : State) (fs : List Flag),
      exec i s = .next (x.done (t.setGroup x.k ({ x.g with nextId := x.g.nextId + 1 }.setFrag x.sl
        (some { x.f with mark := none, pc := x.next, only := none })))) ∧
      t.mem = x.s.mem ∧ t.groups = x.s.groups ∧ t.flags = x.s.flags ++ fs ∧
      fs.map (fun q => (q.lane, q.m, q.ba, q.va, q.pa, q.bytes)) =
        (x.s.parts x.g.key .write x.act (sizeBytes z) (fun l => x.g.regs.ea f.addr l)).map (fun p =>
          (p.lane, paMod p.pa, none, p.va, p.pa, ((storeBytes x.g.regs z f.d.val p.lane).drop p.off).take p.len)) ∧
      ∀ q ∈ fs, q.k = x.k ∧ q.team = x.g.team ∧ q.performed = false ∧ q.mask = x.f.mask ∧ q.ord = x.g.nextId ∧
        q.waits = x.s.openWrites x.g q.m ∧
        q.ts = (x.g.gwm.filter (fun e => e.1 / 1024 = q.m)).map (fun e => (e.1 % 1024, e.2)) ∧ q.req.isSome = decide (q.m ≠ x.k.m))

/-- A flag to the barrier of another module whose address fails the check of its level traps with code 0x07; else one to a module that
is not reachable traps with code 0x15 and the module in the detail; no flag leaves (spec/11 R237). -/
def Claims.FlagTraps : Prop :=
  ∀ (f : FflF) (s : State) (x : Iss) (l : Nat), prelude (.fflArr f) s = .go x →
    ((lanesOf x.act).find? (fun l => !flagBaOk (x.g.regs.ea f.addr l &&& 0xFC00FFFFFFFFFFFF#64).toNat) = some l →
      ∃ t, exec (.fflArr f) s = .next (s.wordTrap x.k x.sl x.g x.f t) ∧ t.code = 0x07 ∧ t.addr = x.g.regs.ea f.addr l) ∧
    ((∀ l ∈ lanesOf x.act, flagBaOk (x.g.regs.ea f.addr l &&& 0xFC00FFFFFFFFFFFF#64).toNat = true) →
      (lanesOf x.act).find? (fun l => !x.s.reachable x.k.m ((x.g.regs.ea f.addr l).toNat / 2 ^ 48 % 1024)) = some l →
      ∃ t, exec (.fflArr f) s = .next (s.wordTrap x.k x.sl x.g x.f t) ∧ t.code = 0x15 ∧ t.addr = x.g.regs.ea f.addr l ∧
        t.detail = (x.g.regs.ea f.addr l).toNat / 2 ^ 48 % 1024)

/-- The flag words: one flag per lane leaves, and their traps. -/
def Obligations.FlagWords : Prop :=
  Claims.FlagsLeave ∧ Claims.FlagTraps

/-- shtl and shtl.t: with a store of the group still in its store buffer the word waits; else one packet per active lane leaves,
at the lane's start address plus the first offset, with a deadline 50,000 ns of WALLTIME away, and one outstanding
instruction waits for them all (spec/11 R239, R240, R242). -/
def Obligations.ShuttleWords : Prop :=
  ∀ (f : ShtlF) (s : State) (x : Iss) (i : Instr) (trap : Bool), (i, trap) ∈ [(.shtl f, false), (.shtlT f, true)] →
    prelude i s = .go x → 0 < f.nstep.val →
    (x.g.sb ≠ [] ∨ x.g.entering ≠ [] → exec i s = .next s) ∧
    (x.g.sb = [] → x.g.entering = [] →
      ∃ (t : State) (ps : List Shuttle) (fl : Flight),
        exec i s = .next (x.done (t.setGroup x.k ((x.g.unmark x.sl).launchFlight x.sl { x.f with mark := none } x.next f.la.val fl))) ∧
        t.mem = x.s.mem ∧ t.groups = x.s.groups ∧ t.shuttles = x.s.shuttles ++ ps ∧
        ps.map (fun p => (p.lane, p.addr)) = (lanesOf x.act).map (fun l =>
          (l, x.g.regs.rdV64 f.a.val l + (((x.g.regs.rdS f.b.val).setWidth 32 : Word).signExtend 64 : DWord))) ∧
        (∀ p ∈ ps, p.k = x.k ∧ p.fl = x.g.nextId ∧ p.at_ = x.k.m ∧ p.i = 0 ∧ p.nstep = f.nstep.val ∧ p.widths = f.stepw ∧
          p.trav = 0 ∧ p.deadline = x.s.wall x.k.m + 50000 ∧ p.res = none ∧ p.dead = false ∧
          ∀ j, j < f.nstep.val → p.offs[j]? = some (if j % 2 = 0 then (x.g.regs.rdS (f.b.val + j / 2)).setWidth 32
            else (x.g.regs.rdS (f.b.val + j / 2) >>> 32).setWidth 32)) ∧
        fl = { x.flight (.shuttle f.d.val f.c.val trap (lanesOf x.act).length) (Instr.dests i) with
          ready := (lanesOf x.act).isEmpty })

/-- The four collectives, with room in the die's engine and a good barrier address: the status of spec/11 R243 lands at once, and
status 0 starts one operation of the member, the next of its sequence for the shard group; 16 operations of the die or 4 of the context's
shard group make the word wait, and a barrier address that fails its check traps with code 0x07 (spec/11 R243, R244). -/
def Claims.CollectivesStart : Prop :=
  ∀ (d p : SReg) (s : State) (x : Iss) (i : Instr) (k : CollKind),
    (i, k) ∈ [(Instr.collAg d p, CollKind.ag), (.collRs d p, .rs), (.collAr d p, .ar), (.collBc d p, .bc)] → prelude i s = .go x →
    ∀ (w2 : DWord) (sg st : Nat), w2 = x.g.regs.rdS (p.val + 2) → sg = w2.toNat / 2 ^ 32 % 256 →
    st = x.s.collStatus x.g.key k (x.g.regs.rdS p.val) (x.g.regs.rdS (p.val + 1)) w2.toNat →
    (16 ≤ (x.s.colls.filter (fun o => o.die = x.k.die)).length ∨
      4 ≤ (x.s.colls.filter (fun o => o.key = x.g.key ∧ o.sg = sg)).length → exec i s = .next s) ∧
    ((x.s.colls.filter (fun o => o.die = x.k.die)).length < 16 →
      (x.s.colls.filter (fun o => o.key = x.g.key ∧ o.sg = sg)).length < 4 →
      (x.s.barRef x.g.team x.g.key x.k.die (x.g.regs.rdS (p.val + 3)) = none →
        exec i s = .next (s.wordTrap x.k x.sl x.g x.f { code := 0x07, addr := x.g.regs.rdS (p.val + 3) })) ∧
      (∀ o, x.s.barRef x.g.team x.g.key x.k.die (x.g.regs.rdS (p.val + 3)) = some o →
        (st ≠ 0 → exec i s = .next (x.done (x.short (Instr.dests i) (x.g.regs.wrS d.val (BitVec.ofNat 64 st))))) ∧
        (∀ ds, st = 0 → x.s.desc? x.g.key sg = some ds →
          ∃ (t : State) (op : CollOp), exec i s = .next (x.done (({ x with s := t } : Iss).short (Instr.dests i)
              (x.g.regs.wrS d.val 0#64))) ∧
            t.colls = x.s.colls ++ [op] ∧ t.mem = x.s.mem ∧ t.groups = x.s.groups ∧
            op.kind = k ∧ op.die = x.k.die ∧ op.key = x.g.key ∧ op.src = x.g.regs.rdS p.val ∧ op.dst = x.g.regs.rdS (p.val + 1) ∧
            op.n = w2.toNat % 2 ^ 32 ∧ op.sg = sg ∧ op.root = w2.toNat / 2 ^ 40 % 256 ∧ op.ba = o ∧ op.members = x.s.members ds ∧
            op.me = ds.k ∧ op.sent = [] ∧ op.got = [] ∧ op.sread = [] ∧ op.written = [] ∧ op.performed = false ∧ 
            op.grp = x.k.g ∧ op.pct = w2.toNat / 2 ^ 48 % 2 ^ 11 ∧ op.wf = w2.toNat / 2 ^ 59 % 8 ∧ op.ord = w2.getLsbD 62 ∧
            op.seq = ((x.s.ctx? x.g.key).map (fun c => nget 0 c.collSeq sg)).getD 0 ∧
            ∀ c, x.s.ctx? x.g.key = some c → (t.ctx? x.g.key).map (fun c => nget 0 c.collSeq sg) = some (op.seq + 1))))

/-- The status of a collective: 3 without a descriptor, 2 where the descriptor does not take part, 1 when a member is not
reachable, 4 for parameters out of range or ranges that overlap (but for coll.ar in place), 0 for a good one (spec/11 R243). -/
def Claims.CollectiveStatus : Prop :=
  ∀ (s : State) (key : CtxKey) (k : CollKind) (src dst w2 : DWord) (sg n : Nat), sg = w2.toNat / 2 ^ 32 % 256 → n = w2.toNat % 2 ^ 32 →
    (s.descAny key sg = none → s.collStatus key k src dst w2.toNat = 3) ∧
    (∀ d, s.descAny key sg = some d →
      (s.desc? key sg = none → s.collStatus key k src dst w2.toNat = 2) ∧
      (∀ d', s.desc? key sg = some d' →
        ((∃ m ∈ s.members d, s.reachable key.m m = false) → s.collStatus key k src dst w2.toNat = 1) ∧
        ((∀ m ∈ s.members d, s.reachable key.m m = true) →
          (n = 0 ∨ 2 ^ 24 < n ∨ 2 ^ 30 < k.dstBytes d.n n ∨ 3 ≤ w2.toNat / 2 ^ 59 % 8 ∨ w2.getLsbD 63 = true ∨
              (k = .bc ∧ d.n ≤ w2.toNat / 2 ^ 40 % 256) ∨ (w2.getLsbD 62 = true ∧ (k = .ag ∨ k = .bc)) →
            s.collStatus key k src dst w2.toNat = 4) ∧
          (0 < k.srcBytes d.n n (k != .bc || w2.toNat / 2 ^ 40 % 256 == d.k) → src.toNat < dst.toNat + k.dstBytes d.n n →
            dst.toNat < src.toNat + k.srcBytes d.n n (k != .bc || w2.toNat / 2 ^ 40 % 256 == d.k) → ¬ (k = .ar ∧ src = dst) →
            s.collStatus key k src dst w2.toNat = 4) ∧
          (0 < n → n ≤ 2 ^ 24 → k.dstBytes d.n n ≤ 2 ^ 30 → w2.toNat / 2 ^ 59 % 8 < 3 → w2.getLsbD 63 = false →
            (k = .bc → w2.toNat / 2 ^ 40 % 256 < d.n) → (w2.getLsbD 62 = true → k = .rs ∨ k = .ar) →
            (dst.toNat + k.dstBytes d.n n ≤ src.toNat ∨ (k = .ar ∧ src = dst) ∨
              src.toNat + k.srcBytes d.n n (k != .bc || w2.toNat / 2 ^ 40 % 256 == d.k) ≤ dst.toNat) →
            s.collStatus key k src dst w2.toNat = 0))))

/-- The collectives: statuses, waits, traps and the operation they start. -/
def Obligations.CollectiveWords : Prop :=
  Claims.CollectivesStart ∧ Claims.CollectiveStatus

/-- shg, shev, shq and pgq: shg of a page that is not Stale only goes on, of a Stale one it joins the gather of the page or asks for
one; shev hands its page to a shard engine, with the barrier it names (one that fails its check traps with code 0x07); shq and pgq
report the page's state and its translation, without a fault. The entries that the walk reads enter the caches (spec/15 R295, R312 to
R315). The cycle from which a result may land is the model's reading (log entry 61). -/
def Obligations.ShardWords : Prop :=
  ∀ (s : State) (x : Iss) (a : SReg) (va : DWord) (t : State), va = x.g.regs.rdS a.val →
    t = x.s.noteWalk x.k.core (x.s.walked x.g.key va) →
    (prelude (.shg a) s = .go x →
      (x.s.leaf? x.g.key va = none → exec (.shg a) s = .next (x.done (({ x with s := t } : Iss).step x.g))) ∧
      ∀ lvl pa e, x.s.leaf? x.g.key va = some (lvl, pa, e) →
        (pteState e ≠ 1 → exec (.shg a) s = .next (x.done (({ x with s := t } : Iss).step x.g))) ∧
        (∀ y, pteState e = 1 → x.s.gatherOf x.g.key va = some y →
          ∃ g', exec (.shg a) s = .next (x.done (({ x with s := t } : Iss).step g')) ∧ y.id ∈ g'.shOps ∧
            g' = { x.g with shOps := g'.shOps }) ∧
        (pteState e = 1 → x.s.gatherOf x.g.key va = none →
          ∃ (g' : Group) (y : Gather), exec (.shg a) s = .next (x.done (({ x with s := { t with
              nextId := x.s.nextId + 1
              gathers := x.s.gathers ++ [y] } } : Iss).step g')) ∧
            y.id = x.s.nextId ∧ y.id ∈ g'.shOps ∧ g' = { x.g with shOps := g'.shOps } ∧ y.va = va ∧ y.key = x.g.key ∧
            y.die = paDie pa ∧ y.sg = pteSgid e ∧ y.entryPa = pa ∧ y.entry = e ∧ y.begun = false ∧ y.frame = none ∧ y.lread = [] ∧
            y.lwritten = [] ∧ y.got = [] ∧ y.by_ = ⟨x.g.team, x.k.g, x.f.pc⟩)) ∧
    (∀ b : SReg, prelude (.shev a b) s = .go x →
      (b.val ≠ 0 → x.s.barRef x.g.team x.g.key x.k.die (x.g.regs.rdS b.val) = none →
        exec (.shev a b) s = .next (s.wordTrap x.k x.sl x.g x.f { code := 0x07, addr := x.g.regs.rdS b.val })) ∧
      (∀ o, (b.val = 0 ∧ o = none) ∨ (b.val ≠ 0 ∧ x.s.barRef x.g.team x.g.key x.k.die (x.g.regs.rdS b.val) = o ∧ o.isSome = true) →
        ∃ (g' : Group) (y : Shev), exec (.shev a b) s = .next (x.done (({ x with s := { t with
            nextId := x.s.nextId + 1
            shevs := x.s.shevs ++ [y] } } : Iss).step g')) ∧
          y.id ∈ g'.shOps ∧ g' = { x.g with shOps := g'.shOps } ∧
          y = ⟨x.s.nextId, x.g.key, x.g.team, x.k.g, x.f.pc, va, y.die, o, none⟩ ∧
          ∀ lvl pa e, x.s.leaf? x.g.key va = some (lvl, pa, e) → y.die = paDie pa)) ∧
    (∀ (la : Fin 16) (d : SReg), prelude (.shq la d a) s = .go x → ∃ v : DWord,
      exec (.shq la d a) s = .next (x.done (({ x with s := t } : Iss).later 14 la.val (Instr.dests (.shq la d a)) 0
        [.s d.val v] 0#5)) ∧
      (x.s.leaf? x.g.key va = none → v = 0) ∧
      ∀ lvl pa e, x.s.leaf? x.g.key va = some (lvl, pa, e) →
        v.getLsbD 0 = true ∧ v.toNat / 16 % 8 = pteState e % 8 ∧ v.getLsbD 10 = (x.s.drainOf x.g.key va).isSome ∧
        v.getLsbD 11 = (x.s.gatherOf x.g.key va).isSome ∧ v.toNat / 2 ^ 24 % 256 = pteSgid e % 256) ∧
    ∀ (la : Fin 16) (d : SReg), prelude (.pgq la d a) s = .go x → ∃ v : DWord,
      exec (.pgq la d a) s = .next (x.done (({ x with s := t } : Iss).later 14 la.val (Instr.dests (.pgq la d a)) 0
        [.s d.val v] 0#5)) ∧
      (x.s.leaf? x.g.key va = none → v = 0) ∧
      ∀ lvl pa e, x.s.leaf? x.g.key va = some (lvl, pa, e) → (pteState e = 1 → v = 0) ∧
        (pteState e = 0 → v.getLsbD 63 = true ∧ v.getLsbD 62 = pteRd e)

/-- trap takes a trap of code 0x19 with its code in the detail and HPC at the next word; rfh brings back the fragment that
trapped, at HPC, with the entry's mask, token, rejoin and depth, the word there for the lanes of HMASK alone unless it is a branch of
class 0x01 or chk (spec/14 R264, R266). -/
def Obligations.TrapWords : Prop :=
  (∀ (c : BitVec 12) (s : State) (x : Iss), prelude (.trap c) s = .go x →
    exec (.trap c) s = .next (s.wordTrap x.k x.sl x.g x.f { code := 0x19, detail := c.toNat, hpc := some x.next })) ∧
  (∀ (s : State) (x : Iss) (h : Handler), prelude .rfh s = .go x → x.g.handler = some h →
    ∃ only, exec .rfh s = .next (x.done (x.s.setGroup x.k ({ x.g with handler := none }.setFrag x.sl (some { x.f with
        pc := x.g.sr.hpc, mask := h.mask, tok := h.tok, rj := h.rj, depth := h.depth, only := only, issueAt := x.cycle + 4 })))) ∧
      ∀ w, x.s.codeAt x.k.core x.g.key x.g.sr.hpc = some w →
        only = if w.toNat / 2 ^ 58 = 1 ∨ (∃ t, decodeTableWord 64 w.toNat = some (.chk t)) then none
          else some (x.g.sr.hmask.setWidth 32 &&& h.mask))

/-- mfs and mts, each special register by name: mfs of a group register writes its value to the scalar register, of a lane register the
lane's value to the active lanes of the vector register; mts writes a group register whole, SEED in the active lanes; a write of FMODE keeps
its reserved bits zero and an unassigned rounding mode out, a write of LEASE takes only the seven leases; the other special registers stay
as
they are (spec/02 R35; spec/06 R95; spec/07 R120; spec/14 R260, R261). -/
def Obligations.SpecialRegisters : Prop :=
  (∀ (d : Fin 256) (n : BitVec 12) (s : State) (x : Iss), prelude (.mfs d n) s = .go x →
    (∀ v, (n.toNat, v) ∈ ([(0x001, BitVec.ofNat 64 x.g.gidx), (0x008, BitVec.ofNat 64 x.k.c), (0x009, BitVec.ofNat 64 (x.k.c % 48 / 4)),
        (0x00A, BitVec.ofNat 64 (x.k.c / 48)), (0x00B, BitVec.ofNat 64 x.k.m), (0x010, (x.s.module x.k.m).wall), (0x012, x.g.sr.gtimer),
        (0x021, x.g.sr.fmode), (0x030, x.g.sr.hstat), (0x031, x.g.sr.hpc), (0x032, x.g.sr.hmask), (0x040, x.f.mask.setWidth 64),
        (0x041, BitVec.ofNat 64 (x.f.depth.toNat * 2 ^ 16 + x.f.tok.toNat)), (0x044, BitVec.ofNat 64 (x.s.pksBytes x.g.key)),
        (0x045, x.g.sr.lease), (0x046, x.g.sr.eystruck.setWidth 64), (0x049, BitVec.ofNat 64 (x.s.copiesOf x.g.team x.g.gidx)),
        (0x04A, x.g.sr.mrows), (0x04B, x.g.sr.ncols), (0x04D, x.g.sr.ackba), (0x04E, (x.s.module x.k.m).optgrp.setWidth 64),
        (0x04F, x.g.sr.haddr), (0x050, x.g.sr.hapc), (0x051, x.g.sr.gtcmp), (0x052, x.g.sr.wdead)] : List (Nat × DWord)) →
      exec (.mfs d n) s = .next (x.done (x.short (Instr.dests (.mfs d n)) (x.g.regs.wrS d.val v)))) ∧
    (∀ t gr c, x.s.team? x.g.team = some t → x.s.grid? t.grid = some gr → x.s.ctx? x.g.key = some c →
      ∀ v, (n.toNat, v) ∈ ([(0x002, t.x), (0x003, t.y), (0x004, t.z), (0x005, gr.gx), (0x006, gr.gy), (0x007, gr.gz), (0x011, c.ctxclk),
          (0x042, ((x.s.region? x.g.team).map (fun r => r.2)).getD 0), (0x043, t.s),
          (0x048, c.p.locklim), (0x04C, if t.tiles = true then (x.s.core x.k.core).mprog.toNat else 0)] : List (Nat × Nat)) →
        exec (.mfs d n) s = .next (x.done (x.short (Instr.dests (.mfs d n)) (x.g.regs.wrS d.val (BitVec.ofNat 64 v))))) ∧
    (∀ w, ((∃ f ∈ x.g.flights, ∃ st l va p b, f.kind = .lock st l va p b) → w = 8) →
      ((∀ f ∈ x.g.flights, ∀ st l va p b, f.kind ≠ .lock st l va p b) → w = 0) → n = 0x047#12 → exec (.mfs d n) s =
        .next (x.done (x.short (Instr.dests (.mfs d n)) (x.g.regs.wrS d.val (BitVec.ofNat 64 (min x.g.locks.length 7 + w)))))) ∧
    (n = 0x020#12 ∨ n = 0x000#12 → ∃ r : Regs, exec (.mfs d n) s = .next (x.done (x.short (Instr.dests (.mfs d n)) r)) ∧
      r.s = x.g.regs.s ∧ r.p = x.g.regs.p ∧ r.q = x.g.regs.q ∧
      ∀ v l, l < 32 → r.rdV v l = if v = d.val ∧ x.act.getLsbD l = true then
        (if n = 0x020#12 then nget 0#32 x.g.sr.seed l else BitVec.ofNat 32 l) else x.g.regs.rdV v l)) ∧
  (∀ (a : Fin 256) (n : BitVec 12) (s : State) (x : Iss) (v : DWord), prelude (.mts a n) s = .go x → v = x.g.regs.rdS a.val →
    (∀ sr : Sregs, (n.toNat, sr) ∈ ([(0x012, { x.g.sr with gtimer := v }), (0x031, { x.g.sr with hpc := v }),
        (0x032, { x.g.sr with hmask := v }), (0x04D, { x.g.sr with ackba := v }), (0x051, { x.g.sr with gtcmp := v }),
        (0x052, { x.g.sr with wdead := v }), (0x04A, { x.g.sr with mrows := v }), (0x04B, { x.g.sr with ncols := v }),
        (0x045, { x.g.sr with lease := if v.toNat ∈ [256, 512, 1024, 2048, 4096, 8192, 16384] then v else x.g.sr.lease })] :
          List (Nat × Sregs)) →
      exec (.mts a n) s = .next (x.done (x.s.setGroup x.k ({ x.g with sr := sr }.setFrag x.sl
        (some { x.f with pc := x.next, only := none }))))) ∧
    (n = 0x021#12 → ∃ m : DWord, exec (.mts a n) s =
      .next (x.done (x.s.setGroup x.k ({ x.g with sr := { x.g.sr with fmode := m } }.setFrag x.sl
        (some { x.f with pc := x.next, only := none })))) ∧ m &&& 0x1F08#64 = v &&& 0x1F08#64 ∧
      m.ushiftRight 13 = 0#64 ∧ m &&& 0xF0#64 = 0#64 ∧
      m &&& 7#64 = if (v &&& 7#64).toNat ≤ 4 then v &&& 7#64 else x.g.sr.fmode &&& 7#64) ∧
    (n = 0x020#12 → ∃ m, exec (.mts a n) s = .next (x.done (x.s.setGroup x.k ({ x.g with sr := { x.g.sr with seed := m } }.setFrag x.sl
        (some { x.f with pc := x.next, only := none })))) ∧
      ∀ l, l < 32 → nget 0#32 m l = if x.act.getLsbD l = true then x.g.regs.rdV a.val l else nget 0#32 x.g.sr.seed l))

/-- launch: a packet address that is not a multiple of 64 answers 3; else the packet's 64 bytes are read as one load of the first lane,
after a release, and the push follows it (spec/14 R283).
The cycle from which a result may land is the model's reading (log entry 61). -/
def Claims.LaunchResults : Prop :=
  ∀ (la : Fin 16) (d a b : SReg) (s : State) (x : Iss), prelude (.launch la d a b) s = .go x →
    (x.g.regs.rdS a.val &&& 63#64 ≠ 0#64 →
      exec (.launch la d a b) s = .next (x.done (x.later 15 la.val (Instr.dests (.launch la d a b)) 0 [.s d.val 3#64] 0#5))) ∧
    (x.g.regs.rdS a.val &&& 63#64 = 0#64 → x.mayRelease true .pod →
      (∀ p ∈ x.s.parts x.g.key .read (maskOf ((lanesOf x.f.mask).take 1)) 64 (fun _ => x.g.regs.rdS a.val),
        ∃ pa leaf, p.fate = .ok pa leaf) →
      ∃ (t : State) (fl : Flight), AccessNoted x.s t ∧
        exec (.launch la d a b) s = .next (x.done (t.setGroup x.k (x.g.launchFlight x.sl x.f x.next la.val fl))) ∧
        fl = { x.flight (.launch d.val ((x.g.regs.rdS b.val).toNat % 256)) (Instr.dests (.launch la d a b)) with parts := fl.parts } ∧
        fl.parts = (x.s.parts x.g.key .read (maskOf ((lanesOf x.f.mask).take 1)) 64 (fun _ => x.g.regs.rdS a.val)).map globalPart)

/-- qpop and qpop.nb at the home of the queue: no data queue of that number gives status 2; an entry is taken at HEAD, which
advances; an empty queue makes qpop wait and gives qpop.nb status 1 (spec/14 R284). -/
def Claims.QueuePops : Prop :=
  ∀ (la : Fin 16) (d a : SReg) (s : State) (x : Iss) (i : Instr) (nb : Bool),
    (i, nb) ∈ [(.qpop la d a, false), (.qpopNb la d a, true)] → prelude i s = .go x → x.g.acqBlocks x.f.mask x.g.nextId = false →
    ∃ (t : State) (fl : Flight),
      exec i s = .next (x.done (t.setGroup x.k (x.g.launchFlight x.sl x.f x.next la.val fl))) ∧
      fl.kind = .qpop d.val ((x.g.regs.rdS a.val).toNat % 256) ∧ fl.mask = x.f.mask ∧ fl.dests = Instr.dests i ∧ fl.acq = true ∧
      (x.s.queue? x.g.key ((x.g.regs.rdS a.val).toNat % 256) = none → t = x.s ∧ fl.ready = true ∧
        fl.writes = [.s d.val 0#64, .s (d.val + 1) 2#64]) ∧
      (∀ q, x.s.queue? x.g.key ((x.g.regs.rdS a.val).toNat % 256) = some q → q.data = false →
        t = x.s ∧ fl.ready = true ∧ fl.writes = [.s d.val 0#64, .s (d.val + 1) 2#64]) ∧
      (∀ q, x.s.queue? x.g.key ((x.g.regs.rdS a.val).toNat % 256) = some q → q.data = true →
        (x.s.qHead q = x.s.qTail q → t = x.s ∧ fl.ready = nb ∧ (nb = true → fl.writes = [.s d.val 0#64, .s (d.val + 1) 1#64])) ∧
        (x.s.qHead q ≠ x.s.qTail q → q.off = false → (x.s.line (lineOf (q.block + 8))).red = none →
          fl.ready = true ∧ fl.writes = [.s d.val (BitVec.ofNat 64 (mnat x.s.mem (q.slotAt (x.s.qHead q)) 8)), .s (d.val + 1) 0#64] ∧
          t.mem = mwriteN x.s.mem (q.block + 8) (toBytes 8 (mnat x.s.mem (q.block + 8) 8 / 2 ^ 63 * 2 ^ 63 +
            (x.s.qHead q + 1) % 2 ^ 63) ++ toBytes 8 (x.s.qHead q + 1))))

/-- evsig: after a release to the system, an addition to the event of the number in bits 15:0, of bits 63:32 and at least one, is sent
to the event table, behind those of the packets, of the lower cores and of its own core; when the table applies an addition, the
event's count rises by it, up to its largest value (spec/14 R285, R286). That additions on their way arrive at the table in one cycle is
the model's choice (log entry 83). -/
def Claims.EventSignal : Prop :=
  (∀ (a : SReg) (s : State) (x : Iss) (e : EvAdd), prelude (.evsig a) s = .go x → x.mayRelease true .sys →
    e = ⟨x.g.key, (x.g.regs.rdS a.val).toNat % 2 ^ 16, max 1 ((x.g.regs.rdS a.val).toNat / 2 ^ 32), .evsig x.k.c, x.f.pc, x.g.team,
      x.k.g⟩ →
    ∃ t : State, exec (.evsig a) s = .next (x.done (t.setGroup x.k (x.g.setFrag x.sl (some { x.f with pc := x.next, only := none })))) ∧
      t = x.s.modModule x.k.m (fun m => { m with adds := (t.module x.k.m).adds }) ∧
      (t.module x.k.m).adds = (x.s.module x.k.m).adds.filter (fun b => b.rank ≤ 1 + x.k.c) ++
        e :: (x.s.module x.k.m).adds.filter (fun b => 1 + x.k.c < b.rank)) ∧
  ∀ (s : State) (b : EvAdd) (e : Event), (s.module b.key.m).events.find? (fun e => e.1 == b.id && e.2.key == b.key) = some (b.id, e) →
    (((s.applyAdd b).module b.key.m).events.find? (fun e => e.1 == b.id)).map (fun e => e.2.count) =
      some (BitVec.ofNat 64 (min (e.count.toNat + b.n) (2 ^ 64 - 1)))

/-- launch, qpop, qpop.nb and evsig. -/
def Obligations.QueueWords : Prop :=
  Claims.LaunchResults ∧ Claims.QueuePops ∧ Claims.EventSignal

/-- The debug words go on to the next word: bkpt stops its team when ATTACH is set, trc offers its event with its record
to the context's sequencer, smark marks the fragment's next access (spec/18 R323 to R325). -/
def Obligations.DebugWords : Prop :=
  (∀ (c : BitVec 12) (s : State) (x : Iss), prelude (.bkpt c) s = .go x →
    (x.s.dbg x.g.key 0).testBit 0 = false → exec (.bkpt c) s = .next (x.done (x.step x.g))) ∧
  (∀ (c : BitVec 12) (s : State) (x : Iss), prelude (.bkpt c) s = .go x → (x.s.dbg x.g.key 0).testBit 0 = true →
    exec (.bkpt c) s = .next (x.done ((x.step x.g).teamStop x.g.team (.bkpt c) x.f.pc (some (x.g.gidx, x.sl))))) ∧
  (∀ (a : SReg) (tag : BitVec 12) (s : State) (x : Iss), prelude (.trc a tag) s = .go x →
    ∃ e : TrigEv, exec (.trc a tag) s = .next (x.done (({ x with s := x.s.offer x.g.key e } : Iss).step x.g)) ∧
      e.code = 1 ∧ e.core = x.k.c ∧ e.arg = tag.toNat ∧ e.wtime = x.s.wall x.k.m ∧ e.rec_.length = 8 ∧ e.rec_[0]? = some 1#64 ∧
      e.rec_[1]? = some 0#64 ∧ e.rec_[6]? = some x.f.pc ∧ e.rec_[7]? = some (x.g.regs.rdS a.val)) ∧
  ∀ (tag : BitVec 12) (s : State) (x : Iss), prelude (.smark tag) s = .go x →
    exec (.smark tag) s = .next (x.done (x.s.setGroup x.k (x.g.setFrag x.sl (some { x.f with
      mark := some tag, pc := x.next, only := none }))))

/-- READ: a part of an outstanding load takes its bytes: of a local level those of its memory; of the global level those of the
latest earlier stores in the group's buffer where they give all of them, else those of the line where its own slice holds it locked, or
of a Live copy of the die, the store buffer's bytes on top; nothing else changes (spec/07 R121, R125; spec/08 R155; spec/09 R171). -/
def Claims.ReadTakesBytes : Prop :=
  ∀ (s : State) (k : GKey) (g : Group) (fl i : Nat) (f : Flight) (p : Part) (z : MSize) (d : Nat), s.group? k = some g →
    g.flight? fl = some f → f.kind = .load z d → f.parts[i]? = some p → p.bytes = none → g.acqBlocks f.own f.ord = false →
    (p.space ≠ .global → s.locReady k g f.own f.ord p.space [(p.addr, p.len)] = true →
      s.spoiledAt p.space ((List.range p.len).map (locByte p.space p.addr)) = false →
      exec (.read k fl i) s = .next (s.setGroup k (g.setPart fl i { p with bytes := some (s.locRead p.space p.addr p.len) }))) ∧
    (p.space = .global → f.ready = false → f.refused = [] → s.movedLine (lineOf p.addr) = false → s.staleWait k g.key f.id p.va = false →
      (∀ bs : List Byte, bs.length = p.len → (∀ j, j < p.len → g.forward (p.addr + j) = bs[j]?) →
        exec (.read k fl i) s = .next (s.setGroup k (g.setPart fl i { p with bytes := some bs }))) ∧
      (∀ src, (∃ j, j < p.len ∧ g.forward (p.addr + j) = none) →
        ((s.line (lineOf p.addr)).point = .slice k.die ∧ src = s.lineBytes (lineOf p.addr)) ∨
          ((s.line (lineOf p.addr)).point ≠ .slice k.die ∧ ∃ c, tget s.copies (k.die, lineOf p.addr) = some c ∧
            live (s.wall k.m) c.expiry = true ∧ src = c.data) →
        exec (.read k fl i) s = .next (s.setGroup k (g.setPart fl i { p with bytes := some ((List.range p.len).map (fun j =>
          (g.forward (p.addr + j)).getD (src.getD ((p.addr + j) % 128) 0#8))) }))))

/-- RESULT_LAND: an outstanding value whose time has come, or a load whose parts all have their bytes, writes its registers in order,
sets its flags in FMODE and leaves, and the bytes of a load are counted; an acquire waits while an eyelet of its lanes is in flight
(spec/02 R30; spec/07 R111; spec/09
R171; spec/19 R339). -/
def Claims.ResultsLand : Prop :=
  ∀ (s : State) (k : GKey) (g : Group) (fl : Nat) (f : Flight) (ws : List RegW), s.group? k = some g → g.flight? fl = some f →
    (f.kind = .value ∨ ∃ z d, f.kind = .load z d) → f.landing (s.core k.core).cycle = some ws →
    (f.acq = true → (s.core k.core).eyeletIn k.g f.mask = true → exec (.resultLand k fl) s = .next s) ∧
    ((f.acq = true → (s.core k.core).eyeletIn k.g f.mask = false) →
      exec (.resultLand k fl) s = .next (((s.setGroup k { g with
        regs := g.regs.apply ws
        sr := { g.sr with fmode := g.sr.fmode ||| ((f.flags.setWidth 64 : DWord) <<< 8) }
        flights := g.flights.filter (fun y => y.id ≠ f.id)
        regReady := g.regReady.filter (fun e => (s.core k.core).cycle < e.2) ++
          f.dests.map (fun r => (r, (s.core k.core).cycle + 1)) }).countBytes g.key .group
            (match f.kind with
              | .load z _ => sizeBytes z * (lanesOf f.act).length
              | _ => 0)).tryEnd g.team))

/-- A load takes its bytes, and an outstanding result writes its registers. -/
def Obligations.ReadsLand : Prop :=
  Claims.ReadTakesBytes ∧ Claims.ResultsLand

/-- FILL: for a line of its own module that a load or a pf of the group still wants, with no lock, no pending reduction, no damage,
no Live copy and no store of the die on its way, the die's slice takes a copy of the line's bytes and version whose lease ends the LEASE
of the load or pf after WALLTIME, and the home's lease of the line covers it (spec/07 R123, R124, R127, R137; spec/14 R260). -/
def Claims.FillInstallsCopy : Prop :=
  ∀ (s : State) (k : GKey) (l lease : Nat), s.fillLease k l = some lease → k.m = lineMod l → (s.line l).red = none →
    (s.line l).dir = .uncached → s.mayInstall k.die l = true → s.damagedAt (128 * l) 128 = false → s.movedLine l = false →
      s.homeLost (128 * l) = false →
    (∀ c, tget s.copies (k.die, l) = some c → live (s.wall k.m) c.expiry = false) →
    ∃ t : State, exec (.fill k l) s = .next t ∧
      tget t.copies (k.die, l) = some ⟨s.lineBytes l, s.wall k.m + lease, (s.line l).ver⟩ ∧
      s.wall k.m + lease ≤ (t.line l).lease ∧ t.mem = s.mem ∧ t.groups = s.groups

/-- EXPIRED_COPY_DROP drops a copy whose lease ended more than 4194304 ns ago, and no other (spec/07 R124). -/
def Claims.ExpiredCopies : Prop :=
  ∀ (s : State) (d : DieKey) (l : Nat) (c : Copy), tget s.copies (d, l) = some c →
    (c.expiry + 4194304 < s.wall d.m → exec (.expiredCopyDrop d l) s = .next { s with copies := terase s.copies (d, l) }) ∧
    (s.wall d.m ≤ c.expiry + 4194304 → exec (.expiredCopyDrop d l) s = .next s)

/-- RESOLVE: an eyelet of a line of the own module is freed at the home: the same version confirms it, another one strikes the
lanes that read the line (spec/07 R132, R133). -/
def Claims.EyeletsResolve : Prop :=
  ∀ (s : State) (k : CoreKey) (e : Nat) (y : Eyelet), (s.core k).eyelets[e]? = some y → k.m = lineMod y.pa →
    s.homeLost (128 * y.pa) = false → y.refused = false → s.movedLine y.pa = false → (s.line y.pa).red = none → (s.line y.pa).dir =
      .uncached →
    ∃ (t u : State), exec (.resolve k e) s = .next u ∧ u = t.freeEyelet k y (decide ((s.line y.pa).ver ≠ y.ver)) ∧ t.mem = s.mem ∧
      t.groups = s.groups ∧ t.cores = s.cores

/-- Fills, expiry of copies and the resolution of eyelets. -/
def Obligations.CopiesOfLines : Prop :=
  Claims.FillInstallsCopy ∧ Claims.ExpiredCopies ∧ Claims.EyeletsResolve

/-- DRAIN: the oldest queued store-buffer entry of its sector leaves for its ordering point, and the die's copy of its line is
dropped; its first drain is a request that may be sampled, and nothing else of the group changes; no byte of memory changes (spec/07 R126,
R127; spec/18 R326). -/
def Claims.DrainSendsEntry : Prop :=
  ∀ (s : State) (k : GKey) (g : Group) (e : Nat) (x : SbEntry), s.group? k = some g → g.entry? e = some x → x.st = .queued →
    (∀ y ∈ g.sb.takeWhile (fun y => y.id ≠ e), y.sector ≠ x.sector) → g.acqBlocks x.own x.ord = false →
    ∃ (t : State) (st : SbSt), exec (.drain k e) s = .next (t.setEntry k e st) ∧ t.mem = s.mem ∧
      (x.note.counted = true → t.groups = s.groups) ∧ (t.group? k).map (fun h => { h with sb := g.sb }) = some g ∧
      t.copies = (if (s.line (x.sector / 4)).point = .slice k.die then s.copies else terase s.copies (k.die, x.sector / 4)) ∧
      (if s.localPoint k.die (x.sector / 4) then st = .sent none ∧ t.reqs = s.reqs
        else ∃ r, st = .sent (some r) ∧ ∃ q ∈ t.reqs, q.id = r ∧ q.src = k.m ∧ q.dst = lineMod (x.sector / 4) ∧ q.payload = .entry k e)

/-- PERFORM of a plain store whose line is at its home with no pending reduction and no lock in the way: the bytes of the entry are
written, every other byte stays, the version advances, and the entry is performed; where register blocks lie in the line, their
read-only and reserved bits stay (spec/00 R2; a debug block also acts on what it is given, spec/18 R321); PERFORM of a store of a
local level writes its bytes and removes it, and only removes it where its level no longer holds them (spec/07 R121, R126; spec/08 R147;
spec/09 R175). -/
def Claims.PerformStores : Prop :=
  (∀ (s : State) (k : GKey) (g : Group) (e : Nat) (x : SbEntry) (bs : List (Nat × Byte)) (l : Nat), s.group? k = some g →
    g.entry? e = some x → x.st = .sent none → x.op = .bytes bs → l = x.sector / 4 → s.movedLine l = false →
    s.homeLost (128 * l) = false → (s.line l).red = none → (s.line l).lock = none → (s.line l).dir = .uncached →
    s.pinnedBy (lineMod l) l = false → s.xlatClear l [(k, e)] = true →
    s.switchRoom l (mwriteAt s.mem (x.sector * 32) bs) = true →
    ∃ (t : State) (w : Nat), exec (.perform (.entry k e)) s = .next t ∧
      (s.hasRegs l = false → t.mem = mwriteAt s.mem (x.sector * 32) bs) ∧
      ((∀ c ∈ s.ctxs, l < c.2.p.dbgBase / 128 ∨ c.2.p.dbgBase / 128 + 4 ≤ l) →
        t.mem = s.keepRegs l (mwriteAt s.mem (x.sector * 32) bs)) ∧
      (t.line l).ver = (s.line l).ver + 1 ∧ ((t.group? k).bind (fun g => g.entry? e)).map (fun y => y.st) = some (.performed w) ∧
      ∃ p ∈ t.pend, p.id = w ∧ p.line = l) ∧
  (∀ (s : State) (k : GKey) (g : Group) (e : Nat) (x : LocStore), s.group? k = some g → g.loc.find? (fun y => y.id == e) = some x →
    s.locReady k g x.own x.ord x.space (x.bytes.map (fun b => (b.1, 1))) = true →
    (x.bytes.all (fun b => s.levelHolds g.key x.space b.1) = false → exec (.perform (.loc k e)) s = .next (((s.modGroup k
      (fun g => { g with loc := g.loc.filter (fun y => y.id ≠ x.id) })).reeval).tryEnd g.team)) ∧
    (x.bytes.all (fun b => s.levelHolds g.key x.space b.1) = true → s.spoiledAt x.space (x.bytes.map (fun b => b.1)) = false →
    exec (.perform (.loc k e)) s = .next (((((s.setLocMem x.space (x.bytes.foldl (fun m b => mwrite m b.1 b.2)
      (s.locMem x.space))).countBytes g.key .group x.bytes.length).modGroup k
      (fun g => { g with loc := g.loc.filter (fun y => y.id ≠ x.id) })).reeval).tryEnd g.team)))

/-- ATOM_REPLY, STORE_ACK and WRITEBACK_COMPLETE: an atomic whose lanes have all replied holds its old values ready to land; an
entry whose write has its commit time leaves the store buffer and the commit times of its lanes take it; a cwb writes the line's bytes to
the
memory device and the line is clean (spec/07 R126, R138; spec/08 R146). -/
def Claims.CompletionsOfWrites : Prop :=
  (∀ (s : State) (k : GKey) (g : Group) (fl op d : Nat) (z : ASize) (f : Flight), s.group? k = some g → g.flight? fl = some f →
    f.kind = .atom op z d false → f.complete = true → s.laneDone k fl = true →
    ∃ t : State, exec (.atomReply k fl) s = .next t ∧ t.mem = s.mem ∧
      ((t.group? k).bind (fun g => g.flight? fl)).map (fun f => (f.kind, f.writes, f.ready)) =
        some (.atom 0 z d true, atomWrites z d f.act f.parts, true)) ∧
  (∀ (s : State) (k : GKey) (g : Group) (e w : Nat) (x : SbEntry) (p : PendWrite), s.group? k = some g → g.entry? e = some x →
    x.st = .performed w → s.pend.find? (fun p => p.id == w) = some p → p.wait = [] → (∀ r ∈ s.reqs, r.payload = .entry k e → r.closed =
      true) →
    ∃ (t : State) (g' : Group), exec (.storeAck k e) s = .next ((t.setGroup k g').tryEnd g.team) ∧ t.mem = s.mem ∧
      (∀ y ∈ g.sb, y.id ≠ e → y ∈ g'.sb) ∧ (g.entering = [] → g'.sb = g.sb.filter (fun y => y.id ≠ e)) ∧ g'.regs = g.regs ∧ 
      t.landings = s.landings ++ x.landing p.t p.at_ g.key g.team ∧
      (∀ l ∈ lanesOf x.mask, nget 0 g'.gwct l = max (nget 0 g.gwct l) p.t) ∧
      ∀ l, l ∉ lanesOf x.mask → nget 0 g'.gwct l = nget 0 g.gwct l) ∧
  (∀ (s : State) (k : GKey) (g : Group) (i : Nat) (w : WriteBack), s.group? k = some g → g.wbs.find? (fun w => w.id == i) = some w →
    (∀ m, (s.line w.line).dir ≠ .exclusive m) → (s.line w.line).red = none → g.acqBlocks w.own w.id = false →
    ∃ t : State, exec (.writebackComplete k i) s = .next (t.tryEnd g.team) ∧ t.mem = s.mem ∧
      t.dev = mwriteN s.dev (w.line * 128) (s.lineBytes w.line) ∧ (t.line w.line).dirty = false ∧
      (t.group? k).map (fun g => g.wbs) = some (g.wbs.filter (fun x => x.id ≠ i)))

/-- MOVED_RESEND: a refused entry whose page now translates elsewhere is queued again for its new address, and one whose page still
translates to a moved frame waits for a flush; the entries that the walk reads enter the caches (spec/08 R151; spec/15 R308; spec/17
R319). -/
def Claims.RefusedEntriesResend : Prop :=
  ∀ (s : State) (k : GKey) (g : Group) (e : Nat) (x : SbEntry) (pa leaf : Nat) (t : State), s.group? k = some g → g.entry? e = some x →
    x.st = .moved → s.staleWait k g.key e x.va = false → s.xlat g.key x.va .write = .ok pa leaf →
    t = s.noteWalk k.core (s.walked g.key x.va) →
    (s.movedLine (lineOf pa) = false → exec (.movedResend k e) s = .next (t.setGroup k { g with sb := g.sb.map (fun y =>
      if y.id = e then { y with sector := pa / 32, st := .queued } else y) })) ∧
    (s.movedLine (lineOf pa) = true → exec (.movedResend k e) s = .next (t.movedStale k g.key e x.va .write))

/-- A store drains, is performed, and completes; a refused one is sent again. -/
def Obligations.WritesPerform : Prop :=
  Claims.DrainSendsEntry ∧ Claims.PerformStores ∧ Claims.CompletionsOfWrites ∧ Claims.RefusedEntriesResend

/-- PERFORM of one lane of an atomic whose line is at its home, on the home's module: the word takes the operation's new value and the
lane the old bytes, after the lanes of its sector before it (spec/08 R144, R145). -/
def Claims.PerformAtomicLane : Prop :=
  ∀ (s : State) (k : GKey) (g : Group) (fl i op d : Nat) (z : ASize) (f : Flight) (p : Part) (l n : Nat), s.group? k = some g →
    g.flight? fl = some f → f.kind = .atom op z d false → f.parts[i]? = some p → p.bytes = none →
    (∀ q ∈ f.parts.take i, q.bytes = none → q.addr / 32 ≠ p.addr / 32) → g.acqBlocks f.own f.ord = false → f.refused.contains i = false →
    (∀ r ∈ s.reqs, r.payload ≠ .lane k fl i) → s.staleWait k g.key f.id p.va = false → l = lineOf p.addr → n = asizeBytes z → k.m =
      lineMod l →
    s.movedLine l = false → s.homeLost (128 * l) = false → (s.line l).red = none → (s.line l).lock = none → (s.line l).dir = .uncached →
    s.pinnedBy (lineMod l) l = false → s.damagedAt p.addr n = false → s.xlatClear l [] = true →
    s.hasRegs l = false → s.hasRecords l = false →
    ∀ m, m = mwriteN s.mem p.addr (toBytes n (atomOp op z (mnat s.mem p.addr n) (p.val.toNat % 2 ^ (8 * n)) (p.cmp.toNat % 2 ^ (8 * n)))) →
    s.switchRoom l m = true →
    ∃ (t : State) (f' : Flight), exec (.perform (.lane k fl i)) s = .next t ∧ t.mem = m ∧
      (t.group? k).bind (fun g => g.flight? fl) = some f' ∧
      f'.parts[i]? = some { p with bytes := some (mreadN s.mem p.addr n) } ∧ (t.line l).ver = (s.line l).ver + 1

/-- RED_ENTRY_APPLY: the pending merged reduction of a line at its home is applied to its words, each contributor's entry is performed,
with a record of its GWCT, and no entry stays pending; without one, nothing changes (spec/08 R150). -/
def Claims.MergedReductions : Prop :=
  (∀ (s : State) (l : Nat) (r : RedEnt), (s.line l).point = .home → (s.line l).red = some r → s.redClear l = true → s.movedLine l = false →
    s.hasRegs l = false →
    ∃ t : State, exec (.redEntryApply l) s = .next t ∧ t.mem = r.apply s.mem ∧ (t.line l).red = none ∧
      (t.line l).ver = (s.line l).ver + 1 ∧
      ∀ c ∈ r.from_, ∀ (g : Group) (x : SbEntry), s.group? c.1 = some g → g.entry? c.2 = some x →
        ∃ w, ((t.group? c.1).bind (fun g => g.entry? c.2)).map (fun y => y.st) = some (.performed w) ∧
          ∃ p ∈ t.pend, p.id = w ∧ p.line = l ∧ p.origin = .entry c.1 c.2) ∧
  (∀ (s : State) (l : Nat), (s.line l).red = none → exec (.redEntryApply l) s = .next s)

/-- One lane of an atomic, and the pending merged reduction, at the home of the line. -/
def Obligations.AtomicsPerform : Prop :=
  Claims.PerformAtomicLane ∧ Claims.MergedReductions

/-- The directory of a line: a proxy that misses is given the line's bytes and version and joins the directory as a sharer; an
invalidation drops its copy, and the acknowledgement follows when the latest lease it granted has passed; a recall of an Exclusive
line waits for those leases too and brings the ordering point home; the eviction of a Shared line waits while one of them is Live, and so,
by the model's reading (log entry 14), does that of an Exclusive one, which brings the ordering point home (spec/11 R224 to R226). -/
def Obligations.DirectorySteps : Prop :=
  (∀ (s : State) (m l : Nat) (r : Req) (k : GKey), s.reqs.find? (fun r => (match r.payload with
        | .fill k l' => k.m == m && l' == l
        | .entry .. | .lane .. | .lock .. | .flag _ | .shuttle _ | .stream _ | .slReq .. | .contrib .. | .unlk _ | .engine _ => false) &&
        !r.closed && s.reqReady r.id) = some r → r.payload = .fill k l → m ≠ lineMod l → tget s.proxies (m, l) = none →
    s.movedLine l = false → (s.line l).lock = none → s.reachable m (lineMod l) = true → s.homeLost (128 * l) = false →
    s.damagedAt (128 * l) 128 = false → (s.line l).red = none → (s.line l).dir = .uncached →
    s.proxyRoom m l = true →
    ∃ t : State, exec (.proxyReadMiss m l) s = .next t ∧
      tget t.proxies (m, l) = some ⟨false, s.lineBytes l, (s.line l).ver, 0, false⟩ ∧ (t.line l).dir = .shared [m] ∧
      t.mem = s.mem ∧ (t.req? r.id).map (fun q => (q.performed, q.reply, q.closed)) = some (true, some .done, true)) ∧
  (∀ (s : State) (m l : Nat) (p : Proxy), tget s.proxies (m, l) = some p → p.excl = false →
    (∃ w ∈ s.pend, w.waitsFor m l = true) →
    exec (.invalidate m l) s = .next { s with proxies := tset s.proxies (m, l) { p with dropped := true } } ∧
    (p.dropped = true → passed (s.wall m) p.lease = true → s.pinnedBy m l = false → (s.line l).red = none →
      (∀ w ∈ s.pend, w.waitsFor m l = true → w.w ≠ m) →
      ∃ t : State, exec (.invalidateAck m l) s = .next t ∧ tget t.proxies (m, l) = none ∧ t.mem = s.mem ∧
        ∀ w ∈ t.pend, w.waitsFor m l = false) ∧
    (p.dropped = false ∨ passed (s.wall m) p.lease = false → exec (.invalidateAck m l) s = .next s)) ∧
  (∀ (s : State) (m l : Nat) (p : Proxy), tget s.proxies (m, l) = some p → p.excl = true → (s.line l).dir = .exclusive m →
    s.pinnedBy m l = false →
    (passed (s.wall m) p.lease = true → exec (.recall m l) s = .next (State.modLine { s with proxies := terase s.proxies (m, l) } l
      (fun x => { x with dir := .uncached, racks := 0, lease := max x.lease p.lease }))) ∧
    (passed (s.wall m) p.lease = false → exec (.recall m l) s = .next s) ∧
    (live (s.wall m) p.lease = true → exec (.proxyEvict m l) s = .next s) ∧
    (p.dropped = false → live (s.wall m) p.lease = false →
      ∃ t : State, exec (.proxyEvict m l) s = .next t ∧ tget t.proxies (m, l) = none ∧ t.mem = s.mem ∧
        t.line l = { s.line l with dir := .uncached, racks := 0, lease := max (s.line l).lease p.lease } ∧
        ∀ l', l' ≠ l → t.line l' = s.line l')) ∧
  ∀ (s : State) (m l : Nat) (p : Proxy) (ms : List Nat), tget s.proxies (m, l) = some p → (s.line l).dir = .shared ms →
    (s.line l).racks = 0#16 → s.pinnedBy m l = false → p.dropped = false →
    (live (s.wall m) p.lease = true → exec (.proxyEvict m l) s = .next s) ∧
    (live (s.wall m) p.lease = false →
      ∃ t : State, exec (.proxyEvict m l) s = .next t ∧ tget t.proxies (m, l) = none ∧ t.mem = s.mem ∧
        (t.line l).dir = (if ms.filter (fun y => y ≠ m) = [] then .uncached else .shared (ms.filter (fun y => y ≠ m))) ∧
        (t.line l).lease = max (s.line l).lease p.lease ∧ ∀ l', l' ≠ l → t.line l' = s.line l')

/-- The end-to-end layer: a copy of a request that arrives before its deadline is taken once; a later one is a duplicate, counted, which an
answered request answers again, an atomic or a lock request while its entry is in the response cache; a reply closes its request, and a
refusal with MOVED marks what is sent again; a request ahead of the target's window waits unsent; an unanswered request is sent again at
10, 20, 30 and 40 microseconds and fails when its deadline has passed; a reply for a closed request is discarded; a response-cache entry is
freed when the deadline has passed (spec/09 R170; spec/11 R229 to R233). That a request ahead of the window waits at its sender, and that
its
deadline counts from its first sending, is the model's reading (log entry 31). -/
def Obligations.RequestSteps : Prop :=
  ∀ (s : State) (r : Nat) (q : Req), s.req? r = some q →
    (0 < q.inFlight → q.replies = 0 → s.behind q = false → s.routed q.src q.dst = true → q.arrived = false →
      s.wall q.dst + 32 < q.deadline →
      ∃ t : State, exec (.deliver r) s = .next t ∧ (t.req? r).map (fun p => (p.arrived, p.inFlight)) = some (true, q.inFlight - 1) ∧
        t.mem = s.mem ∧ t.groups = s.groups) ∧
    (∀ hit : Bool, hit = (q.payload.cachedKind && q.performed) → 0 < q.inFlight → q.replies = 0 → s.behind q = false →
      s.routed q.src q.dst = true → q.arrived = true → (∀ op sl, q.payload ≠ .slReq op sl) →
      ∃ t : State, exec (.deliver r) s = .next t ∧ t.mem = s.mem ∧ t.groups = s.groups ∧
        (t.req? r).map (fun p => (p.arrived, p.performed, p.inFlight, p.replies)) = some (true, q.performed, q.inFlight - 1,
          if (if hit = true then q.cached else q.reply.isSome) = true then 1 else 0) ∧
        (t.module q.dst).fab = (if hit = true ∧ q.cached = true then
          { (s.module q.dst).fab with dupcache := min ((s.module q.dst).fab.dupcache + 1) (2 ^ 32 - 1) }
          else { (s.module q.dst).fab with dupdrop := min ((s.module q.dst).fab.dupdrop + 1) (2 ^ 32 - 1) })) ∧
    (q.inFlight = 0 → 0 < q.replies → q.closed = false → q.payload.shard = false → (∀ i, q.payload ≠ .stream i) →
      ∃ t : State, exec (.deliver r) s = .next t ∧ (t.req? r).map (fun p => (p.closed, p.replies)) = some (true, q.replies - 1) ∧
        t.mem = s.mem ∧ (q.reply ≠ some .moved → t.groups = s.groups) ∧
        (∀ k e, q.payload = .entry k e → q.reply = some .moved → t.groups = (s.setEntry k e .moved).groups) ∧
        ∀ k fl i, q.payload = .lane k fl i → q.reply = some .moved → t.groups = (s.modGroup k (fun g => g.refuse fl [i])).groups) ∧
    (q.closed = false → q.sends = 0 → s.ahead q.src q.dst q.seq = true → exec (.requestResend r) s = .next s) ∧
    (q.closed = false → q.sends = 0 → s.ahead q.src q.dst q.seq = false →
      exec (.requestResend r) s = .next (s.setReq r (fun q => { q with
        sends := 1, inFlight := 1, sentAt := s.wall q.src, deadline := s.wall q.src + 50000 }))) ∧
    (q.closed = false → 0 < q.sends → q.sends ≤ 4 → q.sentAt + 10000 * q.sends ≤ s.wall q.src →
      ∃ t : State, exec (.requestResend r) s = .next t ∧
        (t.req? r).map (fun p => (p.sends, p.inFlight)) = some (q.sends + 1, q.inFlight + 1) ∧ t.mem = s.mem) ∧
    (0 < q.sends → q.closed = true ∨ 4 < q.sends ∨ s.wall q.src < q.sentAt + 10000 * q.sends → exec (.requestResend r) s = .next s) ∧
    (q.closed = false → 0 < q.sends → passed (s.wall q.src) q.deadline = true → s.stitches.filter (s.reqStitch q.payload) = [] →
      (match q.payload with
        | .lane .. | .lock .. | .flag _ | .unlk _ | .shuttle _ | .engine _ => True
        | .entry .. | .fill .. | .stream _ | .slReq .. | .contrib .. => False) →
      ∃ t : State, exec (.requestFail r) s = .next t ∧ (t.req? r).map (fun p => (p.closed, p.failed)) = some (true, true) ∧ t.mem = s.mem) ∧
    (q.closed = true → 0 < q.replies →
      exec (.lateReply r) s = .next (((s.noteReply q).setReq r (fun q => { q with replies := q.replies - 1 })).fab q.src
        (fun c => { c with latereply := min (c.latereply + 1) (2 ^ 32 - 1) }))) ∧
    (q.cached = true → passed (s.wall q.dst) q.deadline = true →
      exec (.responseCacheEntryExpiry r) s = .next (s.setReq r (fun q => { q with cached := false })))

/-- The lock logic of a home on requests of its own module: a free line with room in the lock table is entered for the requester, whose
grant waits for the latest lease and its skew; one that is held, or on its way to a holder, queues the request, behind those of earlier
cycles; a grant whose time has come gives the holder the line and status 0 (spec/08 R152 to R154). That the grant and its status take effect
in the home's own step is the model's reading (log entry 12); so is the order of requests of one cycle (log entry 99). -/
def Claims.LockArrivals : Prop :=
  (∀ (s : State) (k : GKey) (g : Group) (fl d l : Nat) (va : DWord) (tm : Option Nat) (f : Flight), s.group? k = some g →
    g.flight? fl = some f → f.kind = .lock d l va tm false → f.ready = false → f.refused = [] → g.acqBlocks f.own f.ord = false → k.m =
      lineMod l →
    s.movedLine l = false → (s.line l).red = none → s.pointOpen (lineMod l) l = true →
    (∀ r ∈ s.reqs, r.payload = .lock k fl → r.closed = true) →
    ((s.line l).lock = none → (∀ v ∈ (s.line l).queue, v.res = false) → s.lockCount l < 64 →
      ∃ (t : State) (e : LockEnt), exec (.lockRequest k fl) s = .next t ∧ (t.line l).lock = some e ∧
        e.st = .granting (max (s.wall (lineMod l)) ((s.line l).lease + 32)) ∧ e.holder.team = g.team ∧ e.holder.gidx = g.gidx ∧
        e.holder.flight = f.id ∧ t.mem = s.mem) ∧
    (∀ e, (s.line l).lock = some e → s.queueCount l < 256 → tm ≠ some 0 →
      ∃ (t : State) (w : Waiter), exec (.lockRequest k fl) s = .next t ∧ (t.line l).queue = enqueue w (s.line l).queue ∧
        ((∀ v ∈ (s.line l).queue, v.cyc ≠ w.cyc ∨ v.arr ≠ w.arr) → enqueue w (s.line l).queue = (s.line l).queue ++ [w]) ∧
        (t.line l).lock = some e ∧ w.team = g.team ∧ w.gidx = g.gidx ∧ w.flight = f.id ∧ w.arr = s.wall (lineMod l) ∧
        w.deadline = tm.map (fun t => s.wall (lineMod l) + t))) ∧
  ∀ (s : State) (l : Nat) (e : LockEnt) (t0 : Nat) (k : GKey) (g : Group), (s.line l).lock = some e → e.st = .granting t0 →
    (∀ p ∈ s.pend, p.line = l → p.wait = []) → max t0 ((s.line l).lease + 32) ≤ s.wall (lineMod l) → e.holder.m = lineMod l →
    s.pointOpen (lineMod l) l = true → (s.line l).red = none → s.findGroup e.holder.team e.holder.gidx = some k → s.group? k = some g →
    ∃ (t : State) (e' : LockEnt), exec (.lockGrant l) s = .next t ∧ (t.line l).lock = some e' ∧ e'.st = .held ∧
      e'.holder.m = k.m ∧ e'.holder.core = k.c ∧ e'.holder.grp = k.g ∧ t.mem = s.mem ∧
      (t.group? k).map (fun g => g.locks.any (fun h => h.line == l)) = some true

/-- The rest of the lock logic: a released line goes to the first resident waiter of its queue, those ahead of it to the tail, and is free
without one; a grant to another module past its deadline is withdrawn; a waiter's deadline removes it with status 3; a probe that does
not return counts, one that returns fails its wait, with status 2, and may fail others whose due probes return; a waiter whose residence
changes is marked, and takes a free lock that no resident waiter ahead of it awaits (spec/08 R156, R157, R160, R161; spec/11 R232). -/
def Claims.LockQueueSteps : Prop :=
  (∀ (s : State) (l : Nat) (e : LockEnt), (s.line l).lock = some e → e.st = .handoff →
    s.unlkReady l = true →
    ((∀ w ∈ (s.line l).queue, w.res = false) →
      ∃ t : State, exec (.lockHandoff l) s = .next t ∧ (t.line l).lock = none ∧ t.mem = s.mem) ∧
    (∀ ahead w rest, (s.line l).queue = ahead ++ w :: rest → (∀ x ∈ ahead, x.res = false) → w.res = true →
      ∃ (t : State) (e' : LockEnt), exec (.lockHandoff l) s = .next t ∧ (t.line l).lock = some e' ∧ e'.holder = w ∧
        e'.st = .granting (s.wall (lineMod l)) ∧ (t.line l).queue = rest ++ ahead ∧ t.mem = s.mem)) ∧
  (∀ (s : State) (l : Nat) (e : LockEnt) (t0 : Nat), (s.line l).lock = some e → e.st = .granting t0 → e.holder.m ≠ lineMod l →
    t0 + 50032 ≤ s.wall (lineMod l) →
    ∃ t : State, exec (.lockGrantWithdrawal l) s = .next (t.handoff l) ∧ t.lines = s.lines ∧ t.mem = s.mem) ∧
  ∀ (s : State) (l i : Nat) (w : Waiter), (s.line l).queue[i]? = some w →
    (∀ d, w.deadline = some d → d ≤ s.wall (lineMod l) →
      exec (.lckTryTimeout l i) s = .next ((s.modLine l (fun x => { x with queue := x.queue.eraseIdx i })).lockStatus w 3)) ∧
    (w.deadline = none → exec (.lckTryTimeout l i) s = .next s) ∧
    (w.due (s.wall (lineMod l)) = true → s.probe w.team w.gidx 64 l = none →
      exec (.deadlockProbe l i) s = .next (s.modLine l (fun x => { x with queue := x.queue.map (fun y =>
        if y.team = w.team ∧ y.gidx = w.gidx then { y with probes := y.probes + 1 } else y) }))) ∧
    (∀ h, w.due (s.wall (lineMod l)) = true → s.probe w.team w.gidx 64 l = some h →
      ∃ os : List (Nat × Waiter × Nat), exec (.deadlockProbe l i) s = .next (os.foldl (fun s o => s.deadlock o.1 o.2.1 o.2.2)
          (State.deadlock { s with freeCtr := s.freeCtr + 1 } l w h)) ∧
        ∀ o ∈ os, o.2.1.due (s.wall (lineMod o.1)) = true ∧ s.probe o.2.1.team o.2.1.gidx 64 o.1 = some o.2.2) ∧
    (s.findGroup w.team w.gidx = none → w.res = true →
      exec (.resUpdate l i false) s = .next (s.modLine l (fun x => { x with queue := x.queue.set i { w with res := false } }))) ∧
    (∀ k, s.findGroup w.team w.gidx = some k → w.res = false → (s.line l).lock = none → s.lockCount l < 64 →
      (∀ v ∈ (s.line l).queue.take i, v.res = false) →
      ∃ (t : State) (e : LockEnt), exec (.resUpdate l i true) s = .next t ∧ (t.line l).lock = some e ∧ e.st = .granting (s.grantTime l) ∧
        e.holder = { w with res := true, m := k.m, core := k.c, grp := k.g } ∧ (t.line l).queue = (s.line l).queue.eraseIdx i ∧
        t.mem = s.mem) ∧
    (∀ k, s.findGroup w.team w.gidx = some k → w.res = false → (s.line l).lock.isSome = true →
      exec (.resUpdate l i true) s = .next (s.modLine l (fun x =>
        { x with queue := x.queue.set i { w with res := true, m := k.m, core := k.c, grp := k.g } })))

/-- LOCK_TIMEOUT: a held lock whose resident cycles have reached LOCKLIM makes code 0x0E pending in its group, once (spec/08
R159). -/
def Claims.LockTimeouts : Prop :=
  ∀ (s : State) (k : GKey) (g : Group) (l : Nat) (h : HeldLock) (c : Context), s.group? k = some g → s.ctx? g.key = some c →
    g.locks.find? (fun h => h.line == l) = some h →
    (h.fired = false → c.p.locklim ≤ h.cycles →
      exec (.lockTimeout k l) s = .next (s.setGroup k (Group.pend { g with locks := g.locks.map (fun (x : HeldLock) =>
        if x.line = l then { x with fired := true } else x) } ⟨0x0E, 0, h.vline, h.pc, 0⟩))) ∧
    (h.fired = true ∨ h.cycles < c.p.locklim → exec (.lockTimeout k l) s = .next s)

/-- The lock logic of a home: arrivals, grants, handoffs, withdrawals, timeouts and probes. -/
def Obligations.LockSteps : Prop :=
  Claims.LockArrivals ∧ Claims.LockQueueSteps ∧ Claims.LockTimeouts

/-- LAND and ACK_SEND: an engine's landing becomes one request to its barrier unit, alone or combined with others of its operation on
its object, whose signed bytes are then added; an acknowledgement, and a landing for another module, wait until the commit time they report
has passed (spec/09 R169; spec/10 R198; spec/11 R235, R247). -/
def Claims.LandingsSend : Prop :=
  ∀ (s : State) (i : Nat) (l : Landing), s.landings[i]? = some l →
    (l.ack = true → l.w = none → passed (s.wall l.sentFrom) l.t = true →
      exec (.ackSend i) s = .next { s with landings := s.landings.eraseIdx i, barq := s.barq ++ [l.toReq s] }) ∧
    (l.ack = true → passed (s.wall l.sentFrom) l.t = false → exec (.ackSend i) s = .next s) ∧
    (l.ack = false → l.rmt = false → l.copyOp = none → l.coll = none →
      exec (.land i) s = .next (State.landed { s with
        freeCtr := s.freeCtr + 1, landings := s.landings.eraseIdx i
        barq := s.barq ++ [l.toReq { s with freeCtr := s.freeCtr + 1, landings := s.landings.eraseIdx i }] } none)) ∧
    (l.ack = false → (l.rmt = true → l.w = none ∧ passed (s.wall l.sentFrom) l.t = true) →
      ∃ (more : List Landing) (l' : Landing) (u : State), exec (.land i) s = .next (u.landed l.copyOp) ∧
        l' = { l with db := l.db + (more.map (fun y => y.db)).sum } ∧
        (∀ y ∈ more, y ∈ s.landings.eraseIdx i ∧ y.o = l.o ∧ y.copyOp = l.copyOp ∧ y.coll = l.coll ∧ y.rmt = l.rmt ∧ s.mayLand y = true) ∧
        u.landings = (s.landings.eraseIdx i).filter (fun y => !more.contains y) ∧ u.barq = s.barq ++ [l'.toReq s] ∧
        u.colls = (match l.coll with
          | none => s.colls
          | some c => s.colls.map (fun o => if o.id = c then { o with landed := o.landed + (-l'.db).toNat } else o)) ∧
        u.mem = s.mem ∧ u.groups = s.groups) ∧
    (l.ack = false → l.rmt = true → passed (s.wall l.sentFrom) l.t = false → exec (.land i) s = .next s)

/-- A step of the copy engine between scratchpads: a piece that has not begun reads its bytes at its level; a piece that has
read them all writes them at the destination and is done, counted, with its landing due for the object the copy names (spec/10 R197,
R198, R200, R201). -/
def Claims.CopyEngineSteps : Prop :=
  ∀ (s : State) (k : CoreKey) (op i : Nat) (o : CopyOp) (p : Piece) (sp : Space) (a : Nat),
    (s.core k).copies.find? (fun o => o.id == op) = some o → o.pieces[i]? = some p → o.started = true →
    (p.st = .todo → o.slv ≠ .global → s.engPlace o.team o.key o.die o.slv p.src (min p.len (32 - p.src.toNat % 32)) = .mem sp a →
      s.spoiledAt sp ((List.range (min p.len (32 - p.src.toNat % 32))).map (fun j => a + j)) = false →
      exec (.engine (.copy k op) i) s = .next (s.modCopy k o.id (fun y =>
        { y.setPiece i { p with st := .read (s.locRead sp a (min p.len (32 - p.src.toNat % 32))) } with note := o.note }))) ∧
    (∀ bs, p.st = .read bs → p.len ≤ bs.length → o.dlv ≠ .global → s.engPlace o.team o.key o.die o.dlv p.dst p.len = .mem sp a →
      exec (.engine (.copy k op) i) s = .next
        (((s.storeLoc sp (bs.mapIdx (fun j b => (a + j, b)))).copyWrote k o i p { o.note with fault := none } none).reeval))

/-- Landings, acknowledgements and the pieces of the copy engine. -/
def Obligations.EngineSteps : Prop :=
  Claims.LandingsSend ∧ Claims.CopyEngineSteps

/-- TILE_OP_EXECUTE and MMACG_CHUNK: the head of a core's matrix engine queue takes effect, is counted and leaves; tzero clears its
tile or accumulator, mmac adds its product, tcvt converts, a move of tile rows moves them once the fragment's earlier accesses to them are
performed, and waits before; one that reads a damaged word leaves with no effect; an mmacg is performed chunk by chunk, each as soon as its
lines are held, and leaves with the last (spec/10
R207 to R213, R216, R220, R221; spec/19 R347). -/
def Obligations.TileExecution : Prop :=
  (∀ (s : State) (k : CoreKey) (e : TileEnt) (rest : List TileEnt) (tid : Nat) (t : Team) (left : State → State),
    s.tileOwner k = some (tid, t) → (s.core k).tileQ = e :: rest →
    (s.badTile (e.op.reads k) = true → exec (.tileOpExecute k) s = .next ((s.loseTile k tid t.key e 5).tryEnd tid)) ∧
    (s.badTiles = [] → s.spoiled = [] → (∀ s, left s = State.modCore s k (fun c => { c with tileQ := rest })) →
    (∀ acc i, e.op = .zero acc i → exec (.tileOpExecute k) s = .next ((left { s with tiles := zeroTile s.tiles k acc i }).tryEnd tid)) ∧
    (∀ f r c, e.op = .mmac f r c → exec (.tileOpExecute k) s = .next ((left (State.count { s with tiles := MmacF.perform f s.tiles k r c }
      t.key (idxProduct f.fa f.fb) (popc64 r * popc64 c * ktOf f.fa.bytes))).tryEnd tid)) ∧
    (∀ f rm b r c, e.op = .cvt f rm b r c → exec (.tileOpExecute k) s = .next ((left (State.count { s with
      tiles := TcvtF.perform f s.tiles k rm b r c } t.key (idxConv (Fmt.code .f32) (Fmt.code f.fmt)) (popc64 r * popc64 c))).tryEnd tid)) ∧
    (∀ x, e.op.macro? = some x → exec (.tileOpExecute k) s = .next s) ∧
    (∀ (store : Bool) (place : Nat) (rows : List (Nat × Nat)) c r n gk g base, t.st = .resident c r n → base = scratchAt k (r * t.s) →
      s.findGroup tid e.gidx = some gk → s.group? gk = some g →
      ((∃ tl side b p, e.op = (if store then .st tl side b p else .ld tl side b p) ∧ place =
        (if side then sideAt k tl 0 else tileAt k tl 0) ∧
          rows = (if side then [(b, 256)] else (List.range 64).map (fun j => (b + j * p, 128)))) ∨
        (∃ acc b p, e.op = (if store then .accSt acc b p else .accLd acc b p) ∧ place = accAt k acc 0 ∧
          rows = (List.range 64).map (fun j => (b + j * p, 256)))) →
      (s.locReady gk g e.own e.id .scratch (rows.map (fun q => (base + q.1, q.2))) = false → exec (.tileOpExecute k) s = .next s) ∧
      (s.locReady gk g e.own e.id .scratch (rows.map (fun q => (base + q.1, q.2))) = true →
        (store = false → exec (.tileOpExecute k) s = .next ((left (State.countBytes { s with
          tiles := moveRows s.scratch s.tiles base place rows true } t.key .group (rows.map (fun q => q.2)).sum)).tryEnd tid)) ∧
        (store = true → exec (.tileOpExecute k) s = .next ((left (State.countBytes { s with
          scratch := moveRows s.tiles s.scratch base place rows false } t.key .group (rows.map (fun q => q.2)).sum)).reeval.tryEnd tid)))))) ∧
  (∀ (s : State) (k : CoreKey) (e : TileEnt) (rest : List TileEnt) (tid : Nat) (t : Team) (x : Macro) (j : Nat), s.tileOwner k =
    some (tid, t) →
    (s.core k).tileQ = e :: rest → e.op.macro? = some x → s.tileHalting tid t = false → s.badTiles = [] →
    j = (if e.begun then (s.core k).mprog.toNat else 0) →
    ((∃ l ∈ x.lines j, ∀ g ∈ e.got, g.chunk ≠ j ∨ g.vline ≠ l.1) → exec (.mmacgChunk k) s = .next s) ∧
    ((∀ l ∈ x.lines j, ∃ g ∈ e.got, g.chunk = j ∧ g.vline = l.1) →
      ∃ u : State, exec (.mmacgChunk k) s = .next (u.tryEnd tid) ∧ u.tiles = x.perform e s.tiles k j ∧ u.mem = s.mem ∧
        (u.core k).mprog = BitVec.ofNat 32 (j + 1) ∧
        (u.core k).tileQ = (if j + 1 = x.kk / 64 then rest
          else { e with begun := true, got := e.got.filter (fun g => g.chunk ≠ j) } :: rest)))

/-- Flags and shuttles on their way: a flag whose earlier writes are in place arrives at its barrier, or writes its bytes at its line's
home, unless an earlier acquire of its lanes is outstanding; a shuttle packet, under the same condition and before its deadline, stops on a
word that leaves its sector, else reads its word and goes on to the next step or ends;
a result that has come back enters its instruction, and a packet past its deadline gives status 8 (spec/09 R170, R171; spec/11 R229, R238 to
R241). That the sector is tested before the translation is the model's reading (log entry 29). -/
def Claims.FlagAndShuttleSteps : Prop :=
  (∀ (s : State) (i : Nat) (f : Flag) (ba : DWord), s.flags.find? (fun f => f.id == i) = some f → f.req = none → f.performed = false →
    f.refused = false → f.waits = [] → (∀ e ∈ f.ts, e.2 = 0 ∨ passed (s.wall e.1) e.2 = true) → f.ba = some ba →
    ∃ t : State, exec (.flagApply i) s = .next { t with
        barq := s.barq ++ [⟨s.farObj f.key f.k.die f.m ba, .step true 0, .flag, (s.peer f.key f.m).getD f.key, f.team⟩] } ∧
      t.flags = s.flags.filter (fun x => x.id ≠ i) ∧ t.mem = s.mem ∧ t.groups = s.groups) ∧
  (∀ (s : State) (i l : Nat) (f : Flag), s.flags.find? (fun f => f.id == i) = some f → f.req = none → f.performed = false →
    f.refused = false → f.waits = [] → (∀ e ∈ f.ts, e.2 = 0 ∨ passed (s.wall e.1) e.2 = true) →
    (s.member? f.team f.gidx).any (fun g => g.acqBlocks f.mask f.ord) = false → s.hasRegs l = false → f.ba = none → l = lineOf f.pa →
      s.movedLine l = false →
    s.homeLost (128 * l) = false → (s.line l).red = none → (s.line l).lock = none → (s.line l).dir = .uncached →
    s.pinnedBy (lineMod l) l = false → s.xlatClear l [] = true → s.switchRoom l (mwriteN s.mem f.pa f.bytes) = true →
    ∃ t : State, exec (.flagApply i) s = .next t ∧ t.mem = mwriteN s.mem f.pa f.bytes ∧ ∀ q ∈ t.flags, q.id ≠ i) ∧
  (∀ (s : State) (i : Nat) (p : Shuttle), s.shuttles.find? (fun p => p.id == i) = some p → p.res = none →
    s.routed p.k.m p.at_ = true → p.i ≠ p.nstep → s.wall p.at_ + 32 < p.deadline →
    (∀ g f, s.member? p.team p.gidx = some g → g.flight? p.fl = some f → g.acqBlocks f.own f.ord = false) →
    (24 < p.addr.toNat % 32 → exec (.shuttleStep i) s = .next (s.setShuttle { p with res := some (p.addr, 5, p.i) })) ∧
    (∀ pa, p.addr.toNat % 32 ≤ 24 → s.shtlXlat p = .inl pa → p.trav + traversals p.at_ (paMod pa) ≤ 10 →
      (paMod pa = p.at_ ∨ (s.sectorBusy p.at_ (pa / 32) = false ∧ s.wall (paMod pa) + 32 < p.deadline)) →
      s.movedLine (lineOf pa) = false → s.damagedAt pa 8 = false → (s.line (lineOf pa)).red = none → s.hasRecords (lineOf pa) = false →
      ∀ w : DWord, w = BitVec.ofNat 64 (mnat s.mem pa 8) →
      ∃ t : State, t.mem = s.mem ∧ t.shuttles = s.shuttles ∧ exec (.shuttleStep i) s = .next (t.setShuttle { p with
        at_ := paMod pa, die := paDie pa, trav := p.trav + traversals p.at_ (paMod pa), word := w, i := p.i + 1
        addr := if p.i + 1 = p.nstep then p.addr else p.nextAddr w (p.i + 1)
        res := if p.i + 1 = p.nstep then some (w, 0, 0) else none })) ∧
    (∀ st, p.addr.toNat % 32 ≤ 24 → s.shtlXlat p = .inr st →
      exec (.shuttleStep i) s = .next (s.setShuttle { p with res := some (p.addr, st, p.i) }))) ∧
  (∀ (s : State) (k : GKey) (fl : Nat) (p : Shuttle) (v : DWord) (st ix : Nat),
    (s.shuttles.filter (fun p => p.k == k && p.fl == fl && !p.dead)).find? (fun p => p.res.isSome) = some p →
    p.res = some (v, st, ix) → passed (s.wall k.m) p.deadline = false →
    ∃ t : State, exec (.shuttleReturn k fl) s = .next (t.shtlResult p v st ix) ∧
      t.shuttles = s.shuttles.filter (fun x => x.id ≠ p.id) ∧ t.groups = s.groups ∧ t.mem = s.mem) ∧
  ∀ (s : State) (k : GKey) (fl : Nat) (p : Shuttle),
    (s.shuttles.filter (fun p => p.k == k && p.fl == fl && !p.dead)).find? (fun p => p.res.isSome) = none →
    (s.shuttles.filter (fun p => p.k == k && p.fl == fl && !p.dead)).find? (fun p => passed (s.wall k.m) p.deadline) = some p →
    ∃ t : State, exec (.shuttleReturn k fl) s = .next (t.shtlResult p p.start 8 7) ∧ t.groups = s.groups ∧
      ((∀ y ∈ s.stitches, y.lane ≠ p.lane) → t.mem = s.mem)

/-- A stream for an operation its module has accepted is taken by it, as it arrives or when it has been held, one that comes before its
operation is held, one for a module
without a peer context is refused; a collective that has failed, or that lacks
the data of a member whose own has failed, leaves the engine with its landings, and its group has cause 0x17 pending
(spec/11 R245 to R249; spec/13 R256). -/
def Claims.CollectiveSteps : Prop :=
  (∀ (s : State) (i h : Nat) (x : Stream) (key : CtxKey) (o : CollOp), s.streams.find? (fun x => x.id == i) = some x → x.held = some h →
    x.holder = some key → s.collAccepted key x.sg x.seq = true → (∀ y ∈ s.streams, y.id ≠ i → y.held = none) →
    s.colls.find? (fun o => o.key == key && o.sg == x.sg && o.seq == x.seq) = some o → s.collHeld o = false →
    exec (.collStreamReceive i) s = .next (State.collTake { s with streams := s.streams.filter (fun y => y.id ≠ i) } o x)) ∧
  (∀ (s : State) (i : Nat) (x : Stream), s.streams.find? (fun x => x.id == i) = some x → x.held = none → x.holder = none →
    (∀ r, x.req = some r → s.reqReady r = true) →
    (∀ key o, s.peer x.key x.dst = some key → s.collAccepted key x.sg x.seq = true → (∀ y ∈ s.streams, y.held = none) →
      s.colls.find? (fun o => o.key == key && o.sg == x.sg && o.seq == x.seq) = some o → s.collHeld o = false →
      exec (.collStreamReceive i) s = .next (State.collTake (State.replyTo { s with
        streams := s.streams.filter (fun y => y.id ≠ i) } (.stream i) .done) o x)) ∧
    (s.peer x.key x.dst = none → ∃ t : State, exec (.collStreamReceive i) s = .next t ∧ t.colls = s.colls ∧
      t.streams = s.streams.filter (fun y => y.id ≠ i) ∧ t.mem = s.mem) ∧
    (∀ key, s.peer x.key x.dst = some key → s.collAccepted key x.sg x.seq = false →
      ∃ t : State, exec (.collStreamReceive i) s = .next t ∧ t.colls = s.colls ∧ t.mem = s.mem ∧
        t.streams = s.streams.filter (fun y => y.id ≠ i) ++ [{ x with held := some (s.wall x.dst), holder := some key }])) ∧
  ∀ (s : State) (op : Nat) (cause : CollCause) (o : CollOp), s.colls.find? (fun o => o.id == op) = some o →
    (o.failing = some cause ∨ s.starved o cause = true) →
    ∃ t : State, exec (.collFail op cause) s = .next (t.pendTeam o.team o.gidx ⟨0x17, 0, 0, o.pc, o.sg⟩) ∧
      t.colls = s.colls.filter (fun x => x.id ≠ op) ∧ t.landings = s.landings.filter (fun l => l.coll ≠ some op) ∧ t.mem = s.mem ∧
      t.collLost = s.collLost ++ [(o.key, o.sg, o.seq, o.me, cause)]

/-- Flags, shuttle packets and collective streams on their way. -/
def Obligations.PodSteps : Prop :=
  Claims.FlagAndShuttleSteps ∧ Claims.CollectiveSteps

/-- Gathers: the gather of an engine that has waited longest takes one of its 16 places and the descriptor as it then stands, and the
free frame of the lowest address, and asks each other owner for its slice; one with a place waits for a frame; an owner answers with its
slice's bytes, counted, or refuses; a slice that comes is written into the frame; a refusal fails the gather (spec/15 R299, R303 to R305).
That the bytes of a slice count in the asking context, that a slice is read or written whole in one step, and what the trace notes, is the
model's reading (log entries 35, 27, 33, 72). -/
def Claims.GatherSteps : Prop :=
  (∀ (s : State) (k : CtxKey) (va : DWord) (g : Gather), s.gatherOf k va = some g → g.key = k → g.frame = none →
    (s.die ⟨k.m, g.die⟩).lost = false →
    (∀ f fs, g.begun = true → s.entryAt g.entryPa = g.entry → s.freeFrames k = f :: fs →
      ∃ t : State, exec (.gatherStart k va) s = .next t ∧
        (t.gathers.find? (fun x => x.id == g.id)).map (fun x => x.frame) = some (some f) ∧ t.mem = s.mem ∧
        ∀ e ∈ g.members.zipIdx, e.2 ≠ g.me → ∃ r ∈ t.reqs, r.src = k.m ∧ r.dst = e.1 ∧ r.payload = .slReq g.id (g.ask e.2)) ∧
    (g.begun = true → s.entryAt g.entryPa = g.entry → s.freeFrames k = [] →
      exec (.gatherStart k va) s = .next (s.poolEmpty k g.va g.die g.sg)) ∧
    (∀ lvl e d f fs, g.begun = false → s.running k.m g.die < 16 → s.nextGather g = true → s.leaf? k g.va = some (lvl, g.entryPa, e) →
      pteState e = 1 → s.desc? k (pteSgid e) = some d → (s.ctx? k).any (fun c => c.poolLost) = false → s.freeFrames k = f :: fs →
      ∃ (t : State) (y : Gather), exec (.gatherStart k va) s = .next t ∧ t.gathers.find? (fun x => x.id == g.id) = some y ∧
        y.begun = true ∧ y.frame = some f ∧ y.entry = e ∧ y.sg = pteSgid e ∧ y.n = d.n ∧ y.me = d.k ∧ y.members = s.members d ∧
        y.slbase = d.slbase ∧ y.ord = d.ord ∧ t.mem = s.mem ∧
        ∀ j, j < d.n → j ≠ d.k → ∃ r ∈ t.reqs, r.src = k.m ∧ r.dst = (s.members d).getD j 0 ∧ r.payload = .slReq g.id (y.ask j)) ∧
    (g.begun = false → 16 ≤ s.running k.m g.die ∨ s.nextGather g = false → exec (.gatherStart k va) s = .next s)) ∧
  (∀ (s : State) (r op : Nat) (q : Req) (x : ShardMsg), s.req? r = some q → q.payload = .slReq op x →
    (s.serves q x = false → exec (.slReq r) s = .next s) ∧
    (s.serves q x = true →
      (∀ c, s.ownSlice q.dst x = .error c → exec (.slReq r) s = .next (s.shardAnswer q x (.slNak c))) ∧
      (∀ key d base, s.ownSlice q.dst x = .ok (key, d, base) →
        (∀ bs t, s.shardRead q.dst base (d.sliceBytes / 128) = .ok bs t →
          exec (.slReq r) s = .next ((t.count x.key (idxBytes .shard) d.sliceBytes).shardAnswer q x (.slData bs))) ∧
        (s.shardRead q.dst base (d.sliceBytes / 128) = .lost →
          exec (.slReq r) s = .next (s.shardAnswer q x (.slNak .dataLost)))))) ∧
  (∀ (s t : State) (r op j f : Nat) (q : Req) (bs : List Byte) (g : Gather), s.shardReply r = some (q, op, j, .slData bs) →
    s.gathers.find? (fun g => g.id == op) = some g → g.frame = some f →
    s.shardWrite g.key.m g.die (f + j * g.sliceBytes) bs g.lines = some t → t.gathers = s.gathers →
    (∃ i, i < g.n ∧ i ≠ j ∧ i ≠ g.me ∧ i ∉ g.got) →
    ∃ u : State, exec (.slData r) s = .next u ∧ u.mem = t.mem ∧
      (u.gathers.find? (fun x => x.id == op)).map (fun x => x.got) = some (g.got ++ [j])) ∧
  ∀ (s : State) (r op j : Nat) (q : Req) (c : NakReason) (g : Gather), s.shardReply r = some (q, op, j, .slNak c) →
    s.gathers.find? (fun g => g.id == op) = some g →
    exec (.slNak r) s = .next ((s.takeReply r).failGather g) ∧
    ∀ e, (s.takeReply r).reqs.filterMap (g.failing (s.wall g.key.m)) = [e] →
      (s.takeReply r).failGather g = (s.takeReply r).gatherLost g e.1 e.2

/-- Contributions and rounds: an owner applies a fast contribution to its shard and acknowledges it, stages an ordered one with room
and refuses one without; a round with the contributions of every member staged is committed as one; one whose
writes are not all in the engine's horizon is counted in APPLIED by a later step; the draining engine takes
acknowledgements, refusals and CN_FULL, after which it sends again 10 microseconds later (spec/15 R300 to R305; spec/16 R317). That a slice
is read or written whole in one step,
the contexts its bytes count in, the round before the first and what the trace notes are the model's reading (log entries 27, 35, 33, 72),
as is the later step (log entry 71). -/
def Claims.ContributionSteps : Prop :=
  (∀ (s : State) (r op : Nat) (q : Req) (x : ShardMsg), s.req? r = some q → q.payload = .contrib op x → s.serves q x = true →
    (∀ c, s.ownSlice q.dst x = .error c → exec (.contrib r) s = .next (s.shardAnswer q x (.cnNak c))) ∧
    (∀ key d base a t, s.ownSlice q.dst x = .ok (key, d, base) → x.ord = false → a = d.applying (some r) key x.sg x.page base 1 x.key →
      s.applyShard a [x.data] = some t →
      (a ∉ (t.die a.die).applying → exec (.contrib r) s = .next (t.shardAnswer q x .cnAck)) ∧
      (a ∈ (t.die a.die).applying → exec (.contrib r) s = .next t)) ∧
    (∀ key d base c used, s.ownSlice q.dst x = .ok (key, d, base) → x.ord = true → s.ctx? key = some c →
      used = ((s.contribs.filter (fun c => c.key == key)).map (fun c => c.data.length)).foldl (· + ·) 0 →
      (used + d.sliceBytes ≤ c.p.shardStaging * 2 ^ 20 →
        exec (.contrib r) s = .next (State.shardAnswer (State.count { s with
          contribs := s.contribs ++ [⟨key, x.sg, x.page, x.slice, x.me, x.rnd, x.data, x.key⟩] } x.key (idxBytes .shard) d.sliceBytes)
            q x .cnAck)) ∧
      (c.p.shardStaging * 2 ^ 20 < used + d.sliceBytes → exec (.contrib r) s = .next (s.shardAnswer q x .cnFull)))) ∧
  (∀ (s t u : State) (k : CtxKey) (sg page slice rnd : Nat) (d : Desc) (mine : Contrib → Bool) (cs : List Contrib) (a : Applying),
    s.desc? k sg = some d → slice = d.k → rnd = ((tget s.rounds (k, sg, page, slice)).getD 0 + 1) % 2 ^ 32 →
    mine = (fun c => c.key == k && c.sg == sg && c.page == page && c.slice == slice && c.rnd == rnd) →
    cs = (List.range d.n).filterMap (fun j => s.contribs.find? (fun c => mine c && c.member == j)) → cs.length = d.n →
    s.applyingFor (fun b => b.key == k && b.sg == sg && b.page == page) = none →
    s.sliceAsked k sg page = false →
    a = d.applying none k sg page (d.slbase + page * d.sliceBytes) d.n (((s.contribs.filter mine).getLast?.map (fun c => c.by_)).getD k) →
    s.applyShard a (cs.map (fun c => c.data)) = some t →
    u = cs.foldl (fun s c => s.count c.by_ (idxBytes .shard) d.sliceBytes) t →
    exec (.roundCommit k sg page slice) s = .next (State.shardNote { u with
      contribs := u.contribs.filter (fun c => !mine c)
      rounds := tset u.rounds (k, sg, page, slice) rnd } k a.die 8 k.m sg page slice rnd false 0)) ∧
  (∀ (s : State) (a : Applying) (k : CtxKey) (sg page slice : Nat) (d : Desc), s.desc? k sg = some d →
    s.applyingFor (fun b => b.key == k && b.sg == sg && b.page == page) = some a →
    s.applyingFor (fun b => b.req == none && b.key == k && b.sg == sg && b.page == page) = some a →
    ((∃ p ∈ s.pend, p.origin = .engine (.shard a.die) ∧ p.wait ≠ [] ∧ lineOf a.base ≤ p.line ∧ p.line < lineOf a.base + a.lines) →
      exec (.roundCommit k sg page slice) s = .next s) ∧
    (∀ t, s.endApplying a = some t → exec (.roundCommit k sg page slice) s = .next t ∧ a ∉ (t.die a.die).applying)) ∧
  (∀ (s : State) (r op j : Nat) (q : Req) (rep : Reply), s.shardReply r = some (q, op, j, rep) →
    (rep = .cnAck → exec (.cnAck r) s = .next ((s.takeReply r).contribDone op j)) ∧
    (∀ c, rep = .cnNak c → exec (.cnNak r) s = .next ((s.takeReply r).dropContrib op j)) ∧
    (∀ g, rep = .cnFull → s.drains.find? (fun g => g.id == op) = some g →
      exec (.cnFull r) s = .next ((s.takeReply r).setDrain { g with retry := g.retry ++ [(j, s.wall q.src + 10000)] }))) ∧
  ∀ (s : State) (r op : Nat) (q : Req) (x : ShardMsg) (g : Drain) (e : Nat × Nat), s.req? r = some q → q.payload = .contrib op x →
    s.drains.find? (fun g => g.id == op) = some g → g.retry.find? (fun e => e.1 == x.slice) = some e → q.reply = some .cnFull →
    q.closed = true →
    (e.2 ≤ s.wall q.src → ∃ t : State, exec (.contribResend r) s = .next t ∧
      (∃ p ∈ t.reqs, p.src = q.src ∧ p.dst = q.dst ∧ p.payload = .contrib op x ∧ p.arrived = false) ∧ t.mem = s.mem) ∧
    (s.wall q.src < e.2 → exec (.contribResend r) s = .next s)

/-- Gathers, contributions and rounds of a shard group. -/
def Obligations.ShardSteps : Prop :=
  Claims.GatherSteps ∧ Claims.ContributionSteps

/-- The pool and the page faults: a shev of a Partial page starts its drain; an Absent fault whose page has changed lets the
groups replay, and one that stands is served with a zeroed frame and a Partial entry; below LOWAT a Gathered page is released; a frame
that its entry has left becomes free when no line of it is locked, leased or pinned (spec/15 R298, R300, R313). -/
def Claims.PoolSteps : Prop :=
  (∀ (s t : State) (k : CtxKey) (va : DWord) (lvl pa e : Nat) (d : Desc) (y : Shev),
    s.shevs.find? (fun x => x.key == k && pageOf x.va == pageOf va && x.on.isNone && !s.shardHeld x.id) = some y → s.leaf? k va =
      some (lvl, pa, e) →
      pteState e = 3 →
    s.desc? k (pteSgid e) = some d → s.startDrain k va pa e d ⟨y.team, y.grp, y.pc⟩ = some t →
    exec (.drainStart k va) s = .next { t with shevs := t.shevs.map (fun (x : Shev) =>
      if x.key == k && pageOf x.va == pageOf va && x.on.isNone &&
        !s.shardHeld x.id then { x with on := (t.drainOf k va).map (fun g => g.id) } else x) }) ∧
  (∀ (s : State) (k : CtxKey) (va : DWord) (lvl pa e : Nat), s.someWaits k (pageOf va) .absent = true → s.leaf? k va = some (lvl, pa, e) →
    (pteState e ≠ 6 → exec (.absentAllocate k va) s = .next (s.wakePage k (pageOf va))) ∧
    (∀ f fs t t' u w c, s.ctx? k = some c → c.poolLost = false → pteState e = 6 → s.freeFrames k = f :: fs →
      s.shardWrite k.m (entryDie pa) f (List.replicate (2 ^ 21) 0#8) (2 ^ 14) = some t →
      t' = { t.count k (idxBytes .shard) (2 ^ 21) with nextId := (t.count k (idxBytes .shard) (2 ^ 21)).nextId + 1 } →
      ((t'.noteEngine k (entryDie pa * 48) (s.firstWaiter k (pageOf va)) .shard true [] (BitVec.ofNat 64 (pageOf va * 2 ^ 21))
          (2 ^ 21)).1.modCtx k (fun c => { c with
        frames := c.frames ++ [(f, pa, va, pteSgid e, (t.count k (idxBytes .shard) (2 ^ 21)).nextId)] })).casEntry k (entryDie pa) pa e
          (pteWith e 3 f) = some (some w, u) →
      exec (.absentAllocate k va) s = .next ((u.stateNote k (entryDie pa) (pteSgid e) (u.shardPage k (pteSgid e) va) 0 3).wakePage k
        (pageOf va)).settlePend) ∧
    (pteState e = 6 → s.freeFrames k = [] → (s.ctx? k).any (fun c => c.poolLost) = false →
      exec (.absentAllocate k va) s = .next (s.poolEmpty k va (entryDie pa) (pteSgid e)))) ∧
  (∀ (s : State) (k : CtxKey) (c : Context), s.ctx? k = some c → c.poolLost = false →
    (c.p.lowat ≤ (s.freeFrames k).length → exec (.poolPressure k) s = .next s) ∧
    (∀ f pa va w t, (s.freeFrames k).length < c.p.lowat → s.pressurePage k c = some (f, pa, va) → pteState (s.entryAt pa) = 2 →
      s.casEntry k (entryDie pa) pa (s.entryAt pa) (pteWith (s.entryAt pa) 1 0) = some (some w, t) →
      exec (.poolPressure k) s = .next (t.stateNote k (entryDie pa) (pteSgid (s.entryAt pa))
        (s.shardPage k (pteSgid (s.entryAt pa)) va) 0 1).settlePend)) ∧
  ∀ (s : State) (k : CtxKey) (c : Context) (frame : Nat), s.ctx? k = some c → frame ∈ c.returning →
    (∀ e ∈ s.lines, frame ≤ e.1 * 128 → e.1 * 128 < frame + 2 ^ 21 →
      e.2.lock = none ∧ (e.2.lease = 0 ∨ passed (s.wall k.m) e.2.lease = true)) →
    (∀ x ∈ s.cores, ∀ l ∈ x.2.pins, ¬ (frame ≤ l * 128 ∧ l * 128 < frame + 2 ^ 21)) →
    exec (.frameReturn k frame) s = .next (s.setCtx k { c with
      frames := c.frames.filter (fun f => f.1 ≠ frame), returning := c.returning.filter (fun f => f ≠ frame) })

/-- PAGE_WALK, FAULT_FLUSH and MOVED_ENTRY_EXPIRE: the walk of an address that an access of the die needs leaves the entries it has read
in the walker's cache, and no other walk takes place (log entry 78); a flush that the block asks for advances the generation and forgets
what was recorded; a moved entry whose time has come goes (spec/15 R293, R295, R307, R308). -/
def Claims.FaultSteps : Prop :=
  (∀ (s : State) (d : DieKey) (k : CtxKey) (va : DWord) (kind : AccKind), d.m = k.m → (s.die d).lost = false →
    (s.needs d k va = true → exec (.pageWalk d k va kind) s = .next (s.noteDieWalk d (s.walked k va))) ∧
    (s.needs d k va = false → exec (.pageWalk d k va kind) s = .next s)) ∧
  (∀ (s : State) (m : Nat), (mnat s.mem (s.fbBlock m + 0x18) 8).testBit 8 = true →
    ∃ t : State, exec (.faultFlush m) s = .next t ∧ (t.module m).fb.gen = (s.module m).fb.gen + 1 ∧
      ∀ c ∈ t.ctxs, c.1.m = m → c.2.recorded = [] ∧ c.2.stale = []) ∧
  ∀ (s : State) (m frame : Nat), exec (.movedEntryExpire m frame) s = .next (s.modModule m (fun x =>
    { x with moved := x.moved.filter (fun e => !(e.1 == frame && decide (e.2.2 ≤ x.wall.toNat))) }))

/-- The pool, page faults, walks and moved entries. -/
def Obligations.PageSteps : Prop :=
  Claims.PoolSteps ∧ Claims.FaultSteps

/-- TEAM_MAKE_RESIDENT and RESTORE place the head of the context's list on the core of its partition with the fewest groups that has a
free region of its launch; a team's first residency starts every group of it in fragment F0 at its entry with all lanes, its registers zero
but for the arguments in s1 to s4, and its scratchpad region zero (spec/02 R34; spec/03 R43; spec/07 R116; spec/14 R274). -/
def Claims.TeamsBecomeResident : Prop :=
  (∀ (s : State) (k : CtxKey) (id r : Nat) (t : Team) (c : CoreKey), s.schedules k = true → s.headTeam k = some id → s.team? id = some t →
    t.halted = false → t.stop = none → s.chooseCore k t = some c → s.regionFor c t = some r →
    exec (.teamMakeResident k) s = .next (s.place id t c r) ∧
    (t.key = k → t.st = .saved true → exec (.restore id) s = .next (s.place id t c r))) ∧
  (∀ (s : State) (id : Nat) (t : Team) (c : CoreKey) (r a : Nat), t.fresh = true → scratchAt c (r * t.s) ≤ a →
    a < scratchAt c (r * t.s) + t.s → mread (s.place id t c r).scratch a = 0#8) ∧
  ∀ (t : Team) (id i cyc : Nat) (g : Group), g = t.newGroup id i cyc →
    g.f1 = none ∧ g.stack = [] ∧ g.exited = 0#32 ∧ g.handler = none ∧ g.flights = [] ∧ g.sb = [] ∧
    (∃ f, g.f0 = some f ∧ f.pc = t.entry ∧ f.mask = 0xFFFFFFFF#32 ∧ f.tok = 0#16 ∧ f.depth = 0#8 ∧ f.rj = 0#64) ∧
    (∀ n, n < 64 → g.regs.rdS n = if 1 ≤ n ∧ n ≤ 4 then t.args.getD (n - 1) 0#64 else 0#64) ∧
    (∀ n l, g.regs.rdV n l = 0#32) ∧ g.sr.lease = 2048#64 ∧ g.sr.mrows = BitVec.allOnes 64 ∧ g.sr.ncols = BitVec.allOnes 64 ∧
    g.sr.fmode = 0#64

/-- SAVE of a halting team whose pending state is settled, with no stop asked: its groups leave the core, their images and the bytes of
its region are kept, its lines held for locks go to state saved; a team that is not settled stays. The images enter the save area and
no other memory; one whose place there is reserved or unpopulated is not written (spec/09 R168; spec/14 R263, R273 to R275; where the place
lies, and the bytes there, is the model's, log entry 44). -/
def Claims.TeamsLeave : Prop :=
  ∀ (s : State) (id c r since : Nat) (t : Team), s.team? id = some t → t.stop = none → t.st = .resident c r since →
    (s.teamLeaves id = true →
      ∃ (u : State) (t' : Team) (run : Bool), exec (.save id) s = .next u ∧ u.team? id = some t' ∧ t'.st = .saved run ∧
        (∀ e ∈ u.groups, e.2.team ≠ id) ∧ (∀ e ∈ s.groups, e.2.team ≠ id → e ∈ u.groups) ∧
        ((∀ y ∈ s.stitches, ∀ e ∈ s.groupsOf id, ∀ f ∈ e.2.flights, f.blocked = true → y.of e.1 f.ord = false) →
          ∀ a, (∀ x, s.ctx? t.key = some x → a < x.p.saveBase ∨ x.p.saveBase + x.p.saveLen ≤ a) → mread u.mem a = mread s.mem a) ∧
        (∀ lost, lost = (s.ctx? t.key).any (fun x => !s.imageFits x.p (s.freeCtr + (s.groupsOf id).length)) →
          (lost = false → t'.region = mslice s.scratch (scratchAt ⟨t.key.m, c⟩ (r * t.s)) t.s) ∧
          t'.images = (s.groupsOf id).mapIdx (fun i e => (e.2.gidx, match s.ctx? t.key with
            | none => e.2.image
            | some x => if lost = true then (s.writeImage x.p (s.freeCtr + i) e.2.image).pend ⟨0x1C, 0, 0, 0, 0⟩
              else s.writeImage x.p (s.freeCtr + i) e.2.image))) ∧
        (run = true → t.halted = false → ∀ x, u.ctx? t.key = some x → id ∈ x.runnable)) ∧
    (s.teamLeaves id = false → exec (.save id) s = .next s)

/-- QUANTUM_EXPIRY marks a team that waits past its quantum, or has been resident for two, to halt for a runnable one; REMOTE_LOAD_BLOCK
abandons a load whose bytes on another module have been outstanding for 2 microseconds; FAULT_REPLAY lets the group of a served fault
execute its
instruction again (spec/07 R130; spec/14 R271 to R273). -/
def Claims.GroupsGiveWay : Prop :=
  (∀ (s : State) (id c r since : Nat) (t : Team) (x : Context), s.team? id = some t → t.st = .resident c r since →
    s.ctx? t.key = some x → t.stop = none → x.runnable ≠ [] →
    ((x.p.quantumUs * 1000 ≤ s.wall t.key.m - since ∧ s.teamWaits id = true) ∨ 2 * (x.p.quantumUs * 1000) ≤ s.wall t.key.m - since →
      exec (.quantumExpiry id) s = .next { s with groups := s.groups.map (fun (e : GKey × Group) =>
        if e.2.team = id then (e.1, { e.2 with halting := true }) else e) }) ∧
    (s.wall t.key.m - since < x.p.quantumUs * 1000 → exec (.quantumExpiry id) s = .next s)) ∧
  (∀ (s : State) (k : GKey) (g : Group) (fl d : Nat) (f : Flight) (z : MSize), s.group? k = some g → g.flight? fl = some f →
    f.kind = .load z d → (∃ p ∈ f.parts, p.space = .global ∧ p.bytes = none ∧ paMod p.addr ≠ k.m) →
    (f.wallAt + 2000 ≤ s.wall k.m →
      exec (.remoteLoadBlock k fl) s = .next (s.setGroup k (g.modFlight fl (fun f => { f with blocked := true })))) ∧
    (s.wall k.m < f.wallAt + 2000 → exec (.remoteLoadBlock k fl) s = .next s)) ∧
  ∀ (s : State) (k : GKey) (g : Group) (r : Replay), s.group? k = some g → g.replay = some r → r.lost = none →
    (r.ready = true → exec (.faultReplay k) s = .next (s.setGroup k { g with replay := none })) ∧
    (r.ready = false → exec (.faultReplay k) s = .next s)

/-- CARVE_CHANGE: an empty core that the scheduler takes for the head of a context's list takes the carve of the team's launch; when no
bank passes to the scratchpad nothing else changes (spec/07 R115, R117). -/
def Claims.CarveChanges : Prop :=
  ∀ (s : State) (k : CoreKey) (grid id : Nat) (gr : Grid) (t : Team), s.grid? grid = some gr → s.headTeam gr.key = some id →
    s.team? id = some t → t.grid = grid → s.schedules gr.key = true → s.chooseCore gr.key t = some k → s.teamsOn k = [] →
    (∀ c, (s.core k).carve = some c → c.grid ≠ grid) → t.regions * t.s ≤ s.carveBytes k →
    exec (.carveChange k grid) s =
      .next (s.modCore k (fun c => { c with carve := some ⟨grid, t.s, t.regions⟩ })).reeval

/-- TICK: when no core that runs groups may still issue, the wall clock of every module advances by one and every core with groups is
given its clock's share of the next nanosecond (spec/01 R13; spec/02 R39).
When TICK may come and how a core is given its cycles is the model's reading (log entries 2, 64). -/
def Claims.ClockTick : Prop :=
  ∀ (s : State), (∀ c ∈ s.cores, s.groupsOn c.1 = [] ∨ c.2.credit < 1000) →
    ∃ t : State, exec .tick s = .next t ∧ (∀ m, m ∈ s.mods.map (·.1) → (t.module m).wall = (s.module m).wall + 1) ∧
      (∀ k c, tget s.cores k = some c → s.groupsOn k ≠ [] → (t.core k).credit = c.credit + s.mhz k) ∧
      t.mem = s.mem ∧ t.groups = s.groups

/-- Teams become resident, give way, leave and are restored; the clock advances. -/
def Obligations.Residency : Prop :=
  Claims.TeamsBecomeResident ∧ Claims.TeamsLeave ∧ Claims.GroupsGiveWay ∧ Claims.CarveChanges ∧ Claims.ClockTick

/-- The packets of a command queue: a packet that may start and whose fields are good has its effect; a LAUNCH lists the teams of its grid,
a
WAIT_EVENT of a reached count, a FENCE and a MARK complete at once; a SIGNAL_EVENT sends its addition to the table; one of a reserved TYPE
or
action, or with a reserved field that is not zero, is rejected with status 2 (spec/14 R279 to R281, R286; spec/18 R333). -/
def Claims.PacketSteps : Prop :=
  ∀ (s : State) (k : CtxKey) (q : Nat) (p : Pkt), s.starts k q = some p →
    (mnat s.mem p.pa 1 = 1 →
      (s.noteLaunch k).launchStatus p = none →
      exec (.launchPacket k q) s = .next (((s.noteLaunch k).startPacket k q p 1 0 0).runGrid k q p)) ∧
    (∀ st, mnat s.mem p.pa 1 = 1 → (s.noteLaunch k).launchStatus p = some st →
      exec (.launchPacket k q) s =
        .next (((s.noteLaunch k).rejectPacket k q p 1 st).signalGrid k (mnat (s.noteLaunch k).mem (p.pa + 2) 2))) ∧
    (mnat s.mem p.pa 1 = 0 ∨ 5 < mnat s.mem p.pa 1 → exec (.launchPacket k q) s = .next (s.rejectPacket k q p (mnat s.mem p.pa 1) 2)) ∧
    (mnat s.mem p.pa 1 = 4 → mnat s.mem (p.pa + 1) 1 = 0 ∨ 5 < mnat s.mem (p.pa + 1) 1 →
      exec (.launchPacket k q) s = .next (s.rejectPacket k q p 4 2)) ∧
    (mnat s.mem p.pa 1 = 2 → mnat s.mem (p.pa + 1) 1 ≠ 0 ∨ mnat s.mem (p.pa + 4) 4 ≠ 0 ∨
      (∃ i, i < 6 ∧ mnat s.mem (p.pa + (16 + 8 * i)) 8 ≠ 0) → exec (.waitEvent k q) s = .next (s.rejectPacket k q p 2 2)) ∧
    (mnat s.mem p.pa 1 = 3 → mnat s.mem (p.pa + 1) 1 ≠ 0 ∨ (∃ i, i < 7 ∧ mnat s.mem (p.pa + (8 + 8 * i)) 8 ≠ 0) →
      exec (.signalEvent k q) s = .next (s.rejectPacket k q p 3 2)) ∧
    (mnat s.mem p.pa 1 = 5 → mnat s.mem (p.pa + 1) 7 ≠ 0 ∨ (∃ i, i < 7 ∧ mnat s.mem (p.pa + (8 + 8 * i)) 8 ≠ 0) →
      exec (.fencePacket k q) s = .next (s.rejectPacket k q p 5 2)) ∧
    (∀ (w : Instr) (act : Nat), (w, act) ∈ [(.markArm k q, 1), (.markDisarm k q, 2), (.markStart k q, 3), (.markFreeze k q, 4),
        (.markEvent k q, 5)] → mnat s.mem p.pa 1 = 4 → mnat s.mem (p.pa + 1) 1 = act → (∃ c, s.ctx? k = some c ∧ c.trig = []) →
      mnat s.mem (p.pa + 2) 2 ≠ 0 ∨ (∃ i, i < 7 ∧ mnat s.mem (p.pa + (8 + 8 * i)) 8 ≠ 0) →
      exec w s = .next (s.rejectPacket k q p 4 2)) ∧
    (mnat s.mem p.pa 1 = 2 → mnat s.mem (p.pa + 1) 1 = 0 → mnat s.mem (p.pa + 4) 4 = 0 →
      (∀ i, i < 6 → mnat s.mem (p.pa + (16 + 8 * i)) 8 = 0) →
      ∀ id v t, id = mnat s.mem (p.pa + 2) 2 → v = mnat s.mem (p.pa + 8) 8 → t = s.startPacket k q p 2 id v →
      (∀ e, (t.module k.m).events.find? (fun e => e.1 == id && e.2.key == k) = some (id, e) → v ≤ e.count.toNat →
        exec (.waitEvent k q) s = .next (t.completePacket k q p.idx)) ∧
      ((t.module k.m).events.find? (fun e => e.1 == id && e.2.key == k) = none → exec (.waitEvent k q) s = .next (t.eventStops k q id))) ∧
    (mnat s.mem p.pa 1 = 3 → mnat s.mem (p.pa + 1) 1 = 0 → (∀ i, i < 7 → mnat s.mem (p.pa + (8 + 8 * i)) 8 = 0) →
      exec (.signalEvent k q) s = .next ((s.startPacket k q p 3 (mnat s.mem (p.pa + 2) 2) 0).sendAdd k.m
        ⟨k, mnat s.mem (p.pa + 2) 2, max 1 (mnat s.mem (p.pa + 4) 4), .packet q p.idx, 0, 0, 0⟩)) ∧
    (mnat s.mem p.pa 1 = 5 → mnat s.mem (p.pa + 1) 7 = 0 → (∀ i, i < 7 → mnat s.mem (p.pa + (8 + 8 * i)) 8 = 0) →
      exec (.fencePacket k q) s = .next ((s.startPacket k q p 5 0 0).completePacket k q p.idx)) ∧
    (mnat s.mem p.pa 1 = 4 → mnat s.mem (p.pa + 2) 2 = 0 → (∀ i, i < 7 → mnat s.mem (p.pa + (8 + 8 * i)) 8 = 0) →
      (∃ c, s.ctx? k = some c ∧ c.trig = []) →
      ∀ (act mark : Nat) (t : State), act = mnat s.mem (p.pa + 1) 1 → mark = mnat s.mem (p.pa + 4) 4 → t = s.startPacket k q p 4 act mark →
      (act = 1 → exec (.markArm k q) s = .next ((t.putSeq k (t.seqEnter k ⟨1, false, false, 0, 0⟩)).completePacket k q p.idx)) ∧
      (act = 2 → exec (.markDisarm k q) s = .next ((t.putSeq k ⟨0, false, false, 0, 0⟩).completePacket k q p.idx)) ∧
      (act = 3 → exec (.markStart k q) s =
        .next ((t.putSeq k (t.seqEnter k { t.seqSt k with seq := 2, a1 := false, c1 := 0 })).completePacket k q p.idx)) ∧
      (act = 4 → exec (.markFreeze k q) s = .next ((t.putSeq k { t.seqSt k with seq := 3 }).completePacket k q p.idx)) ∧
      (act = 5 → exec (.markEvent k q) s =
        .next ((t.takeEvent k ⟨t.wall k.m, 1152, none, none, 6, mark, 0, 0, 0, []⟩).completePacket k q p.idx)))

/-- A qpop that waits takes the entry of a queue that holds one when it is woken; a grid whose teams have ended, or are
held by engine operations alone, and whose accesses have passed is complete, with its event signalled and its packet complete; a window
write of TAIL stores it, but is ignored and logged on
a queue that devices push (spec/12 R252; spec/14 R278, R280, R284). -/
def Claims.QueueUnitSteps : Prop :=
  (∀ (s : State) (k : GKey) (g : Group) (fl d q : Nat) (f : Flight) (qu : Queue), s.group? k = some g → g.flight? fl = some f →
    f.kind = .qpop d q → f.ready = false → s.queue? g.key q = some qu → qu.data = true → qu.off = false →
    (s.qHead qu = s.qTail qu → exec (.qpopWake k fl) s = .next s) ∧
    (s.qHead qu ≠ s.qTail qu → (s.line (lineOf (qu.block + 8))).red = none → ∃ t : State, t.mem =
      mwriteN s.mem (qu.block + 8) (toBytes 8 (mnat s.mem (qu.block + 8) 8 / 2 ^ 63 * 2 ^ 63 +
        (s.qHead qu + 1) % 2 ^ 63) ++ toBytes 8 (s.qHead qu + 1)) ∧ exec (.qpopWake k fl) s = .next (t.modGroup k (fun g =>
      g.modFlight fl (fun f => { f with ready := true, writes :=
        [.s d (BitVec.ofNat 64 (mnat s.mem (qu.slotAt (s.qHead qu)) 8)), .s (d + 1) 0#64] }))))) ∧
  (∀ (s : State) (grid : Nat) (g : Grid), s.grid? grid = some g → g.complete = false →
    g.left = (s.teams.filter (fun t => t.2.grid == grid && t.2.st != .ended)).length → s.gridDone grid g.key.m = true →
    exec (.gridComplete grid) s =
      .next (((s.setGrid grid { g with complete := true }).signalGrid g.key g.sigev).completePacket g.key g.q g.idx)) ∧
  ∀ (s : State) (k : CtxKey) (q : Nat) (v : DWord) (qu : Queue), s.queue? k q = some qu →
    (qu.devpush = false → qu.badEvent = false →
      exec (.hostTailWrite k q v) s = .next (s.hwStore qu.block (toBytes 8 v.toNat))) ∧
    (qu.devpush = true → ∃ t : State, exec (.hostTailWrite k q v) s = .next t ∧ t.mem = s.mem ∧ t.groups = s.groups)

/-- Packets of command queues, waking pops, completions and window writes. -/
def Obligations.QueueSteps : Prop :=
  Claims.PacketSteps ∧ Claims.QueueUnitSteps

/-- Contexts, events, queues and partitions: the control plane creates a context of good figures on a ready module, with its package
scratchpad and debug block zero; a context without copies is torn down; an inactive event is made active with count 0; a new queue's
block is written; a recompute at a millisecond whose set of runnable contexts is as before leaves the machine as it is (spec/14 R275, R277,
R286 to R288).
The placing of slices in a recompute is the model's reading (log entry 49). -/
def Claims.ControlPlaneSteps : Prop :=
  (∀ (s : State) (p : CtxParams) (md : Module), tget s.mods p.k.m = some md → md.ready = true → md.life ≠ .retired →
    s.ctx? p.k = none → CtxOk p = true →
    ∃ (t : State) (c : Context), exec (.contextCreate p) s = .next t ∧ t.ctx? p.k = some c ∧ c.p = p ∧ c.torn = none ∧ c.dies = [] ∧
      c.queues = [] ∧ (∀ i, i < 512 → mread t.mem (p.dbgBase + i) = 0#8) ∧
      (∀ a, a < p.dbgBase ∨ p.dbgBase + 512 ≤ a → mread t.mem a = mread s.mem a) ∧ t.groups = s.groups) ∧
  (∀ (s : State) (k : CtxKey) (c : Context), s.ctx? k = some c → c.torn = none → (∀ x ∈ s.cores, ∀ o ∈ x.2.copies, o.key ≠ k) →
    ∃ t : State, exec (.contextTeardown k) s = .next t ∧
      (t.ctx? k).map (fun c => (c.torn.isSome, c.dies, c.runnable)) = some (true, [], []) ∧ ∀ e ∈ t.groups, e.2.key ≠ k) ∧
  (∀ (s : State) (k : CtxKey) (c : Context) (id : Nat), s.ctx? k = some c → c.torn = none → 1 ≤ id → id ≤ 65535 →
    (s.module k.m).events.length < 4096 → (∀ e ∈ (s.module k.m).events, e.1 ≠ id) →
    exec (.eventActivate k id) s =
      .next (s.setModule k.m { (s.module k.m) with events := (s.module k.m).events ++ [(id, ⟨k, 0, [], []⟩)] }) ∧
    exec (.eventDeactivate k.m id) s = .next s) ∧
  (∀ (s : State) (m id : Nat) (e : Event), (s.module m).events.find? (fun e => e.1 == id) = some (id, e) → e.inline = [] →
    e.overflow = [] → exec (.eventDeactivate m id) s =
      .next (s.setModule m { (s.module m) with events := (s.module m).events.filter (fun x => x.1 ≠ id) })) ∧
  (∀ (s : State) (p : QueueParams) (c : Context), s.ctx? p.k = some c → c.torn = none → p.q ≤ 255 → (∀ q ∈ c.queues, q.1 ≠ p.q) →
    p.block % 128 = 0 → p.ring % 64 = 0 → ownLpddr p.k.m p.block = true → ownLpddr p.k.m p.ring = true → 4 ≤ p.logsz → p.logsz ≤ 20 →
    p.prio ≤ 3 →
    ∃ (t u : State), exec (.queueCreate p) s = .next u ∧ t = s.setCtx p.k { c with queues := c.queues ++
        [(p.q, ⟨p.block, p.ring, p.logsz, p.prio, p.data, p.devpush, false, false, [], 0⟩)] } ∧
      u = t.hwStore p.block (toBytes 8 0 ++ toBytes 8 (if c.dies.isEmpty then 0 else 2 ^ 63) ++ toBytes 8 0 ++ toBytes 8 p.ring ++
        toBytes 8 ((if p.devpush then 2 ^ 14 else 0) + p.prio * 2 ^ 12 + (if p.data then 2 ^ 11 else 0) + p.logsz) ++ toBytes 88 0)) ∧
  ∀ (s : State) (m : Nat), (s.module m).sliced = false →
    ((s.runnableCtxs m).map (fun c => c.1) = (s.module m).runSet → exec (.partitionRecompute m) s = .next s) ∧
    ((s.runnableCtxs m).map (fun c => c.1) ≠ (s.module m).runSet → (s.module m).wall.toNat % 1000000 = 0 →
      ((s.runnableCtxs m).map (fun c => c.2.p.mind)).sum ≤ 12 → (s.module m).lostDies = [] →
      ∃ (t u : State) (ps : List (Nat × List Nat)), exec (.partitionRecompute m) s = .next u ∧ u = t.partition m ps ∧ t.groups = s.groups ∧
        ps.map (fun p => p.1) = (s.runnableCtxs m).map (fun c => c.1))

/-- HOST_ACCESS: a load of the host on the populated memory of its module, which is ready, takes the bytes at their ordering points, and a
store within one
line that holds no register block writes them there; a window read answers TAIL or PROGRESS, and a window write at PROGRESS is logged and
changes no memory (spec/01 R12; spec/14 R278). -/
def Claims.HostAccesses : Prop :=
  (∀ (s : State) (m addr len : Nat), (s.module m).ready = true → s.populated (m * 2 ^ 48 + addr) = true →
    s.populated (m * 2 ^ 48 + addr + len - 1) = true →
    addr + len < 2 ^ 48 →
    ∀ bs t, s.hostRead m (lineCuts (m * 2 ^ 48 + addr) (len + 1) len) = some (bs, t) →
    exec (.hostAccess (.load m addr len)) s = .next (t.modModule m (fun x => { x with hostRead := bs }))) ∧
  (∀ (s : State) (m addr pa l : Nat) (bs : List Byte), (s.module m).ready = true → pa = m * 2 ^ 48 + addr → l = lineOf pa → 0 < bs.length →
    pa % 128 + bs.length ≤ 128 → s.populated pa = true → s.populated (pa + bs.length - 1) = true → addr + bs.length < 2 ^ 48 →
    s.hasRegs l = false → s.movedLine l = false → s.homeLost (128 * l) = false → (s.line l).red = none → (s.line l).lock = none →
    (s.line l).dir = .uncached → s.pinnedBy (lineMod l) l = false → s.xlatClear l [] = true →
    s.switchRoom l (mwriteN s.mem pa bs) = true →
    ∃ t : State, exec (.hostAccess (.store m addr bs)) s = .next t ∧ t.mem = mwriteN s.mem pa bs) ∧
  ∀ (s : State) (k : CtxKey) (q : Nat) (qu : Queue), s.queue? k q = some qu →
    exec (.hostAccess (.windowRead k q false)) s =
      .next (s.modModule k.m (fun x => { x with hostRead := toBytes 8 (mnat s.mem qu.block 8) })) ∧
    (∀ w, w = mnat s.mem (qu.block + 8) 8 → exec (.hostAccess (.windowRead k q true)) s =
      .next (s.modModule k.m (fun x => { x with hostRead := toBytes 8 (if w.testBit 63 then w else qu.outAt) }))) ∧
    ∃ t : State, exec (.hostAccess (.windowProgress k q)) s = .next t ∧ t = s.windowIgnored k q qu

/-- Contexts, events, queues, partitions and the host's accesses. -/
def Obligations.ControlPlane : Prop :=
  Claims.ControlPlaneSteps ∧ Claims.HostAccesses

/-- Stores to the fields of a debug block: SEQ clears the sequencer and enters the stored state; WHRD above WHCNT or more than
256 below it is ignored; WHBASE clears WHCNT and WHRD; CAPBASE clears CAPCNT; the control word loads the
countdowns of its context's cores with 2^SLOG when it turns sampling on; another field keeps its read-only and reserved bits (spec/18 R321,
R326,
R332). -/
def Claims.DebugStores : Prop :=
  ∀ (s : State) (k : CtxKey) (v : DWord),
    exec (.seqWrite k v) s = .next (s.putSeq k (s.seqEnter k ⟨v.toNat % 4, false, false, 0, 0⟩)) ∧
    (s.dbg k 0xC8 < v.toNat ∨ v.toNat + 256 < s.dbg k 0xC8 → exec (.whrdWrite k v) s = .next s) ∧
    (v.toNat ≤ s.dbg k 0xC8 → s.dbg k 0xC8 ≤ v.toNat + 256 → exec (.whrdWrite k v) s = .next (s.setDbg k 0xD8 v.toNat)) ∧
    exec (.whbaseWrite k v) s = .next (((s.setDbg k 0xC0 v.toNat).setDbg k 0xC8 0).setDbg k 0xD8 0) ∧
    exec (.capbaseWrite k v) s = .next ((s.setDbg k 0x08 v.toNat).setDbg k 0x18 0) ∧
    (∀ off, off ≠ 0 → dbgMask off ≠ 0 → exec (.registerWrite k off v) s = .next (s.setDbg k off (v.toNat &&& dbgMask off))) ∧
    exec (.registerWrite k 0 v) s = .next (State.setDbg (if slogOn v.toNat = true ∧ slogOn (s.dbg k 0) = false then
        s.loadCountdowns k (2 ^ (v.toNat / 256 % 32)) else s) k 0 (v.toNat &&& dbgMask 0)) ∧
    (∀ (c : Context) (d i : Nat), s.ctx? k = some c → d ∈ c.dies → i < 48 → slogOn v.toNat = true → slogOn (s.dbg k 0) = false →
      ∃ t : State, exec (.registerWrite k 0 v) s = .next t ∧
        (t.core ⟨k.m, d * 48 + i⟩).countdown = 2 ^ (v.toNat / 256 % 32)) ∧
    (∀ off, dbgMask off = 0 → exec (.registerWrite k off v) s = .next s)

/-- The trigger sequencer takes the earliest offered event, of equal ones that of the lowest core, once its nanosecond is over; in
state IDLE, and in FROZEN, its state stays, and in a state that counts, an event B that brings the count to N enters the next state;
a rule whose ASEL is a reserved code never counts and never fires (spec/18 R331, R332). -/
def Claims.SequencerSteps : Prop :=
  (∀ (s : State) (k : CtxKey) (c : Context) (e : TrigEv), s.ctx? k = some c → nextEvent c.trig = some e →
    (s.wall k.m ≤ e.wtime → exec (.sequencerEvent k) s = .next s) ∧
    (e.wtime < s.wall k.m → exec (.sequencerEvent k) s = .next (State.takeEvent (s.setCtx k { c with trig := dropEvent e c.trig }) k e))) ∧
  (∀ (es : List TrigEv) (e : TrigEv), nextEvent es = some e → e ∈ es ∧ ∀ f ∈ es, e.wtime < f.wtime ∨ (e.wtime = f.wtime ∧
    e.core ≤ f.core)) ∧
  (∀ (s : State) (k : CtxKey) (e : TrigEv) (x : SeqSt), s.seqSt k = x →
    (x.seq = 0 ∨ x.seq = 3 → ∃ t : State, s.takeEvent k e = t.putSeq k x) ∧
    (x.seq = 1 → ∀ (a f : Bool) (c : Nat), s.ruleStep k false x.a0 x.c0 e = (a, c, f) → ∃ t : State, s.takeEvent k e =
      t.putSeq k (if f = true then s.seqEnter k { x with a0 := a, c0 := c, seq := 2 } else { x with a0 := a, c0 := c })) ∧
    (x.seq = 2 → ∀ (a f : Bool) (c : Nat), s.ruleStep k true x.a1 x.c1 e = (a, c, f) → ∃ t : State, s.takeEvent k e =
      t.putSeq k (if f = true then { x with a1 := a, c1 := c, seq := 3 } else { x with a1 := a, c1 := c }))) ∧
  ∀ (s : State) (k : CtxKey) (e : TrigEv) (fr a : Bool) (c n bsel asel : Nat), s.seqRule k fr = (n, bsel, asel) → c < 2 ^ 32 - 1 →
    (4 ≤ asel → s.ruleStep k fr a c e = (a, c, false)) ∧
    (asel < 4 → asel ≠ 0 ∧ s.selects k asel e = true → s.ruleStep k fr a c e = (true, c, false)) ∧
    (asel < 4 → ¬ (asel ≠ 0 ∧ s.selects k asel e = true) → a = true → s.selects k bsel e = true →
      s.ruleStep k fr a c e = (true, c + 1, decide (n ≤ c + 1))) ∧
    (¬ (asel ≠ 0 ∧ s.selects k asel e = true) → a = false ∨ s.selects k bsel e = false → s.ruleStep k fr a c e = (a, c, false))

/-- Breakpoints and stops: a fragment that may issue at a stopping breakpoint does not issue and its team stops; the state that a logging
breakpoint took goes to the capture ring; a stop of a team that is not resident halts it; a halted team that is continued, or steps, is
runnable again when it was; a step has no place without a stopped fragment (spec/18 R329, R330). -/
def Claims.StopsAndBreakpoints : Prop :=
  (∀ (s : State) (g : Group) (f : Frag), s.group? s.cur.k = some g → g.frag s.cur.slot = some f → f.bpSkip = false →
    s.heldFrag s.cur.k s.cur.slot g f = false →
    (s.bpMatch g.key f.pc false = true → exec .breakpointHit s = .next ((s.setGroup s.cur.k (g.setFrag s.cur.slot
      (some { f with bpSkip := true }))).teamStop g.team .brk f.pc (some (g.gidx, s.cur.slot)))) ∧
    (s.bpMatch g.key f.pc false = false → exec .breakpointHit s = .next s)) ∧
  (∀ (s : State) (g : Group) (sl : Slot) (pc : DWord), s.group? s.cur.k = some g →
    (g.logAt = none → exec .logBreakpoint s = .next s) ∧
    (g.logAt = some (sl, pc) → ∃ (t : State) (snap : Snapshot), exec .logBreakpoint s = .next (t.tryEnd g.team) ∧ snap.pc = pc ∧
      snap.slot = sl ∧
      snap.regs = { g.regs with v := g.regs.v.filter (fun e => (Config.namedVregs pc).contains (e.1 / 32)) } ∧ snap.stack = g.stackBytes ∧
      t = (Config.snapshotBodies snap).foldl (fun s b => s.capture g.key (kindRecord 4 b))
        ((s.setGroup s.cur.k { g with logAt := none }).capture g.key (kindRecord 3 (Config.snapshotHead snap))))) ∧
  (∀ (s : State) (id : Nat) (t : Team) (cause : StopCause) (p : DWord) (run : Bool), s.team? id = some t → t.halted = false →
    t.stop = some (cause, p) → t.st = .saved run →
    ∃ u : State, exec (.teamStop id cause) s = .next u ∧ (u.team? id).map (fun t => t.halted) = some true ∧ u.groups = s.groups ∧
      ∀ c, s.ctx? t.key = some c → ∃ x, u.ctx? t.key = some x ∧ id ∉ x.runnable) ∧
  ∀ (s : State) (id : Nat) (t : Team) (step : Bool), s.team? id = some t → t.halted = true → t.st = .saved true →
    (step = true → t.stopAt ≠ none) →
    exec (if step then .debugStep id else .debugCont (.team id)) s = .next (State.modCtx (s.setTeam id { t with
        halted := false, stop := none, also := [], stepping := step, joined := s.wall t.key.m, stopAt := if step then t.stopAt else none })
      t.key (fun c => { c with runnable := c.runnable ++ [id] }))

/-- WATCH_HIT and STITCH_RECORD_RETURN: the first watched access of its context that asks for no stop leaves one record at WHCNT of the
ring, or is counted when 256 are not read; a sampled request that has been answered leaves its record in its core's sample buffer, or is
counted
when 64 are there (spec/18 R321, R327, R335). -/
def Claims.DebugRecords : Prop :=
  (∀ (s : State) (i : Nat) (a : WatchAcc), s.watches[i]? = some a → (∀ b ∈ s.watches.take i, b.key ≠ a.key) →
    (s.dbg a.key (0x88 + 16 * a.w)).testBit 50 = false →
    ∃ t : State, exec (.watchHit i) s = .next (t.tryEnd a.team) ∧ t.watches = s.watches.eraseIdx i ∧ t.groups = s.groups ∧
      (s.dbg a.key 0xC8 - s.dbg a.key 0xD8 = 256 → t.mem = (s.setDbg a.key 0xD0 (s.dbg a.key 0xD0 / 2 ^ 32 * 2 ^ 32 +
        min (s.dbg a.key 0xD0 % 2 ^ 32 + 1) (2 ^ 32 - 1))).mem) ∧
      (s.dbg a.key 0xC8 - s.dbg a.key 0xD8 ≠ 256 → ∃ r, t = State.setDbg { s with
        watches := s.watches.eraseIdx i, mem := mwriteN s.mem (s.dbg a.key 0xC0 + 32 * (s.dbg a.key 0xC8 % 256)) (toBytes 32 r) }
          a.key 0xC8 (s.dbg a.key 0xC8 + 1))) ∧
  ∀ (s : State) (i : Nat) (y : Stitch), s.stitches.find? (fun y => y.id == i) = some y → s.answered y = true →
    ∃ (t : State) (e : TrigEv), exec (.stitchRecordReturn i) s = .next (t.offer y.key e) ∧ e.code = 2 ∧
      e.arg = min (s.wall y.core.m - y.issued) (2 ^ 31 - 1) ∧ t.stitches = s.stitches.filter (fun z => z.id ≠ i) ∧
      ((s.core y.core).samples.length < 64 → (t.core y.core).samples = (s.core y.core).samples ++ [{ y with
        total := min (s.wall y.core.m - y.issued) (2 ^ 31 - 1) }] ∧ t.mem = s.mem) ∧
      (64 ≤ (s.core y.core).samples.length → t.cores = s.cores)

/-- The debug block, the trigger sequencer, breakpoints, stops and records. -/
def Obligations.DebugSteps : Prop :=
  Claims.DebugStores ∧ Claims.SequencerSteps ∧ Claims.StopsAndBreakpoints ∧ Claims.DebugRecords

/-- Usage: the counters of a context that has been torn down and whose engines are idle go into one signed record of the next number,
and the context is gone; an interim record leaves the context; an acknowledged record is held no longer (spec/19 R342, R343).
That an acknowledgement takes the first record of its number is the model's choice (log entry 54). -/
def Claims.UsageRecords : Prop :=
  (∀ (s : State) (k : CtxKey) (c : Context), s.ctx? k = some c →
    (∀ t0, c.torn = some t0 → s.enginesIdle k = true →
      ∃ (t : State) (r : Record), exec (.usageRecordEmit k) s = .next t ∧ (∀ x ∈ t.ctxs, x.1 ≠ k) ∧
        (t.module k.m).records = (s.module k.m).records ++ [r] ∧ r.rseq = (s.module k.m).rseq ∧ r.kind = 1 ∧
        r.body = (s.module k.m).recordBody k.m 1 (toBytes 2 k.ctx) (toBytes 8 c.created) (toBytes 8 t0) c.entries ∧
        (t.module k.m).rseq = (s.module k.m).rseq + 1 ∧ r.sigA = fit 64 (Config.signA (s.module k.m).dev r.body) ∧
        r.sigB = fit 3309 (Config.signB (s.module k.m).dev r.body) ∧ t.mem = s.mem) ∧
    (c.torn = none → exec (.usageRecordEmit k) s = .next s ∧
      ∃ (t : State) (r : Record), exec (.interimRecord k) s = .next t ∧ t.ctxs = s.ctxs ∧ r.kind = 3 ∧
        (t.module k.m).records = (s.module k.m).records ++ [r] ∧ (t.module k.m).rseq = (s.module k.m).rseq + 1 ∧ t.mem = s.mem)) ∧
  ∀ (s : State) (m n : Nat), exec (.recordAck m n) s =
    .next (s.modModule m (fun md => { md with records := md.records.eraseP (fun r => r.rseq == n) }))

/-- Measurements, resets and the life cycle: GET_MEASUREMENTS answers the four blocks of index 1 to 4; RESET, POWER_ON and a pushed
recovery image boot the module: no context, group or core state of it is left, its boot count rises, its records are counted from 0 and its
error counters are clear; a change of life-cycle state wipes it as well; nothing happens to a module that is not there (spec/01 R18; spec/19
R345, R346).
The order of wipe, records and boot is the model's reading (log entries 45, 52, 53). -/
def Claims.ModuleBoots : Prop :=
  (∀ (s : State) (m : Nat) (md : Module), tget s.mods m = some md →
    ∃ t : State, exec (.getMeasurements m) s = .next t ∧ (t.module m).meas.map (fun b => b.kind) = [1, 2, 3, 4] ∧ t.mem = s.mem ∧
      t.groups = s.groups) ∧
  (∀ (s : State) (m : Nat) (md : Module) (i : Instr) (img : Option (List Byte)), tget s.mods m = some md →
    (i = .reset m ∧ img = none) ∨ (i = .powerOn m ∧ img = none) ∨ (∃ b, i = .hostPushedRecoveryImage m b ∧ img = some b) →
    ∃ t : State, exec i s = .next t ∧ (∀ c ∈ t.ctxs, c.1.m ≠ m) ∧ (∀ g ∈ t.groups, g.1.m ≠ m) ∧
      (t.module m).boot = (md.boot + 1) % 2 ^ 32 ∧ (t.module m).rseq = 0 ∧ (t.module m).image = img ∧ (t.module m).errs = ⟨[], []⟩ ∧
      (t.module m).bootLife = md.life ∧ (i = .powerOn m → (t.module m).islands = [] ∧ (t.module m).volts = [])) ∧
  (∀ (s : State) (m : Nat) (md : Module) (st : LifeCycle), tget s.mods m = some md →
    (md.life = st → exec (.lifecycleChange m st) s = .next s) ∧
    (md.life ≠ st → ∃ t : State, exec (.lifecycleChange m st) s = .next t ∧ (t.module m).life = st ∧ (t.module m).boot = md.boot ∧
      (∀ c ∈ t.ctxs, c.1.m ≠ m) ∧ ∀ g ∈ t.groups, g.1.m ≠ m))

/-- Jobs and islands: a module alone, outside a job and without contexts, forms one with its pod number and job number and the
other members; a job without contexts ends with the module alone at pod number 0; optical groups change between phases; an island takes a
frequency
that its rules allow, and a voltage (spec/01 R8, R17, R18; spec/11 R227; spec/19 R344).
The members that join, the own rack bit in OPTGRP, and one module left at pod number 0 are the model's choices (log entries 55, 56, 57,
66, 96). -/
def Claims.JobsAndIslands : Prop :=
  (∀ (s : State) (a : Nat) (md : Module) (p : JobParams), s.mods = [(a, md)] → md.inJob = false → s.quiet = true → JobOk p = true →
    md.ready = true →
    ∃ t : State, exec (.jobFormation p) s = .next t ∧ t.mods.map (fun e => e.1) = p.self.pod :: p.others.map (fun x => x.pod) ∧
      t.groups = [] ∧ ∀ e ∈ t.mods, e.2.inJob = true ∧ e.2.jobid = p.jobid) ∧
  (∀ (s : State) (a : Nat) (md : Module), s.mods.find? (fun e => e.2.dev == 0) = some (a, md) → md.inJob = true → s.quiet = true →
    ∃ t : State, exec .jobEnd s = .next t ∧ ∃ md', t.mods = [(0, md')] ∧ md'.inJob = false ∧ md'.jobid = 0#64 ∧ t.groups = []) ∧
  (∀ (s : State) (gs : List (Nat × BitVec 16)), (∀ r ∈ s.reqs, r.closed = true) → (∀ p ∈ s.shuttles, p.dead = true) →
    (∀ p ∈ s.pend, p.wait = []) →
    exec (.opticalReconfigure gs) s = .next { s with mods := s.mods.map (fun (e : Nat × Module) =>
      match gs.find? (fun g => g.1 == e.1) with
      | some g => if e.2.inJob then (e.1, { e.2 with optgrp := g.2 ||| (1#16 <<< (e.1 / 64 % 16)) }) else e
      | none => e) }) ∧
  ∀ (s : State) (m i mhz mv : Nat) (md : Module), tget s.mods m = some md →
    (64 ≤ i ∨ (i = 63 ∧ mhz = 0) ∨ (i < 48 ∧ 2400 < mhz) → exec (.islandSet m i ⟨mhz, mv⟩) s = .next s) ∧
    (i < 48 → i % 4 = 0 → 0 < mhz → mhz ≤ 2400 →
      exec (.islandSet m i ⟨mhz, mv⟩) s =
        .next (s.setModule m { md with islands := nset 2400 md.islands i mhz, volts := nset 0 md.volts i mv }))

/-- Lost dies and modules: the lines that a lost die homes are gone, no partition of its module holds it, and every context of the
module loses its pool; when a module of a job is lost, no slice and no proxy keeps a line that it homes; one that is declared lost again
changes nothing (spec/15 R309, R310; spec/14 R289).
Their lines and pools are the model's reading (log entries 47, 48, 58). -/
def Claims.LostComponents : Prop :=
  (∀ (s : State) (m d : Nat) (md : Module), tget s.mods m = some md →
    (d < 12 → d ∉ md.lostDies → ∃ u : State, exec (.dieLost m d) s =
        .next ((u.ctxs.filter (fun c => c.1.m == m)).foldl (fun s c => s.losePool c.1) u) ∧
      (∀ e ∈ u.lines, ¬ (lineMod e.1 = m ∧ lineDie e.1 = d)) ∧ ∀ c ∈ u.ctxs, c.1.m = m → d ∉ c.2.dies) ∧
    (d ∈ md.lostDies → exec (.dieLost m d) s = .next s)) ∧
  ∀ (s : State) (m : Nat) (md : Module), tget s.mods m = some md →
    (md.inJob = true → md.lost = false → ∃ t : State, exec (.moduleLost m) s = .next t ∧
      (∀ c ∈ t.copies, lineMod c.1.2 ≠ m) ∧ ∀ p ∈ t.proxies, lineMod p.1.2 ≠ m) ∧
    (md.inJob = false ∨ md.lost = true → exec (.moduleLost m) s = .next s)

/-- Errors of the memories: a corrected error is counted for its structure and does nothing else; an uncorrectable one in an L1
copy drops the copy, in a clean L2 line only counts, in the device memory damages its granule and makes the reading lane lose its data, in
an eyelet
strikes it (spec/19 R347, R348).
Which places an error may name and what its record holds is the model's reading (log entry 19). -/
def Claims.MemoryErrors : Prop :=
  (∀ (s : State) (m : Nat) (st : Fin 11) (md : Module), tget s.mods m = some md → st.val ≠ 0 →
    exec (.correctedError m st) s = .next (s.setModule m { md with errs := { md.errs with
      corrected := nset 0 md.errs.corrected st.val (min (nget 0 md.errs.corrected st.val + 1) (2 ^ 32 - 1)) } })) ∧
  (∀ (s : State) (d : DieKey) (l : Nat), exec (.uncorrectableError (.l1Copy d l)) s =
    .next (State.countBad { s with copies := terase s.copies (d, l) } d.m 3)) ∧
  (∀ (s : State) (l : Nat), (s.line l).dirty = false →
    exec (.uncorrectableError (.l2Clean l)) s = .next (s.countBad (lineMod l) 6)) ∧
  (∀ (s : State) (pa len : Nat) (k : GKey) (fl i : Nat) (g : Group) (f : Flight) (p : Part), s.group? k = some g → g.flight? fl = some f →
    f.parts[i]? = some p → p.lane < 32 → g.ended = false → ∃ t : State, exec (.uncorrectableError (.dram pa len k fl i)) s = .next t ∧
      (pa, len) ∈ t.damaged ∧ t.mem = s.mem ∧
      ∀ h, t.group? k = some h → (∃ c ∈ h.late, c.code = 0x0A) ∧
        ∀ x, h.flight? fl = some x → ∀ q ∈ x.parts, q.lane ≠ p.lane) ∧
  (∀ (s : State) (k : CoreKey) (i : Nat) (y : Eyelet), (s.core k).eyelets[i]? = some y →
    exec (.uncorrectableError (.eyelet k i)) s = .next ((s.freeEyelet k y true).countBad k.m 8))

/-- Usage records, boots, measurements, jobs, islands, losses and memory errors. -/
def Obligations.Management : Prop :=
  Claims.UsageRecords ∧ Claims.ModuleBoots ∧ Claims.JobsAndIslands ∧ Claims.LostComponents ∧ Claims.MemoryErrors

/-- Every step keeps the canonical form of all six memories, from every state that has it: addresses strictly rising and no byte equal
to what an unlisted byte reads as, so that memories with equal bytes are equal data. -/
def Obligations.MemoriesStayCanonical : Prop :=
  ∀ s t : State, s.memOk = true → StepsTo s t → t.memOk = true
end

