-- ==== Sys2Proof/Laws/Control.lean ====
section
/-! SUPPORT. What the operations over fragments and the split stack can do: replacing a fragment, refilling a slot, settling, and
taking lanes out of frames. -/

namespace Sys2Proof.Machine

theorem Group.setFrag_same (g : Group) (sl : Slot) (f : Option Frag) : (g.setFrag sl f).frag sl = f := by
  cases sl <;> rfl
theorem Group.setFrag_other (g : Group) (sl : Slot) (f : Option Frag) :
    (g.setFrag sl f).frag (Slot.other sl) = g.frag (Slot.other sl) := by
  cases sl <;> rfl
theorem Group.setFrag_rest (g : Group) (sl : Slot) (f : Option Frag) :
    (g.setFrag sl f).regs = g.regs ∧ (g.setFrag sl f).sr = g.sr ∧ (g.setFrag sl f).exited = g.exited ∧
      (g.setFrag sl f).locks = g.locks ∧ (g.setFrag sl f).ended = g.ended ∧ (g.setFrag sl f).handler = g.handler ∧
      (g.setFrag sl f).stack = g.stack := by
  cases sl <;> simp [Group.setFrag]

/-- What a refill or a settling changes: the slot and the split stack, which only loses entries, and the order of what the lanes
have outstanding (spec/03 R45, R56, R57). -/
structure Settles (g g' : Group) (sl : Slot) : Prop where
  regs : g'.regs = g.regs
  sr : g'.sr = g.sr
  exited : g'.exited = g.exited
  locks : g'.locks = g.locks
  ended : g'.ended = g.ended
  handler : g'.handler = g.handler
  stack : ∀ e ∈ g'.stack, e ∈ g.stack
  other : g'.frag (Slot.other sl) = g.frag (Slot.other sl)

/-- All that a refill can do (spec/03 R45). -/
theorem Group.refill_settles (g : Group) (sl : Slot) (c : Nat) : Settles g (g.refill sl c) sl := by
  unfold Group.refill
  split
  · exact ⟨rfl, rfl, rfl, rfl, rfl, rfl, fun _ h => h, rfl⟩
  · rename_i e _
    obtain ⟨a, b, c, d, x, h, st⟩ := Group.setFrag_rest { g with stack := g.stack.filter (fun x => x ≠ e) } sl
      (some (Frag.plain e.pc e.mask e.tok e.rj e.depth (c + 8)))
    refine ⟨a, b, c, d, x, h, fun y hy => ?_, (Group.setFrag_other ..).trans (by cases sl <;> rfl)⟩
    rw [st] at hy
    exact (List.mem_filter.mp hy).1

/-- All that settling can do (spec/03 R56). -/
theorem Group.settle_settles (g : Group) (sl : Slot) (c : Nat) (ts : List (BitVec 16)) : Settles g (g.settle sl c ts) sl := by
  induction ts with
  | nil => exact g.refill_settles sl c
  | cons t ts ih =>
    unfold Group.settle
    split
    · rename_i fr p _ _
      split
      · obtain ⟨a, b, x, d, y, h, st⟩ := Group.setFrag_rest
          ({ g with stack := g.stack.filter (fun x => x ≠ fr && x ≠ p) }.fuse p.mask) sl
          (some (Frag.plain fr.rj p.mask fr.ptok fr.prj (fr.depth - 1) (c + 4)))
        refine ⟨a, b, x, d, y, h, fun y hy => ?_, (Group.setFrag_other ..).trans (by cases sl <;> rfl)⟩
        rw [st] at hy
        exact (List.mem_filter.mp hy).1
      · exact ih
    · exact ih

/-- A frame of the named tokens that stays after a trim has lost the lanes and still has others (spec/03 R54, R55). -/
theorem mem_trimFrames (st : List Entry) (ts : List (BitVec 16)) (m : LaneMask) (e : Entry) (h : e ∈ trimFrames st ts m)
    (hk : e.kind = .frame) (ht : e.tok ∈ ts) : e.xmask &&& m = 0#32 ∧ e.xmask ≠ 0#32 := by
  obtain ⟨h1, h2⟩ := List.mem_filter.mp h
  obtain ⟨a, _, rfl⟩ := List.mem_map.mp h1
  by_cases hc : (a.kind == .frame && ts.contains a.tok) = true
  · simp only [hc, if_true] at hk ht h2 ⊢
    refine ⟨by rw [BitVec.and_assoc]; simp [BitVec.not_and_self], fun h0 => ?_⟩
    simp_all
  · simp only [hc] at hk ht
    simp_all

end Sys2Proof.Machine
end

