-- ==== Sys2Proof/Laws/Mem.lean ====
section
/-! SUPPORT. Laws of tables, sparse maps and memories: a read after a write, and the canonical form, which every
operation of Machine/Mem.lean keeps. -/

namespace Sys2Proof.Machine

/-! ### Tables -/

@[simp] theorem tget_tset_self {κ β : Type} [DecidableEq κ] (t : Table κ β) (k : κ) (v : β) :
    tget (tset t k v) k = some v := by
  induction t with
  | nil => simp [tset, tget]
  | cons e t ih => obtain ⟨k', v'⟩ := e; by_cases h : k' = k <;> simp [tset, tget, h, ih]

theorem tget_tset_of_ne {κ β : Type} [DecidableEq κ] (t : Table κ β) {k j : κ} (v : β) (h : j ≠ k) :
    tget (tset t k v) j = tget t j := by
  induction t with
  | nil => simp [tset, tget, Ne.symm h]
  | cons e t ih =>
    obtain ⟨k', v'⟩ := e
    by_cases hk : k' = k
    · subst hk; simp [tset, tget, Ne.symm h]
    · by_cases hj : k' = j
      · subst hj; simp [tset, tget, hk]
      · simp [tset, tget, hk, hj, ih]

/-- Reading a table after setting one key. -/
theorem tget_tset {κ β : Type} [DecidableEq κ] (t : Table κ β) (k j : κ) (v : β) :
    tget (tset t k v) j = if j = k then some v else tget t j := by
  by_cases h : j = k
  · subst h; simp
  · simp [h, tget_tset_of_ne t v h]

@[simp] theorem tget_terase_self {κ β : Type} [DecidableEq κ] (t : Table κ β) (k : κ) :
    tget (terase t k) k = none := by
  induction t with
  | nil => rfl
  | cons e t ih =>
    obtain ⟨k', v'⟩ := e
    by_cases hk : k' = k
    · simpa [terase, hk] using ih
    · simpa [terase, tget, hk] using ih

theorem tget_terase_of_ne {κ β : Type} [DecidableEq κ] (t : Table κ β) {k j : κ} (h : j ≠ k) :
    tget (terase t k) j = tget t j := by
  induction t with
  | nil => rfl
  | cons e t ih =>
    obtain ⟨k', v'⟩ := e
    by_cases hk : k' = k
    · subst hk; simpa [terase, tget, Ne.symm h] using ih
    · by_cases hj : k' = j
      · subst hj; simp [terase, tget, hk]
      · simpa [terase, tget, hk, hj] using ih

/-! ### Sparse maps -/

theorem nget_filter_self {β : Type} (d : β) (m : NMap β) (a : Nat) :
    nget d (m.filter (fun c => c.1 ≠ a)) a = d := by
  induction m with
  | nil => rfl
  | cons e m ih =>
    obtain ⟨a', v'⟩ := e
    by_cases h : a' = a
    · simpa [h] using ih
    · simpa [nget, h] using ih

theorem nget_filter_of_ne {β : Type} (d : β) (m : NMap β) {a x : Nat} (h : x ≠ a) :
    nget d (m.filter (fun c => c.1 ≠ a)) x = nget d m x := by
  induction m with
  | nil => rfl
  | cons e m ih =>
    obtain ⟨a', v'⟩ := e
    by_cases ha : a' = a
    · subst ha; simpa [nget, Ne.symm h] using ih
    · by_cases hx : a' = x
      · subst hx; simp [nget, ha]
      · simpa [nget, ha, hx] using ih

theorem nget_ninsert {β : Type} (d : β) (m : NMap β) (a x : Nat) (v : β) (h : ∀ c ∈ m, c.1 ≠ a) :
    nget d (ninsert m a v) x = if x = a then v else nget d m x := by
  induction m with
  | nil =>
    by_cases hx : x = a
    · simp [ninsert, nget, hx]
    · simp [ninsert, nget, hx, Ne.symm hx]
  | cons e m ih =>
    obtain ⟨a', v'⟩ := e
    have ha : a' ≠ a := h (a', v') (by simp)
    have ih := ih (fun c hc => h c (List.mem_cons_of_mem _ hc))
    by_cases hl : a < a'
    · by_cases hx : x = a
      · simp [ninsert, nget, hl, hx]
      · simp [ninsert, nget, hl, hx, Ne.symm hx]
    · by_cases hx : a' = x
      · subst hx
        simp [ninsert, nget, hl, ha]
      · simp [ninsert, nget, hl, hx, ih]

/-- Reading a sparse map after setting one cell. -/
theorem nget_nset {β : Type} [DecidableEq β] (d : β) (m : NMap β) (a x : Nat) (v : β) :
    nget d (nset d m a v) x = if x = a then v else nget d m x := by
  unfold nset
  by_cases hv : v = d
  · subst hv
    by_cases hx : x = a
    · subst hx; simpa using nget_filter_self v m x
    · simpa [hx] using nget_filter_of_ne v m hx
  · have hn : ∀ c ∈ m.filter (fun c => c.1 ≠ a), c.1 ≠ a := fun c hc => by simpa using (List.mem_filter.1 hc).2
    have hi := nget_ninsert d _ a x v hn
    rw [if_neg hv, hi]
    by_cases hx : x = a
    · simp [hx]
    · rw [if_neg hx, if_neg hx, nget_filter_of_ne d m hx]

@[simp] theorem nget_nset_self {β : Type} [DecidableEq β] (d : β) (m : NMap β) (a : Nat) (v : β) :
    nget d (nset d m a v) a = v := by simp [nget_nset]

theorem nget_nset_of_ne {β : Type} [DecidableEq β] (d : β) (m : NMap β) {a x : Nat} (v : β) (h : x ≠ a) :
    nget d (nset d m a v) x = nget d m x := by simp [nget_nset, h]

/-- The canonical form of a map: what it says of the head and of the rest. -/
theorem nwf_cons {β : Type} [DecidableEq β] (d : β) (a : Nat) (v : β) (m : NMap β) :
    nwf d ((a, v) :: m) = true ↔ v ≠ d ∧ (∀ c ∈ m, a < c.1) ∧ nwf d m = true := by
  simp [nwf, and_assoc]

theorem nwf_filter {β : Type} [DecidableEq β] (d : β) (m : NMap β) (p : Nat × β → Bool) (h : nwf d m = true) :
    nwf d (m.filter p) = true := by
  induction m with
  | nil => rfl
  | cons e m ih =>
    obtain ⟨a, v⟩ := e
    obtain ⟨hv, hl, hm⟩ := (nwf_cons d a v m).1 h
    by_cases hp : p (a, v)
    · rw [List.filter_cons_of_pos hp]
      exact (nwf_cons ..).2 ⟨hv, fun c hc => hl c (List.mem_of_mem_filter hc), ih hm⟩
    · rw [List.filter_cons_of_neg hp]; exact ih hm

theorem mem_ninsert {β : Type} (m : NMap β) (a : Nat) (v : β) (c : Nat × β) (h : c ∈ ninsert m a v) :
    c = (a, v) ∨ c ∈ m := by
  induction m with
  | nil => simpa [ninsert] using h
  | cons e m ih =>
    obtain ⟨a', v'⟩ := e
    by_cases hl : a < a'
    · simpa [ninsert, hl] using h
    · simp only [ninsert, hl, if_false, List.mem_cons] at h
      rcases h with h | h
      · simp [h]
      · rcases ih h with h | h <;> simp [h]

theorem nwf_ninsert {β : Type} [DecidableEq β] (d : β) (m : NMap β) (a : Nat) (v : β) (hv : v ≠ d)
    (hn : ∀ c ∈ m, c.1 ≠ a) (h : nwf d m = true) : nwf d (ninsert m a v) = true := by
  induction m with
  | nil => simp [ninsert, nwf, hv]
  | cons e m ih =>
    obtain ⟨a', v'⟩ := e
    obtain ⟨hv', hl, hm⟩ := (nwf_cons d a' v' m).1 h
    have hne : a' ≠ a := hn (a', v') (by simp)
    have ih := ih (fun c hc => hn c (List.mem_cons_of_mem _ hc)) hm
    by_cases hlt : a < a'
    · simp only [ninsert, hlt, if_true]
      refine (nwf_cons ..).2 ⟨hv, fun c hc => ?_, h⟩
      rcases List.mem_cons.1 hc with rfl | hc
      · exact hlt
      · exact lt_trans hlt (hl c hc)
    · simp only [ninsert, hlt, if_false]
      refine (nwf_cons ..).2 ⟨hv', fun c hc => ?_, ih⟩
      rcases mem_ninsert m a v c hc with rfl | hc
      · simpa using lt_of_le_of_ne (Nat.le_of_not_lt hlt) hne
      · exact hl c hc

/-- Setting a cell keeps the canonical form. -/
theorem nwf_nset {β : Type} [DecidableEq β] (d : β) (m : NMap β) (a : Nat) (v : β) (h : nwf d m = true) :
    nwf d (nset d m a v) = true := by
  unfold nset
  have hf := nwf_filter d m (fun c => c.1 ≠ a) h
  by_cases hv : v = d
  · simpa [hv] using hf
  · have hn : ∀ c ∈ m.filter (fun c => c.1 ≠ a), c.1 ≠ a := fun c hc => by simpa using (List.mem_filter.1 hc).2
    simpa [hv] using nwf_ninsert d _ a v hv hn hf

/-- Two maps in canonical form that read alike are equal data. -/
theorem nwf_ext {β : Type} [DecidableEq β] (d : β) (m n : NMap β) (hm : nwf d m = true) (hn : nwf d n = true)
    (h : ∀ a, nget d m a = nget d n a) : m = n := by
  have below : ∀ (m : NMap β) (a : Nat), (∀ c ∈ m, a < c.1) → nget d m a = d := by
    intro m a hl
    induction m with
    | nil => rfl
    | cons e m ih =>
      have : e.1 ≠ a := Nat.ne_of_gt (hl e (by simp))
      simp [nget, this, ih (fun c hc => hl c (List.mem_cons_of_mem _ hc))]
  induction m generalizing n with
  | nil =>
    cases n with
    | nil => rfl
    | cons e n =>
      obtain ⟨a, v⟩ := e
      obtain ⟨hv, -, -⟩ := (nwf_cons ..).1 hn
      have := h a
      simp [nget] at this
      exact absurd this.symm hv
  | cons e m ih =>
    obtain ⟨a, v⟩ := e
    obtain ⟨hv, hl, hm'⟩ := (nwf_cons ..).1 hm
    cases n with
    | nil => exact absurd (by simpa [nget] using h a) hv
    | cons e' n =>
      obtain ⟨b, w⟩ := e'
      obtain ⟨hw, hl', hn'⟩ := (nwf_cons ..).1 hn
      have hab : a = b := by
        rcases Nat.lt_trichotomy a b with hlt | heq | hgt
        · have h1 : nget d ((b, w) :: n) a = d := below _ a (by
            intro c hc; rcases List.mem_cons.1 hc with rfl | hc
            · exact hlt
            · exact lt_trans hlt (hl' c hc))
          have h2 := h a
          rw [h1] at h2
          exact absurd (by simpa [nget] using h2) hv
        · exact heq
        · have h1 : nget d ((a, v) :: m) b = d := below _ b (by
            intro c hc; rcases List.mem_cons.1 hc with rfl | hc
            · exact hgt
            · exact lt_trans hgt (hl c hc))
          have h2 := h b
          rw [h1] at h2
          exact absurd (by simpa [nget] using h2.symm) hw
      subst hab
      have hvw : v = w := by simpa [nget] using h a
      subst hvw
      congr 1
      refine ih n hm' hn' (fun x => ?_)
      by_cases hx : a = x
      · subst hx; rw [below m a hl, below n a hl']
      · simpa [nget, hx] using h x

/-! ### Memories -/

@[simp] theorem mread_mwrite_self (m : Memory) (a : Nat) (b : Byte) : mread (mwrite m a b) a = b :=
  nget_nset_self ..

theorem mread_mwrite (m : Memory) (a x : Nat) (b : Byte) :
    mread (mwrite m a b) x = if x = a then b else mread m x := nget_nset ..

theorem mread_mwrite_of_ne (m : Memory) {a x : Nat} (b : Byte) (h : x ≠ a) :
    mread (mwrite m a b) x = mread m x := nget_nset_of_ne _ _ _ h

theorem mwrite_wf (m : Memory) (a : Nat) (b : Byte) (h : m.wf = true) : (mwrite m a b).wf = true :=
  nwf_nset _ _ _ _ h

theorem mwriteN_wf (m : Memory) (a : Nat) (bs : List Byte) (h : m.wf = true) : (mwriteN m a bs).wf = true := by
  induction bs generalizing m a with
  | nil => exact h
  | cons b bs ih => exact ih _ _ (mwrite_wf m a b h)

theorem mwriteAt_wf (m : Memory) (base : Nat) (bs : List (Nat × Byte)) (h : m.wf = true) :
    (mwriteAt m base bs).wf = true := by
  induction bs generalizing m with
  | nil => exact h
  | cons b bs ih => exact ih _ (mwrite_wf m _ _ h)

theorem mclear_wf (m : Memory) (a n : Nat) (h : m.wf = true) : (mclear m a n).wf = true := nwf_filter _ _ _ h

theorem filter_wf (m : Memory) (p : Host.Cell → Bool) (h : m.wf = true) : Memory.wf (m.filter p) = true :=
  nwf_filter _ _ _ h

theorem mslice_wf (m : Memory) (a n : Nat) (h : m.wf = true) : (mslice m a n).wf = true := by
  unfold mslice Memory.wf
  have hf := nwf_filter 0#8 m (fun c => decide (a ≤ c.1) && decide (c.1 < a + n)) h
  have hb : ∀ c ∈ m.filter (fun c => decide (a ≤ c.1) && decide (c.1 < a + n)), a ≤ c.1 := fun c hc => by
    have := (List.mem_filter.1 hc).2
    simp at this
    exact this.1
  generalize hl : m.filter (fun c => decide (a ≤ c.1) && decide (c.1 < a + n)) = l at hf hb
  clear hl
  induction l with
  | nil => rfl
  | cons e l ih =>
    obtain ⟨x, v⟩ := e
    obtain ⟨hv, hlt, hl⟩ := (nwf_cons ..).1 hf
    refine (nwf_cons ..).2 ⟨hv, ?_, ih hl (fun c hc => hb c (List.mem_cons_of_mem _ hc))⟩
    intro c hc
    obtain ⟨c', hc', rfl⟩ := List.mem_map.1 hc
    have h1 := hlt c' hc'
    have h2 := hb (x, v) (by simp)
    simp at h2 ⊢
    omega

theorem mpaste_wf (m : Memory) (a : Nat) (sl : Memory) (h : m.wf = true) : (mpaste m a sl).wf = true := by
  unfold mpaste
  induction sl generalizing m with
  | nil => exact h
  | cons e l ih => exact ih _ (mwrite_wf _ _ _ h)

/-- Reading a memory after writing a run of bytes. -/
theorem mread_mwriteN (m : Memory) (a : Nat) (bs : List Byte) (x : Nat) :
    mread (mwriteN m a bs) x = if a ≤ x ∧ x < a + bs.length then bs.getD (x - a) 0 else mread m x := by
  induction bs generalizing m a with
  | nil => simp [mwriteN]
  | cons b bs ih =>
    rw [mwriteN, ih, mread_mwrite]
    simp only [List.length_cons]
    by_cases h1 : a + 1 ≤ x ∧ x < a + 1 + bs.length
    · have h2 : a ≤ x ∧ x < a + (bs.length + 1) := by omega
      have h3 : x - a = (x - (a + 1)) + 1 := by omega
      rw [if_pos h1, if_pos h2, h3, List.getD_cons_succ]
    · by_cases hx : x = a
      · subst hx; simp
      · have h2 : ¬ (a ≤ x ∧ x < a + (bs.length + 1)) := by omega
        rw [if_neg h1, if_neg hx, if_neg h2]

theorem mreadN_length (m : Memory) (a n : Nat) : (mreadN m a n).length = n := by
  induction n generalizing a with
  | zero => rfl
  | succ n ih => simp [mreadN, ih]

theorem getElem_mreadN (m : Memory) (a n i : Nat) (h : i < (mreadN m a n).length) :
    (mreadN m a n)[i] = mread m (a + i) := by
  induction n generalizing a i with
  | zero => simp [mreadN] at h
  | succ n ih =>
    cases i with
    | zero => simp [mreadN]
    | succ i =>
      have := ih (a + 1) i (by simpa [mreadN] using h)
      simpa [mreadN, Nat.add_assoc, Nat.add_comm 1 i] using this

/-- A run of bytes that has been written reads as written. -/
theorem mreadN_mwriteN (m : Memory) (a : Nat) (bs : List Byte) : mreadN (mwriteN m a bs) a bs.length = bs := by
  apply List.ext_getElem
  · exact mreadN_length ..
  · intro i h1 h2
    rw [getElem_mreadN, mread_mwriteN, if_pos (by omega), Nat.add_sub_cancel_left, List.getD_eq_getElem _ _ h2]

/-- Writing a run of bytes leaves every byte outside it. -/
theorem mread_mwriteN_outside (m : Memory) (a : Nat) (bs : List Byte) (x : Nat) (h : x < a ∨ a + bs.length ≤ x) :
    mread (mwriteN m a bs) x = mread m x := by
  rw [mread_mwriteN, if_neg (by omega)]

/-- Writing bytes at offsets leaves every byte that is not named. -/
theorem mread_mwriteAt_outside (m : Memory) (base : Nat) (bs : List (Nat × Byte)) (x : Nat)
    (h : ∀ b ∈ bs, x ≠ base + b.1) : mread (mwriteAt m base bs) x = mread m x := by
  induction bs generalizing m with
  | nil => rfl
  | cons b bs ih =>
    obtain ⟨o, v⟩ := b
    rw [mwriteAt, ih _ (fun c hc => h c (List.mem_cons_of_mem _ hc)),
      mread_mwrite_of_ne _ _ (h (o, v) (by simp))]

/-- Two memories in canonical form that read alike at every address are equal data. -/
theorem memory_ext (m n : Memory) (hm : m.wf = true) (hn : n.wf = true) (h : ∀ a, mread m a = mread n a) : m = n :=
  nwf_ext _ _ _ hm hn h

@[simp] theorem toBytes_length (n v : Nat) : (toBytes n v).length = n := by
  induction n generalizing v with
  | zero => rfl
  | succ n ih => simp [toBytes, ih]

/-- The n low bytes of a value, read back (spec/00 R1). -/
theorem ofBytes_toBytes (n v : Nat) : ofBytes (toBytes n v) = v % 256 ^ n := by
  induction n generalizing v with
  | zero => simp [toBytes, ofBytes, Nat.mod_one]
  | succ n ih =>
    have ih := ih (v / 256)
    unfold ofBytes at ih ⊢
    rw [toBytes, List.foldr_cons, ih, BitVec.toNat_ofNat, show (256 : Nat) ^ (n + 1) = 256 * 256 ^ n from Nat.pow_succ']
    exact (Nat.mod_mul (a := 256) (b := 256 ^ n) (x := v)).symm

end Sys2Proof.Machine
end

