-- ==== Sys2Proof/Laws/State.lean ====
section
/-! SUPPORT. What each update of the state leaves alone, field by field, and what reading a table gives after it. -/

namespace Sys2Proof.Machine

/-! ### setModule -/

@[simp] theorem State.setModule_agenda (s : State) (m : Nat) (x : Module) : (s.setModule m x).agenda = s.agenda := rfl
@[simp] theorem State.setModule_cur (s : State) (m : Nat) (x : Module) : (s.setModule m x).cur = s.cur := rfl
@[simp] theorem State.setModule_freeCtr (s : State) (m : Nat) (x : Module) : (s.setModule m x).freeCtr = s.freeCtr := rfl
@[simp] theorem State.setModule_mods (s : State) (m : Nat) (x : Module) : (s.setModule m x).mods = tset s.mods m x := rfl
@[simp] theorem State.setModule_parked (s : State) (m : Nat) (x : Module) : (s.setModule m x).parked = s.parked := rfl
@[simp] theorem State.setModule_dies (s : State) (m : Nat) (x : Module) : (s.setModule m x).dies = s.dies := rfl
@[simp] theorem State.setModule_cores (s : State) (m : Nat) (x : Module) : (s.setModule m x).cores = s.cores := rfl
@[simp] theorem State.setModule_groups (s : State) (m : Nat) (x : Module) : (s.setModule m x).groups = s.groups := rfl
@[simp] theorem State.setModule_teams (s : State) (m : Nat) (x : Module) : (s.setModule m x).teams = s.teams := rfl
@[simp] theorem State.setModule_grids (s : State) (m : Nat) (x : Module) : (s.setModule m x).grids = s.grids := rfl
@[simp] theorem State.setModule_ctxs (s : State) (m : Nat) (x : Module) : (s.setModule m x).ctxs = s.ctxs := rfl
@[simp] theorem State.setModule_mem (s : State) (m : Nat) (x : Module) : (s.setModule m x).mem = s.mem := rfl
@[simp] theorem State.setModule_dev (s : State) (m : Nat) (x : Module) : (s.setModule m x).dev = s.dev := rfl
@[simp] theorem State.setModule_scratch (s : State) (m : Nat) (x : Module) : (s.setModule m x).scratch = s.scratch := rfl
@[simp] theorem State.setModule_pks (s : State) (m : Nat) (x : Module) : (s.setModule m x).pks = s.pks := rfl
@[simp] theorem State.setModule_lpm (s : State) (m : Nat) (x : Module) : (s.setModule m x).lpm = s.lpm := rfl
@[simp] theorem State.setModule_tiles (s : State) (m : Nat) (x : Module) : (s.setModule m x).tiles = s.tiles := rfl
@[simp] theorem State.setModule_lines (s : State) (m : Nat) (x : Module) : (s.setModule m x).lines = s.lines := rfl
@[simp] theorem State.setModule_copies (s : State) (m : Nat) (x : Module) : (s.setModule m x).copies = s.copies := rfl
@[simp] theorem State.setModule_proxies (s : State) (m : Nat) (x : Module) : (s.setModule m x).proxies = s.proxies := rfl
@[simp] theorem State.setModule_pend (s : State) (m : Nat) (x : Module) : (s.setModule m x).pend = s.pend := rfl
@[simp] theorem State.setModule_reqs (s : State) (m : Nat) (x : Module) : (s.setModule m x).reqs = s.reqs := rfl
@[simp] theorem State.setModule_flags (s : State) (m : Nat) (x : Module) : (s.setModule m x).flags = s.flags := rfl
@[simp] theorem State.setModule_unlks (s : State) (m : Nat) (x : Module) : (s.setModule m x).unlks = s.unlks := rfl
@[simp] theorem State.setModule_shuttles (s : State) (m : Nat) (x : Module) : (s.setModule m x).shuttles = s.shuttles := rfl
@[simp] theorem State.setModule_colls (s : State) (m : Nat) (x : Module) : (s.setModule m x).colls = s.colls := rfl
@[simp] theorem State.setModule_streams (s : State) (m : Nat) (x : Module) : (s.setModule m x).streams = s.streams := rfl
@[simp] theorem State.setModule_collLost (s : State) (m : Nat) (x : Module) : (s.setModule m x).collLost = s.collLost := rfl
@[simp] theorem State.setModule_gathers (s : State) (m : Nat) (x : Module) : (s.setModule m x).gathers = s.gathers := rfl
@[simp] theorem State.setModule_drains (s : State) (m : Nat) (x : Module) : (s.setModule m x).drains = s.drains := rfl
@[simp] theorem State.setModule_shevs (s : State) (m : Nat) (x : Module) : (s.setModule m x).shevs = s.shevs := rfl
@[simp] theorem State.setModule_contribs (s : State) (m : Nat) (x : Module) : (s.setModule m x).contribs = s.contribs := rfl
@[simp] theorem State.setModule_rounds (s : State) (m : Nat) (x : Module) : (s.setModule m x).rounds = s.rounds := rfl
@[simp] theorem State.setModule_landings (s : State) (m : Nat) (x : Module) : (s.setModule m x).landings = s.landings := rfl
@[simp] theorem State.setModule_barq (s : State) (m : Nat) (x : Module) : (s.setModule m x).barq = s.barq := rfl
@[simp] theorem State.setModule_stitches (s : State) (m : Nat) (x : Module) : (s.setModule m x).stitches = s.stitches := rfl
@[simp] theorem State.setModule_watches (s : State) (m : Nat) (x : Module) : (s.setModule m x).watches = s.watches := rfl
@[simp] theorem State.setModule_damaged (s : State) (m : Nat) (x : Module) : (s.setModule m x).damaged = s.damaged := rfl
@[simp] theorem State.setModule_spoiled (s : State) (m : Nat) (x : Module) : (s.setModule m x).spoiled = s.spoiled := rfl
@[simp] theorem State.setModule_badTiles (s : State) (m : Nat) (x : Module) : (s.setModule m x).badTiles = s.badTiles := rfl
@[simp] theorem State.setModule_nextId (s : State) (m : Nat) (x : Module) : (s.setModule m x).nextId = s.nextId := rfl
@[simp] theorem State.setModule_module_self (s : State) (m : Nat) (x : Module) : (s.setModule m x).module m = x := by simp [State.module, State.setModule]
theorem State.setModule_module_of_ne (s : State) (m : Nat) (x : Module) (j : Nat) (h : j ≠ m) : (s.setModule m x).module j = s.module j := by
  simp [State.module, State.setModule, tget_tset_of_ne _ _ h]
@[simp] theorem State.setModule_core (s : State) (m : Nat) (x : Module) (j : CoreKey) : (s.setModule m x).core j = s.core j := rfl
@[simp] theorem State.setModule_die (s : State) (m : Nat) (x : Module) (j : DieKey) : (s.setModule m x).die j = s.die j := rfl
@[simp] theorem State.setModule_line (s : State) (m : Nat) (x : Module) (j : Nat) : (s.setModule m x).line j = s.line j := rfl
@[simp] theorem State.setModule_group (s : State) (m : Nat) (x : Module) (j : GKey) : (s.setModule m x).group? j = s.group? j := rfl
@[simp] theorem State.setModule_ctx (s : State) (m : Nat) (x : Module) (j : CtxKey) : (s.setModule m x).ctx? j = s.ctx? j := rfl
@[simp] theorem State.setModule_team (s : State) (m : Nat) (x : Module) (j : Nat) : (s.setModule m x).team? j = s.team? j := rfl
@[simp] theorem State.setModule_grid (s : State) (m : Nat) (x : Module) (j : Nat) : (s.setModule m x).grid? j = s.grid? j := rfl

/-! ### setCore -/

@[simp] theorem State.setCore_agenda (s : State) (k : CoreKey) (x : Core) : (s.setCore k x).agenda = s.agenda := rfl
@[simp] theorem State.setCore_cur (s : State) (k : CoreKey) (x : Core) : (s.setCore k x).cur = s.cur := rfl
@[simp] theorem State.setCore_freeCtr (s : State) (k : CoreKey) (x : Core) : (s.setCore k x).freeCtr = s.freeCtr := rfl
@[simp] theorem State.setCore_mods (s : State) (k : CoreKey) (x : Core) : (s.setCore k x).mods = s.mods := rfl
@[simp] theorem State.setCore_parked (s : State) (k : CoreKey) (x : Core) : (s.setCore k x).parked = s.parked := rfl
@[simp] theorem State.setCore_dies (s : State) (k : CoreKey) (x : Core) : (s.setCore k x).dies = s.dies := rfl
@[simp] theorem State.setCore_cores (s : State) (k : CoreKey) (x : Core) : (s.setCore k x).cores = tset s.cores k x := rfl
@[simp] theorem State.setCore_groups (s : State) (k : CoreKey) (x : Core) : (s.setCore k x).groups = s.groups := rfl
@[simp] theorem State.setCore_teams (s : State) (k : CoreKey) (x : Core) : (s.setCore k x).teams = s.teams := rfl
@[simp] theorem State.setCore_grids (s : State) (k : CoreKey) (x : Core) : (s.setCore k x).grids = s.grids := rfl
@[simp] theorem State.setCore_ctxs (s : State) (k : CoreKey) (x : Core) : (s.setCore k x).ctxs = s.ctxs := rfl
@[simp] theorem State.setCore_mem (s : State) (k : CoreKey) (x : Core) : (s.setCore k x).mem = s.mem := rfl
@[simp] theorem State.setCore_dev (s : State) (k : CoreKey) (x : Core) : (s.setCore k x).dev = s.dev := rfl
@[simp] theorem State.setCore_scratch (s : State) (k : CoreKey) (x : Core) : (s.setCore k x).scratch = s.scratch := rfl
@[simp] theorem State.setCore_pks (s : State) (k : CoreKey) (x : Core) : (s.setCore k x).pks = s.pks := rfl
@[simp] theorem State.setCore_lpm (s : State) (k : CoreKey) (x : Core) : (s.setCore k x).lpm = s.lpm := rfl
@[simp] theorem State.setCore_tiles (s : State) (k : CoreKey) (x : Core) : (s.setCore k x).tiles = s.tiles := rfl
@[simp] theorem State.setCore_lines (s : State) (k : CoreKey) (x : Core) : (s.setCore k x).lines = s.lines := rfl
@[simp] theorem State.setCore_copies (s : State) (k : CoreKey) (x : Core) : (s.setCore k x).copies = s.copies := rfl
@[simp] theorem State.setCore_proxies (s : State) (k : CoreKey) (x : Core) : (s.setCore k x).proxies = s.proxies := rfl
@[simp] theorem State.setCore_pend (s : State) (k : CoreKey) (x : Core) : (s.setCore k x).pend = s.pend := rfl
@[simp] theorem State.setCore_reqs (s : State) (k : CoreKey) (x : Core) : (s.setCore k x).reqs = s.reqs := rfl
@[simp] theorem State.setCore_flags (s : State) (k : CoreKey) (x : Core) : (s.setCore k x).flags = s.flags := rfl
@[simp] theorem State.setCore_unlks (s : State) (k : CoreKey) (x : Core) : (s.setCore k x).unlks = s.unlks := rfl
@[simp] theorem State.setCore_shuttles (s : State) (k : CoreKey) (x : Core) : (s.setCore k x).shuttles = s.shuttles := rfl
@[simp] theorem State.setCore_colls (s : State) (k : CoreKey) (x : Core) : (s.setCore k x).colls = s.colls := rfl
@[simp] theorem State.setCore_streams (s : State) (k : CoreKey) (x : Core) : (s.setCore k x).streams = s.streams := rfl
@[simp] theorem State.setCore_collLost (s : State) (k : CoreKey) (x : Core) : (s.setCore k x).collLost = s.collLost := rfl
@[simp] theorem State.setCore_gathers (s : State) (k : CoreKey) (x : Core) : (s.setCore k x).gathers = s.gathers := rfl
@[simp] theorem State.setCore_drains (s : State) (k : CoreKey) (x : Core) : (s.setCore k x).drains = s.drains := rfl
@[simp] theorem State.setCore_shevs (s : State) (k : CoreKey) (x : Core) : (s.setCore k x).shevs = s.shevs := rfl
@[simp] theorem State.setCore_contribs (s : State) (k : CoreKey) (x : Core) : (s.setCore k x).contribs = s.contribs := rfl
@[simp] theorem State.setCore_rounds (s : State) (k : CoreKey) (x : Core) : (s.setCore k x).rounds = s.rounds := rfl
@[simp] theorem State.setCore_landings (s : State) (k : CoreKey) (x : Core) : (s.setCore k x).landings = s.landings := rfl
@[simp] theorem State.setCore_barq (s : State) (k : CoreKey) (x : Core) : (s.setCore k x).barq = s.barq := rfl
@[simp] theorem State.setCore_stitches (s : State) (k : CoreKey) (x : Core) : (s.setCore k x).stitches = s.stitches := rfl
@[simp] theorem State.setCore_watches (s : State) (k : CoreKey) (x : Core) : (s.setCore k x).watches = s.watches := rfl
@[simp] theorem State.setCore_damaged (s : State) (k : CoreKey) (x : Core) : (s.setCore k x).damaged = s.damaged := rfl
@[simp] theorem State.setCore_spoiled (s : State) (k : CoreKey) (x : Core) : (s.setCore k x).spoiled = s.spoiled := rfl
@[simp] theorem State.setCore_badTiles (s : State) (k : CoreKey) (x : Core) : (s.setCore k x).badTiles = s.badTiles := rfl
@[simp] theorem State.setCore_nextId (s : State) (k : CoreKey) (x : Core) : (s.setCore k x).nextId = s.nextId := rfl
@[simp] theorem State.setCore_module (s : State) (k : CoreKey) (x : Core) (j : Nat) : (s.setCore k x).module j = s.module j := rfl
@[simp] theorem State.setCore_core_self (s : State) (k : CoreKey) (x : Core) : (s.setCore k x).core k = x := by simp [State.core, State.setCore]
theorem State.setCore_core_of_ne (s : State) (k : CoreKey) (x : Core) (j : CoreKey) (h : j ≠ k) : (s.setCore k x).core j = s.core j := by
  simp [State.core, State.setCore, tget_tset_of_ne _ _ h]
@[simp] theorem State.setCore_die (s : State) (k : CoreKey) (x : Core) (j : DieKey) : (s.setCore k x).die j = s.die j := rfl
@[simp] theorem State.setCore_line (s : State) (k : CoreKey) (x : Core) (j : Nat) : (s.setCore k x).line j = s.line j := rfl
@[simp] theorem State.setCore_group (s : State) (k : CoreKey) (x : Core) (j : GKey) : (s.setCore k x).group? j = s.group? j := rfl
@[simp] theorem State.setCore_ctx (s : State) (k : CoreKey) (x : Core) (j : CtxKey) : (s.setCore k x).ctx? j = s.ctx? j := rfl
@[simp] theorem State.setCore_team (s : State) (k : CoreKey) (x : Core) (j : Nat) : (s.setCore k x).team? j = s.team? j := rfl
@[simp] theorem State.setCore_grid (s : State) (k : CoreKey) (x : Core) (j : Nat) : (s.setCore k x).grid? j = s.grid? j := rfl

/-! ### setDie -/

@[simp] theorem State.setDie_agenda (s : State) (k : DieKey) (x : Die) : (s.setDie k x).agenda = s.agenda := rfl
@[simp] theorem State.setDie_cur (s : State) (k : DieKey) (x : Die) : (s.setDie k x).cur = s.cur := rfl
@[simp] theorem State.setDie_freeCtr (s : State) (k : DieKey) (x : Die) : (s.setDie k x).freeCtr = s.freeCtr := rfl
@[simp] theorem State.setDie_mods (s : State) (k : DieKey) (x : Die) : (s.setDie k x).mods = s.mods := rfl
@[simp] theorem State.setDie_parked (s : State) (k : DieKey) (x : Die) : (s.setDie k x).parked = s.parked := rfl
@[simp] theorem State.setDie_dies (s : State) (k : DieKey) (x : Die) : (s.setDie k x).dies = tset s.dies k x := rfl
@[simp] theorem State.setDie_cores (s : State) (k : DieKey) (x : Die) : (s.setDie k x).cores = s.cores := rfl
@[simp] theorem State.setDie_groups (s : State) (k : DieKey) (x : Die) : (s.setDie k x).groups = s.groups := rfl
@[simp] theorem State.setDie_teams (s : State) (k : DieKey) (x : Die) : (s.setDie k x).teams = s.teams := rfl
@[simp] theorem State.setDie_grids (s : State) (k : DieKey) (x : Die) : (s.setDie k x).grids = s.grids := rfl
@[simp] theorem State.setDie_ctxs (s : State) (k : DieKey) (x : Die) : (s.setDie k x).ctxs = s.ctxs := rfl
@[simp] theorem State.setDie_mem (s : State) (k : DieKey) (x : Die) : (s.setDie k x).mem = s.mem := rfl
@[simp] theorem State.setDie_dev (s : State) (k : DieKey) (x : Die) : (s.setDie k x).dev = s.dev := rfl
@[simp] theorem State.setDie_scratch (s : State) (k : DieKey) (x : Die) : (s.setDie k x).scratch = s.scratch := rfl
@[simp] theorem State.setDie_pks (s : State) (k : DieKey) (x : Die) : (s.setDie k x).pks = s.pks := rfl
@[simp] theorem State.setDie_lpm (s : State) (k : DieKey) (x : Die) : (s.setDie k x).lpm = s.lpm := rfl
@[simp] theorem State.setDie_tiles (s : State) (k : DieKey) (x : Die) : (s.setDie k x).tiles = s.tiles := rfl
@[simp] theorem State.setDie_lines (s : State) (k : DieKey) (x : Die) : (s.setDie k x).lines = s.lines := rfl
@[simp] theorem State.setDie_copies (s : State) (k : DieKey) (x : Die) : (s.setDie k x).copies = s.copies := rfl
@[simp] theorem State.setDie_proxies (s : State) (k : DieKey) (x : Die) : (s.setDie k x).proxies = s.proxies := rfl
@[simp] theorem State.setDie_pend (s : State) (k : DieKey) (x : Die) : (s.setDie k x).pend = s.pend := rfl
@[simp] theorem State.setDie_reqs (s : State) (k : DieKey) (x : Die) : (s.setDie k x).reqs = s.reqs := rfl
@[simp] theorem State.setDie_flags (s : State) (k : DieKey) (x : Die) : (s.setDie k x).flags = s.flags := rfl
@[simp] theorem State.setDie_unlks (s : State) (k : DieKey) (x : Die) : (s.setDie k x).unlks = s.unlks := rfl
@[simp] theorem State.setDie_shuttles (s : State) (k : DieKey) (x : Die) : (s.setDie k x).shuttles = s.shuttles := rfl
@[simp] theorem State.setDie_colls (s : State) (k : DieKey) (x : Die) : (s.setDie k x).colls = s.colls := rfl
@[simp] theorem State.setDie_streams (s : State) (k : DieKey) (x : Die) : (s.setDie k x).streams = s.streams := rfl
@[simp] theorem State.setDie_collLost (s : State) (k : DieKey) (x : Die) : (s.setDie k x).collLost = s.collLost := rfl
@[simp] theorem State.setDie_gathers (s : State) (k : DieKey) (x : Die) : (s.setDie k x).gathers = s.gathers := rfl
@[simp] theorem State.setDie_drains (s : State) (k : DieKey) (x : Die) : (s.setDie k x).drains = s.drains := rfl
@[simp] theorem State.setDie_shevs (s : State) (k : DieKey) (x : Die) : (s.setDie k x).shevs = s.shevs := rfl
@[simp] theorem State.setDie_contribs (s : State) (k : DieKey) (x : Die) : (s.setDie k x).contribs = s.contribs := rfl
@[simp] theorem State.setDie_rounds (s : State) (k : DieKey) (x : Die) : (s.setDie k x).rounds = s.rounds := rfl
@[simp] theorem State.setDie_landings (s : State) (k : DieKey) (x : Die) : (s.setDie k x).landings = s.landings := rfl
@[simp] theorem State.setDie_barq (s : State) (k : DieKey) (x : Die) : (s.setDie k x).barq = s.barq := rfl
@[simp] theorem State.setDie_stitches (s : State) (k : DieKey) (x : Die) : (s.setDie k x).stitches = s.stitches := rfl
@[simp] theorem State.setDie_watches (s : State) (k : DieKey) (x : Die) : (s.setDie k x).watches = s.watches := rfl
@[simp] theorem State.setDie_damaged (s : State) (k : DieKey) (x : Die) : (s.setDie k x).damaged = s.damaged := rfl
@[simp] theorem State.setDie_spoiled (s : State) (k : DieKey) (x : Die) : (s.setDie k x).spoiled = s.spoiled := rfl
@[simp] theorem State.setDie_badTiles (s : State) (k : DieKey) (x : Die) : (s.setDie k x).badTiles = s.badTiles := rfl
@[simp] theorem State.setDie_nextId (s : State) (k : DieKey) (x : Die) : (s.setDie k x).nextId = s.nextId := rfl
@[simp] theorem State.setDie_module (s : State) (k : DieKey) (x : Die) (j : Nat) : (s.setDie k x).module j = s.module j := rfl
@[simp] theorem State.setDie_core (s : State) (k : DieKey) (x : Die) (j : CoreKey) : (s.setDie k x).core j = s.core j := rfl
@[simp] theorem State.setDie_die_self (s : State) (k : DieKey) (x : Die) : (s.setDie k x).die k = x := by simp [State.die, State.setDie]
theorem State.setDie_die_of_ne (s : State) (k : DieKey) (x : Die) (j : DieKey) (h : j ≠ k) : (s.setDie k x).die j = s.die j := by
  simp [State.die, State.setDie, tget_tset_of_ne _ _ h]
@[simp] theorem State.setDie_line (s : State) (k : DieKey) (x : Die) (j : Nat) : (s.setDie k x).line j = s.line j := rfl
@[simp] theorem State.setDie_group (s : State) (k : DieKey) (x : Die) (j : GKey) : (s.setDie k x).group? j = s.group? j := rfl
@[simp] theorem State.setDie_ctx (s : State) (k : DieKey) (x : Die) (j : CtxKey) : (s.setDie k x).ctx? j = s.ctx? j := rfl
@[simp] theorem State.setDie_team (s : State) (k : DieKey) (x : Die) (j : Nat) : (s.setDie k x).team? j = s.team? j := rfl
@[simp] theorem State.setDie_grid (s : State) (k : DieKey) (x : Die) (j : Nat) : (s.setDie k x).grid? j = s.grid? j := rfl

/-! ### setLine -/

@[simp] theorem State.setLine_agenda (s : State) (l : Nat) (x : Line) : (s.setLine l x).agenda = s.agenda := rfl
@[simp] theorem State.setLine_cur (s : State) (l : Nat) (x : Line) : (s.setLine l x).cur = s.cur := rfl
@[simp] theorem State.setLine_freeCtr (s : State) (l : Nat) (x : Line) : (s.setLine l x).freeCtr = s.freeCtr := rfl
@[simp] theorem State.setLine_mods (s : State) (l : Nat) (x : Line) : (s.setLine l x).mods = s.mods := rfl
@[simp] theorem State.setLine_parked (s : State) (l : Nat) (x : Line) : (s.setLine l x).parked = s.parked := rfl
@[simp] theorem State.setLine_dies (s : State) (l : Nat) (x : Line) : (s.setLine l x).dies = s.dies := rfl
@[simp] theorem State.setLine_cores (s : State) (l : Nat) (x : Line) : (s.setLine l x).cores = s.cores := rfl
@[simp] theorem State.setLine_groups (s : State) (l : Nat) (x : Line) : (s.setLine l x).groups = s.groups := rfl
@[simp] theorem State.setLine_teams (s : State) (l : Nat) (x : Line) : (s.setLine l x).teams = s.teams := rfl
@[simp] theorem State.setLine_grids (s : State) (l : Nat) (x : Line) : (s.setLine l x).grids = s.grids := rfl
@[simp] theorem State.setLine_ctxs (s : State) (l : Nat) (x : Line) : (s.setLine l x).ctxs = s.ctxs := rfl
@[simp] theorem State.setLine_mem (s : State) (l : Nat) (x : Line) : (s.setLine l x).mem = s.mem := rfl
@[simp] theorem State.setLine_dev (s : State) (l : Nat) (x : Line) : (s.setLine l x).dev = s.dev := rfl
@[simp] theorem State.setLine_scratch (s : State) (l : Nat) (x : Line) : (s.setLine l x).scratch = s.scratch := rfl
@[simp] theorem State.setLine_pks (s : State) (l : Nat) (x : Line) : (s.setLine l x).pks = s.pks := rfl
@[simp] theorem State.setLine_lpm (s : State) (l : Nat) (x : Line) : (s.setLine l x).lpm = s.lpm := rfl
@[simp] theorem State.setLine_tiles (s : State) (l : Nat) (x : Line) : (s.setLine l x).tiles = s.tiles := rfl
@[simp] theorem State.setLine_lines (s : State) (l : Nat) (x : Line) : (s.setLine l x).lines = tset s.lines l x := rfl
@[simp] theorem State.setLine_copies (s : State) (l : Nat) (x : Line) : (s.setLine l x).copies = s.copies := rfl
@[simp] theorem State.setLine_proxies (s : State) (l : Nat) (x : Line) : (s.setLine l x).proxies = s.proxies := rfl
@[simp] theorem State.setLine_pend (s : State) (l : Nat) (x : Line) : (s.setLine l x).pend = s.pend := rfl
@[simp] theorem State.setLine_reqs (s : State) (l : Nat) (x : Line) : (s.setLine l x).reqs = s.reqs := rfl
@[simp] theorem State.setLine_flags (s : State) (l : Nat) (x : Line) : (s.setLine l x).flags = s.flags := rfl
@[simp] theorem State.setLine_unlks (s : State) (l : Nat) (x : Line) : (s.setLine l x).unlks = s.unlks := rfl
@[simp] theorem State.setLine_shuttles (s : State) (l : Nat) (x : Line) : (s.setLine l x).shuttles = s.shuttles := rfl
@[simp] theorem State.setLine_colls (s : State) (l : Nat) (x : Line) : (s.setLine l x).colls = s.colls := rfl
@[simp] theorem State.setLine_streams (s : State) (l : Nat) (x : Line) : (s.setLine l x).streams = s.streams := rfl
@[simp] theorem State.setLine_collLost (s : State) (l : Nat) (x : Line) : (s.setLine l x).collLost = s.collLost := rfl
@[simp] theorem State.setLine_gathers (s : State) (l : Nat) (x : Line) : (s.setLine l x).gathers = s.gathers := rfl
@[simp] theorem State.setLine_drains (s : State) (l : Nat) (x : Line) : (s.setLine l x).drains = s.drains := rfl
@[simp] theorem State.setLine_shevs (s : State) (l : Nat) (x : Line) : (s.setLine l x).shevs = s.shevs := rfl
@[simp] theorem State.setLine_contribs (s : State) (l : Nat) (x : Line) : (s.setLine l x).contribs = s.contribs := rfl
@[simp] theorem State.setLine_rounds (s : State) (l : Nat) (x : Line) : (s.setLine l x).rounds = s.rounds := rfl
@[simp] theorem State.setLine_landings (s : State) (l : Nat) (x : Line) : (s.setLine l x).landings = s.landings := rfl
@[simp] theorem State.setLine_barq (s : State) (l : Nat) (x : Line) : (s.setLine l x).barq = s.barq := rfl
@[simp] theorem State.setLine_stitches (s : State) (l : Nat) (x : Line) : (s.setLine l x).stitches = s.stitches := rfl
@[simp] theorem State.setLine_watches (s : State) (l : Nat) (x : Line) : (s.setLine l x).watches = s.watches := rfl
@[simp] theorem State.setLine_damaged (s : State) (l : Nat) (x : Line) : (s.setLine l x).damaged = s.damaged := rfl
@[simp] theorem State.setLine_spoiled (s : State) (l : Nat) (x : Line) : (s.setLine l x).spoiled = s.spoiled := rfl
@[simp] theorem State.setLine_badTiles (s : State) (l : Nat) (x : Line) : (s.setLine l x).badTiles = s.badTiles := rfl
@[simp] theorem State.setLine_nextId (s : State) (l : Nat) (x : Line) : (s.setLine l x).nextId = s.nextId := rfl
@[simp] theorem State.setLine_module (s : State) (l : Nat) (x : Line) (j : Nat) : (s.setLine l x).module j = s.module j := rfl
@[simp] theorem State.setLine_core (s : State) (l : Nat) (x : Line) (j : CoreKey) : (s.setLine l x).core j = s.core j := rfl
@[simp] theorem State.setLine_die (s : State) (l : Nat) (x : Line) (j : DieKey) : (s.setLine l x).die j = s.die j := rfl
@[simp] theorem State.setLine_line_self (s : State) (l : Nat) (x : Line) : (s.setLine l x).line l = x := by simp [State.line, State.setLine]
theorem State.setLine_line_of_ne (s : State) (l : Nat) (x : Line) (j : Nat) (h : j ≠ l) : (s.setLine l x).line j = s.line j := by
  simp [State.line, State.setLine, tget_tset_of_ne _ _ h]
@[simp] theorem State.setLine_group (s : State) (l : Nat) (x : Line) (j : GKey) : (s.setLine l x).group? j = s.group? j := rfl
@[simp] theorem State.setLine_ctx (s : State) (l : Nat) (x : Line) (j : CtxKey) : (s.setLine l x).ctx? j = s.ctx? j := rfl
@[simp] theorem State.setLine_team (s : State) (l : Nat) (x : Line) (j : Nat) : (s.setLine l x).team? j = s.team? j := rfl
@[simp] theorem State.setLine_grid (s : State) (l : Nat) (x : Line) (j : Nat) : (s.setLine l x).grid? j = s.grid? j := rfl

/-! ### setGroup -/

@[simp] theorem State.setGroup_agenda (s : State) (k : GKey) (x : Group) : (s.setGroup k x).agenda = s.agenda := rfl
@[simp] theorem State.setGroup_cur (s : State) (k : GKey) (x : Group) : (s.setGroup k x).cur = s.cur := rfl
@[simp] theorem State.setGroup_freeCtr (s : State) (k : GKey) (x : Group) : (s.setGroup k x).freeCtr = s.freeCtr := rfl
@[simp] theorem State.setGroup_mods (s : State) (k : GKey) (x : Group) : (s.setGroup k x).mods = s.mods := rfl
@[simp] theorem State.setGroup_parked (s : State) (k : GKey) (x : Group) : (s.setGroup k x).parked = s.parked := rfl
@[simp] theorem State.setGroup_dies (s : State) (k : GKey) (x : Group) : (s.setGroup k x).dies = s.dies := rfl
@[simp] theorem State.setGroup_cores (s : State) (k : GKey) (x : Group) : (s.setGroup k x).cores = s.cores := rfl
@[simp] theorem State.setGroup_groups (s : State) (k : GKey) (x : Group) : (s.setGroup k x).groups = tset s.groups k x := rfl
@[simp] theorem State.setGroup_teams (s : State) (k : GKey) (x : Group) : (s.setGroup k x).teams = s.teams := rfl
@[simp] theorem State.setGroup_grids (s : State) (k : GKey) (x : Group) : (s.setGroup k x).grids = s.grids := rfl
@[simp] theorem State.setGroup_ctxs (s : State) (k : GKey) (x : Group) : (s.setGroup k x).ctxs = s.ctxs := rfl
@[simp] theorem State.setGroup_mem (s : State) (k : GKey) (x : Group) : (s.setGroup k x).mem = s.mem := rfl
@[simp] theorem State.setGroup_dev (s : State) (k : GKey) (x : Group) : (s.setGroup k x).dev = s.dev := rfl
@[simp] theorem State.setGroup_scratch (s : State) (k : GKey) (x : Group) : (s.setGroup k x).scratch = s.scratch := rfl
@[simp] theorem State.setGroup_pks (s : State) (k : GKey) (x : Group) : (s.setGroup k x).pks = s.pks := rfl
@[simp] theorem State.setGroup_lpm (s : State) (k : GKey) (x : Group) : (s.setGroup k x).lpm = s.lpm := rfl
@[simp] theorem State.setGroup_tiles (s : State) (k : GKey) (x : Group) : (s.setGroup k x).tiles = s.tiles := rfl
@[simp] theorem State.setGroup_lines (s : State) (k : GKey) (x : Group) : (s.setGroup k x).lines = s.lines := rfl
@[simp] theorem State.setGroup_copies (s : State) (k : GKey) (x : Group) : (s.setGroup k x).copies = s.copies := rfl
@[simp] theorem State.setGroup_proxies (s : State) (k : GKey) (x : Group) : (s.setGroup k x).proxies = s.proxies := rfl
@[simp] theorem State.setGroup_pend (s : State) (k : GKey) (x : Group) : (s.setGroup k x).pend = s.pend := rfl
@[simp] theorem State.setGroup_reqs (s : State) (k : GKey) (x : Group) : (s.setGroup k x).reqs = s.reqs := rfl
@[simp] theorem State.setGroup_flags (s : State) (k : GKey) (x : Group) : (s.setGroup k x).flags = s.flags := rfl
@[simp] theorem State.setGroup_unlks (s : State) (k : GKey) (x : Group) : (s.setGroup k x).unlks = s.unlks := rfl
@[simp] theorem State.setGroup_shuttles (s : State) (k : GKey) (x : Group) : (s.setGroup k x).shuttles = s.shuttles := rfl
@[simp] theorem State.setGroup_colls (s : State) (k : GKey) (x : Group) : (s.setGroup k x).colls = s.colls := rfl
@[simp] theorem State.setGroup_streams (s : State) (k : GKey) (x : Group) : (s.setGroup k x).streams = s.streams := rfl
@[simp] theorem State.setGroup_collLost (s : State) (k : GKey) (x : Group) : (s.setGroup k x).collLost = s.collLost := rfl
@[simp] theorem State.setGroup_gathers (s : State) (k : GKey) (x : Group) : (s.setGroup k x).gathers = s.gathers := rfl
@[simp] theorem State.setGroup_drains (s : State) (k : GKey) (x : Group) : (s.setGroup k x).drains = s.drains := rfl
@[simp] theorem State.setGroup_shevs (s : State) (k : GKey) (x : Group) : (s.setGroup k x).shevs = s.shevs := rfl
@[simp] theorem State.setGroup_contribs (s : State) (k : GKey) (x : Group) : (s.setGroup k x).contribs = s.contribs := rfl
@[simp] theorem State.setGroup_rounds (s : State) (k : GKey) (x : Group) : (s.setGroup k x).rounds = s.rounds := rfl
@[simp] theorem State.setGroup_landings (s : State) (k : GKey) (x : Group) : (s.setGroup k x).landings = s.landings := rfl
@[simp] theorem State.setGroup_barq (s : State) (k : GKey) (x : Group) : (s.setGroup k x).barq = s.barq := rfl
@[simp] theorem State.setGroup_stitches (s : State) (k : GKey) (x : Group) : (s.setGroup k x).stitches = s.stitches := rfl
@[simp] theorem State.setGroup_watches (s : State) (k : GKey) (x : Group) : (s.setGroup k x).watches = s.watches := rfl
@[simp] theorem State.setGroup_damaged (s : State) (k : GKey) (x : Group) : (s.setGroup k x).damaged = s.damaged := rfl
@[simp] theorem State.setGroup_spoiled (s : State) (k : GKey) (x : Group) : (s.setGroup k x).spoiled = s.spoiled := rfl
@[simp] theorem State.setGroup_badTiles (s : State) (k : GKey) (x : Group) : (s.setGroup k x).badTiles = s.badTiles := rfl
@[simp] theorem State.setGroup_nextId (s : State) (k : GKey) (x : Group) : (s.setGroup k x).nextId = s.nextId := rfl
@[simp] theorem State.setGroup_module (s : State) (k : GKey) (x : Group) (j : Nat) : (s.setGroup k x).module j = s.module j := rfl
@[simp] theorem State.setGroup_core (s : State) (k : GKey) (x : Group) (j : CoreKey) : (s.setGroup k x).core j = s.core j := rfl
@[simp] theorem State.setGroup_die (s : State) (k : GKey) (x : Group) (j : DieKey) : (s.setGroup k x).die j = s.die j := rfl
@[simp] theorem State.setGroup_line (s : State) (k : GKey) (x : Group) (j : Nat) : (s.setGroup k x).line j = s.line j := rfl
@[simp] theorem State.setGroup_group_self (s : State) (k : GKey) (x : Group) : (s.setGroup k x).group? k = some x := by simp [State.group?, State.setGroup]
theorem State.setGroup_group_of_ne (s : State) (k : GKey) (x : Group) (j : GKey) (h : j ≠ k) : (s.setGroup k x).group? j = s.group? j := by
  simp [State.group?, State.setGroup, tget_tset_of_ne _ _ h]
@[simp] theorem State.setGroup_ctx (s : State) (k : GKey) (x : Group) (j : CtxKey) : (s.setGroup k x).ctx? j = s.ctx? j := rfl
@[simp] theorem State.setGroup_team (s : State) (k : GKey) (x : Group) (j : Nat) : (s.setGroup k x).team? j = s.team? j := rfl
@[simp] theorem State.setGroup_grid (s : State) (k : GKey) (x : Group) (j : Nat) : (s.setGroup k x).grid? j = s.grid? j := rfl

/-! ### setCtx -/

@[simp] theorem State.setCtx_agenda (s : State) (k : CtxKey) (x : Context) : (s.setCtx k x).agenda = s.agenda := rfl
@[simp] theorem State.setCtx_cur (s : State) (k : CtxKey) (x : Context) : (s.setCtx k x).cur = s.cur := rfl
@[simp] theorem State.setCtx_freeCtr (s : State) (k : CtxKey) (x : Context) : (s.setCtx k x).freeCtr = s.freeCtr := rfl
@[simp] theorem State.setCtx_mods (s : State) (k : CtxKey) (x : Context) : (s.setCtx k x).mods = s.mods := rfl
@[simp] theorem State.setCtx_parked (s : State) (k : CtxKey) (x : Context) : (s.setCtx k x).parked = s.parked := rfl
@[simp] theorem State.setCtx_dies (s : State) (k : CtxKey) (x : Context) : (s.setCtx k x).dies = s.dies := rfl
@[simp] theorem State.setCtx_cores (s : State) (k : CtxKey) (x : Context) : (s.setCtx k x).cores = s.cores := rfl
@[simp] theorem State.setCtx_groups (s : State) (k : CtxKey) (x : Context) : (s.setCtx k x).groups = s.groups := rfl
@[simp] theorem State.setCtx_teams (s : State) (k : CtxKey) (x : Context) : (s.setCtx k x).teams = s.teams := rfl
@[simp] theorem State.setCtx_grids (s : State) (k : CtxKey) (x : Context) : (s.setCtx k x).grids = s.grids := rfl
@[simp] theorem State.setCtx_ctxs (s : State) (k : CtxKey) (x : Context) : (s.setCtx k x).ctxs = tset s.ctxs k x := rfl
@[simp] theorem State.setCtx_mem (s : State) (k : CtxKey) (x : Context) : (s.setCtx k x).mem = s.mem := rfl
@[simp] theorem State.setCtx_dev (s : State) (k : CtxKey) (x : Context) : (s.setCtx k x).dev = s.dev := rfl
@[simp] theorem State.setCtx_scratch (s : State) (k : CtxKey) (x : Context) : (s.setCtx k x).scratch = s.scratch := rfl
@[simp] theorem State.setCtx_pks (s : State) (k : CtxKey) (x : Context) : (s.setCtx k x).pks = s.pks := rfl
@[simp] theorem State.setCtx_lpm (s : State) (k : CtxKey) (x : Context) : (s.setCtx k x).lpm = s.lpm := rfl
@[simp] theorem State.setCtx_tiles (s : State) (k : CtxKey) (x : Context) : (s.setCtx k x).tiles = s.tiles := rfl
@[simp] theorem State.setCtx_lines (s : State) (k : CtxKey) (x : Context) : (s.setCtx k x).lines = s.lines := rfl
@[simp] theorem State.setCtx_copies (s : State) (k : CtxKey) (x : Context) : (s.setCtx k x).copies = s.copies := rfl
@[simp] theorem State.setCtx_proxies (s : State) (k : CtxKey) (x : Context) : (s.setCtx k x).proxies = s.proxies := rfl
@[simp] theorem State.setCtx_pend (s : State) (k : CtxKey) (x : Context) : (s.setCtx k x).pend = s.pend := rfl
@[simp] theorem State.setCtx_reqs (s : State) (k : CtxKey) (x : Context) : (s.setCtx k x).reqs = s.reqs := rfl
@[simp] theorem State.setCtx_flags (s : State) (k : CtxKey) (x : Context) : (s.setCtx k x).flags = s.flags := rfl
@[simp] theorem State.setCtx_unlks (s : State) (k : CtxKey) (x : Context) : (s.setCtx k x).unlks = s.unlks := rfl
@[simp] theorem State.setCtx_shuttles (s : State) (k : CtxKey) (x : Context) : (s.setCtx k x).shuttles = s.shuttles := rfl
@[simp] theorem State.setCtx_colls (s : State) (k : CtxKey) (x : Context) : (s.setCtx k x).colls = s.colls := rfl
@[simp] theorem State.setCtx_streams (s : State) (k : CtxKey) (x : Context) : (s.setCtx k x).streams = s.streams := rfl
@[simp] theorem State.setCtx_collLost (s : State) (k : CtxKey) (x : Context) : (s.setCtx k x).collLost = s.collLost := rfl
@[simp] theorem State.setCtx_gathers (s : State) (k : CtxKey) (x : Context) : (s.setCtx k x).gathers = s.gathers := rfl
@[simp] theorem State.setCtx_drains (s : State) (k : CtxKey) (x : Context) : (s.setCtx k x).drains = s.drains := rfl
@[simp] theorem State.setCtx_shevs (s : State) (k : CtxKey) (x : Context) : (s.setCtx k x).shevs = s.shevs := rfl
@[simp] theorem State.setCtx_contribs (s : State) (k : CtxKey) (x : Context) : (s.setCtx k x).contribs = s.contribs := rfl
@[simp] theorem State.setCtx_rounds (s : State) (k : CtxKey) (x : Context) : (s.setCtx k x).rounds = s.rounds := rfl
@[simp] theorem State.setCtx_landings (s : State) (k : CtxKey) (x : Context) : (s.setCtx k x).landings = s.landings := rfl
@[simp] theorem State.setCtx_barq (s : State) (k : CtxKey) (x : Context) : (s.setCtx k x).barq = s.barq := rfl
@[simp] theorem State.setCtx_stitches (s : State) (k : CtxKey) (x : Context) : (s.setCtx k x).stitches = s.stitches := rfl
@[simp] theorem State.setCtx_watches (s : State) (k : CtxKey) (x : Context) : (s.setCtx k x).watches = s.watches := rfl
@[simp] theorem State.setCtx_damaged (s : State) (k : CtxKey) (x : Context) : (s.setCtx k x).damaged = s.damaged := rfl
@[simp] theorem State.setCtx_spoiled (s : State) (k : CtxKey) (x : Context) : (s.setCtx k x).spoiled = s.spoiled := rfl
@[simp] theorem State.setCtx_badTiles (s : State) (k : CtxKey) (x : Context) : (s.setCtx k x).badTiles = s.badTiles := rfl
@[simp] theorem State.setCtx_nextId (s : State) (k : CtxKey) (x : Context) : (s.setCtx k x).nextId = s.nextId := rfl
@[simp] theorem State.setCtx_module (s : State) (k : CtxKey) (x : Context) (j : Nat) : (s.setCtx k x).module j = s.module j := rfl
@[simp] theorem State.setCtx_core (s : State) (k : CtxKey) (x : Context) (j : CoreKey) : (s.setCtx k x).core j = s.core j := rfl
@[simp] theorem State.setCtx_die (s : State) (k : CtxKey) (x : Context) (j : DieKey) : (s.setCtx k x).die j = s.die j := rfl
@[simp] theorem State.setCtx_line (s : State) (k : CtxKey) (x : Context) (j : Nat) : (s.setCtx k x).line j = s.line j := rfl
@[simp] theorem State.setCtx_group (s : State) (k : CtxKey) (x : Context) (j : GKey) : (s.setCtx k x).group? j = s.group? j := rfl
@[simp] theorem State.setCtx_ctx_self (s : State) (k : CtxKey) (x : Context) : (s.setCtx k x).ctx? k = some x := by simp [State.ctx?, State.setCtx]
theorem State.setCtx_ctx_of_ne (s : State) (k : CtxKey) (x : Context) (j : CtxKey) (h : j ≠ k) : (s.setCtx k x).ctx? j = s.ctx? j := by
  simp [State.ctx?, State.setCtx, tget_tset_of_ne _ _ h]
@[simp] theorem State.setCtx_team (s : State) (k : CtxKey) (x : Context) (j : Nat) : (s.setCtx k x).team? j = s.team? j := rfl
@[simp] theorem State.setCtx_grid (s : State) (k : CtxKey) (x : Context) (j : Nat) : (s.setCtx k x).grid? j = s.grid? j := rfl

/-! ### setTeam -/

@[simp] theorem State.setTeam_agenda (s : State) (t : Nat) (x : Team) : (s.setTeam t x).agenda = s.agenda := rfl
@[simp] theorem State.setTeam_cur (s : State) (t : Nat) (x : Team) : (s.setTeam t x).cur = s.cur := rfl
@[simp] theorem State.setTeam_freeCtr (s : State) (t : Nat) (x : Team) : (s.setTeam t x).freeCtr = s.freeCtr := rfl
@[simp] theorem State.setTeam_mods (s : State) (t : Nat) (x : Team) : (s.setTeam t x).mods = s.mods := rfl
@[simp] theorem State.setTeam_parked (s : State) (t : Nat) (x : Team) : (s.setTeam t x).parked = s.parked := rfl
@[simp] theorem State.setTeam_dies (s : State) (t : Nat) (x : Team) : (s.setTeam t x).dies = s.dies := rfl
@[simp] theorem State.setTeam_cores (s : State) (t : Nat) (x : Team) : (s.setTeam t x).cores = s.cores := rfl
@[simp] theorem State.setTeam_groups (s : State) (t : Nat) (x : Team) : (s.setTeam t x).groups = s.groups := rfl
@[simp] theorem State.setTeam_teams (s : State) (t : Nat) (x : Team) : (s.setTeam t x).teams = tset s.teams t x := rfl
@[simp] theorem State.setTeam_grids (s : State) (t : Nat) (x : Team) : (s.setTeam t x).grids = s.grids := rfl
@[simp] theorem State.setTeam_ctxs (s : State) (t : Nat) (x : Team) : (s.setTeam t x).ctxs = s.ctxs := rfl
@[simp] theorem State.setTeam_mem (s : State) (t : Nat) (x : Team) : (s.setTeam t x).mem = s.mem := rfl
@[simp] theorem State.setTeam_dev (s : State) (t : Nat) (x : Team) : (s.setTeam t x).dev = s.dev := rfl
@[simp] theorem State.setTeam_scratch (s : State) (t : Nat) (x : Team) : (s.setTeam t x).scratch = s.scratch := rfl
@[simp] theorem State.setTeam_pks (s : State) (t : Nat) (x : Team) : (s.setTeam t x).pks = s.pks := rfl
@[simp] theorem State.setTeam_lpm (s : State) (t : Nat) (x : Team) : (s.setTeam t x).lpm = s.lpm := rfl
@[simp] theorem State.setTeam_tiles (s : State) (t : Nat) (x : Team) : (s.setTeam t x).tiles = s.tiles := rfl
@[simp] theorem State.setTeam_lines (s : State) (t : Nat) (x : Team) : (s.setTeam t x).lines = s.lines := rfl
@[simp] theorem State.setTeam_copies (s : State) (t : Nat) (x : Team) : (s.setTeam t x).copies = s.copies := rfl
@[simp] theorem State.setTeam_proxies (s : State) (t : Nat) (x : Team) : (s.setTeam t x).proxies = s.proxies := rfl
@[simp] theorem State.setTeam_pend (s : State) (t : Nat) (x : Team) : (s.setTeam t x).pend = s.pend := rfl
@[simp] theorem State.setTeam_reqs (s : State) (t : Nat) (x : Team) : (s.setTeam t x).reqs = s.reqs := rfl
@[simp] theorem State.setTeam_flags (s : State) (t : Nat) (x : Team) : (s.setTeam t x).flags = s.flags := rfl
@[simp] theorem State.setTeam_unlks (s : State) (t : Nat) (x : Team) : (s.setTeam t x).unlks = s.unlks := rfl
@[simp] theorem State.setTeam_shuttles (s : State) (t : Nat) (x : Team) : (s.setTeam t x).shuttles = s.shuttles := rfl
@[simp] theorem State.setTeam_colls (s : State) (t : Nat) (x : Team) : (s.setTeam t x).colls = s.colls := rfl
@[simp] theorem State.setTeam_streams (s : State) (t : Nat) (x : Team) : (s.setTeam t x).streams = s.streams := rfl
@[simp] theorem State.setTeam_collLost (s : State) (t : Nat) (x : Team) : (s.setTeam t x).collLost = s.collLost := rfl
@[simp] theorem State.setTeam_gathers (s : State) (t : Nat) (x : Team) : (s.setTeam t x).gathers = s.gathers := rfl
@[simp] theorem State.setTeam_drains (s : State) (t : Nat) (x : Team) : (s.setTeam t x).drains = s.drains := rfl
@[simp] theorem State.setTeam_shevs (s : State) (t : Nat) (x : Team) : (s.setTeam t x).shevs = s.shevs := rfl
@[simp] theorem State.setTeam_contribs (s : State) (t : Nat) (x : Team) : (s.setTeam t x).contribs = s.contribs := rfl
@[simp] theorem State.setTeam_rounds (s : State) (t : Nat) (x : Team) : (s.setTeam t x).rounds = s.rounds := rfl
@[simp] theorem State.setTeam_landings (s : State) (t : Nat) (x : Team) : (s.setTeam t x).landings = s.landings := rfl
@[simp] theorem State.setTeam_barq (s : State) (t : Nat) (x : Team) : (s.setTeam t x).barq = s.barq := rfl
@[simp] theorem State.setTeam_stitches (s : State) (t : Nat) (x : Team) : (s.setTeam t x).stitches = s.stitches := rfl
@[simp] theorem State.setTeam_watches (s : State) (t : Nat) (x : Team) : (s.setTeam t x).watches = s.watches := rfl
@[simp] theorem State.setTeam_damaged (s : State) (t : Nat) (x : Team) : (s.setTeam t x).damaged = s.damaged := rfl
@[simp] theorem State.setTeam_spoiled (s : State) (t : Nat) (x : Team) : (s.setTeam t x).spoiled = s.spoiled := rfl
@[simp] theorem State.setTeam_badTiles (s : State) (t : Nat) (x : Team) : (s.setTeam t x).badTiles = s.badTiles := rfl
@[simp] theorem State.setTeam_nextId (s : State) (t : Nat) (x : Team) : (s.setTeam t x).nextId = s.nextId := rfl
@[simp] theorem State.setTeam_module (s : State) (t : Nat) (x : Team) (j : Nat) : (s.setTeam t x).module j = s.module j := rfl
@[simp] theorem State.setTeam_core (s : State) (t : Nat) (x : Team) (j : CoreKey) : (s.setTeam t x).core j = s.core j := rfl
@[simp] theorem State.setTeam_die (s : State) (t : Nat) (x : Team) (j : DieKey) : (s.setTeam t x).die j = s.die j := rfl
@[simp] theorem State.setTeam_line (s : State) (t : Nat) (x : Team) (j : Nat) : (s.setTeam t x).line j = s.line j := rfl
@[simp] theorem State.setTeam_group (s : State) (t : Nat) (x : Team) (j : GKey) : (s.setTeam t x).group? j = s.group? j := rfl
@[simp] theorem State.setTeam_ctx (s : State) (t : Nat) (x : Team) (j : CtxKey) : (s.setTeam t x).ctx? j = s.ctx? j := rfl
@[simp] theorem State.setTeam_team_self (s : State) (t : Nat) (x : Team) : (s.setTeam t x).team? t = some x := by simp [State.team?, State.setTeam]
theorem State.setTeam_team_of_ne (s : State) (t : Nat) (x : Team) (j : Nat) (h : j ≠ t) : (s.setTeam t x).team? j = s.team? j := by
  simp [State.team?, State.setTeam, tget_tset_of_ne _ _ h]
@[simp] theorem State.setTeam_grid (s : State) (t : Nat) (x : Team) (j : Nat) : (s.setTeam t x).grid? j = s.grid? j := rfl

/-! ### setGrid -/

@[simp] theorem State.setGrid_agenda (s : State) (t : Nat) (x : Grid) : (s.setGrid t x).agenda = s.agenda := rfl
@[simp] theorem State.setGrid_cur (s : State) (t : Nat) (x : Grid) : (s.setGrid t x).cur = s.cur := rfl
@[simp] theorem State.setGrid_freeCtr (s : State) (t : Nat) (x : Grid) : (s.setGrid t x).freeCtr = s.freeCtr := rfl
@[simp] theorem State.setGrid_mods (s : State) (t : Nat) (x : Grid) : (s.setGrid t x).mods = s.mods := rfl
@[simp] theorem State.setGrid_parked (s : State) (t : Nat) (x : Grid) : (s.setGrid t x).parked = s.parked := rfl
@[simp] theorem State.setGrid_dies (s : State) (t : Nat) (x : Grid) : (s.setGrid t x).dies = s.dies := rfl
@[simp] theorem State.setGrid_cores (s : State) (t : Nat) (x : Grid) : (s.setGrid t x).cores = s.cores := rfl
@[simp] theorem State.setGrid_groups (s : State) (t : Nat) (x : Grid) : (s.setGrid t x).groups = s.groups := rfl
@[simp] theorem State.setGrid_teams (s : State) (t : Nat) (x : Grid) : (s.setGrid t x).teams = s.teams := rfl
@[simp] theorem State.setGrid_grids (s : State) (t : Nat) (x : Grid) : (s.setGrid t x).grids = tset s.grids t x := rfl
@[simp] theorem State.setGrid_ctxs (s : State) (t : Nat) (x : Grid) : (s.setGrid t x).ctxs = s.ctxs := rfl
@[simp] theorem State.setGrid_mem (s : State) (t : Nat) (x : Grid) : (s.setGrid t x).mem = s.mem := rfl
@[simp] theorem State.setGrid_dev (s : State) (t : Nat) (x : Grid) : (s.setGrid t x).dev = s.dev := rfl
@[simp] theorem State.setGrid_scratch (s : State) (t : Nat) (x : Grid) : (s.setGrid t x).scratch = s.scratch := rfl
@[simp] theorem State.setGrid_pks (s : State) (t : Nat) (x : Grid) : (s.setGrid t x).pks = s.pks := rfl
@[simp] theorem State.setGrid_lpm (s : State) (t : Nat) (x : Grid) : (s.setGrid t x).lpm = s.lpm := rfl
@[simp] theorem State.setGrid_tiles (s : State) (t : Nat) (x : Grid) : (s.setGrid t x).tiles = s.tiles := rfl
@[simp] theorem State.setGrid_lines (s : State) (t : Nat) (x : Grid) : (s.setGrid t x).lines = s.lines := rfl
@[simp] theorem State.setGrid_copies (s : State) (t : Nat) (x : Grid) : (s.setGrid t x).copies = s.copies := rfl
@[simp] theorem State.setGrid_proxies (s : State) (t : Nat) (x : Grid) : (s.setGrid t x).proxies = s.proxies := rfl
@[simp] theorem State.setGrid_pend (s : State) (t : Nat) (x : Grid) : (s.setGrid t x).pend = s.pend := rfl
@[simp] theorem State.setGrid_reqs (s : State) (t : Nat) (x : Grid) : (s.setGrid t x).reqs = s.reqs := rfl
@[simp] theorem State.setGrid_flags (s : State) (t : Nat) (x : Grid) : (s.setGrid t x).flags = s.flags := rfl
@[simp] theorem State.setGrid_unlks (s : State) (t : Nat) (x : Grid) : (s.setGrid t x).unlks = s.unlks := rfl
@[simp] theorem State.setGrid_shuttles (s : State) (t : Nat) (x : Grid) : (s.setGrid t x).shuttles = s.shuttles := rfl
@[simp] theorem State.setGrid_colls (s : State) (t : Nat) (x : Grid) : (s.setGrid t x).colls = s.colls := rfl
@[simp] theorem State.setGrid_streams (s : State) (t : Nat) (x : Grid) : (s.setGrid t x).streams = s.streams := rfl
@[simp] theorem State.setGrid_collLost (s : State) (t : Nat) (x : Grid) : (s.setGrid t x).collLost = s.collLost := rfl
@[simp] theorem State.setGrid_gathers (s : State) (t : Nat) (x : Grid) : (s.setGrid t x).gathers = s.gathers := rfl
@[simp] theorem State.setGrid_drains (s : State) (t : Nat) (x : Grid) : (s.setGrid t x).drains = s.drains := rfl
@[simp] theorem State.setGrid_shevs (s : State) (t : Nat) (x : Grid) : (s.setGrid t x).shevs = s.shevs := rfl
@[simp] theorem State.setGrid_contribs (s : State) (t : Nat) (x : Grid) : (s.setGrid t x).contribs = s.contribs := rfl
@[simp] theorem State.setGrid_rounds (s : State) (t : Nat) (x : Grid) : (s.setGrid t x).rounds = s.rounds := rfl
@[simp] theorem State.setGrid_landings (s : State) (t : Nat) (x : Grid) : (s.setGrid t x).landings = s.landings := rfl
@[simp] theorem State.setGrid_barq (s : State) (t : Nat) (x : Grid) : (s.setGrid t x).barq = s.barq := rfl
@[simp] theorem State.setGrid_stitches (s : State) (t : Nat) (x : Grid) : (s.setGrid t x).stitches = s.stitches := rfl
@[simp] theorem State.setGrid_watches (s : State) (t : Nat) (x : Grid) : (s.setGrid t x).watches = s.watches := rfl
@[simp] theorem State.setGrid_damaged (s : State) (t : Nat) (x : Grid) : (s.setGrid t x).damaged = s.damaged := rfl
@[simp] theorem State.setGrid_spoiled (s : State) (t : Nat) (x : Grid) : (s.setGrid t x).spoiled = s.spoiled := rfl
@[simp] theorem State.setGrid_badTiles (s : State) (t : Nat) (x : Grid) : (s.setGrid t x).badTiles = s.badTiles := rfl
@[simp] theorem State.setGrid_nextId (s : State) (t : Nat) (x : Grid) : (s.setGrid t x).nextId = s.nextId := rfl
@[simp] theorem State.setGrid_module (s : State) (t : Nat) (x : Grid) (j : Nat) : (s.setGrid t x).module j = s.module j := rfl
@[simp] theorem State.setGrid_core (s : State) (t : Nat) (x : Grid) (j : CoreKey) : (s.setGrid t x).core j = s.core j := rfl
@[simp] theorem State.setGrid_die (s : State) (t : Nat) (x : Grid) (j : DieKey) : (s.setGrid t x).die j = s.die j := rfl
@[simp] theorem State.setGrid_line (s : State) (t : Nat) (x : Grid) (j : Nat) : (s.setGrid t x).line j = s.line j := rfl
@[simp] theorem State.setGrid_group (s : State) (t : Nat) (x : Grid) (j : GKey) : (s.setGrid t x).group? j = s.group? j := rfl
@[simp] theorem State.setGrid_ctx (s : State) (t : Nat) (x : Grid) (j : CtxKey) : (s.setGrid t x).ctx? j = s.ctx? j := rfl
@[simp] theorem State.setGrid_team (s : State) (t : Nat) (x : Grid) (j : Nat) : (s.setGrid t x).team? j = s.team? j := rfl
@[simp] theorem State.setGrid_grid_self (s : State) (t : Nat) (x : Grid) : (s.setGrid t x).grid? t = some x := by simp [State.grid?, State.setGrid]
theorem State.setGrid_grid_of_ne (s : State) (t : Nat) (x : Grid) (j : Nat) (h : j ≠ t) : (s.setGrid t x).grid? j = s.grid? j := by
  simp [State.grid?, State.setGrid, tget_tset_of_ne _ _ h]

/-! ### modModule -/

@[simp] theorem State.modModule_agenda (s : State) (m : Nat) (f : Module → Module) : (s.modModule m f).agenda = s.agenda := rfl
@[simp] theorem State.modModule_cur (s : State) (m : Nat) (f : Module → Module) : (s.modModule m f).cur = s.cur := rfl
@[simp] theorem State.modModule_freeCtr (s : State) (m : Nat) (f : Module → Module) : (s.modModule m f).freeCtr = s.freeCtr := rfl
@[simp] theorem State.modModule_parked (s : State) (m : Nat) (f : Module → Module) : (s.modModule m f).parked = s.parked := rfl
@[simp] theorem State.modModule_dies (s : State) (m : Nat) (f : Module → Module) : (s.modModule m f).dies = s.dies := rfl
@[simp] theorem State.modModule_cores (s : State) (m : Nat) (f : Module → Module) : (s.modModule m f).cores = s.cores := rfl
@[simp] theorem State.modModule_groups (s : State) (m : Nat) (f : Module → Module) : (s.modModule m f).groups = s.groups := rfl
@[simp] theorem State.modModule_teams (s : State) (m : Nat) (f : Module → Module) : (s.modModule m f).teams = s.teams := rfl
@[simp] theorem State.modModule_grids (s : State) (m : Nat) (f : Module → Module) : (s.modModule m f).grids = s.grids := rfl
@[simp] theorem State.modModule_ctxs (s : State) (m : Nat) (f : Module → Module) : (s.modModule m f).ctxs = s.ctxs := rfl
@[simp] theorem State.modModule_mem (s : State) (m : Nat) (f : Module → Module) : (s.modModule m f).mem = s.mem := rfl
@[simp] theorem State.modModule_dev (s : State) (m : Nat) (f : Module → Module) : (s.modModule m f).dev = s.dev := rfl
@[simp] theorem State.modModule_scratch (s : State) (m : Nat) (f : Module → Module) : (s.modModule m f).scratch = s.scratch := rfl
@[simp] theorem State.modModule_pks (s : State) (m : Nat) (f : Module → Module) : (s.modModule m f).pks = s.pks := rfl
@[simp] theorem State.modModule_lpm (s : State) (m : Nat) (f : Module → Module) : (s.modModule m f).lpm = s.lpm := rfl
@[simp] theorem State.modModule_tiles (s : State) (m : Nat) (f : Module → Module) : (s.modModule m f).tiles = s.tiles := rfl
@[simp] theorem State.modModule_lines (s : State) (m : Nat) (f : Module → Module) : (s.modModule m f).lines = s.lines := rfl
@[simp] theorem State.modModule_copies (s : State) (m : Nat) (f : Module → Module) : (s.modModule m f).copies = s.copies := rfl
@[simp] theorem State.modModule_proxies (s : State) (m : Nat) (f : Module → Module) : (s.modModule m f).proxies = s.proxies := rfl
@[simp] theorem State.modModule_pend (s : State) (m : Nat) (f : Module → Module) : (s.modModule m f).pend = s.pend := rfl
@[simp] theorem State.modModule_reqs (s : State) (m : Nat) (f : Module → Module) : (s.modModule m f).reqs = s.reqs := rfl
@[simp] theorem State.modModule_flags (s : State) (m : Nat) (f : Module → Module) : (s.modModule m f).flags = s.flags := rfl
@[simp] theorem State.modModule_unlks (s : State) (m : Nat) (f : Module → Module) : (s.modModule m f).unlks = s.unlks := rfl
@[simp] theorem State.modModule_shuttles (s : State) (m : Nat) (f : Module → Module) : (s.modModule m f).shuttles = s.shuttles := rfl
@[simp] theorem State.modModule_colls (s : State) (m : Nat) (f : Module → Module) : (s.modModule m f).colls = s.colls := rfl
@[simp] theorem State.modModule_streams (s : State) (m : Nat) (f : Module → Module) : (s.modModule m f).streams = s.streams := rfl
@[simp] theorem State.modModule_collLost (s : State) (m : Nat) (f : Module → Module) : (s.modModule m f).collLost = s.collLost := rfl
@[simp] theorem State.modModule_gathers (s : State) (m : Nat) (f : Module → Module) : (s.modModule m f).gathers = s.gathers := rfl
@[simp] theorem State.modModule_drains (s : State) (m : Nat) (f : Module → Module) : (s.modModule m f).drains = s.drains := rfl
@[simp] theorem State.modModule_shevs (s : State) (m : Nat) (f : Module → Module) : (s.modModule m f).shevs = s.shevs := rfl
@[simp] theorem State.modModule_contribs (s : State) (m : Nat) (f : Module → Module) : (s.modModule m f).contribs = s.contribs := rfl
@[simp] theorem State.modModule_rounds (s : State) (m : Nat) (f : Module → Module) : (s.modModule m f).rounds = s.rounds := rfl
@[simp] theorem State.modModule_landings (s : State) (m : Nat) (f : Module → Module) : (s.modModule m f).landings = s.landings := rfl
@[simp] theorem State.modModule_barq (s : State) (m : Nat) (f : Module → Module) : (s.modModule m f).barq = s.barq := rfl
@[simp] theorem State.modModule_stitches (s : State) (m : Nat) (f : Module → Module) : (s.modModule m f).stitches = s.stitches := rfl
@[simp] theorem State.modModule_watches (s : State) (m : Nat) (f : Module → Module) : (s.modModule m f).watches = s.watches := rfl
@[simp] theorem State.modModule_damaged (s : State) (m : Nat) (f : Module → Module) : (s.modModule m f).damaged = s.damaged := rfl
@[simp] theorem State.modModule_spoiled (s : State) (m : Nat) (f : Module → Module) : (s.modModule m f).spoiled = s.spoiled := rfl
@[simp] theorem State.modModule_badTiles (s : State) (m : Nat) (f : Module → Module) : (s.modModule m f).badTiles = s.badTiles := rfl
@[simp] theorem State.modModule_nextId (s : State) (m : Nat) (f : Module → Module) : (s.modModule m f).nextId = s.nextId := rfl

/-! ### modCore -/

@[simp] theorem State.modCore_agenda (s : State) (k : CoreKey) (f : Core → Core) : (s.modCore k f).agenda = s.agenda := rfl
@[simp] theorem State.modCore_cur (s : State) (k : CoreKey) (f : Core → Core) : (s.modCore k f).cur = s.cur := rfl
@[simp] theorem State.modCore_freeCtr (s : State) (k : CoreKey) (f : Core → Core) : (s.modCore k f).freeCtr = s.freeCtr := rfl
@[simp] theorem State.modCore_mods (s : State) (k : CoreKey) (f : Core → Core) : (s.modCore k f).mods = s.mods := rfl
@[simp] theorem State.modCore_parked (s : State) (k : CoreKey) (f : Core → Core) : (s.modCore k f).parked = s.parked := rfl
@[simp] theorem State.modCore_dies (s : State) (k : CoreKey) (f : Core → Core) : (s.modCore k f).dies = s.dies := rfl
@[simp] theorem State.modCore_groups (s : State) (k : CoreKey) (f : Core → Core) : (s.modCore k f).groups = s.groups := rfl
@[simp] theorem State.modCore_teams (s : State) (k : CoreKey) (f : Core → Core) : (s.modCore k f).teams = s.teams := rfl
@[simp] theorem State.modCore_grids (s : State) (k : CoreKey) (f : Core → Core) : (s.modCore k f).grids = s.grids := rfl
@[simp] theorem State.modCore_ctxs (s : State) (k : CoreKey) (f : Core → Core) : (s.modCore k f).ctxs = s.ctxs := rfl
@[simp] theorem State.modCore_mem (s : State) (k : CoreKey) (f : Core → Core) : (s.modCore k f).mem = s.mem := rfl
@[simp] theorem State.modCore_dev (s : State) (k : CoreKey) (f : Core → Core) : (s.modCore k f).dev = s.dev := rfl
@[simp] theorem State.modCore_scratch (s : State) (k : CoreKey) (f : Core → Core) : (s.modCore k f).scratch = s.scratch := rfl
@[simp] theorem State.modCore_pks (s : State) (k : CoreKey) (f : Core → Core) : (s.modCore k f).pks = s.pks := rfl
@[simp] theorem State.modCore_lpm (s : State) (k : CoreKey) (f : Core → Core) : (s.modCore k f).lpm = s.lpm := rfl
@[simp] theorem State.modCore_tiles (s : State) (k : CoreKey) (f : Core → Core) : (s.modCore k f).tiles = s.tiles := rfl
@[simp] theorem State.modCore_lines (s : State) (k : CoreKey) (f : Core → Core) : (s.modCore k f).lines = s.lines := rfl
@[simp] theorem State.modCore_copies (s : State) (k : CoreKey) (f : Core → Core) : (s.modCore k f).copies = s.copies := rfl
@[simp] theorem State.modCore_proxies (s : State) (k : CoreKey) (f : Core → Core) : (s.modCore k f).proxies = s.proxies := rfl
@[simp] theorem State.modCore_pend (s : State) (k : CoreKey) (f : Core → Core) : (s.modCore k f).pend = s.pend := rfl
@[simp] theorem State.modCore_reqs (s : State) (k : CoreKey) (f : Core → Core) : (s.modCore k f).reqs = s.reqs := rfl
@[simp] theorem State.modCore_flags (s : State) (k : CoreKey) (f : Core → Core) : (s.modCore k f).flags = s.flags := rfl
@[simp] theorem State.modCore_unlks (s : State) (k : CoreKey) (f : Core → Core) : (s.modCore k f).unlks = s.unlks := rfl
@[simp] theorem State.modCore_shuttles (s : State) (k : CoreKey) (f : Core → Core) : (s.modCore k f).shuttles = s.shuttles := rfl
@[simp] theorem State.modCore_colls (s : State) (k : CoreKey) (f : Core → Core) : (s.modCore k f).colls = s.colls := rfl
@[simp] theorem State.modCore_streams (s : State) (k : CoreKey) (f : Core → Core) : (s.modCore k f).streams = s.streams := rfl
@[simp] theorem State.modCore_collLost (s : State) (k : CoreKey) (f : Core → Core) : (s.modCore k f).collLost = s.collLost := rfl
@[simp] theorem State.modCore_gathers (s : State) (k : CoreKey) (f : Core → Core) : (s.modCore k f).gathers = s.gathers := rfl
@[simp] theorem State.modCore_drains (s : State) (k : CoreKey) (f : Core → Core) : (s.modCore k f).drains = s.drains := rfl
@[simp] theorem State.modCore_shevs (s : State) (k : CoreKey) (f : Core → Core) : (s.modCore k f).shevs = s.shevs := rfl
@[simp] theorem State.modCore_contribs (s : State) (k : CoreKey) (f : Core → Core) : (s.modCore k f).contribs = s.contribs := rfl
@[simp] theorem State.modCore_rounds (s : State) (k : CoreKey) (f : Core → Core) : (s.modCore k f).rounds = s.rounds := rfl
@[simp] theorem State.modCore_landings (s : State) (k : CoreKey) (f : Core → Core) : (s.modCore k f).landings = s.landings := rfl
@[simp] theorem State.modCore_barq (s : State) (k : CoreKey) (f : Core → Core) : (s.modCore k f).barq = s.barq := rfl
@[simp] theorem State.modCore_stitches (s : State) (k : CoreKey) (f : Core → Core) : (s.modCore k f).stitches = s.stitches := rfl
@[simp] theorem State.modCore_watches (s : State) (k : CoreKey) (f : Core → Core) : (s.modCore k f).watches = s.watches := rfl
@[simp] theorem State.modCore_damaged (s : State) (k : CoreKey) (f : Core → Core) : (s.modCore k f).damaged = s.damaged := rfl
@[simp] theorem State.modCore_spoiled (s : State) (k : CoreKey) (f : Core → Core) : (s.modCore k f).spoiled = s.spoiled := rfl
@[simp] theorem State.modCore_badTiles (s : State) (k : CoreKey) (f : Core → Core) : (s.modCore k f).badTiles = s.badTiles := rfl
@[simp] theorem State.modCore_nextId (s : State) (k : CoreKey) (f : Core → Core) : (s.modCore k f).nextId = s.nextId := rfl

/-! ### modDie -/

@[simp] theorem State.modDie_agenda (s : State) (k : DieKey) (f : Die → Die) : (s.modDie k f).agenda = s.agenda := rfl
@[simp] theorem State.modDie_cur (s : State) (k : DieKey) (f : Die → Die) : (s.modDie k f).cur = s.cur := rfl
@[simp] theorem State.modDie_freeCtr (s : State) (k : DieKey) (f : Die → Die) : (s.modDie k f).freeCtr = s.freeCtr := rfl
@[simp] theorem State.modDie_mods (s : State) (k : DieKey) (f : Die → Die) : (s.modDie k f).mods = s.mods := rfl
@[simp] theorem State.modDie_parked (s : State) (k : DieKey) (f : Die → Die) : (s.modDie k f).parked = s.parked := rfl
@[simp] theorem State.modDie_cores (s : State) (k : DieKey) (f : Die → Die) : (s.modDie k f).cores = s.cores := rfl
@[simp] theorem State.modDie_groups (s : State) (k : DieKey) (f : Die → Die) : (s.modDie k f).groups = s.groups := rfl
@[simp] theorem State.modDie_teams (s : State) (k : DieKey) (f : Die → Die) : (s.modDie k f).teams = s.teams := rfl
@[simp] theorem State.modDie_grids (s : State) (k : DieKey) (f : Die → Die) : (s.modDie k f).grids = s.grids := rfl
@[simp] theorem State.modDie_ctxs (s : State) (k : DieKey) (f : Die → Die) : (s.modDie k f).ctxs = s.ctxs := rfl
@[simp] theorem State.modDie_mem (s : State) (k : DieKey) (f : Die → Die) : (s.modDie k f).mem = s.mem := rfl
@[simp] theorem State.modDie_dev (s : State) (k : DieKey) (f : Die → Die) : (s.modDie k f).dev = s.dev := rfl
@[simp] theorem State.modDie_scratch (s : State) (k : DieKey) (f : Die → Die) : (s.modDie k f).scratch = s.scratch := rfl
@[simp] theorem State.modDie_pks (s : State) (k : DieKey) (f : Die → Die) : (s.modDie k f).pks = s.pks := rfl
@[simp] theorem State.modDie_lpm (s : State) (k : DieKey) (f : Die → Die) : (s.modDie k f).lpm = s.lpm := rfl
@[simp] theorem State.modDie_tiles (s : State) (k : DieKey) (f : Die → Die) : (s.modDie k f).tiles = s.tiles := rfl
@[simp] theorem State.modDie_lines (s : State) (k : DieKey) (f : Die → Die) : (s.modDie k f).lines = s.lines := rfl
@[simp] theorem State.modDie_copies (s : State) (k : DieKey) (f : Die → Die) : (s.modDie k f).copies = s.copies := rfl
@[simp] theorem State.modDie_proxies (s : State) (k : DieKey) (f : Die → Die) : (s.modDie k f).proxies = s.proxies := rfl
@[simp] theorem State.modDie_pend (s : State) (k : DieKey) (f : Die → Die) : (s.modDie k f).pend = s.pend := rfl
@[simp] theorem State.modDie_reqs (s : State) (k : DieKey) (f : Die → Die) : (s.modDie k f).reqs = s.reqs := rfl
@[simp] theorem State.modDie_flags (s : State) (k : DieKey) (f : Die → Die) : (s.modDie k f).flags = s.flags := rfl
@[simp] theorem State.modDie_unlks (s : State) (k : DieKey) (f : Die → Die) : (s.modDie k f).unlks = s.unlks := rfl
@[simp] theorem State.modDie_shuttles (s : State) (k : DieKey) (f : Die → Die) : (s.modDie k f).shuttles = s.shuttles := rfl
@[simp] theorem State.modDie_colls (s : State) (k : DieKey) (f : Die → Die) : (s.modDie k f).colls = s.colls := rfl
@[simp] theorem State.modDie_streams (s : State) (k : DieKey) (f : Die → Die) : (s.modDie k f).streams = s.streams := rfl
@[simp] theorem State.modDie_collLost (s : State) (k : DieKey) (f : Die → Die) : (s.modDie k f).collLost = s.collLost := rfl
@[simp] theorem State.modDie_gathers (s : State) (k : DieKey) (f : Die → Die) : (s.modDie k f).gathers = s.gathers := rfl
@[simp] theorem State.modDie_drains (s : State) (k : DieKey) (f : Die → Die) : (s.modDie k f).drains = s.drains := rfl
@[simp] theorem State.modDie_shevs (s : State) (k : DieKey) (f : Die → Die) : (s.modDie k f).shevs = s.shevs := rfl
@[simp] theorem State.modDie_contribs (s : State) (k : DieKey) (f : Die → Die) : (s.modDie k f).contribs = s.contribs := rfl
@[simp] theorem State.modDie_rounds (s : State) (k : DieKey) (f : Die → Die) : (s.modDie k f).rounds = s.rounds := rfl
@[simp] theorem State.modDie_landings (s : State) (k : DieKey) (f : Die → Die) : (s.modDie k f).landings = s.landings := rfl
@[simp] theorem State.modDie_barq (s : State) (k : DieKey) (f : Die → Die) : (s.modDie k f).barq = s.barq := rfl
@[simp] theorem State.modDie_stitches (s : State) (k : DieKey) (f : Die → Die) : (s.modDie k f).stitches = s.stitches := rfl
@[simp] theorem State.modDie_watches (s : State) (k : DieKey) (f : Die → Die) : (s.modDie k f).watches = s.watches := rfl
@[simp] theorem State.modDie_damaged (s : State) (k : DieKey) (f : Die → Die) : (s.modDie k f).damaged = s.damaged := rfl
@[simp] theorem State.modDie_spoiled (s : State) (k : DieKey) (f : Die → Die) : (s.modDie k f).spoiled = s.spoiled := rfl
@[simp] theorem State.modDie_badTiles (s : State) (k : DieKey) (f : Die → Die) : (s.modDie k f).badTiles = s.badTiles := rfl
@[simp] theorem State.modDie_nextId (s : State) (k : DieKey) (f : Die → Die) : (s.modDie k f).nextId = s.nextId := rfl

/-! ### modLine -/

@[simp] theorem State.modLine_agenda (s : State) (l : Nat) (f : Line → Line) : (s.modLine l f).agenda = s.agenda := rfl
@[simp] theorem State.modLine_cur (s : State) (l : Nat) (f : Line → Line) : (s.modLine l f).cur = s.cur := rfl
@[simp] theorem State.modLine_freeCtr (s : State) (l : Nat) (f : Line → Line) : (s.modLine l f).freeCtr = s.freeCtr := rfl
@[simp] theorem State.modLine_mods (s : State) (l : Nat) (f : Line → Line) : (s.modLine l f).mods = s.mods := rfl
@[simp] theorem State.modLine_parked (s : State) (l : Nat) (f : Line → Line) : (s.modLine l f).parked = s.parked := rfl
@[simp] theorem State.modLine_dies (s : State) (l : Nat) (f : Line → Line) : (s.modLine l f).dies = s.dies := rfl
@[simp] theorem State.modLine_cores (s : State) (l : Nat) (f : Line → Line) : (s.modLine l f).cores = s.cores := rfl
@[simp] theorem State.modLine_groups (s : State) (l : Nat) (f : Line → Line) : (s.modLine l f).groups = s.groups := rfl
@[simp] theorem State.modLine_teams (s : State) (l : Nat) (f : Line → Line) : (s.modLine l f).teams = s.teams := rfl
@[simp] theorem State.modLine_grids (s : State) (l : Nat) (f : Line → Line) : (s.modLine l f).grids = s.grids := rfl
@[simp] theorem State.modLine_ctxs (s : State) (l : Nat) (f : Line → Line) : (s.modLine l f).ctxs = s.ctxs := rfl
@[simp] theorem State.modLine_mem (s : State) (l : Nat) (f : Line → Line) : (s.modLine l f).mem = s.mem := rfl
@[simp] theorem State.modLine_dev (s : State) (l : Nat) (f : Line → Line) : (s.modLine l f).dev = s.dev := rfl
@[simp] theorem State.modLine_scratch (s : State) (l : Nat) (f : Line → Line) : (s.modLine l f).scratch = s.scratch := rfl
@[simp] theorem State.modLine_pks (s : State) (l : Nat) (f : Line → Line) : (s.modLine l f).pks = s.pks := rfl
@[simp] theorem State.modLine_lpm (s : State) (l : Nat) (f : Line → Line) : (s.modLine l f).lpm = s.lpm := rfl
@[simp] theorem State.modLine_tiles (s : State) (l : Nat) (f : Line → Line) : (s.modLine l f).tiles = s.tiles := rfl
@[simp] theorem State.modLine_copies (s : State) (l : Nat) (f : Line → Line) : (s.modLine l f).copies = s.copies := rfl
@[simp] theorem State.modLine_proxies (s : State) (l : Nat) (f : Line → Line) : (s.modLine l f).proxies = s.proxies := rfl
@[simp] theorem State.modLine_pend (s : State) (l : Nat) (f : Line → Line) : (s.modLine l f).pend = s.pend := rfl
@[simp] theorem State.modLine_reqs (s : State) (l : Nat) (f : Line → Line) : (s.modLine l f).reqs = s.reqs := rfl
@[simp] theorem State.modLine_flags (s : State) (l : Nat) (f : Line → Line) : (s.modLine l f).flags = s.flags := rfl
@[simp] theorem State.modLine_unlks (s : State) (l : Nat) (f : Line → Line) : (s.modLine l f).unlks = s.unlks := rfl
@[simp] theorem State.modLine_shuttles (s : State) (l : Nat) (f : Line → Line) : (s.modLine l f).shuttles = s.shuttles := rfl
@[simp] theorem State.modLine_colls (s : State) (l : Nat) (f : Line → Line) : (s.modLine l f).colls = s.colls := rfl
@[simp] theorem State.modLine_streams (s : State) (l : Nat) (f : Line → Line) : (s.modLine l f).streams = s.streams := rfl
@[simp] theorem State.modLine_collLost (s : State) (l : Nat) (f : Line → Line) : (s.modLine l f).collLost = s.collLost := rfl
@[simp] theorem State.modLine_gathers (s : State) (l : Nat) (f : Line → Line) : (s.modLine l f).gathers = s.gathers := rfl
@[simp] theorem State.modLine_drains (s : State) (l : Nat) (f : Line → Line) : (s.modLine l f).drains = s.drains := rfl
@[simp] theorem State.modLine_shevs (s : State) (l : Nat) (f : Line → Line) : (s.modLine l f).shevs = s.shevs := rfl
@[simp] theorem State.modLine_contribs (s : State) (l : Nat) (f : Line → Line) : (s.modLine l f).contribs = s.contribs := rfl
@[simp] theorem State.modLine_rounds (s : State) (l : Nat) (f : Line → Line) : (s.modLine l f).rounds = s.rounds := rfl
@[simp] theorem State.modLine_landings (s : State) (l : Nat) (f : Line → Line) : (s.modLine l f).landings = s.landings := rfl
@[simp] theorem State.modLine_barq (s : State) (l : Nat) (f : Line → Line) : (s.modLine l f).barq = s.barq := rfl
@[simp] theorem State.modLine_stitches (s : State) (l : Nat) (f : Line → Line) : (s.modLine l f).stitches = s.stitches := rfl
@[simp] theorem State.modLine_watches (s : State) (l : Nat) (f : Line → Line) : (s.modLine l f).watches = s.watches := rfl
@[simp] theorem State.modLine_damaged (s : State) (l : Nat) (f : Line → Line) : (s.modLine l f).damaged = s.damaged := rfl
@[simp] theorem State.modLine_spoiled (s : State) (l : Nat) (f : Line → Line) : (s.modLine l f).spoiled = s.spoiled := rfl
@[simp] theorem State.modLine_badTiles (s : State) (l : Nat) (f : Line → Line) : (s.modLine l f).badTiles = s.badTiles := rfl
@[simp] theorem State.modLine_nextId (s : State) (l : Nat) (f : Line → Line) : (s.modLine l f).nextId = s.nextId := rfl

/-! ### modGroup -/

@[simp] theorem State.modGroup_agenda (s : State) (k : GKey) (f : Group → Group) : (s.modGroup k f).agenda = s.agenda := by unfold State.modGroup; split <;> rfl
@[simp] theorem State.modGroup_cur (s : State) (k : GKey) (f : Group → Group) : (s.modGroup k f).cur = s.cur := by unfold State.modGroup; split <;> rfl
@[simp] theorem State.modGroup_freeCtr (s : State) (k : GKey) (f : Group → Group) : (s.modGroup k f).freeCtr = s.freeCtr := by unfold State.modGroup; split <;> rfl
@[simp] theorem State.modGroup_mods (s : State) (k : GKey) (f : Group → Group) : (s.modGroup k f).mods = s.mods := by unfold State.modGroup; split <;> rfl
@[simp] theorem State.modGroup_parked (s : State) (k : GKey) (f : Group → Group) : (s.modGroup k f).parked = s.parked := by unfold State.modGroup; split <;> rfl
@[simp] theorem State.modGroup_dies (s : State) (k : GKey) (f : Group → Group) : (s.modGroup k f).dies = s.dies := by unfold State.modGroup; split <;> rfl
@[simp] theorem State.modGroup_cores (s : State) (k : GKey) (f : Group → Group) : (s.modGroup k f).cores = s.cores := by unfold State.modGroup; split <;> rfl
@[simp] theorem State.modGroup_teams (s : State) (k : GKey) (f : Group → Group) : (s.modGroup k f).teams = s.teams := by unfold State.modGroup; split <;> rfl
@[simp] theorem State.modGroup_grids (s : State) (k : GKey) (f : Group → Group) : (s.modGroup k f).grids = s.grids := by unfold State.modGroup; split <;> rfl
@[simp] theorem State.modGroup_ctxs (s : State) (k : GKey) (f : Group → Group) : (s.modGroup k f).ctxs = s.ctxs := by unfold State.modGroup; split <;> rfl
@[simp] theorem State.modGroup_mem (s : State) (k : GKey) (f : Group → Group) : (s.modGroup k f).mem = s.mem := by unfold State.modGroup; split <;> rfl
@[simp] theorem State.modGroup_dev (s : State) (k : GKey) (f : Group → Group) : (s.modGroup k f).dev = s.dev := by unfold State.modGroup; split <;> rfl
@[simp] theorem State.modGroup_scratch (s : State) (k : GKey) (f : Group → Group) : (s.modGroup k f).scratch = s.scratch := by unfold State.modGroup; split <;> rfl
@[simp] theorem State.modGroup_pks (s : State) (k : GKey) (f : Group → Group) : (s.modGroup k f).pks = s.pks := by unfold State.modGroup; split <;> rfl
@[simp] theorem State.modGroup_lpm (s : State) (k : GKey) (f : Group → Group) : (s.modGroup k f).lpm = s.lpm := by unfold State.modGroup; split <;> rfl
@[simp] theorem State.modGroup_tiles (s : State) (k : GKey) (f : Group → Group) : (s.modGroup k f).tiles = s.tiles := by unfold State.modGroup; split <;> rfl
@[simp] theorem State.modGroup_lines (s : State) (k : GKey) (f : Group → Group) : (s.modGroup k f).lines = s.lines := by unfold State.modGroup; split <;> rfl
@[simp] theorem State.modGroup_copies (s : State) (k : GKey) (f : Group → Group) : (s.modGroup k f).copies = s.copies := by unfold State.modGroup; split <;> rfl
@[simp] theorem State.modGroup_proxies (s : State) (k : GKey) (f : Group → Group) : (s.modGroup k f).proxies = s.proxies := by unfold State.modGroup; split <;> rfl
@[simp] theorem State.modGroup_pend (s : State) (k : GKey) (f : Group → Group) : (s.modGroup k f).pend = s.pend := by unfold State.modGroup; split <;> rfl
@[simp] theorem State.modGroup_reqs (s : State) (k : GKey) (f : Group → Group) : (s.modGroup k f).reqs = s.reqs := by unfold State.modGroup; split <;> rfl
@[simp] theorem State.modGroup_flags (s : State) (k : GKey) (f : Group → Group) : (s.modGroup k f).flags = s.flags := by unfold State.modGroup; split <;> rfl
@[simp] theorem State.modGroup_unlks (s : State) (k : GKey) (f : Group → Group) : (s.modGroup k f).unlks = s.unlks := by unfold State.modGroup; split <;> rfl
@[simp] theorem State.modGroup_shuttles (s : State) (k : GKey) (f : Group → Group) : (s.modGroup k f).shuttles = s.shuttles := by unfold State.modGroup; split <;> rfl
@[simp] theorem State.modGroup_colls (s : State) (k : GKey) (f : Group → Group) : (s.modGroup k f).colls = s.colls := by unfold State.modGroup; split <;> rfl
@[simp] theorem State.modGroup_streams (s : State) (k : GKey) (f : Group → Group) : (s.modGroup k f).streams = s.streams := by unfold State.modGroup; split <;> rfl
@[simp] theorem State.modGroup_collLost (s : State) (k : GKey) (f : Group → Group) : (s.modGroup k f).collLost = s.collLost := by unfold State.modGroup; split <;> rfl
@[simp] theorem State.modGroup_gathers (s : State) (k : GKey) (f : Group → Group) : (s.modGroup k f).gathers = s.gathers := by unfold State.modGroup; split <;> rfl
@[simp] theorem State.modGroup_drains (s : State) (k : GKey) (f : Group → Group) : (s.modGroup k f).drains = s.drains := by unfold State.modGroup; split <;> rfl
@[simp] theorem State.modGroup_shevs (s : State) (k : GKey) (f : Group → Group) : (s.modGroup k f).shevs = s.shevs := by unfold State.modGroup; split <;> rfl
@[simp] theorem State.modGroup_contribs (s : State) (k : GKey) (f : Group → Group) : (s.modGroup k f).contribs = s.contribs := by unfold State.modGroup; split <;> rfl
@[simp] theorem State.modGroup_rounds (s : State) (k : GKey) (f : Group → Group) : (s.modGroup k f).rounds = s.rounds := by unfold State.modGroup; split <;> rfl
@[simp] theorem State.modGroup_landings (s : State) (k : GKey) (f : Group → Group) : (s.modGroup k f).landings = s.landings := by unfold State.modGroup; split <;> rfl
@[simp] theorem State.modGroup_barq (s : State) (k : GKey) (f : Group → Group) : (s.modGroup k f).barq = s.barq := by unfold State.modGroup; split <;> rfl
@[simp] theorem State.modGroup_stitches (s : State) (k : GKey) (f : Group → Group) : (s.modGroup k f).stitches = s.stitches := by unfold State.modGroup; split <;> rfl
@[simp] theorem State.modGroup_watches (s : State) (k : GKey) (f : Group → Group) : (s.modGroup k f).watches = s.watches := by unfold State.modGroup; split <;> rfl
@[simp] theorem State.modGroup_damaged (s : State) (k : GKey) (f : Group → Group) : (s.modGroup k f).damaged = s.damaged := by unfold State.modGroup; split <;> rfl
@[simp] theorem State.modGroup_spoiled (s : State) (k : GKey) (f : Group → Group) : (s.modGroup k f).spoiled = s.spoiled := by unfold State.modGroup; split <;> rfl
@[simp] theorem State.modGroup_badTiles (s : State) (k : GKey) (f : Group → Group) : (s.modGroup k f).badTiles = s.badTiles := by unfold State.modGroup; split <;> rfl
@[simp] theorem State.modGroup_nextId (s : State) (k : GKey) (f : Group → Group) : (s.modGroup k f).nextId = s.nextId := by unfold State.modGroup; split <;> rfl
theorem State.modGroup_of_some {s : State} {k : GKey} {x : Group} (h : s.group? k = some x) (f : Group → Group) : s.modGroup k f = s.setGroup k (f x) := by
  simp [State.modGroup, h]
theorem State.modGroup_of_none {s : State} {k : GKey} (h : s.group? k = none) (f : Group → Group) : s.modGroup k f = s := by
  simp [State.modGroup, h]
theorem State.modGroup_group (s : State) (k j : GKey) (f : Group → Group) :
    (s.modGroup k f).group? j = if j = k then (s.group? k).map f else s.group? j := by
  unfold State.modGroup
  by_cases h : j = k
  · subst h
    cases hc : s.group? j <;> simp [hc]
  · rw [if_neg h]
    split
    · exact State.setGroup_group_of_ne _ _ _ _ h
    · rfl

/-! ### modCtx -/

@[simp] theorem State.modCtx_agenda (s : State) (k : CtxKey) (f : Context → Context) : (s.modCtx k f).agenda = s.agenda := by unfold State.modCtx; split <;> rfl
@[simp] theorem State.modCtx_cur (s : State) (k : CtxKey) (f : Context → Context) : (s.modCtx k f).cur = s.cur := by unfold State.modCtx; split <;> rfl
@[simp] theorem State.modCtx_freeCtr (s : State) (k : CtxKey) (f : Context → Context) : (s.modCtx k f).freeCtr = s.freeCtr := by unfold State.modCtx; split <;> rfl
@[simp] theorem State.modCtx_mods (s : State) (k : CtxKey) (f : Context → Context) : (s.modCtx k f).mods = s.mods := by unfold State.modCtx; split <;> rfl
@[simp] theorem State.modCtx_parked (s : State) (k : CtxKey) (f : Context → Context) : (s.modCtx k f).parked = s.parked := by unfold State.modCtx; split <;> rfl
@[simp] theorem State.modCtx_dies (s : State) (k : CtxKey) (f : Context → Context) : (s.modCtx k f).dies = s.dies := by unfold State.modCtx; split <;> rfl
@[simp] theorem State.modCtx_cores (s : State) (k : CtxKey) (f : Context → Context) : (s.modCtx k f).cores = s.cores := by unfold State.modCtx; split <;> rfl
@[simp] theorem State.modCtx_groups (s : State) (k : CtxKey) (f : Context → Context) : (s.modCtx k f).groups = s.groups := by unfold State.modCtx; split <;> rfl
@[simp] theorem State.modCtx_teams (s : State) (k : CtxKey) (f : Context → Context) : (s.modCtx k f).teams = s.teams := by unfold State.modCtx; split <;> rfl
@[simp] theorem State.modCtx_grids (s : State) (k : CtxKey) (f : Context → Context) : (s.modCtx k f).grids = s.grids := by unfold State.modCtx; split <;> rfl
@[simp] theorem State.modCtx_mem (s : State) (k : CtxKey) (f : Context → Context) : (s.modCtx k f).mem = s.mem := by unfold State.modCtx; split <;> rfl
@[simp] theorem State.modCtx_dev (s : State) (k : CtxKey) (f : Context → Context) : (s.modCtx k f).dev = s.dev := by unfold State.modCtx; split <;> rfl
@[simp] theorem State.modCtx_scratch (s : State) (k : CtxKey) (f : Context → Context) : (s.modCtx k f).scratch = s.scratch := by unfold State.modCtx; split <;> rfl
@[simp] theorem State.modCtx_pks (s : State) (k : CtxKey) (f : Context → Context) : (s.modCtx k f).pks = s.pks := by unfold State.modCtx; split <;> rfl
@[simp] theorem State.modCtx_lpm (s : State) (k : CtxKey) (f : Context → Context) : (s.modCtx k f).lpm = s.lpm := by unfold State.modCtx; split <;> rfl
@[simp] theorem State.modCtx_tiles (s : State) (k : CtxKey) (f : Context → Context) : (s.modCtx k f).tiles = s.tiles := by unfold State.modCtx; split <;> rfl
@[simp] theorem State.modCtx_lines (s : State) (k : CtxKey) (f : Context → Context) : (s.modCtx k f).lines = s.lines := by unfold State.modCtx; split <;> rfl
@[simp] theorem State.modCtx_copies (s : State) (k : CtxKey) (f : Context → Context) : (s.modCtx k f).copies = s.copies := by unfold State.modCtx; split <;> rfl
@[simp] theorem State.modCtx_proxies (s : State) (k : CtxKey) (f : Context → Context) : (s.modCtx k f).proxies = s.proxies := by unfold State.modCtx; split <;> rfl
@[simp] theorem State.modCtx_pend (s : State) (k : CtxKey) (f : Context → Context) : (s.modCtx k f).pend = s.pend := by unfold State.modCtx; split <;> rfl
@[simp] theorem State.modCtx_reqs (s : State) (k : CtxKey) (f : Context → Context) : (s.modCtx k f).reqs = s.reqs := by unfold State.modCtx; split <;> rfl
@[simp] theorem State.modCtx_flags (s : State) (k : CtxKey) (f : Context → Context) : (s.modCtx k f).flags = s.flags := by unfold State.modCtx; split <;> rfl
@[simp] theorem State.modCtx_unlks (s : State) (k : CtxKey) (f : Context → Context) : (s.modCtx k f).unlks = s.unlks := by unfold State.modCtx; split <;> rfl
@[simp] theorem State.modCtx_shuttles (s : State) (k : CtxKey) (f : Context → Context) : (s.modCtx k f).shuttles = s.shuttles := by unfold State.modCtx; split <;> rfl
@[simp] theorem State.modCtx_colls (s : State) (k : CtxKey) (f : Context → Context) : (s.modCtx k f).colls = s.colls := by unfold State.modCtx; split <;> rfl
@[simp] theorem State.modCtx_streams (s : State) (k : CtxKey) (f : Context → Context) : (s.modCtx k f).streams = s.streams := by unfold State.modCtx; split <;> rfl
@[simp] theorem State.modCtx_collLost (s : State) (k : CtxKey) (f : Context → Context) : (s.modCtx k f).collLost = s.collLost := by unfold State.modCtx; split <;> rfl
@[simp] theorem State.modCtx_gathers (s : State) (k : CtxKey) (f : Context → Context) : (s.modCtx k f).gathers = s.gathers := by unfold State.modCtx; split <;> rfl
@[simp] theorem State.modCtx_drains (s : State) (k : CtxKey) (f : Context → Context) : (s.modCtx k f).drains = s.drains := by unfold State.modCtx; split <;> rfl
@[simp] theorem State.modCtx_shevs (s : State) (k : CtxKey) (f : Context → Context) : (s.modCtx k f).shevs = s.shevs := by unfold State.modCtx; split <;> rfl
@[simp] theorem State.modCtx_contribs (s : State) (k : CtxKey) (f : Context → Context) : (s.modCtx k f).contribs = s.contribs := by unfold State.modCtx; split <;> rfl
@[simp] theorem State.modCtx_rounds (s : State) (k : CtxKey) (f : Context → Context) : (s.modCtx k f).rounds = s.rounds := by unfold State.modCtx; split <;> rfl
@[simp] theorem State.modCtx_landings (s : State) (k : CtxKey) (f : Context → Context) : (s.modCtx k f).landings = s.landings := by unfold State.modCtx; split <;> rfl
@[simp] theorem State.modCtx_barq (s : State) (k : CtxKey) (f : Context → Context) : (s.modCtx k f).barq = s.barq := by unfold State.modCtx; split <;> rfl
@[simp] theorem State.modCtx_stitches (s : State) (k : CtxKey) (f : Context → Context) : (s.modCtx k f).stitches = s.stitches := by unfold State.modCtx; split <;> rfl
@[simp] theorem State.modCtx_watches (s : State) (k : CtxKey) (f : Context → Context) : (s.modCtx k f).watches = s.watches := by unfold State.modCtx; split <;> rfl
@[simp] theorem State.modCtx_damaged (s : State) (k : CtxKey) (f : Context → Context) : (s.modCtx k f).damaged = s.damaged := by unfold State.modCtx; split <;> rfl
@[simp] theorem State.modCtx_spoiled (s : State) (k : CtxKey) (f : Context → Context) : (s.modCtx k f).spoiled = s.spoiled := by unfold State.modCtx; split <;> rfl
@[simp] theorem State.modCtx_badTiles (s : State) (k : CtxKey) (f : Context → Context) : (s.modCtx k f).badTiles = s.badTiles := by unfold State.modCtx; split <;> rfl
@[simp] theorem State.modCtx_nextId (s : State) (k : CtxKey) (f : Context → Context) : (s.modCtx k f).nextId = s.nextId := by unfold State.modCtx; split <;> rfl
theorem State.modCtx_of_some {s : State} {k : CtxKey} {x : Context} (h : s.ctx? k = some x) (f : Context → Context) : s.modCtx k f = s.setCtx k (f x) := by
  simp [State.modCtx, h]
theorem State.modCtx_of_none {s : State} {k : CtxKey} (h : s.ctx? k = none) (f : Context → Context) : s.modCtx k f = s := by
  simp [State.modCtx, h]
theorem State.modCtx_ctx (s : State) (k j : CtxKey) (f : Context → Context) :
    (s.modCtx k f).ctx? j = if j = k then (s.ctx? k).map f else s.ctx? j := by
  unfold State.modCtx
  by_cases h : j = k
  · subst h
    cases hc : s.ctx? j <;> simp [hc]
  · rw [if_neg h]
    split
    · exact State.setCtx_ctx_of_ne _ _ _ _ h
    · rfl

/-! ### modTeam -/

@[simp] theorem State.modTeam_agenda (s : State) (t : Nat) (f : Team → Team) : (s.modTeam t f).agenda = s.agenda := by unfold State.modTeam; split <;> rfl
@[simp] theorem State.modTeam_cur (s : State) (t : Nat) (f : Team → Team) : (s.modTeam t f).cur = s.cur := by unfold State.modTeam; split <;> rfl
@[simp] theorem State.modTeam_freeCtr (s : State) (t : Nat) (f : Team → Team) : (s.modTeam t f).freeCtr = s.freeCtr := by unfold State.modTeam; split <;> rfl
@[simp] theorem State.modTeam_mods (s : State) (t : Nat) (f : Team → Team) : (s.modTeam t f).mods = s.mods := by unfold State.modTeam; split <;> rfl
@[simp] theorem State.modTeam_parked (s : State) (t : Nat) (f : Team → Team) : (s.modTeam t f).parked = s.parked := by unfold State.modTeam; split <;> rfl
@[simp] theorem State.modTeam_dies (s : State) (t : Nat) (f : Team → Team) : (s.modTeam t f).dies = s.dies := by unfold State.modTeam; split <;> rfl
@[simp] theorem State.modTeam_cores (s : State) (t : Nat) (f : Team → Team) : (s.modTeam t f).cores = s.cores := by unfold State.modTeam; split <;> rfl
@[simp] theorem State.modTeam_groups (s : State) (t : Nat) (f : Team → Team) : (s.modTeam t f).groups = s.groups := by unfold State.modTeam; split <;> rfl
@[simp] theorem State.modTeam_grids (s : State) (t : Nat) (f : Team → Team) : (s.modTeam t f).grids = s.grids := by unfold State.modTeam; split <;> rfl
@[simp] theorem State.modTeam_ctxs (s : State) (t : Nat) (f : Team → Team) : (s.modTeam t f).ctxs = s.ctxs := by unfold State.modTeam; split <;> rfl
@[simp] theorem State.modTeam_mem (s : State) (t : Nat) (f : Team → Team) : (s.modTeam t f).mem = s.mem := by unfold State.modTeam; split <;> rfl
@[simp] theorem State.modTeam_dev (s : State) (t : Nat) (f : Team → Team) : (s.modTeam t f).dev = s.dev := by unfold State.modTeam; split <;> rfl
@[simp] theorem State.modTeam_scratch (s : State) (t : Nat) (f : Team → Team) : (s.modTeam t f).scratch = s.scratch := by unfold State.modTeam; split <;> rfl
@[simp] theorem State.modTeam_pks (s : State) (t : Nat) (f : Team → Team) : (s.modTeam t f).pks = s.pks := by unfold State.modTeam; split <;> rfl
@[simp] theorem State.modTeam_lpm (s : State) (t : Nat) (f : Team → Team) : (s.modTeam t f).lpm = s.lpm := by unfold State.modTeam; split <;> rfl
@[simp] theorem State.modTeam_tiles (s : State) (t : Nat) (f : Team → Team) : (s.modTeam t f).tiles = s.tiles := by unfold State.modTeam; split <;> rfl
@[simp] theorem State.modTeam_lines (s : State) (t : Nat) (f : Team → Team) : (s.modTeam t f).lines = s.lines := by unfold State.modTeam; split <;> rfl
@[simp] theorem State.modTeam_copies (s : State) (t : Nat) (f : Team → Team) : (s.modTeam t f).copies = s.copies := by unfold State.modTeam; split <;> rfl
@[simp] theorem State.modTeam_proxies (s : State) (t : Nat) (f : Team → Team) : (s.modTeam t f).proxies = s.proxies := by unfold State.modTeam; split <;> rfl
@[simp] theorem State.modTeam_pend (s : State) (t : Nat) (f : Team → Team) : (s.modTeam t f).pend = s.pend := by unfold State.modTeam; split <;> rfl
@[simp] theorem State.modTeam_reqs (s : State) (t : Nat) (f : Team → Team) : (s.modTeam t f).reqs = s.reqs := by unfold State.modTeam; split <;> rfl
@[simp] theorem State.modTeam_flags (s : State) (t : Nat) (f : Team → Team) : (s.modTeam t f).flags = s.flags := by unfold State.modTeam; split <;> rfl
@[simp] theorem State.modTeam_unlks (s : State) (t : Nat) (f : Team → Team) : (s.modTeam t f).unlks = s.unlks := by unfold State.modTeam; split <;> rfl
@[simp] theorem State.modTeam_shuttles (s : State) (t : Nat) (f : Team → Team) : (s.modTeam t f).shuttles = s.shuttles := by unfold State.modTeam; split <;> rfl
@[simp] theorem State.modTeam_colls (s : State) (t : Nat) (f : Team → Team) : (s.modTeam t f).colls = s.colls := by unfold State.modTeam; split <;> rfl
@[simp] theorem State.modTeam_streams (s : State) (t : Nat) (f : Team → Team) : (s.modTeam t f).streams = s.streams := by unfold State.modTeam; split <;> rfl
@[simp] theorem State.modTeam_collLost (s : State) (t : Nat) (f : Team → Team) : (s.modTeam t f).collLost = s.collLost := by unfold State.modTeam; split <;> rfl
@[simp] theorem State.modTeam_gathers (s : State) (t : Nat) (f : Team → Team) : (s.modTeam t f).gathers = s.gathers := by unfold State.modTeam; split <;> rfl
@[simp] theorem State.modTeam_drains (s : State) (t : Nat) (f : Team → Team) : (s.modTeam t f).drains = s.drains := by unfold State.modTeam; split <;> rfl
@[simp] theorem State.modTeam_shevs (s : State) (t : Nat) (f : Team → Team) : (s.modTeam t f).shevs = s.shevs := by unfold State.modTeam; split <;> rfl
@[simp] theorem State.modTeam_contribs (s : State) (t : Nat) (f : Team → Team) : (s.modTeam t f).contribs = s.contribs := by unfold State.modTeam; split <;> rfl
@[simp] theorem State.modTeam_rounds (s : State) (t : Nat) (f : Team → Team) : (s.modTeam t f).rounds = s.rounds := by unfold State.modTeam; split <;> rfl
@[simp] theorem State.modTeam_landings (s : State) (t : Nat) (f : Team → Team) : (s.modTeam t f).landings = s.landings := by unfold State.modTeam; split <;> rfl
@[simp] theorem State.modTeam_barq (s : State) (t : Nat) (f : Team → Team) : (s.modTeam t f).barq = s.barq := by unfold State.modTeam; split <;> rfl
@[simp] theorem State.modTeam_stitches (s : State) (t : Nat) (f : Team → Team) : (s.modTeam t f).stitches = s.stitches := by unfold State.modTeam; split <;> rfl
@[simp] theorem State.modTeam_watches (s : State) (t : Nat) (f : Team → Team) : (s.modTeam t f).watches = s.watches := by unfold State.modTeam; split <;> rfl
@[simp] theorem State.modTeam_damaged (s : State) (t : Nat) (f : Team → Team) : (s.modTeam t f).damaged = s.damaged := by unfold State.modTeam; split <;> rfl
@[simp] theorem State.modTeam_spoiled (s : State) (t : Nat) (f : Team → Team) : (s.modTeam t f).spoiled = s.spoiled := by unfold State.modTeam; split <;> rfl
@[simp] theorem State.modTeam_badTiles (s : State) (t : Nat) (f : Team → Team) : (s.modTeam t f).badTiles = s.badTiles := by unfold State.modTeam; split <;> rfl
@[simp] theorem State.modTeam_nextId (s : State) (t : Nat) (f : Team → Team) : (s.modTeam t f).nextId = s.nextId := by unfold State.modTeam; split <;> rfl
theorem State.modTeam_of_some {s : State} {k : Nat} {x : Team} (h : s.team? k = some x) (f : Team → Team) : s.modTeam k f = s.setTeam k (f x) := by
  simp [State.modTeam, h]
theorem State.modTeam_of_none {s : State} {k : Nat} (h : s.team? k = none) (f : Team → Team) : s.modTeam k f = s := by
  simp [State.modTeam, h]
theorem State.modTeam_team (s : State) (k j : Nat) (f : Team → Team) :
    (s.modTeam k f).team? j = if j = k then (s.team? k).map f else s.team? j := by
  unfold State.modTeam
  by_cases h : j = k
  · subst h
    cases hc : s.team? j <;> simp [hc]
  · rw [if_neg h]
    split
    · exact State.setTeam_team_of_ne _ _ _ _ h
    · rfl

end Sys2Proof.Machine
end

