-- ==== Sys2Proof/Laws/Engine.lean ====
section
/-! SUPPORT. Engine accesses that nothing hinders: a state in which a module's engines may read and write its own lines at once, and what
writing a run of lines there leaves. -/

namespace Sys2Proof.Machine

/-- Nothing hinders a write of a module to a line of its own: no store on its way, no pin, no moved or lost memory. -/
structure State.Calm (s : State) : Prop where
  sb : ∀ g ∈ s.groups, g.2.sb = [] ∧ g.2.entering = []
  pins : ∀ c ∈ s.cores, c.2.pins = []
  moved : ∀ m, (s.module m).moved = []
  lost : ∀ m, (s.module m).lost = false
  dies : ∀ m, (s.module m).lostDies = []
  tlb : ∀ c ∈ s.cores, c.2.tlb = []
  walker : s.dies = []
  ctx : ∀ c ∈ s.ctxs, c.2.queues = [] ∧ c.2.frames = []

/-- The line is at its home and holds no page-table entry that migrates and no register block. -/
def State.plainLine (s : State) (l : Nat) : Bool :=
  (s.line l).red.isNone && (s.line l).lock.isNone && (s.line l).dir == .uncached &&
    (List.range 16).all (fun i => !pteMig (mnat s.mem (l * 128 + 8 * i) 8)) && !s.hasRegs l

theorem plainLine_congr {s t : State} (l : Nat) (h1 : t.lines = s.lines) (h2 : t.mem = s.mem) (h3 : t.mods = s.mods) (h4 : t.ctxs = s.ctxs) :
    t.plainLine l = s.plainLine l := by
  simp only [State.plainLine, State.line, State.hasRegs, State.fbBlock, State.module, h1, h2, h3, h4]

theorem mnat_congr (m m' : Memory) (a n : Nat) (h : ∀ x, a ≤ x → x < a + n → mread m x = mread m' x) : mnat m a n = mnat m' a n := by
  have : mreadN m a n = mreadN m' a n := by
    apply List.ext_getElem
    · simp [mreadN_length]
    · intro i h1 h2
      rw [mreadN_length] at h1
      rw [getElem_mreadN, getElem_mreadN]
      exact h _ (by omega) (by omega)
  rw [mnat, mnat, this]

/-- Memory that lists no byte of a range reads 0 in it. -/
theorem mread_unlisted (m : Memory) (a : Nat) (h : ∀ c ∈ m, c.1 ≠ a) : mread m a = 0#8 := by
  unfold mread
  induction m with
  | nil => rfl
  | cons c m ih =>
    rw [nget, if_neg (h c (by simp))]
    exact ih (fun c hc => h c (by simp [hc]))

theorem foldl_same {α β : Type} (f : β → α → β) (l : List α) (b : β) (h : ∀ a ∈ l, f b a = b) : l.foldl f b = b := by
  induction l with
  | nil => rfl
  | cons a l ih => rw [List.foldl_cons, h a (by simp)]; exact ih (fun x hx => h x (by simp [hx]))

theorem switches_nil (s : State) (l : Nat) (new : Memory) (h : (List.range 16).all (fun i => !pteMig (mnat s.mem (l * 128 + 8 * i) 8)) = true) :
    s.switches l new = [] := by
  rw [List.all_eq_true] at h
  rw [State.switches, List.filterMap_eq_nil_iff]
  intro i hi
  have := h i hi
  simp at this
  simp [this]

theorem State.Calm.pinned {s : State} (h : s.Calm) (m l : Nat) : s.pinnedBy m l = false := by
  rw [State.pinnedBy, List.any_eq_false]
  intro c hc
  simp [h.pins c hc]

theorem State.Calm.pinsHome {s : State} (h : s.Calm) {l : Nat} (hk : (s.line l).lock = none) : s.pinsHome l = false := by
  simp [State.pinsHome, h.pinned, hk]

theorem State.Calm.noteEntries {s : State} (h : s.Calm) (l : Nat) : s.noteEntries l = s := by
  have h1 : (s.dies.any (fun d => d.2.walker.any (fun e => e.pa / 128 == l)) ||
      s.cores.any (fun c => c.2.tlb.any (fun e => e.pa / 128 == l))) = false := by
    rw [h.walker, List.any_nil, Bool.false_or, List.any_eq_false]
    intro c hc; simp [h.tlb c hc]
  have h2 : s.ctxs.any (fun c => c.2.frames.any (fun f => f.2.1 / 128 == l)) = false := by
    rw [List.any_eq_false]; intro c hc; simp [(h.ctx c hc).2]
  simp only [State.noteEntries, h1, h2, Bool.false_eq_true, if_false]

theorem State.Calm.noteQueues {s : State} (h : s.Calm) (l : Nat) : s.noteQueues l = s :=
  foldl_same _ _ _ (fun c hc => by rw [(h.ctx c hc).1, List.foldl_nil])

/-- A state that differs in lines, memory and what a write records is as calm. -/
theorem State.Calm.after {s t : State} (h : s.Calm) (h1 : t.groups = s.groups) (h2 : t.cores = s.cores) (h3 : t.mods = s.mods)
    (h4 : t.dies = s.dies) (h5 : t.ctxs = s.ctxs) : t.Calm := by
  have hm : ∀ m, t.module m = s.module m := fun m => by simp only [State.module, h3]
  exact ⟨by rw [h1]; exact h.sb, by rw [h2]; exact h.pins, fun m => by rw [hm]; exact h.moved m, fun m => by rw [hm]; exact h.lost m,
    fun m => by rw [hm]; exact h.dies m, by rw [h2]; exact h.tlb, by rw [h4]; exact h.walker, by rw [h5]; exact h.ctx⟩

theorem store_calm (s : State) (l : Nat) (mem : Memory) (cov : List Nat) (hc : s.Calm) (hl : s.plainLine l = true) :
    ∃ (x : Line) (t : Nat), s.store l mem cov (lineMod l) = (State.setLine { s with mem := mem } l x, t, []) := by
  simp only [State.plainLine, Bool.and_eq_true, Option.isNone_iff_eq_none, beq_iff_eq, Bool.not_eq_true'] at hl
  obtain ⟨⟨⟨⟨-, hk⟩, hd⟩, hg⟩, hreg⟩ := hl
  have hp : (s.line l).point = .home := by simp [Line.point, hk, hd]
  have hq (x : Line) : ((State.setLine { s with mem := mem } l x).noteEntries l).noteQueues l = State.setLine { s with mem := mem } l x := by
    have h : (State.setLine { s with mem := mem } l x).Calm := hc.after rfl rfl rfl rfl rfl
    rw [h.noteEntries, h.noteQueues]
  have hs (x : Line) (hx : x.dir = .uncached) : State.sharers (State.setLine { s with mem := mem } l x) l = [] := by
    simp [State.sharers, State.line, State.setLine, hx]
  have he (x : Line) : State.exclOk (State.setLine { s with mem := mem } l x) l (lineMod l) = false := by simp [State.exclOk]
  simp only [State.store, hreg, State.writeLine, switches_nil _ _ _ hg, List.foldl_nil, hp, Bool.false_eq_true, if_false, he, hq]
  rw [hs]
  · exact ⟨_, _, rfl⟩
  · exact hd

/-- An engine access of the line's own module goes over no fabric; with nothing in its way it is performed at once. -/
theorem engWrite_own (s : State) (m pa l : Nat) (bs : List Byte) (o : Origin) (hl : lineOf pa = l) (h : m = lineMod l)
    (hm : s.movedLine l = false) (ho : s.pointOpen m l = true) (hrc : s.redClear l = true) (hcr : s.closeRed l = s)
    (hx : s.xlatClear l [] = true) (hsw : s.switchRoom l (mwriteN s.mem pa bs) = true) :
    s.engWrite m pa bs o = some (s.putWrite m l ((List.range bs.length).map (fun i => pa + i)) (mwriteN s.mem pa bs) o) := by
  have h2 : (m != lineMod l) = false := by rw [h]; exact bne_self_eq_false _
  unfold State.engWrite State.tryWrite
  simp only [hl, h2, hcr, hm, ho, hrc, hx, hsw, Bool.false_and, Bool.not_true, Bool.or_false, Bool.and_false, Bool.false_eq_true, if_false]

/-- An engine of the line's own module may write when nothing hinders it, whatever frames the contexts hold. -/
theorem engWrite_some (s : State) (pa : Nat) (bs : List Byte) (o : Origin) (h : State.Calm { s with ctxs := [] })
    (hl : s.plainLine (lineOf pa) = true) : ∃ w t, s.engWrite (lineMod (lineOf pa)) pa bs o = some (w, t) := by
  simp only [State.plainLine, Bool.and_eq_true, Option.isNone_iff_eq_none, beq_iff_eq, Bool.not_eq_true'] at hl
  obtain ⟨⟨⟨⟨hr, hk⟩, hd⟩, hg⟩, -⟩ := hl
  have hpin : s.pinsHome (lineOf pa) = false := h.pinsHome hk
  have hmo : ∀ m, (s.module m).moved = [] := h.moved
  have hlo : ∀ m, (s.module m).lost = false := h.lost
  have hld : ∀ m, (s.module m).lostDies = [] := h.dies
  have hp : (s.line (lineOf pa)).point = .home := by simp [Line.point, hk, hd]
  have ho : s.pointOpen (lineMod (lineOf pa)) (lineOf pa) = true := by simp [State.pointOpen, hp, hpin, State.homeLost, hlo, hld]
  have hm : s.movedLine (lineOf pa) = false := by simp [State.movedLine, hmo]
  have hrc : s.redClear (lineOf pa) = true := by simp [State.redClear, hr]
  have hcr : s.closeRed (lineOf pa) = s := by simp [State.closeRed, State.applyRed, hr]
  have hx : s.xlatClear (lineOf pa) [] = true := by
    rw [State.xlatClear, List.all_eq_true]; intro g hg'; simp [(h.sb g hg').1, (h.sb g hg').2]
  have hsw : s.switchRoom (lineOf pa) (mwriteN s.mem pa bs) = true := by simp [State.switchRoom, switches_nil _ _ _ hg]
  rw [engWrite_own _ _ _ _ _ _ rfl rfl hm ho hrc hcr hx hsw]
  rcases s.putWrite _ _ _ _ _ with ⟨w, t⟩
  exact ⟨w, t, rfl⟩

/-- The finished write of an engine only leaves its record. -/
theorem finishWrite_engine (s : State) (l t : Nat) (wait : List Nat) (e : EngInst) (w a : Nat) :
    s.finishWrite l t wait (.engine e) w a = s.pendWrite l t wait (.engine e) w a := rfl

/-- What a write of an engine of a calm state leaves at a plain line. -/
theorem putWrite_calm (s : State) (l : Nat) (cov : List Nat) (mem : Memory) (e : EngInst) (hc : s.Calm) (hl : s.plainLine l = true) :
    ∃ (x : Line) (t : Nat), s.putWrite (lineMod l) l cov mem (.engine e) =
      (State.setLine { s.mend cov with mem := mem } l x).pendWrite l t [] (.engine e) (lineMod l) ((s.line l).point.mod l) := by
  obtain ⟨x, t, hw⟩ := store_calm (s.mend cov) l mem cov (hc.after rfl rfl rfl rfl rfl)
    ((plainLine_congr l rfl rfl rfl rfl).trans hl)
  refine ⟨x, t, ?_⟩
  unfold State.putWrite
  rw [hw]
  exact finishWrite_engine ..

/-- What a write of an engine of the line's own module leaves when nothing hinders it. -/
theorem engWrite_calm (s : State) (pa : Nat) (bs : List Byte) (e : EngInst) (hc : s.Calm) (hl : s.plainLine (lineOf pa) = true)
    (hn : pa % 128 + bs.length ≤ 128) :
    ∃ (w : Nat) (t : State), s.engWrite (lineMod (lineOf pa)) pa bs (.engine e) = some (w, t) ∧ t.Calm ∧ t.mem = mwriteN s.mem pa bs ∧
      t.ctxs = s.ctxs ∧ t.gathers = s.gathers ∧ (∀ l, l ≠ lineOf pa → t.plainLine l = s.plainLine l) ∧
      ∀ p ∈ t.pend, p ∈ s.pend ∨ p.wait = [] := by
  have hl' := hl
  simp only [State.plainLine, Bool.and_eq_true, Option.isNone_iff_eq_none, beq_iff_eq, Bool.not_eq_true'] at hl
  obtain ⟨⟨⟨⟨hr, hk⟩, hd⟩, hg⟩, -⟩ := hl
  have hp : (s.line (lineOf pa)).point = .home := by simp [Line.point, hk, hd]
  have ho : s.pointOpen (lineMod (lineOf pa)) (lineOf pa) = true := by
    simp [State.pointOpen, hp, hc.pinsHome hk, State.homeLost, hc.lost, hc.dies]
  have hm : s.movedLine (lineOf pa) = false := by simp [State.movedLine, hc.moved]
  have hrc : s.redClear (lineOf pa) = true := by simp [State.redClear, hr]
  have hcr : s.closeRed (lineOf pa) = s := by simp [State.closeRed, State.applyRed, hr]
  have hx : s.xlatClear (lineOf pa) [] = true := by
    rw [State.xlatClear, List.all_eq_true]; intro g hg'; simp [(hc.sb g hg').1, (hc.sb g hg').2]
  have hsw : s.switchRoom (lineOf pa) (mwriteN s.mem pa bs) = true := by simp [State.switchRoom, switches_nil _ _ _ hg]
  obtain ⟨x, t, hput⟩ := putWrite_calm s (lineOf pa) ((List.range bs.length).map (fun i => pa + i)) (mwriteN s.mem pa bs) e hc hl'
  have hw := (engWrite_own s (lineMod (lineOf pa)) pa _ bs (.engine e) rfl rfl hm ho hrc hcr hx hsw).trans (congrArg some hput)
  generalize ((List.range bs.length).map (fun i => pa + i)) = cov at hw
  refine ⟨_, _, hw, ?_⟩
  · refine ⟨hc.after rfl rfl rfl rfl rfl, rfl, rfl,
      rfl, fun l hne => ?_, fun p hp => ?_⟩
    rotate_left
    · simp only [State.setLine, List.mem_append, List.mem_singleton] at hp
      rcases hp with hp | rfl
      · exact .inl hp
      · exact .inr rfl
    have h1 (i : Nat) (hi : i < 16) : mnat (mwriteN s.mem pa bs) (l * 128 + 8 * i) 8 = mnat s.mem (l * 128 + 8 * i) 8 := by
      apply mnat_congr
      intro x h1 h2
      apply mread_mwriteN_outside
      unfold lineOf at hne
      omega
    have h2 : (List.range 16).all (fun i => !pteMig (mnat (mwriteN s.mem pa bs) (l * 128 + 8 * i) 8)) =
        (List.range 16).all (fun i => !pteMig (mnat s.mem (l * 128 + 8 * i) 8)) := by
      rw [Bool.eq_iff_iff, List.all_eq_true, List.all_eq_true]
      constructor <;> intro h i hi <;> have := h i hi <;> rw [List.mem_range] at hi <;> simpa [h1 i hi] using this
    simp only [State.plainLine, State.line, State.setLine, tget_tset_of_ne _ _ hne, h2]
    rfl

/-- Lines that follow one another from an address up lie in module m and are plain. -/
def State.plainRun (s : State) (m pa n : Nat) : Prop :=
  ∀ i, i < n → lineMod (lineOf (pa + 128 * i)) = m ∧ s.plainLine (lineOf (pa + 128 * i)) = true

/-- A run of lines of the module's own is written at once, and nothing else changes in memory. -/
theorem shardWrite_calm (m d pa : Nat) (bs : List Byte) (n : Nat) (s : State) (hc : s.Calm) (ha : pa % 128 = 0) (hr : s.plainRun m pa n) :
    ∃ t : State, s.shardWrite m d pa bs n = some t ∧ t.Calm ∧ t.ctxs = s.ctxs ∧ t.gathers = s.gathers ∧
      (∀ l, l < lineOf pa ∨ lineOf pa + n ≤ l → t.plainLine l = s.plainLine l) ∧
      (∀ x, x < pa ∨ pa + 128 * n ≤ x → mread t.mem x = mread s.mem x) ∧ ∀ p ∈ t.pend, p ∈ s.pend ∨ p.wait = [] := by
  induction n generalizing s with
  | zero => exact ⟨s, rfl, hc, rfl, rfl, fun _ _ => rfl, fun _ _ => rfl, fun _ h => .inl h⟩
  | succ n ih =>
    have hlen : ((bs.drop (128 * n)).take 128).length ≤ 128 := by simp only [List.length_take]; omega
    have h0 := hr n (by omega)
    obtain ⟨w, t, h1, h2, h3, h4, h5, h6, h7⟩ := engWrite_calm s (pa + 128 * n) ((bs.drop (128 * n)).take 128) (.shard ⟨m, d⟩) hc h0.2 (by omega)
    rw [h0.1] at h1
    have hrt : t.plainRun m pa n := fun i hi => by
      refine ⟨(hr i (by omega)).1, ?_⟩
      rw [h6 _ (by unfold lineOf; omega)]
      exact (hr i (by omega)).2
    obtain ⟨u, g1, g2, g3, g4, g5, g6, g7⟩ := ih t h2 hrt
    refine ⟨u, by simp only [State.shardWrite, h1, g1], g2, by rw [g3, h4], by rw [g4, h5], fun l hl => ?_, fun x hx => ?_,
      fun p hp => (g7 p hp).elim (h7 p) .inr⟩
    · rw [g5 l (by omega), h6 l (by unfold lineOf at *; omega)]
    · rw [g6 x (by omega), h3, mread_mwriteN_outside _ _ _ _ (by omega)]

/-- A run of lines of the module's own is read at once. -/
theorem shardRead_calm (s : State) (m pa n : Nat) (hc : s.Calm) (hd : s.damaged = []) (hr : s.plainRun m pa n) :
    ∃ bs, s.shardRead m pa n = .ok bs s := by
  induction n with
  | zero => exact ⟨[], rfl⟩
  | succ n ih =>
    obtain ⟨bs, hb⟩ := ih (fun i hi => hr i (by omega))
    obtain ⟨h1, h2⟩ := hr n (by omega)
    simp only [State.plainLine, Bool.and_eq_true, Option.isNone_iff_eq_none, beq_iff_eq] at h2
    obtain ⟨⟨⟨⟨hrd, hk⟩, hdir⟩, -⟩, -⟩ := h2
    simp only [State.shardRead, State.engRead, State.readBlocked, State.redClear, hrd, State.movedLine, hc.moved, State.damagedAt, hd,
      State.redFirst, State.applyRed, State.fillSource, State.homeLost, hc.lost, hc.dies, hdir, h1, hb, List.any_nil, List.contains_nil,
      Bool.or_false, Bool.not_true, Bool.and_false, Bool.false_eq_true, if_false, if_true, ite_self]
    exact ⟨_, rfl⟩

/-- No shard engine has contributions that wait to be counted. -/
def State.allCounted (s : State) : Prop := ∀ k, (s.die k).applying = []

theorem State.allCounted.of_dies {s t : State} (h : s.allCounted) (hd : t.dies = s.dies) : t.allCounted := fun k => by
  rw [State.die, hd]; exact h k

theorem State.modMember_dies (s : State) (t i : Nat) (f : Group → Group) : (s.modMember t i f).dies = s.dies := by
  unfold State.modMember; split <;> simp

theorem State.allCounted.raiseHz {s : State} (h : s.allCounted) (e : EngInst) (t : Nat) : (s.raiseHz e t).allCounted := by
  have hm (d : DieKey) (f : Die → Die) (hf : ∀ x, (f x).applying = x.applying) : (s.modDie d f).allCounted := fun k => by
    by_cases hk : k = d
    · subst hk; simp [State.modDie, State.setDie, State.die, hf]; exact h k
    · simp [State.modDie, State.setDie, State.die, tget_tset_of_ne _ _ hk]; exact h k
  unfold State.raiseHz
  split
  · exact h.of_dies rfl
  · exact h.of_dies rfl
  · exact hm _ _ (fun _ => rfl)
  · exact hm _ _ (fun _ => rfl)

theorem State.allCounted.settlePend {s : State} (h : s.allCounted) : s.settlePend.allCounted := by
  have hf (ps : List PendWrite) : ∀ s : State, s.allCounted → (ps.foldl (fun s p => match p.origin with
      | .engine e => s.raiseHz e p.t
      | .flag i => s.flagInPlace i p
      | .entry .. | .lane .. | .host => s) s).allCounted := by
    induction ps with
    | nil => exact fun _ h => h
    | cons p ps ih =>
      refine fun s h => ih _ ?_
      dsimp only
      split
      · exact h.raiseHz _ _
      · refine h.of_dies ?_
        unfold State.flagInPlace
        split
        · rfl
        · simp [State.modMember_dies, State.writeInPlace]
      all_goals exact h
  exact (hf _ _ h).of_dies rfl

/-- Contributions are applied and counted at once in a slice whose lines are plain. -/
theorem applyShard_calm (s : State) (a : Applying) (cs : List (List Byte)) (hc : s.Calm) (hd : s.damaged = []) (hw : s.pend = [])
    (ha : a.base % 128 = 0) (hr : s.plainRun a.key.m a.base a.lines)
    (ho : lineOf a.applied < lineOf a.base ∨ lineOf a.base + a.lines ≤ lineOf a.applied)
    (hm : lineMod (lineOf a.applied) = a.key.m) (hp : s.plainLine (lineOf a.applied) = true)
    (h4 : a.applied % 128 + 4 ≤ 128) : ∃ t, s.applyShard a cs = some t ∧ t.allCounted := by
  obtain ⟨old, h1⟩ := shardRead_calm s a.key.m a.base _ hc hd hr
  obtain ⟨t, h2, h3, -, -, h5, -, h7⟩ := shardWrite_calm a.key.m a.die.d a.base (cs.foldl addShard old) _ s hc ha hr
  obtain ⟨w, u, h6, h8, -⟩ := engWrite_calm t a.applied (appliedBytes t.mem a.applied a.n)
    (.shard a.die) h3 (by rw [h5 _ ho, hp]) (by rw [appliedBytes, toBytes_length]; omega)
  rw [hm] at h6
  have h9 : t.sliceUnsettled a = false := by
    rw [State.sliceUnsettled, List.any_eq_false]
    intro p hp
    have := h7 p hp
    simp [hw] at this
    simp [this]
  refine ⟨_, by simp only [State.applyShard, h1, h2, h9, State.countApplied, h6, Bool.false_eq_true, if_false, Option.map_some]; rfl, ?_⟩
  have h10 : u.settlePend.allCounted := State.allCounted.settlePend (fun k => by rw [State.die, h8.walker]; rfl)
  have h11 (x : State) (k : CtxKey) (i n : Nat) : (x.count k i n).dies = x.dies := by unfold State.count; split <;> simp
  exact h10.of_dies (by rw [h11, h11, h11])

/-- A check that nothing hinders a module's engines. -/
def State.calmB (s : State) : Bool :=
  s.groups.all (fun g => g.2.sb == [] && g.2.entering == []) && s.cores.all (fun c => c.2.pins == [] && c.2.tlb == []) &&
    s.mods.all (fun m => m.2.moved == [] && !m.2.lost && m.2.lostDies == []) && s.dies == [] &&
    s.ctxs.all (fun c => c.2.queues == [] && c.2.frames == [])

theorem tget_all {κ β : Type} [DecidableEq κ] (t : Table κ β) (p : κ × β → Bool) (k : κ) (v : β) (h : t.all p = true) (hk : tget t k = some v) :
    ∃ j, p (j, v) = true := by
  induction t with
  | nil => simp [tget] at hk
  | cons e t ih =>
    obtain ⟨j, w⟩ := e
    simp only [List.all_cons, Bool.and_eq_true] at h
    unfold tget at hk
    split at hk
    · exact ⟨j, by cases hk; exact h.1⟩
    · exact ih h.2 hk

theorem calm_of {s : State} (h : s.calmB = true) : s.Calm := by
  simp only [State.calmB, Bool.and_eq_true, beq_iff_eq] at h
  obtain ⟨⟨⟨⟨h1, h2⟩, h3⟩, h4⟩, h5⟩ := h
  have hm (m : Nat) : (s.module m).moved = [] ∧ (s.module m).lost = false ∧ (s.module m).lostDies = [] := by
    unfold State.module
    cases hg : tget s.mods m with
    | none => exact ⟨rfl, rfl, rfl⟩
    | some v =>
      obtain ⟨j, hj⟩ := tget_all _ _ _ _ h3 hg
      simpa [and_assoc] using hj
  rw [List.all_eq_true] at h1 h2 h5
  refine ⟨fun g hg => ?_, fun c hc => ?_, fun m => (hm m).1, fun m => (hm m).2.1, fun m => (hm m).2.2, fun c hc => ?_, h4, fun c hc => ?_⟩
  · simpa using h1 g hg
  · have := h2 c hc; simp at this; exact this.1
  · have := h2 c hc; simp at this; exact this.2
  · simpa using h5 c hc

/-- No register block lies in n lines from an address up. -/
def State.regsOff (s : State) (m pa n : Nat) : Bool :=
  let off (b k : Nat) : Bool := decide (b + k ≤ pa / 128) || decide (pa / 128 + n ≤ b)
  off (s.fbBlock m / 128) 1 && s.ctxs.all (fun c => off (c.2.p.dbgBase / 128) 4 && c.2.queues.all (fun q => off (q.2.block / 128) 1))

/-- A run of memory of which nothing is listed is plain where no line has left its home. -/
theorem plainRun_of {s : State} {m pa n : Nat} (hl : s.lines = []) (hm : m < 1024) (ha : pa % 128 = 0) (h1 : m * 2 ^ 48 ≤ pa)
    (h2 : pa + 128 * n ≤ (m + 1) * 2 ^ 48) (hs : s.mem.all (fun c => decide (c.1 < pa) || decide (pa + 128 * n ≤ c.1)) = true)
    (hg : s.regsOff m pa n = true) : s.plainRun m pa n := by
  intro i hi
  have hm' : lineMod (lineOf (pa + 128 * i)) = m := by
    have h3 : lineOf (pa + 128 * i) * 128 = pa + 128 * i := by unfold lineOf; omega
    rw [lineMod, paMod, h3]
    omega
  have hreg : s.hasRegs (lineOf (pa + 128 * i)) = false := by
    simp only [State.regsOff, Bool.and_eq_true, Bool.or_eq_true, decide_eq_true_eq, List.all_eq_true] at hg
    have hlo : lineOf (pa + 128 * i) = pa / 128 + i := by unfold lineOf; omega
    obtain ⟨g1, g2⟩ := hg
    rw [State.hasRegs, hm', hlo, Bool.or_eq_false_iff, List.any_eq_false]
    refine ⟨by rw [beq_eq_false_iff_ne]; omega, fun c hc => ?_⟩
    obtain ⟨g3, g4⟩ := g2 c hc
    simp only [Bool.or_eq_true, Bool.and_eq_true, decide_eq_true_eq, List.any_eq_true, not_or, not_exists, beq_iff_eq]
    exact ⟨by omega, fun q hq => by have := g4 q hq.1; omega⟩
  refine ⟨hm', ?_⟩
  · have hline : s.line (lineOf (pa + 128 * i)) = Line.fresh := by simp [State.line, hl, tget]
    simp only [State.plainLine, hline, hreg, Line.fresh, Option.isNone_none, beq_self_eq_true, Bool.not_false, Bool.and_true, Bool.true_and]
    rw [List.all_eq_true] at hs ⊢
    intro j hj
    rw [List.mem_range] at hj
    have : mnat s.mem (lineOf (pa + 128 * i) * 128 + 8 * j) 8 = mnat [] 0 8 := by
      have h0 : ∀ (k : Nat) (a : Nat), k ≤ 8 → pa ≤ a → a + k ≤ pa + 128 * n → mreadN s.mem a k = mreadN [] 0 k := by
        intro k
        induction k with
        | zero => intros; rfl
        | succ k ih =>
          intro a hk h3 h4
          rw [mreadN, ih (a + 1) (by omega) (by omega) (by omega), mreadN]
          have : ∀ k b c, mreadN [] b k = mreadN [] c k := by
            intro k; induction k with
            | zero => intros; rfl
            | succ k ih => intro b c; rw [mreadN, mreadN, ih (b + 1) (c + 1)]; rfl
          rw [this k (0 + 1) 0, mread_unlisted]
          · rfl
          · intro c hc; have := hs c hc; simp at this; omega
      rw [mnat, mnat, h0 8 _ (by omega) (by unfold lineOf; omega) (by unfold lineOf; omega)]
    rw [this]
    decide

/-! ### What a change of a context's own records leaves (the notes of an engine's access, its counts) -/

theorem any_tset {κ β : Type} [DecidableEq κ] (t : Table κ β) (k : κ) (v w : β) (p : κ × β → Bool) (h : tget t k = some w)
    (hp : p (k, v) = p (k, w)) : (tset t k v).any p = t.any p := by
  induction t with
  | nil => cases h
  | cons e t ih =>
    obtain ⟨k', v'⟩ := e
    by_cases hk : k' = k
    · subst hk
      rw [tget, if_pos rfl] at h
      cases h
      simp [tset, hp]
    · simp only [tget, if_neg hk] at h
      simp [tset, hk, ih h]

/-- Two states whose lines, memory, modules, groups, cores and dies are the same, and whose register blocks lie in the same lines. -/
structure State.Near (s t : State) : Prop where
  lines : t.lines = s.lines
  mem : t.mem = s.mem
  mods : t.mods = s.mods
  groups : t.groups = s.groups
  cores : t.cores = s.cores
  dies : t.dies = s.dies
  regs : ∀ l, t.hasRegs l = s.hasRegs l

theorem State.Near.refl (s : State) : s.Near s := ⟨rfl, rfl, rfl, rfl, rfl, rfl, fun _ => rfl⟩
theorem State.Near.trans {s t u : State} (h : s.Near t) (g : t.Near u) : s.Near u :=
  ⟨g.lines.trans h.lines, g.mem.trans h.mem, g.mods.trans h.mods, g.groups.trans h.groups, g.cores.trans h.cores, g.dies.trans h.dies,
    fun l => (g.regs l).trans (h.regs l)⟩

theorem near_modCtx (s : State) (k : CtxKey) (f : Context → Context) (hf : ∀ c, (f c).p = c.p ∧ (f c).queues = c.queues) :
    s.Near (s.modCtx k f) := by
  unfold State.modCtx
  split
  · next c hc =>
    refine ⟨rfl, rfl, rfl, rfl, rfl, rfl, fun l => ?_⟩
    simp only [State.hasRegs, State.setCtx, State.fbBlock, State.module]
    rw [any_tset s.ctxs k (f c) c _ hc (by simp only [(hf c).1, (hf c).2])]
  · exact .refl s

theorem near_offer (s : State) (k : CtxKey) (e : TrigEv) : s.Near (s.offer k e) := near_modCtx s k _ (fun _ => ⟨rfl, rfl⟩)

theorem near_foldl {α : Type} (f : State → α → State) (l : List α) (s : State) (h : ∀ (s : State) a, s.Near (f s a)) : s.Near (l.foldl f s) := by
  induction l generalizing s with
  | nil => exact .refl s
  | cons a l ih => exact (h s a).trans (ih (f s a))

theorem near_noteTouch (s : State) (a : WatchAcc) (core : Nat) (hits : List Nat) (as : List (DWord × Nat)) :
    s.Near (s.noteTouch a core hits as).1 := by
  have h : ∀ (ws : List Nat) (g : State × List Nat → Nat → Option DWord) (r : State × List Nat), State.Near r.1
      (ws.foldl (fun (r : State × List Nat) w =>
        if r.2.contains w then r
        else match g r w with
          | some b => ({ r.1 with watches := r.1.watches ++ [{ a with w := w, va := b }] }, w :: r.2)
          | none => r) r).1 := by
    intro ws g
    induction ws with
    | nil => exact fun r => .refl _
    | cons w ws ih =>
      intro r
      rw [List.foldl_cons]
      refine State.Near.trans ?_ (ih _)
      split
      · exact .refl _
      · split
        · exact ⟨rfl, rfl, rfl, rfl, rfl, rfl, fun _ => rfl⟩
        · exact .refl _
  unfold State.noteTouch
  exact State.Near.trans (near_foldl _ as s (fun (s : State) e => near_offer s _ _)) (h _ (fun (r : State × List Nat) w =>
    as.findSome? (fun e => r.1.watchByte a.key w (a.acc != 0) (a.acc != 1) e.1 e.2)) (_, hits))

theorem near_count (s : State) (k : CtxKey) (i n : Nat) : s.Near (s.count k i n) := by
  unfold State.count
  split
  · exact .refl s
  · refine near_modCtx s k _ (fun c => ?_)
    dsimp only
    split <;> exact ⟨rfl, rfl⟩

theorem State.Near.plain {s t : State} (h : s.Near t) (l : Nat) : t.plainLine l = s.plainLine l := by
  simp only [State.plainLine, State.line, h.lines, h.mem, h.regs l]
theorem State.Near.calm {s t : State} (h : s.Near t) (hc : State.Calm { s with ctxs := [] }) : State.Calm { t with ctxs := [] } :=
  State.Calm.after (s := { s with ctxs := [] }) hc h.groups h.cores h.mods h.dies rfl


end Sys2Proof.Machine
end

