-- ==== Sys2Proof/Laws/Regs.lean ====
section
/-! SUPPORT. Laws of the register files (spec/02 R33): what a read gives after a write. -/

namespace Sys2Proof.Machine

theorem Regs.rdV_wrV (r : Regs) (i l j m : Nat) (x : Word) (hl : l < 32) (hm : m < 32) :
    (r.wrV i l x).rdV j m = if j = i ∧ m = l then x else r.rdV j m := by
  unfold Regs.rdV Regs.wrV
  rw [nget_nset]
  by_cases h : j = i ∧ m = l
  · simp [h.1, h.2]
  · rw [if_neg h, if_neg (by omega)]

theorem Regs.rdS_wrS (r : Regs) (i j : Nat) (x : DWord) :
    (r.wrS i x).rdS j = if j = i ∧ i ≠ 0 then x else r.rdS j := by
  unfold Regs.rdS Regs.wrS
  by_cases hi : i = 0
  · simp [hi]
  · by_cases hj : j = 0
    · subst hj; simp [Ne.symm hi]
    · simp only [hi, hj, if_false, nget_nset]
      by_cases h : j = i <;> simp [h, hi]

theorem Regs.rdP_wrP (r : Regs) (i j : Nat) (x : LaneMask) :
    (r.wrP i x).rdP j = if j = i ∧ i ≠ 7 then x else r.rdP j := by
  unfold Regs.rdP Regs.wrP
  by_cases hi : i = 7
  · simp [hi]
  · by_cases hj : j = 7
    · subst hj; simp [Ne.symm hi]
    · simp only [hi, hj, if_false, nget_nset]
      by_cases h : j = i <;> simp [h, hi]

theorem Regs.rdQ_wrQ (r : Regs) (i j : Nat) (x : Bool) :
    (r.wrQ i x).rdQ j = if j = i ∧ i ≠ 3 then x else r.rdQ j := by
  unfold Regs.rdQ Regs.wrQ
  by_cases hi : i = 3
  · simp [hi]
  · by_cases hj : j = 3
    · subst hj; simp [Ne.symm hi]
    · simp only [hi, hj, if_false, nget_nset]
      by_cases h : j = i <;> simp [h, hi]

/-- s0 reads 0. -/
@[simp] theorem Regs.rdS_zero (r : Regs) : r.rdS 0 = 0#64 := rfl
/-- p7 reads all ones. -/
@[simp] theorem Regs.rdP_seven (r : Regs) : r.rdP 7 = allLanes := rfl
/-- q3 reads 1. -/
@[simp] theorem Regs.rdQ_three (r : Regs) : r.rdQ 3 = true := rfl
/-- s0 discards writes. -/
@[simp] theorem Regs.wrS_zero (r : Regs) (x : DWord) : r.wrS 0 x = r := rfl
/-- p7 discards writes. -/
@[simp] theorem Regs.wrP_seven (r : Regs) (x : LaneMask) : r.wrP 7 x = r := rfl
/-- q3 discards writes. -/
@[simp] theorem Regs.wrQ_three (r : Regs) (x : Bool) : r.wrQ 3 x = r := rfl

@[simp] theorem Regs.wrV_s (r : Regs) (i l : Nat) (x : Word) : (r.wrV i l x).s = r.s := rfl
@[simp] theorem Regs.wrV_p (r : Regs) (i l : Nat) (x : Word) : (r.wrV i l x).p = r.p := rfl
@[simp] theorem Regs.wrV_q (r : Regs) (i l : Nat) (x : Word) : (r.wrV i l x).q = r.q := rfl
@[simp] theorem Regs.wrS_v (r : Regs) (i : Nat) (x : DWord) : (r.wrS i x).v = r.v := by unfold Regs.wrS; split <;> rfl
@[simp] theorem Regs.wrS_p (r : Regs) (i : Nat) (x : DWord) : (r.wrS i x).p = r.p := by unfold Regs.wrS; split <;> rfl
@[simp] theorem Regs.wrS_q (r : Regs) (i : Nat) (x : DWord) : (r.wrS i x).q = r.q := by unfold Regs.wrS; split <;> rfl
@[simp] theorem Regs.wrP_v (r : Regs) (i : Nat) (x : LaneMask) : (r.wrP i x).v = r.v := by unfold Regs.wrP; split <;> rfl
@[simp] theorem Regs.wrP_s (r : Regs) (i : Nat) (x : LaneMask) : (r.wrP i x).s = r.s := by unfold Regs.wrP; split <;> rfl
@[simp] theorem Regs.wrP_q (r : Regs) (i : Nat) (x : LaneMask) : (r.wrP i x).q = r.q := by unfold Regs.wrP; split <;> rfl
@[simp] theorem Regs.wrQ_v (r : Regs) (i : Nat) (x : Bool) : (r.wrQ i x).v = r.v := by unfold Regs.wrQ; split <;> rfl
@[simp] theorem Regs.wrQ_s (r : Regs) (i : Nat) (x : Bool) : (r.wrQ i x).s = r.s := by unfold Regs.wrQ; split <;> rfl
@[simp] theorem Regs.wrQ_p (r : Regs) (i : Nat) (x : Bool) : (r.wrQ i x).p = r.p := by unfold Regs.wrQ; split <;> rfl
@[simp] theorem Regs.wrPbit_v (r : Regs) (i l : Nat) (x : Bool) : (r.wrPbit i l x).v = r.v := Regs.wrP_v ..
@[simp] theorem Regs.wrPbit_s (r : Regs) (i l : Nat) (x : Bool) : (r.wrPbit i l x).s = r.s := Regs.wrP_s ..
@[simp] theorem Regs.wrPbit_q (r : Regs) (i l : Nat) (x : Bool) : (r.wrPbit i l x).q = r.q := Regs.wrP_q ..

/-- A read of a file looks at that file only. -/
theorem Regs.rdV_congr {r r' : Regs} (h : r.v = r'.v) (i l : Nat) : r.rdV i l = r'.rdV i l := by
  unfold Regs.rdV; rw [h]
theorem Regs.rdS_congr {r r' : Regs} (h : r.s = r'.s) (i : Nat) : r.rdS i = r'.rdS i := by unfold Regs.rdS; rw [h]
theorem Regs.rdP_congr {r r' : Regs} (h : r.p = r'.p) (i : Nat) : r.rdP i = r'.rdP i := by unfold Regs.rdP; rw [h]
theorem Regs.rdQ_congr {r r' : Regs} (h : r.q = r'.q) (i : Nat) : r.rdQ i = r'.rdQ i := by unfold Regs.rdQ; rw [h]

/-- One lane bit of a predicate after writing one lane bit. -/
theorem Regs.rdP_wrPbit (r : Regs) (i j l m : Nat) (x : Bool) (hm : m < 32) :
    ((r.wrPbit i l x).rdP j).getLsbD m = if j = i ∧ i ≠ 7 ∧ m = l then x else (r.rdP j).getLsbD m := by
  unfold Regs.wrPbit
  simp only [Regs.rdP_wrP]
  by_cases h : j = i ∧ i ≠ 7
  · obtain ⟨rfl, h7⟩ := h
    by_cases hml : m = l
    · subst hml
      cases x <;> simp [h7, hm]
    · cases x <;> simp [h7, hml, hm] <;> omega
  · have h' : ¬ (j = i ∧ i ≠ 7 ∧ m = l) := fun hh => h ⟨hh.1, hh.2.1⟩
    rw [if_neg h, if_neg h']

/-- The landing of a register write changes the register it names only. -/
theorem Regs.apply_append (r : Regs) (a b : List RegW) : r.apply (a ++ b) = (r.apply a).apply b := by
  induction a generalizing r with
  | nil => rfl
  | cons w a ih => cases w <;> exact ih _

end Sys2Proof.Machine
end

