-- ==== Sys2Proof/Laws/Lanes.lean ====
section
/-! SUPPORT. Laws of results written lane by lane: what a fold of writes over the active lanes leaves (spec/02 R29). -/

namespace Sys2Proof.Machine

theorem mem_lanesOf (m : LaneMask) (l : Nat) : l ∈ lanesOf m ↔ l < 32 ∧ m.getLsbD l = true := by
  simp [lanesOf, List.mem_filter, List.mem_range]

/-- A fold over lanes keeps what each write keeps. -/
theorem foldl_keeps {α β σ : Type} (p : σ → α) (wr : σ → β → σ) (ls : List β) (r : σ)
    (h : ∀ r, ∀ l ∈ ls, p (wr r l) = p r) : p (ls.foldl wr r) = p r := by
  induction ls generalizing r with
  | nil => rfl
  | cons a t ih =>
    rw [List.foldl_cons, ih _ (fun r l hl => h r l (List.mem_cons_of_mem _ hl)), h r a (List.mem_cons_self ..)]

/-- A fold of writes, each of which sets its own lane, sets exactly the lanes listed. -/
theorem foldl_lane {α σ : Type} (rd : σ → Nat → α) (wr : σ → Nat → σ) (v : Nat → α) (ls : List Nat) (r : σ)
    (hb : ∀ l ∈ ls, l < 32) (hs : ∀ r l, l < 32 → rd (wr r l) l = v l)
    (ho : ∀ r l m, l < 32 → m < 32 → m ≠ l → rd (wr r l) m = rd r m) (l : Nat) (hl : l < 32) :
    rd (ls.foldl wr r) l = if l ∈ ls then v l else rd r l := by
  induction ls generalizing r with
  | nil => simp
  | cons a t ih =>
    have ha := hb a (List.mem_cons_self ..)
    rw [List.foldl_cons, ih _ (fun l hl => hb l (List.mem_cons_of_mem _ hl))]
    by_cases hla : l = a
    · subst hla; by_cases h : l ∈ t <;> simp [h, hs _ _ hl]
    · by_cases h : l ∈ t <;> simp [h, hla, ho _ _ _ ha hl hla]

/-- The same over the lanes of a mask. -/
theorem foldl_lanesOf {α σ : Type} (rd : σ → Nat → α) (wr : σ → Nat → σ) (v : Nat → α) (act : LaneMask) (r : σ)
    (hs : ∀ r l, l < 32 → rd (wr r l) l = v l) (ho : ∀ r l m, l < 32 → m < 32 → m ≠ l → rd (wr r l) m = rd r m)
    (l : Nat) (hl : l < 32) :
    rd ((lanesOf act).foldl wr r) l = if act.getLsbD l = true then v l else rd r l := by
  rw [foldl_lane rd wr v _ r (fun l h => ((mem_lanesOf act l).1 h).1) hs ho l hl]
  simp only [mem_lanesOf, hl, true_and]

theorem Regs.rdW_wrW (r : Regs) (wide : Bool) (i l m x : Nat) (hl : l < 32) (hm : m < 32) :
    (r.wrW wide i l x).rdW wide i m = if m = l then x % 2 ^ (if wide then 64 else 32) else r.rdW wide i m := by
  cases wide
  · simp only [Regs.rdW, Regs.wrW, Bool.false_eq_true, if_false, Regs.rdV_wrV _ _ _ _ _ _ hl hm, true_and]
    by_cases h : m = l <;> simp [h]
  · simp only [Regs.rdW, Regs.wrW, Regs.rdV64, Regs.wrV64, if_true, Regs.rdV_wrV _ _ _ _ _ _ hl hm, true_and]
    by_cases h : m = l
    · subst h
      simp only [and_true, if_true, show ¬ (i = i + 1) from by omega, if_false]
      have e : ((BitVec.ofNat 64 x >>> 32).setWidth 32 ++ (BitVec.ofNat 64 x).setWidth 32 : BitVec 64) = BitVec.ofNat 64 x := by
        apply BitVec.eq_of_getLsbD_eq
        intro j hj
        rw [BitVec.getLsbD_append]
        by_cases h : j < 32
        · simp only [h, BitVec.getLsbD_setWidth, decide_true, Bool.true_and, cond_true, if_true]
        · simp [h, show j - 32 < 32 from by omega, show 32 + (j - 32) = j from by omega]
      rw [e]
      simp
    · simp [h]

/-- A write to a register of another number, or to another lane, leaves a lane as it was. -/
theorem Regs.rdV_wrW_of_ne (r : Regs) (wide : Bool) (i l n m x : Nat) (hl : l < 32) (hm : m < 32)
    (h : m ≠ l ∨ (n ≠ i ∧ (wide = true → n ≠ i + 1))) : (r.wrW wide i l x).rdV n m = r.rdV n m := by
  cases wide
  · simp only [Regs.wrW, Bool.false_eq_true, if_false, Regs.rdV_wrV _ _ _ _ _ _ hl hm]
    rw [if_neg]; rintro ⟨h1, h2⟩; rcases h with h | h
    · exact h h2
    · exact h.1 h1
  · simp only [Regs.wrW, if_true, Regs.wrV64, Regs.rdV_wrV _ _ _ _ _ _ hl hm]
    rw [if_neg, if_neg]
    · rintro ⟨h1, h2⟩; rcases h with h | h
      · exact h h2
      · exact h.1 h1
    · rintro ⟨h1, h2⟩; rcases h with h | h
      · exact h h2
      · exact h.2 rfl h1

@[simp] theorem Regs.wrW_s (r : Regs) (w : Bool) (i l x : Nat) : (r.wrW w i l x).s = r.s := by cases w <;> rfl
@[simp] theorem Regs.wrW_p (r : Regs) (w : Bool) (i l x : Nat) : (r.wrW w i l x).p = r.p := by cases w <;> rfl
@[simp] theorem Regs.wrW_q (r : Regs) (w : Bool) (i l x : Nat) : (r.wrW w i l x).q = r.q := by cases w <;> rfl

theorem narrow_lt (w : Nat) (sg sat : Bool) (x : Int) : narrow w sg sat x < 2 ^ w := by
  have hp : (0 : Int) < 2 ^ w := by positivity
  unfold narrow
  split
  · have := Int.emod_lt_of_pos (Max.max (if sg = true then -(2 ^ (w - 1) : Int) else 0)
      (Min.min (if sg = true then (2 ^ (w - 1) - 1 : Int) else 2 ^ w - 1) x)) hp
    have h0 := Int.emod_nonneg (Max.max (if sg = true then -(2 ^ (w - 1) : Int) else 0)
      (Min.min (if sg = true then (2 ^ (w - 1) - 1 : Int) else 2 ^ w - 1) x)) (ne_of_gt hp)
    zify; rw [Int.toNat_of_nonneg h0]; exact this
  · zify; rw [Int.toNat_of_nonneg (Int.emod_nonneg _ (ne_of_gt hp))]; exact Int.emod_lt_of_pos _ hp

theorem IOp.eval_lt (op : IOp) (ty : IntTy) (sat : Bool) (a b c n : Nat) : op.eval ty sat a b c n < 2 ^ IntTy.w ty :=
  narrow_lt ..

theorem Regs.rdW_lt (r : Regs) (w : Bool) (i l : Nat) : r.rdW w i l < 2 ^ (if w then 64 else 32) := by
  cases w
  · exact BitVec.isLt _
  · exact BitVec.isLt _
theorem Regs.srcB_lt (r : Regs) (sb w : Bool) (i l : Nat) : r.srcB sb w i l < 2 ^ (if w then 64 else 32) := by
  unfold Regs.srcB; split
  · cases w <;> exact Nat.mod_lt _ (by norm_num)
  · exact Regs.rdW_lt ..
theorem foldl_wrW (act : LaneMask) (wide : Bool) (d : Nat) (v : Nat → Nat) (r0 : Regs) (l : Nat) (hl : l < 32) :
   ((lanesOf act).foldl (fun r l => r.wrW wide d l (v l)) r0).rdW wide d l =
     if act.getLsbD l = true then v l % 2 ^ (if wide then 64 else 32) else r0.rdW wide d l :=
  foldl_lanesOf (fun r l => Regs.rdW r wide d l) (fun r l => r.wrW wide d l (v l)) (fun l => v l % 2 ^ (if wide then 64 else 32)) act r0
    (fun r l hl => by simp only [Regs.rdW_wrW _ _ _ _ _ _ hl hl, if_true])
    (fun r l m hl hm h => by simp only [Regs.rdW_wrW _ _ _ _ _ _ hl hm, h, if_false]) l hl
theorem foldl_wrV (act : LaneMask) (d : Nat) (v : Nat → Word) (r0 : Regs) (l n : Nat) (hl : l < 32) :
   ((lanesOf act).foldl (fun r l => r.wrV d l (v l)) r0).rdV n l =
     if n = d ∧ act.getLsbD l = true then v l else r0.rdV n l := by
  by_cases h : n = d
  · subst h
    simpa using foldl_lanesOf (fun r l => Regs.rdV r n l) (fun r l => r.wrV n l (v l)) v act r0
      (fun r l hl => by simp [Regs.rdV_wrV _ _ _ _ _ _ hl hl])
      (fun r l m hl hm h => by simp only [Regs.rdV_wrV _ _ _ _ _ _ hl hm, h, and_false, if_false]) l hl
  · rw [if_neg (by tauto)]
    refine foldl_keeps (fun r => Regs.rdV r n l) _ _ _ (fun r m hm => ?_)
    rw [mem_lanesOf] at hm
    simp [Regs.rdV_wrV _ _ _ _ _ _ hm.1 hl, h]
theorem foldl_wrPbit (act : LaneMask) (d : Nat) (v : Nat → Bool) (r0 : Regs) (l n : Nat) (hl : l < 32) :
   (((lanesOf act).foldl (fun r l => r.wrPbit d l (v l)) r0).rdP n).getLsbD l =
     if n = d ∧ n ≠ 7 ∧ act.getLsbD l = true then v l else (r0.rdP n).getLsbD l := by
  by_cases h : n = d ∧ n ≠ 7
  · obtain ⟨rfl, h7⟩ := h
    have := foldl_lanesOf (fun r l => (Regs.rdP r n).getLsbD l) (fun r l => r.wrPbit n l (v l)) v act r0
      (fun r l hl => by simp [Regs.rdP_wrPbit _ _ _ _ _ _ hl, h7])
      (fun r l m hl hm h => by simp [Regs.rdP_wrPbit _ _ _ _ _ _ hm, h]) l hl
    simpa [h7] using this
  · rw [if_neg (by tauto)]
    refine foldl_keeps (fun r => (Regs.rdP r n).getLsbD l) _ _ _ (fun r m hm => ?_)
    rw [mem_lanesOf] at hm
    rw [Regs.rdP_wrPbit _ _ _ _ _ _ hl, if_neg (by rintro ⟨h1, h2, -⟩; exact h ⟨h1, h1 ▸ h2⟩)]

end Sys2Proof.Machine
end

