-- ==== Sys2Proof/Laws/Float.lean ====
section
/-! SUPPORT. Laws of the roundings that the lanes of one word make (spec/06 R94, R95): what each lane writes, the seeds and the
flags that they leave. -/

namespace Sys2Proof.Machine

/-- Applying the writes of lanes in turn is a fold over the lanes. -/
theorem Regs.apply_flatMap (r : Regs) (ls : List Nat) (g : Nat → List RegW) :
    r.apply (ls.flatMap g) = ls.foldl (fun r l => r.apply (g l)) r := by
  induction ls generalizing r with
  | nil => rfl
  | cons a t ih => rw [List.flatMap_cons, Regs.apply_append, ih, List.foldl_cons]

theorem Regs.apply_map (r : Regs) (ls : List Nat) (g : Nat → RegW) :
    r.apply (ls.map g) = ls.foldl (fun r l => r.apply [g l]) r := by
  induction ls generalizing r with
  | nil => rfl
  | cons a t ih => rw [List.map_cons, ← List.singleton_append, Regs.apply_append, ih, List.foldl_cons]

theorem drawSeed_fst (mode : RMode) (seed : NMap Word) (l : Nat) : (drawSeed mode seed l).1 = (drawOf mode seed l).1 := by
  unfold drawSeed drawOf; cases mode <;> rfl

theorem drawSeed_get (mode : RMode) (seed : NMap Word) (l j : Nat) :
    nget 0#32 (drawSeed mode seed l).2 j = if j = l then (drawOf mode seed l).2 else nget 0#32 seed j := by
  unfold drawSeed drawOf
  cases mode <;> simp [nget_nset]
  all_goals intro h; rw [h]

theorem drawOf_congr (mode : RMode) (a b : NMap Word) (l : Nat) (h : nget 0#32 a l = nget 0#32 b l) :
    drawOf mode a l = drawOf mode b l := by unfold drawOf; rw [h]

theorem lanes_aux (mode : RMode) (one : Nat → Nat → List RegW × Flags) (ls : List Nat) (hn : ls.Nodup) (a : FAcc) :
    let r := ls.foldl (fun (a : FAcc) l =>
      let d := drawSeed mode a.seed l
      let r := one l d.1
      ⟨a.ws ++ r.1, d.2, a.fl ||| r.2⟩) a
    r.ws = a.ws ++ ls.flatMap (fun l => (one l (drawOf mode a.seed l).1).1) ∧
    r.fl = ls.foldl (fun f l => f ||| (one l (drawOf mode a.seed l).1).2) a.fl ∧
    ∀ j, nget 0#32 r.seed j = if j ∈ ls then (drawOf mode a.seed j).2 else nget 0#32 a.seed j := by
  induction ls generalizing a with
  | nil => simp
  | cons l t ih =>
    obtain ⟨hl, ht⟩ := List.nodup_cons.1 hn
    have hd : ∀ m ∈ t, drawOf mode (drawSeed mode a.seed l).2 m = drawOf mode a.seed m := fun m hm =>
      drawOf_congr _ _ _ _ (by rw [drawSeed_get, if_neg (by rintro rfl; exact hl hm)])
    obtain ⟨h1, h2, h3⟩ := ih ht ⟨a.ws ++ (one l (drawSeed mode a.seed l).1).1, (drawSeed mode a.seed l).2,
      a.fl ||| (one l (drawSeed mode a.seed l).1).2⟩
    simp only [List.foldl_cons]
    refine ⟨?_, ?_, ?_⟩
    · rw [h1, List.flatMap_cons, List.append_assoc, drawSeed_fst]
      congr 2
      exact List.flatMap_congr (fun m hm => by rw [hd m hm])
    · rw [h2, drawSeed_fst]
      have : ∀ (u : List Nat) (f : Flags), (∀ m ∈ u, m ∈ t) →
          u.foldl (fun f m => f ||| (one m (drawOf mode (drawSeed mode a.seed l).2 m).1).2) f =
          u.foldl (fun f m => f ||| (one m (drawOf mode a.seed m).1).2) f := by
        intro u
        induction u with
        | nil => intros; rfl
        | cons b u ihu => intro f hu; simp only [List.foldl_cons]; rw [hd b (hu b (by simp)), ihu _ (fun m hm => hu m (by simp [hm]))]
      exact this t _ (fun m hm => hm)
    · intro j
      rw [h3]
      by_cases hj : j = l
      · subst hj; simp [hl, drawSeed_get]
      · by_cases ht' : j ∈ t
        · simp [ht', hj, hd j ht']
        · simp [ht', hj, drawSeed_get]

theorem nodup_lanesOf (m : LaneMask) : (lanesOf m).Nodup := (List.nodup_range).filter _

/-- One rounding per active lane: the writes, the seeds and the flags. -/
theorem Iss.lanes_spec (x : Iss) (mode : RMode) (one : Nat → Nat → List RegW × Flags) :
    (x.lanes mode one).ws = (lanesOf x.act).flatMap (fun l => (one l (drawOf mode x.g.sr.seed l).1).1) ∧
    (x.lanes mode one).fl = flagsOf x.act (fun l => (one l (drawOf mode x.g.sr.seed l).1).2) ∧
    SeedsAfter mode x.act x.g.sr.seed (x.lanes mode one).seed := by
  obtain ⟨h1, h2, h3⟩ := lanes_aux mode one (lanesOf x.act) (nodup_lanesOf _) ⟨[], x.g.sr.seed, 0#5⟩
  refine ⟨by rw [List.nil_append] at h1; exact h1, h2, fun j => (h3 j).trans ?_⟩
  simp only [mem_lanesOf]

end Sys2Proof.Machine
end

