-- ==== Sys2Proof/Laws/Issue.lean ====
section
/-! SUPPORT. What the shared operations of Machine/Ops.lean can do: the issue of a word, taking a trap, the additions of
every word that takes effect. -/

namespace Sys2Proof.Machine

/-! ### Operations that change one table only -/

theorem State.modCtx_frame (s : State) (k : CtxKey) (f : Context → Context) :
    ∃ c, s.modCtx k f = { s with ctxs := c } := by
  unfold State.modCtx
  split
  · exact ⟨_, rfl⟩
  · exact ⟨s.ctxs, rfl⟩

theorem State.modGroup_frame (s : State) (k : GKey) (f : Group → Group) :
    ∃ g, s.modGroup k f = { s with groups := g } := by
  unfold State.modGroup
  split
  · exact ⟨_, rfl⟩
  · exact ⟨s.groups, rfl⟩

theorem State.modTeam_frame (s : State) (t : Nat) (f : Team → Team) :
    ∃ g, s.modTeam t f = { s with teams := g } := by
  unfold State.modTeam
  split
  · exact ⟨_, rfl⟩
  · exact ⟨s.teams, rfl⟩

/-- A usage counter lies in its context. -/
theorem State.count_frame (s : State) (k : CtxKey) (i n : Nat) : ∃ c, s.count k i n = { s with ctxs := c } := by
  unfold State.count
  split
  · exact ⟨s.ctxs, rfl⟩
  · exact State.modCtx_frame ..

theorem State.logErr_frame (s : State) (k : CtxKey) (r : ErrRec) : ∃ c, s.logErr k r = { s with ctxs := c } :=
  State.modCtx_frame ..

theorem State.offer_frame (s : State) (k : CtxKey) (e : TrigEv) : ∃ c, s.offer k e = { s with ctxs := c } :=
  State.modCtx_frame ..

theorem State.event_frame (s : State) (k : CtxKey) (core team code arg : Nat) :
    ∃ c, s.event k core team code arg = { s with ctxs := c } := State.offer_frame ..

theorem State.noteDebug_frame (s : State) (k : GKey) (sl : Slot) (g : Group) (pc : DWord) :
    ∃ c, s.noteDebug k sl g pc = { s with ctxs := c } := State.offer_frame ..

theorem State.countTrap_frame (s : State) (g : Group) (code : Nat) : ∃ c, s.countTrap g code = { s with ctxs := c } := by
  unfold State.countTrap
  split
  · exact State.count_frame ..
  · exact ⟨s.ctxs, rfl⟩

theorem State.noteIssue_frame (s : State) (k : GKey) (sl : Slot) : ∃ c, s.noteIssue k sl = { s with cores := c } :=
  ⟨_, rfl⟩

/-! ### Marking groups as halting -/

/-- Changing groups one by one does not change which are resident. -/
theorem tget_map {κ β : Type} [DecidableEq κ] (t : Table κ β) (f : κ × β → β) (k : κ) :
    tget (t.map (fun e => (e.1, f e))) k = (tget t k).map (fun v => f (k, v)) := by
  induction t with
  | nil => rfl
  | cons e t ih =>
    obtain ⟨k', v⟩ := e
    by_cases h : k' = k
    · subst h; simp [tget]
    · simp [tget, h, ih]

/-- A group, or the same group marked as halting. -/
def haltOr (g g' : Group) : Prop := g' = g ∨ g' = { g with halting := true }

/-- A stop of a team changes its team's record, and marks groups as halting (spec/18 R329). -/
theorem State.teamStop_frame (s : State) (team : Nat) (c : StopCause) (pc : DWord) (a : Option (Nat × Slot)) :
    ∃ ts gs, s.teamStop team c pc a = { s with teams := ts, groups := gs } ∧
      ∀ k, (tget gs k = none ∧ s.group? k = none) ∨ ∃ g g', s.group? k = some g ∧ tget gs k = some g' ∧ haltOr g g' := by
  have keep : ∀ k, (tget s.groups k = none ∧ s.group? k = none) ∨
      ∃ g g', s.group? k = some g ∧ tget s.groups k = some g' ∧ haltOr g g' := by
    intro k
    cases h : s.group? k with
    | none => exact .inl ⟨h, rfl⟩
    | some g => exact .inr ⟨g, g, rfl, h, .inl rfl⟩
  unfold State.teamStop
  split
  · exact ⟨s.teams, s.groups, rfl, keep⟩
  · split
    · exact ⟨s.teams, s.groups, rfl, keep⟩
    split
    · exact ⟨_, s.groups, rfl, keep⟩
    · refine ⟨_, _, rfl, fun k => ?_⟩
      have hm := tget_map s.groups (fun e => if e.2.team = team then { e.2 with halting := true } else e.2) k
      have heq : s.groups.map (fun (e : GKey × Group) => if e.2.team = team then (e.1, { e.2 with halting := true }) else e) =
          s.groups.map (fun e => (e.1, if e.2.team = team then { e.2 with halting := true } else e.2)) :=
        List.map_congr_left (fun e _ => by split <;> rfl)
      rw [heq, hm]
      cases h : s.group? k with
      | none => exact .inl ⟨by rw [show tget s.groups k = none from h]; rfl, rfl⟩
      | some g =>
        refine .inr ⟨g, _, rfl, by rw [show tget s.groups k = some g from h]; rfl, ?_⟩
        simp only
        split
        · exact .inr rfl
        · exact .inl rfl

theorem State.noteStep_frame (s : State) (k : GKey) (sl : Slot) (g : Group) :
    ∃ ts gs, s.noteStep k sl g = { s with teams := ts, groups := gs } ∧
      ∀ j, (tget gs j = none ∧ s.group? j = none) ∨ ∃ g g', s.group? j = some g ∧ tget gs j = some g' ∧ haltOr g g' := by
  have keep : ∀ k, (tget s.groups k = none ∧ s.group? k = none) ∨
      ∃ g g', s.group? k = some g ∧ tget s.groups k = some g' ∧ haltOr g g' := by
    intro k
    cases h : s.group? k with
    | none => exact .inl ⟨h, rfl⟩
    | some g => exact .inr ⟨g, g, rfl, h, .inl rfl⟩
  unfold State.noteStep
  split
  · exact ⟨s.teams, s.groups, rfl, keep⟩
  · split
    · exact State.teamStop_frame ..
    · exact ⟨s.teams, s.groups, rfl, keep⟩

/-- What every word that takes effect adds to its effect: its core, its context and its team take notice; no other table
changes, and a group is at most marked as halting (spec/03 R62; spec/18 R329, R331, R334). -/
theorem Iss.done_frame (x : Iss) (s : State) :
    ∃ cs xs ts gs, x.done s = { s with cores := cs, ctxs := xs, teams := ts, groups := gs } ∧
      ∀ j, (tget gs j = none ∧ s.group? j = none) ∨ ∃ g g', s.group? j = some g ∧ tget gs j = some g' ∧ haltOr g g' := by
  obtain ⟨cs, h1⟩ := State.noteIssue_frame s x.k x.sl
  obtain ⟨xs, h2⟩ := State.noteDebug_frame (s.noteIssue x.k x.sl) x.k x.sl x.g x.f.pc
  obtain ⟨ts, gs, h3, h4⟩ := State.noteStep_frame ((s.noteIssue x.k x.sl).noteDebug x.k x.sl x.g x.f.pc) x.k x.sl x.g
  refine ⟨cs, xs, ts, gs, ?_, ?_⟩
  · unfold Iss.done; rw [h3, h2, h1]
  · intro j
    have := h4 j
    rw [h2, h1] at this
    exact this

/-! ### Looking up after the shared operations -/

@[simp] theorem State.offer_group (s : State) (k : CtxKey) (e : TrigEv) (j : GKey) : (s.offer k e).group? j = s.group? j := by
  simp [State.offer, State.group?]
@[simp] theorem State.event_group (s : State) (k : CtxKey) (a b c d : Nat) (j : GKey) :
    (s.event k a b c d).group? j = s.group? j := State.offer_group ..
@[simp] theorem State.count_group (s : State) (k : CtxKey) (i n : Nat) (j : GKey) :
    (s.count k i n).group? j = s.group? j := by
  obtain ⟨c, h⟩ := State.count_frame s k i n
  rw [h]; rfl
@[simp] theorem State.count_core (s : State) (k : CtxKey) (i n : Nat) (j : CoreKey) : (s.count k i n).core j = s.core j := by
  obtain ⟨c, h⟩ := State.count_frame s k i n
  rw [h]; rfl
@[simp] theorem State.countTrap_core (s : State) (g : Group) (c : Nat) (k : CoreKey) :
    (s.countTrap g c).core k = s.core k := by
  obtain ⟨x, h⟩ := State.countTrap_frame s g c
  rw [h]; rfl
@[simp] theorem State.countTrap_group (s : State) (g : Group) (c : Nat) (k : GKey) :
    (s.countTrap g c).group? k = s.group? k := by
  obtain ⟨x, h⟩ := State.countTrap_frame s g c
  rw [h]; rfl
@[simp] theorem State.logErr_group (s : State) (k : CtxKey) (r : ErrRec) (j : GKey) :
    (s.logErr k r).group? j = s.group? j := by
  obtain ⟨c, h⟩ := State.logErr_frame s k r
  rw [h]; rfl

/-- What an offered event changes of a context. -/
theorem State.offer_ctx (s : State) (k j : CtxKey) (e : TrigEv) :
    ∃ f : Context → Context, (∀ c, ∃ t, f c = { c with trig := t }) ∧ (s.offer k e).ctx? j = (s.ctx? j).map f := by
  by_cases h : j = k
  · subst h
    refine ⟨_, fun c => ?_, by unfold State.offer; rw [State.modCtx_ctx, if_pos rfl]⟩
    exact ⟨_, rfl⟩
  · refine ⟨id, fun c => ⟨c.trig, rfl⟩, ?_⟩
    unfold State.offer
    rw [State.modCtx_ctx, if_neg h]
    simp

/-- What a count changes of a context. -/
theorem State.count_ctx (s : State) (k j : CtxKey) (i n : Nat) :
    ∃ f : Context → Context, (∀ c, ∃ u v, f c = { c with usage := u, sat := v }) ∧
      (s.count k i n).ctx? j = (s.ctx? j).map f := by
  unfold State.count
  by_cases hn : n = 0
  · exact ⟨id, fun c => ⟨c.usage, c.sat, rfl⟩, by simp [hn]⟩
  · rw [if_neg hn]
    by_cases h : j = k
    · subst h
      refine ⟨_, fun c => ?_, by rw [State.modCtx_ctx, if_pos rfl]⟩
      dsimp only
      split
      · exact ⟨_, _, rfl⟩
      · exact ⟨_, c.sat, rfl⟩
    · refine ⟨id, fun c => ⟨c.usage, c.sat, rfl⟩, ?_⟩
      rw [State.modCtx_ctx, if_neg h]
      simp

@[simp] theorem State.count_handlerEntry (s : State) (k j : CtxKey) (i n : Nat) :
    (s.count k i n).handlerEntry j = s.handlerEntry j := by
  obtain ⟨f, hf, h⟩ := State.count_ctx s k j i n
  unfold State.handlerEntry
  rw [h]
  cases s.ctx? j with
  | none => rfl
  | some c => obtain ⟨u, v, e⟩ := hf c; simp [e]
@[simp] theorem State.countTrap_handlerEntry (s : State) (g : Group) (c : Nat) (j : CtxKey) :
    (s.countTrap g c).handlerEntry j = s.handlerEntry j := by
  unfold State.countTrap
  split
  · exact State.count_handlerEntry ..
  · rfl

/-- The fields of HSTAT (spec/14 R263). -/
theorem hstatOf_fields (code : Nat) (lanes : LaneMask) (late : Bool) (d : Nat) (h : code < 256) :
    (hstatOf code lanes late d).toNat % 256 = code ∧ (hstatOf code lanes late d).getLsbD 8 = late ∧
      (hstatOf code lanes late d).toNat / 2 ^ 10 % 2 ^ 32 = lanes.toNat := by
  have := lanes.isLt
  unfold hstatOf
  refine ⟨?_, ?_, ?_⟩
  · rw [BitVec.toNat_ofNat]; cases late <;> simp <;> omega
  · rw [BitVec.getLsbD_ofNat]; simp [Nat.testBit, Nat.shiftRight_eq_div_pow]; cases late <;> simp <;> omega
  · rw [BitVec.toNat_ofNat]; cases late <;> simp <;> omega

/-! ### Issue -/

/-- A word that may issue and takes effect. -/
theorem issue_ok {i : Instr} {s t : State} {x : Iss} {body : Iss → Res} (h : prelude i s = .go x)
    (hb : body x = .ok t) : issue i s body = .next (x.done t) := by
  unfold issue; rw [h]; simp only [hb]

/-- A word that may issue but waits. -/
theorem issue_wait {i : Instr} {s : State} {x : Iss} {body : Iss → Res} (h : prelude i s = .go x)
    (hb : body x = .wait) : issue i s body = .next s := by
  unfold issue; rw [h]; simp only [hb]

/-- A word that waits with what it has found. -/
theorem issue_found {i : Instr} {s s' : State} {x : Iss} {body : Iss → Res} (h : prelude i s = .go x)
    (hb : body x = .hold s') : issue i s body = .next s' := by
  unfold issue; rw [h]; simp only [hb]

/-- A word that may issue and traps. -/
theorem issue_trap {i : Instr} {s : State} {x : Iss} {t : TrapInfo} {body : Iss → Res} (h : prelude i s = .go x)
    (hb : body x = .trap t) : issue i s body = .next (s.wordTrap x.k x.sl x.g x.f t) := by
  unfold issue; rw [h]; simp only [hb]

/-- A word with a decode trap (spec/02 R38). -/
theorem issue_decode_trap {i : Instr} {s : State} {k : GKey} {sl : Slot} {g : Group} {f : Frag} {t : TrapInfo}
    (body : Iss → Res) (h : prelude i s = .trap k sl g f t) : issue i s body = .next (s.wordTrap k sl g f t) := by
  unfold issue; rw [h]

/-- A word that does not issue now. -/
theorem issue_hold {i : Instr} {s : State} (body : Iss → Res) (h : prelude i s = .hold) :
    issue i s body = .next s := by unfold issue; rw [h]

/-- Every way in which a word answers a next state. -/
theorem issue_next {i : Instr} {s t : State} {body : Iss → Res} (h : issue i s body = .next t) :
    (∃ k sl g f, prelude i s = .late k sl g f ∧ t = s.takeLate k sl g f) ∨
    (t = s ∧ (prelude i s = .hold ∨ ∃ x, prelude i s = .go x ∧ body x = .wait)) ∨
    (∃ k sl g f c, prelude i s = .trap k sl g f c ∧ t = s.wordTrap k sl g f c) ∨
    (∃ x c, prelude i s = .go x ∧ body x = .trap c ∧ t = s.wordTrap x.k x.sl x.g x.f c) ∨
    (∃ x s', prelude i s = .go x ∧ body x = .ok s' ∧ t = x.done s') ∨
    (∃ x, prelude i s = .go x ∧ body x = .hold t) ∨
    (∃ x, prelude i s = .first x ∧ (t = s ∨ body x = .hold t ∨ t = x.late)) ∨
    (∃ x, prelude i s = .lost x ∧ t = x.done (x.step x.g)) := by
  unfold issue at h
  cases hp : prelude i s with
  | empty => rw [hp] at h; cases h
  | late k sl g f => rw [hp] at h; cases h; exact .inl ⟨k, sl, g, f, rfl, rfl⟩
  | hold => rw [hp] at h; cases h; exact .inr (.inl ⟨rfl, .inl rfl⟩)
  | trap k sl g f c => rw [hp] at h; cases h; exact .inr (.inr (.inl ⟨k, sl, g, f, c, rfl, rfl⟩))
  | go x =>
    rw [hp] at h
    simp only at h
    cases hb : body x with
    | wait => rw [hb] at h; cases h; exact .inr (.inl ⟨rfl, .inr ⟨x, rfl, hb⟩⟩)
    | trap c => rw [hb] at h; cases h; exact .inr (.inr (.inr (.inl ⟨x, c, rfl, hb, rfl⟩)))
    | ok s' => rw [hb] at h; cases h; exact .inr (.inr (.inr (.inr (.inl ⟨x, s', rfl, hb, rfl⟩))))
    | hold s' => rw [hb] at h; cases h; exact .inr (.inr (.inr (.inr (.inr (.inl ⟨x, rfl, hb⟩)))))
  | first x =>
    rw [hp] at h
    refine .inr (.inr (.inr (.inr (.inr (.inr (.inl ⟨x, rfl, ?_⟩))))))
    simp only at h
    cases hb : body x <;> rw [hb] at h <;> cases h <;> simp
  | lost x => rw [hp] at h; cases h; exact .inr (.inr (.inr (.inr (.inr (.inr (.inr ⟨x, rfl, rfl⟩))))))

/-- What a word that may issue acts on (spec/02 R38, spec/03 R61). -/
theorem prelude_go {i : Instr} {s : State} {x : Iss} (h : prelude i s = .go x) :
    ∃ g f, s.group? s.cur.k = some g ∧ g.frag s.cur.slot = some f ∧
      s.heldFrag s.cur.k s.cur.slot g f = false ∧ Instr.decodeTrap i s g f = none ∧ g.lateFirst = false ∧ g.badWhole i = false ∧
      x.s = s ∧ x.k = s.cur.k ∧ x.sl = s.cur.slot ∧ x.f = f.countIssue ∧
      x.g = (g.met i f).setFrag s.cur.slot (some f.countIssue) ∧ x.act = Instr.active i g f ∧
      x.next = f.pc + BitVec.ofNat 64 (8 * Instr.words i) := by
  unfold prelude at h
  simp only at h
  split at h
  · cases h
  · rename_i g hg
    split at h
    · cases h
    · rename_i f hf
      split at h
      · cases h
      · split at h
        · cases h
        · rename_i hheld
          split at h
          · split at h <;> cases h
          · rename_i htrap
            split at h
            · cases h
            · rename_i hfirst
              split at h
              · cases h
              · rename_i hbad
                cases h
                simp only [Bool.or_eq_true, not_or, Bool.not_eq_true] at hheld
                exact ⟨g, f, hg, hf, hheld.1.1, htrap, by simpa using hfirst, by simpa using hbad, rfl, rfl, rfl, rfl, rfl, rfl, rfl⟩

/-- Registers that no result is awaited in hold nothing back. -/
theorem Group.regHeld_of_interlocked {g : Group} {rs : List Reg} {cycle : Nat} (h : g.interlocked rs cycle = false) (f : Frag) :
    g.regHeld f rs cycle = false := by
  simp only [Group.interlocked, Group.regHeld, Bool.or_eq_false_iff, List.any_eq_false, Bool.and_eq_true, not_and] at *
  exact ⟨h.1, fun fl hfl hd => absurd hd (by simpa using h.2 fl hfl)⟩

/-- A word issues when its fragment may issue, nothing traps it and its registers are free and sound (spec/03 R61, spec/02 R31,
R38; spec/19 R347). -/
theorem prelude_go_of {i : Instr} {s : State} {g : Group} {f : Frag} (hg : s.group? s.cur.k = some g)
    (hf : g.frag s.cur.slot = some f)
    (hl : s.takesLate s.cur.k s.cur.slot g f (some (Instr.waitRegs i)) = false)
    (hh : s.heldFrag s.cur.k s.cur.slot g f = false) (ht : Instr.decodeTrap i s g f = none)
    (hi : (g.interlocked (Instr.waitRegs i) (s.core s.cur.k.core).cycle || Instr.waitFloat i g) = false)
    (hn : g.lateFirst = false) (hb : g.badWhole i = false) :
    prelude i s = .go ⟨s, s.cur.k, s.cur.slot, (g.met i f).setFrag s.cur.slot (some f.countIssue), f.countIssue,
      Instr.active i g f, f.pc + BitVec.ofNat 64 (8 * Instr.words i)⟩ := by
  rw [Bool.or_eq_false_iff] at hi
  simp [prelude, hg, hf, hl, hh, ht, hn, hb, hi.2, Group.regHeld_of_interlocked hi.1 f]

/-! ### Fragments of a group -/

@[simp] theorem Group.frag_setFrag_self (g : Group) (sl : Slot) (f : Option Frag) : (g.setFrag sl f).frag sl = f := by
  cases sl <;> rfl
theorem Group.frag_setFrag_other (g : Group) (sl : Slot) (f : Option Frag) :
    (g.setFrag sl f).frag (Slot.other sl) = g.frag (Slot.other sl) := by cases sl <;> rfl
@[simp] theorem Group.setFrag_regs (g : Group) (sl : Slot) (f : Option Frag) : (g.setFrag sl f).regs = g.regs := by
  cases sl <;> rfl
@[simp] theorem Group.setFrag_sr (g : Group) (sl : Slot) (f : Option Frag) : (g.setFrag sl f).sr = g.sr := by
  cases sl <;> rfl
@[simp] theorem Group.setFrag_stack (g : Group) (sl : Slot) (f : Option Frag) : (g.setFrag sl f).stack = g.stack := by
  cases sl <;> rfl
@[simp] theorem Group.setFrag_flights (g : Group) (sl : Slot) (f : Option Frag) : (g.setFrag sl f).flights = g.flights := by
  cases sl <;> rfl
@[simp] theorem Group.setFrag_sb (g : Group) (sl : Slot) (f : Option Frag) : (g.setFrag sl f).sb = g.sb := by
  cases sl <;> rfl
@[simp] theorem Group.setFrag_handler (g : Group) (sl : Slot) (f : Option Frag) : (g.setFrag sl f).handler = g.handler := by
  cases sl <;> rfl
@[simp] theorem Group.setFrag_late (g : Group) (sl : Slot) (f : Option Frag) : (g.setFrag sl f).late = g.late := by
  cases sl <;> rfl
@[simp] theorem Group.setFrag_team (g : Group) (sl : Slot) (f : Option Frag) : (g.setFrag sl f).team = g.team := by
  cases sl <;> rfl
@[simp] theorem Group.setFrag_key (g : Group) (sl : Slot) (f : Option Frag) : (g.setFrag sl f).key = g.key := by
  cases sl <;> rfl

/-! ### Taking a trap -/

/-- A trap outside handler mode, nothing outstanding: the handler is entered (spec/14 R265). -/
theorem State.takeTrap_enter {s : State} {k : GKey} {sl : Slot} {g : Group} {f : Frag} {t : TrapInfo}
    (hs : s.settled g f.mask = true) (he : (s.core k.core).eyeletIn k.g f.mask = false) (hh : g.handler = none)
    (hl : t.log = none) :
    s.takeTrap k sl g f t = ((((s.noteWalk k.core t.walks).countTrap g t.code).setGroup k (g.enter sl f
      (((s.noteWalk k.core t.walks).countTrap g t.code).handlerEntry g.key)
      (((s.noteWalk k.core t.walks).countTrap g t.code).core k.core).cycle (hstatOf t.code (t.lanes.getD f.mask) false t.detail)
      (t.hpc.getD f.pc) t.addr 0)).event g.key k.c g.team 4 t.code) := by
  simp [State.takeTrap, hs, he, hh, hl]

/-- A trap in handler mode escalates (spec/14 R268). -/
theorem State.takeTrap_escalate {s : State} {k : GKey} {sl : Slot} {g : Group} {f : Frag} {t : TrapInfo}
    (hs : s.settled g f.mask = true) (he : (s.core k.core).eyeletIn k.g f.mask = false) (hh : g.handler.isSome = true)
    (hl : t.log = none) : s.takeTrap k sl g f t = (s.noteWalk k.core t.walks).escalate k g f t.code := by
  simp [State.takeTrap, hs, he, hh, hl]

/-- A trap waits for what is outstanding (spec/02 R32, spec/14 R265). -/
theorem State.takeTrap_wait {s : State} {k : GKey} {sl : Slot} {g : Group} {f : Frag} {t : TrapInfo}
    (h : (!s.settled g f.mask || (s.core k.core).eyeletIn k.g f.mask) = true) : s.takeTrap k sl g f t = s := by
  simp [State.takeTrap, h]

/-! ### What the shared operations leave alone -/

/-- A view of the state that does not look at cores, dies, contexts, teams and groups. -/
def Blind {α : Type} (p : State → α) : Prop :=
  ∀ (s : State) cs ds xs ts gs, p { s with cores := cs, dies := ds, ctxs := xs, teams := ts, groups := gs } = p s

section Blind
variable {α : Type} {p : State → α}

theorem Blind.setGroup (hp : Blind p) (s : State) (k : GKey) (g : Group) : p (s.setGroup k g) = p s :=
  hp s s.cores s.dies s.ctxs s.teams _
theorem Blind.setCtx (hp : Blind p) (s : State) (k : CtxKey) (c : Context) : p (s.setCtx k c) = p s :=
  hp s s.cores s.dies _ s.teams s.groups
theorem Blind.setTeam (hp : Blind p) (s : State) (k : Nat) (c : Team) : p (s.setTeam k c) = p s :=
  hp s s.cores s.dies s.ctxs _ s.groups
theorem Blind.setCore (hp : Blind p) (s : State) (k : CoreKey) (c : Core) : p (s.setCore k c) = p s :=
  hp s _ s.dies s.ctxs s.teams s.groups
theorem Blind.groups (hp : Blind p) (s : State) (gs : Table GKey Group) : p { s with groups := gs } = p s :=
  hp s s.cores s.dies s.ctxs s.teams gs
theorem Blind.setDie (hp : Blind p) (s : State) (k : DieKey) (d : Die) : p (s.setDie k d) = p s :=
  hp s s.cores _ s.ctxs s.teams s.groups
theorem Blind.modCore (hp : Blind p) (s : State) (k : CoreKey) (f : Core → Core) : p (s.modCore k f) = p s :=
  hp.setCore ..
theorem Blind.modGroup (hp : Blind p) (s : State) (k : GKey) (f : Group → Group) : p (s.modGroup k f) = p s := by
  unfold State.modGroup
  split
  · exact hp.setGroup ..
  · rfl
theorem Blind.modCtx (hp : Blind p) (s : State) (k : CtxKey) (f : Context → Context) : p (s.modCtx k f) = p s := by
  unfold State.modCtx
  split
  · exact hp.setCtx ..
  · rfl
theorem Blind.modTeam (hp : Blind p) (s : State) (k : Nat) (f : Team → Team) : p (s.modTeam k f) = p s := by
  unfold State.modTeam
  split
  · exact hp.setTeam ..
  · rfl
theorem Blind.count (hp : Blind p) (s : State) (k : CtxKey) (i n : Nat) : p (s.count k i n) = p s := by
  unfold State.count
  split
  · rfl
  · exact hp.modCtx ..
theorem Blind.logErr (hp : Blind p) (s : State) (k : CtxKey) (r : ErrRec) : p (s.logErr k r) = p s := hp.modCtx ..
theorem Blind.offer (hp : Blind p) (s : State) (k : CtxKey) (e : TrigEv) : p (s.offer k e) = p s := hp.modCtx ..
theorem Blind.event (hp : Blind p) (s : State) (k : CtxKey) (core team code arg : Nat) :
    p (s.event k core team code arg) = p s := hp.offer ..
theorem Blind.noteIssue (hp : Blind p) (s : State) (k : GKey) (sl : Slot) : p (s.noteIssue k sl) = p s := hp.modCore ..
theorem Blind.noteDebug (hp : Blind p) (s : State) (k : GKey) (sl : Slot) (g : Group) (pc : DWord) :
    p (s.noteDebug k sl g pc) = p s := hp.offer ..
theorem Blind.countTrap (hp : Blind p) (s : State) (g : Group) (code : Nat) : p (s.countTrap g code) = p s := by
  unfold State.countTrap
  split
  · exact hp.count ..
  · rfl
theorem Blind.teamStop (hp : Blind p) (s : State) (team : Nat) (c : StopCause) (pc : DWord) (a : Option (Nat × Slot)) :
    p (s.teamStop team c pc a) = p s := by
  unfold State.teamStop
  split
  · rfl
  · split
    · rfl
    split
    · exact hp s s.cores s.dies s.ctxs _ s.groups
    · exact hp s s.cores s.dies s.ctxs _ _
theorem Blind.noteStep (hp : Blind p) (s : State) (k : GKey) (sl : Slot) (g : Group) : p (s.noteStep k sl g) = p s := by
  unfold State.noteStep
  split
  · rfl
  · split
    · exact hp.teamStop ..
    · rfl
theorem Blind.noteWalk (hp : Blind p) (s : State) (k : CoreKey) (es : List TEnt) : p (s.noteWalk k es) = p s := by
  unfold State.noteWalk State.noteDieWalk State.modDie
  simp only
  split <;> split <;> simp only [hp.setDie, hp.modCore]
theorem Blind.escalate (hp : Blind p) (s : State) (k : GKey) (g : Group) (f : Frag) (code : Nat) :
    p (s.escalate k g f code) = p s := by
  unfold State.escalate
  simp only [hp.event, hp.groups, hp.modCtx]
theorem Blind.takeTrap (hp : Blind p) (s : State) (k : GKey) (sl : Slot) (g : Group) (f : Frag) (t : TrapInfo) :
    p (s.takeTrap k sl g f t) = p s := by
  unfold State.takeTrap
  split
  · rfl
  · cases t.log <;> simp only <;> split <;> simp only [hp.escalate, hp.event, hp.setGroup, hp.countTrap, hp.logErr, hp.noteWalk]
theorem Blind.takeLate (hp : Blind p) (s : State) (k : GKey) (sl : Slot) (g : Group) (f : Frag) :
    p (s.takeLate k sl g f) = p s := by
  unfold State.takeLate
  split
  · rfl
  · split
    · rfl
    · split
      · exact hp.modGroup ..
      · simp only [hp.event, hp.setGroup, hp.countTrap]
theorem Blind.late (hp : Blind p) (x : Iss) : p x.late = p x.s := by
  unfold Iss.late
  split
  · exact hp.takeLate ..
  · rfl
theorem Blind.wordTrap (hp : Blind p) (s : State) (k : GKey) (sl : Slot) (g : Group) (f : Frag) (t : TrapInfo) :
    p (s.wordTrap k sl g f t) = p s := by
  unfold State.wordTrap
  simp only
  split
  · rw [hp.noteStep, hp.takeTrap]
  · exact hp.takeTrap ..
theorem Blind.done (hp : Blind p) (x : Iss) (s : State) : p (x.done s) = p s := by
  unfold Iss.done
  rw [hp.noteStep, hp.noteDebug, hp.noteIssue]

theorem prelude_first_s {i : Instr} {s : State} {x : Iss} (h : prelude i s = .first x ∨ prelude i s = .lost x) : x.s = s := by
  unfold prelude at h
  simp only at h
  rcases h with h | h <;>
  · repeat' split at h
    all_goals first | (cases h; done) | (cases h; rfl)

/-- A word that answers a next state changes what its body changes and, beside it, cores, dies, contexts, groups and
teams only. -/
theorem Blind.issue (hp : Blind p) {i : Instr} {s t : State} {body : Iss → Res}
    (hb : ∀ x s', prelude i s = .go x ∨ prelude i s = .first x → body x = .ok s' ∨ body x = .hold s' → p s' = p s) (h : issue i s body = .next t) : p t = p s := by
  rcases issue_next h with ⟨k, sl, g, f, -, rfl⟩ | ⟨rfl, -⟩ | ⟨k, sl, g, f, c, -, rfl⟩ | ⟨x, c, -, -, rfl⟩ | ⟨x, s', hx, hb', rfl⟩ |
    ⟨x, hx, hb'⟩ | ⟨x, hx, rfl | hb' | rfl⟩ | ⟨x, hx, rfl⟩
  · exact hp.takeLate ..
  · rfl
  · exact hp.wordTrap ..
  · exact hp.wordTrap ..
  · rw [hp.done, hb x s' (.inl hx) (.inl hb')]
  · exact hb x _ (.inl hx) (.inr hb')
  · rfl
  · exact hb x _ (.inr hx) (.inr hb')
  · rw [hp.late, prelude_first_s (.inl hx)]
  · rw [hp.done, Iss.step, hp.setGroup, prelude_first_s (.inr hx)]

end Blind

end Sys2Proof.Machine
end

