-- ==== Sys2Proof/Laws/Layout.lean ====
section
/-! SUPPORT. Reading back what was written: each operand layout of a word (spec/02 R20 to R22 and the encoding tables of the
class chapters), field by field. -/

namespace Sys2Proof

@[simp] theorem fin?_val {n : Nat} (i : Fin n) : fin? n i.val = some i := by simp [fin?]
theorem fin?_of_lt {n v : Nat} (h : v < n) : fin? n v = some ⟨v, h⟩ := by simp [fin?, h]
theorem b2n_le (b : Bool) : b2n b ≤ 1 := by cases b <;> simp [b2n]
theorem b2n_beq (b : Bool) : (b2n b == 1) = b := by cases b <;> rfl
theorem IntTy.code_lt (x : IntTy) : x.code < 4 := by cases x <;> decide
@[simp] theorem IntTy.ofCode_code (x : IntTy) : IntTy.ofCode x.code = some x := by cases x <;> rfl
theorem ICond.code_lt (x : ICond) : x.code < 10 := by cases x <;> decide
@[simp] theorem ICond.ofCode_code (x : ICond) : ICond.ofCode x.code = some x := by cases x <;> rfl
theorem Seg.code_lt (x : Seg) : x.code < 5 := by cases x <;> decide
@[simp] theorem Seg.ofCode_code (x : Seg) : Seg.ofCode x.code = some x := by cases x <;> rfl
theorem RedOp.code_lt (x : RedOp) : x.code < 8 := by cases x <;> decide
@[simp] theorem RedOp.ofCode_code (x : RedOp) : RedOp.ofCode x.code = some x := by cases x <;> rfl
theorem FT.code_lt (x : FT) : x.code < 3 := by cases x <;> decide
@[simp] theorem FT.ofCode_code (x : FT) : FT.ofCode x.code = some x := by cases x <;> rfl
theorem Rnd.code_lt (x : Rnd) : x.code < 6 := by cases x <;> decide
@[simp] theorem Rnd.ofCode_code (x : Rnd) : Rnd.ofCode x.code = some x := by cases x <;> rfl
theorem FCond.code_lt (x : FCond) : x.code < 8 := by cases x <;> decide
@[simp] theorem FCond.ofCode_code (x : FCond) : FCond.ofCode x.code = some x := by cases x <;> rfl
theorem MSize.code_lt (x : MSize) : x.code < 7 := by cases x <;> decide
@[simp] theorem MSize.ofCode_code (x : MSize) : MSize.ofCode x.code = some x := by cases x <;> rfl
theorem ASize.code_lt (x : ASize) : x.code < 8 := by cases x <;> decide
@[simp] theorem ASize.ofCode_code (x : ASize) : ASize.ofCode x.code = some x := by cases x <;> rfl
theorem Order.code_lt (x : Order) : x.code < 4 := by cases x <;> decide
@[simp] theorem Order.ofCode_code (x : Order) : Order.ofCode x.code = some x := by cases x <;> rfl
theorem Scope.code_lt (x : Scope) : x.code < 6 := by cases x <;> decide
@[simp] theorem Scope.ofCode_code (x : Scope) : Scope.ofCode x.code = some x := by cases x <;> rfl
theorem Ix.code_lt (x : Ix) : x.code < 4 := by cases x <;> decide
@[simp] theorem Ix.ofCode_code (x : Ix) : Ix.ofCode x.code = some x := by cases x <;> rfl
theorem Path.code_lt (x : Path) : x.code < 5 := by cases x <;> decide
@[simp] theorem Path.ofCode_code (x : Path) : Path.ofCode x.code = some x := by cases x <;> rfl
theorem CpyLvl.code_lt (x : CpyLvl) : x.code < 4 := by cases x <;> decide
@[simp] theorem CpyLvl.ofCode_code (x : CpyLvl) : CpyLvl.ofCode x.code = some x := by cases x <;> rfl
theorem Fmt.code_lt (x : Fmt) : x.code < 64 := by
  cases x with
  | b8 u x p => have := p.isLt; cases u <;> cases x <;> simp [Fmt.code, b2n] <;> omega
  | f32 | f16 | bf16 | e4m3 | e5m2 | e8m0 => decide
@[simp] theorem Fmt.ofCode_code (x : Fmt) : Fmt.ofCode x.code = some x := by
  cases x with
  | b8 u x p => revert u x p; decide
  | f32 | f16 | bf16 | e4m3 | e5m2 | e8m0 => rfl
@[simp] theorem ofNat_toNat {n : Nat} (x : BitVec n) : BitVec.ofNat n x.toNat = x := by simp

/-! ### Memory operands -/

theorem MAddr.aField_ix (m : MAddr) : bits m.aField 6 2 = m.ix.code := by
  have := m.ix.code_lt; have := m.base.isLt
  unfold bits MAddr.aField; omega
theorem MAddr.aField_base (m : MAddr) : m.aField % 64 = m.base.val := by
  have := m.base.isLt
  unfold MAddr.aField; omega
theorem mX_off (off : BitVec 12) (sc : Scope) (o size : Nat) (ho : o < 4) (hs : size < 8) :
    bits (mX off sc o size) 8 12 = off.toNat := by
  have := off.isLt; have := sc.code_lt
  unfold bits mX; omega
theorem mX_scope (off : BitVec 12) (sc : Scope) (o size : Nat) (ho : o < 4) (hs : size < 8) :
    bits (mX off sc o size) 5 3 = sc.code := by
  have := off.isLt; have := sc.code_lt
  unfold bits mX; omega
theorem mX_order (off : BitVec 12) (sc : Scope) (o size : Nat) (ho : o < 4) (hs : size < 8) :
    bits (mX off sc o size) 3 2 = o := by
  have := off.isLt; have := sc.code_lt
  unfold bits mX; omega
theorem mX_size (off : BitVec 12) (sc : Scope) (o size : Nat) (hs : size < 8) : mX off sc o size % 8 = size := by
  unfold mX; omega
theorem mX_bit (off : BitVec 12) (sc : Scope) (o size : Nat) : mX off sc o size % 2 = size % 2 := by
  unfold mX; omega

theorem target_join (t : BitVec 24) :
    BitVec.ofNat 24 (t.toNat / 65536 * 65536 + t.toNat / 256 % 256 * 256 + t.toNat % 256) = t := by
  rw [show t.toNat / 65536 * 65536 + t.toNat / 256 % 256 * 256 + t.toNat % 256 = t.toNat by omega]; simp
theorem imm_join (i : BitVec 28) : BitVec.ofNat 28 (i.toNat / 1048576 * 1048576 + i.toNat % 1048576) = i := by
  rw [Nat.div_add_mod']; simp

/-! ### Layouts -/

theorem SInt.read_write (f : SInt) (op : Nat) : SInt.read (f.write op) = some f := by
  have e0 : bits (f.c.val * 4096 + f.ty.code * 1024 + b2n f.sat * 512 + f.n.val) 10 2 = f.ty.code := by
    have := (f.c).isLt; have := (f.n).isLt; have := f.ty.code_lt; have := b2n_le f.sat
    unfold bits; omega
  have e1 : bitAt (f.c.val * 4096 + f.ty.code * 1024 + b2n f.sat * 512 + f.n.val) 9 = f.sat := by
    have := (f.c).isLt; have := (f.n).isLt; have := f.ty.code_lt; have := b2n_le f.sat
    have h : (f.c.val * 4096 + f.ty.code * 1024 + b2n f.sat * 512 + f.n.val) / 2 ^ 9 % 2 = b2n f.sat := by omega
    simp only [bitAt, h, b2n_beq]
  have e2 : (f.c.val * 4096 + f.ty.code * 1024 + b2n f.sat * 512 + f.n.val) % 64 = f.n.val := by
    have := (f.c).isLt; have := (f.n).isLt; have := f.ty.code_lt; have := b2n_le f.sat
    omega
  have e3 : bits (f.c.val * 4096 + f.ty.code * 1024 + b2n f.sat * 512 + f.n.val) 12 8 = f.c.val := by
    have := (f.c).isLt; have := (f.n).isLt; have := f.ty.code_lt; have := b2n_le f.sat
    unfold bits; omega
  simp [SInt.read, SInt.write, Raw.plain, e0, e1, e2, e3]

theorem VInt.read_write (f : VInt) (op : Nat) : VInt.read (f.write op) = some f := by
  have e0 : bits (f.c.val * 4096 + f.ty.code * 1024 + b2n f.sat * 512 + b2n f.sb * 256 + f.n.val) 10 2 = f.ty.code := by
    have := (f.c).isLt; have := (f.n).isLt; have := f.ty.code_lt; have := b2n_le f.sat; have := b2n_le f.sb
    unfold bits; omega
  have e1 : bitAt (f.c.val * 4096 + f.ty.code * 1024 + b2n f.sat * 512 + b2n f.sb * 256 + f.n.val) 9 = f.sat := by
    have := (f.c).isLt; have := (f.n).isLt; have := f.ty.code_lt; have := b2n_le f.sat; have := b2n_le f.sb
    have h : (f.c.val * 4096 + f.ty.code * 1024 + b2n f.sat * 512 + b2n f.sb * 256 + f.n.val) / 2 ^ 9 % 2 = b2n f.sat := by omega
    simp only [bitAt, h, b2n_beq]
  have e2 : bitAt (f.c.val * 4096 + f.ty.code * 1024 + b2n f.sat * 512 + b2n f.sb * 256 + f.n.val) 8 = f.sb := by
    have := (f.c).isLt; have := (f.n).isLt; have := f.ty.code_lt; have := b2n_le f.sat; have := b2n_le f.sb
    have h : (f.c.val * 4096 + f.ty.code * 1024 + b2n f.sat * 512 + b2n f.sb * 256 + f.n.val) / 2 ^ 8 % 2 = b2n f.sb := by omega
    simp only [bitAt, h, b2n_beq]
  have e3 : (f.c.val * 4096 + f.ty.code * 1024 + b2n f.sat * 512 + b2n f.sb * 256 + f.n.val) % 64 = f.n.val := by
    have := (f.c).isLt; have := (f.n).isLt; have := f.ty.code_lt; have := b2n_le f.sat; have := b2n_le f.sb
    omega
  have e4 : bits (f.c.val * 4096 + f.ty.code * 1024 + b2n f.sat * 512 + b2n f.sb * 256 + f.n.val) 12 8 = f.c.val := by
    have := (f.c).isLt; have := (f.n).isLt; have := f.ty.code_lt; have := b2n_le f.sat; have := b2n_le f.sb
    unfold bits; omega
  simp [VInt.read, VInt.write, Raw.guarded, Raw.guard, b2n_beq, e0, e1, e2, e3, e4]

theorem SCmpF.read_write (f : SCmpF) : SCmpF.read (f.write) = some f := by
  have e0 : bits (f.cond.code * 16 + b2n f.w64 * 8 + f.q.val) 4 4 = f.cond.code := by
    have := (f.q).isLt; have := f.cond.code_lt; have := b2n_le f.w64
    unfold bits; omega
  have e1 : bitAt (f.cond.code * 16 + b2n f.w64 * 8 + f.q.val) 3 = f.w64 := by
    have := (f.q).isLt; have := f.cond.code_lt; have := b2n_le f.w64
    have h : (f.cond.code * 16 + b2n f.w64 * 8 + f.q.val) / 2 ^ 3 % 2 = b2n f.w64 := by omega
    simp only [bitAt, h, b2n_beq]
  have e2 : (f.cond.code * 16 + b2n f.w64 * 8 + f.q.val) % 4 = f.q.val := by
    have := (f.q).isLt; have := f.cond.code_lt; have := b2n_le f.w64
    omega
  simp [SCmpF.read, SCmpF.write, Raw.plain, e0, e1, e2]

theorem VCmpF.read_write (f : VCmpF) : VCmpF.read (f.write) = some f := by
  have e0 : bits (f.cond.code * 16 + b2n f.w64 * 8 + f.p.val) 4 4 = f.cond.code := by
    have := (f.p).isLt; have := f.cond.code_lt; have := b2n_le f.w64
    unfold bits; omega
  have e1 : bitAt (f.cond.code * 16 + b2n f.w64 * 8 + f.p.val) 3 = f.w64 := by
    have := (f.p).isLt; have := f.cond.code_lt; have := b2n_le f.w64
    have h : (f.cond.code * 16 + b2n f.w64 * 8 + f.p.val) / 2 ^ 3 % 2 = b2n f.w64 := by omega
    simp only [bitAt, h, b2n_beq]
  have e2 : (f.cond.code * 16 + b2n f.w64 * 8 + f.p.val) % 8 = f.p.val := by
    have := (f.p).isLt; have := f.cond.code_lt; have := b2n_le f.w64
    omega
  have e3 : bitAt (b2n f.sb * 256) 8 = f.sb := by
    have := b2n_le f.sb
    have h : (b2n f.sb * 256) / 2 ^ 8 % 2 = b2n f.sb := by omega
    simp only [bitAt, h, b2n_beq]
  simp [VCmpF.read, VCmpF.write, Raw.guarded, Raw.guard, b2n_beq, e0, e1, e2, e3]

theorem SSelF.read_write (f : SSelF) : SSelF.read (f.write) = some f := by
  have e0 : bits (f.q.val * 4096 + f.ty.code * 1024) 10 2 = f.ty.code := by
    have := (f.q).isLt; have := f.ty.code_lt
    unfold bits; omega
  have e1 : bits (f.q.val * 4096 + f.ty.code * 1024) 12 2 = f.q.val := by
    have := (f.q).isLt; have := f.ty.code_lt
    unfold bits; omega
  simp [SSelF.read, SSelF.write, Raw.plain, e0, e1]

theorem VSelF.read_write (f : VSelF) : VSelF.read (f.write) = some f := by
  have e0 : bits (f.p.val * 4096 + f.ty.code * 1024 + b2n f.sb * 256) 10 2 = f.ty.code := by
    have := (f.p).isLt; have := f.ty.code_lt; have := b2n_le f.sb
    unfold bits; omega
  have e1 : bitAt (f.p.val * 4096 + f.ty.code * 1024 + b2n f.sb * 256) 8 = f.sb := by
    have := (f.p).isLt; have := f.ty.code_lt; have := b2n_le f.sb
    have h : (f.p.val * 4096 + f.ty.code * 1024 + b2n f.sb * 256) / 2 ^ 8 % 2 = b2n f.sb := by omega
    simp only [bitAt, h, b2n_beq]
  have e2 : bits (f.p.val * 4096 + f.ty.code * 1024 + b2n f.sb * 256) 12 3 = f.p.val := by
    have := (f.p).isLt; have := f.ty.code_lt; have := b2n_le f.sb
    unfold bits; omega
  simp [VSelF.read, VSelF.write, Raw.guarded, Raw.guard, b2n_beq, e0, e1, e2]

theorem SMovwF.read_write (f : SMovwF) : SMovwF.read (f.write) = some f := by
  have e0 : bits (f.ty.code * 1024) 10 2 = f.ty.code := by
    have := f.ty.code_lt
    unfold bits; omega
  simp [SMovwF.read, SMovwF.write, Raw.plain, e0]

theorem VMovwF.read_write (f : VMovwF) : VMovwF.read (f.write) = some f := by
  have e0 : bits (f.ty.code * 1024) 10 2 = f.ty.code := by
    have := f.ty.code_lt
    unfold bits; omega
  simp [VMovwF.read, VMovwF.write, Raw.guarded, Raw.guard, b2n_beq, e0]

theorem SImmF.read_write (f : SImmF) (op : Nat) : SImmF.read (f.write op) = some f := by
  simp [SImmF.read, SImmF.write, Raw.plain, Raw.imm, imm_join]

theorem SCmpImmF.read_write (f : SCmpImmF) : SCmpImmF.read (f.write) = some f := by
  have e0 : bits (f.cond.code * 16 + b2n f.w64 * 8 + f.q.val) 4 4 = f.cond.code := by
    have := (f.q).isLt; have := f.cond.code_lt; have := b2n_le f.w64
    unfold bits; omega
  have e1 : bitAt (f.cond.code * 16 + b2n f.w64 * 8 + f.q.val) 3 = f.w64 := by
    have := (f.q).isLt; have := f.cond.code_lt; have := b2n_le f.w64
    have h : (f.cond.code * 16 + b2n f.w64 * 8 + f.q.val) / 2 ^ 3 % 2 = b2n f.w64 := by omega
    simp only [bitAt, h, b2n_beq]
  have e2 : (f.cond.code * 16 + b2n f.w64 * 8 + f.q.val) % 4 = f.q.val := by
    have := (f.q).isLt; have := f.cond.code_lt; have := b2n_le f.w64
    omega
  simp [SCmpImmF.read, SCmpImmF.write, Raw.plain, Raw.imm, imm_join, e0, e1, e2]

theorem VImmF.read_write (f : VImmF) (op : Nat) : VImmF.read (f.write op) = some f := by
  simp [VImmF.read, VImmF.write, Raw.guarded, Raw.guard, b2n_beq, Raw.imm, imm_join]

theorem VCmpImmF.read_write (f : VCmpImmF) : VCmpImmF.read (f.write) = some f := by
  have e0 : bits (f.cond.code * 16 + b2n f.w64 * 8 + f.p.val) 4 4 = f.cond.code := by
    have := (f.p).isLt; have := f.cond.code_lt; have := b2n_le f.w64
    unfold bits; omega
  have e1 : bitAt (f.cond.code * 16 + b2n f.w64 * 8 + f.p.val) 3 = f.w64 := by
    have := (f.p).isLt; have := f.cond.code_lt; have := b2n_le f.w64
    have h : (f.cond.code * 16 + b2n f.w64 * 8 + f.p.val) / 2 ^ 3 % 2 = b2n f.w64 := by omega
    simp only [bitAt, h, b2n_beq]
  have e2 : (f.cond.code * 16 + b2n f.w64 * 8 + f.p.val) % 8 = f.p.val := by
    have := (f.p).isLt; have := f.cond.code_lt; have := b2n_le f.w64
    omega
  simp [VCmpImmF.read, VCmpImmF.write, Raw.guarded, Raw.guard, b2n_beq, Raw.imm, imm_join, e0, e1, e2]

theorem ShflF.read_write (f : ShflF) (op : Nat) : ShflF.read (f.write op) = some f := by
  have e0 : bitAt (f.pv.val * 4096 + b2n f.w64 * 2048 + f.seg.code * 256 + b2n f.sb * 128 + f.k.val) 11 = f.w64 := by
    have := (f.pv).isLt; have := (f.k).isLt; have := f.seg.code_lt; have := b2n_le f.w64; have := b2n_le f.sb
    have h : (f.pv.val * 4096 + b2n f.w64 * 2048 + f.seg.code * 256 + b2n f.sb * 128 + f.k.val) / 2 ^ 11 % 2 = b2n f.w64 := by omega
    simp only [bitAt, h, b2n_beq]
  have e1 : bits (f.pv.val * 4096 + b2n f.w64 * 2048 + f.seg.code * 256 + b2n f.sb * 128 + f.k.val) 8 3 = f.seg.code := by
    have := (f.pv).isLt; have := (f.k).isLt; have := f.seg.code_lt; have := b2n_le f.w64; have := b2n_le f.sb
    unfold bits; omega
  have e2 : bitAt (f.pv.val * 4096 + b2n f.w64 * 2048 + f.seg.code * 256 + b2n f.sb * 128 + f.k.val) 7 = f.sb := by
    have := (f.pv).isLt; have := (f.k).isLt; have := f.seg.code_lt; have := b2n_le f.w64; have := b2n_le f.sb
    have h : (f.pv.val * 4096 + b2n f.w64 * 2048 + f.seg.code * 256 + b2n f.sb * 128 + f.k.val) / 2 ^ 7 % 2 = b2n f.sb := by omega
    simp only [bitAt, h, b2n_beq]
  have e3 : (f.pv.val * 4096 + b2n f.w64 * 2048 + f.seg.code * 256 + b2n f.sb * 128 + f.k.val) % 32 = f.k.val := by
    have := (f.pv).isLt; have := (f.k).isLt; have := f.seg.code_lt; have := b2n_le f.w64; have := b2n_le f.sb
    omega
  have e4 : bits (f.pv.val * 4096 + b2n f.w64 * 2048 + f.seg.code * 256 + b2n f.sb * 128 + f.k.val) 12 3 = f.pv.val := by
    have := (f.pv).isLt; have := (f.k).isLt; have := f.seg.code_lt; have := b2n_le f.w64; have := b2n_le f.sb
    unfold bits; omega
  simp [ShflF.read, ShflF.write, Raw.guarded, Raw.guard, b2n_beq, e0, e1, e2, e3, e4]

theorem VoteF.read_write (f : VoteF) (op : Nat) : VoteF.read (f.write op) = some f := by
  have e0 : bits (f.seg.code * 256) 8 3 = f.seg.code := by
    have := f.seg.code_lt
    unfold bits; omega
  simp [VoteF.read, VoteF.write, Raw.guarded, Raw.guard, b2n_beq, e0]

theorem BalF.read_write (f : BalF) : BalF.read (f.write) = some f := by
  simp [BalF.read, BalF.write, Raw.guarded, Raw.guard, b2n_beq]

theorem ReduxF.read_write (f : ReduxF) : ReduxF.read (f.write) = some f := by
  have e0 : bitAt (b2n f.w64 * 2048 + f.op.code * 32) 11 = f.w64 := by
    have := f.op.code_lt; have := b2n_le f.w64
    have h : (b2n f.w64 * 2048 + f.op.code * 32) / 2 ^ 11 % 2 = b2n f.w64 := by omega
    simp only [bitAt, h, b2n_beq]
  have e1 : bits (b2n f.w64 * 2048 + f.op.code * 32) 5 3 = f.op.code := by
    have := f.op.code_lt; have := b2n_le f.w64
    unfold bits; omega
  simp [ReduxF.read, ReduxF.write, Raw.guarded, Raw.guard, b2n_beq, e0, e1]

theorem VtosF.read_write (f : VtosF) : VtosF.read (f.write) = some f := by
  have e0 : bitAt (b2n f.w64 * 2048 + b2n f.fa * 32 + f.k.val) 11 = f.w64 := by
    have := (f.k).isLt; have := b2n_le f.w64; have := b2n_le f.fa
    have h : (b2n f.w64 * 2048 + b2n f.fa * 32 + f.k.val) / 2 ^ 11 % 2 = b2n f.w64 := by omega
    simp only [bitAt, h, b2n_beq]
  have e1 : bitAt (b2n f.w64 * 2048 + b2n f.fa * 32 + f.k.val) 5 = f.fa := by
    have := (f.k).isLt; have := b2n_le f.w64; have := b2n_le f.fa
    have h : (b2n f.w64 * 2048 + b2n f.fa * 32 + f.k.val) / 2 ^ 5 % 2 = b2n f.fa := by omega
    simp only [bitAt, h, b2n_beq]
  have e2 : (b2n f.w64 * 2048 + b2n f.fa * 32 + f.k.val) % 32 = f.k.val := by
    have := (f.k).isLt; have := b2n_le f.w64; have := b2n_le f.fa
    omega
  simp [VtosF.read, VtosF.write, Raw.guarded, Raw.guard, b2n_beq, e0, e1, e2]

theorem StovF.read_write (f : StovF) : StovF.read (f.write) = some f := by
  have e0 : bitAt (b2n f.w64 * 2048) 11 = f.w64 := by
    have := b2n_le f.w64
    have h : (b2n f.w64 * 2048) / 2 ^ 11 % 2 = b2n f.w64 := by omega
    simp only [bitAt, h, b2n_beq]
  simp [StovF.read, StovF.write, Raw.guarded, Raw.guard, b2n_beq, e0]

theorem FltF.read_write (f : FltF) (op : Nat) : FltF.read (f.write op) = some f := by
  have e0 : bits (f.c.val * 4096 + f.ft.code * 1024 + f.rnd.code * 128 + b2n f.sat * 64 + b2n f.sb * 32) 10 2 = f.ft.code := by
    have := (f.c).isLt; have := f.ft.code_lt; have := f.rnd.code_lt; have := b2n_le f.sat; have := b2n_le f.sb
    unfold bits; omega
  have e1 : bits (f.c.val * 4096 + f.ft.code * 1024 + f.rnd.code * 128 + b2n f.sat * 64 + b2n f.sb * 32) 7 3 = f.rnd.code := by
    have := (f.c).isLt; have := f.ft.code_lt; have := f.rnd.code_lt; have := b2n_le f.sat; have := b2n_le f.sb
    unfold bits; omega
  have e2 : bitAt (f.c.val * 4096 + f.ft.code * 1024 + f.rnd.code * 128 + b2n f.sat * 64 + b2n f.sb * 32) 6 = f.sat := by
    have := (f.c).isLt; have := f.ft.code_lt; have := f.rnd.code_lt; have := b2n_le f.sat; have := b2n_le f.sb
    have h : (f.c.val * 4096 + f.ft.code * 1024 + f.rnd.code * 128 + b2n f.sat * 64 + b2n f.sb * 32) / 2 ^ 6 % 2 = b2n f.sat := by omega
    simp only [bitAt, h, b2n_beq]
  have e3 : bitAt (f.c.val * 4096 + f.ft.code * 1024 + f.rnd.code * 128 + b2n f.sat * 64 + b2n f.sb * 32) 5 = f.sb := by
    have := (f.c).isLt; have := f.ft.code_lt; have := f.rnd.code_lt; have := b2n_le f.sat; have := b2n_le f.sb
    have h : (f.c.val * 4096 + f.ft.code * 1024 + f.rnd.code * 128 + b2n f.sat * 64 + b2n f.sb * 32) / 2 ^ 5 % 2 = b2n f.sb := by omega
    simp only [bitAt, h, b2n_beq]
  have e4 : bits (f.c.val * 4096 + f.ft.code * 1024 + f.rnd.code * 128 + b2n f.sat * 64 + b2n f.sb * 32) 12 8 = f.c.val := by
    have := (f.c).isLt; have := f.ft.code_lt; have := f.rnd.code_lt; have := b2n_le f.sat; have := b2n_le f.sb
    unfold bits; omega
  simp [FltF.read, FltF.write, Raw.guarded, Raw.guard, b2n_beq, e0, e1, e2, e3, e4]

theorem FMinF.read_write (f : FMinF) (op : Nat) : FMinF.read (f.write op) = some f := by
  have e0 : bits (f.ft.code * 1024 + b2n f.sb * 32) 10 2 = f.ft.code := by
    have := f.ft.code_lt; have := b2n_le f.sb
    unfold bits; omega
  have e1 : bitAt (f.ft.code * 1024 + b2n f.sb * 32) 5 = f.sb := by
    have := f.ft.code_lt; have := b2n_le f.sb
    have h : (f.ft.code * 1024 + b2n f.sb * 32) / 2 ^ 5 % 2 = b2n f.sb := by omega
    simp only [bitAt, h, b2n_beq]
  simp [FMinF.read, FMinF.write, Raw.guarded, Raw.guard, b2n_beq, e0, e1]

theorem FCmpF.read_write (f : FCmpF) : FCmpF.read (f.write) = some f := by
  have e0 : bits (f.ft.code * 1024 + b2n f.sb * 32 + f.cond.code) 10 2 = f.ft.code := by
    have := f.ft.code_lt; have := f.cond.code_lt; have := b2n_le f.sb
    unfold bits; omega
  have e1 : bitAt (f.ft.code * 1024 + b2n f.sb * 32 + f.cond.code) 5 = f.sb := by
    have := f.ft.code_lt; have := f.cond.code_lt; have := b2n_le f.sb
    have h : (f.ft.code * 1024 + b2n f.sb * 32 + f.cond.code) / 2 ^ 5 % 2 = b2n f.sb := by omega
    simp only [bitAt, h, b2n_beq]
  have e2 : (f.ft.code * 1024 + b2n f.sb * 32 + f.cond.code) % 16 = f.cond.code := by
    have := f.ft.code_lt; have := f.cond.code_lt; have := b2n_le f.sb
    omega
  simp [FCmpF.read, FCmpF.write, Raw.guarded, Raw.guard, b2n_beq, e0, e1, e2]

theorem FDotF.read_write (f : FDotF) : FDotF.read (f.write) = some f := by
  have e0 : bits (f.c.val * 4096 + f.fmt.code * 64) 6 6 = f.fmt.code := by
    have := (f.c).isLt; have := f.fmt.code_lt
    unfold bits; omega
  have e1 : bits (f.c.val * 4096 + f.fmt.code * 64) 12 8 = f.c.val := by
    have := (f.c).isLt; have := f.fmt.code_lt
    unfold bits; omega
  simp [FDotF.read, FDotF.write, Raw.guarded, Raw.guard, b2n_beq, e0, e1]

theorem CvtF.read_write (f : CvtF) : CvtF.read (f.write) = some f := by
  have e0 : bits (f.sfmt.code * 16384 + f.dfmt.code * 256 + f.rnd.code * 32 + b2n f.sat * 16 + f.bsel.val * 4) 14 6 = f.sfmt.code := by
    have := (f.bsel).isLt; have := f.sfmt.code_lt; have := f.dfmt.code_lt; have := f.rnd.code_lt; have := b2n_le f.sat
    unfold bits; omega
  have e1 : bits (f.sfmt.code * 16384 + f.dfmt.code * 256 + f.rnd.code * 32 + b2n f.sat * 16 + f.bsel.val * 4) 8 6 = f.dfmt.code := by
    have := (f.bsel).isLt; have := f.sfmt.code_lt; have := f.dfmt.code_lt; have := f.rnd.code_lt; have := b2n_le f.sat
    unfold bits; omega
  have e2 : bits (f.sfmt.code * 16384 + f.dfmt.code * 256 + f.rnd.code * 32 + b2n f.sat * 16 + f.bsel.val * 4) 5 3 = f.rnd.code := by
    have := (f.bsel).isLt; have := f.sfmt.code_lt; have := f.dfmt.code_lt; have := f.rnd.code_lt; have := b2n_le f.sat
    unfold bits; omega
  have e3 : bitAt (f.sfmt.code * 16384 + f.dfmt.code * 256 + f.rnd.code * 32 + b2n f.sat * 16 + f.bsel.val * 4) 4 = f.sat := by
    have := (f.bsel).isLt; have := f.sfmt.code_lt; have := f.dfmt.code_lt; have := f.rnd.code_lt; have := b2n_le f.sat
    have h : (f.sfmt.code * 16384 + f.dfmt.code * 256 + f.rnd.code * 32 + b2n f.sat * 16 + f.bsel.val * 4) / 2 ^ 4 % 2 = b2n f.sat := by omega
    simp only [bitAt, h, b2n_beq]
  have e4 : bits (f.sfmt.code * 16384 + f.dfmt.code * 256 + f.rnd.code * 32 + b2n f.sat * 16 + f.bsel.val * 4) 2 2 = f.bsel.val := by
    have := (f.bsel).isLt; have := f.sfmt.code_lt; have := f.dfmt.code_lt; have := f.rnd.code_lt; have := b2n_le f.sat
    unfold bits; omega
  simp [CvtF.read, CvtF.write, Raw.guarded, Raw.guard, b2n_beq, e0, e1, e2, e3, e4]

theorem CvtFiF.read_write (f : CvtFiF) : CvtFiF.read (f.write) = some f := by
  have e0 : bits (f.sfmt.code * 16384 + f.ty.code * 256 + f.rnd.code * 32 + f.bsel.val * 4) 14 6 = f.sfmt.code := by
    have := (f.bsel).isLt; have := f.sfmt.code_lt; have := f.ty.code_lt; have := f.rnd.code_lt
    unfold bits; omega
  have e1 : bits (f.sfmt.code * 16384 + f.ty.code * 256 + f.rnd.code * 32 + f.bsel.val * 4) 8 2 = f.ty.code := by
    have := (f.bsel).isLt; have := f.sfmt.code_lt; have := f.ty.code_lt; have := f.rnd.code_lt
    unfold bits; omega
  have e2 : bits (f.sfmt.code * 16384 + f.ty.code * 256 + f.rnd.code * 32 + f.bsel.val * 4) 5 3 = f.rnd.code := by
    have := (f.bsel).isLt; have := f.sfmt.code_lt; have := f.ty.code_lt; have := f.rnd.code_lt
    unfold bits; omega
  have e3 : bits (f.sfmt.code * 16384 + f.ty.code * 256 + f.rnd.code * 32 + f.bsel.val * 4) 2 2 = f.bsel.val := by
    have := (f.bsel).isLt; have := f.sfmt.code_lt; have := f.ty.code_lt; have := f.rnd.code_lt
    unfold bits; omega
  simp [CvtFiF.read, CvtFiF.write, Raw.guarded, Raw.guard, b2n_beq, e0, e1, e2, e3]

theorem CvtIfF.read_write (f : CvtIfF) : CvtIfF.read (f.write) = some f := by
  have e0 : bits (f.ty.code * 16384 + f.dfmt.code * 256 + f.rnd.code * 32 + b2n f.sat * 16 + f.bsel.val * 4) 14 2 = f.ty.code := by
    have := (f.bsel).isLt; have := f.ty.code_lt; have := f.dfmt.code_lt; have := f.rnd.code_lt; have := b2n_le f.sat
    unfold bits; omega
  have e1 : bits (f.ty.code * 16384 + f.dfmt.code * 256 + f.rnd.code * 32 + b2n f.sat * 16 + f.bsel.val * 4) 8 6 = f.dfmt.code := by
    have := (f.bsel).isLt; have := f.ty.code_lt; have := f.dfmt.code_lt; have := f.rnd.code_lt; have := b2n_le f.sat
    unfold bits; omega
  have e2 : bits (f.ty.code * 16384 + f.dfmt.code * 256 + f.rnd.code * 32 + b2n f.sat * 16 + f.bsel.val * 4) 5 3 = f.rnd.code := by
    have := (f.bsel).isLt; have := f.ty.code_lt; have := f.dfmt.code_lt; have := f.rnd.code_lt; have := b2n_le f.sat
    unfold bits; omega
  have e3 : bitAt (f.ty.code * 16384 + f.dfmt.code * 256 + f.rnd.code * 32 + b2n f.sat * 16 + f.bsel.val * 4) 4 = f.sat := by
    have := (f.bsel).isLt; have := f.ty.code_lt; have := f.dfmt.code_lt; have := f.rnd.code_lt; have := b2n_le f.sat
    have h : (f.ty.code * 16384 + f.dfmt.code * 256 + f.rnd.code * 32 + b2n f.sat * 16 + f.bsel.val * 4) / 2 ^ 4 % 2 = b2n f.sat := by omega
    simp only [bitAt, h, b2n_beq]
  have e4 : bits (f.ty.code * 16384 + f.dfmt.code * 256 + f.rnd.code * 32 + b2n f.sat * 16 + f.bsel.val * 4) 2 2 = f.bsel.val := by
    have := (f.bsel).isLt; have := f.ty.code_lt; have := f.dfmt.code_lt; have := f.rnd.code_lt; have := b2n_le f.sat
    unfold bits; omega
  simp [CvtIfF.read, CvtIfF.write, Raw.guarded, Raw.guard, b2n_beq, e0, e1, e2, e3, e4]

theorem QHistF.read_write (f : QHistF) : QHistF.read (f.write) = some f := by
  simp [QHistF.read, QHistF.write, Raw.guarded, Raw.guard, b2n_beq]

theorem QClipF.read_write (f : QClipF) : QClipF.read (f.write) = some f := by
  simp [QClipF.read, QClipF.write, Raw.guarded, Raw.guard, b2n_beq]

theorem QQuantF.read_write (f : QQuantF) : QQuantF.read (f.write) = some f := by
  have e0 : bits (f.c.val * 4096 + f.fmt.code * 16 + f.bsel.val * 4) 4 6 = f.fmt.code := by
    have := (f.c).isLt; have := (f.bsel).isLt; have := f.fmt.code_lt
    unfold bits; omega
  have e1 : bits (f.c.val * 4096 + f.fmt.code * 16 + f.bsel.val * 4) 2 2 = f.bsel.val := by
    have := (f.c).isLt; have := (f.bsel).isLt; have := f.fmt.code_lt
    unfold bits; omega
  have e2 : bits (f.c.val * 4096 + f.fmt.code * 16 + f.bsel.val * 4) 12 8 = f.c.val := by
    have := (f.c).isLt; have := (f.bsel).isLt; have := f.fmt.code_lt
    unfold bits; omega
  simp [QQuantF.read, QQuantF.write, Raw.guarded, Raw.guard, b2n_beq, e0, e1, e2]

theorem MemF.read_write (f : MemF) (cls op : Nat) : MemF.read (f.write cls op) = some f := by
  have ho := f.order.code_lt
  have hs : f.size.code < 8 := by have := f.size.code_lt; omega
  simp [MemF.read, MemF.write, Raw.guarded, Raw.guard, b2n_beq, Raw.maddr, MAddr.aField_ix, MAddr.aField_base, mX_off _ _ _ _ ho hs, mX_scope _ _ _ _ ho hs, mX_order _ _ _ _ ho hs, mX_size _ _ _ _ hs]

theorem LineF.read_write (f : LineF) (op size : Nat) (hs : size < 8) : LineF.read (f.write op size) = some f := by
  have ho := f.order.code_lt
  simp [LineF.read, LineF.write, Raw.guarded, Raw.guard, b2n_beq, Raw.maddr, MAddr.aField_ix, MAddr.aField_base, mX_off _ _ _ _ ho hs, mX_scope _ _ _ _ ho hs, mX_order _ _ _ _ ho hs]

theorem AtomF.read_write (f : AtomF) (op : Nat) : AtomF.read (f.write op) = some f := by
  have ho := f.order.code_lt
  have hs : f.size.code < 8 := by have := f.size.code_lt; omega
  simp [AtomF.read, AtomF.write, Raw.guarded, Raw.guard, b2n_beq, Raw.maddr, MAddr.aField_ix, MAddr.aField_base, mX_off _ _ _ _ ho hs, mX_scope _ _ _ _ ho hs, mX_order _ _ _ _ ho hs, mX_size _ _ _ _ hs]

theorem AtomFF.read_write (f : AtomFF) (op : Nat) : AtomFF.read (f.write op) = some f := by
  have ho := f.order.code_lt
  have hs : 4 < 8 := by decide
  simp [AtomFF.read, AtomFF.write, Raw.guarded, Raw.guard, b2n_beq, Raw.maddr, MAddr.aField_ix, MAddr.aField_base, mX_off _ _ _ _ ho hs, mX_scope _ _ _ _ ho hs, mX_order _ _ _ _ ho hs]

theorem LckF.read_write (f : LckF) (op : Nat) : LckF.read (f.write op) = some f := by
  have e0 : (192 + f.base.val) % 64 = f.base.val := by
    have := (f.base).isLt
    omega
  have ho : 1 < 4 := by decide
  have hs : 4 < 8 := by decide
  simp [LckF.read, LckF.write, Raw.guarded, Raw.guard, b2n_beq, mX_off _ _ _ _ ho hs, mX_scope _ _ _ _ ho hs, e0]

theorem UnlkF.read_write (f : UnlkF) : UnlkF.read (f.write) = some f := by
  have e0 : (192 + f.base.val) % 64 = f.base.val := by
    have := (f.base).isLt
    omega
  have ho : 2 < 4 := by decide
  have hs : 4 < 8 := by decide
  simp [UnlkF.read, UnlkF.write, Raw.guarded, Raw.guard, b2n_beq, mX_off _ _ _ _ ho hs, mX_scope _ _ _ _ ho hs, e0]

theorem BarF.read_write (f : BarF) (op : Nat) : BarF.read (f.write op) = some f := by
  have e0 : (192 + f.base.val) % 64 = f.base.val := by
    have := (f.base).isLt
    omega
  have ho := f.order.code_lt
  have hs : 0 < 8 := by decide
  simp [BarF.read, BarF.write, Raw.plain, mX_off _ _ _ _ ho hs, mX_scope _ _ _ _ ho hs, mX_order _ _ _ _ ho hs, e0]

theorem CpyF.read_write (f : CpyF) (op : Nat) : CpyF.read (f.write op) = some f := by
  have e0 : bits (f.c.val * 16384 + f.dlv.code * 2048 + f.slv.code * 256) 14 6 = f.c.val := by
    have := (f.c).isLt; have := f.dlv.code_lt; have := f.slv.code_lt
    unfold bits; omega
  have e1 : bits (f.c.val * 16384 + f.dlv.code * 2048 + f.slv.code * 256) 11 3 = f.dlv.code := by
    have := (f.c).isLt; have := f.dlv.code_lt; have := f.slv.code_lt
    unfold bits; omega
  have e2 : bits (f.c.val * 16384 + f.dlv.code * 2048 + f.slv.code * 256) 8 3 = f.slv.code := by
    have := (f.c).isLt; have := f.dlv.code_lt; have := f.slv.code_lt
    unfold bits; omega
  have e3 : bits (f.dstride.toNat * 1099511627776 + f.sstride.toNat * 65536 + b2n f.cnt * 4096 + b2n f.rmt * 2048 + f.objmod.toNat) 40 24 = f.dstride.toNat := by
    have := b2n_le f.cnt; have := b2n_le f.rmt; have := (f.dstride).isLt; have := (f.sstride).isLt; have := (f.objmod).isLt
    unfold bits; omega
  have e4 : bits (f.dstride.toNat * 1099511627776 + f.sstride.toNat * 65536 + b2n f.cnt * 4096 + b2n f.rmt * 2048 + f.objmod.toNat) 16 24 = f.sstride.toNat := by
    have := b2n_le f.cnt; have := b2n_le f.rmt; have := (f.dstride).isLt; have := (f.sstride).isLt; have := (f.objmod).isLt
    unfold bits; omega
  have e5 : bitAt (f.dstride.toNat * 1099511627776 + f.sstride.toNat * 65536 + b2n f.cnt * 4096 + b2n f.rmt * 2048 + f.objmod.toNat) 12 = f.cnt := by
    have := b2n_le f.cnt; have := b2n_le f.rmt; have := (f.dstride).isLt; have := (f.sstride).isLt; have := (f.objmod).isLt
    have h : (f.dstride.toNat * 1099511627776 + f.sstride.toNat * 65536 + b2n f.cnt * 4096 + b2n f.rmt * 2048 + f.objmod.toNat) / 2 ^ 12 % 2 = b2n f.cnt := by omega
    simp only [bitAt, h, b2n_beq]
  have e6 : bitAt (f.dstride.toNat * 1099511627776 + f.sstride.toNat * 65536 + b2n f.cnt * 4096 + b2n f.rmt * 2048 + f.objmod.toNat) 11 = f.rmt := by
    have := b2n_le f.cnt; have := b2n_le f.rmt; have := (f.dstride).isLt; have := (f.sstride).isLt; have := (f.objmod).isLt
    have h : (f.dstride.toNat * 1099511627776 + f.sstride.toNat * 65536 + b2n f.cnt * 4096 + b2n f.rmt * 2048 + f.objmod.toNat) / 2 ^ 11 % 2 = b2n f.rmt := by omega
    simp only [bitAt, h, b2n_beq]
  have e7 : (f.dstride.toNat * 1099511627776 + f.sstride.toNat * 65536 + b2n f.cnt * 4096 + b2n f.rmt * 2048 + f.objmod.toNat) % 1024 = f.objmod.toNat := by
    have := b2n_le f.cnt; have := b2n_le f.rmt; have := (f.dstride).isLt; have := (f.sstride).isLt; have := (f.objmod).isLt
    omega
  simp [CpyF.read, CpyF.write, Raw.plain, e0, e1, e2, e3, e4, e5, e6, e7]

theorem TileMvF.read_write (f : TileMvF) (op : Nat) : TileMvF.read (f.write op) = some f := by
  have e0 : (192 + f.base.val) % 64 = f.base.val := by
    have := (f.base).isLt
    omega
  have e1 : bits (f.off.toNat * 256 + b2n f.side) 8 12 = f.off.toNat := by
    have := b2n_le f.side; have := (f.off).isLt
    unfold bits; omega
  have e2 : bitAt (f.off.toNat * 256 + b2n f.side) 0 = f.side := by
    have := b2n_le f.side; have := (f.off).isLt
    have h : (f.off.toNat * 256 + b2n f.side) / 2 ^ 0 % 2 = b2n f.side := by omega
    simp only [bitAt, h, b2n_beq]
  simp [TileMvF.read, TileMvF.write, Raw.plain, e0, e1, e2]

theorem AccMvF.read_write (f : AccMvF) (op : Nat) : AccMvF.read (f.write op) = some f := by
  have e0 : (192 + f.base.val) % 64 = f.base.val := by
    have := (f.base).isLt
    omega
  have e1 : bits (f.off.toNat * 256) 8 12 = f.off.toNat := by
    have := (f.off).isLt
    unfold bits; omega
  simp [AccMvF.read, AccMvF.write, Raw.plain, e0, e1]

theorem MmacF.read_write (f : MmacF) : MmacF.read (f.write) = some f := by
  have e0 : bitAt (b2n f.clr * 4 + f.acc.val) 2 = f.clr := by
    have := (f.acc).isLt; have := b2n_le f.clr
    have h : (b2n f.clr * 4 + f.acc.val) / 2 ^ 2 % 2 = b2n f.clr := by omega
    simp only [bitAt, h, b2n_beq]
  have e1 : (b2n f.clr * 4 + f.acc.val) % 4 = f.acc.val := by
    have := (f.acc).isLt; have := b2n_le f.clr
    omega
  have e2 : bitAt (b2n f.ha * 16 + b2n f.ta * 8 + f.tA.val) 4 = f.ha := by
    have := (f.tA).isLt; have := b2n_le f.ha; have := b2n_le f.ta
    have h : (b2n f.ha * 16 + b2n f.ta * 8 + f.tA.val) / 2 ^ 4 % 2 = b2n f.ha := by omega
    simp only [bitAt, h, b2n_beq]
  have e3 : bitAt (b2n f.ha * 16 + b2n f.ta * 8 + f.tA.val) 3 = f.ta := by
    have := (f.tA).isLt; have := b2n_le f.ha; have := b2n_le f.ta
    have h : (b2n f.ha * 16 + b2n f.ta * 8 + f.tA.val) / 2 ^ 3 % 2 = b2n f.ta := by omega
    simp only [bitAt, h, b2n_beq]
  have e4 : (b2n f.ha * 16 + b2n f.ta * 8 + f.tA.val) % 8 = f.tA.val := by
    have := (f.tA).isLt; have := b2n_le f.ha; have := b2n_le f.ta
    omega
  have e5 : bitAt (b2n f.hb * 16 + b2n f.tb * 8 + f.tB.val) 4 = f.hb := by
    have := (f.tB).isLt; have := b2n_le f.hb; have := b2n_le f.tb
    have h : (b2n f.hb * 16 + b2n f.tb * 8 + f.tB.val) / 2 ^ 4 % 2 = b2n f.hb := by omega
    simp only [bitAt, h, b2n_beq]
  have e6 : bitAt (b2n f.hb * 16 + b2n f.tb * 8 + f.tB.val) 3 = f.tb := by
    have := (f.tB).isLt; have := b2n_le f.hb; have := b2n_le f.tb
    have h : (b2n f.hb * 16 + b2n f.tb * 8 + f.tB.val) / 2 ^ 3 % 2 = b2n f.tb := by omega
    simp only [bitAt, h, b2n_beq]
  have e7 : (b2n f.hb * 16 + b2n f.tb * 8 + f.tB.val) % 8 = f.tB.val := by
    have := (f.tB).isLt; have := b2n_le f.hb; have := b2n_le f.tb
    omega
  have e8 : bits (f.fa.code * 4096 + f.fb.code * 64 + b2n f.mx * 32) 12 6 = f.fa.code := by
    have := f.fa.code_lt; have := f.fb.code_lt; have := b2n_le f.mx
    unfold bits; omega
  have e9 : bits (f.fa.code * 4096 + f.fb.code * 64 + b2n f.mx * 32) 6 6 = f.fb.code := by
    have := f.fa.code_lt; have := f.fb.code_lt; have := b2n_le f.mx
    unfold bits; omega
  have e10 : bitAt (f.fa.code * 4096 + f.fb.code * 64 + b2n f.mx * 32) 5 = f.mx := by
    have := f.fa.code_lt; have := f.fb.code_lt; have := b2n_le f.mx
    have h : (f.fa.code * 4096 + f.fb.code * 64 + b2n f.mx * 32) / 2 ^ 5 % 2 = b2n f.mx := by omega
    simp only [bitAt, h, b2n_beq]
  simp [MmacF.read, MmacF.write, Raw.plain, e0, e1, e2, e3, e4, e5, e6, e7, e8, e9, e10]

theorem MmacgF.read_write (f : MmacgF) : MmacgF.read (f.write) = some f := by
  have e0 : bitAt (b2n f.tb * 32 + b2n f.ta * 16 + b2n f.mx * 8 + b2n f.clr * 4 + f.acc.val) 5 = f.tb := by
    have := (f.acc).isLt; have := b2n_le f.tb; have := b2n_le f.ta; have := b2n_le f.mx; have := b2n_le f.clr
    have h : (b2n f.tb * 32 + b2n f.ta * 16 + b2n f.mx * 8 + b2n f.clr * 4 + f.acc.val) / 2 ^ 5 % 2 = b2n f.tb := by omega
    simp only [bitAt, h, b2n_beq]
  have e1 : bitAt (b2n f.tb * 32 + b2n f.ta * 16 + b2n f.mx * 8 + b2n f.clr * 4 + f.acc.val) 4 = f.ta := by
    have := (f.acc).isLt; have := b2n_le f.tb; have := b2n_le f.ta; have := b2n_le f.mx; have := b2n_le f.clr
    have h : (b2n f.tb * 32 + b2n f.ta * 16 + b2n f.mx * 8 + b2n f.clr * 4 + f.acc.val) / 2 ^ 4 % 2 = b2n f.ta := by omega
    simp only [bitAt, h, b2n_beq]
  have e2 : bitAt (b2n f.tb * 32 + b2n f.ta * 16 + b2n f.mx * 8 + b2n f.clr * 4 + f.acc.val) 3 = f.mx := by
    have := (f.acc).isLt; have := b2n_le f.tb; have := b2n_le f.ta; have := b2n_le f.mx; have := b2n_le f.clr
    have h : (b2n f.tb * 32 + b2n f.ta * 16 + b2n f.mx * 8 + b2n f.clr * 4 + f.acc.val) / 2 ^ 3 % 2 = b2n f.mx := by omega
    simp only [bitAt, h, b2n_beq]
  have e3 : bitAt (b2n f.tb * 32 + b2n f.ta * 16 + b2n f.mx * 8 + b2n f.clr * 4 + f.acc.val) 2 = f.clr := by
    have := (f.acc).isLt; have := b2n_le f.tb; have := b2n_le f.ta; have := b2n_le f.mx; have := b2n_le f.clr
    have h : (b2n f.tb * 32 + b2n f.ta * 16 + b2n f.mx * 8 + b2n f.clr * 4 + f.acc.val) / 2 ^ 2 % 2 = b2n f.clr := by omega
    simp only [bitAt, h, b2n_beq]
  have e4 : (b2n f.tb * 32 + b2n f.ta * 16 + b2n f.mx * 8 + b2n f.clr * 4 + f.acc.val) % 4 = f.acc.val := by
    have := (f.acc).isLt; have := b2n_le f.tb; have := b2n_le f.ta; have := b2n_le f.mx; have := b2n_le f.clr
    omega
  have e5 : bits (f.c.val * 4096 + f.fa.code * 64 + f.fb.code) 12 8 = f.c.val := by
    have := (f.c).isLt; have := f.fa.code_lt; have := f.fb.code_lt
    unfold bits; omega
  have e6 : bits (f.c.val * 4096 + f.fa.code * 64 + f.fb.code) 6 6 = f.fa.code := by
    have := (f.c).isLt; have := f.fa.code_lt; have := f.fb.code_lt
    unfold bits; omega
  have e7 : (f.c.val * 4096 + f.fa.code * 64 + f.fb.code) % 64 = f.fb.code := by
    have := (f.c).isLt; have := f.fa.code_lt; have := f.fb.code_lt
    omega
  have e8 : bits (f.apitch.toNat * 1099511627776 + f.bpitch.toNat * 65536) 40 24 = f.apitch.toNat := by
    have := (f.apitch).isLt; have := (f.bpitch).isLt
    unfold bits; omega
  have e9 : bits (f.apitch.toNat * 1099511627776 + f.bpitch.toNat * 65536) 16 24 = f.bpitch.toNat := by
    have := (f.apitch).isLt; have := (f.bpitch).isLt
    unfold bits; omega
  simp [MmacgF.read, MmacgF.write, Raw.plain, e0, e1, e2, e3, e4, e5, e6, e7, e8, e9]

theorem TcvtF.read_write (f : TcvtF) : TcvtF.read (f.write) = some f := by
  have e0 : bitAt (b2n f.h * 8 + f.t.val) 3 = f.h := by
    have := (f.t).isLt; have := b2n_le f.h
    have h : (b2n f.h * 8 + f.t.val) / 2 ^ 3 % 2 = b2n f.h := by omega
    simp only [bitAt, h, b2n_beq]
  have e1 : (b2n f.h * 8 + f.t.val) % 8 = f.t.val := by
    have := (f.t).isLt; have := b2n_le f.h
    omega
  have e2 : bits (f.fmt.code * 16384 + f.rnd.code * 2048 + b2n f.sat * 1024 + b2n f.mx * 512) 14 6 = f.fmt.code := by
    have := f.fmt.code_lt; have := f.rnd.code_lt; have := b2n_le f.sat; have := b2n_le f.mx
    unfold bits; omega
  have e3 : bits (f.fmt.code * 16384 + f.rnd.code * 2048 + b2n f.sat * 1024 + b2n f.mx * 512) 11 3 = f.rnd.code := by
    have := f.fmt.code_lt; have := f.rnd.code_lt; have := b2n_le f.sat; have := b2n_le f.mx
    unfold bits; omega
  have e4 : bitAt (f.fmt.code * 16384 + f.rnd.code * 2048 + b2n f.sat * 1024 + b2n f.mx * 512) 10 = f.sat := by
    have := f.fmt.code_lt; have := f.rnd.code_lt; have := b2n_le f.sat; have := b2n_le f.mx
    have h : (f.fmt.code * 16384 + f.rnd.code * 2048 + b2n f.sat * 1024 + b2n f.mx * 512) / 2 ^ 10 % 2 = b2n f.sat := by omega
    simp only [bitAt, h, b2n_beq]
  have e5 : bitAt (f.fmt.code * 16384 + f.rnd.code * 2048 + b2n f.sat * 1024 + b2n f.mx * 512) 9 = f.mx := by
    have := f.fmt.code_lt; have := f.rnd.code_lt; have := b2n_le f.sat; have := b2n_le f.mx
    have h : (f.fmt.code * 16384 + f.rnd.code * 2048 + b2n f.sat * 1024 + b2n f.mx * 512) / 2 ^ 9 % 2 = b2n f.mx := by omega
    simp only [bitAt, h, b2n_beq]
  simp [TcvtF.read, TcvtF.write, Raw.plain, e0, e1, e2, e3, e4, e5]

theorem FflF.read_write (f : FflF) (size : Nat) (hs : size < 8) : FflF.read (f.write size) = some f := by
  have ho : 0 < 4 := by decide
  simp [FflF.read, FflF.write, Raw.guarded, Raw.guard, b2n_beq, Raw.maddr, MAddr.aField_ix, MAddr.aField_base, mX_off _ _ _ _ ho hs, mX_scope _ _ _ _ ho hs]

theorem ShtlF.read_write (f : ShtlF) (t : Nat) (ht : t < 4096) : ShtlF.read (f.write t) = some f := by
  have e0 : bits (f.c.val * 4096 + t) 12 8 = f.c.val := by
    have := (f.c).isLt
    unfold bits; omega
  have e1 : (f.stepw.toNat * 8 + f.nstep.val) % 8 = f.nstep.val := by
    have := (f.nstep).isLt; have := (f.stepw).isLt
    omega
  have e2 : bits (f.stepw.toNat * 8 + f.nstep.val) 3 36 = f.stepw.toNat := by
    have := (f.nstep).isLt; have := (f.stepw).isLt
    unfold bits; omega
  simp [ShtlF.read, ShtlF.write, Raw.guarded, Raw.guard, b2n_beq, e0, e1, e2]

/-- Every field fits its place in the word (spec/02 R19). -/
structure Raw.Fits (r : Raw) : Prop where
  cls : r.cls < 64
  op : r.op < 64
  la : r.la < 16
  pn : r.pn < 2
  pg : r.pg < 8
  d : r.d < 256
  a : r.a < 256
  b : r.b < 256
  x : r.x < 2 ^ 20
  w2 : ∀ w, r.w2 = some w → w < 2 ^ 64

/-- Fields that fit are read back from the word they make (spec/02 R19). -/
theorem Raw.unpack_pack (r : Raw) (h : r.Fits) (w : Option Nat) : Raw.unpack r.pack w = { r with w2 := w } := by
  obtain ⟨h1, h2, h3, h4, h5, h6, h7, h8, h9, -⟩ := h
  unfold Raw.unpack Raw.pack
  congr 1 <;> omega

/-- The fields of a word make that word. -/
theorem Raw.pack_unpack (v : Nat) (w : Option Nat) (h : v < 2 ^ 64) : (Raw.unpack v w).pack = v := by
  simp only [Raw.unpack, Raw.pack]
  omega

theorem Raw.pack_lt (r : Raw) (h : r.Fits) : r.pack < 2 ^ 64 := by
  obtain ⟨h1, h2, h3, h4, h5, h6, h7, h8, h9, -⟩ := h
  unfold Raw.pack
  omega

theorem SInt.write_fits (f : SInt) (op : Nat) (ho : op < 64) : (f.write op).Fits := by
  have := (f.d).isLt
  have := (f.a).isLt
  have := (f.b).isLt
  have := (f.c).isLt
  have := (f.n).isLt
  have := f.ty.code_lt
  have := b2n_le f.sat
  constructor <;> simp only [SInt.write, Raw.plain] <;> first | omega | (intro w h; simp at h; try omega)

theorem VInt.write_fits (f : VInt) (op : Nat) (ho : op < 64) : (f.write op).Fits := by
  have := (f.d).isLt
  have := (f.a).isLt
  have := (f.b).isLt
  have := (f.c).isLt
  have := (f.n).isLt
  have := f.ty.code_lt
  have := b2n_le f.sat
  have := b2n_le f.sb
  have := b2n_le f.g.pn
  have := f.g.pg.isLt
  constructor <;> simp only [VInt.write, Raw.guarded] <;> first | omega | (intro w h; simp at h; try omega)

theorem SCmpF.write_fits (f : SCmpF) : (f.write).Fits := by
  have := (f.q).isLt
  have := (f.a).isLt
  have := (f.b).isLt
  have := f.cond.code_lt
  have := b2n_le f.w64
  constructor <;> simp only [SCmpF.write, Raw.plain] <;> first | omega | (intro w h; simp at h; try omega)

theorem VCmpF.write_fits (f : VCmpF) : (f.write).Fits := by
  have := (f.p).isLt
  have := (f.a).isLt
  have := (f.b).isLt
  have := f.cond.code_lt
  have := b2n_le f.w64
  have := b2n_le f.sb
  have := b2n_le f.g.pn
  have := f.g.pg.isLt
  constructor <;> simp only [VCmpF.write, Raw.guarded] <;> first | omega | (intro w h; simp at h; try omega)

theorem SSelF.write_fits (f : SSelF) : (f.write).Fits := by
  have := (f.d).isLt
  have := (f.a).isLt
  have := (f.b).isLt
  have := (f.q).isLt
  have := f.ty.code_lt
  constructor <;> simp only [SSelF.write, Raw.plain] <;> first | omega | (intro w h; simp at h; try omega)

theorem VSelF.write_fits (f : VSelF) : (f.write).Fits := by
  have := (f.d).isLt
  have := (f.a).isLt
  have := (f.b).isLt
  have := (f.p).isLt
  have := f.ty.code_lt
  have := b2n_le f.sb
  have := b2n_le f.g.pn
  have := f.g.pg.isLt
  constructor <;> simp only [VSelF.write, Raw.guarded] <;> first | omega | (intro w h; simp at h; try omega)

theorem SMovwF.write_fits (f : SMovwF) : (f.write).Fits := by
  have := (f.d).isLt
  have := f.ty.code_lt
  have := (f.imm).isLt
  constructor <;> simp only [SMovwF.write, Raw.plain] <;> first | omega | (intro w h; simp at h; try omega)

theorem VMovwF.write_fits (f : VMovwF) : (f.write).Fits := by
  have := (f.d).isLt
  have := f.ty.code_lt
  have := (f.imm).isLt
  have := b2n_le f.g.pn
  have := f.g.pg.isLt
  constructor <;> simp only [VMovwF.write, Raw.guarded] <;> first | omega | (intro w h; simp at h; try omega)

theorem SImmF.write_fits (f : SImmF) (op : Nat) (ho : op < 64) : (f.write op).Fits := by
  have := (f.d).isLt
  have := (f.a).isLt
  have := (f.imm).isLt
  constructor <;> simp only [SImmF.write, Raw.plain] <;> first | omega | (intro w h; simp at h; try omega)

theorem SCmpImmF.write_fits (f : SCmpImmF) : (f.write).Fits := by
  have := (f.q).isLt
  have := (f.a).isLt
  have := f.cond.code_lt
  have := b2n_le f.w64
  have := (f.imm).isLt
  constructor <;> simp only [SCmpImmF.write, Raw.plain] <;> first | omega | (intro w h; simp at h; try omega)

theorem VImmF.write_fits (f : VImmF) (op : Nat) (ho : op < 64) : (f.write op).Fits := by
  have := (f.d).isLt
  have := (f.a).isLt
  have := (f.imm).isLt
  have := b2n_le f.g.pn
  have := f.g.pg.isLt
  constructor <;> simp only [VImmF.write, Raw.guarded] <;> first | omega | (intro w h; simp at h; try omega)

theorem VCmpImmF.write_fits (f : VCmpImmF) : (f.write).Fits := by
  have := (f.p).isLt
  have := (f.a).isLt
  have := f.cond.code_lt
  have := b2n_le f.w64
  have := (f.imm).isLt
  have := b2n_le f.g.pn
  have := f.g.pg.isLt
  constructor <;> simp only [VCmpImmF.write, Raw.guarded] <;> first | omega | (intro w h; simp at h; try omega)

theorem ShflF.write_fits (f : ShflF) (op : Nat) (ho : op < 64) : (f.write op).Fits := by
  have := (f.la).isLt
  have := (f.d).isLt
  have := (f.a).isLt
  have := (f.b).isLt
  have := (f.pv).isLt
  have := (f.k).isLt
  have := f.seg.code_lt
  have := b2n_le f.w64
  have := b2n_le f.sb
  have := b2n_le f.g.pn
  have := f.g.pg.isLt
  constructor <;> simp only [ShflF.write, Raw.guarded] <;> first | omega | (intro w h; simp at h; try omega)

theorem VoteF.write_fits (f : VoteF) (op : Nat) (ho : op < 64) : (f.write op).Fits := by
  have := (f.la).isLt
  have := (f.d).isLt
  have := (f.a).isLt
  have := f.seg.code_lt
  have := b2n_le f.g.pn
  have := f.g.pg.isLt
  constructor <;> simp only [VoteF.write, Raw.guarded] <;> first | omega | (intro w h; simp at h; try omega)

theorem BalF.write_fits (f : BalF) : (f.write).Fits := by
  have := (f.la).isLt
  have := (f.d).isLt
  have := (f.a).isLt
  have := b2n_le f.g.pn
  have := f.g.pg.isLt
  constructor <;> simp only [BalF.write, Raw.guarded] <;> first | omega | (intro w h; simp at h; try omega)

theorem ReduxF.write_fits (f : ReduxF) : (f.write).Fits := by
  have := (f.la).isLt
  have := (f.d).isLt
  have := (f.a).isLt
  have := f.op.code_lt
  have := b2n_le f.w64
  have := b2n_le f.g.pn
  have := f.g.pg.isLt
  constructor <;> simp only [ReduxF.write, Raw.guarded] <;> first | omega | (intro w h; simp at h; try omega)

theorem VtosF.write_fits (f : VtosF) : (f.write).Fits := by
  have := (f.la).isLt
  have := (f.d).isLt
  have := (f.a).isLt
  have := (f.k).isLt
  have := b2n_le f.w64
  have := b2n_le f.fa
  have := b2n_le f.g.pn
  have := f.g.pg.isLt
  constructor <;> simp only [VtosF.write, Raw.guarded] <;> first | omega | (intro w h; simp at h; try omega)

theorem StovF.write_fits (f : StovF) : (f.write).Fits := by
  have := (f.la).isLt
  have := (f.d).isLt
  have := (f.a).isLt
  have := b2n_le f.w64
  have := b2n_le f.g.pn
  have := f.g.pg.isLt
  constructor <;> simp only [StovF.write, Raw.guarded] <;> first | omega | (intro w h; simp at h; try omega)

theorem FltF.write_fits (f : FltF) (op : Nat) (ho : op < 64) : (f.write op).Fits := by
  have := (f.la).isLt
  have := (f.d).isLt
  have := (f.a).isLt
  have := (f.b).isLt
  have := (f.c).isLt
  have := f.ft.code_lt
  have := f.rnd.code_lt
  have := b2n_le f.sat
  have := b2n_le f.sb
  have := b2n_le f.g.pn
  have := f.g.pg.isLt
  constructor <;> simp only [FltF.write, Raw.guarded] <;> first | omega | (intro w h; simp at h; try omega)

theorem FMinF.write_fits (f : FMinF) (op : Nat) (ho : op < 64) : (f.write op).Fits := by
  have := (f.d).isLt
  have := (f.a).isLt
  have := (f.b).isLt
  have := f.ft.code_lt
  have := b2n_le f.sb
  have := b2n_le f.g.pn
  have := f.g.pg.isLt
  constructor <;> simp only [FMinF.write, Raw.guarded] <;> first | omega | (intro w h; simp at h; try omega)

theorem FCmpF.write_fits (f : FCmpF) : (f.write).Fits := by
  have := (f.p).isLt
  have := (f.a).isLt
  have := (f.b).isLt
  have := f.ft.code_lt
  have := f.cond.code_lt
  have := b2n_le f.sb
  have := b2n_le f.g.pn
  have := f.g.pg.isLt
  constructor <;> simp only [FCmpF.write, Raw.guarded] <;> first | omega | (intro w h; simp at h; try omega)

theorem FDotF.write_fits (f : FDotF) : (f.write).Fits := by
  have := (f.d).isLt
  have := (f.a).isLt
  have := (f.b).isLt
  have := (f.c).isLt
  have := f.fmt.code_lt
  have := b2n_le f.g.pn
  have := f.g.pg.isLt
  constructor <;> simp only [FDotF.write, Raw.guarded] <;> first | omega | (intro w h; simp at h; try omega)

theorem CvtF.write_fits (f : CvtF) : (f.write).Fits := by
  have := (f.d).isLt
  have := (f.a).isLt
  have := (f.bsel).isLt
  have := f.sfmt.code_lt
  have := f.dfmt.code_lt
  have := f.rnd.code_lt
  have := b2n_le f.sat
  have := b2n_le f.g.pn
  have := f.g.pg.isLt
  constructor <;> simp only [CvtF.write, Raw.guarded] <;> first | omega | (intro w h; simp at h; try omega)

theorem CvtFiF.write_fits (f : CvtFiF) : (f.write).Fits := by
  have := (f.d).isLt
  have := (f.a).isLt
  have := (f.bsel).isLt
  have := f.sfmt.code_lt
  have := f.ty.code_lt
  have := f.rnd.code_lt
  have := b2n_le f.g.pn
  have := f.g.pg.isLt
  constructor <;> simp only [CvtFiF.write, Raw.guarded] <;> first | omega | (intro w h; simp at h; try omega)

theorem CvtIfF.write_fits (f : CvtIfF) : (f.write).Fits := by
  have := (f.d).isLt
  have := (f.a).isLt
  have := (f.bsel).isLt
  have := f.ty.code_lt
  have := f.dfmt.code_lt
  have := f.rnd.code_lt
  have := b2n_le f.sat
  have := b2n_le f.g.pn
  have := f.g.pg.isLt
  constructor <;> simp only [CvtIfF.write, Raw.guarded] <;> first | omega | (intro w h; simp at h; try omega)

theorem QHistF.write_fits (f : QHistF) : (f.write).Fits := by
  have := (f.la).isLt
  have := (f.d).isLt
  have := (f.a).isLt
  have := b2n_le f.g.pn
  have := f.g.pg.isLt
  constructor <;> simp only [QHistF.write, Raw.guarded] <;> first | omega | (intro w h; simp at h; try omega)

theorem QClipF.write_fits (f : QClipF) : (f.write).Fits := by
  have := (f.la).isLt
  have := (f.d).isLt
  have := (f.a).isLt
  have := (f.b).isLt
  have := b2n_le f.g.pn
  have := f.g.pg.isLt
  constructor <;> simp only [QClipF.write, Raw.guarded] <;> first | omega | (intro w h; simp at h; try omega)

theorem QQuantF.write_fits (f : QQuantF) : (f.write).Fits := by
  have := (f.la).isLt
  have := (f.d).isLt
  have := (f.a).isLt
  have := (f.b).isLt
  have := (f.c).isLt
  have := (f.bsel).isLt
  have := f.fmt.code_lt
  have := b2n_le f.g.pn
  have := f.g.pg.isLt
  constructor <;> simp only [QQuantF.write, Raw.guarded] <;> first | omega | (intro w h; simp at h; try omega)

theorem MemF.write_fits (f : MemF) (cls op : Nat) (ho : op < 64) (hc : cls < 64) : (f.write cls op).Fits := by
  have := (f.la).isLt
  have := (f.d).isLt
  have := (f.addr.idx).isLt
  have := f.order.code_lt
  have := f.size.code_lt
  have := f.addr.off.isLt
  have := f.scope.code_lt
  have := f.addr.ix.code_lt
  have := f.addr.base.isLt
  have := b2n_le f.g.pn
  have := f.g.pg.isLt
  constructor <;> simp only [MemF.write, Raw.guarded, mX, MAddr.aField] <;> first | omega | (intro w h; simp at h; try omega)

theorem LineF.write_fits (f : LineF) (op size : Nat) (ho : op < 64) (hz : size < 8) : (f.write op size).Fits := by
  have := (f.addr.idx).isLt
  have := f.order.code_lt
  have := f.addr.off.isLt
  have := f.scope.code_lt
  have := f.addr.ix.code_lt
  have := f.addr.base.isLt
  have := b2n_le f.g.pn
  have := f.g.pg.isLt
  constructor <;> simp only [LineF.write, Raw.guarded, mX, MAddr.aField] <;> first | omega | (intro w h; simp at h; try omega)

theorem AtomF.write_fits (f : AtomF) (op : Nat) (ho : op < 64) : (f.write op).Fits := by
  have := (f.la).isLt
  have := (f.d).isLt
  have := (f.addr.idx).isLt
  have := f.order.code_lt
  have := f.size.code_lt
  have := f.addr.off.isLt
  have := f.scope.code_lt
  have := f.addr.ix.code_lt
  have := f.addr.base.isLt
  have := b2n_le f.g.pn
  have := f.g.pg.isLt
  constructor <;> simp only [AtomF.write, Raw.guarded, mX, MAddr.aField] <;> first | omega | (intro w h; simp at h; try omega)

theorem AtomFF.write_fits (f : AtomFF) (op : Nat) (ho : op < 64) : (f.write op).Fits := by
  have := (f.la).isLt
  have := (f.d).isLt
  have := (f.addr.idx).isLt
  have := f.order.code_lt
  have := f.addr.off.isLt
  have := f.scope.code_lt
  have := f.addr.ix.code_lt
  have := f.addr.base.isLt
  have := b2n_le f.g.pn
  have := f.g.pg.isLt
  constructor <;> simp only [AtomFF.write, Raw.guarded, mX, MAddr.aField] <;> first | omega | (intro w h; simp at h; try omega)

theorem LckF.write_fits (f : LckF) (op : Nat) (ho : op < 64) : (f.write op).Fits := by
  have := (f.la).isLt
  have := (f.d).isLt
  have := (f.base).isLt
  have := f.off.isLt
  have := f.scope.code_lt
  have := b2n_le f.g.pn
  have := f.g.pg.isLt
  constructor <;> simp only [LckF.write, Raw.guarded, mX] <;> first | omega | (intro w h; simp at h; try omega)

theorem UnlkF.write_fits (f : UnlkF) : (f.write).Fits := by
  have := (f.base).isLt
  have := f.off.isLt
  have := f.scope.code_lt
  have := b2n_le f.g.pn
  have := f.g.pg.isLt
  constructor <;> simp only [UnlkF.write, Raw.guarded, mX] <;> first | omega | (intro w h; simp at h; try omega)

theorem BarF.write_fits (f : BarF) (op : Nat) (ho : op < 64) : (f.write op).Fits := by
  have := (f.la).isLt
  have := (f.d).isLt
  have := (f.base).isLt
  have := (f.b).isLt
  have := f.order.code_lt
  have := f.off.isLt
  have := f.scope.code_lt
  constructor <;> simp only [BarF.write, Raw.plain, mX] <;> first | omega | (intro w h; simp at h; try omega)

theorem CpyF.write_fits (f : CpyF) (op : Nat) (ho : op < 64) : (f.write op).Fits := by
  have := (f.d).isLt
  have := (f.a).isLt
  have := (f.b).isLt
  have := (f.c).isLt
  have := f.dlv.code_lt
  have := f.slv.code_lt
  have := b2n_le f.cnt
  have := b2n_le f.rmt
  have := (f.dstride).isLt
  have := (f.sstride).isLt
  have := (f.objmod).isLt
  constructor <;> simp only [CpyF.write, Raw.plain] <;> first | omega | (intro w h; simp at h; try omega)

theorem TileMvF.write_fits (f : TileMvF) (op : Nat) (ho : op < 64) : (f.write op).Fits := by
  have := (f.t).isLt
  have := (f.base).isLt
  have := (f.pitch).isLt
  have := b2n_le f.side
  have := (f.off).isLt
  constructor <;> simp only [TileMvF.write, Raw.plain] <;> first | omega | (intro w h; simp at h; try omega)

theorem AccMvF.write_fits (f : AccMvF) (op : Nat) (ho : op < 64) : (f.write op).Fits := by
  have := (f.acc).isLt
  have := (f.base).isLt
  have := (f.pitch).isLt
  have := (f.off).isLt
  constructor <;> simp only [AccMvF.write, Raw.plain] <;> first | omega | (intro w h; simp at h; try omega)

theorem MmacF.write_fits (f : MmacF) : (f.write).Fits := by
  have := (f.acc).isLt
  have := (f.tA).isLt
  have := (f.tB).isLt
  have := f.fa.code_lt
  have := f.fb.code_lt
  have := b2n_le f.clr
  have := b2n_le f.ha
  have := b2n_le f.ta
  have := b2n_le f.hb
  have := b2n_le f.tb
  have := b2n_le f.mx
  constructor <;> simp only [MmacF.write, Raw.plain] <;> first | omega | (intro w h; simp at h; try omega)

theorem MmacgF.write_fits (f : MmacgF) : (f.write).Fits := by
  have := (f.acc).isLt
  have := (f.a).isLt
  have := (f.b).isLt
  have := (f.c).isLt
  have := f.fa.code_lt
  have := f.fb.code_lt
  have := b2n_le f.tb
  have := b2n_le f.ta
  have := b2n_le f.mx
  have := b2n_le f.clr
  have := (f.apitch).isLt
  have := (f.bpitch).isLt
  constructor <;> simp only [MmacgF.write, Raw.plain] <;> first | omega | (intro w h; simp at h; try omega)

theorem TcvtF.write_fits (f : TcvtF) : (f.write).Fits := by
  have := (f.t).isLt
  have := (f.acc).isLt
  have := (f.b).isLt
  have := f.fmt.code_lt
  have := f.rnd.code_lt
  have := b2n_le f.h
  have := b2n_le f.sat
  have := b2n_le f.mx
  constructor <;> simp only [TcvtF.write, Raw.plain] <;> first | omega | (intro w h; simp at h; try omega)

theorem FflF.write_fits (f : FflF) (size : Nat) (hz : size < 8) : (f.write size).Fits := by
  have := (f.d).isLt
  have := (f.addr.idx).isLt
  have := f.addr.off.isLt
  have := f.scope.code_lt
  have := f.addr.ix.code_lt
  have := f.addr.base.isLt
  have := b2n_le f.g.pn
  have := f.g.pg.isLt
  constructor <;> simp only [FflF.write, Raw.guarded, mX, MAddr.aField] <;> first | omega | (intro w h; simp at h; try omega)

theorem ShtlF.write_fits (f : ShtlF) (t : Nat) (ht : t < 4096) : (f.write t).Fits := by
  have := (f.la).isLt
  have := (f.d).isLt
  have := (f.a).isLt
  have := (f.b).isLt
  have := (f.c).isLt
  have := (f.nstep).isLt
  have := (f.stepw).isLt
  have := b2n_le f.g.pn
  have := f.g.pg.isLt
  constructor <;> simp only [ShtlF.write, Raw.guarded] <;> first | omega | (intro w h; simp at h; try omega)

end Sys2Proof
end

