-- ==== Sys2Proof/Laws/PerInstr.lean ====
section
/-! SUPPORT. The encoding of each instruction: its fields fit their places, its class and OP are assigned, and the fields
read back give the instruction. One lemma per constructor of Instr. -/

namespace Sys2Proof.Laws.Encodes

/-- What the encoding of an instruction is. -/
def Statement (i : Instr) : Prop :=
  ∀ r, encodeRaw i = some r →
    r.Fits ∧ opAssigned r.cls r.op = true ∧ isWide r.cls r.op = r.w2.isSome ∧ readInstr r = some i

theorem bra (t : BitVec 24) : Statement (.bra t) := by
  intro r0 h
  cases h
  refine ⟨?_, rfl, rfl, ?_⟩
  · have := t.isLt
    constructor <;> simp only [Raw.branch, Raw.plain] <;> first | omega | (intro w h; simp at h)
  · simp [readInstr, readControl, Raw.branch, Raw.plain, Raw.target, target_join]

theorem braDiv (g : Guard) (t : BitVec 24) (r : BitVec 16) : Statement (.braDiv g t r) := by
  intro r0 h
  cases h
  have e1 : bits (r.toNat * 16) 4 16 = r.toNat := by
    have := r.isLt; unfold bits; omega
  refine ⟨?_, rfl, rfl, ?_⟩
  · have := b2n_le g.pn
    have := g.pg.isLt
    have := t.isLt
    have := r.isLt
    constructor <;> simp only [Raw.branch, Raw.plain] <;> first | omega | (intro w h; simp at h)
  · simp [readInstr, readControl, Raw.branch, Raw.plain, Raw.target, target_join, Raw.guard, b2n_beq, e1]

theorem brq (t : BitVec 24) (q : QReg) (qn : Bool) : Statement (.brq t q qn) := by
  intro r0 h
  cases h
  have e1 : bits (q.val * 4 + b2n qn * 2) 2 2 = q.val := by
    have := q.isLt; have := b2n_le qn; unfold bits; omega
  have e2 : bitAt (q.val * 4 + b2n qn * 2) 1 = qn := by
    have := q.isLt; have := b2n_le qn
    have h : (q.val * 4 + b2n qn * 2) / 2 ^ 1 % 2 = b2n qn := by omega
    simp only [bitAt, h, b2n_beq]
  refine ⟨?_, rfl, rfl, ?_⟩
  · have := t.isLt
    have := q.isLt
    have := b2n_le qn
    constructor <;> simp only [Raw.branch, Raw.plain] <;> first | omega | (intro w h; simp at h)
  · simp [readInstr, readControl, Raw.branch, Raw.plain, Raw.target, target_join, e1, e2]

theorem brx (a : SReg) : Statement (.brx a) := by
  intro r0 h
  cases h
  refine ⟨?_, rfl, rfl, ?_⟩
  · have := a.isLt
    constructor <;> simp only [Raw.plain] <;> first | omega | (intro w h; simp at h)
  · simp [readInstr, readControl, Raw.plain]

theorem call (t : BitVec 24) : Statement (.call t) := by
  intro r0 h
  cases h
  refine ⟨?_, rfl, rfl, ?_⟩
  · have := t.isLt
    constructor <;> simp only [Raw.branch, Raw.plain] <;> first | omega | (intro w h; simp at h)
  · simp [readInstr, readControl, Raw.branch, Raw.plain, Raw.target, target_join]

theorem callx (d : VReg) (a : SReg) : Statement (.callx d a) := by
  intro r0 h
  cases h
  refine ⟨?_, rfl, rfl, ?_⟩
  · have := d.isLt
    have := a.isLt
    constructor <;> simp only [Raw.plain] <;> first | omega | (intro w h; simp at h)
  · simp [readInstr, readControl, Raw.plain]

theorem ret (a : VReg) : Statement (.ret a) := by
  intro r0 h
  cases h
  refine ⟨?_, rfl, rfl, ?_⟩
  · have := a.isLt
    constructor <;> simp only [Raw.plain] <;> first | omega | (intro w h; simp at h)
  · simp [readInstr, readControl, Raw.plain]

theorem join : Statement .join := by
  intro r0 h
  cases h
  refine ⟨?_, rfl, rfl, ?_⟩
  · constructor <;> simp only [Raw.plain] <;> first | omega | (intro w h; simp at h)
  · simp [readInstr, readControl, Raw.plain]

theorem exit : Statement .exit := by
  intro r0 h
  cases h
  refine ⟨?_, rfl, rfl, ?_⟩
  · constructor <;> simp only [Raw.plain] <;> first | omega | (intro w h; simp at h)
  · simp [readInstr, readControl, Raw.plain]

theorem nop : Statement .nop := by
  intro r0 h
  cases h
  refine ⟨?_, rfl, rfl, ?_⟩
  · constructor <;> simp only [Raw.plain] <;> first | omega | (intro w h; simp at h)
  · simp [readInstr, readControl, Raw.plain]

theorem sadd (f : SInt) : Statement (.sadd f) := by
  intro r h
  cases h
  refine ⟨SInt.write_fits f 0 (by decide), rfl, rfl, ?_⟩
  exact congrArg (Option.map Instr.sadd) (SInt.read_write f 0)

theorem ssub (f : SInt) : Statement (.ssub f) := by
  intro r h
  cases h
  refine ⟨SInt.write_fits f 1 (by decide), rfl, rfl, ?_⟩
  exact congrArg (Option.map Instr.ssub) (SInt.read_write f 1)

theorem smulLo (f : SInt) : Statement (.smulLo f) := by
  intro r h
  cases h
  refine ⟨SInt.write_fits f 2 (by decide), rfl, rfl, ?_⟩
  exact congrArg (Option.map Instr.smulLo) (SInt.read_write f 2)

theorem smulHi (f : SInt) : Statement (.smulHi f) := by
  intro r h
  cases h
  refine ⟨SInt.write_fits f 3 (by decide), rfl, rfl, ?_⟩
  exact congrArg (Option.map Instr.smulHi) (SInt.read_write f 3)

theorem smad (f : SInt) : Statement (.smad f) := by
  intro r h
  cases h
  refine ⟨SInt.write_fits f 4 (by decide), rfl, rfl, ?_⟩
  exact congrArg (Option.map Instr.smad) (SInt.read_write f 4)

theorem smin (f : SInt) : Statement (.smin f) := by
  intro r h
  cases h
  refine ⟨SInt.write_fits f 5 (by decide), rfl, rfl, ?_⟩
  exact congrArg (Option.map Instr.smin) (SInt.read_write f 5)

theorem smax (f : SInt) : Statement (.smax f) := by
  intro r h
  cases h
  refine ⟨SInt.write_fits f 6 (by decide), rfl, rfl, ?_⟩
  exact congrArg (Option.map Instr.smax) (SInt.read_write f 6)

theorem sabs (f : SInt) : Statement (.sabs f) := by
  intro r h
  cases h
  refine ⟨SInt.write_fits f 7 (by decide), rfl, rfl, ?_⟩
  exact congrArg (Option.map Instr.sabs) (SInt.read_write f 7)

theorem sand (f : SInt) : Statement (.sand f) := by
  intro r h
  cases h
  refine ⟨SInt.write_fits f 8 (by decide), rfl, rfl, ?_⟩
  exact congrArg (Option.map Instr.sand) (SInt.read_write f 8)

theorem sor (f : SInt) : Statement (.sor f) := by
  intro r h
  cases h
  refine ⟨SInt.write_fits f 9 (by decide), rfl, rfl, ?_⟩
  exact congrArg (Option.map Instr.sor) (SInt.read_write f 9)

theorem sxor (f : SInt) : Statement (.sxor f) := by
  intro r h
  cases h
  refine ⟨SInt.write_fits f 10 (by decide), rfl, rfl, ?_⟩
  exact congrArg (Option.map Instr.sxor) (SInt.read_write f 10)

theorem sandn (f : SInt) : Statement (.sandn f) := by
  intro r h
  cases h
  refine ⟨SInt.write_fits f 11 (by decide), rfl, rfl, ?_⟩
  exact congrArg (Option.map Instr.sandn) (SInt.read_write f 11)

theorem snot (f : SInt) : Statement (.snot f) := by
  intro r h
  cases h
  refine ⟨SInt.write_fits f 12 (by decide), rfl, rfl, ?_⟩
  exact congrArg (Option.map Instr.snot) (SInt.read_write f 12)

theorem sshl (f : SInt) : Statement (.sshl f) := by
  intro r h
  cases h
  refine ⟨SInt.write_fits f 13 (by decide), rfl, rfl, ?_⟩
  exact congrArg (Option.map Instr.sshl) (SInt.read_write f 13)

theorem sshr (f : SInt) : Statement (.sshr f) := by
  intro r h
  cases h
  refine ⟨SInt.write_fits f 14 (by decide), rfl, rfl, ?_⟩
  exact congrArg (Option.map Instr.sshr) (SInt.read_write f 14)

theorem ssar (f : SInt) : Statement (.ssar f) := by
  intro r h
  cases h
  refine ⟨SInt.write_fits f 15 (by decide), rfl, rfl, ?_⟩
  exact congrArg (Option.map Instr.ssar) (SInt.read_write f 15)

theorem srot (f : SInt) : Statement (.srot f) := by
  intro r h
  cases h
  refine ⟨SInt.write_fits f 16 (by decide), rfl, rfl, ?_⟩
  exact congrArg (Option.map Instr.srot) (SInt.read_write f 16)

theorem spopc (f : SInt) : Statement (.spopc f) := by
  intro r h
  cases h
  refine ⟨SInt.write_fits f 17 (by decide), rfl, rfl, ?_⟩
  exact congrArg (Option.map Instr.spopc) (SInt.read_write f 17)

theorem sclz (f : SInt) : Statement (.sclz f) := by
  intro r h
  cases h
  refine ⟨SInt.write_fits f 18 (by decide), rfl, rfl, ?_⟩
  exact congrArg (Option.map Instr.sclz) (SInt.read_write f 18)

theorem sctz (f : SInt) : Statement (.sctz f) := by
  intro r h
  cases h
  refine ⟨SInt.write_fits f 19 (by decide), rfl, rfl, ?_⟩
  exact congrArg (Option.map Instr.sctz) (SInt.read_write f 19)

theorem sbrev (f : SInt) : Statement (.sbrev f) := by
  intro r h
  cases h
  refine ⟨SInt.write_fits f 20 (by decide), rfl, rfl, ?_⟩
  exact congrArg (Option.map Instr.sbrev) (SInt.read_write f 20)

theorem sbfe (f : SInt) : Statement (.sbfe f) := by
  intro r h
  cases h
  refine ⟨SInt.write_fits f 21 (by decide), rfl, rfl, ?_⟩
  exact congrArg (Option.map Instr.sbfe) (SInt.read_write f 21)

theorem sbfi (f : SInt) : Statement (.sbfi f) := by
  intro r h
  cases h
  refine ⟨SInt.write_fits f 22 (by decide), rfl, rfl, ?_⟩
  exact congrArg (Option.map Instr.sbfi) (SInt.read_write f 22)

theorem scmp (f : SCmpF) : Statement (.scmp f) := by
  intro r h
  cases h
  refine ⟨SCmpF.write_fits f  , rfl, rfl, ?_⟩
  exact congrArg (Option.map Instr.scmp) (SCmpF.read_write f )

theorem ssel (f : SSelF) : Statement (.ssel f) := by
  intro r h
  cases h
  refine ⟨SSelF.write_fits f  , rfl, rfl, ?_⟩
  exact congrArg (Option.map Instr.ssel) (SSelF.read_write f )

theorem smov (f : SInt) : Statement (.smov f) := by
  intro r h
  cases h
  refine ⟨SInt.write_fits f 25 (by decide), rfl, rfl, ?_⟩
  exact congrArg (Option.map Instr.smov) (SInt.read_write f 25)

theorem smovw (f : SMovwF) : Statement (.smovw f) := by
  intro r h
  cases h
  refine ⟨SMovwF.write_fits f  , rfl, rfl, ?_⟩
  exact congrArg (Option.map Instr.smovw) (SMovwF.read_write f )

theorem slea (f : SInt) : Statement (.slea f) := by
  intro r h
  cases h
  refine ⟨SInt.write_fits f 27 (by decide), rfl, rfl, ?_⟩
  exact congrArg (Option.map Instr.slea) (SInt.read_write f 27)

theorem ssext (f : SInt) : Statement (.ssext f) := by
  intro r h
  cases h
  refine ⟨SInt.write_fits f 28 (by decide), rfl, rfl, ?_⟩
  exact congrArg (Option.map Instr.ssext) (SInt.read_write f 28)

theorem szext (f : SInt) : Statement (.szext f) := by
  intro r h
  cases h
  refine ⟨SInt.write_fits f 29 (by decide), rfl, rfl, ?_⟩
  exact congrArg (Option.map Instr.szext) (SInt.read_write f 29)

theorem saddImm (f : SImmF) : Statement (.saddImm f) := by
  intro r h
  cases h
  refine ⟨SImmF.write_fits f 32 (by decide), rfl, rfl, ?_⟩
  exact congrArg (Option.map Instr.saddImm) (SImmF.read_write f 32)

theorem sandImm (f : SImmF) : Statement (.sandImm f) := by
  intro r h
  cases h
  refine ⟨SImmF.write_fits f 33 (by decide), rfl, rfl, ?_⟩
  exact congrArg (Option.map Instr.sandImm) (SImmF.read_write f 33)

theorem sorImm (f : SImmF) : Statement (.sorImm f) := by
  intro r h
  cases h
  refine ⟨SImmF.write_fits f 34 (by decide), rfl, rfl, ?_⟩
  exact congrArg (Option.map Instr.sorImm) (SImmF.read_write f 34)

theorem sxorImm (f : SImmF) : Statement (.sxorImm f) := by
  intro r h
  cases h
  refine ⟨SImmF.write_fits f 35 (by decide), rfl, rfl, ?_⟩
  exact congrArg (Option.map Instr.sxorImm) (SImmF.read_write f 35)

theorem sshlImm (f : SImmF) : Statement (.sshlImm f) := by
  intro r h
  cases h
  refine ⟨SImmF.write_fits f 36 (by decide), rfl, rfl, ?_⟩
  exact congrArg (Option.map Instr.sshlImm) (SImmF.read_write f 36)

theorem sshrImm (f : SImmF) : Statement (.sshrImm f) := by
  intro r h
  cases h
  refine ⟨SImmF.write_fits f 37 (by decide), rfl, rfl, ?_⟩
  exact congrArg (Option.map Instr.sshrImm) (SImmF.read_write f 37)

theorem ssarImm (f : SImmF) : Statement (.ssarImm f) := by
  intro r h
  cases h
  refine ⟨SImmF.write_fits f 38 (by decide), rfl, rfl, ?_⟩
  exact congrArg (Option.map Instr.ssarImm) (SImmF.read_write f 38)

theorem scmpImm (f : SCmpImmF) : Statement (.scmpImm f) := by
  intro r h
  cases h
  refine ⟨SCmpImmF.write_fits f  , rfl, rfl, ?_⟩
  exact congrArg (Option.map Instr.scmpImm) (SCmpImmF.read_write f )

theorem smovImm (f : SImmF) : Statement (.smovImm f) := by
  intro r h
  cases h
  refine ⟨SImmF.write_fits f 40 (by decide), rfl, rfl, ?_⟩
  exact congrArg (Option.map Instr.smovImm) (SImmF.read_write f 40)

theorem vadd (f : VInt) : Statement (.vadd f) := by
  intro r h
  cases h
  refine ⟨VInt.write_fits f 0 (by decide), rfl, rfl, ?_⟩
  exact congrArg (Option.map Instr.vadd) (VInt.read_write f 0)

theorem vsub (f : VInt) : Statement (.vsub f) := by
  intro r h
  cases h
  refine ⟨VInt.write_fits f 1 (by decide), rfl, rfl, ?_⟩
  exact congrArg (Option.map Instr.vsub) (VInt.read_write f 1)

theorem vmulLo (f : VInt) : Statement (.vmulLo f) := by
  intro r h
  cases h
  refine ⟨VInt.write_fits f 2 (by decide), rfl, rfl, ?_⟩
  exact congrArg (Option.map Instr.vmulLo) (VInt.read_write f 2)

theorem vmulHi (f : VInt) : Statement (.vmulHi f) := by
  intro r h
  cases h
  refine ⟨VInt.write_fits f 3 (by decide), rfl, rfl, ?_⟩
  exact congrArg (Option.map Instr.vmulHi) (VInt.read_write f 3)

theorem vmad (f : VInt) : Statement (.vmad f) := by
  intro r h
  cases h
  refine ⟨VInt.write_fits f 4 (by decide), rfl, rfl, ?_⟩
  exact congrArg (Option.map Instr.vmad) (VInt.read_write f 4)

theorem vmin (f : VInt) : Statement (.vmin f) := by
  intro r h
  cases h
  refine ⟨VInt.write_fits f 5 (by decide), rfl, rfl, ?_⟩
  exact congrArg (Option.map Instr.vmin) (VInt.read_write f 5)

theorem vmax (f : VInt) : Statement (.vmax f) := by
  intro r h
  cases h
  refine ⟨VInt.write_fits f 6 (by decide), rfl, rfl, ?_⟩
  exact congrArg (Option.map Instr.vmax) (VInt.read_write f 6)

theorem vabs (f : VInt) : Statement (.vabs f) := by
  intro r h
  cases h
  refine ⟨VInt.write_fits f 7 (by decide), rfl, rfl, ?_⟩
  exact congrArg (Option.map Instr.vabs) (VInt.read_write f 7)

theorem vand (f : VInt) : Statement (.vand f) := by
  intro r h
  cases h
  refine ⟨VInt.write_fits f 8 (by decide), rfl, rfl, ?_⟩
  exact congrArg (Option.map Instr.vand) (VInt.read_write f 8)

theorem vor (f : VInt) : Statement (.vor f) := by
  intro r h
  cases h
  refine ⟨VInt.write_fits f 9 (by decide), rfl, rfl, ?_⟩
  exact congrArg (Option.map Instr.vor) (VInt.read_write f 9)

theorem vxor (f : VInt) : Statement (.vxor f) := by
  intro r h
  cases h
  refine ⟨VInt.write_fits f 10 (by decide), rfl, rfl, ?_⟩
  exact congrArg (Option.map Instr.vxor) (VInt.read_write f 10)

theorem vandn (f : VInt) : Statement (.vandn f) := by
  intro r h
  cases h
  refine ⟨VInt.write_fits f 11 (by decide), rfl, rfl, ?_⟩
  exact congrArg (Option.map Instr.vandn) (VInt.read_write f 11)

theorem vnot (f : VInt) : Statement (.vnot f) := by
  intro r h
  cases h
  refine ⟨VInt.write_fits f 12 (by decide), rfl, rfl, ?_⟩
  exact congrArg (Option.map Instr.vnot) (VInt.read_write f 12)

theorem vshl (f : VInt) : Statement (.vshl f) := by
  intro r h
  cases h
  refine ⟨VInt.write_fits f 13 (by decide), rfl, rfl, ?_⟩
  exact congrArg (Option.map Instr.vshl) (VInt.read_write f 13)

theorem vshr (f : VInt) : Statement (.vshr f) := by
  intro r h
  cases h
  refine ⟨VInt.write_fits f 14 (by decide), rfl, rfl, ?_⟩
  exact congrArg (Option.map Instr.vshr) (VInt.read_write f 14)

theorem vsar (f : VInt) : Statement (.vsar f) := by
  intro r h
  cases h
  refine ⟨VInt.write_fits f 15 (by decide), rfl, rfl, ?_⟩
  exact congrArg (Option.map Instr.vsar) (VInt.read_write f 15)

theorem vrot (f : VInt) : Statement (.vrot f) := by
  intro r h
  cases h
  refine ⟨VInt.write_fits f 16 (by decide), rfl, rfl, ?_⟩
  exact congrArg (Option.map Instr.vrot) (VInt.read_write f 16)

theorem vpopc (f : VInt) : Statement (.vpopc f) := by
  intro r h
  cases h
  refine ⟨VInt.write_fits f 17 (by decide), rfl, rfl, ?_⟩
  exact congrArg (Option.map Instr.vpopc) (VInt.read_write f 17)

theorem vclz (f : VInt) : Statement (.vclz f) := by
  intro r h
  cases h
  refine ⟨VInt.write_fits f 18 (by decide), rfl, rfl, ?_⟩
  exact congrArg (Option.map Instr.vclz) (VInt.read_write f 18)

theorem vctz (f : VInt) : Statement (.vctz f) := by
  intro r h
  cases h
  refine ⟨VInt.write_fits f 19 (by decide), rfl, rfl, ?_⟩
  exact congrArg (Option.map Instr.vctz) (VInt.read_write f 19)

theorem vbrev (f : VInt) : Statement (.vbrev f) := by
  intro r h
  cases h
  refine ⟨VInt.write_fits f 20 (by decide), rfl, rfl, ?_⟩
  exact congrArg (Option.map Instr.vbrev) (VInt.read_write f 20)

theorem vbfe (f : VInt) : Statement (.vbfe f) := by
  intro r h
  cases h
  refine ⟨VInt.write_fits f 21 (by decide), rfl, rfl, ?_⟩
  exact congrArg (Option.map Instr.vbfe) (VInt.read_write f 21)

theorem vbfi (f : VInt) : Statement (.vbfi f) := by
  intro r h
  cases h
  refine ⟨VInt.write_fits f 22 (by decide), rfl, rfl, ?_⟩
  exact congrArg (Option.map Instr.vbfi) (VInt.read_write f 22)

theorem vcmp (f : VCmpF) : Statement (.vcmp f) := by
  intro r h
  cases h
  refine ⟨VCmpF.write_fits f  , rfl, rfl, ?_⟩
  exact congrArg (Option.map Instr.vcmp) (VCmpF.read_write f )

theorem vsel (f : VSelF) : Statement (.vsel f) := by
  intro r h
  cases h
  refine ⟨VSelF.write_fits f  , rfl, rfl, ?_⟩
  exact congrArg (Option.map Instr.vsel) (VSelF.read_write f )

theorem vmov (f : VInt) : Statement (.vmov f) := by
  intro r h
  cases h
  refine ⟨VInt.write_fits f 25 (by decide), rfl, rfl, ?_⟩
  exact congrArg (Option.map Instr.vmov) (VInt.read_write f 25)

theorem vmovw (f : VMovwF) : Statement (.vmovw f) := by
  intro r h
  cases h
  refine ⟨VMovwF.write_fits f  , rfl, rfl, ?_⟩
  exact congrArg (Option.map Instr.vmovw) (VMovwF.read_write f )

theorem vlea (f : VInt) : Statement (.vlea f) := by
  intro r h
  cases h
  refine ⟨VInt.write_fits f 27 (by decide), rfl, rfl, ?_⟩
  exact congrArg (Option.map Instr.vlea) (VInt.read_write f 27)

theorem vsext (f : VInt) : Statement (.vsext f) := by
  intro r h
  cases h
  refine ⟨VInt.write_fits f 28 (by decide), rfl, rfl, ?_⟩
  exact congrArg (Option.map Instr.vsext) (VInt.read_write f 28)

theorem vzext (f : VInt) : Statement (.vzext f) := by
  intro r h
  cases h
  refine ⟨VInt.write_fits f 29 (by decide), rfl, rfl, ?_⟩
  exact congrArg (Option.map Instr.vzext) (VInt.read_write f 29)

theorem vaddImm (f : VImmF) : Statement (.vaddImm f) := by
  intro r h
  cases h
  refine ⟨VImmF.write_fits f 32 (by decide), rfl, rfl, ?_⟩
  exact congrArg (Option.map Instr.vaddImm) (VImmF.read_write f 32)

theorem vandImm (f : VImmF) : Statement (.vandImm f) := by
  intro r h
  cases h
  refine ⟨VImmF.write_fits f 33 (by decide), rfl, rfl, ?_⟩
  exact congrArg (Option.map Instr.vandImm) (VImmF.read_write f 33)

theorem vorImm (f : VImmF) : Statement (.vorImm f) := by
  intro r h
  cases h
  refine ⟨VImmF.write_fits f 34 (by decide), rfl, rfl, ?_⟩
  exact congrArg (Option.map Instr.vorImm) (VImmF.read_write f 34)

theorem vxorImm (f : VImmF) : Statement (.vxorImm f) := by
  intro r h
  cases h
  refine ⟨VImmF.write_fits f 35 (by decide), rfl, rfl, ?_⟩
  exact congrArg (Option.map Instr.vxorImm) (VImmF.read_write f 35)

theorem vshlImm (f : VImmF) : Statement (.vshlImm f) := by
  intro r h
  cases h
  refine ⟨VImmF.write_fits f 36 (by decide), rfl, rfl, ?_⟩
  exact congrArg (Option.map Instr.vshlImm) (VImmF.read_write f 36)

theorem vshrImm (f : VImmF) : Statement (.vshrImm f) := by
  intro r h
  cases h
  refine ⟨VImmF.write_fits f 37 (by decide), rfl, rfl, ?_⟩
  exact congrArg (Option.map Instr.vshrImm) (VImmF.read_write f 37)

theorem vsarImm (f : VImmF) : Statement (.vsarImm f) := by
  intro r h
  cases h
  refine ⟨VImmF.write_fits f 38 (by decide), rfl, rfl, ?_⟩
  exact congrArg (Option.map Instr.vsarImm) (VImmF.read_write f 38)

theorem vcmpImm (f : VCmpImmF) : Statement (.vcmpImm f) := by
  intro r h
  cases h
  refine ⟨VCmpImmF.write_fits f  , rfl, rfl, ?_⟩
  exact congrArg (Option.map Instr.vcmpImm) (VCmpImmF.read_write f )

theorem vmovImm (f : VImmF) : Statement (.vmovImm f) := by
  intro r h
  cases h
  refine ⟨VImmF.write_fits f 40 (by decide), rfl, rfl, ?_⟩
  exact congrArg (Option.map Instr.vmovImm) (VImmF.read_write f 40)

theorem shflIdx (f : ShflF) : Statement (.shflIdx f) := by
  intro r h
  cases h
  refine ⟨ShflF.write_fits f 0 (by decide), rfl, rfl, ?_⟩
  exact congrArg (Option.map Instr.shflIdx) (ShflF.read_write f 0)

theorem shflUp (f : ShflF) : Statement (.shflUp f) := by
  intro r h
  cases h
  refine ⟨ShflF.write_fits f 1 (by decide), rfl, rfl, ?_⟩
  exact congrArg (Option.map Instr.shflUp) (ShflF.read_write f 1)

theorem shflDn (f : ShflF) : Statement (.shflDn f) := by
  intro r h
  cases h
  refine ⟨ShflF.write_fits f 2 (by decide), rfl, rfl, ?_⟩
  exact congrArg (Option.map Instr.shflDn) (ShflF.read_write f 2)

theorem shflXor (f : ShflF) : Statement (.shflXor f) := by
  intro r h
  cases h
  refine ⟨ShflF.write_fits f 3 (by decide), rfl, rfl, ?_⟩
  exact congrArg (Option.map Instr.shflXor) (ShflF.read_write f 3)

theorem voteAny (f : VoteF) : Statement (.voteAny f) := by
  intro r h
  cases h
  refine ⟨VoteF.write_fits f 4 (by decide), rfl, rfl, ?_⟩
  exact congrArg (Option.map Instr.voteAny) (VoteF.read_write f 4)

theorem voteAll (f : VoteF) : Statement (.voteAll f) := by
  intro r h
  cases h
  refine ⟨VoteF.write_fits f 5 (by decide), rfl, rfl, ?_⟩
  exact congrArg (Option.map Instr.voteAll) (VoteF.read_write f 5)

theorem voteBal (f : BalF) : Statement (.voteBal f) := by
  intro r h
  cases h
  refine ⟨BalF.write_fits f  , rfl, rfl, ?_⟩
  exact congrArg (Option.map Instr.voteBal) (BalF.read_write f )

theorem redux (f : ReduxF) : Statement (.redux f) := by
  intro r h
  cases h
  refine ⟨ReduxF.write_fits f  , rfl, rfl, ?_⟩
  exact congrArg (Option.map Instr.redux) (ReduxF.read_write f )

theorem vtos (f : VtosF) : Statement (.vtos f) := by
  intro r h
  cases h
  refine ⟨VtosF.write_fits f  , rfl, rfl, ?_⟩
  exact congrArg (Option.map Instr.vtos) (VtosF.read_write f )

theorem stov (f : StovF) : Statement (.stov f) := by
  intro r h
  cases h
  refine ⟨StovF.write_fits f  , rfl, rfl, ?_⟩
  exact congrArg (Option.map Instr.stov) (StovF.read_write f )

theorem fadd (f : FltF) : Statement (.fadd f) := by
  intro r h
  cases h
  refine ⟨FltF.write_fits f 0 (by decide), rfl, rfl, ?_⟩
  exact congrArg (Option.map Instr.fadd) (FltF.read_write f 0)

theorem fsub (f : FltF) : Statement (.fsub f) := by
  intro r h
  cases h
  refine ⟨FltF.write_fits f 1 (by decide), rfl, rfl, ?_⟩
  exact congrArg (Option.map Instr.fsub) (FltF.read_write f 1)

theorem fmul (f : FltF) : Statement (.fmul f) := by
  intro r h
  cases h
  refine ⟨FltF.write_fits f 2 (by decide), rfl, rfl, ?_⟩
  exact congrArg (Option.map Instr.fmul) (FltF.read_write f 2)

theorem fma (f : FltF) : Statement (.fma f) := by
  intro r h
  cases h
  refine ⟨FltF.write_fits f 3 (by decide), rfl, rfl, ?_⟩
  exact congrArg (Option.map Instr.fma) (FltF.read_write f 3)

theorem fmin (f : FMinF) : Statement (.fmin f) := by
  intro r h
  cases h
  refine ⟨FMinF.write_fits f 4 (by decide), rfl, rfl, ?_⟩
  exact congrArg (Option.map Instr.fmin) (FMinF.read_write f 4)

theorem fmax (f : FMinF) : Statement (.fmax f) := by
  intro r h
  cases h
  refine ⟨FMinF.write_fits f 5 (by decide), rfl, rfl, ?_⟩
  exact congrArg (Option.map Instr.fmax) (FMinF.read_write f 5)

theorem fcmp (f : FCmpF) : Statement (.fcmp f) := by
  intro r h
  cases h
  refine ⟨FCmpF.write_fits f  , rfl, rfl, ?_⟩
  exact congrArg (Option.map Instr.fcmp) (FCmpF.read_write f )

theorem frcp (f : FltF) : Statement (.frcp f) := by
  intro r h
  cases h
  refine ⟨FltF.write_fits f 7 (by decide), rfl, rfl, ?_⟩
  exact congrArg (Option.map Instr.frcp) (FltF.read_write f 7)

theorem frsq (f : FltF) : Statement (.frsq f) := by
  intro r h
  cases h
  refine ⟨FltF.write_fits f 8 (by decide), rfl, rfl, ?_⟩
  exact congrArg (Option.map Instr.frsq) (FltF.read_write f 8)

theorem fsqrt (f : FltF) : Statement (.fsqrt f) := by
  intro r h
  cases h
  refine ⟨FltF.write_fits f 9 (by decide), rfl, rfl, ?_⟩
  exact congrArg (Option.map Instr.fsqrt) (FltF.read_write f 9)

theorem fex2 (f : FltF) : Statement (.fex2 f) := by
  intro r h
  cases h
  refine ⟨FltF.write_fits f 10 (by decide), rfl, rfl, ?_⟩
  exact congrArg (Option.map Instr.fex2) (FltF.read_write f 10)

theorem flg2 (f : FltF) : Statement (.flg2 f) := by
  intro r h
  cases h
  refine ⟨FltF.write_fits f 11 (by decide), rfl, rfl, ?_⟩
  exact congrArg (Option.map Instr.flg2) (FltF.read_write f 11)

theorem ftanh (f : FltF) : Statement (.ftanh f) := by
  intro r h
  cases h
  refine ⟨FltF.write_fits f 12 (by decide), rfl, rfl, ?_⟩
  exact congrArg (Option.map Instr.ftanh) (FltF.read_write f 12)

theorem fdot4 (f : FDotF) : Statement (.fdot4 f) := by
  intro r h
  cases h
  refine ⟨FDotF.write_fits f  , rfl, rfl, ?_⟩
  exact congrArg (Option.map Instr.fdot4) (FDotF.read_write f )

theorem cvt (f : CvtF) : Statement (.cvt f) := by
  intro r h
  cases h
  refine ⟨CvtF.write_fits f  , rfl, rfl, ?_⟩
  exact congrArg (Option.map Instr.cvt) (CvtF.read_write f )

theorem cvtFi (f : CvtFiF) : Statement (.cvtFi f) := by
  intro r h
  cases h
  refine ⟨CvtFiF.write_fits f  , rfl, rfl, ?_⟩
  exact congrArg (Option.map Instr.cvtFi) (CvtFiF.read_write f )

theorem cvtIf (f : CvtIfF) : Statement (.cvtIf f) := by
  intro r h
  cases h
  refine ⟨CvtIfF.write_fits f  , rfl, rfl, ?_⟩
  exact congrArg (Option.map Instr.cvtIf) (CvtIfF.read_write f )

theorem qblkHist (f : QHistF) : Statement (.qblkHist f) := by
  intro r h
  cases h
  refine ⟨QHistF.write_fits f  , rfl, rfl, ?_⟩
  have e : readInstr f.write = (QHistF.read f.write).map Instr.qblkHist := by
    simp [readInstr, readConvert, QHistF.write, Raw.guarded, bits]
  rw [e, QHistF.read_write f ]
  rfl

theorem qblkClip (f : QClipF) : Statement (.qblkClip f) := by
  intro r h
  cases h
  refine ⟨QClipF.write_fits f  , rfl, rfl, ?_⟩
  have e : readInstr f.write = (QClipF.read f.write).map Instr.qblkClip := by
    simp [readInstr, readConvert, QClipF.write, Raw.guarded, bits]
  rw [e, QClipF.read_write f ]
  rfl

theorem qblkQ (f : QQuantF) : Statement (.qblkQ f) := by
  intro r h
  cases h
  refine ⟨QQuantF.write_fits f  , rfl, rfl, ?_⟩
  have hb : bits (f.c.val * 4096 + f.fmt.code * 16 + f.bsel.val * 4) 10 2 = 0 := by
    have := f.fmt.code_lt; have := f.bsel.isLt
    unfold bits; omega
  show (if bits (f.c.val * 4096 + f.fmt.code * 16 + f.bsel.val * 4) 10 2 == 0 then (QQuantF.read f.write).map Instr.qblkQ else _) = _
  rw [hb, QQuantF.read_write f ]
  rfl

theorem ldl (f : MemF) : Statement (.ldl f) := by
  intro r h
  cases h
  refine ⟨MemF.write_fits f 7 0 (by decide) (by decide), rfl, rfl, ?_⟩
  exact congrArg (Option.map Instr.ldl) (MemF.read_write f 7 0)

theorem stl (f : MemF) : Statement (.stl f) := by
  intro r h
  cases h
  refine ⟨MemF.write_fits f 7 1 (by decide) (by decide), rfl, rfl, ?_⟩
  exact congrArg (Option.map Instr.stl) (MemF.read_write f 7 1)

theorem lds (f : MemF) : Statement (.lds f) := by
  intro r h
  cases h
  refine ⟨MemF.write_fits f 7 2 (by decide) (by decide), rfl, rfl, ?_⟩
  exact congrArg (Option.map Instr.lds) (MemF.read_write f 7 2)

theorem sts (f : MemF) : Statement (.sts f) := by
  intro r h
  cases h
  refine ⟨MemF.write_fits f 7 3 (by decide) (by decide), rfl, rfl, ?_⟩
  exact congrArg (Option.map Instr.sts) (MemF.read_write f 7 3)

theorem ldd (f : MemF) : Statement (.ldd f) := by
  intro r h
  cases h
  refine ⟨MemF.write_fits f 7 4 (by decide) (by decide), rfl, rfl, ?_⟩
  exact congrArg (Option.map Instr.ldd) (MemF.read_write f 7 4)

theorem std (f : MemF) : Statement (.std f) := by
  intro r h
  cases h
  refine ⟨MemF.write_fits f 7 5 (by decide) (by decide), rfl, rfl, ?_⟩
  exact congrArg (Option.map Instr.std) (MemF.read_write f 7 5)

theorem ldk (f : MemF) : Statement (.ldk f) := by
  intro r h
  cases h
  refine ⟨MemF.write_fits f 7 6 (by decide) (by decide), rfl, rfl, ?_⟩
  exact congrArg (Option.map Instr.ldk) (MemF.read_write f 7 6)

theorem stk (f : MemF) : Statement (.stk f) := by
  intro r h
  cases h
  refine ⟨MemF.write_fits f 7 7 (by decide) (by decide), rfl, rfl, ?_⟩
  exact congrArg (Option.map Instr.stk) (MemF.read_write f 7 7)

theorem ldg (f : MemF) : Statement (.ldg f) := by
  intro r h
  cases h
  refine ⟨MemF.write_fits f 8 0 (by decide) (by decide), rfl, rfl, ?_⟩
  exact congrArg (Option.map Instr.ldg) (MemF.read_write f 8 0)

theorem stg (f : MemF) : Statement (.stg f) := by
  intro r h
  cases h
  refine ⟨MemF.write_fits f 8 1 (by decide) (by decide), rfl, rfl, ?_⟩
  exact congrArg (Option.map Instr.stg) (MemF.read_write f 8 1)

theorem ldSpec (f : MemF) : Statement (.ldSpec f) := by
  intro r h
  cases h
  refine ⟨MemF.write_fits f 8 2 (by decide) (by decide), rfl, rfl, ?_⟩
  exact congrArg (Option.map Instr.ldSpec) (MemF.read_write f 8 2)

theorem chk (t : BitVec 24) : Statement (.chk t) := by
  intro r0 h
  cases h
  refine ⟨?_, rfl, rfl, ?_⟩
  · have := t.isLt
    constructor <;> simp only [Raw.branch, Raw.plain] <;> first | omega | (intro w h; simp at h)
  · simp [readInstr, readGlobal, Raw.branch, Raw.plain, Raw.target, target_join]

theorem pf (f : LineF) (l2 : Bool) : Statement (.pf f l2) := by
  intro r h
  cases h
  refine ⟨LineF.write_fits f 4 (b2n l2) (by decide) (by have := b2n_le l2; omega), rfl, rfl, ?_⟩
  have hb : bitAt (mX f.addr.off f.scope f.order.code (b2n l2)) 0 = l2 := by
    have h : mX f.addr.off f.scope f.order.code (b2n l2) / 2 ^ 0 % 2 = b2n l2 := by
      have := b2n_le l2
      have := mX_bit f.addr.off f.scope f.order.code (b2n l2)
      omega
    simp only [bitAt, h, b2n_beq]
  show (LineF.read (f.write 4 (b2n l2))).map (fun g => Instr.pf g (bitAt (mX f.addr.off f.scope f.order.code (b2n l2)) 0)) = _
  rw [LineF.read_write f 4 (b2n l2) (by have := b2n_le l2; omega), hb]
  rfl

theorem cwb (f : LineF) : Statement (.cwb f) := by
  intro r h
  cases h
  refine ⟨LineF.write_fits f 5 0 (by decide) (by decide), rfl, rfl, ?_⟩
  exact congrArg (Option.map Instr.cwb) (LineF.read_write f 5 0 (by decide))

theorem cinv (f : LineF) : Statement (.cinv f) := by
  intro r h
  cases h
  refine ⟨LineF.write_fits f 6 0 (by decide) (by decide), rfl, rfl, ?_⟩
  exact congrArg (Option.map Instr.cinv) (LineF.read_write f 6 0 (by decide))

theorem atomAdd (f : AtomF) : Statement (.atomAdd f) := by
  intro r h
  cases h
  refine ⟨AtomF.write_fits f 0 (by decide), rfl, rfl, ?_⟩
  exact congrArg (Option.map Instr.atomAdd) (AtomF.read_write f 0)

theorem atomMin (f : AtomF) : Statement (.atomMin f) := by
  intro r h
  cases h
  refine ⟨AtomF.write_fits f 1 (by decide), rfl, rfl, ?_⟩
  exact congrArg (Option.map Instr.atomMin) (AtomF.read_write f 1)

theorem atomMax (f : AtomF) : Statement (.atomMax f) := by
  intro r h
  cases h
  refine ⟨AtomF.write_fits f 2 (by decide), rfl, rfl, ?_⟩
  exact congrArg (Option.map Instr.atomMax) (AtomF.read_write f 2)

theorem atomAnd (f : AtomF) : Statement (.atomAnd f) := by
  intro r h
  cases h
  refine ⟨AtomF.write_fits f 3 (by decide), rfl, rfl, ?_⟩
  exact congrArg (Option.map Instr.atomAnd) (AtomF.read_write f 3)

theorem atomOr (f : AtomF) : Statement (.atomOr f) := by
  intro r h
  cases h
  refine ⟨AtomF.write_fits f 4 (by decide), rfl, rfl, ?_⟩
  exact congrArg (Option.map Instr.atomOr) (AtomF.read_write f 4)

theorem atomXor (f : AtomF) : Statement (.atomXor f) := by
  intro r h
  cases h
  refine ⟨AtomF.write_fits f 5 (by decide), rfl, rfl, ?_⟩
  exact congrArg (Option.map Instr.atomXor) (AtomF.read_write f 5)

theorem atomSwap (f : AtomF) : Statement (.atomSwap f) := by
  intro r h
  cases h
  refine ⟨AtomF.write_fits f 6 (by decide), rfl, rfl, ?_⟩
  exact congrArg (Option.map Instr.atomSwap) (AtomF.read_write f 6)

theorem atomCas (f : AtomF) : Statement (.atomCas f) := by
  intro r h
  cases h
  refine ⟨AtomF.write_fits f 7 (by decide), rfl, rfl, ?_⟩
  exact congrArg (Option.map Instr.atomCas) (AtomF.read_write f 7)

theorem atomFaddF32 (f : AtomFF) : Statement (.atomFaddF32 f) := by
  intro r h
  cases h
  refine ⟨AtomFF.write_fits f 8 (by decide), rfl, rfl, ?_⟩
  exact congrArg (Option.map Instr.atomFaddF32) (AtomFF.read_write f 8)

theorem atomFaddBf16 (f : AtomFF) : Statement (.atomFaddBf16 f) := by
  intro r h
  cases h
  refine ⟨AtomFF.write_fits f 9 (by decide), rfl, rfl, ?_⟩
  exact congrArg (Option.map Instr.atomFaddBf16) (AtomFF.read_write f 9)

theorem redAdd (f : AtomF) : Statement (.redAdd f) := by
  intro r h
  cases h
  refine ⟨AtomF.write_fits f 16 (by decide), rfl, rfl, ?_⟩
  exact congrArg (Option.map Instr.redAdd) (AtomF.read_write f 16)

theorem redMin (f : AtomF) : Statement (.redMin f) := by
  intro r h
  cases h
  refine ⟨AtomF.write_fits f 17 (by decide), rfl, rfl, ?_⟩
  exact congrArg (Option.map Instr.redMin) (AtomF.read_write f 17)

theorem redMax (f : AtomF) : Statement (.redMax f) := by
  intro r h
  cases h
  refine ⟨AtomF.write_fits f 18 (by decide), rfl, rfl, ?_⟩
  exact congrArg (Option.map Instr.redMax) (AtomF.read_write f 18)

theorem redAnd (f : AtomF) : Statement (.redAnd f) := by
  intro r h
  cases h
  refine ⟨AtomF.write_fits f 19 (by decide), rfl, rfl, ?_⟩
  exact congrArg (Option.map Instr.redAnd) (AtomF.read_write f 19)

theorem redOr (f : AtomF) : Statement (.redOr f) := by
  intro r h
  cases h
  refine ⟨AtomF.write_fits f 20 (by decide), rfl, rfl, ?_⟩
  exact congrArg (Option.map Instr.redOr) (AtomF.read_write f 20)

theorem redXor (f : AtomF) : Statement (.redXor f) := by
  intro r h
  cases h
  refine ⟨AtomF.write_fits f 21 (by decide), rfl, rfl, ?_⟩
  exact congrArg (Option.map Instr.redXor) (AtomF.read_write f 21)

theorem redFaddF32 (f : AtomFF) : Statement (.redFaddF32 f) := by
  intro r h
  cases h
  refine ⟨AtomFF.write_fits f 22 (by decide), rfl, rfl, ?_⟩
  exact congrArg (Option.map Instr.redFaddF32) (AtomFF.read_write f 22)

theorem redFaddBf16 (f : AtomFF) : Statement (.redFaddBf16 f) := by
  intro r h
  cases h
  refine ⟨AtomFF.write_fits f 23 (by decide), rfl, rfl, ?_⟩
  exact congrArg (Option.map Instr.redFaddBf16) (AtomFF.read_write f 23)

theorem lck (f : LckF) : Statement (.lck f) := by
  intro r h
  cases h
  refine ⟨LckF.write_fits f 32 (by decide), rfl, rfl, ?_⟩
  exact congrArg (Option.map Instr.lck) (LckF.read_write f 32)

theorem lckTry (f : LckF) : Statement (.lckTry f) := by
  intro r h
  cases h
  refine ⟨LckF.write_fits f 33 (by decide), rfl, rfl, ?_⟩
  exact congrArg (Option.map Instr.lckTry) (LckF.read_write f 33)

theorem unlk (f : UnlkF) : Statement (.unlk f) := by
  intro r h
  cases h
  refine ⟨UnlkF.write_fits f  , rfl, rfl, ?_⟩
  exact congrArg (Option.map Instr.unlk) (UnlkF.read_write f )

theorem barInit (f : BarF) : Statement (.barInit f) := by
  intro r h
  cases h
  refine ⟨BarF.write_fits f 0 (by decide), rfl, rfl, ?_⟩
  exact congrArg (Option.map Instr.barInit) (BarF.read_write f 0)

theorem barArrive (f : BarF) : Statement (.barArrive f) := by
  intro r h
  cases h
  refine ⟨BarF.write_fits f 1 (by decide), rfl, rfl, ?_⟩
  exact congrArg (Option.map Instr.barArrive) (BarF.read_write f 1)

theorem barExpect (f : BarF) : Statement (.barExpect f) := by
  intro r h
  cases h
  refine ⟨BarF.write_fits f 2 (by decide), rfl, rfl, ?_⟩
  exact congrArg (Option.map Instr.barExpect) (BarF.read_write f 2)

theorem barWait (f : BarF) : Statement (.barWait f) := by
  intro r h
  cases h
  refine ⟨BarF.write_fits f 3 (by decide), rfl, rfl, ?_⟩
  exact congrArg (Option.map Instr.barWait) (BarF.read_write f 3)

theorem barTest (f : BarF) : Statement (.barTest f) := by
  intro r h
  cases h
  refine ⟨BarF.write_fits f 4 (by decide), rfl, rfl, ?_⟩
  exact congrArg (Option.map Instr.barTest) (BarF.read_write f 4)

theorem fenceAcq (sc : Scope) : Statement (.fenceAcq sc) := by
  intro r0 h
  cases h
  have e1 : bits (sc.code * 32) 5 3 = sc.code := by
    have := sc.code_lt; unfold bits; omega
  refine ⟨?_, rfl, rfl, ?_⟩
  · have := sc.code_lt
    constructor <;> simp only [Raw.plain] <;> first | omega | (intro w h; simp at h)
  · simp [readInstr, readBarrier, Raw.plain, Raw.scope, e1]

theorem fenceRel (sc : Scope) : Statement (.fenceRel sc) := by
  intro r0 h
  cases h
  have e1 : bits (sc.code * 32) 5 3 = sc.code := by
    have := sc.code_lt; unfold bits; omega
  refine ⟨?_, rfl, rfl, ?_⟩
  · have := sc.code_lt
    constructor <;> simp only [Raw.plain] <;> first | omega | (intro w h; simp at h)
  · simp [readInstr, readBarrier, Raw.plain, Raw.scope, e1]

theorem fenceFull (sc : Scope) : Statement (.fenceFull sc) := by
  intro r0 h
  cases h
  have e1 : bits (sc.code * 32) 5 3 = sc.code := by
    have := sc.code_lt; unfold bits; omega
  refine ⟨?_, rfl, rfl, ?_⟩
  · have := sc.code_lt
    constructor <;> simp only [Raw.plain] <;> first | omega | (intro w h; simp at h)
  · simp [readInstr, readBarrier, Raw.plain, Raw.scope, e1]

theorem fenceX (src dst : Path) (sc : Scope) : Statement (.fenceX src dst sc) := by
  intro r0 h
  cases h
  have e1 : bits (src.code * 2048 + dst.code * 256 + sc.code * 32) 11 3 = src.code := by
    have := src.code_lt; have := dst.code_lt; have := sc.code_lt; unfold bits; omega
  have e2 : bits (src.code * 2048 + dst.code * 256 + sc.code * 32) 8 3 = dst.code := by
    have := src.code_lt; have := dst.code_lt; have := sc.code_lt; unfold bits; omega
  have e3 : bits (src.code * 2048 + dst.code * 256 + sc.code * 32) 5 3 = sc.code := by
    have := src.code_lt; have := dst.code_lt; have := sc.code_lt; unfold bits; omega
  refine ⟨?_, rfl, rfl, ?_⟩
  · have := src.code_lt
    have := dst.code_lt
    have := sc.code_lt
    constructor <;> simp only [Raw.plain] <;> first | omega | (intro w h; simp at h)
  · simp [readInstr, readBarrier, Raw.plain, Raw.scope, e1, e2, e3]

theorem cpy (f : CpyF) : Statement (.cpy f) := by
  intro r h
  cases h
  refine ⟨CpyF.write_fits f 0 (by decide), rfl, rfl, ?_⟩
  exact congrArg (Option.map Instr.cpy) (CpyF.read_write f 0)

theorem cpy2d (f : CpyF) : Statement (.cpy2d f) := by
  intro r h
  cases h
  refine ⟨CpyF.write_fits f 1 (by decide), rfl, rfl, ?_⟩
  exact congrArg (Option.map Instr.cpy2d) (CpyF.read_write f 1)

theorem cpyWait (d : SReg) (n : Fin 16) : Statement (.cpyWait d n) := by
  intro r0 h
  cases h
  have e1 : n.val % 16 = n.val := by
    have := n.isLt; omega
  refine ⟨?_, rfl, rfl, ?_⟩
  · have := d.isLt
    have := n.isLt
    constructor <;> simp only [Raw.plain] <;> first | omega | (intro w h; simp at h)
  · simp [readInstr, readCopy, Raw.plain, e1]

theorem tld (f : TileMvF) : Statement (.tld f) := by
  intro r h
  cases h
  refine ⟨TileMvF.write_fits f 0 (by decide), rfl, rfl, ?_⟩
  exact congrArg (Option.map Instr.tld) (TileMvF.read_write f 0)

theorem tst (f : TileMvF) : Statement (.tst f) := by
  intro r h
  cases h
  refine ⟨TileMvF.write_fits f 1 (by decide), rfl, rfl, ?_⟩
  exact congrArg (Option.map Instr.tst) (TileMvF.read_write f 1)

theorem tzero (acc : Bool) (i : Fin 8) : Statement (.tzero acc i) := by
  intro r0 h
  cases h
  have e1 : bitAt (b2n acc * 8 + i.val) 3 = acc := by
    have := i.isLt; have := b2n_le acc
    have h : (b2n acc * 8 + i.val) / 2 ^ 3 % 2 = b2n acc := by omega
    simp only [bitAt, h, b2n_beq]
  have e2 : (b2n acc * 8 + i.val) % 8 = i.val := by
    have := i.isLt; omega
  refine ⟨?_, rfl, rfl, ?_⟩
  · have := b2n_le acc
    have := i.isLt
    constructor <;> simp only [Raw.plain] <;> first | omega | (intro w h; simp at h)
  · simp [readInstr, readTile, Raw.plain, e1, e2]

theorem mmac (f : MmacF) : Statement (.mmac f) := by
  intro r h
  cases h
  refine ⟨MmacF.write_fits f  , rfl, rfl, ?_⟩
  exact congrArg (Option.map Instr.mmac) (MmacF.read_write f )

theorem mmacg (f : MmacgF) : Statement (.mmacg f) := by
  intro r h
  cases h
  refine ⟨MmacgF.write_fits f  , rfl, rfl, ?_⟩
  exact congrArg (Option.map Instr.mmacg) (MmacgF.read_write f )

theorem taccLd (f : AccMvF) : Statement (.taccLd f) := by
  intro r h
  cases h
  refine ⟨AccMvF.write_fits f 5 (by decide), rfl, rfl, ?_⟩
  exact congrArg (Option.map Instr.taccLd) (AccMvF.read_write f 5)

theorem taccSt (f : AccMvF) : Statement (.taccSt f) := by
  intro r h
  cases h
  refine ⟨AccMvF.write_fits f 6 (by decide), rfl, rfl, ?_⟩
  exact congrArg (Option.map Instr.taccSt) (AccMvF.read_write f 6)

theorem tcvt (f : TcvtF) : Statement (.tcvt f) := by
  intro r h
  cases h
  refine ⟨TcvtF.write_fits f  , rfl, rfl, ?_⟩
  exact congrArg (Option.map Instr.tcvt) (TcvtF.read_write f )

theorem tileOpExecute (k : CoreKey) : Statement (.tileOpExecute k) := by
  intro r h
  cases h

theorem mmacgChunk (k : CoreKey) : Statement (.mmacgChunk k) := by
  intro r h
  cases h

theorem stAck (f : MemF) : Statement (.stAck f) := by
  intro r h
  cases h
  refine ⟨MemF.write_fits f 13 0 (by decide) (by decide), rfl, rfl, ?_⟩
  exact congrArg (Option.map Instr.stAck) (MemF.read_write f 13 0)

theorem fflArr (f : FflF) : Statement (.fflArr f) := by
  intro r h
  cases h
  refine ⟨FflF.write_fits f 0 (by decide), rfl, rfl, ?_⟩
  have hb := mX_size f.addr.off f.scope 0 0 (by decide)
  show (if mX f.addr.off f.scope 0 0 % 8 == 0 then (FflF.read (f.write 0)).map Instr.fflArr else _) = _
  rw [hb, FflF.read_write f 0 (by decide)]
  rfl

theorem fflB32 (f : FflF) : Statement (.fflB32 f) := by
  intro r h
  cases h
  refine ⟨FflF.write_fits f 4 (by decide), rfl, rfl, ?_⟩
  have hb := mX_size f.addr.off f.scope 0 4 (by decide)
  show (if mX f.addr.off f.scope 0 4 % 8 == 0 then _ else if mX f.addr.off f.scope 0 4 % 8 == 4 then
    (FflF.read (f.write 4)).map Instr.fflB32 else _) = _
  rw [hb, FflF.read_write f 4 (by decide)]
  rfl

theorem fflB64 (f : FflF) : Statement (.fflB64 f) := by
  intro r h
  cases h
  refine ⟨FflF.write_fits f 5 (by decide), rfl, rfl, ?_⟩
  have hb := mX_size f.addr.off f.scope 0 5 (by decide)
  show (if mX f.addr.off f.scope 0 5 % 8 == 0 then _ else if mX f.addr.off f.scope 0 5 % 8 == 4 then _ else
    (FflF.read (f.write 5)).map Instr.fflB64) = _
  rw [hb, FflF.read_write f 5 (by decide)]
  rfl

theorem shtl (f : ShtlF) : Statement (.shtl f) := by
  intro r h
  cases h
  refine ⟨ShtlF.write_fits f 0 (by decide), rfl, rfl, ?_⟩
  have hb : (f.c.val * 4096 + 0) % 2 = 0 := by omega
  show (if (f.c.val * 4096 + 0) % 2 == 0 then (ShtlF.read (f.write 0)).map Instr.shtl else _) = _
  rw [hb, ShtlF.read_write f 0 (by decide)]
  rfl

theorem shtlT (f : ShtlF) : Statement (.shtlT f) := by
  intro r h
  cases h
  refine ⟨ShtlF.write_fits f 1 (by decide), rfl, rfl, ?_⟩
  have hb : (f.c.val * 4096 + 1) % 2 = 1 := by omega
  show (if (f.c.val * 4096 + 1) % 2 == 0 then _ else (ShtlF.read (f.write 1)).map Instr.shtlT) = _
  rw [hb, ShtlF.read_write f 1 (by decide)]
  rfl

theorem collAg (d p : SReg) : Statement (.collAg d p) := by
  intro r0 h
  cases h
  refine ⟨?_, rfl, rfl, ?_⟩
  · have := d.isLt
    have := p.isLt
    constructor <;> simp only [Raw.plain] <;> first | omega | (intro w h; simp at h)
  · simp [readInstr, readPod, Raw.plain]

theorem collRs (d p : SReg) : Statement (.collRs d p) := by
  intro r0 h
  cases h
  refine ⟨?_, rfl, rfl, ?_⟩
  · have := d.isLt
    have := p.isLt
    constructor <;> simp only [Raw.plain] <;> first | omega | (intro w h; simp at h)
  · simp [readInstr, readPod, Raw.plain]

theorem collAr (d p : SReg) : Statement (.collAr d p) := by
  intro r0 h
  cases h
  refine ⟨?_, rfl, rfl, ?_⟩
  · have := d.isLt
    have := p.isLt
    constructor <;> simp only [Raw.plain] <;> first | omega | (intro w h; simp at h)
  · simp [readInstr, readPod, Raw.plain]

theorem collBc (d p : SReg) : Statement (.collBc d p) := by
  intro r0 h
  cases h
  refine ⟨?_, rfl, rfl, ?_⟩
  · have := d.isLt
    have := p.isLt
    constructor <;> simp only [Raw.plain] <;> first | omega | (intro w h; simp at h)
  · simp [readInstr, readPod, Raw.plain]

theorem shg (a : SReg) : Statement (.shg a) := by
  intro r0 h
  cases h
  refine ⟨?_, rfl, rfl, ?_⟩
  · have := a.isLt
    constructor <;> simp only [Raw.plain] <;> first | omega | (intro w h; simp at h)
  · simp [readInstr, readShard, Raw.plain]

theorem shev (a b : SReg) : Statement (.shev a b) := by
  intro r0 h
  cases h
  refine ⟨?_, rfl, rfl, ?_⟩
  · have := a.isLt
    have := b.isLt
    constructor <;> simp only [Raw.plain] <;> first | omega | (intro w h; simp at h)
  · simp [readInstr, readShard, Raw.plain]

theorem shq (la : Fin 16) (d a : SReg) : Statement (.shq la d a) := by
  intro r0 h
  cases h
  refine ⟨?_, rfl, rfl, ?_⟩
  · have := la.isLt
    have := d.isLt
    have := a.isLt
    constructor <;> simp only [Raw.plain] <;> first | omega | (intro w h; simp at h)
  · simp [readInstr, readShard, Raw.plain]

theorem pgq (la : Fin 16) (d a : SReg) : Statement (.pgq la d a) := by
  intro r0 h
  cases h
  refine ⟨?_, rfl, rfl, ?_⟩
  · have := la.isLt
    have := d.isLt
    have := a.isLt
    constructor <;> simp only [Raw.plain] <;> first | omega | (intro w h; simp at h)
  · simp [readInstr, readShard, Raw.plain]

theorem trap (code : BitVec 12) : Statement (.trap code) := by
  intro r0 h
  cases h
  refine ⟨?_, rfl, rfl, ?_⟩
  · have := code.isLt
    constructor <;> simp only [Raw.plain] <;> first | omega | (intro w h; simp at h)
  · simp [readInstr, readSystem, Raw.plain]

theorem rfh : Statement .rfh := by
  intro r0 h
  cases h
  refine ⟨?_, rfl, rfl, ?_⟩
  · constructor <;> simp only [Raw.plain] <;> first | omega | (intro w h; simp at h)
  · simp [readInstr, readSystem, Raw.plain]

theorem mfs (d : Fin 256) (n : BitVec 12) : Statement (.mfs d n) := by
  intro r0 h
  cases h
  refine ⟨?_, rfl, rfl, ?_⟩
  · have := d.isLt
    have := n.isLt
    constructor <;> simp only [Raw.plain] <;> first | omega | (intro w h; simp at h)
  · simp [readInstr, readSystem, Raw.plain]

theorem mts (a : Fin 256) (n : BitVec 12) : Statement (.mts a n) := by
  intro r0 h
  cases h
  refine ⟨?_, rfl, rfl, ?_⟩
  · have := a.isLt
    have := n.isLt
    constructor <;> simp only [Raw.plain] <;> first | omega | (intro w h; simp at h)
  · simp [readInstr, readSystem, Raw.plain]

theorem launch (la : Fin 16) (d a b : SReg) : Statement (.launch la d a b) := by
  intro r0 h
  cases h
  refine ⟨?_, rfl, rfl, ?_⟩
  · have := la.isLt
    have := d.isLt
    have := a.isLt
    have := b.isLt
    constructor <;> simp only [Raw.plain] <;> first | omega | (intro w h; simp at h)
  · simp [readInstr, readSystem, Raw.plain]

theorem evsig (a : SReg) : Statement (.evsig a) := by
  intro r0 h
  cases h
  refine ⟨?_, rfl, rfl, ?_⟩
  · have := a.isLt
    constructor <;> simp only [Raw.plain] <;> first | omega | (intro w h; simp at h)
  · simp [readInstr, readSystem, Raw.plain]

theorem qpop (la : Fin 16) (d a : SReg) : Statement (.qpop la d a) := by
  intro r0 h
  cases h
  refine ⟨?_, rfl, rfl, ?_⟩
  · have := la.isLt
    have := d.isLt
    have := a.isLt
    constructor <;> simp only [Raw.plain] <;> first | omega | (intro w h; simp at h)
  · simp [readInstr, readSystem, Raw.plain]

theorem qpopNb (la : Fin 16) (d a : SReg) : Statement (.qpopNb la d a) := by
  intro r0 h
  cases h
  refine ⟨?_, rfl, rfl, ?_⟩
  · have := la.isLt
    have := d.isLt
    have := a.isLt
    constructor <;> simp only [Raw.plain] <;> first | omega | (intro w h; simp at h)
  · simp [readInstr, readSystem, Raw.plain]

theorem bkpt (code : BitVec 12) : Statement (.bkpt code) := by
  intro r0 h
  cases h
  refine ⟨?_, rfl, rfl, ?_⟩
  · have := code.isLt
    constructor <;> simp only [Raw.plain] <;> first | omega | (intro w h; simp at h)
  · simp [readInstr, readDebug, Raw.plain]

theorem trc (a : SReg) (tag : BitVec 12) : Statement (.trc a tag) := by
  intro r0 h
  cases h
  refine ⟨?_, rfl, rfl, ?_⟩
  · have := a.isLt
    have := tag.isLt
    constructor <;> simp only [Raw.plain] <;> first | omega | (intro w h; simp at h)
  · simp [readInstr, readDebug, Raw.plain]

theorem smark (tag : BitVec 12) : Statement (.smark tag) := by
  intro r0 h
  cases h
  refine ⟨?_, rfl, rfl, ?_⟩
  · have := tag.isLt
    constructor <;> simp only [Raw.plain] <;> first | omega | (intro w h; simp at h)
  · simp [readInstr, readDebug, Raw.plain]

theorem instructionFetch : Statement .instructionFetch := by
  intro r h
  cases h

theorem resultLand (k : GKey) (fl : Nat) : Statement (.resultLand k fl) := by
  intro r h
  cases h

theorem lateTrapTake : Statement .lateTrapTake := by
  intro r h
  cases h

theorem read (k : GKey) (fl part : Nat) : Statement (.read k fl part) := by
  intro r h
  cases h

theorem fill (k : GKey) (line : Nat) : Statement (.fill k line) := by
  intro r h
  cases h

theorem drain (k : GKey) (e : Nat) : Statement (.drain k e) := by
  intro r h
  cases h

theorem perform (w : PerfRef) : Statement (.perform w) := by
  intro r h
  cases h

theorem storeAck (k : GKey) (e : Nat) : Statement (.storeAck k e) := by
  intro r h
  cases h

theorem atomReply (k : GKey) (fl : Nat) : Statement (.atomReply k fl) := by
  intro r h
  cases h

theorem redEntryApply (line : Nat) : Statement (.redEntryApply line) := by
  intro r h
  cases h

theorem movedResend (k : GKey) (e : Nat) : Statement (.movedResend k e) := by
  intro r h
  cases h

theorem engine (e : EngRef) (piece : Nat) : Statement (.engine e piece) := by
  intro r h
  cases h

theorem land (i : Nat) : Statement (.land i) := by
  intro r h
  cases h

theorem barrier (i : Nat) : Statement (.barrier i) := by
  intro r h
  cases h

theorem deliver (r : Nat) : Statement (.deliver r) := by
  intro r h
  cases h

theorem resolve (k : CoreKey) (e : Nat) : Statement (.resolve k e) := by
  intro r h
  cases h

theorem tick : Statement .tick := by
  intro r h
  cases h

theorem expiredCopyDrop (d : DieKey) (line : Nat) : Statement (.expiredCopyDrop d line) := by
  intro r h
  cases h

theorem save (team : Nat) : Statement (.save team) := by
  intro r h
  cases h

theorem restore (team : Nat) : Statement (.restore team) := by
  intro r h
  cases h

theorem teamMakeResident (k : CtxKey) : Statement (.teamMakeResident k) := by
  intro r h
  cases h

theorem quantumExpiry (team : Nat) : Statement (.quantumExpiry team) := by
  intro r h
  cases h

theorem remoteLoadBlock (k : GKey) (fl : Nat) : Statement (.remoteLoadBlock k fl) := by
  intro r h
  cases h

theorem faultReplay (k : GKey) : Statement (.faultReplay k) := by
  intro r h
  cases h

theorem carveChange (k : CoreKey) (grid : Nat) : Statement (.carveChange k grid) := by
  intro r h
  cases h

theorem lockRequest (k : GKey) (fl : Nat) : Statement (.lockRequest k fl) := by
  intro r h
  cases h

theorem lockGrant (line : Nat) : Statement (.lockGrant line) := by
  intro r h
  cases h

theorem lockHandoff (line : Nat) : Statement (.lockHandoff line) := by
  intro r h
  cases h

theorem resUpdate (line waiter : Nat) (res : Bool) : Statement (.resUpdate line waiter res) := by
  intro r h
  cases h

theorem lckTryTimeout (line waiter : Nat) : Statement (.lckTryTimeout line waiter) := by
  intro r h
  cases h

theorem deadlockProbe (line waiter : Nat) : Statement (.deadlockProbe line waiter) := by
  intro r h
  cases h

theorem lockTimeout (k : GKey) (line : Nat) : Statement (.lockTimeout k line) := by
  intro r h
  cases h

theorem proxyReadMiss (m line : Nat) : Statement (.proxyReadMiss m line) := by
  intro r h
  cases h

theorem invalidate (m line : Nat) : Statement (.invalidate m line) := by
  intro r h
  cases h

theorem invalidateAck (m line : Nat) : Statement (.invalidateAck m line) := by
  intro r h
  cases h

theorem proxyEvict (m line : Nat) : Statement (.proxyEvict m line) := by
  intro r h
  cases h

theorem requestResend (r : Nat) : Statement (.requestResend r) := by
  intro r h
  cases h

theorem requestFail (r : Nat) : Statement (.requestFail r) := by
  intro r h
  cases h

theorem lateReply (r : Nat) : Statement (.lateReply r) := by
  intro r h
  cases h

theorem ackSend (i : Nat) : Statement (.ackSend i) := by
  intro r h
  cases h

theorem flagApply (i : Nat) : Statement (.flagApply i) := by
  intro r h
  cases h

theorem shuttleStep (i : Nat) : Statement (.shuttleStep i) := by
  intro r h
  cases h

theorem shuttleReturn (k : GKey) (fl : Nat) : Statement (.shuttleReturn k fl) := by
  intro r h
  cases h

theorem collStreamReceive (i : Nat) : Statement (.collStreamReceive i) := by
  intro r h
  cases h

theorem collFail (op : Nat) (cause : CollCause) : Statement (.collFail op cause) := by
  intro r h
  cases h

theorem gtimerMatch (k : GKey) : Statement (.gtimerMatch k) := by
  intro r h
  cases h

theorem deadline (k : GKey) : Statement (.deadline k) := by
  intro r h
  cases h

theorem hostTailWrite (k : CtxKey) (q : Nat) (v : DWord) : Statement (.hostTailWrite k q v) := by
  intro r h
  cases h

theorem hostAccess (a : HostAcc) : Statement (.hostAccess a) := by
  intro r h
  cases h

theorem qpopWake (k : GKey) (fl : Nat) : Statement (.qpopWake k fl) := by
  intro r h
  cases h

theorem launchPacket (k : CtxKey) (q : Nat) : Statement (.launchPacket k q) := by
  intro r h
  cases h

theorem waitEvent (k : CtxKey) (q : Nat) : Statement (.waitEvent k q) := by
  intro r h
  cases h

theorem signalEvent (k : CtxKey) (q : Nat) : Statement (.signalEvent k q) := by
  intro r h
  cases h

theorem fencePacket (k : CtxKey) (q : Nat) : Statement (.fencePacket k q) := by
  intro r h
  cases h

theorem markArm (k : CtxKey) (q : Nat) : Statement (.markArm k q) := by
  intro r h
  cases h

theorem markDisarm (k : CtxKey) (q : Nat) : Statement (.markDisarm k q) := by
  intro r h
  cases h

theorem markStart (k : CtxKey) (q : Nat) : Statement (.markStart k q) := by
  intro r h
  cases h

theorem markFreeze (k : CtxKey) (q : Nat) : Statement (.markFreeze k q) := by
  intro r h
  cases h

theorem markEvent (k : CtxKey) (q : Nat) : Statement (.markEvent k q) := by
  intro r h
  cases h

theorem gridComplete (grid : Nat) : Statement (.gridComplete grid) := by
  intro r h
  cases h

theorem eventActivate (k : CtxKey) (id : Nat) : Statement (.eventActivate k id) := by
  intro r h
  cases h

theorem eventDeactivate (m id : Nat) : Statement (.eventDeactivate m id) := by
  intro r h
  cases h

theorem partitionRecompute (m : Nat) : Statement (.partitionRecompute m) := by
  intro r h
  cases h

theorem contextCreate (p : CtxParams) : Statement (.contextCreate p) := by
  intro r h
  cases h

theorem contextTeardown (k : CtxKey) : Statement (.contextTeardown k) := by
  intro r h
  cases h

theorem queueCreate (p : QueueParams) : Statement (.queueCreate p) := by
  intro r h
  cases h

theorem jobFormation (p : JobParams) : Statement (.jobFormation p) := by
  intro r h
  cases h

theorem jobEnd : Statement .jobEnd := by
  intro r h
  cases h

theorem opticalReconfigure (groups : List (Nat × BitVec 16)) : Statement (.opticalReconfigure groups) := by
  intro r h
  cases h

theorem islandSet (m island : Nat) (v : IslandLevel) : Statement (.islandSet m island v) := by
  intro r h
  cases h

theorem dieLost (m d : Nat) : Statement (.dieLost m d) := by
  intro r h
  cases h

theorem moduleLost (m : Nat) : Statement (.moduleLost m) := by
  intro r h
  cases h

theorem powerOn (m : Nat) : Statement (.powerOn m) := by
  intro r h
  cases h

theorem reset (m : Nat) : Statement (.reset m) := by
  intro r h
  cases h

theorem lifecycleChange (m : Nat) (st : LifeCycle) : Statement (.lifecycleChange m st) := by
  intro r h
  cases h

theorem getMeasurements (m : Nat) : Statement (.getMeasurements m) := by
  intro r h
  cases h

theorem usageRecordEmit (k : CtxKey) : Statement (.usageRecordEmit k) := by
  intro r h
  cases h

theorem interimRecord (k : CtxKey) : Statement (.interimRecord k) := by
  intro r h
  cases h

theorem recordAck (m rseq : Nat) : Statement (.recordAck m rseq) := by
  intro r h
  cases h

theorem pageWalk (d : DieKey) (k : CtxKey) (va : DWord) (kind : AccKind) : Statement (.pageWalk d k va kind) := by
  intro r h
  cases h

theorem absentAllocate (k : CtxKey) (va : DWord) : Statement (.absentAllocate k va) := by
  intro r h
  cases h

theorem gatherStart (k : CtxKey) (va : DWord) : Statement (.gatherStart k va) := by
  intro r h
  cases h

theorem slReq (r : Nat) : Statement (.slReq r) := by
  intro r h
  cases h

theorem slData (r : Nat) : Statement (.slData r) := by
  intro r h
  cases h

theorem slNak (r : Nat) : Statement (.slNak r) := by
  intro r h
  cases h

theorem contrib (r : Nat) : Statement (.contrib r) := by
  intro r h
  cases h

theorem cnAck (r : Nat) : Statement (.cnAck r) := by
  intro r h
  cases h

theorem cnFull (r : Nat) : Statement (.cnFull r) := by
  intro r h
  cases h

theorem cnNak (r : Nat) : Statement (.cnNak r) := by
  intro r h
  cases h

theorem roundCommit (k : CtxKey) (sg page slice : Nat) : Statement (.roundCommit k sg page slice) := by
  intro r h
  cases h

theorem drainStart (k : CtxKey) (va : DWord) : Statement (.drainStart k va) := by
  intro r h
  cases h

theorem poolPressure (k : CtxKey) : Statement (.poolPressure k) := by
  intro r h
  cases h

theorem frameReturn (k : CtxKey) (frame : Nat) : Statement (.frameReturn k frame) := by
  intro r h
  cases h

theorem faultFlush (m : Nat) : Statement (.faultFlush m) := by
  intro r h
  cases h

theorem movedEntryExpire (m frame : Nat) : Statement (.movedEntryExpire m frame) := by
  intro r h
  cases h

theorem breakpointHit : Statement .breakpointHit := by
  intro r h
  cases h

theorem logBreakpoint : Statement .logBreakpoint := by
  intro r h
  cases h

theorem teamStop (team : Nat) (cause : StopCause) : Statement (.teamStop team cause) := by
  intro r h
  cases h

theorem debugCont (t : ContTarget) : Statement (.debugCont t) := by
  intro r h
  cases h

theorem debugStep (team : Nat) : Statement (.debugStep team) := by
  intro r h
  cases h

theorem watchHit (i : Nat) : Statement (.watchHit i) := by
  intro r h
  cases h

theorem stitchRecordReturn (i : Nat) : Statement (.stitchRecordReturn i) := by
  intro r h
  cases h

theorem sequencerEvent (k : CtxKey) : Statement (.sequencerEvent k) := by
  intro r h
  cases h

theorem seqWrite (k : CtxKey) (v : DWord) : Statement (.seqWrite k v) := by
  intro r h
  cases h

theorem whrdWrite (k : CtxKey) (v : DWord) : Statement (.whrdWrite k v) := by
  intro r h
  cases h

theorem whbaseWrite (k : CtxKey) (v : DWord) : Statement (.whbaseWrite k v) := by
  intro r h
  cases h

theorem capbaseWrite (k : CtxKey) (v : DWord) : Statement (.capbaseWrite k v) := by
  intro r h
  cases h

theorem registerWrite (k : CtxKey) (off : Nat) (v : DWord) : Statement (.registerWrite k off v) := by
  intro r h
  cases h

theorem uncorrectableError (e : ErrSite) : Statement (.uncorrectableError e) := by
  intro r h
  cases h

theorem correctedError (m : Nat) (st : Fin 11) : Statement (.correctedError m st) := by
  intro r h
  cases h

theorem writebackComplete (k : GKey) (i : Nat) : Statement (.writebackComplete k i) := by
  intro r h
  cases h

theorem illegalInstruction : Statement .illegalInstruction := by
  intro r h
  cases h

theorem lockGrantWithdrawal (line : Nat) : Statement (.lockGrantWithdrawal line) := by
  intro r h
  cases h

theorem responseCacheEntryExpiry (r : Nat) : Statement (.responseCacheEntryExpiry r) := by
  intro r h
  cases h

theorem contribResend (r : Nat) : Statement (.contribResend r) := by
  intro r h
  cases h

theorem hostPushedRecoveryImage (m : Nat) (img : List Byte) : Statement (.hostPushedRecoveryImage m img) := by
  intro r h
  cases h

end Sys2Proof.Laws.Encodes

theorem Sys2Proof.Laws.Encodes.recall (m line : Nat) : Sys2Proof.Laws.Encodes.Statement (Sys2Proof.Instr.recall m line) := by
  intro r h
  cases h
end

