-- ==== Sys2Proof/Tests/Slice0.lean ====
section
/-! SUPPORT. The model's own tests: what WellFormed refuses, words written out from the spec's encodings, and states that meet the
hypotheses of the statements. -/

set_option Elab.async false

namespace Sys2Proof.Tests
open Sys2Proof Sys2Proof.Machine

/-! ### WellFormed: one ill-formed term for each check -/

/-- The guard p7, not inverted. -/
def g7 : Guard := ⟨7, false⟩
/-- The illegal guard: p7 inverted (spec/02 R29). -/
def gBad : Guard := ⟨7, true⟩

theorem test_wf_guard : Instr.wf (.braDiv gBad 3 5) = false := by decide
theorem test_wf_brq_q3 : Instr.wf (.brq 2 3 true) = false := by decide
theorem test_wf_callx_odd_pair : Instr.wf (.callx 1 4) = false := by decide
theorem test_wf_ret_odd_pair : Instr.wf (.ret 3) = false := by decide
theorem test_wf_unused_b : Instr.wf (.snot ⟨.u32, false, 0, 1, 2, 3, 0⟩) = false := by decide
theorem test_wf_unused_c : Instr.wf (.sadd ⟨.u32, false, 0, 1, 2, 3, 4⟩) = false := by decide
theorem test_wf_sat_not_allowed : Instr.wf (.sand ⟨.u32, true, 0, 1, 2, 3, 0⟩) = false := by decide
theorem test_wf_n_not_used : Instr.wf (.sadd ⟨.u32, false, 1, 1, 2, 3, 0⟩) = false := by decide
theorem test_wf_abs_unsigned : Instr.wf (.sabs ⟨.u32, false, 0, 1, 2, 0, 0⟩) = false := by decide
theorem test_wf_unary_sb : Instr.wf (.vnot ⟨g7, .u32, false, true, 0, 1, 2, 0, 0⟩) = false := by decide
theorem test_wf_scalar_b_range : Instr.wf (.vadd ⟨g7, .u32, false, true, 0, 1, 2, 64, 0⟩) = false := by decide
theorem test_wf_odd_pair : Instr.wf (.vadd ⟨g7, .i64, false, false, 0, 1, 2, 4, 0⟩) = false := by decide
theorem test_wf_lea_odd_base : Instr.wf (.vlea ⟨g7, .u32, false, false, 2, 2, 3, 4, 0⟩) = false := by decide
theorem test_wf_movw_high_bits : Instr.wf (.smovw ⟨.u32, 1, 0x100000000⟩) = false := by decide
theorem test_wf_mov_imm_source : Instr.wf (.smovImm ⟨1, 2, 5⟩) = false := by decide
theorem test_wf_shfl_k : Instr.wf (.shflIdx ⟨0, g7, false, .w32, false, 1, 4, 2, 3, 1⟩) = false := by decide
theorem test_wf_shfl_b : Instr.wf (.shflUp ⟨0, g7, false, .w32, false, 1, 4, 2, 3, 1⟩) = false := by decide
theorem test_wf_vtos_first_k : Instr.wf (.vtos ⟨0, g7, false, true, 3, 4, 2⟩) = false := by decide
theorem test_wf_float_window : Instr.wf (.fadd ⟨1, g7, .f32, .rne, false, false, 8, 2, 3, 0⟩) = false := by decide
theorem test_wf_float_unary_b : Instr.wf (.frcp ⟨1, g7, .f32, .rne, false, false, 8, 2, 3, 0⟩) = false := by decide
theorem test_wf_fdot4_format : Instr.wf (.fdot4 ⟨g7, .f16, 8, 2, 3, 4⟩) = false := by decide
theorem test_wf_cvt_bsel : Instr.wf (.cvt ⟨g7, .f32, .f16, .rne, false, 1, 6, 4⟩) = false := by decide
theorem test_wf_cvt_e8m0 : Instr.wf (.cvt ⟨g7, .f32, .e8m0, .rne, false, 0, 6, 4⟩) = false := by decide
theorem test_wf_cvtfi_sr : Instr.wf (.cvtFi ⟨g7, .f32, .i32, .sr, 0, 6, 4⟩) = false := by decide
theorem test_wf_qblk_format : Instr.wf (.qblkQ ⟨0, g7, .e8m0, 0, 6, 3, 4, 2⟩) = false := by decide
theorem test_wf_index_none : Instr.wf (.ldg ⟨0, g7, 4, ⟨.none, 6, 1, 8⟩, .core, .relaxed, .b32⟩) = false := by decide
theorem test_wf_index_pair : Instr.wf (.ldg ⟨0, g7, 4, ⟨.pair, 6, 1, 8⟩, .core, .relaxed, .b32⟩) = false := by decide
theorem test_wf_data_quad : Instr.wf (.ldg ⟨0, g7, 6, ⟨.none, 6, 0, 8⟩, .core, .relaxed, .b128⟩) = false := by decide
theorem test_wf_order : Instr.wf (.ldg ⟨0, g7, 4, ⟨.none, 6, 0, 8⟩, .core, .release, .b32⟩) = false := by decide
theorem test_wf_scope : Instr.wf (.lds ⟨0, g7, 4, ⟨.none, 6, 0, 8⟩, .pkg, .acquire, .b32⟩) = false := by decide
theorem test_wf_store_window : Instr.wf (.stg ⟨1, g7, 4, ⟨.none, 6, 0, 8⟩, .core, .relaxed, .b32⟩) = false := by decide
theorem test_wf_atom_pair : Instr.wf (.atomAdd ⟨0, g7, 5, ⟨.none, 6, 0, 8⟩, .pkg, .relaxed, .u64⟩) = false := by decide
theorem test_wf_cas_quad : Instr.wf (.atomCas ⟨0, g7, 6, ⟨.none, 6, 0, 8⟩, .pkg, .relaxed, .u64⟩) = false := by decide
theorem test_wf_bar_dest : Instr.wf (.barInit ⟨0, 1, 12, 0x20, 0, .core, .relaxed⟩) = false := by decide
theorem test_wf_fence_same : Instr.wf (.fenceX .copy .copy .pkg) = false := by decide
theorem test_wf_fence_scope : Instr.wf (.fenceX .shard .copy .core) = false := by decide
theorem test_wf_cpy_stride : Instr.wf (.cpy ⟨20, 21, 22, 0, .scratch, .global, 0x80, 0, false, false, 0⟩) = false := by decide
theorem test_wf_cpy_counter : Instr.wf (.cpy2d ⟨20, 21, 22, 1, .scratch, .global, 0x80, 0, false, false, 0⟩) = false := by decide
theorem test_wf_tzero_acc : Instr.wf (.tzero true 4) = false := by decide
theorem test_wf_shtl_steps : Instr.wf (.shtl ⟨0, g7, 10, 4, 16, 12, 7, 0xC00⟩) = false := by decide
theorem test_wf_shtl_width : Instr.wf (.shtl ⟨0, g7, 10, 4, 16, 12, 1, 0xC0⟩) = false := by decide
theorem test_wf_coll_range : Instr.wf (.collAg 5 61) = false := by decide
theorem test_wf_mfs_unassigned : Instr.wf (.mfs 3 0x00C) = false := by decide
theorem test_wf_mts_read_only : Instr.wf (.mts 3 0x000) = false := by decide
theorem test_wf_mfs_kind : Instr.wf (.mfs 64 0x001) = false := by decide
theorem test_wf_qpop_pair : Instr.wf (.qpop 0 63 2) = false := by decide
theorem test_wf_ffl_data : Instr.wf (.fflArr ⟨g7, 1, ⟨.none, 6, 0, 8⟩, .core⟩) = false := by decide

/-! ### Words that the spec writes out (their sections are named) -/

/-- spec/03 and spec/02: bra.div, nop. -/
theorem test_decode_control :
    decodeWords 0x0410200000300050 none = .ok (.braDiv ⟨2, false⟩ 3 5) ∧ decodeWords 0x0490700000000000 none = .ok .nop := by
  decide
/-- spec/05: sadd with an immediate, vcmp with an immediate, shfl.up. -/
theorem test_decode_integer :
    decodeWords 0x0A00705040000040 none = .ok (.saddImm ⟨5, 4, 0x40⟩) ∧
    decodeWords 0x0E70743030000004 none = .ok (.vcmpImm ⟨⟨7, false⟩, .gtS, false, 3, 3, 4⟩) ∧
    decodeWords 0x1010704020001201 none = .ok (.shflUp ⟨0, ⟨7, false⟩, false, .w8, false, 1, 4, 2, 0, 1⟩) := by decide
/-- spec/06: fma, cvt. -/
theorem test_decode_float :
    decodeWords 0x1430708020308000 none = .ok (.fma ⟨0, ⟨7, false⟩, .f32, .rne, false, false, 8, 2, 3, 8⟩) ∧
    decodeWords 0x1800706040002C18 none = .ok (.cvt ⟨⟨7, false⟩, .f32, .b8 false true 3, .rne, true, 2, 6, 4⟩) := by decide
/-- spec/07: lds, stg, chk. -/
theorem test_decode_memory :
    decodeWords 0x1C22707020301064 none = .ok (.lds ⟨2, ⟨7, false⟩, 7, ⟨.s32, 2, 3, 0x10⟩, .pkg, .relaxed, .b32⟩) ∧
    decodeWords 0x201070AC60000875 none = .ok (.stg ⟨0, ⟨7, false⟩, 10, ⟨.none, 6, 0, 8⟩, .pkg, .release, .b64⟩) ∧
    decodeWords 0x2030700000200000 none = .ok (.chk 2) := by decide
/-- spec/08: atom.add, lck, unlk. -/
theorem test_decode_atomic :
    decodeWords 0x240270406020086C none = .ok (.atomAdd ⟨2, ⟨7, false⟩, 4, ⟨.s32, 6, 2, 8⟩, .pkg, .acquire, .u32⟩) ∧
    decodeWords 0x2600709CC000406C none = .ok (.lck ⟨0, ⟨7, false⟩, 9, 12, 0x40, .pkg⟩) ∧
    decodeWords 0x2620700CC0004074 none = .ok (.unlk ⟨⟨7, false⟩, 12, 0x40, .pkg⟩) := by decide
/-- spec/09: bar.arrive, fence.x copy, group at package scope, fence.rel at pod scope. -/
theorem test_decode_barrier :
    decodeWords 0x2810706CC0002070 none = .ok (.barArrive ⟨0, 6, 12, 0x20, 0, .pkg, .release⟩) ∧
    decodeWords 0x2880700000000860 none = .ok (.fenceX .copy .group .pkg) ∧
    decodeWords 0x2860700000000080 none = .ok (.fenceRel .pod) := by decide
/-- spec/10: cpy.2d, mmac. -/
theorem test_decode_engines :
    decodeWords 0x2C1071415165C300 (some 0x0000800004001000) =
      .ok (.cpy2d ⟨20, 21, 22, 23, .scratch, .global, 0x80, 0x400, true, false, 0⟩) ∧
    decodeWords 0x303070100112CB20 none =
      .ok (.mmac ⟨false, 1, false, false, 0, true, false, 1, .b8 false true 3, .b8 false true 3, true⟩) := by decide
/-- spec/11: shtl, coll.ag. -/
theorem test_decode_pod :
    decodeWords 0x342070A04100C000 (some 0x6003) = .ok (.shtl ⟨0, ⟨7, false⟩, 10, 4, 16, 12, 3, 0xC00⟩) ∧
    decodeWords 0x3430705140000000 none = .ok (.collAg 5 20) := by decide
/-- spec/15, spec/14, spec/18: shev, launch, trap, rfh, smark, trc. -/
theorem test_decode_system :
    decodeWords 0x3810700080C00000 none = .ok (.shev 8 12) ∧ decodeWords 0x3C427090A0B00000 none = .ok (.launch 2 9 10 11) ∧
    decodeWords 0x3C0070000000002A none = .ok (.trap 42) ∧ decodeWords 0x3C10700000000000 none = .ok .rfh ∧
    decodeWords 0x40207000000003A5 none = .ok (.smark 0x3A5) := by decide
/-- spec/02 R23: a reserved field that is not zero, and an unassigned class, are refused by name. -/
theorem test_decode_refuses : (decodeWords 0x0490700000000001 none).toOption = none ∧
    (decodeWords 0xFC00000000000000 none).toOption = none := by decide

/-! ### A small machine: one context, its page table, one team of one group on core 0 -/

/-- A leaf entry of 2 MiB: frame, rights. -/
def leaf2m (frame rights : Nat) : Nat := 3 * 2 ^ 62 + frame / 2 ^ 13 * 2 ^ 6 + rights
/-- An entry that names a table. -/
def toTable (pa : Nat) : Nat := 2 ^ 63 + pa / 1024
/-- The page table at 0x100000: the first 2 MiB of addresses lie at 0x200000 with all rights, the next at 0x400000 to read, the
third at module 3, the fourth on no page. -/
def demoMem : Memory :=
  [(0x100000, toTable 0x101000), (0x101000, toTable 0x102000), (0x102000, leaf2m 0x200000 7), (0x102008, leaf2m 0x400000 1),
   (0x102010, leaf2m (3 * 2 ^ 48) 3)].foldl (fun m (c : Nat × Nat) => mwriteN m c.1 (toBytes 8 c.2)) State.reset.mem
def demoCtx : CtxParams where
  k := ⟨0, 0⟩
  ptroot := 0x100000
  handler := 0x1000
  quantumUs := 1000
  locklim := 65536
  mind := 1
  weight := 1
  pksMib := 16
  poolBase := 0x40000000
  poolN := 4
  lowat := 1
  sgTable := 0x500000
  shardStaging := 2
  dbgBase := 0x600000
  peers := [(0, 0)]
  errBase := 0x610000
  collBase := 0x620000
  shardBase := 0x630000
  saveBase := 0x10000000
  saveLen := 0x9000000
/-- The group's key. -/
def gk : GKey := ⟨0, 0, 0⟩
/-- The machine, with scalar registers s6 = 0x100, s7 = 0x200, s8 = 3 and lanes 0 and 1 active in p1. -/
def demo : State :=
  let s := State.reset
  let g := { placedTeam.newGroup 0 0 0 with nregs := 256 }
  { s with
    mem := demoMem
    ctxs := [(⟨0, 0⟩, { Context.fresh demoCtx 0 with dies := [0] })]
    teams := [(0, placedTeam)]
    cores := [(⟨0, 0⟩, { Core.fresh with carve := some ⟨0, 16384, 1⟩ })]
    groups := [(gk, { g with regs := (((g.regs.wrS 6 0x100).wrS 7 0x200).wrS 8 3).wrP 1 3#32 })] }
/-- The state after one word or event. -/
def nx (i : Instr) (s : State) : State := match exec i s with
  | .next t => t
  | .fault _ | .refused _ => s
/-- The fragment may issue the word, and what it issues with meets a condition. -/
def goes (i : Instr) (s : State) (p : Iss → Bool := fun _ => true) : Bool := match prelude i s with
  | .go x => p x
  | .empty | .late .. | .hold | .trap .. | .first _ | .lost _ => false
theorem goes_spec {i : Instr} {s : State} {p : Iss → Bool} (h : goes i s p = true) : ∃ x, prelude i s = .go x ∧ p x = true := by
  unfold goes at h
  split at h
  · exact ⟨_, by assumption, h⟩
  all_goals exact absurd h (by decide)
/-- The word answers a next state that meets a condition. -/
def gives (i : Instr) (s : State) (p : State → Bool) : Bool := match exec i s with
  | .next t => p t
  | .fault _ | .refused _ => false
/-- A change of the group. -/
def withGroup (s : State) (f : Group → Group) : State := s.modGroup gk f
/-- A change of fragment F0. -/
def withFrag (s : State) (f : Frag → Frag) : State := s.modGroup gk (fun g => { g with f0 := g.f0.map f })

/-- Twenty cycles later on core 0. -/
def later (s : State) : State := s.modCore ⟨0, 0⟩ (fun c => { c with lastIssue := [], cycle := c.cycle + 20 })

/-- The machine with a shard group 0 of two members (modules 0 and 1) whose region of two pages begins at 0x800000: its first page is
Absent, its second Stale; the slices begin at 0x50000000. -/
def shardDemo : State := { demo with
  mem := [(0x500000, 0x800000), (0x500008, 2 ^ 48 + 2 ^ 32 + 2), (0x500010, 0x50000000), (0x500018, 0x500800), (0x500020, 0x500C00),
    (0x500800, 2 ^ 16), (0x102020, 3 * 2 ^ 62 + 6 * 2 ^ 59 + 3), (0x102028, 3 * 2 ^ 62 + 2 ^ 59 + 3)].foldl
    (fun m (c : Nat × Nat) => mwriteN m c.1 (toBytes 8 c.2)) demoMem }

theorem test_demo_issues : goes .nop demo = true := by decide +kernel
theorem test_demo_memory_canonical : demo.memOk = true := by decide +kernel

/-! ### Issue and traps: the hypotheses are met -/

/-- WordIssuesWhenFree, with a window that is open at its last place. -/
theorem test_wit_word_issues :
    let s := withFrag demo (fun f => { f with windows := [⟨1, 5, [.v 9]⟩] })
    (match s.group? s.cur.k with
      | some g => (match g.frag s.cur.slot with
        | some f => g.late.isEmpty && !g.halting && !g.ended && g.replay.isNone && f.wait.isNone && f.entering.isEmpty &&
            g.handler.isNone && decide (f.issueAt ≤ (s.core s.cur.k.core).cycle) &&
            decide (nget 0 (s.core s.cur.k.core).lastIssue 0 ≤ (s.core s.cur.k.core).cycle) &&
            f.windows.all (fun w => decide (0 < w.left)) && (Instr.decodeTrap .nop s g f).isNone && g.regReady.isEmpty &&
            g.flights.isEmpty && !Instr.waitFloat .nop g && !g.replays f && !s.watchHolds g && !g.badWhole .nop
        | none => false)
      | none => false) = true := by decide +kernel

/-- The four decode traps, one word for each, and a word with none. -/
theorem test_wit_decode_traps :
    let s := withGroup demo (fun g => { g with nregs := 16 })
    let t (i : Instr) (f : Frag → Frag) : Option Nat := match s.group? gk with
      | some g => (match g.frag .f0 with
        | some fr => (Instr.decodeTrap i s g (f fr)).map (·.code)
        | none => none)
      | none => none
    t (.brx 8) id = some 1 ∧ t (.snot ⟨.u32, false, 0, 1, 2, 3, 0⟩) id = some 2 ∧ t .rfh id = some 2 ∧
    t (.vmov ⟨g7, .u32, false, false, 0, 16, 2, 0, 0⟩) id = some 3 ∧
    t (.vmov ⟨g7, .u32, false, false, 0, 15, 2, 0, 0⟩) id = none ∧
    t (.vmov ⟨g7, .u32, false, false, 0, 9, 2, 0, 0⟩) (fun f => { f with windows := [⟨1, 5, [.v 9]⟩] }) = some 4 ∧
    t (.vmov ⟨g7, .u32, false, false, 0, 9, 2, 0, 0⟩) (fun f => { f with windows := [⟨0, 5, [.v 9]⟩] }) = none ∧
    t .nop id = none := by decide +kernel

/-- A late cause before a word that would trap and before one that would issue, a damaged scalar register, a hold, a trap and an empty
slot are each what some word meets. -/
theorem test_wit_before_the_word :
    let late := withGroup demo (fun g => { g with late := [⟨0x1A, 1#32, 0, 0, 0⟩] })
    (match prelude (.brx 8) late with
      | .late .. => true
      | _ => false) = true ∧
    (match prelude .nop late with
      | .first _ => true
      | _ => false) = true ∧
    (match prelude (.smov ⟨.u32, false, 0, 9, 6, 0, 0⟩) (withGroup demo (fun g => { g with badRegs := [(.s 6, 0)] })) with
      | .lost _ => true
      | _ => false) = true ∧
    prelude .nop (withGroup demo (fun g => { g with halting := true })) = .hold ∧
    (match prelude (.brx 8) demo with
      | .trap .. => true
      | _ => false) = true ∧
    prelude .nop (withGroup demo (fun g => { g with f0 := none })) = .empty := by decide +kernel

/-- A scan of slot 0 that meets the nop in the block of the instruction cache. -/
theorem test_wit_step_runs :
    let s := { demo with
      agenda := [.slot ⟨0, 0⟩ 0]
      cores := [(⟨0, 0⟩, { Core.fresh with icache := [(0, 0, [0x0490700000000000#64, 0, 0, 0, 0, 0, 0, 0])] })] }
    let u := { s with agenda := [] }
    let r : FragRef := ⟨gk, .f0⟩
    (u.positions ⟨0, 0⟩ 0).head? = some r ∧ s.block? ⟨0, 0⟩ 0 0 = some [0x0490700000000000#64, 0, 0, 0, 0, 0, 0, 0] ∧
    decodeAt [0x0490700000000000#64, 0, 0, 0, 0, 0, 0, 0] 0 = .ok .nop ∧ s.bpMatch ⟨0, 0⟩ 0 false = false ∧
    s.bpMatch ⟨0, 0⟩ 0 true = false ∧ gives .nop { u with cur := r } (fun t => u.acted t r) = true ∧
    (match step s with
      | .next t => (t.group? gk).any (fun g => g.f0.any (fun f => f.pc == 8#64))
      | .fault _ | .refused _ => false) = true := by decide +kernel

/-- A group with nothing outstanding, outside handler mode and in it; one with a load outstanding. -/
theorem test_wit_traps :
    let h : Handler := ⟨.f0, 0, 0, 0, allLanes⟩
    (match demo.group? gk with
      | some g => demo.settled g allLanes && g.handler.isNone && (demo.ctx? g.key).isSome && !(demo.core ⟨0, 0⟩).eyeletIn 0 allLanes &&
          (demo.settled { g with handler := some h } allLanes)
      | none => false) = true ∧
    ((nx (.ldg ⟨0, g7, 4, ⟨.none, 6, 0, 8⟩, .core, .relaxed, .b32⟩) demo).group? gk).any
      (fun g => g.flights.any (fun fl => fl.mask == allLanes && !demo.stays g fl)) = true := by decide +kernel

/-- Of two pending causes the one of the lower code is taken. -/
theorem test_wit_late_trap :
    let s := withGroup demo (fun g => { g with late := [⟨0x1B, 1#32, 0, 0, 0⟩, ⟨0x0A, 2#32, 5, 8, 0⟩] })
    (match s.group? gk with
      | some g => g.handler.isNone && !g.halting && g.replay.isNone && s.settled g allLanes &&
          g.late.all (fun m => m.code == 0x0A || decide (0x0A < m.code))
      | none => false) = true ∧
    gives .lateTrapTake s (fun t => (t.group? gk).any (fun g => g.sr.hstat.toNat % 256 == 0x0A && g.sr.haddr == 5#64)) = true := by
  decide +kernel

/-- A block that is not yet fetched, an illegal word, and one whose register target is misaligned. -/
theorem test_wit_fetch_and_illegal :
    demo.todo ⟨gk, .f0⟩ = .fetch ∧ demo.xlat ⟨0, 0⟩ (blockOf 0#64) .fetch = .ok 0x200000 0x102000 ∧
    demo.damagedAt 0x200000 64 = false ∧
    (let s (w : DWord) := { demo with cores := [(⟨0, 0⟩, { Core.fresh with icache := [(0, 0, [w, 0, 0, 0, 0, 0, 0, 0])] })] }
     (s 0).todo ⟨gk, .f0⟩ = .illegal ∧ looseInstr [0#64] 0 = none ∧
     (s 0x0430700080000001).todo ⟨gk, .f0⟩ = .illegal ∧
     (looseInstr [0x0430700080000001#64] 0).any (fun i => match (s 0x0430700080000001).group? gk with
       | some g => (match g.f0 with
         | some f => Instr.regTarget i g.regs f == some 3#64 && !g.interlocked (Instr.live i) 0 && !g.lateFirst
         | none => false)
       | none => false) = true) := by decide +kernel

/-! ### Arithmetic words issue in the small machine (IntegerOperations needs no state) -/

theorem test_wit_int_fields : (5 : Nat) < 31 ∧ (0x0805#32).toNat % 256 = 5 ∧ (0x0805#32).toNat / 256 % 256 ≠ 0 ∧
    (0x4000#32 : Word).getLsbD 14 = true ∧ ∀ j, j < 14 → (0x4000#32 : Word).getLsbD j = false := by decide

/-- ScalarIntegerResults: every operation, with the fields it uses, into s3 and into s0. -/
theorem test_wit_scalar_words :
    scalarOps.all (fun p => [3, 0].all (fun d =>
      let f : SInt := ⟨.i32, false, 0, d, 6, 7, 8⟩
      [f, { f with c := 0 }, { f with b := 0, c := 0 }].any (fun f => goes (p.2 f) demo))) = true := by decide +kernel

/-- ScalarOtherResults. -/
theorem test_wit_scalar_others :
    [Instr.scmp ⟨.ltS, true, 1, 6, 7⟩, .scmp ⟨.ltS, true, 3, 6, 7⟩, .scmpImm ⟨.eq, false, 0, 6, 0x100⟩, .ssel ⟨.i64, 3, 6, 7, 3⟩,
      .smovw ⟨.i64, 3, 0xFFFFFFFFFFFFFFFF⟩, .slea ⟨.i64, false, 63, 3, 6, 7, 0⟩, .smovImm ⟨3, 0, 0xFFFFFFF⟩].all
      (fun i => goes i demo) = true ∧
    scalarImmOps.all (fun p => goes (p.2 ⟨3, 6, 0x8000000⟩) demo) = true := by decide +kernel

/-- VectorIntegerResults: guard p1 with lanes 0 and 1, 32 and 64 bits. -/
theorem test_wit_vector_words :
    vectorOps.all (fun p => [IntTy.i32, .i64].all (fun ty =>
      let f : VInt := ⟨⟨1, false⟩, ty, false, false, 0, 10, 4, 6, 8⟩
      [f, { f with c := 0 }, { f with b := 0, c := 0 }].any
        (fun f => goes (p.2 f) demo (fun x => x.act == 3#32)))) = true := by decide +kernel

/-- VectorOtherResults. -/
theorem test_wit_vector_others :
    let g : Guard := ⟨1, true⟩
    [Instr.vcmp ⟨g, .leU, true, 2, false, 4, 6⟩, .vcmp ⟨g, .leU, true, 7, true, 4, 6⟩, .vcmpImm ⟨g, .ne, false, 2, 3, 4⟩,
      .vsel ⟨g, .u64, false, 10, 4, 6, 1⟩, .vmovw ⟨g, .u64, 10, 0x123456789⟩, .vmovw ⟨g, .u32, 11, 0xFFFFFFFF⟩,
      .vlea ⟨g, .i32, false, false, 3, 10, 4, 7, 0⟩, .vmovImm ⟨g, 255, 0, 5⟩].all
      (fun i => goes i demo (fun x => x.act == 0xFFFFFFFC#32)) = true ∧
    vectorImmOps.all (fun p => goes (p.2 ⟨g, 10, 4, 0x8000000⟩) demo) = true := by decide +kernel

/-- LaneExchangeResults: every word, with no lane and with some lanes active. -/
theorem test_wit_lane_words :
    [(⟨1, false⟩ : Guard), ⟨0, false⟩].all (fun g =>
      [Instr.shflIdx ⟨0, g, false, .w2, true, 0, 4, 2, 8, 1⟩, .shflUp ⟨15, g, true, .w32, false, 31, 4, 2, 0, 7⟩,
        .shflDn ⟨0, g, false, .w8, false, 1, 4, 2, 0, 1⟩, .shflXor ⟨0, g, false, .w8, false, 1, 4, 2, 0, 1⟩,
        .voteAny ⟨0, g, .w4, 2, 1⟩, .voteAll ⟨0, g, .w4, 7, 1⟩, .voteBal ⟨0, g, 3, 1⟩, .redux ⟨0, g, true, .minI, 3, 4⟩,
        .redux ⟨0, g, false, .xor, 3, 5⟩, .vtos ⟨0, g, false, true, 0, 3, 4⟩, .vtos ⟨0, g, true, false, 31, 3, 4⟩,
        .stov ⟨0, g, true, 4, 6⟩].all (fun i => goes i demo)) = true ∧
    goes (.redux ⟨0, ⟨0, false⟩, true, .minI, 3, 4⟩) demo (fun x => x.act == 0#32) = true ∧
    goes (.redux ⟨0, ⟨1, false⟩, true, .minI, 3, 4⟩) demo (fun x => x.act != 0#32) = true := by decide +kernel

/-- FloatShortResults, FloatLongResults, FloatOtherResults, with rounding mode SR. -/
theorem test_wit_float_words :
    floatShort.all (fun p => [FT.f32, .f16, .bf16].all (fun ft => [(0 : VReg), 6].any (fun c =>
      goes (p.2.2 ⟨0, ⟨1, false⟩, ft, .sr, false, false, 8, 2, 3, c⟩) demo (fun x => x.act == 3#32)))) = true ∧
    floatLong.all (fun p => goes (p.2 ⟨3, ⟨1, false⟩, .f32, .sr, true, false, 8, 2, 0, 0⟩) demo) = true ∧
    [Instr.fmin ⟨g7, .f32, true, 8, 2, 6⟩, .fmax ⟨g7, .bf16, false, 8, 2, 6⟩, .fcmp ⟨g7, .f16, false, .un, 7, 2, 6⟩,
      .fdot4 ⟨g7, .e5m2, 8, 2, 6, 9⟩].all (fun i => goes i demo) = true := by decide +kernel

/-- ConversionResults and BlockQuantization. -/
theorem test_wit_conversion_words :
    [Instr.cvt ⟨g7, .f32, .e4m3, .sr, true, 3, 8, 2⟩, .cvtFi ⟨g7, .e8m0, .i64, .rtz, 3, 8, 2⟩,
      .cvtFi ⟨g7, .bf16, .i64, .rtz, 2, 8, 2⟩, .cvtIf ⟨g7, .u64, .f16, .rne, false, 2, 8, 2⟩, .qblkHist ⟨0, g7, 8, 2⟩,
      .qblkClip ⟨0, g7, 3, 8, 6⟩, .qblkQ ⟨0, g7, .e4m3, 3, 8, 0, 4, 6⟩].map (fun i => goes i demo) =
      [true, false, true, true, true, true, true] ∧
    (List.replicate 64 1).length = 64 ∧ 0 < (List.replicate 64 1).sum := by decide +kernel

/-- OneByteCodesRoundToThemselves: a format, a finite code and a NaN code. -/
theorem test_wit_one_byte : Fmt.e4m3 ∈ oneByteFormats ∧ (Fmt.e4m3.val 0x01).isFiniteNz = true ∧ (Fmt.e4m3.val 0x7F).isNan = true := by
  decide +kernel

/-! ### Control flow and the local levels -/

/-- BranchResults and DivergentReturnTraps: a ret whose lanes agree, and one whose lanes 0 and 1 differ. -/
theorem test_wit_branches :
    [Instr.bra 0x800000, .brq 1 3 false, .brq 1 0 true, .brx 7, .call 5, .callx 254 7, .nop].all (fun i => goes i demo) = true ∧
    goes (.ret 2) demo (fun x => x.f.mask != 0 && (List.range 32).all (fun l => x.g.regs.rdV64 2 l == 0)) = true ∧
    goes (.ret 2) (withGroup demo (fun g => { g with regs := g.regs.wrV 3 1 5 })) (fun x =>
      x.f.mask.getLsbD 0 && x.f.mask.getLsbD 1 && x.g.regs.rdV64 2 0 != x.g.regs.rdV64 2 1) = true ∧
    (match exec (.ret 2) (withGroup demo (fun g => { g with regs := g.regs.wrV 2 1 64 })) with
      | .next t => (t.group? gk).any (fun g => g.sr.hstat.toNat % 256 == 6)
      | .fault _ | .refused _ => false) = true := by decide +kernel

/-- DivergentBranch: no lane taken, all lanes, some under a new frame, some in the fragment's own region with the other slot
in use, and a full stack. -/
theorem test_wit_divergent_branch :
    let e : Entry := ⟨.ready, 0, 9, 0, 1, 0, 0, 0, 0⟩
    let inRegion := withFrag demo (fun f => { f with depth := 1, tok := 1, rj := 0x140 })
    goes (.braDiv ⟨0, false⟩ 3 5) demo (fun x => x.f.mask &&& x.g.regs.guard ⟨0, false⟩ == 0#32) = true ∧
    goes (.braDiv ⟨0, true⟩ 3 5) demo (fun x => x.f.mask &&& x.g.regs.guard ⟨0, true⟩ == allLanes) = true ∧
    goes (.braDiv ⟨1, false⟩ 3 5) demo (fun x => x.f.mask &&& x.g.regs.guard ⟨1, false⟩ == 3#32 && x.f.depth == 0#8 &&
      (x.g.frag .f1).isNone && decide (x.g.stack.length < 32)) = true ∧
    goes (.braDiv ⟨1, false⟩ 3 5) (withGroup demo (fun g => { g with stack := List.replicate 31 e }))
      (fun x => decide (x.g.stack.length < 32)) = true ∧
    goes (.braDiv ⟨1, false⟩ 3 5) (withGroup inRegion (fun g => { g with f1 := g.f0 })) (fun x =>
      x.f.depth != 0#8 && (x.f.pc &&& ~~~63#64) + (5 : BitVec 16).signExtend 64 * 64#64 == x.f.rj && (x.g.frag .f1).isSome &&
      decide (x.g.stack.length < 32) && (x.g.flightsOf x.f.mask).isEmpty) = true ∧
    goes (.braDiv ⟨1, false⟩ 3 5) (withGroup demo (fun g => { g with stack := List.replicate 32 e }))
      (fun x => decide (32 - x.g.stack.length < 1)) = true := by decide +kernel

/-- JoinResults: results outstanding, outside every region, the first arrival (with and without a READY entry, with the stack full,
with all the lanes), a later one, the last, a join of the outer region, and no frame that rejoins here. -/
theorem test_wit_join :
    let fr : Entry := ⟨.frame, 1, 7, 0, 0, 3, 0, 0, 0x80⟩
    let pk : Entry := ⟨.parked, 1, 7, 0, 2, 0, 0, 0, 0⟩
    let rd : Entry := ⟨.ready, 1, 7, 0, 2, 0, 0x40, 0x80, 0⟩
    let inRegion (st : List Entry) := withGroup demo (fun g => { g with
      stack := st, f0 := g.f0.map (fun f => { f with tok := 7, depth := 1, mask := 1 }) })
    goes .join (later (nx (.ldg ⟨0, g7, 4, ⟨.none, 6, 0, 8⟩, .core, .relaxed, .b32⟩) demo)) = false ∧
    goes .join (later (nx (.ldg ⟨3, g7, 4, ⟨.none, 6, 0, 8⟩, .core, .relaxed, .b32⟩) demo))
      (fun x => !(x.g.flightsOf x.f.mask).isEmpty) = true ∧
    goes .join demo (fun x => (x.g.flightsOf x.f.mask).isEmpty && x.f.tok == 0#16) = true ∧
    goes .join (inRegion [fr]) (fun x => (x.g.flightsOf x.f.mask).isEmpty && x.f.tok != 0#16 &&
      frameOf x.g.stack x.f.tok == some fr && fr.rj == x.f.pc && x.f.mask != fr.xmask && (lastReady x.g.stack).isNone &&
      (x.g.stack.find? (fun e => e.kind == .parked && e.tok == x.f.tok)).isNone) = true ∧
    goes .join (inRegion [fr, pk]) (fun x => frameOf x.g.stack x.f.tok == some fr && fr.rj == x.f.pc &&
      pk.tok == x.f.tok && pk.mask ||| x.f.mask == fr.xmask) = true ∧
    goes .join (inRegion [fr, rd]) (fun x => frameOf x.g.stack x.f.tok == some fr && fr.rj == x.f.pc && x.f.mask != fr.xmask &&
      lastReady x.g.stack == some rd && (x.g.stack.find? (fun e => e.kind == .parked && e.tok == x.f.tok)).isNone) = true ∧
    goes .join (inRegion (fr :: List.replicate 31 rd)) (fun x => frameOf x.g.stack x.f.tok == some fr && fr.rj == x.f.pc &&
      decide (32 ≤ x.g.stack.length) && (x.g.stack.find? (fun e => e.kind == .parked && e.tok == x.f.tok)).isNone) = true ∧
    goes .join (inRegion [{ fr with xmask := 1 }]) (fun x => frameOf x.g.stack x.f.tok == some { fr with xmask := 1 } &&
      (x.g.stack.find? (fun e => e.kind == .parked && e.tok == x.f.tok)).isNone && x.f.mask == 1#32 && fr.rj == x.f.pc) = true ∧
    goes .join (inRegion [{ fr with xmask := 7 }, pk]) (fun x => frameOf x.g.stack x.f.tok == some { fr with xmask := 7 } &&
      x.g.stack.find? (fun e => e.kind == .parked && e.tok == x.f.tok) == some pk && pk.mask ||| x.f.mask != 7#32) = true ∧
    goes .join (inRegion [{ fr with tok := 3 }, { fr with ptok := 3, rj := 0x40 }]) (fun x =>
      chainFrom x.g.stack x.f.tok 33 == [{ fr with ptok := 3, rj := 0x40 }, { fr with tok := 3 }] && fr.rj == x.f.pc &&
      decide (x.g.stack.length < 32)) = true ∧
    goes .join (inRegion [{ fr with rj := 0x40 }]) (fun x => (chainFrom x.g.stack x.f.tok 33).all (fun e => e.rj != x.f.pc)) = true := by
  decide +kernel

/-- ExitResults: outside handler mode, without and within a region that its other lanes have left, and in handler mode with all lanes
and with some lanes of the entry mask. -/
theorem test_wit_exit :
    let inHandler (m : LaneMask) := withGroup demo (fun g => { g with handler := some ⟨.f0, 0, 0, 0, m⟩ })
    goes .exit demo (fun x => (x.g.flightsOf x.f.mask).isEmpty && x.g.handler.isNone && x.g.stack.isEmpty) = true ∧
    goes .exit (withGroup demo (fun g => { g with
      stack := [⟨.frame, 1, 7, 0, 0, 3, 0, 0x80, 0⟩, ⟨.parked, 1, 7, 0, 2, 0, 0, 0, 0⟩]
      f0 := g.f0.map (fun f => { f with tok := 7, depth := 1, mask := 1 }) })) (fun x => x.g.handler.isNone && x.f.tok != 0#16 &&
        x.g.stack.find? (fun e => e.kind == .parked && e.tok == x.f.tok) == some ⟨.parked, 1, 7, 0, 2, 0, 0, 0, 0⟩ &&
        (frameOf x.g.stack x.f.tok).any (fun fr => fr.xmask &&& ~~~x.f.mask == 2#32)) = true ∧
    goes .exit (withGroup demo (fun g => { g with stack := [⟨.ready, 0, 0, 0, 2, 0, 0x40, 0, 0⟩] })) (fun x =>
      x.f.tok == 0#16 && (lastReady x.g.stack).isSome) = true ∧
    goes .exit (inHandler allLanes) (fun x => x.g.handler.any (fun h => h.mask &&& ~~~x.f.mask == 0#32)) = true ∧
    goes .exit (withFrag (inHandler 3) (fun f => { f with mask := 1 })) (fun x =>
      x.g.handler.any (fun h => h.mask &&& ~~~x.f.mask != 0#32) && x.g.exited ||| x.f.mask != allLanes) = true ∧
    gives .exit demo (fun t => (t.group? gk).any (fun g => g.ended) || (t.group? gk).isNone) = true := by decide +kernel

/-- LocalLoads, LocalStores and LocalRangeTraps: the last bytes of each level, and the first address outside. -/
theorem test_wit_local :
    let s (a : DWord) := withGroup demo (fun g => { g with regs := g.regs.wrS 6 a })
    let f : MemF := ⟨0, ⟨1, false⟩, 4, ⟨.none, 6, 0, 0⟩, .core, .relaxed, .b32⟩
    let inside (sp : Space) (x : Iss) : Bool := (lanesOf x.act).all (fun l =>
      (x.s.localAt x.g.team x.g.gidx x.g.key x.k.die sp l (x.g.regs.ea f.addr l) 4).isSome)
    let last : Space → DWord := fun sp => match sp with
      | .lane => 16380 | .scratch => 16380 | .die => 16380 | .pks => 16777212 | .global => 0
    localLoads.all (fun p => goes (p.2 f) (s (last p.1)) (inside p.1)) = true ∧
    localStores.all (fun p => goes (p.2 f) (s (last p.1)) (fun x => inside p.1 x && !f.order.rel)) = true ∧
    (localLoads ++ localStores).all (fun p => goes (p.2 f) (s (last p.1 + 4)) (fun x => x.act == 3#32 && !inside p.1 x)) = true := by
  decide +kernel

/-! ### The global level, atomics and locks -/

/-- Every part translates. -/
def allOk (x : Iss) (acc : AccKind) (n : Nat) (ea : Nat → DWord) : Bool :=
  (x.s.parts x.g.key acc x.act n ea).all (fun p => match p.fate with
    | .ok .. => true
    | .trap _ | .fault .. | .wait => false)
/-- A release may leave. -/
def mayRel (x : Iss) (sc : Scope) : Bool :=
  x.s.released x.k x.g x.f.mask (sc == .sys) && !(x.s.core x.k.core).eyeletIn x.k.g x.f.mask &&
    x.g.sr.eystruck &&& x.f.mask == 0#32
/-- A memory operand at s6 + off, for the lanes of p1. -/
def atS6 (off : BitVec 12) (z : MSize) (o : Order) : MemF := ⟨0, ⟨1, false⟩, 4, ⟨.none, 6, 0, off⟩, .core, o, z⟩
/-- s6 at another address. -/
def s6At (a : DWord) (s : State) : State := withGroup s (fun g => { g with regs := g.regs.wrS 6 a })
/-- The die holds a copy of the line of 0x200100 that is older than its home. -/
def staleDemo : State := { demo with
  copies := [((⟨0, 0⟩, lineOf 0x200100), ⟨List.replicate 128 1#8, 0, 0⟩)]
  mods := [(0, { Module.reset with wall := 1000 })] }

/-- GlobalLoads: within one sector, and over the end of one. -/
theorem test_wit_global_loads :
    [(0x100 : DWord), 0x11C, 0x11E].all (fun a => [Instr.ldg (atS6 0 .b32 .acquire), .ldSpec (atS6 0 .b32 .relaxed)].all
      (fun i => goes i (s6At a demo) (fun x => allOk x .read 4 (fun l => x.g.regs.ea ⟨.none, 6, 0, 0⟩ l) &&
        (x.s.staleCopy x.k.die (lineOf 0x200100)).isNone))) = true := by decide +kernel

/-- SpeculativeLoadOfStaleLine: with no acquire before it, and behind one. -/
theorem test_wit_stale_line :
    let ok (b : Bool) (x : Iss) : Bool := x.act != 0#32 && x.g.acqBlocks x.f.mask x.g.nextId == b &&
      allOk x .read 4 (fun l => x.g.regs.ea ⟨.none, 6, 0, 0⟩ l) && (x.s.staleCopy x.k.die (lineOf 0x200100)).isSome &&
      (x.s.parts x.g.key .read x.act 4 (fun l => x.g.regs.ea ⟨.none, 6, 0, 0⟩ l)).all (fun p => lineOf p.pa == lineOf 0x200100) &&
      (x.s.core x.k.core).eyelets.isEmpty
    goes (.ldSpec (atS6 0 .b32 .relaxed)) staleDemo (ok false) = true ∧
    goes (.ldSpec (atS6 0 .b32 .relaxed)) (later (nx (.ldg { atS6 0 .b32 .acquire with la := 3, d := 5 }) staleDemo)) (ok true) = true := by
  decide +kernel

/-- FaultingLanesReplay: a page in state Absent, and one in state Stale. -/
theorem test_wit_faulting_lanes :
    let bad (a : DWord) (k : FaultKind) : Bool := goes (.ldg (atS6 0 .b32 .relaxed)) (s6At a shardDemo) (fun x =>
      match x.s.decide130 x.g.key x.g.team x.k.g x.f.pc (x.s.parts x.g.key .read x.act 4 (fun l => x.g.regs.ea ⟨.none, 6, 0, 0⟩ l)) with
      | .go [] 3 (some (k', _, _)) => k' == k
      | .go .. | .trap _ | .wait => false)
    bad 0x800000 .absent = true ∧ bad 0xA00000 .gather = true := by decide +kernel

/-- TranslationTrapOrder. -/
theorem test_wit_trap_order :
    let p (l : Nat) (f : Fate) : XPart := ⟨l, 0, 4, 0x10, f⟩
    let ps := [p 0 (.ok 0 0), p 1 (.trap 0x15), p 2 (.trap 0x09), p 3 (.trap 0x09)]
    ps.find? (fun q => q.fate = .trap 0x09) = some (p 2 (.trap 0x09)) ∧
    (∀ d ∈ [0x08, 0x09, 0x0A, 0x15].takeWhile (fun d => d ≠ 0x09), ∀ q ∈ ps, q.fate ≠ .trap d) := by decide

/-- GlobalWordsTrap: a store to the page that is only readable, an access beyond 48 bits, one at a module without a link. -/
theorem test_wit_global_traps :
    let code (i : Instr) (a : DWord) : Nat := match exec i (s6At a demo) with
      | .next t => ((t.group? gk).map (fun g => g.sr.hstat.toNat % 256)).getD 0
      | .fault _ | .refused _ => 0
    code (.ldg (atS6 0 .b32 .relaxed)) 0x1000000000000 = 0x08 ∧ code (.ldSpec (atS6 0 .b32 .relaxed)) 0x400000 = 0x15 ∧
    code (.stg (atS6 0 .b32 .relaxed)) 0x200000 = 0x08 ∧
    code (.cwb ⟨g7, ⟨.none, 6, 0, 0⟩, .core, .relaxed⟩) 0x200000 = 0x08 := by decide +kernel

/-- GlobalStores: a store, one that merges, one that finds the buffer full, an acknowledged store at a good barrier address and at a bad
one. -/
theorem test_wit_global_stores :
    let good (x : Iss) : Bool := allOk x .write 4 (fun l => x.g.regs.ea ⟨.none, 6, 0, 0⟩ l) && x.act != 0#32
    let full := (List.range 8).foldl (fun s i => later (nx (.stg (atS6 0 .b32 .relaxed)) (s6At (BitVec.ofNat 64 (0x200 + 32 * i)) s))) demo
    goes (.stg (atS6 0 .b32 .relaxed)) (later (nx (.stg (atS6 0 .b32 .relaxed)) demo)) (fun x => good x &&
      ((x.g.sb.filter (fun e => e.sector == 0x200100 / 32)).getLast?.any (fun e => e.st == .queued && (match e.op with
        | .bytes _ => true
        | .ack .. | .red .. => false))) &&
      (storeSectors x.g.regs .b32 4 (x.s.parts x.g.key .write x.act 4 (fun l => x.g.regs.ea ⟨.none, 6, 0, 0⟩ l))).length == 1) = true ∧
    goes (.stg (atS6 0 .b32 .relaxed)) (s6At 0x100 full) (fun x => good x && x.g.sb.length == 8 &&
      x.g.sb.all (fun e => e.sector != 0x200100 / 32)) = true ∧
    goes (.stg (atS6 0 .b32 .release)) demo (fun x => allOk x .write 4 (fun l => x.g.regs.ea ⟨.none, 6, 0, 0⟩ l) &&
      mayRel x .core && x.g.entering.isEmpty && x.g.sb.isEmpty) = true ∧
    goes (.stAck (atS6 0 .b32 .release)) demo (fun x => (x.s.barRef x.g.team x.g.key x.k.die x.g.sr.ackba).isSome &&
      allOk x .write 4 (fun l => x.g.regs.ea ⟨.none, 6, 0, 0⟩ l) && mayRel x .core && x.g.entering.isEmpty &&
      decide ((x.ackEntries (atS6 0 .b32 .release) (.team 0 0) (x.s.parts x.g.key .write x.act 4
        (fun l => x.g.regs.ea ⟨.none, 6, 0, 0⟩ l))).length ≤ 8)) = true ∧
    goes (.stAck (atS6 0 .b32 .relaxed)) (withGroup demo (fun g => { g with sr := { g.sr with ackba := 16384 } }))
      (fun x => (x.s.barRef x.g.team x.g.key x.k.die x.g.sr.ackba).isNone) = true := by decide +kernel

/-- ChkResults: an eyelet in flight, none struck, one struck. -/
theorem test_wit_chk :
    let fly := demo.modCore ⟨0, 0⟩ (fun c => { c with eyelets := [⟨0, 0, 0, 1#32, 0, 2048, false⟩] })
    goes (.chk 2) fly (fun x => (x.s.core x.k.core).eyeletIn x.k.g x.f.mask) = true ∧
    goes (.chk 2) demo (fun x => !(x.s.core x.k.core).eyeletIn x.k.g x.f.mask && x.g.sr.eystruck &&& x.f.mask == 0#32) = true ∧
    goes (.chk 2) (withGroup demo (fun g => { g with sr := { g.sr with eystruck := 4 } }))
      (fun x => x.g.sr.eystruck &&& x.f.mask != 0#32) = true := by decide +kernel

/-- CacheControls: pf to L2, pf of a line whose translation is at hand, cwb, cinv. -/
theorem test_wit_cache_controls :
    let f : LineF := ⟨⟨1, false⟩, ⟨.none, 6, 0, 0⟩, .core, .relaxed⟩
    let near := later (nx (.ldg { atS6 0 .b32 .relaxed with la := 3 }) demo)
    goes (.pf f true) demo = true ∧ goes (.pf f false) demo (fun x => (x.atOnceLines f.addr).isEmpty) = true ∧
    goes (.pf f false) near (fun x => x.atOnceLines f.addr == [lineOf 0x200100] && (tget x.s.copies (x.k.die, lineOf 0x200100)).isNone &&
      (x.s.line (lineOf 0x200100)).point == .home && (x.s.core x.k.core).pfs.isEmpty) = true ∧
    [Order.relaxed, .release].all (fun o => goes (.cwb { f with order := o }) demo (fun x =>
      allOk x .write 1 (fun l => x.g.regs.ea f.addr l &&& ~~~127#64) && x.s.released x.k x.g x.f.mask false)) = true ∧
    goes (.cinv f) near (fun x => x.atOnceLines f.addr == [lineOf 0x200100]) = true := by decide +kernel

/-- AtomicsOpen and ReductionsEnterTheBuffer: the last word of a sector. -/
theorem test_wit_atomics :
    let f : AtomF := ⟨0, ⟨1, false⟩, 4, ⟨.none, 6, 0, 0⟩, .core, .relaxed, .s64⟩
    let ff : AtomFF := ⟨0, ⟨1, false⟩, 4, ⟨.none, 6, 0, 0⟩, .core, .relaxed⟩
    let s := s6At 0x118 demo
    let good (a : MAddr) (x : Iss) : Bool := (lanesOf x.act).all (fun l => decide ((x.g.regs.ea a l).toNat % 32 + 8 ≤ 32)) &&
      allOk x .write 8 (fun l => x.g.regs.ea a l) && mayRel x .core && x.g.sb.isEmpty && x.g.entering.isEmpty
    atomOps.all (fun p => goes (p.2 f) s (good f.addr)) = true ∧ atomFOps.all (fun p => goes (p.2 ff) s (good ff.addr)) = true ∧
    redOps.all (fun p => goes (p.2 f) s (good f.addr)) = true ∧ redFOps.all (fun p => goes (p.2 ff) s (good ff.addr)) = true := by
  decide +kernel

/-- SectorCrossingTraps: one byte later. -/
theorem test_wit_sector_crossing :
    let f : AtomF := ⟨0, ⟨1, false⟩, 4, ⟨.none, 6, 0, 0⟩, .core, .relaxed, .s64⟩
    let ff : AtomFF := ⟨0, ⟨1, false⟩, 4, ⟨.none, 6, 0, 0⟩, .core, .relaxed⟩
    (atomOps ++ redOps).all (fun p => goes (p.2 f) (s6At 0x119 demo) (fun x =>
      (lanesOf x.act).find? (fun l => 32 < (x.g.regs.ea f.addr l).toNat % 32 + 8) == some 0)) = true ∧
    (atomFOps ++ redFOps).all (fun p => goes (p.2 ff) (s6At 0x11F demo) (fun x =>
      (lanesOf x.act).find? (fun l => 32 < (x.g.regs.ea f.addr l).toNat % 32 + 4) == some 0)) = true := by decide +kernel

/-- LockWords and UnlockWord: no lane, a free line, a held line, four locks held. -/
theorem test_wit_locks :
    let f (p : PReg) : LckF := ⟨0, ⟨p, false⟩, 9, 6, 0, .core⟩
    let u (p : PReg) : UnlkF := ⟨⟨p, false⟩, 6, 0, .core⟩
    let L := lineOf 0x200100
    let holds (n : Nat) := withGroup demo (fun g => { g with locks := (List.range n).map (fun i => ⟨L + i, 0, 0, 0, false⟩) })
    let onLine (x : Iss) : Bool := match x.lockLine 6 0 with
      | .line l _ => l == L
      | .skipped | .wait _ | .trap _ | .fault .. => false
    [Instr.lck (f 0), .lckTry (f 0), .unlk (u 0)].all (fun i => goes i demo (fun x => x.act == 0#32)) = true ∧
    [Instr.lck (f 1), .lckTry (f 1)].all (fun i => goes i demo (fun x => onLine x && x.g.locks.isEmpty && x.g.flights.isEmpty)) = true ∧
    goes (.lck (f 1)) (holds 1) (fun x => onLine x && x.g.locks.any (fun h => h.line == L)) = true ∧
    goes (.lckTry (f 1)) (withGroup (holds 4) (fun g => { g with locks := g.locks.map (fun h => { h with line := h.line + 1 }) }))
      (fun x => onLine x && x.g.locks.length == 4) = true ∧
    goes (.unlk (u 1)) demo (fun x => onLine x && x.g.locks.isEmpty) = true ∧
    goes (.unlk (u 1)) (holds 1) (fun x => onLine x && x.g.locks.any (fun h => h.line == L) && mayRel x .core) = true := by
  decide +kernel

/-! ### Barriers, fences, copies and tile words -/

/-- A state whose s3 is v. -/
def s3At (v : DWord) (s : State) : State := withGroup s (fun g => { g with regs := g.regs.wrS 3 v })

/-- BarrierRequests, BarrierWait and BarrierAddressTraps: a barrier address s7 + 0 in the team's region, expected phase s0 and s8,
arrivals 0 and 3; an address that is not a multiple of 16. -/
theorem test_wit_barrier_words :
    let f (b : SReg) (o : Order) : BarF := ⟨0, 0, 7, 0, b, .core, o⟩
    let good (x : Iss) : Bool := (x.s.barRef x.g.team x.g.key x.k.die (x.g.regs.sbase 7 0)).isSome
    [Instr.barInit (f 8 .relaxed), .barInit (f 0 .relaxed), .barExpect (f 8 .relaxed), .barTest (f 8 .acquire)].all
      (fun i => goes i demo good) = true ∧
    (demo.group? gk).any (fun g => (g.regs.rdS 8).setWidth 16 == (3#16) && (g.regs.rdS 0).setWidth 16 == (0#16)) = true ∧
    goes (.barArrive (f 8 .release)) demo (fun x => good x && mayRel x .core) = true ∧
    [(0 : SReg), 8].all (fun b => goes (.barWait (f b .acquire)) demo (fun x =>
      (match x.s.barRef x.g.team x.g.key x.k.die (x.g.regs.sbase 7 0) with
        | some o => x.s.objRead o == some 0 && !x.s.barPending x.g.team x.g.gidx o
        | none => false) && !(x.s.core x.k.core).eyeletIn x.k.g x.f.mask)) = true ∧
    [Instr.barInit, .barArrive, .barExpect, .barWait, .barTest].all (fun mk => goes (mk ⟨0, 0, 7, 8, 8, .core, .relaxed⟩) demo
      (fun x => (x.s.barRef x.g.team x.g.key x.k.die (x.g.regs.sbase 7 8)).isNone)) = true := by decide +kernel

/-- BarrierStepRule: an object for each clause, at the ends of the 32-bit range. -/
theorem test_wit_barrier_step :
    let o (ap : Nat) (b : Int) : BarObj := ⟨false, 0, 0, b, 2, ap, 5⟩
    ((o 0 0).step true 0).2 = .dropped ∧ ((o 2 0).step true 0).2 = .none ∧ ((o 1 0).step true 0).2 = .completed ∧
    ((o 1 (2 ^ 31 - 1)).step false 1).1.ecode = 4 ∧ ((o 2 (-(2 ^ 31))).step false (-1)).1.ecode = 4 ∧
    ((o 1 0).step true (-1)).1.ecode = 2 ∧ ((o 1 (-(2 ^ 31))).step true (-1)).1.ecnt = 2 ∧
    ((⟨false, 0, 0xFFFF, 0, 0, 0, 5⟩ : BarObj).step true 0).1 = ⟨false, 3, 0xFFFF, 0, 0, 0, 5⟩ := by decide +kernel

/-- BarrierUnitStep: an initialization, then an arrival that completes the phase. -/
theorem test_wit_barrier_unit :
    let f : BarF := ⟨0, 9, 7, 0, 8, .core, .relaxed⟩
    let s := nx (.barInit { f with d := 0 }) (s6At 0 (withGroup demo (fun g => { g with regs := g.regs.wrS 8 1 })))
    let t := nx (.barrier 0) s
    let u := nx (.barArrive { f with b := 0 }) (later t)
    s.barq.length = 1 ∧ (s.barq[0]?).any (fun q => !State.objGone { s with barq := [] } q.o &&
      (State.reqObj { s with barq := [] } q).isSome) = true ∧ u.barq.length = 1 ∧
    ((nx (.barrier 0) u).group? gk).any (fun g => g.flights.any (fun fl => fl.ready && fl.writes == [.s 9 0x100000000#64])) = true := by
  decide +kernel

/-- Fences: each goes on with nothing outstanding; fence.acq and fence.rel wait for a load and a store; struck eyelets trap. -/
theorem test_wit_fences :
    let ld := later (nx (.ldg { atS6 0 .b32 .relaxed with la := 3 }) demo)
    let st := later (nx (.stg (atS6 0 .b32 .relaxed)) demo)
    goes (.fenceAcq .core) demo (fun x => x.acquired) = true ∧ goes (.fenceAcq .core) ld (fun x => !x.acquired) = true ∧
    goes (.fenceRel .pod) demo (fun x => mayRel x .pod) = true ∧
    goes (.fenceRel .pod) st (fun x => !x.s.released x.k x.g x.f.mask false) = true ∧
    goes (.fenceRel .pod) (withGroup demo (fun g => { g with sr := { g.sr with eystruck := 1 } })) (fun x =>
      x.s.released x.k x.g x.f.mask false && !(x.s.core x.k.core).eyeletIn x.k.g x.f.mask && x.g.sr.eystruck &&& x.f.mask != 0#32) = true := by
  decide +kernel

/-- Fences that name paths: at their first issue with the paths done and not, and where an earlier issue has found them done. -/
theorem test_wit_fence_paths :
    let late := { demo with mods := [(0, { Module.reset with wall := 1000 })] }
    let st := later (nx (.stg (atS6 0 .b32 .relaxed)) demo)
    let cp := later (nx (.cpy ⟨7, 6, 3, 0, .scratch, .global, 0, 0, false, false, 0⟩) (s3At 64 demo))
    let fresh (x : Iss) : Bool := x.fence == ⟨x.g.nextId, x.s.nextId, [], []⟩
    let found (s : State) := withFrag s (fun f => { f with fence := some ⟨5, 5, (fencePaths .pkg).map (fun p => (p, 3, 5)), []⟩ })
    let holds (x : Iss) (p : Path) (sc : Scope) : Bool := x.s.pathDone x.g.team x.g.gidx x.fence p &&
      passed (x.s.wall x.k.m) (x.s.horizon p sc x.k.core) && x.s.gwctsIn p sc x.k.core x.s.nextId
    goes (.fenceFull .pkg) late (fun x => mayRel x .pkg && x.acquired && fresh x && (fencePaths .pkg).all (fun p => holds x p .pkg)) = true ∧
    goes (.fenceFull .pkg) (found late) (fun x => mayRel x .pkg && x.acquired && (fencePaths .pkg).all (fun p =>
      x.fence.hz.any (fun h => h.1 == p && passed (x.s.wall x.k.m) h.2.1 && x.s.gwctsIn p .pkg x.k.core h.2.2))) = true ∧
    goes (.fenceX .group .copy .core) demo (fun x => x.s.groupDone x.k x.g x.fence && x.s.released x.k x.g x.f.mask false) = true ∧
    goes (.fenceX .group .copy .core) st (fun x => !x.s.groupDone x.k x.g x.fence) = true ∧
    [Path.group, .tile].all (fun q => goes (.fenceX .copy q .pkg) (found late) (fun x => x.fence.hz.any (fun h => h.1 == .copy &&
      passed (x.s.wall x.k.m) h.2.1 && x.s.gwctsIn .copy .pkg x.k.core h.2.2))) = true ∧
    [Path.group, .tile].all (fun q => goes (.fenceX .copy q .core) cp (fun x => fresh x && !x.s.pathDone x.g.team x.g.gidx x.fence .copy)) =
      true ∧
    [Path.group, .tile].all (fun q => goes (.fenceX .copy q .core) late (fun x => fresh x && holds x .copy .core)) = true ∧
    goes (.fenceX .copy .group .core) demo (fun x => fresh x && x.s.pathDone x.g.team x.g.gidx x.fence .copy &&
      !passed (x.s.wall x.k.m) (x.s.horizon .copy .core x.k.core)) = true ∧
    goes (.fenceX .copy .tile .core) { demo with nextId := 9, pend := [⟨5, 0, [1], 0, .engine (.copy ⟨0, 0⟩), 0, 0⟩] } (fun x => fresh x &&
      x.s.pathDone x.g.team x.g.gidx x.fence .copy && !x.s.gwctsIn .copy .core x.k.core x.s.nextId) = true := by decide +kernel

/-- CopyWords, CopyWait: no bytes, the largest copy and one byte more, room, a full queue. -/
theorem test_wit_copies :
    let f : CpyF := ⟨7, 6, 3, 0, .scratch, .global, 0, 0, false, false, 0⟩
    let c (x : Iss) : CopyArgs := ⟨1, (x.g.regs.rdS 3).toNat % 2 ^ 32, x.g.regs.rdS 6, x.g.regs.rdS 7, 0, 0⟩
    let check (x : Iss) : Option Nat := (x.copyCheck f false (c x) (x.g.regs.rdS 0)).map (·.code)
    let two : CpyF := { f with dstride := 0x40, sstride := 0x80 }
    let c2 (x : Iss) : CopyArgs := ⟨2, 32, x.g.regs.rdS 6, x.g.regs.rdS 7, 0x80, 0x40⟩
    goes (.cpy f) (s3At 0 demo) (fun x => check x == none && (c x).len == 0) = true ∧
    goes (.cpy f) (s3At (16384 - 0x200) demo) (fun x => check x == none && (c x).len != 0 &&
      (x.s.core x.k.core).copies.isEmpty && x.s.copiesOf x.g.team x.g.gidx == 0) = true ∧
    goes (.cpy f) (s3At (16384 - 0x1FF) demo) (fun x => check x == some 7) = true ∧
    goes (.cpy f) (s3At (2 ^ 30 + 1) demo) (fun x => check x == some 0x11) = true ∧
    goes (.cpy2d two) (s3At (2 * 2 ^ 32 + 32) demo) (fun x => (x.copyCheck two true (c2 x) 0).isNone) = true ∧
    (let full := (List.range 16).foldl (fun s _ => later (nx (.cpy f) s)) (s3At 8 demo)
     goes (.cpy f) full (fun x => check x == none && x.s.copiesOf x.g.team x.g.gidx == 16) = true ∧
     goes (.cpyWait 9 15) full (fun x => decide (15 < x.s.copiesOf x.g.team x.g.gidx)) = true ∧
     goes (.cpyWait 9 15) demo (fun x => decide (x.s.copiesOf x.g.team x.g.gidx ≤ 15)) = true) := by decide +kernel

/-- CopyPiecesCover: the pieces of two rows. -/
theorem test_wit_copy_pieces : (CopyArgs.pieces ⟨2, 40, 0x10, 0x1F, 0x80, 0x40⟩).length = 6 := by decide +kernel

/-- TileWordsJoinTheQueue and TileWordsWaitOrTrap. -/
theorem test_wit_tile_words :
    let s := s3At 64 demo
    let mg (c : SReg) : MmacgF := ⟨false, false, false, true, 0, 6, 7, c, .b8 false true 3, .b8 false true 3, 0, 0⟩
    let tv (b : SReg) (side : Bool) : TileMvF := ⟨1, b, 0, 0, side⟩
    let av (b : SReg) : AccMvF := ⟨1, b, 0, 0⟩
    let words : List Instr := [.tzero true 3, .tzero false 7, .mmac ⟨true, 1, false, false, 0, false, false, 1, .f16, .bf16, false⟩,
      .mmacg (mg 3), .tcvt ⟨false, 1, 1, 6, .f16, .dyn, false, false⟩, .tld (tv 6 false), .tst (tv 6 true), .taccLd (av 0),
      .taccSt (av 0)]
    words.all (fun i => goes i s (fun x => (x.s.core x.k.core).tileQ.isEmpty)) = true ∧
    words.all (fun i => gives i s (fun t => (t.core ⟨0, 0⟩).tileQ.length == 1)) = true ∧
    goes (.mmacg (mg 3)) s (fun x => (x.g.regs.rdS 3).toNat % 64 == 0) = true ∧
    (let full := (List.range 8).foldl (fun s _ => later (nx (.tzero true 0) s)) s
     words.all (fun i => goes i full (fun x => (x.s.core x.k.core).tileQ.length == 8)) = true) ∧
    goes (.mmacg (mg 8)) s (fun x => (x.g.regs.rdS 8).toNat % 2 ^ 32 % 64 != 0) = true ∧
    goes (.tld ⟨1, 6, 0xFFF, 0, false⟩) (s6At 8193 demo) (fun x =>
      rowsOut (x.g.regs.sbase 6 0xFFF).toNat (x.pitch 0 128) 64 128 16384 == none) = true ∧
    goes (.tld ⟨1, 6, 0, 0, false⟩) (s6At 8193 demo) (fun x => (rowsOut (x.g.regs.sbase 6 0).toNat (x.pitch 0 128) 64 128 16384).isSome) = true ∧
    goes (.taccSt (av 8)) s (fun x => (rowsOut (x.g.regs.sbase 8 0).toNat (x.pitch 0 256) 64 256 16384).isSome) = true := by decide +kernel

/-! ### Pod words, shard words, the system -/

/-- The machine in a job of modules 0 and 1 (of one rack) on which the context has its peers. -/
def podDemo : State := { shardDemo with
  mods := [0, 1].map (fun m => (m, { Module.reset with inJob := true, optgrp := 1, wall := 1000, ports := [⟨0, 1, 1 - m, 0, 0⟩] }))
  ctxs := [(⟨0, 0⟩, { Context.fresh { demoCtx with peers := [(0, 0), (1, 0)] } 0 with dies := [0] })] }

/-- FlagWords and FlagTraps. -/
theorem test_wit_flags :
    let f : FflF := ⟨⟨1, false⟩, 0, ⟨.none, 6, 0, 0⟩, .core⟩
    let ok (x : Iss) : Bool := (lanesOf x.act).all (fun l =>
      flagBaOk (x.g.regs.ea f.addr l &&& 0xFC00FFFFFFFFFFFF#64).toNat && x.s.reachable x.k.m ((x.g.regs.ea f.addr l).toNat / 2 ^ 48 % 1024))
    goes (.fflArr f) (s6At 0x8001000000000040 podDemo) ok = true ∧ goes (.fflArr f) (s6At 0x8000000000000040 podDemo) ok = true ∧
    goes (.fflArr f) (s6At 0x4000000001000000 podDemo) (fun x =>
      (lanesOf x.act).find? (fun l => !flagBaOk (x.g.regs.ea f.addr l &&& 0xFC00FFFFFFFFFFFF#64).toNat) == some 0) = true ∧
    goes (.fflArr f) (s6At 0x8003000000000040 podDemo) (fun x =>
      (lanesOf x.act).find? (fun l => !x.s.reachable x.k.m ((x.g.regs.ea f.addr l).toNat / 2 ^ 48 % 1024)) == some 0) = true ∧
    goes (.fflB32 { f with d := 4 }) demo (fun x => allOk x .write 4 (fun l => x.g.regs.ea f.addr l)) = true ∧
    goes (.fflB64 { f with d := 4 }) (s6At 0x11C demo) (fun x => allOk x .write 8 (fun l => x.g.regs.ea f.addr l)) = true := by
  decide +kernel

/-- ShuttleWords: with an empty store buffer, with a store in it, and with no active lane. -/
theorem test_wit_shuttles :
    let f (p : PReg) (n : Fin 8) : ShtlF := ⟨0, ⟨p, false⟩, 10, 4, 16, 12, n, 0⟩
    goes (.shtl (f 1 6)) demo (fun x => x.g.sb.isEmpty && x.g.entering.isEmpty) = true ∧
    goes (.shtlT (f 0 1)) demo (fun x => x.g.sb.isEmpty && x.act == 0#32) = true ∧
    goes (.shtl (f 1 1)) (later (nx (.stg (atS6 0 .b32 .relaxed)) demo)) (fun x => !x.g.sb.isEmpty) = true := by decide +kernel

/-- CollectiveWords and CollectiveStatus: a good call, a bad barrier address, every status. -/
theorem test_wit_collectives :
    let s (w2 ba : DWord) := withGroup podDemo (fun g => { g with
      regs := (((g.regs.wrS 20 0x100000).wrS 21 0x80000).wrS 22 w2).wrS 23 ba })
    let st (k : CollKind) (w2 : Nat) := podDemo.collStatus ⟨0, 0⟩ k 0x100000 0x80000 w2
    (shardDemo.desc? ⟨0, 0⟩ 0).isSome = true ∧
    [Instr.collAg 5 20, .collRs 5 20, .collAr 5 20, .collBc 5 20].all (fun i => goes i (s 64 0x40) (fun x =>
      (x.s.barRef x.g.team x.g.key x.k.die (x.g.regs.rdS 23)).isSome && x.s.colls.isEmpty)) = true ∧
    goes (.collAg 5 20) (s 64 0x48) (fun x => (x.s.barRef x.g.team x.g.key x.k.die (x.g.regs.rdS 23)).isNone) = true ∧
    st .ag 64 = 0 ∧ st .ag (2 ^ 32 + 64) = 3 ∧ st .ag 0 = 4 ∧ st .ag (2 ^ 24 + 1) = 4 ∧ st .ag (2 ^ 62 + 64) = 4 ∧
    st .bc (2 ^ 40 + 64) = 0 ∧ st .bc (2 ^ 41 + 64) = 4 ∧ st .ar (3 * 2 ^ 59 + 64) = 4 ∧ st .ar (2 ^ 63 + 64) = 4 ∧
    [(CollKind.ag, 0x100020, 4), (.ar, 0x100020, 4), (.ar, 0x100000, 0), (.ag, 0xFFE00, 0), (.ag, 0xFFE01, 4), (.ag, 0x1000FF, 4), (.ag, 0x100100, 0)].all (fun c =>
      podDemo.collStatus ⟨0, 0⟩ c.1 0x100000 (BitVec.ofNat 64 c.2.1) 64 == c.2.2) = true ∧
    shardDemo.collStatus ⟨0, 0⟩ .ag 0x100000 0x80000 64 = 1 ∧
    State.collStatus { podDemo with mem := mwriteN podDemo.mem 0x500800 [1] } ⟨0, 0⟩ .ag 0x100000 0x80000 64 = 2 := by decide +kernel

/-- ShardWords: pages that are Absent, Stale with and without a gather, plain, and none. -/
theorem test_wit_shard_words :
    let s (a : DWord) := s6At a podDemo
    let leaf (x : Iss) : Option Nat := (x.s.leaf? x.g.key (x.g.regs.rdS 6)).map (fun l => pteState l.2.2)
    goes (.shg 6) (s 0x800000) (fun x => leaf x == some 6) = true ∧
    goes (.shg 6) (s 0xA00000) (fun x => leaf x == some 1 && (x.s.gatherOf x.g.key (x.g.regs.rdS 6)).isNone &&
      (x.s.desc? x.g.key 0).isSome) = true ∧
    goes (.shg 6) (later (nx (.shg 6) (s 0xA00000))) (fun x => leaf x == some 1 && (x.s.gatherOf x.g.key (x.g.regs.rdS 6)).isSome) = true ∧
    goes (.shg 6) (s 0x1000000) (fun x => leaf x == none) = true ∧ goes (.shev 6 0) (s 0x800000) = true ∧
    goes (.shev 6 7) (s 0x800000) (fun x => (x.s.barRef x.g.team x.g.key x.k.die (x.g.regs.rdS 7)).isSome) = true ∧
    goes (.shev 6 8) (s 0x800000) (fun x => (x.s.barRef x.g.team x.g.key x.k.die (x.g.regs.rdS 8)).isNone) = true ∧
    [(0xA00000 : DWord), 0, 0x1000000].all (fun a => goes (.shq 0 9 6) (s a) && goes (.pgq 0 9 6) (s a)) = true ∧
    goes (.pgq 0 9 6) (s 0) (fun x => leaf x == some 0) = true := by decide +kernel

/-- TrapWords: trap, and an rfh whose next word is a nop, a bra, and one that is not a branch. -/
theorem test_wit_trap_words :
    let s (w : DWord) := withGroup { demo with cores := [(⟨0, 0⟩, { Core.fresh with icache := [(0, 0, [w, 0, 0, 0, 0, 0, 0, 0])] })] }
      (fun g => { g with handler := some ⟨.f0, 3, 0x40, 1, 0xFF⟩, sr := { g.sr with hmask := 0xF0F } })
    goes (.trap 0xFFF) demo = true ∧
    [(0x0490700000000000 : DWord), 0x2030700000200000, 0x0A00705040000040].all (fun w => goes .rfh (s w) (fun x => x.g.handler.isSome &&
      (x.s.codeAt x.k.core x.g.key x.g.sr.hpc).isSome)) = true ∧
    [(0x0490700000000000 : DWord), 0x2030700000200000, 0x0A00705040000040].map (fun w =>
      (((nx .rfh (s w)).group? gk).bind (fun g => g.f0)).bind (fun f => f.only)) = [none, none, some 0x0F#32] := by decide +kernel

/-- SpecialRegisters: every register that mfs reads, and every one that mts writes, in handler mode. -/
theorem test_wit_special_registers :
    let s := withGroup demo (fun g => { g with handler := some ⟨.f0, 0, 0, 0, allLanes⟩ })
    (List.range 0x60).all (fun n => match sregKind n with
      | none => true
      | some (_, w, _) => goes (.mfs 6 (BitVec.ofNat 12 n)) s && (!w || goes (.mts 6 (BitVec.ofNat 12 n)) s)) = true ∧
    goes (.mfs 6 0x04F) demo = false ∧ goes (.mts 6 0x045) (s6At 16384 demo) = true := by decide +kernel

/-- LaunchResults, QueuePops, EventSignal: a misaligned packet, an aligned one; queues that do not exist, are empty and hold an
entry, or hold commands; an event at its largest count. -/
theorem test_wit_queues :
    let q (n : Nat) := { demo with
      ctxs := [(⟨0, 0⟩, { Context.fresh demoCtx 0 with
        dies := [0], queues := [(3, { block := 0x700000, ring := 0x701000, logsz := 4, prio := 0, data := true, devpush := true, stopped := false, badEvent := false, packets := [], outAt := 0 })] })]
      mem := mwriteN (mwriteN demo.mem 0x700000 (toBytes 8 n)) 0x701000 (toBytes 8 77) }
    let commands (s : State) := { s with ctxs := s.ctxs.map (fun (c : CtxKey × Context) => (c.1, { c.2 with
      queues := c.2.queues.map (fun u => (u.1, { u.2 with data := false })) })) }
    let reads (x : Iss) : Bool := (x.s.parts x.g.key .read (maskOf ((lanesOf x.f.mask).take 1)) 64 (fun _ => x.g.regs.rdS 6)).all
      (fun p => match p.fate with
        | .ok .. => true
        | .trap _ | .fault .. | .wait => false)
    goes (.launch 0 9 8 8) demo (fun x => x.g.regs.rdS 8 &&& 63#64 != 0#64) = true ∧
    goes (.launch 0 9 6 8) demo (fun x => x.g.regs.rdS 6 &&& 63#64 == 0#64 && mayRel x .pod && reads x) = true ∧
    [Instr.qpop 0 10 8, .qpopNb 0 10 8].all (fun i => goes i demo (fun x => !x.g.acqBlocks x.f.mask x.g.nextId &&
      (x.s.queue? x.g.key 3).isNone)) = true ∧
    [0, 1].all (fun n => [Instr.qpop 0 10 8, .qpopNb 0 10 8].all (fun i => goes i (q n) (fun x =>
      !x.g.acqBlocks x.f.mask x.g.nextId && (x.s.queue? x.g.key 3).any (fun u => u.data && !u.off &&
        ((x.s.qHead u == x.s.qTail u) == (n == 0)) && (x.s.line (lineOf (u.block + 8))).red.isNone)))) = true ∧
    [Instr.qpop 0 10 8, .qpopNb 0 10 8].all (fun i => goes i (commands (q 1)) (fun x => !x.g.acqBlocks x.f.mask x.g.nextId &&
      (x.s.queue? x.g.key 3).any (fun u => !u.data))) = true ∧
    (let s := { demo with mods := [(0, { Module.reset with
        adds := [⟨⟨0, 0⟩, 3, 1, .packet 0 0, 0, 0, 0⟩, ⟨⟨0, 0⟩, 3, 1, .grid, 0, 0, 0⟩]
        events := [(3, { key := ⟨0, 0⟩, count := 0xFFFFFFFFFFFFFFFF, inline := [], overflow := [] })] })] }
     goes (.evsig 8) s (fun x => mayRel x .sys) = true ∧
     (s.module 0).events.find? (fun e => e.1 == 3 && e.2.key == ⟨0, 0⟩) = some (3, ⟨⟨0, 0⟩, 0xFFFFFFFFFFFFFFFF, [], []⟩)) := by decide +kernel

/-- DebugWords: with ATTACH and TRCEN clear and set. -/
theorem test_wit_debug_words :
    let on := { demo with mem := mwriteN demo.mem 0x600000 [3] }
    [Instr.bkpt 7, .trc 6 0xFFF, .smark 0x3A5].all (fun i => goes i demo && goes i on) = true ∧
    (on.dbg ⟨0, 0⟩ 0).testBit 0 = true ∧ (on.dbg ⟨0, 0⟩ 0).testBit 1 = true ∧ demo.dbg ⟨0, 0⟩ 0 = 0 := by decide +kernel

/-! ### The steps of memory -/

def LD : Nat := lineOf 0x200100
def homeK : DieKey := ⟨0, 0⟩
/-- A load, a store, an atomic and a reduction of lanes 0 and 1 at 0x100 have issued. -/
def ldDemo : State := nx (.ldg { atS6 0 .b32 .relaxed with la := 3 }) demo
def stDemo : State := nx (.stg (atS6 0 .b32 .relaxed)) demo
def atDemo : State := nx (.atomAdd ⟨3, ⟨1, false⟩, 4, ⟨.none, 6, 0, 0⟩, .core, .relaxed, .u32⟩) demo
def rdDemo : State := nx (.redAdd ⟨0, ⟨1, false⟩, 4, ⟨.none, 6, 0, 0⟩, .core, .relaxed, .u32⟩) demo
/-- A condition on the group. -/
def grp (s : State) (p : Group → Bool) : Bool := (s.group? gk).any p
/-- The line is at its home with nothing in the way. -/
def freeLine (s : State) (l : Nat) : Bool :=
  !s.movedLine l && !s.homeLost (128 * l) && (s.line l).red.isNone && (s.line l).lock.isNone && (s.line l).dir == .uncached &&
    !s.pinnedBy (lineMod l) l && !s.damagedAt (128 * l) 128

/-- ReadTakesBytes: a local part, a part that a store of the group forwards, and one that a Live copy gives. -/
theorem test_wit_read :
    let loc := nx (.lds { atS6 0 .b32 .relaxed with la := 3 }) demo
    let fwd := nx (.ldg { atS6 0 .b32 .relaxed with la := 3 }) (later stDemo)
    let filled := { ldDemo with copies := [((homeK, LD), ⟨List.replicate 128 0#8, 2048, 0⟩)] }
    let locked := { ldDemo with lines := [(LD, { Line.fresh with lock := some ⟨⟨0, 0, 1, ⟨0, 0⟩, 0, 1, 0, 0, none, false, 0, 0⟩, .held, 0, 0⟩ })] }
    grp loc (fun g => g.flights.any (fun f => f.id == 0 && (f.parts[0]?).any (fun p => p.bytes.isNone && p.space == .scratch &&
      loc.locReady gk g f.own f.ord p.space [(p.addr, p.len)] && !g.acqBlocks f.own f.ord && f.refused.isEmpty &&
      !loc.spoiledAt p.space ((List.range p.len).map (locByte p.space p.addr))))) = true ∧
    (locked.line LD).point = .slice homeK ∧
    grp fwd (fun g => g.flights.any (fun f => !f.ready && f.refused.isEmpty && (f.parts[0]?).any (fun p => p.space == .global && p.bytes.isNone &&
      !fwd.movedLine (lineOf p.addr) && (List.range p.len).all (fun j => (g.forward (p.addr + j)).isSome)))) = true ∧
    (tget filled.copies (homeK, LD)).any (fun c => live (filled.wall 0) c.expiry) = true ∧
    grp filled (fun g => g.flights.any (fun f => (f.parts[0]?).any (fun p => (g.forward p.addr).isNone && p.bytes.isNone &&
      !filled.staleWait gk g.key f.id p.va && (filled.line LD).point != .slice homeK))) = true ∧
    grp (nx (.read gk 0 0) filled) (fun g => g.flights.any (fun f => (f.parts[0]?).any (fun p => p.bytes == some [0, 0, 0, 0]))) = true := by
  decide +kernel

/-- FillInstallsCopy for a load and for a pf; ExpiredCopies at the end of 4,194,304 ns and one nanosecond later. -/
theorem test_wit_fill :
    [ldDemo, demo.modCore ⟨0, 0⟩ (fun c => { c with pfs := [(LD, 0, 2048)] })].all (fun s => freeLine s LD && s.mayInstall homeK LD &&
      (tget s.copies (homeK, LD)).isNone && s.fillLease gk LD == some 2048) = true ∧
    (let s (w : DWord) := { demo with
       copies := [((homeK, LD), ⟨[], 5, 0⟩)], mods := [(0, { Module.reset with wall := w })] }
     gives (.expiredCopyDrop homeK LD) (s 4194309) (fun t => t.copies.length == 1) = true ∧
     gives (.expiredCopyDrop homeK LD) (s 4194310) (fun t => t.copies.isEmpty) = true) := by decide +kernel

/-- DrainSendsEntry, PerformStores, CompletionsOfWrites: a store from the buffer to its acknowledgement, and a local store. -/
theorem test_wit_store_steps :
    let d := nx (.drain gk 0) stDemo
    let p := nx (.perform (.entry gk 0)) d
    let l := nx (.sts (atS6 0 .b32 .relaxed)) demo
    grp stDemo (fun g => (g.entry? 0).any (fun x => x.st == .queued && !x.note.counted && !g.acqBlocks x.own x.ord)) = true ∧
    grp (withGroup d (fun g => { g with sb := g.sb.map (fun e => { e with st := .queued }) })) (fun g =>
      (g.entry? 0).any (fun x => x.st == .queued && x.note.counted && !g.acqBlocks x.own x.ord)) = true ∧
    grp d (fun g => (g.entry? 0).any (fun x => x.st == .sent none)) = true ∧ freeLine d LD = true ∧ d.hasRegs LD = false ∧ d.xlatClear LD [(gk, 0)] = true ∧
    d.switchRoom LD (mwriteAt d.mem 0x200100 []) = true ∧
    grp p (fun g => (g.entry? 0).any (fun x => match x.st with
      | .performed w => (p.pend.find? (fun q => q.id == w)).any (fun q => q.wait.isEmpty)
      | .queued | .sent _ | .moved | .acked _ => false)) = true ∧
    grp (nx (.storeAck gk 0) p) (fun g => g.sb.isEmpty) = true ∧
    grp l (fun g => g.loc.any (fun x => x.id == 0 && l.locReady gk g x.own x.ord x.space (x.bytes.map (fun b => (b.1, 1))) &&
      !l.spoiledAt x.space (x.bytes.map (fun b => b.1)) && x.bytes.all (fun b => l.levelHolds g.key x.space b.1))) = true ∧
    (let c := l.modCore ⟨0, 0⟩ (fun c => { c with carve := none })
     grp c (fun g => g.loc.any (fun x => !x.bytes.all (fun b => c.levelHolds g.key x.space b.1))) = true ∧
     gives (.perform (.loc gk 0)) c (fun t => grp t (fun g => g.loc.isEmpty) && t.scratch.isEmpty) = true) := by
  decide +kernel

/-- PerformAtomicLane and CompletionsOfWrites: lane 0, then lane 1 of one word, then the reply; a write-back. -/
theorem test_wit_atomic_steps :
    let a := nx (.perform (.lane gk 0 0)) atDemo
    let b := nx (.perform (.lane gk 0 1)) a
    let w := nx (.cwb ⟨⟨1, false⟩, ⟨.none, 6, 0, 0⟩, .core, .relaxed⟩) demo
    freeLine atDemo LD = true ∧ atDemo.hasRegs LD = false ∧ atDemo.hasRecords LD = false ∧ atDemo.reqs = [] ∧
    grp atDemo (fun g => g.flights.all (fun f => f.refused.isEmpty && !g.acqBlocks f.own f.ord && f.parts.all (fun p => !atDemo.staleWait gk g.key f.id p.va))) = true ∧ atDemo.xlatClear LD [] = true ∧ atDemo.switchRoom LD atDemo.mem = true ∧
    grp a (fun g => (g.flight? 0).any (fun f => (f.parts[0]?).any (fun p => p.bytes.isSome) && (f.parts[1]?).any (fun p => p.bytes.isNone))) = true ∧
    grp b (fun g => (g.flight? 0).any (fun f => f.complete && b.laneDone gk 0)) = true ∧
    gives (.atomReply gk 0) b (fun t => grp t (fun g => (g.flight? 0).any (fun f => f.ready))) = true ∧
    grp w (fun g => g.wbs.length == 1 && g.wbs.all (fun x => (w.line x.line).dir == .uncached && (w.line x.line).red.isNone &&
      !g.acqBlocks x.own x.id)) = true := by decide +kernel

/-- MergedReductions, RefusedEntriesResend, EyeletsResolve. -/
theorem test_wit_other_memory_steps :
    let r := nx (.perform (.entry gk 0)) (nx (.drain gk 0) rdDemo)
    let m := withGroup stDemo (fun g => { g with sb := g.sb.map (fun e => { e with st := .moved }) })
    let y (v : Word) := demo.modCore ⟨0, 0⟩ (fun c => { c with eyelets := [⟨0, LD, v, 1#32, 0, 2048, false⟩] })
    (r.line LD).point = .home ∧ (r.line LD).red.isSome = true ∧ r.redClear LD = true ∧ r.movedLine LD = false ∧ r.hasRegs LD = false ∧
    (r.line LD).red.any (fun x => x.from_ == [(gk, 0)]) = true ∧ grp r (fun g => (g.entry? 0).isSome) = true ∧
    gives (.redEntryApply LD) r (fun t => grp t (fun g => (g.entry? 0).any (fun y => match y.st with
      | .performed w => t.pend.any (fun p => p.id == w && p.line == LD)
      | .queued | .sent _ | .moved | .acked _ => false))) = true ∧
    ((nx (.redEntryApply LD) r).line LD).red.isNone = true ∧ (demo.line LD).red = none ∧
    grp m (fun g => (g.entry? 0).any (fun x => x.st == .moved && !m.staleWait gk g.key 0 x.va && m.xlat g.key x.va .write == .ok 0x200100 0x102000)) = true ∧
    m.movedLine LD = false ∧
    (let n := m.modModule 0 (fun x => { x with moved := [(0x200000, 2 ^ 21, 0)] })
     n.movedLine LD = true ∧ n.xlat ⟨0, 0⟩ 0x100 .write = .ok 0x200100 0x102000 ∧
     gives (.movedResend gk 0) n (fun t => grp t (fun g => (g.entry? 0).any (fun x => x.st == .moved))) = true) ∧
    [(0 : Word), 1].all (fun v => ((y v).core ⟨0, 0⟩).eyelets.length == 1 && freeLine (y v) LD) = true ∧
    [(0 : Word), 1].map (fun v => grp (nx (.resolve ⟨0, 0⟩ 0) (y v)) (fun g => g.sr.eystruck == 1)) = [false, true] := by decide +kernel

/-- ClockTick and ResultsLand: a tick, a shuffle's result one cycle early and in time, an acquire with an eyelet in flight. -/
theorem test_wit_tick_and_land :
    let v := nx (.voteBal ⟨3, g7, 9, 1⟩) demo
    let at_ (n : Nat) := v.modCore ⟨0, 0⟩ (fun c => { c with cycle := n })
    let acq := withGroup ((at_ 8).modCore ⟨0, 0⟩ (fun c => { c with eyelets := [⟨0, LD, 0, 1#32, 0, 2048, false⟩] }))
      (fun g => { g with flights := g.flights.map (fun f => { f with acq := true }) })
    demo.cores.all (fun c => demo.groupsOn c.1 == [] || decide (c.2.credit < 1000)) = true ∧
    gives .tick demo (fun t => t.wall 0 == 1) = true ∧
    grp (at_ 7) (fun g => (g.flight? 0).any (fun f => (f.landing 7).isSome)) = false ∧
    grp (at_ 8) (fun g => (g.flight? 0).any (fun f => f.kind == .value && (f.landing 8).isSome)) = true ∧
    grp (nx (.resultLand gk 0) (at_ 8)) (fun g => g.regs.rdS 9 == 3#64) = true ∧
    grp acq (fun g => (g.flight? 0).any (fun f => f.acq && (acq.core ⟨0, 0⟩).eyeletIn 0 f.mask)) = true := by decide +kernel


/-! ### The steps of the fabric, locks and engines -/

/-- Line 2 of module 1's memory, and a request of module 0 for module 1. -/
def farLine : Nat := 2 ^ 41 + 2
def aReq (p : Payload) : Req :=
  ⟨7, 0, 1, p, 0, 0, 1000, 51000, 1, 1, false, false, none, 0, false, false, false, 0, none⟩
def withReq (q : Req) : State := { podDemo with reqs := [q] }
def atWall (w : DWord) (s : State) : State := s.modModule 0 (fun m => { m with wall := w })
def prox (x : Bool) (lease : Nat) (dropped : Bool) : Proxy := ⟨x, List.replicate 128 0#8, 0, lease, dropped⟩
/-- A waiter of the demo group at a lock. -/
def aWaiter (res : Bool) (d : Option Nat) : Waiter := ⟨0, 0, 0, ⟨0, 0⟩, 0, 0, 0, 1000, d, res, 0, 0⟩
def lockLine (m : Nat) (st : LockSt) (q : List Waiter) : State :=
  podDemo.modLine LD (fun x => { x with lock := some ⟨{ aWaiter true none with m := m }, st, 0x100, 0x40⟩, queue := q })

/-- DirectorySteps: a miss, an invalidation and its acknowledgement before and after the lease, a recall, an eviction. -/
theorem test_wit_directory :
    let s := withReq { aReq (.fill gk farLine) with arrived := true }
    let pw : PendWrite := ⟨3, farLine, [0], 1000, .host, 1, 1⟩
    let p (x : Proxy) := { podDemo with proxies := [((0, farLine), x)], pend := [pw] }
    let ex (lease : Nat) := { podDemo with proxies := [((0, farLine), prox true lease false)],
                                           lines := [(farLine, { Line.fresh with dir := .exclusive 0 })] }
    s.reqReady 7 = true ∧ lineMod farLine = 1 ∧ s.movedLine farLine = false ∧ s.reachable 0 1 = true ∧
    s.homeLost (128 * farLine) = false ∧ s.damagedAt (128 * farLine) 128 = false ∧
    (nx (.proxyReadMiss 0 farLine) s).line farLine = { Line.fresh with dir := .shared [0] } ∧
    pw.waitsFor 0 farLine = true ∧ (p (prox false 2000 true)).pinnedBy 0 farLine = false ∧
    gives (.invalidateAck 0 farLine) (p (prox false 2000 true)) (fun t => t.proxies.length == 1) = true ∧
    gives (.invalidateAck 0 farLine) (p (prox false 900 true)) (fun t => t.proxies.isEmpty && t.pend.all (fun w => !w.waitsFor 0 farLine)) = true ∧
    [(960, true), (980, false)].all (fun x => gives (.recall 0 farLine) (ex x.1) (fun t => t.proxies.isEmpty == x.2)) = true ∧
    ((p (prox false 900 true)).line farLine).red = none ∧ live (podDemo.wall 0) 2000 = true ∧
    gives (.proxyEvict 0 farLine) (ex 2000) (fun t => t.proxies.length == 1 && (t.line farLine).dir == .exclusive 0) = true ∧
    gives (.proxyEvict 0 farLine) (ex 900) (fun t => t.proxies.isEmpty && (t.line farLine).dir == .uncached) = true ∧
    live (podDemo.wall 0) 900 = false ∧
    [(2000, 1), (900, 0)].all (fun x =>
      let s := { podDemo with proxies := [((0, farLine), prox false x.1 false)], lines := [(farLine, { Line.fresh with dir := .shared [0, 1] })] }
      (s.line farLine).racks == 0#16 && !s.pinnedBy 0 farLine &&
        gives (.proxyEvict 0 farLine) s (fun t => t.proxies.length == x.2)) = true ∧ s.proxyRoom 0 farLine = true := by decide +kernel

/-- RequestSteps: a first arrival, duplicates before and after the answer, a reply, a resend at 10 microseconds and not before, a failure, a late reply, an expiry; one
that is not yet sent goes out when the target's window reaches it. -/
theorem test_wit_requests :
    let q := aReq (.lane gk 0 0)
    let u (seq : Nat) := { podDemo with reqs := [{ q with closed := false, seq := 0 }, { q with id := 8, seq := seq, sends := 0, inFlight := 0 }] }
    [(256, true), (255, false)].all (fun x => (u x.1).ahead 0 1 x.1 == x.2 &&
      gives (.requestResend 8) (u x.1) (fun t => (t.req? 8).any (fun p => (p.sends == 0) == x.2))) = true ∧
    let s := withReq q
    s.behind q = false ∧ s.routed 0 1 = true ∧ s.wall 1 + 32 < q.deadline ∧
    gives (.deliver 7) s (fun t => (t.req? 7).any (fun p => p.arrived && p.inFlight == 0)) = true ∧
    gives (.deliver 7) (withReq { q with inFlight := 0, replies := 1, performed := true, reply := some .done })
      (fun t => (t.req? 7).any (fun p => p.closed && p.replies == 0)) = true ∧
    (let again (c : Bool) := withReq { q with arrived := true, performed := c, reply := if c then some .done else none, cached := c }
     [(false, 1, 0, 0), (true, 0, 1, 1)].all (fun x => !(again x.1).behind { q with arrived := true } &&
       gives (.deliver 7) (again x.1) (fun t => (t.module 1).fab.dupdrop == x.2.1 && (t.module 1).fab.dupcache == x.2.2.1 &&
         (t.req? 7).any (fun p => p.replies == x.2.2.2 && p.inFlight == 0))) = true) ∧
    (let moved (p : Payload) := { withReq { aReq p with inFlight := 0, replies := 1, performed := true, reply := some .moved } with
       groups := (if p = .entry gk 0 then stDemo else atDemo).groups }
     gives (.deliver 7) (moved (.entry gk 0)) (fun t => grp t (fun g => (g.entry? 0).any (fun x => x.st == .moved))) = true ∧
     gives (.deliver 7) (moved (.lane gk 0 1)) (fun t => grp t (fun g => (g.flight? 0).any (fun f => f.refused == [1]))) = true ∧
     [Payload.lock gk 0, .flag 5, .unlk 5, .shuttle 5, .engine 64, .fill gk farLine].all (fun p => !p.shard && (s.stitches.filter (s.reqStitch p)).isEmpty) = true) ∧
    gives (.requestResend 7) (atWall 11000 s) (fun t => (t.req? 7).any (fun p => p.sends == 2)) = true ∧
    gives (.requestResend 7) (atWall 10999 s) (fun t => (t.req? 7).any (fun p => p.sends == 1)) = true ∧
    gives (.requestFail 7) (atWall 60000 s) (fun t => (t.req? 7).any (fun p => p.closed && p.failed)) = true ∧
    gives (.lateReply 7) (withReq { q with closed := true, replies := 2 }) (fun t => (t.req? 7).any (fun p => p.replies == 1)) = true ∧
    gives (.responseCacheEntryExpiry 7) ((withReq { q with cached := true }).modModule 1 (fun m => { m with wall := 60000 }))
      (fun t => (t.req? 7).any (fun p => !p.cached)) = true ∧
    passed (State.wall (atWall 60000 s) 0) q.deadline = true := by decide +kernel

/-- LockArrivals: a free line, a held line, a grant whose time has come. -/
theorem test_wit_lock_arrivals :
    let s := nx (.lck ⟨0, ⟨1, false⟩, 9, 6, 0, .core⟩) (s6At 0x100 demo)
    let busy := s.modLine LD (fun x => { x with lock := some ⟨{ aWaiter true none with team := 5 }, .handoff, 0x100, 0x40⟩ })
    let due := s.modLine LD (fun x => { x with lock := some ⟨aWaiter true none, .granting 0, 0x100, 0x40⟩ })
    let late := atWall 32 due
    grp s (fun g => (g.flight? 0).any (fun f => f.kind == .lock 9 LD 0x100 none false && !f.ready && f.refused.isEmpty && !g.acqBlocks f.own f.ord)) = true ∧
    s.pointOpen 0 LD = true ∧ busy.pointOpen 0 LD = true ∧ freeLine s LD = true ∧ (s.line LD).queue = [] ∧ s.lockCount LD = 0 ∧
    ((nx (.lockRequest gk 0) s).line LD).lock.isSome = true ∧ busy.queueCount LD = 0 ∧
    ((nx (.lockRequest gk 0) busy).line LD).queue.length = 1 ∧
    (let held := s.modLine LD (fun x => { x with lock := some ⟨{ aWaiter true none with team := 5 }, .held, 0x100, 0x40⟩ })
     ((nx (.lockRequest gk 0) held).line LD).queue.length = 1) ∧
    late.pointOpen 0 LD = true ∧ late.findGroup 0 0 = some gk ∧ max 0 ((late.line LD).lease + 32) ≤ late.wall 0 ∧
    (((nx (.lockGrant LD) late).line LD).lock).any (fun e => e.st == .held) = true := by decide +kernel

/-- LockQueueSteps and LockTimeouts. -/
theorem test_wit_lock_queue :
    let h (q : List Waiter) := lockLine 0 .handoff q
    let far := lockLine 1 (.granting 0) []
    let w := lockLine 0 .held [aWaiter true (some 999), { aWaiter true none with team := 8, gidx := 1 }, { aWaiter false none with gidx := 2, team := 9 }]
    let v := w.modLine LD (fun x => { x with queue := [aWaiter false none] })
    let lt (f : Bool) (n : Nat) := withGroup demo (fun g => { g with locks := [⟨LD, 0x100, 0x40, n, f⟩] })
    (h []).unlkReady LD = true ∧ ((nx (.lockHandoff LD) (h [aWaiter false none])).line LD).lock.isNone = true ∧
    ((nx (.lockHandoff LD) (h [aWaiter false none, { aWaiter true none with gidx := 1 }])).line LD).queue.length = 1 ∧
    gives (.lockGrantWithdrawal LD) (atWall 50032 far) (fun t => ((t.line LD).lock).all (fun e => e.st != .granting 0)) = true ∧
    ((nx (.lckTryTimeout LD 0) w).line LD).queue.length = 2 ∧
    ({ aWaiter true none with gidx := 1 } : Waiter).due 17000 = true ∧ (atWall 17000 w).probe 8 1 64 LD = none ∧
    ((nx (.deadlockProbe LD 1) (atWall 17000 w)).line LD).queue.any (fun x => x.probes == 1) = true ∧
    (let c := ((atWall 17000 (lockLine 0 .held [aWaiter true none])).modLine LD (fun x => { x with
         lock := x.lock.map (fun e => { e with holder := { e.holder with team := 8 } }) })).modLine (LD + 1) (fun x => { x with
         lock := some ⟨aWaiter true none, .held, 0x180, 0x40⟩, queue := [{ aWaiter true none with team := 8 }] })
     (aWaiter true none).due 17000 = true ∧ (c.probe 0 0 64 LD).isSome = true) ∧
    (let f := podDemo.modLine LD (fun x => { x with queue := [aWaiter false none] })
     f.findGroup 0 0 = some gk ∧ (f.line LD).lock = none ∧ f.lockCount LD = 0 ∧
     gives (.resUpdate LD 0 true) f (fun t => (t.line LD).lock.any (fun e => e.st == .granting (f.grantTime LD)) && (t.line LD).queue.isEmpty) = true) ∧
    w.findGroup 8 1 = none ∧ ((nx (.resUpdate LD 1 false) w).line LD).queue.all (fun x => x.res == (x.gidx == 0)) = true ∧
    v.findGroup 0 0 = some gk ∧ ((nx (.resUpdate LD 0 true) v).line LD).queue.all (fun x => x.res) = true ∧
    [(false, 65536, true), (false, 65535, false), (true, 65536, false)].all (fun x =>
      gives (.lockTimeout gk LD) (lt x.1 x.2.1) (fun t => grp t (fun g => g.late.any (fun c => c.code == 0x0E)) == x.2.2)) = true := by
  decide +kernel

/-- LandingsSend: an acknowledgement due and not due, an engine's landing, one for another module that waits. -/
theorem test_wit_landings :
    let l (ack rmt : Bool) (t : Nat) : Landing := ⟨.team 0 0, true, 0, none, t, 0, rmt, ack, ⟨0, 0⟩, 0, none, none⟩
    let s (x : Landing) := { podDemo with landings := [x] }
    let sent (t : State) : Bool := t.landings.isEmpty && t.barq.length == 1
    passed (podDemo.wall 0) 900 = true ∧ passed (podDemo.wall 0) 1000 = false ∧
    gives (.ackSend 0) (s (l true false 900)) sent = true ∧ gives (.ackSend 0) (s (l true false 1000)) (fun t => !sent t) = true ∧
    gives (.land 0) (s (l false false 0)) sent = true ∧ gives (.land 0) (s (l false true 1000)) (fun t => !sent t) = true := by decide +kernel

/-- CopyEngineSteps: a copy of 8 bytes within the region. -/
theorem test_wit_copy_engine :
    let s := nx (.cpy ⟨7, 6, 3, 0, .scratch, .scratch, 0, 0, false, false, 0⟩) (s3At 8 demo)
    let k : CoreKey := ⟨0, 0⟩
    let r := nx (.engine (.copy k 1) 0) s
    let two (s : State) := s.modCore k (fun c => { c with copies := c.copies.map (fun o => { o with
      pieces := o.pieces ++ [⟨0, 0, 1, .done⟩, ⟨0, 0, 1, .read [0]⟩] }) })
    ((two s).core k).copies.any (fun o => o.started && o.id == 1 && (two s).spoiled == [] && (o.pieces[0]?).any (fun p => p.st == .todo && (two s).engPlace o.team o.key
      o.die o.slv p.src (min p.len (32 - p.src.toNat % 32)) == .mem .scratch (scratchAt k 0x100))) = true ∧
    ((two r).core k).copies.any (fun o => o.started && (o.pieces[0]?).any (fun p => p.st == .read (List.replicate 8 0#8) && p.len == 8 &&
      (two r).engPlace o.team o.key o.die o.dlv p.dst p.len == .mem .scratch (scratchAt k 0x200))) = true := by decide +kernel

/-- A machine whose team uses tiles, with K = 128 in s3. -/
def tileDemo : State := { s3At 128 demo with teams := [(0, { placedTeam with tiles := true })] }
/-- An mmacg of rows and columns that are not there, of two chunks. -/
def macroDemo (f : TileEnt → TileEnt) : State :=
  (nx (.mmacg ⟨false, false, false, true, 0, 6, 7, 3, .b8 false true 3, .b8 false true 3, 0, 0⟩)
    (withGroup tileDemo (fun g => { g with sr := { g.sr with mrows := 0, ncols := 0 } }))).modCore ⟨0, 0⟩ (fun c =>
      { c with tileQ := c.tileQ.map f })

/-- TileExecution: a clear, a product, a conversion, moves whose rows are free and one behind a store of its fragment. -/
theorem test_wit_tile_execution :
    let k : CoreKey := ⟨0, 0⟩
    let tv (side : Bool) : TileMvF := ⟨1, 6, 0, 0, side⟩
    let av : AccMvF := ⟨1, 6, 0, 0⟩
    let moves : List Instr := [.tld (tv false), .tld (tv true), .tst (tv false), .tst (tv true), .taccLd av, .taccSt av]
    let words : List Instr := [.tzero true 3, .mmac ⟨true, 1, false, false, 0, false, false, 1, .f16, .bf16, false⟩,
      .tcvt ⟨false, 1, 1, 6, .f16, .dyn, false, false⟩]
    let s := s6At 0 tileDemo
    let behind := later (nx (.sts (atS6 0 .b32 .relaxed)) s)
    (s.tileOwner k).isSome = true ∧ s.badTiles = [] ∧ s.spoiled = [] ∧
    (let bad := { nx (.tst (tv false)) s with badTiles := [tileAt k 1 0 / 4] }
     (bad.core k).tileQ.any (fun e => bad.badTile (e.op.reads k)) = true ∧
     gives (.tileOpExecute k) bad (fun t => (t.core k).tileQ.isEmpty && grp t (fun g => g.late.any (fun c => c.code == 0x0A))) = true) ∧
    (words ++ moves).all (fun i => (((nx i s).core k).tileQ.length == 1) && gives (.tileOpExecute k) (nx i s) (fun t => (t.core k).tileQ.isEmpty)) = true ∧
    moves.all (fun i => grp (nx i s) (fun _ => ((nx i s).findGroup 0 0).isSome)) = true ∧
    moves.all (fun i => gives (.tileOpExecute k) (nx i behind) (fun t => (t.core k).tileQ.length == 1)) = true := by decide +kernel

/-- TileExecution: a chunk that is not the last, the last, and one whose lines are not held. -/
theorem test_wit_tile_chunks :
    let k : CoreKey := ⟨0, 0⟩
    let ok (s : State) (have_ : Bool) : Bool := (s.tileOwner k).any (fun t => !s.tileHalting t.1 t.2) &&
      ((s.core k).tileQ[0]?).any (fun e => e.op.macro?.any (fun x => x.kk / 64 == 2 && (x.lines 0).isEmpty == have_))
    let b := macroDemo (fun e => { e with begun := true })
    let last := b.modCore k (fun c => { c with mprog := 1 })
    let wide := macroDemo (fun e => { e with op := match e.op with
      | .mmacg f a b kk sa sb _ _ => .mmacg f a b kk sa sb 1 1
      | o => o })
    ok b true = true ∧ gives (.mmacgChunk k) b (fun t => (t.core k).mprog == 1 && (t.core k).tileQ.length == 1) = true ∧
    gives (.tileOpExecute k) b (fun t => (t.core k).tileQ.length == 1) = true ∧
    ok last true = true ∧ gives (.mmacgChunk k) last (fun t => (t.core k).mprog == 2 && (t.core k).tileQ.isEmpty) = true ∧
    ok wide false = true ∧ gives (.mmacgChunk k) wide (fun t => (t.core k).mprog == 0 && (t.core k).tileQ.length == 1) = true := by
  decide +kernel

/-! ### Pod-scope and shard steps -/

/-- podDemo with a shard group of 2^b members, module 0 the first; ord: it orders its contributions. -/
def bigDemo (b : Nat) (ord : Bool) : State := { podDemo with
  mem := mwriteN podDemo.mem 0x500008 (toBytes 8 (2 ^ 48 + (if ord then 2 ^ 49 else 0) + b * 2 ^ 32 + 2)) }
def ctx0 : CtxKey := ⟨0, 0⟩
def aGather (n : Nat) (frame : Option Nat) (begun : Bool := true) : Gather :=
  ⟨5, ctx0, 0, 0xA00000, 0, 1, 0x102028, 3 * 2 ^ 62 + 2 ^ 59 + 3, false, n, 0, 0x50000000, [0, 1, 0], begun, frame, 0, [], [], [], ⟨0, 0, 0⟩,
    ⟨[], none, []⟩⟩
def aDrain (n : Nat) (ord : Bool) : Drain :=
  ⟨5, ctx0, 0, 0xA00000, 0, 1, 0x102028, 0, 0x40000000, n, 0, ord, 1, [0, 1], [], [], [], ⟨0, 0, 0⟩, ⟨[], none, []⟩⟩
/-- A shard request that module t has received, or has answered. -/
def shardReq (p : Payload) (t : Nat) : Req := { aReq p with dst := t, inFlight := 0, arrived := true }
def answered (p : Payload) (r : Reply) : Req := { shardReq p 1 with performed := true, reply := some r, replies := 1 }
def withReqs (s : State) (q : Req) : State := { s with reqs := [q] }

/-- FlagAndShuttleSteps: a flag of each kind, packets that stop, read a word and are given up, results that come back. -/
theorem test_wit_flag_and_shuttle_steps :
    let f (ba : Option DWord) : Flag := ⟨5, 0, gk, ctx0, 0, 0, 0, 0, ba, 0x100, 0x200100, 0x102000, [1, 2], [], [], none, false, 1, 0, false⟩
    let s (ba : Option DWord) := { podDemo with flags := [f ba] }
    let p (a : DWord) (n : Nat) (r : Option (DWord × Nat × Nat)) (d : Nat) : Shuttle :=
      ⟨5, gk, ctx0, 0, 0, 2, 1, 0, 0, 0, n, 0, [], a, a, 0, 0, d, r, false⟩
    let h (x : Shuttle) := { podDemo with shuttles := [x], cores := (later (nx (.ldg (atS6 0 .b32 .relaxed)) demo)).cores }
    gives (.flagApply 5) (s (some 0x40)) (fun t => t.barq.length == 1 && t.flags.isEmpty) = true ∧
    freeLine (s none) LD = true ∧ (s none).xlatClear LD [] = true ∧ (s none).switchRoom LD (mwriteN (s none).mem 0x200100 [1, 2]) = true ∧
    gives (.flagApply 5) (s none) (fun t => mread t.mem 0x200101 == 2 && t.flags.isEmpty) = true ∧
    podDemo.routed 0 0 = true ∧ podDemo.hasRecords (lineOf 0x200118) = false ∧ (s none).hasRegs LD = false ∧ podDemo.damagedAt 0x200118 8 = false ∧
    gives (.shuttleStep 5) (h (p 0x119 2 none 9000)) (fun t => t.shuttles.all (fun x => x.res == some (0x119, 5, 0))) = true ∧
    (h (p 0x118 2 none 9000)).shtlXlat (p 0x118 2 none 9000) = .inl 0x200118 ∧
    [(2, none), (1, some (0, 0, 0))].all (fun x => gives (.shuttleStep 5) (h (p 0x118 x.1 none 9000))
      (fun t => t.shuttles.all (fun y => y.i == 1 && y.res == x.2))) = true ∧
    podDemo.shtlXlat (p 0x118 2 none 9000) = .inr 1 ∧
    gives (.shuttleReturn gk 2) (h (p 0x118 1 (some (7, 0, 0)) 9000)) (fun t => t.shuttles.isEmpty) = true ∧
    passed (podDemo.wall 0) 9000 = false ∧ passed (podDemo.wall 0) 900 = true ∧
    ((h (p 0x118 1 none 900)).shuttles.filter (fun p => p.k == gk && p.fl == 2 && !p.dead)).length = 1 := by decide +kernel

/-- CollectiveSteps: a stream held for an accepted operation, one without a peer, one that comes early, a failure. -/
theorem test_wit_collective_steps :
    let s := nx (.collAg 5 20) (withGroup podDemo (fun g => { g with
      regs := (((g.regs.wrS 20 0x100000).wrS 21 0x80000).wrS 22 64).wrS 23 0x40 }))
    let x (dst seq : Nat) (h : Option Nat) : Stream := ⟨9, 0, dst, ctx0, 0, seq, .ag, 64, 0, false, 0, true, 1, 1, List.replicate 64 0#8, none, h, h.map (fun _ => ctx0)⟩
    let w (y : Stream) := { s with streams := [y] }
    let o := s.colls.map (fun o => o.id)
    s.collAccepted ctx0 0 0 = true ∧ s.colls.any (fun o => o.key == ctx0 && o.sg == 0 && o.seq == 0) = true ∧ s.peer ctx0 0 = some ctx0 ∧
    s.colls.all (fun o => !s.collHeld o) = true ∧
    [some 5, none].all (fun h => gives (.collStreamReceive 9) (w (x 0 0 h)) (fun t => t.streams.isEmpty)) = true ∧ s.peer ctx0 5 = none ∧
    gives (.collStreamReceive 9) (w (x 5 0 none)) (fun t => t.streams.isEmpty) = true ∧ s.collAccepted ctx0 0 9 = false ∧
    gives (.collStreamReceive 9) (w (x 0 9 none)) (fun t => t.streams.all (fun y => y.held.isSome)) = true ∧
    o.all (fun i => gives (.collFail i .deadline) { s with colls := s.colls.map (fun o => { o with failing := some .deadline }) }
      (fun t => t.colls.isEmpty && grp t (fun g => g.late.any (fun c => c.code == 0x17)))) = true := by decide +kernel

/-- What module 0 asks of an owner's slice j of the page. -/
def aMsg (ord : Bool) (j : Nat) (n : Nat := 256) : ShardMsg := ⟨ctx0, 0, 0, 1, j, n, ord, 0, 1, []⟩

/-- GatherSteps: a start, with a place and a frame, with neither, and of one that has none yet; a request answered with bytes and refused,
a slice that comes, a refusal that comes. -/
theorem test_wit_gather_steps :
    let s (g : Gather) := { podDemo with gathers := [g] }
    let dry (g : Gather) := { s g with ctxs := podDemo.ctxs.map (fun (c : CtxKey × Context) => (c.1, { c.2 with p := { c.2.p with poolN := 0 } })) }
    let new := aGather 2 none false
    let many := { podDemo with gathers := (List.range 16).map (fun i => { aGather 2 none with id := 10 + i, va := 0x800000 }) ++ [new] }
    let q (t : Nat) := withReqs { bigDemo 8 false with gathers := [aGather 256 none] } (shardReq (.slReq 5 (aMsg false 0)) t)
    let r (c : Reply) := withReqs { podDemo with gathers := [aGather 256 (some 0x40000000)] } (answered (.slReq 5 (aMsg false 1)) c)
    (s (aGather 2 none)).gatherOf ctx0 0xA00000 = some (aGather 2 none) ∧ podDemo.entryAt 0x102028 = 3 * 2 ^ 62 + 2 ^ 59 + 3 ∧
    podDemo.freeFrames ctx0 = [0x40000000, 0x40200000, 0x40400000, 0x40600000] ∧ (podDemo.die ⟨0, 0⟩).lost = false ∧
    gives (.gatherStart ctx0 0xA00000) (s (aGather 2 none)) (fun t => t.gathers.all (fun g => g.frame == some 0x40000000) && t.reqs.length == 2) = true ∧
    (dry (aGather 2 none)).freeFrames ctx0 = [] ∧
    (s new).running 0 0 = 0 ∧ (s new).nextGather new = true ∧ (s new).leaf? ctx0 0xA00000 = some (1, 0x102028, 3 * 2 ^ 62 + 2 ^ 59 + 3) ∧
    ((s new).desc? ctx0 0).isSome = true ∧ (podDemo.ctx? ctx0).any (fun c => !c.poolLost) = true ∧
    gives (.gatherStart ctx0 0xA00000) (s new) (fun t => t.gathers.all (fun g => g.begun && g.frame == some 0x40000000)) = true ∧
    many.running 0 0 = 16 ∧ many.gatherOf ctx0 0xA00000 = some new ∧
    [0, 5].map (fun t => (q t).serves (shardReq (.slReq 5 (aMsg false 0)) t) (aMsg false 0)) = [true, false] ∧
    (match (q 0).ownSlice 0 (aMsg false 0 2) with | .error .mismatch => true | _ => false) = true ∧
    (match (q 0).ownSlice 0 (aMsg false 0) with | .ok x => x.2.2 == 0x50002000 | _ => false) = true ∧
    (match (q 0).shardRead 0 0x50002000 64 with | .ok _ _ => true | _ => false) = true ∧
    (match State.shardRead { q 0 with damaged := [(0x50002000, 64)] } 0 0x50002000 64 with | .lost => true | _ => false) = true ∧
    ((r (.slData [])).shardReply 7).isSome = true ∧ ((r (.slNak .mismatch)).shardReply 7).isSome = true ∧
    ((r (.slNak .mismatch)).takeReply 7).reqs.filterMap ((aGather 256 (some 0x40000000)).failing 1000) = [(1, 2)] ∧
    ((r (.slData [])).shardWrite 0 0 (0x40000000 + 8192) [] 64).any (fun t => t.gathers == (r (.slData [])).gathers) = true := by decide +kernel

/-- ContributionSteps: refusals, staging with and without room, acknowledgements, a contribution to be sent again. -/
theorem test_wit_contribution_steps :
    let req (ord : Bool) (t n : Nat) := shardReq (.contrib 5 (aMsg ord 0 n)) t
    let s (ord : Bool) (t n : Nat) := withReqs { bigDemo 8 ord with drains := [aDrain 256 ord] } (req ord t n)
    let full := { s true 0 256 with ctxs := (s true 0 256).ctxs.map (fun (c : CtxKey × Context) => (c.1, { c.2 with p := { c.2.p with shardStaging := 0 } })) }
    let r (c : Reply) := withReqs { podDemo with drains := [aDrain 2 false] } (answered (.contrib 5 (aMsg false 1 2)) c)
    let again (t : Nat) := withReqs { podDemo with drains := [{ aDrain 2 false with retry := [(1, t)] }] }
      { answered (.contrib 5 (aMsg false 1 2)) .cnFull with closed := true }
    [true, false].all (fun o => [2, 256].all (fun n => (s o 0 n).serves (req o 0 n) (aMsg o 0 n))) = true ∧
    (match (s true 0 2).ownSlice 0 (aMsg true 0 2) with | .error .mismatch => true | _ => false) = true ∧
    [true, false].all (fun o => match (s o 0 256).ownSlice 0 (aMsg o 0) with | .ok y => y.2.2 == 0x50002000 | _ => false) = true ∧
    gives (.contrib 7) (s true 0 256) (fun t => t.contribs.length == 1 && (t.req? 7).any (fun q => q.reply == some .cnAck)) = true ∧
    gives (.contrib 7) full (fun t => t.contribs.isEmpty && (t.req? 7).any (fun q => q.reply == some .cnFull)) = true ∧
    [Reply.cnAck, .cnNak .mismatch, .cnFull].all (fun c => ((r c).shardReply 7).isSome) = true ∧
    gives (.contribResend 7) (again 1000) (fun t => t.reqs.length == 2) = true ∧
    gives (.contribResend 7) (again 1001) (fun t => t.reqs.length == 1) = true := by decide +kernel

/-- ContributionSteps: the owner's slice takes a fast contribution, and a round of one member. -/
theorem test_wit_contributions_apply :
    (∀ d : Desc, (bigDemo 8 false).desc? ctx0 0 = some d →
      ∃ t, (withReqs { bigDemo 8 false with drains := [aDrain 256 false] } (shardReq (.contrib 5 (aMsg false 0)) 0)).applyShard
        (d.applying (some 7) ctx0 0 1 0x50002000 1 ctx0) [[]] = some t ∧ t.allCounted) ∧
    ∀ d : Desc, (bigDemo 0 true).desc? ctx0 0 = some d →
      ∃ t, (State.applyShard { bigDemo 0 true with contribs := [⟨ctx0, 0, 1, 0, 0, 1, [], ctx0⟩] })
        (d.applying none ctx0 0 1 0x50200000 1 ctx0) [[]] = some t ∧ t.allCounted := by
  have h1 : (bigDemo 8 false).desc? ctx0 0 = some ⟨0x500C00, 0x500800, 0x50000000, false, 0, 256, 2, 0x800000⟩ := by decide +kernel
  have h2 : (bigDemo 0 true).desc? ctx0 0 = some ⟨0x500C00, 0x500800, 0x50000000, true, 0, 1, 2, 0x800000⟩ := by decide +kernel
  refine ⟨fun d hd => ?_, fun d hd => ?_⟩
  · rw [h1] at hd; cases hd
    exact applyShard_calm _ _ _ (calm_of (by decide +kernel)) rfl rfl (by decide) (plainRun_of rfl (by decide) (by decide) (by decide)
      (by decide) (by decide +kernel) (by decide +kernel)) (by decide) (by decide) (by decide +kernel) (by decide)
  · rw [h2] at hd; cases hd
    exact applyShard_calm _ _ _ (calm_of (by decide +kernel)) rfl rfl (by decide) (plainRun_of rfl (by decide) (by decide) (by decide)
      (by decide) (by decide +kernel) (by decide +kernel)) (by decide) (by decide) (by decide +kernel) (by decide)

/-- ContributionSteps: a round that waits to be counted in APPLIED, and is counted. -/
theorem test_wit_round_counted :
    let a : Applying := ⟨none, ctx0, 0, 1, 0x50200000, 16384, 0x50080C, 1, ctx0⟩
    let s (w : List Nat) := { bigDemo 0 true with
      dies := [(a.die, { Die.fresh with applying := [a] })], pend := [⟨3, lineOf 0x50200000, w, 0, .engine (.shard a.die), 0, 0⟩] }
    (s []).desc? ctx0 0 = some ⟨0x500C00, 0x500800, 0x50000000, true, 0, 1, 2, 0x800000⟩ ∧
    [[], [1]].all (fun w => (s w).applyingFor (fun b => b.key == ctx0 && b.sg == 0 && b.page == 1) == some a &&
      (s w).applyingFor (fun b => b.req == none && b.key == ctx0 && b.sg == 0 && b.page == 1) == some a) = true ∧
    gives (.roundCommit ctx0 0 1 0) (s [1]) (fun t => mnat t.mem 0x50080C 4 == 0 && (t.die a.die).applying == [a]) = true ∧
    ((s []).endApplying a).isSome = true ∧
    gives (.roundCommit ctx0 0 1 0) (s []) (fun t => mnat t.mem 0x50080C 4 == 1 && (t.die a.die).applying == []) = true := by decide +kernel

/-- R318: the record of a received CONTRIB for page 1 of shard group 0, slice 5, round 3, of a traced engine: time, kind, page, slice, round
and die at their bits. -/
theorem test_shard_record (h : Config.traces .shard 0 2 (podDemo.wall 0) = true) :
    ((podDemo.shardNote ctx0 ⟨0, 2⟩ 4 0 0 1 5 3 false 0).die ⟨0, 2⟩).shardRecs = [(0,
    1000#128 <<< 96 ||| 4#128 <<< 88 ||| 1#128 <<< 38 ||| 5#128 <<< 30 ||| 3#128 <<< 14 ||| 2#128 <<< 6)] := by
  unfold State.shardNote
  have h' : Config.traces .shard (DieKey.mk 0 2).m (DieKey.mk 0 2).d (podDemo.wall (DieKey.mk 0 2).m) = true := h
  simp only [h', if_true]
  decide +kernel

/-- PoolSteps: a drain, an Absent page that has changed, pressure on a Gathered page, the return of a frame. -/
theorem test_wit_pool_steps :
    let held (st : Nat) (p : CtxParams) := { podDemo with
      mem := mwriteN podDemo.mem 0x102028 (toBytes 8 (3 * 2 ^ 62 + st * 2 ^ 59 + 0x40000000 / 2 ^ 13 * 2 ^ 6 + 3))
      ctxs := podDemo.ctxs.map (fun c => (c.1, { c.2 with p := p, frames := [(0x40000000, 0x102028, 0xA00000, 0, 0)] })) }
    let e (s : State) := s.entryAt 0x102028
    let d := { held 3 demoCtx with shevs := [⟨9, ctx0, 0, 0, 0, 0xA00000, 0, none, none⟩] }
    let waits (va : DWord) := withGroup podDemo (fun g => { g with replay := some ⟨.f0, .absent, va, .read, 1, false, none⟩ })
    let ret := { podDemo with ctxs := podDemo.ctxs.map (fun c => (c.1, { c.2 with
      frames := [(0x40000000, 0x102028, 0xA00000, 0, 0)], returning := [0x40000000] })) }
    (d.leaf? ctx0 0xA00000).map (fun l => pteState l.2.2) = some 3 ∧ (d.desc? ctx0 0).isSome = true ∧
    (match d.desc? ctx0 0 with | some x => (d.startDrain ctx0 0xA00000 0x102028 (e d) x ⟨0, 0, 0⟩).isSome | none => false) = true ∧
    gives (.drainStart ctx0 0xA00000) d (fun t => t.drains.length == 1 && t.shevs.all (fun x => x.on.isSome)) = true ∧
    (waits 0xA00000).someWaits ctx0 (pageOf 0xA00000) .absent = true ∧
    ((waits 0xA00000).leaf? ctx0 0xA00000).map (fun l => pteState l.2.2) = some 1 ∧
    demoCtx.lowat ≤ (podDemo.freeFrames ctx0).length ∧
    (let s := held 2 { demoCtx with poolN := 0 }
     (s.freeFrames ctx0).length < demoCtx.lowat ∧ ((s.ctx? ctx0).bind (s.pressurePage ctx0)) = some (0x40000000, 0x102028, 0xA00000) ∧
     pteState (e s) = 2 ∧ ((s.casEntry ctx0 (entryDie 0x102028) 0x102028 (e s) (pteWith (e s) 1 0)).bind (fun x => x.1)).isSome = true) ∧
    ret.lines = [] ∧ ret.cores.all (fun c => c.2.pins == []) = true ∧
    gives (.frameReturn ctx0 0x40000000) ret (fun t => (t.ctx? ctx0).any (fun c => c.frames.isEmpty)) = true := by decide +kernel

/-- PoolSteps: an Absent page is given the frame at 0x40000000, zeroed, and its entry. -/
theorem test_wit_absent_allocate :
    let s := withGroup podDemo (fun g => { g with replay := some ⟨.f0, .absent, 0x800000, .read, 1, false, none⟩ })
    s.someWaits ctx0 (pageOf 0x800000) .absent = true ∧ s.leaf? ctx0 0x800000 = some (1, 0x102020, 3 * 2 ^ 62 + 6 * 2 ^ 59 + 3) ∧
    s.freeFrames ctx0 = [0x40000000, 0x40200000, 0x40400000, 0x40600000] ∧ (s.ctx? ctx0).any (fun c => !c.poolLost) = true ∧
    ∃ t t' u w, s.shardWrite 0 (entryDie 0x102020) 0x40000000 (List.replicate (2 ^ 21) 0#8) (2 ^ 14) = some t ∧
      t' = { t.count ctx0 (idxBytes .shard) (2 ^ 21) with nextId := (t.count ctx0 (idxBytes .shard) (2 ^ 21)).nextId + 1 } ∧
      ((t'.noteEngine ctx0 (entryDie 0x102020 * 48) (s.firstWaiter ctx0 (pageOf 0x800000)) .shard true []
          (BitVec.ofNat 64 (pageOf 0x800000 * 2 ^ 21)) (2 ^ 21)).1.modCtx ctx0 (fun c => { c with
        frames := c.frames ++ [(0x40000000, 0x102020, 0x800000, pteSgid (3 * 2 ^ 62 + 6 * 2 ^ 59 + 3),
          (t.count ctx0 (idxBytes .shard) (2 ^ 21)).nextId)] })).casEntry ctx0 (entryDie 0x102020) 0x102020
            (3 * 2 ^ 62 + 6 * 2 ^ 59 + 3) (pteWith (3 * 2 ^ 62 + 6 * 2 ^ 59 + 3) 3 0x40000000) = some (some w, u) := by
  intro s
  refine ⟨by decide +kernel, by decide +kernel, by decide +kernel, by decide +kernel, ?_⟩
  have hc : s.Calm := calm_of (by decide +kernel)
  obtain ⟨t, h1, h2, -, -, h5, h6, -⟩ := shardWrite_calm 0 (entryDie 0x102020) 0x40000000 (List.replicate (2 ^ 21) 0#8) (2 ^ 14) s hc (by decide)
    (plainRun_of (by decide +kernel) (by decide) (by decide) (by decide) (by decide) (by decide +kernel) (by decide +kernel))
  generalize ht : ({ t.count ctx0 (idxBytes .shard) (2 ^ 21) with nextId := (t.count ctx0 (idxBytes .shard) (2 ^ 21)).nextId + 1 } : State) = t'
  have hn' : t.Near t' := by
    subst ht
    exact (near_count t ctx0 _ _).trans ⟨rfl, rfl, rfl, rfl, rfl, rfl, fun _ => rfl⟩
  generalize hy : t'.noteEngine ctx0 (entryDie 0x102020 * 48) (s.firstWaiter ctx0 (pageOf 0x800000)) .shard true []
    (BitVec.ofNat 64 (pageOf 0x800000 * 2 ^ 21)) (2 ^ 21) = y
  have hy' : t'.Near y.1 := by subst hy; exact near_noteTouch _ _ _ _ _
  generalize hv : y.1.modCtx ctx0 (fun c => { c with
        frames := c.frames ++ [(0x40000000, 0x102020, 0x800000, pteSgid (3 * 2 ^ 62 + 6 * 2 ^ 59 + 3),
          (t.count ctx0 (idxBytes .shard) (2 ^ 21)).nextId)] }) = v
  have hn : t.Near v := by
    subst hv
    exact (hn'.trans hy').trans (near_modCtx _ _ _ (fun _ => ⟨rfl, rfl⟩))
  have hm : v.entryAt 0x102020 = 3 * 2 ^ 62 + 6 * 2 ^ 59 + 3 := by
    rw [State.entryAt, hn.mem, mnat_congr _ s.mem _ _ (fun x _ _ => h6 x (by omega))]
    decide +kernel
  have hp : v.plainLine (lineOf 0x102020) = true := by
    rw [hn.plain, h5 _ (by decide)]
    decide +kernel
  obtain ⟨w, u, h9⟩ := engWrite_some v 0x102020 (toBytes 8 (pteWith (3 * 2 ^ 62 + 6 * 2 ^ 59 + 3) 3 0x40000000))
    (.engine (.shard ⟨ctx0.m, entryDie 0x102020⟩)) (hn.calm ⟨h2.sb, h2.pins, h2.moved, h2.lost, h2.dies, h2.tlb, h2.walker, fun _ h => by cases h⟩) hp
  refine ⟨t, t', u.count ctx0 (idxBytes .shard) 16, w, h1, ht.symm, ?_⟩
  have hmod : lineMod (lineOf 0x102020) = ctx0.m := by decide
  rw [hmod] at h9
  rw [hy, hv, State.casEntry, if_neg (by rw [hm]; exact fun h => h rfl), h9]

/-- FaultSteps: a leaf, a missing entry, a malformed one, a flush that the block asks for. -/
theorem test_wit_fault_steps :
    let bad := { podDemo with mem := mwriteN podDemo.mem 0x102000 [0x0F] }
    let fl := { podDemo with mem := mwriteN podDemo.mem 0x017FFFFE0019 [1] }
    podDemo.walk ctx0 0x100 = .leaf 1 0x102000 (leaf2m 0x200000 7) ∧ podDemo.walk ctx0 0x1000000 = .missing 1 ∧
    bad.walk ctx0 0x100 = .malformed 0x102000 ∧ (ldDemo.needs homeK ctx0 0x100 = true) ∧ demo.needs homeK ctx0 0x1000000 = false ∧ (demo.die homeK).lost = false ∧
    (mnat fl.mem (fl.fbBlock 0 + 0x18) 8).testBit 8 = true ∧ gives (.faultFlush 0) fl (fun t => (t.module 0).fb.gen == 1) = true := by
  decide +kernel

/-! ### Residency, queues and the control plane -/

/-- demo with its team off the core and in the context's list. -/
def listDemo (t : Team) (carve : Option Carve) : State := { demo with
  groups := [], teams := [(0, t)], cores := [(⟨0, 0⟩, { Core.fresh with carve := carve })]
  grids := [(t.grid, { key := ctx0, q := 3, idx := 0, gx := 1, gy := 1, gz := 1, sigev := 0, left := 1, complete := false })]
  ctxs := [(ctx0, { Context.fresh demoCtx 0 with dies := [0], runnable := [0] })] }
def at1ms (n : DWord) (s : State) : State := { s with mods := [(0, { Module.reset with wall := n })] }

/-- TeamsBecomeResident: a team listed for the first time, and one that was saved runnable. -/
theorem test_wit_resident :
    let s (st : TeamSt) := listDemo { placedTeam with st := st, fresh := true } (some ⟨placedTeam.grid, 16384, 1⟩)
    [TeamSt.listed, .saved true].all (fun st => (s st).schedules ctx0 && (s st).headTeam ctx0 == some 0 &&
      ((s st).team? 0).any (fun t => !t.halted && t.stop.isNone && t.key == ctx0 && (s st).chooseCore ctx0 t == some ⟨0, 0⟩ &&
        (s st).regionFor ⟨0, 0⟩ t == some 0)) = true ∧
    gives (.teamMakeResident ctx0) (s .listed) (fun t => t.groups.length == placedTeam.gpt) = true ∧
    gives (.restore 0) (s (.saved true)) (fun t => t.groups.length == placedTeam.gpt) = true ∧
    scratchAt ⟨0, 0⟩ 0 ≤ scratchAt ⟨0, 0⟩ 0 + 5 ∧ 5 < placedTeam.s ∧ placedTeam.args.length ≤ 4 := by decide +kernel

/-- TeamsLeave, GroupsGiveWay, GroupTimers: at and before each bound. -/
theorem test_wit_groups_leave :
    let h := withGroup demo (fun g => { g with halting := true })
    let q (n : DWord) := at1ms n { demo with ctxs := demo.ctxs.map (fun c => (c.1, { c.2 with runnable := [9] })) }
    let far := withGroup ldDemo (fun g => { g with flights := g.flights.map (fun f => { f with
      wallAt := 0, parts := f.parts.map (fun p => { p with addr := p.addr + 2 ^ 48 }) }) })
    let rep (r : Bool) := withGroup demo (fun g => { g with replay := some ⟨.f0, .notPresent, 0x100, .read, 1, r, none⟩ })
    (demo.team? 0).any (fun t => t.stop.isNone && t.st == .resident 0 0 0) = true ∧
    h.teamLeaves 0 = true ∧ gives (.save 0) { h with ctxs := [] } (fun t => t.groups.isEmpty) = true ∧ demo.teamLeaves 0 = false ∧
    gives (.quantumExpiry 0) (q 2000000) (fun t => grp t (fun g => g.halting)) = true ∧
    gives (.quantumExpiry 0) (q 999999) (fun t => grp t (fun g => !g.halting)) = true ∧
    grp far (fun g => g.flights.any (fun f => f.id == 0 && f.parts.any (fun p => p.space == .global && p.bytes.isNone && paMod p.addr != 0))) = true ∧
    gives (.remoteLoadBlock gk 0) (at1ms 2000 far) (fun t => grp t (fun g => g.flights.any (fun f => f.blocked))) = true ∧
    gives (.remoteLoadBlock gk 0) (at1ms 1999 far) (fun t => grp t (fun g => g.flights.all (fun f => !f.blocked))) = true ∧
    [true, false].all (fun r => gives (.faultReplay gk) (rep r) (fun t => grp t (fun g => g.replay.isNone == r))) = true ∧
    gives (.gtimerMatch gk) (withGroup demo (fun g => { g with gtHit := true })) (fun t => grp t (fun g => !g.gtHit && g.late.length == 1)) = true ∧
    [(33, true), (32, false)].all (fun x => gives (.deadline gk) (at1ms x.1 (withGroup demo (fun g => { g with sr := { g.sr with wdead := 1 } })))
      (fun t => grp t (fun g => (g.sr.wdead == 0) == x.2))) = true := by decide +kernel

/-- CarveChanges: an empty core without a carve. -/
theorem test_wit_carve :
    let t := { placedTeam with st := .listed, fresh := true, s := 0 }
    let s := listDemo t none
    s.headTeam ctx0 = some 0 ∧ s.schedules ctx0 = true ∧ s.chooseCore ctx0 t = some ⟨0, 0⟩ ∧ s.teamsOn ⟨0, 0⟩ = [] ∧
    t.regions * t.s ≤ s.carveBytes ⟨0, 0⟩ := by decide +kernel

/-- A command queue with one packet of the given first and further bytes. -/
def packetDemo (bs : List Byte) : State := { demo with
  ctxs := [(ctx0, { Context.fresh demoCtx 0 with
    dies := [0], queues := [(3, { block := 0x700000, ring := 0x701000, logsz := 4, prio := 0, data := false, devpush := false,
                                  stopped := false, badEvent := false, packets := [], outAt := 0 })] })]
  mem := mwriteN (mwriteN demo.mem 0x700000 (toBytes 8 1)) 0x701000 bs
  mods := [(0, { Module.reset with events := [(7, { key := ctx0, count := 5, inline := [], overflow := [] })] })] }

/-- PacketSteps: every type of packet may start with good fields; a LAUNCH with a bad one, a type that is not one. -/
theorem test_wit_packets :
    let launch (b : Byte) : List Byte := [1, b, 0, 0, 1, 8, 0, 0] ++ toBytes 8 0x1000 ++ toBytes 4 1 ++ toBytes 4 1 ++ toBytes 4 1
    let ok (bs : List Byte) : Bool := (packetDemo bs).starts ctx0 3 == some ⟨0, 0x701000⟩
    [launch 0, launch 1, [0], [6], [2, 0, 7, 0, 0, 0, 0, 0, 5], [2, 0, 8, 0], [3, 0, 7, 0, 2], [5], [4, 1], [4, 2], [4, 3], [4, 4], [4, 5]].all ok = true ∧
    (let rejects (i : Instr) (bs : List Byte) : Bool := gives i (packetDemo bs) (fun t => (t.queue? ctx0 3).any (fun u => u.packets == []) ||
       t != packetDemo bs) && (packetDemo bs).starts ctx0 3 == some ⟨0, 0x701000⟩
     let at_ (b : Byte) (i : Nat) : List Byte := b :: List.replicate (i - 1) 0 ++ [1]
     [(2, 1), (2, 4), (2, 16), (2, 63)].all (fun x => rejects (.waitEvent ctx0 3) (at_ x.1 x.2)) = true ∧
     [(3, 1), (3, 8), (3, 63)].all (fun x => rejects (.signalEvent ctx0 3) (at_ x.1 x.2)) = true ∧
     [(5, 1), (5, 7), (5, 8), (5, 63)].all (fun x => rejects (.fencePacket ctx0 3) (at_ x.1 x.2)) = true ∧
     [4 :: [0], 4 :: [6]].all (fun bs => rejects (.launchPacket ctx0 3) bs) = true ∧
     [2, 3, 8, 63].all (fun n => rejects (.markStart ctx0 3) (4 :: 3 :: List.replicate (n - 2) 0 ++ [1])) = true) ∧
    ((packetDemo (launch 0)).noteLaunch ctx0).launchStatus ⟨0, 0x701000⟩ = none ∧
    ((packetDemo (launch 1)).noteLaunch ctx0).launchStatus ⟨0, 0x701000⟩ = some 2 ∧
    ((packetDemo []).module 0).events.any (fun e => e.1 == 7 && decide (5 ≤ e.2.count.toNat)) = true ∧
    gives (.launchPacket ctx0 3) (packetDemo (launch 0)) (fun t => t.grids.length == 1) = true ∧
    gives (.signalEvent ctx0 3) (packetDemo [3, 0, 7, 0, 2]) (fun t =>
      (t.module 0).adds == [⟨ctx0, 7, 2, .packet 3 0, 0, 0, 0⟩]) = true ∧
    ((packetDemo []).ctx? ctx0).any (fun c => c.trig.isEmpty) = true := by decide +kernel

/-- QueueSteps: a qpop that waits on an empty queue and on one with an entry, a grid without teams left, a window write. -/
theorem test_wit_queue_steps :
    let q (n : Nat) (push : Bool) := { demo with
      ctxs := [(ctx0, { Context.fresh demoCtx 0 with
        dies := [0], queues := [(3, { block := 0x700000, ring := 0x701000, logsz := 4, prio := 0, data := true, devpush := push, stopped := false, badEvent := false, packets := [], outAt := 0 })] })]
      mem := mwriteN (mwriteN demo.mem 0x700000 (toBytes 8 n)) 0x701000 (toBytes 8 77) }
    let w := nx (.qpop 0 10 8) (q 0 true)
    let g : Grid := { key := ctx0, q := 3, idx := 0, gx := 1, gy := 1, gz := 1, sigev := 0, left := 0, complete := false }
    grp w (fun g => (g.flight? 0).any (fun f => f.kind == .qpop 10 3 && !f.ready)) = true ∧
    (w.line (lineOf 0x700008)).red = none ∧
    gives (.qpopWake gk 0) { w with mem := (q 1 true).mem } (fun t => grp t (fun g => g.flights.any (fun f =>
      f.ready && f.writes == [.s 10 77#64, .s 11 0#64]))) = true ∧
    State.gridDone { demo with grids := [(9, g)] } 9 0 = true ∧
    gives (.gridComplete 9) { demo with grids := [(9, g)] } (fun t => t.grids.all (fun g => g.2.complete)) = true ∧
    ([demo].all (fun s => (s.teams.filter (fun t => t.2.grid == 9 && t.2.st != .ended)).length == 0)) = true ∧
    gives (.hostTailWrite ctx0 3 2) (q 1 false) (fun t => mnat t.mem 0x700000 8 == 2) = true ∧
    gives (.hostTailWrite ctx0 3 2) (q 1 true) (fun t => mnat t.mem 0x700000 8 == 1) = true := by decide +kernel

/-- HostAccesses: 300 bytes over three lines, and the last bytes of a line. -/
theorem test_wit_host_accesses :
    (demo.module 0).ready = true ∧ demo.populated 0x200100 = true ∧ demo.populated (0x200100 + 299) = true ∧
    (demo.hostRead 0 (lineCuts 0x200100 301 300)).any (fun r => r.1.length == 300) = true ∧
    demo.hasRegs LD = false ∧ demo.movedLine LD = false ∧ demo.homeLost (128 * LD) = false ∧
    freeLine demo LD = true ∧ demo.xlatClear LD [] = true ∧ demo.switchRoom LD (mwriteN demo.mem 0x20017C [1, 2, 3, 4]) = true ∧
    gives (.hostAccess (.store 0 0x20017C [1, 2, 3, 4])) demo (fun t => mnat t.mem 0x20017C 4 == 0x04030201) = true ∧
    ((packetDemo []).queue? ctx0 3).isSome = true ∧
    gives (.hostAccess (.windowRead ctx0 3 false)) (packetDemo []) (fun t => (t.module 0).hostRead == toBytes 8 1) = true := by decide +kernel

/-- ControlPlane: a context is created and torn down, events, a queue, partitions. -/
theorem test_wit_control_plane :
    let ev := { demo with mods := [(0, { Module.reset with events := [(7, { key := ctx0, count := 5, inline := [], overflow := [] })] })] }
    let qp : QueueParams := ⟨ctx0, 255, 0x700000, 0x701000, 20, 3, true, false⟩
    CtxOk demoCtx = true ∧ State.reset.ctx? ctx0 = none ∧ Module.reset.life ≠ .retired ∧
    gives (.contextCreate demoCtx) State.reset (fun t => t.ctxs.length == 1) = true ∧ demo.cores.all (fun c => c.2.copies.isEmpty) = true ∧
    gives (.contextTeardown ctx0) demo (fun t => t.groups.isEmpty) = true ∧ (demo.module 0).events = [] ∧
    [1, 65535].all (fun i => gives (.eventActivate ctx0 i) demo (fun t => (t.module 0).events.length == 1)) = true ∧
    gives (.eventDeactivate 0 7) ev (fun t => (t.module 0).events.isEmpty) = true ∧ ownLpddr 0 0x700000 = true ∧ ownLpddr 0 0x701000 = true ∧
    gives (.queueCreate qp) demo (fun t => mnat t.mem 0x700018 8 == 0x701000) = true ∧ (State.reset.module 0).sliced = false ∧
    State.reset.runnableCtxs 0 = [] ∧
    (let s := listDemo { placedTeam with st := .listed, fresh := true } none
     (s.runnableCtxs 0).map (fun c => c.1) = [0] ∧ (s.module 0).runSet = [] ∧ ((s.runnableCtxs 0).map (fun c => c.2.p.mind)).sum = 1 ∧
     gives (.partitionRecompute 0) s (fun t => (t.module 0).runSet == [0]) = true) := by decide +kernel

/-! ### Debug and management -/

/-- demo with a value at an offset of the context's debug block. -/
def dbgDemo (off v : Nat) (s : State := demo) : State := { s with mem := mwriteN s.mem (0x600000 + off) (toBytes 8 v) }
def anEvent (t core code : Nat) : TrigEv := ⟨t, core, none, none, code, 0, 0, 0, 0, []⟩
def onMods (ms : List (Nat × Module)) : State := { State.reset with mods := ms }

/-- DebugStores and SequencerSteps: WHRD at both ends of its range; equal times; a rule that arms, counts and does neither. -/
theorem test_wit_debug_stores :
    let wh := dbgDemo 0xC8 300
    let ev (n : DWord) (es : List TrigEv) := at1ms n { demo with ctxs := demo.ctxs.map (fun c => (c.1, { c.2 with trig := es })) }
    let r (w : Nat) := dbgDemo 0x30 w (dbgDemo 0x78 (0xFFFFFFFF * 2 ^ 32 + 5))
    [(43, 0), (44, 44), (300, 300), (301, 0)].all (fun x => gives (.whrdWrite ctx0 (BitVec.ofNat 64 x.1)) wh
      (fun t => t.dbg ctx0 0xD8 == x.2)) = true ∧
    dbgMask 0x10 ≠ 0 ∧ dbgMask 0x5 = 0 ∧ nextEvent [anEvent 5 7 5, anEvent 5 2 5] = some (anEvent 5 2 5) ∧
    [(5, 2), (6, 1)].all (fun x => gives (.sequencerEvent ctx0) (ev x.1 [anEvent 5 7 5, anEvent 5 2 5])
      (fun t => (t.ctx? ctx0).any (fun c => c.trig.length == x.2))) = true ∧
    (r (2 * 2 ^ 32 + 3 * 8 + 3)).seqRule ctx0 false = (2, 3, 3) ∧ (r (2 * 2 ^ 32 + 3 * 8)).seqRule ctx0 false = (2, 3, 0) ∧
    [5, 6].map (fun c => (r 0).selects ctx0 3 (anEvent 5 7 c)) = [true, false] ∧
    (r 4).seqRule ctx0 false = (0, 0, 4) ∧
    (List.range 4).all (fun q => ((dbgDemo 0x20 q).seqSt ctx0).seq == q) = true ∧
    ((demo.ctx? ctx0).any (fun c => c.dies == [0]) && slogOn 0x400 && !slogOn 0x300 && slogOn 0x1400 && !slogOn 0x1500 &&
      !slogOn (demo.dbg ctx0 0)) = true ∧
    gives (.registerWrite ctx0 0 0x400) demo (fun t => (t.core ⟨0, 47⟩).countdown == 16 && (t.core ⟨0, 48⟩).countdown == 0) = true := by
  decide +kernel

/-- StopsAndBreakpoints: a stopping breakpoint, a logged state, a team that is not resident, one that is continued. -/
theorem test_wit_stops :
    let bp := dbgDemo 0x100 1
    let cur (s : State) := s.group? s.cur.k
    let off (h : Bool) (st : Option (StopCause × DWord)) := listDemo { placedTeam with
      st := .saved true, halted := h, stop := st, stopAt := some (0, .f0) } none
    (cur bp).any (fun g => (g.frag .f0).any (fun f => f.pc == 0 && !f.bpSkip && !bp.heldFrag bp.cur.k .f0 g f &&
      bp.bpMatch g.key f.pc false && !demo.bpMatch g.key f.pc false)) = true ∧
    gives .breakpointHit bp (fun t => (t.team? 0).any (fun x => x.stop.isSome)) = true ∧
    grp (withGroup demo (fun g => { g with logAt := some (.f0, 0x40) })) (fun g => g.logAt.isSome) = true ∧ demo.cur.k = gk ∧
    gives (.teamStop 0 .watch) (off false (some (.watch, 0))) (fun t => (t.team? 0).any (fun x => x.halted) &&
      (t.ctx? ctx0).any (fun c => c.runnable.isEmpty)) = true ∧
    [Instr.debugStep 0, .debugCont (.team 0)].all (fun i => gives i (off true none) (fun t => (t.team? 0).any (fun x => !x.halted) &&
      (t.ctx? ctx0).any (fun c => c.runnable.length == 2))) = true := by decide +kernel

/-- DebugRecords: room in the ring and none, a sampled request with room in its buffer and none. -/
theorem test_wit_debug_records :
    let w := { demo with watches := [⟨ctx0, 1, 0x100, 0, 0, 0, .f0, .group, 0⟩] }
    let y : Stitch := ⟨4, ⟨0, 0⟩, ctx0, 0, 0x100, 0, 0, 0, 0, 0, 0, 99, 0, 0, 0, [], 0⟩
    let st (n : Nat) := ({ demo with stitches := [y] } : State).modCore ⟨0, 0⟩ (fun c => { c with samples := List.replicate n y })
    (w.dbg ctx0 0x98).testBit 50 = false ∧ w.dbg ctx0 0xC8 - w.dbg ctx0 0xD8 ≠ 256 ∧ (dbgDemo 0xC8 256).dbg ctx0 0xC8 - (dbgDemo 0xC8 256).dbg ctx0 0xD8 = 256 ∧
    gives (.watchHit 0) w (fun t => t.watches.isEmpty && t.dbg ctx0 0xC8 == 1) = true ∧
    gives (.watchHit 0) (dbgDemo 0xC8 256 w) (fun t => t.watches.isEmpty && t.dbg ctx0 0xD0 == 1) = true ∧ (st 0).answered y = true ∧
    [(63, 64), (64, 64)].all (fun x => gives (.stitchRecordReturn 4) (st x.1) (fun t => t.stitches.isEmpty &&
      (t.core ⟨0, 0⟩).samples.length == x.2)) = true := by decide +kernel

/-- UsageRecords, ModuleBoots: records emitted and acknowledged, measurements, boots, a change of life cycle. -/
theorem test_wit_management :
    let torn := { demo with ctxs := demo.ctxs.map (fun c => (c.1, { c.2 with torn := some 0 })) }
    torn.enginesIdle ctx0 = true ∧
    gives (.usageRecordEmit ctx0) torn (fun t => t.ctxs.isEmpty && (t.module 0).records.length == 1) = true ∧
    gives (.interimRecord ctx0) demo (fun t => t.ctxs.length == 1 && (t.module 0).records.map (fun r => r.kind) == [3]) = true ∧
    gives (.getMeasurements 0) demo (fun t => (t.module 0).meas.map (fun b => b.kind) == [1, 2, 3, 4]) = true ∧
    [Instr.reset 0, .powerOn 0, .hostPushedRecoveryImage 0 [1]].all (fun i => gives i demo (fun t => t.ctxs.isEmpty && t.groups.isEmpty &&
      (t.module 0).boot == 1)) = true ∧
    gives (.lifecycleChange 0 .retired) demo (fun t => (t.module 0).life == .retired && t.ctxs.isEmpty) = true ∧
    (tget demo.mods 0).any (fun m => m.life == .operate) = true := by decide +kernel

/-- JobsAndIslands: a job of two members, its end, islands at the ends of their ranges. -/
theorem test_wit_jobs :
    let ports := List.replicate 32 (⟨0, 0, 0, 0, 0⟩ : PortInfo)
    let p : JobParams := ⟨77, ⟨5, 1, ports⟩, [⟨64, 2, ports⟩]⟩
    let f (i mhz : Nat) (t : State) : Bool := nget 2400 (t.module 0).islands i == mhz
    JobOk p = true ∧ State.reset.quiet = true ∧
    gives (.jobFormation p) State.reset (fun t => t.mods.map (fun e => e.1) == [5, 64]) = true ∧
    gives .jobEnd (onMods [(5, { Module.reset with inJob := true, jobid := 77 })]) (fun t => t.mods.map (fun e => e.1) == [0]) = true ∧
    (podDemo.reqs.isEmpty && podDemo.shuttles.isEmpty && podDemo.pend.isEmpty) = true ∧
    gives (.opticalReconfigure [(0, 2)]) podDemo (fun t => (t.module 0).optgrp == 3) = true ∧
    gives (.islandSet 0 44 ⟨1, 800⟩) demo (fun t => f 44 1 t && nget 0 (t.module 0).volts 44 == 800) = true ∧ gives (.islandSet 0 44 ⟨2400, 0⟩) demo (f 44 2400) = true ∧
    gives (.islandSet 0 47 ⟨2401, 800⟩) demo (f 47 2400) = true ∧ gives (.islandSet 0 63 ⟨0, 800⟩) demo (f 63 2400) = true ∧
    gives (.islandSet 0 64 ⟨1, 800⟩) demo (f 64 2400) = true := by decide +kernel

/-- LostComponents and MemoryErrors. -/
theorem test_wit_errors :
    let dead := onMods [(0, { Module.reset with lostDies := [3] }), (1, { Module.reset with inJob := true, lost := true })]
    let ld := withGroup ldDemo (fun g => { g with f1 := none })
    let e := demo.modCore ⟨0, 0⟩ (fun c => { c with eyelets := [⟨0, LD, 0, 1#32, 0, 0, false⟩] })
    gives (.dieLost 0 11) demo (fun t => (t.module 0).lostDies == [11]) = true ∧ (dead.module 0).lostDies.contains 3 = true ∧
    gives (.moduleLost 1) podDemo (fun t => (t.module 1).lost) = true ∧ (dead.module 1).lost = true ∧ (demo.module 0).inJob = false ∧
    gives (.correctedError 0 10) demo (fun t => (t.module 0).errs.corrected == [(10, 1)]) = true ∧ (demo.line LD).dirty = false ∧
    grp ld (fun g => (g.flight? 0).any (fun f => (f.parts[0]?).any (fun p => decide (p.lane < 32))) && !g.ended) = true ∧
    gives (.uncorrectableError (.dram 0x200100 4 gk 0 0)) ld (fun t => t.damaged == [(0x200100, 4)] &&
      grp t (fun g => g.late.any (fun c => c.code == 0x0A))) = true ∧
    (e.core ⟨0, 0⟩).eyelets.length = 1 ∧
    gives (.uncorrectableError (.eyelet ⟨0, 0⟩ 0)) e (fun t => grp t (fun g => g.sr.eystruck == 1)) = true := by decide +kernel

/-- MemoriesStayCanonical: a machine with memory, whose next step is a nanosecond. -/
theorem test_wit_canonical : ∃ t, State.memOk { demo with agenda := [.event .tick] } = true ∧
    StepsTo { demo with agenda := [.event .tick] } t := by
  have h : (match step { demo with agenda := [.event .tick] } with
    | .next _ => true
    | .fault _ | .refused _ => false) = true := by decide +kernel
  unfold StepsTo
  split at h
  · exact ⟨_, test_demo_memory_canonical, by assumption⟩
  all_goals exact absurd h (by decide)
end Sys2Proof.Tests
end

/-! ### Writing one value per lane (spec/02 R30) -/

namespace Sys2Proof.Machine

/-- The writes of a lane's value are one write of an operand of that width. -/
theorem Regs.apply_vwr (r : Regs) (wide : Bool) (d l x : Nat) : r.apply (vwr wide d l x) = r.wrW wide d l x := by
  cases wide with
  | false => rfl
  | true =>
    have hlo : (BitVec.ofNat 64 x).setWidth 32 = BitVec.ofNat 32 x := by
      apply BitVec.eq_of_toNat_eq
      simp only [BitVec.toNat_setWidth, BitVec.toNat_ofNat]
      omega
    have hhi : (BitVec.ofNat 64 x >>> 32).setWidth 32 = BitVec.ofNat 32 (x / 2 ^ 32) := by
      apply BitVec.eq_of_toNat_eq
      simp only [BitVec.toNat_setWidth, BitVec.toNat_ushiftRight, BitVec.toNat_ofNat, Nat.shiftRight_eq_div_pow]
      omega
    simp only [vwr, Regs.wrW, Regs.wrV64, if_true, hlo, hhi]
    rfl

theorem Regs.rdP_wrPbit_of_ne (r : Regs) {n p : Nat} (l : Nat) (b : Bool) (h : n ≠ p) :
    (r.wrPbit p l b).rdP n = r.rdP n := by
  unfold Regs.wrPbit
  rw [Regs.rdP_wrP, if_neg (fun hn => h hn.1)]

theorem Regs.rdW_mod (r : Regs) (wide : Bool) (i l : Nat) :
    r.rdW wide i l % 2 ^ (if wide then 64 else 32) = r.rdW wide i l :=
  Nat.mod_eq_of_lt (Regs.rdW_lt r wide i l)

/-- A lane outside the mask, or a register that is not written, reads as before. -/
theorem foldl_wrW_rdV_of_ne (act : LaneMask) (wide : Bool) (d : Nat) (v : Nat → Nat) (r : Regs) (n l : Nat) (hl : l < 32)
    (h : act.getLsbD l = false ∨ (n ≠ d ∧ (wide = true → n ≠ d + 1))) :
    ((lanesOf act).foldl (fun r l => r.wrW wide d l (v l)) r).rdV n l = r.rdV n l := by
  refine foldl_keeps (fun r => Regs.rdV r n l) _ _ _ (fun r m hm => ?_)
  obtain ⟨hm32, hact⟩ := (mem_lanesOf act m).1 hm
  refine Regs.rdV_wrW_of_ne r wide d m n l (v m) hm32 hl (h.imp_left ?_)
  rintro hoff rfl
  exact absurd hact (by simp [hoff])

/-- Writing bits of one predicate leaves the others as they were. -/
theorem foldl_wrPbit_rdP_of_ne (ls : List Nat) (d : Nat) (b : Nat → Bool) (r : Regs) {n : Nat} (h : n ≠ d) :
    (ls.foldl (fun r l => r.wrPbit d l (b l)) r).rdP n = r.rdP n :=
  foldl_keeps (fun r => Regs.rdP r n) _ _ _ (fun r l _ => Regs.rdP_wrPbit_of_ne r l (b l) h)

theorem Regs.wrW_v_congr {r r' : Regs} (h : r.v = r'.v) (wide : Bool) (d l x : Nat) :
    (r.wrW wide d l x).v = (r'.wrW wide d l x).v := by
  cases wide <;> simp [Regs.wrW, Regs.wrV64, Regs.wrV, h]

theorem Regs.wrPbit_p_congr {r r' : Regs} (h : r.p = r'.p) (p l : Nat) (b : Bool) :
    (r.wrPbit p l b).p = (r'.wrPbit p l b).p := by
  unfold Regs.wrPbit Regs.wrP
  split <;> simp [Regs.rdP_congr h, h]

theorem Regs.rdW_congr {r r' : Regs} (h : r.v = r'.v) (wide : Bool) (i l : Nat) : r.rdW wide i l = r'.rdW wide i l := by
  simp only [Regs.rdW, Regs.rdV64, Regs.rdV_congr h]

/-! ### The shuffles (spec/05 R79) -/

/-- A value and a validity bit for each active lane. -/
def shflWrites (act : LaneMask) (wide : Bool) (d pv : Nat) (v : Nat → Nat) (b : Nat → Bool) : List RegW :=
  (lanesOf act).flatMap (fun l => vwr wide d l (v l) ++ [.p pv l (b l)])

section ShuffleWrites
variable {act : LaneMask} {wide : Bool} {d pv : Nat} {v : Nat → Nat} {b : Nat → Bool} (r : Regs)

theorem apply_shflWrites : r.apply (shflWrites act wide d pv v b) =
    (lanesOf act).foldl (fun r l => (r.wrW wide d l (v l)).wrPbit pv l (b l)) r := by
  unfold shflWrites
  rw [Regs.apply_flatMap]
  simp only [Regs.apply_append, Regs.apply_vwr]
  rfl

theorem apply_shflWrites_s : (r.apply (shflWrites act wide d pv v b)).s = r.s := by
  rw [apply_shflWrites]
  exact foldl_keeps Regs.s _ _ _ (fun r l _ => by simp)

theorem apply_shflWrites_q : (r.apply (shflWrites act wide d pv v b)).q = r.q := by
  rw [apply_shflWrites]
  exact foldl_keeps Regs.q _ _ _ (fun r l _ => by simp)

/-- The vector registers are those that the values alone leave. -/
theorem apply_shflWrites_v : (r.apply (shflWrites act wide d pv v b)).v =
    ((lanesOf act).foldl (fun r l => r.wrW wide d l (v l)) r).v := by
  rw [apply_shflWrites]
  refine List.foldl_rel (r := fun r r' : Regs => r.v = r'.v) rfl (fun l _ r r' h => ?_)
  rw [Regs.wrPbit_v, Regs.wrW_v_congr h]

/-- The predicates are those that the validity bits alone leave. -/
theorem apply_shflWrites_p : (r.apply (shflWrites act wide d pv v b)).p =
    ((lanesOf act).foldl (fun r l => r.wrPbit pv l (b l)) r).p := by
  rw [apply_shflWrites]
  refine List.foldl_rel (r := fun r r' : Regs => r.p = r'.p) rfl (fun l _ r r' h => ?_)
  exact Regs.wrPbit_p_congr ((Regs.wrW_p ..).trans h) pv l (b l)

theorem rdV_apply_shflWrites_of_ne {n l : Nat} (hl : l < 32)
    (h : act.getLsbD l = false ∨ (n ≠ d ∧ (wide = true → n ≠ d + 1))) :
    (r.apply (shflWrites act wide d pv v b)).rdV n l = r.rdV n l := by
  rw [Regs.rdV_congr (apply_shflWrites_v r), foldl_wrW_rdV_of_ne act wide d v r n l hl h]

theorem rdW_apply_shflWrites {l : Nat} (hl : l < 32) (hact : act.getLsbD l = true) :
    (r.apply (shflWrites act wide d pv v b)).rdW wide d l = v l % 2 ^ (if wide then 64 else 32) := by
  rw [Regs.rdW_congr (apply_shflWrites_v r), foldl_wrW act wide d v r l hl, if_pos hact]

theorem rdP_apply_shflWrites_of_ne {n : Nat} (h : n ≠ pv) :
    (r.apply (shflWrites act wide d pv v b)).rdP n = r.rdP n := by
  rw [Regs.rdP_congr (apply_shflWrites_p r), foldl_wrPbit_rdP_of_ne _ pv b r h]

theorem rdP_apply_shflWrites {n l : Nat} (hl : l < 32) :
    ((r.apply (shflWrites act wide d pv v b)).rdP n).getLsbD l =
      if n = pv ∧ n ≠ 7 ∧ act.getLsbD l = true then b l else (r.rdP n).getLsbD l := by
  rw [Regs.rdP_congr (apply_shflWrites_p r), foldl_wrPbit act pv b r l n hl]

end ShuffleWrites

/-- The lane a shuffle chooses for a lane, by instruction. -/
def shuffles : List ((ShflF → Instr) × (Regs → ShflF → Nat → Option Nat)) :=
  [(.shflIdx, fun r f l =>
      if r.srcB f.sb false f.b.val l < Seg.size f.seg then some (l / Seg.size f.seg * Seg.size f.seg + r.srcB f.sb false f.b.val l)
      else none),
    (.shflUp, fun _ f l => if f.k.val ≤ l then some (l - f.k.val) else none),
    (.shflDn, fun _ f l => some (l + f.k.val)), (.shflXor, fun _ f l => some (l ^^^ f.k.val))]

theorem shflSrc_eq_some {act : LaneMask} {sz l j : Nat} (h : j < 32 ∧ j / sz = l / sz ∧ act.getLsbD j = true) :
    shflSrc act sz l (some j) = some j := if_pos h

theorem shflSrc_eq_none {act : LaneMask} {sz l : Nat} {o : Option Nat}
    (h : ∀ j, o = some j → ¬ (j < 32 ∧ j / sz = l / sz ∧ act.getLsbD j = true)) : shflSrc act sz l o = none := by
  cases o with
  | none => rfl
  | some j => exact if_neg (h j rfl)

/-- What a shuffle lands: each active lane the value of its valid source lane, or its own, and whether there is one. -/
def Iss.shflResult (x : Iss) (f : ShflF) (src : Nat → Option Nat) : List RegW :=
  let source (l : Nat) := shflSrc x.act (Seg.size f.seg) l (src l)
  shflWrites x.act f.w64 f.d.val f.pv.val (fun l => x.g.regs.rdW f.w64 f.a.val ((source l).getD l)) (fun l => (source l).isSome)

theorem Iss.shuffle_eq (x : Iss) (i : Instr) (f : ShflF) (src : Nat → Option Nat) :
    x.shuffle i f src = .ok (x.later 4 f.la.val (Instr.dests i) 8 (x.shflResult f src) 0#5) := by
  unfold Iss.shuffle Iss.shflResult shflWrites
  dsimp only
  congr 2
  refine List.flatMap_congr (fun l _ => ?_)
  cases shflSrc x.act (Seg.size f.seg) l (src l) <;> rfl

theorem exec_shuffle {mk : ShflF → Instr} {src : Regs → ShflF → Nat → Option Nat} (hmk : (mk, src) ∈ shuffles)
    {f : ShflF} {s : State} {x : Iss} (h : prelude (mk f) s = .go x) :
    exec (mk f) s = .next (x.done (x.later 4 f.la.val (Instr.dests (mk f)) 8 (x.shflResult f (src x.g.regs f)) 0#5)) := by
  have hissue : exec (mk f) s = issue (mk f) s (fun x => x.shuffle (mk f) f (src x.g.regs f)) := by
    simp only [shuffles, List.mem_cons, List.not_mem_nil, or_false, Prod.mk.injEq] at hmk
    obtain ⟨rfl, rfl⟩ | ⟨rfl, rfl⟩ | ⟨rfl, rfl⟩ | ⟨rfl, rfl⟩ := hmk <;> rfl
  rw [hissue]
  exact issue_ok h (Iss.shuffle_eq ..)

section ShuffleResult
variable (x : Iss) (f : ShflF) (src : Nat → Option Nat) (r : Regs) {l : Nat}

/-- Where there is no valid source lane, the lane reads its own value. -/
theorem rdW_apply_shflResult (hl : l < 32) (hact : x.act.getLsbD l = true) {o : Option Nat}
    (ho : shflSrc x.act (Seg.size f.seg) l (src l) = o) :
    (r.apply (x.shflResult f src)).rdW f.w64 f.d.val l = x.g.regs.rdW f.w64 f.a.val (o.getD l) := by
  subst ho
  exact (rdW_apply_shflWrites r hl hact).trans (Regs.rdW_mod ..)

theorem rdP_apply_shflResult (hl : l < 32) (hact : x.act.getLsbD l = true) (h7 : f.pv.val ≠ 7) {o : Option Nat}
    (ho : shflSrc x.act (Seg.size f.seg) l (src l) = o) :
    ((r.apply (x.shflResult f src)).rdP f.pv.val).getLsbD l = o.isSome := by
  subst ho
  exact (rdP_apply_shflWrites r hl).trans (if_pos ⟨rfl, h7, hact⟩)

end ShuffleResult

/-! ### The votes (spec/05 R80) -/

/-- The any or the all of a lane's segment. -/
def Iss.voteBit (x : Iss) (f : VoteF) (all : Bool) (l : Nat) : Bool :=
  let ls := segLanes x.act (Seg.size f.seg) l
  if all then ls.all (fun j => (x.g.regs.rdP f.a.val).getLsbD j) else ls.any (fun j => (x.g.regs.rdP f.a.val).getLsbD j)

/-- What a vote lands: its bit in each active lane. -/
def Iss.voteResult (x : Iss) (f : VoteF) (all : Bool) : List RegW :=
  (lanesOf x.act).map (fun l => .p f.d.val l (x.voteBit f all l))

theorem exec_vote (all : Bool) {f : VoteF} {s : State} {x : Iss}
    (h : prelude (if all then .voteAll f else .voteAny f) s = .go x) :
    exec (if all then .voteAll f else .voteAny f) s =
      .next (x.done (x.later 4 f.la.val (Instr.dests (.voteAny f)) 8 (x.voteResult f all) 0#5)) := by
  cases all with
  | false => exact issue_ok (body := fun x => x.vote (.voteAny f) f false) h rfl
  | true => exact issue_ok (body := fun x => x.vote (.voteAll f) f true) h rfl

theorem mem_segLanes (act : LaneMask) (sz l j : Nat) :
    j ∈ segLanes act sz l ↔ j < 32 ∧ j / sz = l / sz ∧ act.getLsbD j = true := by
  simp only [segLanes, List.mem_filter, mem_lanesOf, beq_iff_eq]
  tauto

theorem Iss.voteBit_iff (x : Iss) (f : VoteF) (all : Bool) (l : Nat) : x.voteBit f all l = true ↔
    if all then ∀ j, j < 32 → j / Seg.size f.seg = l / Seg.size f.seg → x.act.getLsbD j = true →
      (x.g.regs.rdP f.a.val).getLsbD j = true
    else ∃ j, j < 32 ∧ j / Seg.size f.seg = l / Seg.size f.seg ∧ x.act.getLsbD j = true ∧
      (x.g.regs.rdP f.a.val).getLsbD j = true := by
  cases all with
  | false => simp [Iss.voteBit, mem_segLanes, and_assoc]
  | true => simp [Iss.voteBit, mem_segLanes]

section VoteResult
variable (x : Iss) (f : VoteF) (all : Bool) (r : Regs)

theorem apply_voteResult : r.apply (x.voteResult f all) =
    (lanesOf x.act).foldl (fun r l => r.wrPbit f.d.val l (x.voteBit f all l)) r := Regs.apply_map ..

theorem apply_voteResult_s : (r.apply (x.voteResult f all)).s = r.s := by
  rw [apply_voteResult]
  exact foldl_keeps Regs.s _ _ _ (fun r l _ => by simp)

theorem apply_voteResult_q : (r.apply (x.voteResult f all)).q = r.q := by
  rw [apply_voteResult]
  exact foldl_keeps Regs.q _ _ _ (fun r l _ => by simp)

theorem apply_voteResult_v : (r.apply (x.voteResult f all)).v = r.v := by
  rw [apply_voteResult]
  exact foldl_keeps Regs.v _ _ _ (fun r l _ => by simp)

theorem rdP_apply_voteResult {n l : Nat} (hl : l < 32) : ((r.apply (x.voteResult f all)).rdP n).getLsbD l =
    if n = f.d.val ∧ n ≠ 7 ∧ x.act.getLsbD l = true then x.voteBit f all l else (r.rdP n).getLsbD l := by
  rw [apply_voteResult, foldl_wrPbit x.act f.d.val (x.voteBit f all) r l n hl]

end VoteResult

/-! ### Words whose result is one scalar, or one value in every active lane (spec/05 R80 to R82) -/

theorem exec_voteBal {f : BalF} {s : State} {x : Iss} (h : prelude (.voteBal f) s = .go x) :
    exec (.voteBal f) s = .next (x.done (x.later 4 f.la.val (Instr.dests (.voteBal f)) 8
      [.s f.d.val ((x.act &&& x.g.regs.rdP f.a.val).setWidth 64)] 0#5)) :=
  show execVoteBal f s = _ from issue_ok h rfl

/-- The lane that vtos reads, when it is active. -/
def Iss.vtosLane (x : Iss) (f : VtosF) : Option Nat :=
  if f.fa then (lanesOf x.act).head? else if x.act.getLsbD f.k.val then some f.k.val else none

/-- The value that vtos gives: 0 when no lane is chosen. -/
def Iss.vtosValue (x : Iss) (f : VtosF) : Nat :=
  match x.vtosLane f with
  | none => 0
  | some l => x.g.regs.rdW f.w64 f.a.val l

theorem exec_vtos {f : VtosF} {s : State} {x : Iss} (h : prelude (.vtos f) s = .go x) :
    exec (.vtos f) s = .next (x.done (x.later 4 f.la.val (Instr.dests (.vtos f)) 8
      [.s f.d.val (BitVec.ofNat 64 (x.vtosValue f))] 0#5)) :=
  show execVtos f s = _ from issue_ok h rfl

theorem two_pow_width_le (w64 : Bool) : 2 ^ (if w64 then 64 else 32) ≤ 2 ^ 64 :=
  Nat.pow_le_pow_right (by decide) (by cases w64 <;> decide)

theorem Regs.rdW_lt_64 (r : Regs) (wide : Bool) (i l : Nat) : r.rdW wide i l < 2 ^ 64 :=
  (Regs.rdW_lt r wide i l).trans_le (two_pow_width_le wide)

theorem vtosValue_of_lane {x : Iss} {f : VtosF} {l : Nat}
    (h : if f.fa then (lanesOf x.act).head? = some l else l = f.k.val ∧ x.act.getLsbD l = true) :
    x.vtosValue f = x.g.regs.rdW f.w64 f.a.val l := by
  have hl : x.vtosLane f = some l := by
    unfold Iss.vtosLane
    split at h
    · rw [if_pos ‹_›, h]
    · obtain ⟨rfl, hact⟩ := h
      rw [if_neg ‹_›, if_pos hact]
  rw [Iss.vtosValue, hl]

theorem lanesOf_eq_nil_iff (m : LaneMask) : lanesOf m = [] ↔ m = 0#32 := by
  constructor
  · intro h
    apply BitVec.eq_of_getLsbD_eq
    intro l hl
    have hmem := mem_lanesOf m l
    simpa [h, hl] using hmem
  · rintro rfl
    rfl

theorem vtosValue_of_no_lane {x : Iss} {f : VtosF}
    (h : if f.fa then x.act = 0#32 else x.act.getLsbD f.k.val = false) : x.vtosValue f = 0 := by
  have hl : x.vtosLane f = none := by
    unfold Iss.vtosLane
    split at h
    · rw [if_pos ‹_›, (lanesOf_eq_nil_iff x.act).2 h, List.head?_nil]
    · rw [if_neg ‹_›, h, if_neg Bool.false_ne_true]
  rw [Iss.vtosValue, hl]

/-- What stov lands: the scalar in each active lane. -/
def Iss.stovResult (x : Iss) (f : StovF) : List RegW :=
  (lanesOf x.act).flatMap (fun l => vwr f.w64 f.d.val l (x.g.regs.rdS f.a.val).toNat)

theorem exec_stov {f : StovF} {s : State} {x : Iss} (h : prelude (.stov f) s = .go x) :
    exec (.stov f) s =
      .next (x.done (x.later 4 f.la.val (Instr.dests (.stov f)) 8 (x.stovResult f) 0#5)) :=
  show execStov f s = _ from issue_ok h rfl

theorem apply_stovResult (x : Iss) (f : StovF) (r : Regs) : r.apply (x.stovResult f) =
    (lanesOf x.act).foldl (fun r l => r.wrW f.w64 f.d.val l (x.g.regs.rdS f.a.val).toNat) r := by
  unfold Iss.stovResult
  rw [Regs.apply_flatMap]
  simp only [Regs.apply_vwr]

/-! ### Folds of numbers of w bits, as redux makes them (spec/05 R81) -/

/-- A reduction of w bits, starting from its identity. -/
def RedOp.fold (op : RedOp) (w : Nat) (vs : List Nat) : Nat := vs.foldl (RedOp.step op w) (RedOp.identity op w)

theorem RedOp.identity_lt (op : RedOp) {w : Nat} (hw : 0 < w) : RedOp.identity op w < 2 ^ w := by
  have hhalf : 2 ^ (w - 1) < 2 ^ w := Nat.pow_lt_pow_right (by decide) (by omega)
  have hpos : 0 < 2 ^ (w - 1) := by positivity
  cases op <;> simp only [RedOp.identity] <;> omega

theorem RedOp.step_lt (op : RedOp) {w a b : Nat} (ha : a < 2 ^ w) (hb : b < 2 ^ w) : RedOp.step op w a b < 2 ^ w := by
  cases op with
  | add => exact Nat.mod_lt _ (by positivity)
  | minI => unfold RedOp.step; dsimp only; split <;> assumption
  | maxI => unfold RedOp.step; dsimp only; split <;> assumption
  | minU => exact (min_le_left a b).trans_lt ha
  | maxU => exact max_lt ha hb
  | and => exact Nat.and_lt_two_pow a hb
  | or => exact Nat.or_lt_two_pow ha hb
  | xor => exact Nat.xor_lt_two_pow ha hb

theorem RedOp.foldl_step_lt (op : RedOp) {w : Nat} (vs : List Nat) (hvs : ∀ v ∈ vs, v < 2 ^ w) (a : Nat)
    (ha : a < 2 ^ w) : vs.foldl (RedOp.step op w) a < 2 ^ w := by
  induction vs generalizing a with
  | nil => exact ha
  | cons v vs ih =>
    exact ih (fun u hu => hvs u (List.mem_cons_of_mem _ hu)) _ (RedOp.step_lt op ha (hvs v (List.mem_cons_self ..)))

theorem RedOp.fold_lt (op : RedOp) {w : Nat} (hw : 0 < w) {vs : List Nat} (hvs : ∀ v ∈ vs, v < 2 ^ w) :
    RedOp.fold op w vs < 2 ^ w := RedOp.foldl_step_lt op vs hvs _ (RedOp.identity_lt op hw)

theorem foldl_add_mod (m : Nat) (vs : List Nat) (a : Nat) :
    vs.foldl (fun a b => (a + b) % m) a % m = (a + vs.sum) % m := by
  induction vs generalizing a with
  | nil => rfl
  | cons v vs ih => rw [List.foldl_cons, ih, Nat.mod_add_mod, List.sum_cons, Nat.add_assoc]

theorem foldl_and_testBit (b : Nat) (vs : List Nat) (a : Nat) :
    (vs.foldl (· &&& ·) a).testBit b = (a.testBit b && vs.all (·.testBit b)) := by
  induction vs generalizing a with
  | nil => simp
  | cons v vs ih => simp [ih, Bool.and_assoc]

theorem foldl_or_testBit (b : Nat) (vs : List Nat) (a : Nat) :
    (vs.foldl (· ||| ·) a).testBit b = (a.testBit b || vs.any (·.testBit b)) := by
  induction vs generalizing a with
  | nil => simp
  | cons v vs ih => simp [ih, Bool.or_assoc]

theorem foldl_xor_testBit (b : Nat) (vs : List Nat) (a : Nat) :
    (vs.foldl (· ^^^ ·) a).testBit b = (a.testBit b ^^ decide ((vs.filter (·.testBit b)).length % 2 = 1)) := by
  induction vs generalizing a with
  | nil => simp
  | cons v vs ih =>
    rw [List.foldl_cons, ih, Nat.testBit_xor, List.filter_cons, Bool.xor_assoc]
    congr 1
    cases v.testBit b with
    | false => simp
    | true =>
      rcases Nat.mod_two_eq_zero_or_one (vs.filter (·.testBit b)).length with h | h <;> simp [h, Nat.add_mod]

/-- Of two numbers, the one whose key is smaller, and the first when they are equal. -/
def pick (key : Nat → Int) (a b : Nat) : Nat := if key b < key a then b else a

theorem key_pick_le (key : Nat → Int) (a b : Nat) : key (pick key a b) ≤ key a ∧ key (pick key a b) ≤ key b := by
  unfold pick
  split <;> omega

theorem key_foldl_pick_le (key : Nat → Int) (vs : List Nat) (a : Nat) :
    ∀ v ∈ a :: vs, key (vs.foldl (pick key) a) ≤ key v := by
  induction vs generalizing a with
  | nil => simp
  | cons u vs ih =>
    obtain ⟨hfirst, hrest⟩ := List.forall_mem_cons.1 (ih (pick key a u))
    obtain ⟨ha, hu⟩ := key_pick_le key a u
    exact List.forall_mem_cons.2 ⟨hfirst.trans ha, List.forall_mem_cons.2 ⟨hfirst.trans hu, hrest⟩⟩

theorem foldl_pick_mem (key : Nat → Int) (vs : List Nat) (a : Nat) : vs.foldl (pick key) a ∈ a :: vs := by
  induction vs generalizing a with
  | nil => simp
  | cons u vs ih =>
    have hpick : pick key a u = a ∨ pick key a u = u := by unfold pick; split <;> simp
    rcases List.mem_cons.1 (ih (pick key a u)) with hfold | hfold
    · rw [List.foldl_cons, hfold]
      rcases hpick with hpick | hpick <;> simp [hpick]
    · exact List.mem_cons_of_mem _ (List.mem_cons_of_mem _ hfold)

/-- A fold that starts from a number of greatest key finds its result among the numbers. -/
theorem exists_key_eq_foldl_pick (key : Nat → Int) {vs : List Nat} (hne : vs ≠ []) {a : Nat}
    (ha : ∀ v ∈ vs, key v ≤ key a) : ∃ v ∈ vs, key (vs.foldl (pick key) a) = key v := by
  rcases List.mem_cons.1 (foldl_pick_mem key vs a) with hfold | hfold
  · obtain ⟨v, hv⟩ := List.exists_mem_of_ne_nil vs hne
    have hle := key_foldl_pick_le key vs a v (List.mem_cons_of_mem _ hv)
    exact ⟨v, hv, le_antisymm hle (by rw [hfold]; exact ha v hv)⟩
  · exact ⟨_, hfold, rfl⟩

/-- The key by which a minimum or a maximum chooses. -/
def RedOp.key (op : RedOp) (w v : Nat) : Int :=
  match op with
  | .minI => toSigned w v
  | .maxI => -toSigned w v
  | .minU => v
  | .maxU => -v
  | .add | .and | .or | .xor => 0

/-- The minima and the maxima. -/
def RedOp.chooses : RedOp → Bool
  | .minI | .maxI | .minU | .maxU => true
  | .add | .and | .or | .xor => false

theorem RedOp.step_eq_pick {op : RedOp} (h : RedOp.chooses op = true) (w : Nat) :
    RedOp.step op w = pick (RedOp.key op w) := by
  funext a b
  cases op with
  | minI => rfl
  | maxI => simp only [RedOp.step, pick, RedOp.key, neg_lt_neg_iff]
  | minU => simp only [RedOp.step, pick, RedOp.key, Nat.cast_lt]; split <;> omega
  | maxU => simp only [RedOp.step, pick, RedOp.key, neg_lt_neg_iff, Nat.cast_lt]; split <;> omega
  | add | and | or | xor => cases h

/-- The identity of a minimum or a maximum gives way to every number of w bits. -/
theorem RedOp.key_le_key_identity {op : RedOp} (h : RedOp.chooses op = true) {w v : Nat} (hw : 0 < w) (hv : v < 2 ^ w) :
    RedOp.key op w v ≤ RedOp.key op w (RedOp.identity op w) := by
  obtain ⟨n, rfl⟩ : ∃ n, w = n + 1 := ⟨w - 1, by omega⟩
  have hpos : 0 < 2 ^ n := by positivity
  have hpow : 2 ^ (n + 1) = 2 * 2 ^ n := by ring
  have hpowInt : (2 : Int) ^ (n + 1) = 2 * (2 ^ n : Nat) := by push_cast; ring
  cases op with
  | minI => simp only [RedOp.key, RedOp.identity, toSigned, Nat.add_sub_cancel, hpowInt]; split <;> split <;> omega
  | maxI => simp only [RedOp.key, RedOp.identity, toSigned, Nat.add_sub_cancel, hpowInt]; split <;> split <;> omega
  | minU => simp only [RedOp.key, RedOp.identity]; omega
  | maxU => simp only [RedOp.key, RedOp.identity]; omega
  | add | and | or | xor => cases h

theorem RedOp.key_fold_le {op : RedOp} (h : RedOp.chooses op = true) (w : Nat) {vs : List Nat} {v : Nat} (hv : v ∈ vs) :
    RedOp.key op w (RedOp.fold op w vs) ≤ RedOp.key op w v := by
  rw [RedOp.fold, RedOp.step_eq_pick h]
  exact key_foldl_pick_le _ _ _ v (List.mem_cons_of_mem _ hv)

theorem RedOp.exists_key_eq_fold {op : RedOp} (h : RedOp.chooses op = true) {w : Nat} (hw : 0 < w) {vs : List Nat}
    (hne : vs ≠ []) (hvs : ∀ v ∈ vs, v < 2 ^ w) : ∃ v ∈ vs, RedOp.key op w (RedOp.fold op w vs) = RedOp.key op w v := by
  rw [RedOp.fold, RedOp.step_eq_pick h]
  exact exists_key_eq_foldl_pick _ hne (fun v hv => RedOp.key_le_key_identity h hw (hvs v hv))

/-! ### redux (spec/05 R81) -/

/-- The scalar that a result of 32 or 64 bits gives. -/
def RedOp.word (op : RedOp) (w64 : Bool) (v : Nat) : DWord :=
  if w64 then BitVec.ofNat 64 v else if RedOp.signed op then (BitVec.ofNat 32 v).signExtend 64 else BitVec.ofNat 64 v

/-- An unsigned result is the number itself. -/
theorem RedOp.word_toNat {op : RedOp} (hs : RedOp.signed op = false) {w64 : Bool} {v : Nat}
    (hv : v < 2 ^ (if w64 then 64 else 32)) : (RedOp.word op w64 v).toNat = v := by
  have hword : RedOp.word op w64 v = BitVec.ofNat 64 v := by cases w64 <;> simp [RedOp.word, hs]
  rw [hword, BitVec.toNat_ofNat, Nat.mod_eq_of_lt (hv.trans_le (two_pow_width_le w64))]

theorem toInt_ofNat_eq_toSigned {w v : Nat} (hw : 0 < w) (hv : v < 2 ^ w) : (BitVec.ofNat w v).toInt = toSigned w v := by
  obtain ⟨n, rfl⟩ : ∃ n, w = n + 1 := ⟨w - 1, by omega⟩
  have hpow : 2 ^ (n + 1) = 2 * 2 ^ n := by ring
  rw [BitVec.toInt_eq_toNat_cond, BitVec.toNat_ofNat, Nat.mod_eq_of_lt hv, toSigned, Nat.add_sub_cancel]
  push_cast
  by_cases h : v < 2 ^ n
  · rw [if_pos (by omega), if_pos h]
  · rw [if_neg (by omega), if_neg h]

/-- A signed result is the number read signed. -/
theorem RedOp.word_toInt {op : RedOp} (hs : RedOp.signed op = true) {w64 : Bool} {v : Nat}
    (hv : v < 2 ^ (if w64 then 64 else 32)) : (RedOp.word op w64 v).toInt = toSigned (if w64 then 64 else 32) v := by
  cases w64 with
  | false =>
    simp only [RedOp.word, hs, if_true, Bool.false_eq_true, if_false] at *
    rw [BitVec.toInt_signExtend_of_le (by decide), toInt_ofNat_eq_toSigned (by decide) hv]
  | true => exact toInt_ofNat_eq_toSigned (by decide) hv

/-- The values that the active lanes give redux, in lane order. -/
def Iss.reduxValues (x : Iss) (f : ReduxF) : List Nat := (lanesOf x.act).map (fun l => x.g.regs.rdW f.w64 f.a.val l)

/-- The number of w bits that redux forms. -/
def Iss.reduxFold (x : Iss) (f : ReduxF) : Nat := RedOp.fold f.op (if f.w64 then 64 else 32) (x.reduxValues f)

/-- The scalar that redux gives. -/
def Iss.reduxWord (x : Iss) (f : ReduxF) : DWord := RedOp.word f.op f.w64 (x.reduxFold f)

theorem exec_redux {f : ReduxF} {s : State} {x : Iss} (h : prelude (.redux f) s = .go x) :
    exec (.redux f) s = .next (x.done (x.later 4 f.la.val (Instr.dests (.redux f)) 8 [.s f.d.val (x.reduxWord f)] 0#5)) :=
  show execRedux f s = _ from issue_ok h rfl

theorem width_pos (w64 : Bool) : 0 < (if w64 then 64 else 32) := by cases w64 <;> decide

section Redux
variable (x : Iss) (f : ReduxF)

theorem reduxValues_lt : ∀ v ∈ x.reduxValues f, v < 2 ^ (if f.w64 then 64 else 32) :=
  List.forall_mem_map.2 (fun l _ => Regs.rdW_lt x.g.regs f.w64 f.a.val l)

theorem reduxFold_lt : x.reduxFold f < 2 ^ (if f.w64 then 64 else 32) :=
  RedOp.fold_lt f.op (width_pos f.w64) (reduxValues_lt x f)

theorem reduxWord_toNat (hs : RedOp.signed f.op = false) : (x.reduxWord f).toNat = x.reduxFold f :=
  RedOp.word_toNat hs (reduxFold_lt x f)

theorem reduxWord_toInt (hs : RedOp.signed f.op = true) :
    (x.reduxWord f).toInt = toSigned (if f.w64 then 64 else 32) (x.reduxFold f) :=
  RedOp.word_toInt hs (reduxFold_lt x f)

theorem reduxWord_getLsbD (hs : RedOp.signed f.op = false) (b : Nat) :
    (x.reduxWord f).getLsbD b = (x.reduxFold f).testBit b := by
  rw [← BitVec.testBit_toNat, reduxWord_toNat x f hs]

theorem reduxWord_add (h : f.op = .add) : (x.reduxWord f).toNat =
    ((lanesOf x.act).map (fun l => x.g.regs.rdW f.w64 f.a.val l)).sum % 2 ^ (if f.w64 then 64 else 32) := by
  rw [reduxWord_toNat x f (by rw [h]; rfl), ← Nat.mod_eq_of_lt (reduxFold_lt x f), Iss.reduxFold, h]
  exact (foldl_add_mod _ _ 0).trans (by rw [Nat.zero_add, Iss.reduxValues])

theorem reduxWord_and (h : f.op = .and) (b : Nat) : (x.reduxWord f).getLsbD b = true ↔
    b < (if f.w64 then 64 else 32) ∧ ∀ l ∈ lanesOf x.act, (x.g.regs.rdW f.w64 f.a.val l).testBit b = true := by
  have hfold : x.reduxFold f = (x.reduxValues f).foldl (· &&& ·) (2 ^ (if f.w64 then 64 else 32) - 1) := by
    rw [Iss.reduxFold, h]; rfl
  rw [reduxWord_getLsbD x f (by rw [h]; rfl), hfold, foldl_and_testBit, Nat.testBit_two_pow_sub_one]
  simp [Iss.reduxValues]

theorem reduxWord_or (h : f.op = .or) (b : Nat) : (x.reduxWord f).getLsbD b = true ↔
    ∃ l ∈ lanesOf x.act, (x.g.regs.rdW f.w64 f.a.val l).testBit b = true := by
  have hfold : x.reduxFold f = (x.reduxValues f).foldl (· ||| ·) 0 := by rw [Iss.reduxFold, h]; rfl
  rw [reduxWord_getLsbD x f (by rw [h]; rfl), hfold, foldl_or_testBit, Nat.zero_testBit]
  simp [Iss.reduxValues]

theorem reduxWord_xor (h : f.op = .xor) (b : Nat) : (x.reduxWord f).getLsbD b = true ↔
    ((lanesOf x.act).filter (fun l => (x.g.regs.rdW f.w64 f.a.val l).testBit b)).length % 2 = 1 := by
  have hfold : x.reduxFold f = (x.reduxValues f).foldl (· ^^^ ·) 0 := by rw [Iss.reduxFold, h]; rfl
  rw [reduxWord_getLsbD x f (by rw [h]; rfl), hfold, foldl_xor_testBit, Nat.zero_testBit, Iss.reduxValues,
    List.filter_map, List.length_map, Bool.false_xor, decide_eq_true_iff]
  rfl

theorem reduxFold_key_le (h : RedOp.chooses f.op = true) : ∀ l ∈ lanesOf x.act,
    RedOp.key f.op (if f.w64 then 64 else 32) (x.reduxFold f) ≤
      RedOp.key f.op (if f.w64 then 64 else 32) (x.g.regs.rdW f.w64 f.a.val l) :=
  fun _ hl => RedOp.key_fold_le h _ (List.mem_map_of_mem hl)

theorem reduxFold_key_eq (h : RedOp.chooses f.op = true) (hact : x.act ≠ 0#32) : ∃ l ∈ lanesOf x.act,
    RedOp.key f.op (if f.w64 then 64 else 32) (x.reduxFold f) =
      RedOp.key f.op (if f.w64 then 64 else 32) (x.g.regs.rdW f.w64 f.a.val l) := by
  have hne : x.reduxValues f ≠ [] := by
    rwa [Iss.reduxValues, ne_eq, List.map_eq_nil_iff, lanesOf_eq_nil_iff]
  obtain ⟨v, hv, heq⟩ := RedOp.exists_key_eq_fold h (width_pos f.w64) hne (reduxValues_lt x f)
  obtain ⟨l, hl, rfl⟩ := List.mem_map.1 hv
  exact ⟨l, hl, heq⟩

/-- A minimum is at most, a maximum at least, every active lane's value. -/
theorem reduxWord_bounds : ∀ l ∈ lanesOf x.act,
    (f.op = .maxU → x.g.regs.rdW f.w64 f.a.val l ≤ (x.reduxWord f).toNat) ∧
    (f.op = .minU → (x.reduxWord f).toNat ≤ x.g.regs.rdW f.w64 f.a.val l) ∧
    (f.op = .maxI → toSigned (if f.w64 then 64 else 32) (x.g.regs.rdW f.w64 f.a.val l) ≤ (x.reduxWord f).toInt) ∧
    (f.op = .minI → (x.reduxWord f).toInt ≤ toSigned (if f.w64 then 64 else 32) (x.g.regs.rdW f.w64 f.a.val l)) := by
  intro l hl
  refine ⟨fun h => ?_, fun h => ?_, fun h => ?_, fun h => ?_⟩ <;>
    have hkey := reduxFold_key_le x f (by rw [h]; rfl) l hl <;>
    simp only [h, RedOp.key, neg_le_neg_iff, Nat.cast_le] at hkey
  · rwa [reduxWord_toNat x f (by rw [h]; rfl)]
  · rwa [reduxWord_toNat x f (by rw [h]; rfl)]
  · rwa [reduxWord_toInt x f (by rw [h]; rfl)]
  · rwa [reduxWord_toInt x f (by rw [h]; rfl)]

/-- An unsigned minimum or maximum is an active lane's value. -/
theorem reduxWord_toNat_mem (hact : x.act ≠ 0#32) (h : f.op = .maxU ∨ f.op = .minU) :
    ∃ l ∈ lanesOf x.act, (x.reduxWord f).toNat = x.g.regs.rdW f.w64 f.a.val l := by
  have hop : RedOp.chooses f.op = true ∧ RedOp.signed f.op = false := by rcases h with h | h <;> rw [h] <;> decide
  obtain ⟨l, hl, hkey⟩ := reduxFold_key_eq x f hop.1 hact
  refine ⟨l, hl, ?_⟩
  rw [reduxWord_toNat x f hop.2]
  rcases h with h | h <;> simpa only [h, RedOp.key, neg_inj, Nat.cast_inj] using hkey

/-- A signed minimum or maximum is an active lane's value, read signed. -/
theorem reduxWord_toInt_mem (hact : x.act ≠ 0#32) (h : f.op = .maxI ∨ f.op = .minI) :
    ∃ l ∈ lanesOf x.act, (x.reduxWord f).toInt = toSigned (if f.w64 then 64 else 32) (x.g.regs.rdW f.w64 f.a.val l) := by
  have hop : RedOp.chooses f.op = true ∧ RedOp.signed f.op = true := by rcases h with h | h <;> rw [h] <;> decide
  obtain ⟨l, hl, hkey⟩ := reduxFold_key_eq x f hop.1 hact
  refine ⟨l, hl, ?_⟩
  rw [reduxWord_toInt x f hop.2]
  rcases h with h | h <;> simpa only [h, RedOp.key, neg_inj] using hkey

/-- With no active lane redux gives its identity. -/
theorem reduxWord_of_no_lane (h : x.act = 0#32) :
    x.reduxWord f = RedOp.word f.op f.w64 (RedOp.identity f.op (if f.w64 then 64 else 32)) := by
  rw [Iss.reduxWord, Iss.reduxFold, Iss.reduxValues, (lanesOf_eq_nil_iff x.act).2 h]
  rfl

end Redux

/-- Settles O15: each word's result is a list of writes or a scalar, and the lemmas above say what that reads. -/
theorem laneExchangeResults : Obligations.LaneExchangeResults := by
  unfold Obligations.LaneExchangeResults
  refine ⟨?shuffle, ?vote, fun f s x => exec_voteBal, ?redux, ?vtos, ?stov⟩
  case shuffle =>
    intro mk src hmk f s x h
    refine ⟨_, exec_shuffle hmk h, fun r l hl => ⟨⟨apply_shflWrites_s r, apply_shflWrites_q r⟩,
      fun n hd hd1 => rdV_apply_shflWrites_of_ne r hl (.inr ⟨hd, hd1⟩),
      fun n => rdP_apply_shflWrites_of_ne r, ?inactive, ?valid, ?invalid⟩⟩
    case inactive =>
      exact fun hoff n => ⟨rdV_apply_shflWrites_of_ne r hl (.inl hoff),
        (rdP_apply_shflWrites r hl).trans (if_neg (by simp [hoff]))⟩
    case valid =>
      intro hact j hj hvalid
      have hsrc : shflSrc x.act (Seg.size f.seg) l (src x.g.regs f l) = some j := hj ▸ shflSrc_eq_some hvalid
      exact ⟨by rw [rdW_apply_shflResult x f _ r hl hact hsrc, Option.getD_some],
        fun h7 => by rw [rdP_apply_shflResult x f _ r hl hact h7 hsrc, Option.isSome_some]⟩
    case invalid =>
      intro hact hnone
      have hsrc := shflSrc_eq_none hnone
      exact ⟨by rw [rdW_apply_shflResult x f _ r hl hact hsrc, Option.getD_none],
        fun h7 => by rw [rdP_apply_shflResult x f _ r hl hact h7 hsrc, Option.isSome_none]⟩
  case vote =>
    intro f s x all h
    refine ⟨_, exec_vote all h, fun r l n hl =>
      ⟨⟨apply_voteResult_s x f all r, apply_voteResult_q x f all r, apply_voteResult_v x f all r⟩,
        fun hkeep => (rdP_apply_voteResult x f all r hl).trans (if_neg hkeep), fun hd h7 hact => ?_⟩⟩
    rw [rdP_apply_voteResult x f all r hl, if_pos ⟨hd, h7, hact⟩]
    exact Iss.voteBit_iff x f all l
  case redux =>
    intro f s x h
    refine ⟨_, exec_redux h, reduxWord_add x f, reduxWord_bounds x f, reduxWord_toNat_mem x f, reduxWord_toInt_mem x f,
      fun b => ⟨fun hop => reduxWord_and x f hop b, fun hop => reduxWord_or x f hop b, fun hop => reduxWord_xor x f hop b⟩,
      fun hact => ?_⟩
    rw [reduxWord_of_no_lane x f hact]
    cases f.op <;> cases f.w64 <;> rfl
  case vtos =>
    intro f s x h
    refine ⟨_, exec_vtos h, fun l hl => ?_, fun hnone => ?_⟩
    · rw [vtosValue_of_lane hl, BitVec.toNat_ofNat, Nat.mod_eq_of_lt (Regs.rdW_lt_64 ..)]
    · rw [vtosValue_of_no_lane hnone]
  case stov =>
    intro f s x h
    refine ⟨_, exec_stov h, fun r l hl => ?_⟩
    rw [apply_stovResult]
    exact ⟨⟨foldl_keeps Regs.s _ _ _ (fun r l _ => Regs.wrW_s ..), foldl_keeps Regs.q _ _ _ (fun r l _ => Regs.wrW_q ..),
        foldl_keeps Regs.p _ _ _ (fun r l _ => Regs.wrW_p ..)⟩,
      fun n hd hd1 => foldl_wrW_rdV_of_ne x.act f.w64 f.d.val _ r n l hl (.inr ⟨hd, hd1⟩),
      foldl_wrW x.act f.w64 f.d.val _ r l hl⟩

end Sys2Proof.Machine

namespace Sys2Proof.Machine

/-! ### The barrier step (spec/09 R176), in its two halves: what the bytes and the arrival leave, then the phase -/

/-- The object once the step's bytes, clamped to 32 bits, and its arrival are in: R176 up to the test for completion. -/
def BarObj.taken (o : BarObj) (da : Bool) (db : Int) : BarObj :=
  let c := max (-(2 ^ 31)) (min (2 ^ 31 - 1) (o.bpend + db))
  let p := if o.bpend + db = c then o else o.err 4
  { p with bpend := c, apend := if da then p.apend - 1 else p.apend }

/-- The object in its next phase, an overrun noted: R176 from the test for completion on. -/
def BarObj.advance (o : BarObj) : BarObj :=
  let p := if o.bpend < 0 then { o.err 2 with ovr := true } else o
  { p with bpend := 0, phase := (p.phase + 1) % 2 ^ 32, apend := p.aper }

theorem BarObj.advance_of_drained {o : BarObj} (h : o.bpend = 0) :
    o.advance = { o with bpend := 0, phase := (o.phase + 1) % 2 ^ 32, apend := o.aper } := by
  rw [BarObj.advance, if_neg (by omega)]

theorem BarObj.advance_of_overrun {o : BarObj} (h : o.bpend < 0) :
    o.advance = { o.err 2 with ovr := true, bpend := 0, phase := (o.phase + 1) % 2 ^ 32, apend := o.aper } := by
  rw [BarObj.advance, if_pos h]
  rfl

theorem BarObj.step_of_unset {o : BarObj} (da : Bool) (db : Int) (h : o.aper = 0) : o.step da db = (o.err 3, .none) :=
  if_pos h

theorem BarObj.step_of_late {o : BarObj} {da : Bool} (db : Int) (hset : o.aper ≠ 0) (hda : da = true) (hlate : o.apend = 0) :
    o.step da db = (o.err 1, .dropped) := by
  rw [BarObj.step, if_neg hset, if_pos (by simp [hda, hlate])]

section BarrierStep
variable {o : BarObj} {da : Bool} {db : Int}

theorem BarObj.taken_of_inRange (hlo : -(2 ^ 31) ≤ o.bpend + db) (hhi : o.bpend + db < 2 ^ 31) :
    o.taken da db = { o with bpend := o.bpend + db, apend := if da then o.apend - 1 else o.apend } := by
  have hc : max (-(2 ^ 31)) (min (2 ^ 31 - 1) (o.bpend + db)) = o.bpend + db := by omega
  simp only [BarObj.taken, hc, if_true]

theorem BarObj.taken_of_above (hhi : 2 ^ 31 ≤ o.bpend + db) :
    o.taken da db = { o.err 4 with bpend := 2 ^ 31 - 1, apend := if da then o.apend - 1 else o.apend } := by
  have hc : max (-(2 ^ 31)) (min (2 ^ 31 - 1) (o.bpend + db)) = 2 ^ 31 - 1 := by omega
  have hne : o.bpend + db ≠ 2 ^ 31 - 1 := by omega
  simp only [BarObj.taken, hc, if_neg hne, BarObj.err]

theorem BarObj.taken_of_below (hlo : o.bpend + db < -(2 ^ 31)) :
    o.taken da db = { o.err 4 with bpend := -(2 ^ 31), apend := if da then o.apend - 1 else o.apend } := by
  have hc : max (-(2 ^ 31)) (min (2 ^ 31 - 1) (o.bpend + db)) = -(2 ^ 31) := by omega
  simp only [BarObj.taken, hc, if_neg hlo.ne, BarObj.err]

variable (hset : o.aper ≠ 0) (harr : da = true → o.apend ≠ 0)
include hset harr

/-- A set object with an arrival to take, or none asked for, takes the step; the phase ends when nothing is left of it. -/
theorem BarObj.step_of_due : o.step da db =
    if (o.taken da db).apend = 0 ∧ (o.taken da db).bpend ≤ 0 then ((o.taken da db).advance, .completed)
    else (o.taken da db, .none) := by
  have hdue : ¬ (da && o.apend == 0) = true := by simpa using harr
  rw [BarObj.step, if_neg hset, if_neg hdue]
  rfl

theorem BarObj.step_of_pending {p : BarObj} (hp : o.taken da db = p) (h : ¬ (p.apend = 0 ∧ p.bpend ≤ 0)) :
    o.step da db = (p, .none) := by
  rw [BarObj.step_of_due hset harr, hp, if_neg h]

theorem BarObj.step_of_drained {p : BarObj} (hp : o.taken da db = p) (ha : p.apend = 0) (hb : p.bpend = 0) :
    o.step da db = ({ p with bpend := 0, phase := (p.phase + 1) % 2 ^ 32, apend := p.aper }, .completed) := by
  rw [BarObj.step_of_due hset harr, hp, if_pos ⟨ha, hb.le⟩, BarObj.advance_of_drained hb]

theorem BarObj.step_of_overrun {p : BarObj} (hp : o.taken da db = p) (ha : p.apend = 0) (hb : p.bpend < 0) :
    o.step da db =
      ({ p.err 2 with ovr := true, bpend := 0, phase := (p.phase + 1) % 2 ^ 32, apend := p.aper }, .completed) := by
  rw [BarObj.step_of_due hset harr, hp, if_pos ⟨ha, hb.le⟩, BarObj.advance_of_overrun hb]

end BarrierStep

/-- Settles O30: what the object has taken is in range, above or below it, and then the phase stays, ends or is overrun. -/
theorem barrierStepRule : Obligations.BarrierStepRule := by
  unfold Obligations.BarrierStepRule
  intro o da db _ _
  refine ⟨BarObj.step_of_unset da db, BarObj.step_of_late db, ?inRange, ?above, ?below, ?drained, ?overrun, ?overrunBelow⟩
  case inRange =>
    intro hset harr hlo hhi hopen
    exact BarObj.step_of_pending hset harr (BarObj.taken_of_inRange hlo hhi) hopen
  case above =>
    intro hset harr hhi
    have hpos : ¬ (2 ^ 31 - 1 : Int) ≤ 0 := by decide
    exact BarObj.step_of_pending hset harr (BarObj.taken_of_above hhi) (fun h => hpos h.2)
  case below =>
    intro hset harr hlo hleft
    exact BarObj.step_of_pending hset harr (BarObj.taken_of_below hlo) (fun h => hleft h.1)
  case drained =>
    intro hset harr hzero hlast
    have htaken := BarObj.taken_of_inRange (da := da) (by omega) (by omega : o.bpend + db < 2 ^ 31)
    exact (BarObj.step_of_drained hset harr htaken hlast hzero :)
  case overrun =>
    intro hset harr hneg hlo hlast
    have htaken := BarObj.taken_of_inRange (da := da) hlo (by omega)
    exact (BarObj.step_of_overrun hset harr htaken hlast hneg :)
  case overrunBelow =>
    intro hset harr hlo hlast
    have hneg : -(2 ^ 31 : Int) < 0 := by decide
    exact BarObj.step_of_overrun hset harr (BarObj.taken_of_below hlo) hlast hneg

end Sys2Proof.Machine

/-! ### Encodings: each word decodes to the instruction that it encodes, and to no other (spec/02 R19 to R25, R36, R37) -/

namespace Sys2Proof

/-- Every constructor has the encoding that its own lemma gives it. -/
theorem Laws.Encodes.all : ∀ i : Instr, Laws.Encodes.Statement i
  | .bra .. => bra _ | .braDiv .. => braDiv _ _ _ | .brq .. => brq _ _ _ | .brx .. => brx _ | .call .. => call _
  | .callx .. => callx _ _ | .ret .. => ret _ | .join => join | .exit => exit | .nop => nop | .sadd .. => sadd _
  | .ssub .. => ssub _ | .smulLo .. => smulLo _ | .smulHi .. => smulHi _ | .smad .. => smad _ | .smin .. => smin _
  | .smax .. => smax _ | .sabs .. => sabs _ | .sand .. => sand _ | .sor .. => sor _ | .sxor .. => sxor _
  | .sandn .. => sandn _ | .snot .. => snot _ | .sshl .. => sshl _ | .sshr .. => sshr _ | .ssar .. => ssar _
  | .srot .. => srot _ | .spopc .. => spopc _ | .sclz .. => sclz _ | .sctz .. => sctz _ | .sbrev .. => sbrev _
  | .sbfe .. => sbfe _ | .sbfi .. => sbfi _ | .scmp .. => scmp _ | .ssel .. => ssel _ | .smov .. => smov _
  | .smovw .. => smovw _ | .slea .. => slea _ | .ssext .. => ssext _ | .szext .. => szext _ | .saddImm .. => saddImm _
  | .sandImm .. => sandImm _ | .sorImm .. => sorImm _ | .sxorImm .. => sxorImm _ | .sshlImm .. => sshlImm _
  | .sshrImm .. => sshrImm _ | .ssarImm .. => ssarImm _ | .scmpImm .. => scmpImm _ | .smovImm .. => smovImm _
  | .vadd .. => vadd _ | .vsub .. => vsub _ | .vmulLo .. => vmulLo _ | .vmulHi .. => vmulHi _ | .vmad .. => vmad _
  | .vmin .. => vmin _ | .vmax .. => vmax _ | .vabs .. => vabs _ | .vand .. => vand _ | .vor .. => vor _
  | .vxor .. => vxor _ | .vandn .. => vandn _ | .vnot .. => vnot _ | .vshl .. => vshl _ | .vshr .. => vshr _
  | .vsar .. => vsar _ | .vrot .. => vrot _ | .vpopc .. => vpopc _ | .vclz .. => vclz _ | .vctz .. => vctz _
  | .vbrev .. => vbrev _ | .vbfe .. => vbfe _ | .vbfi .. => vbfi _ | .vcmp .. => vcmp _ | .vsel .. => vsel _
  | .vmov .. => vmov _ | .vmovw .. => vmovw _ | .vlea .. => vlea _ | .vsext .. => vsext _ | .vzext .. => vzext _
  | .vaddImm .. => vaddImm _ | .vandImm .. => vandImm _ | .vorImm .. => vorImm _ | .vxorImm .. => vxorImm _
  | .vshlImm .. => vshlImm _ | .vshrImm .. => vshrImm _ | .vsarImm .. => vsarImm _ | .vcmpImm .. => vcmpImm _
  | .vmovImm .. => vmovImm _ | .shflIdx .. => shflIdx _ | .shflUp .. => shflUp _ | .shflDn .. => shflDn _
  | .shflXor .. => shflXor _ | .voteAny .. => voteAny _ | .voteAll .. => voteAll _ | .voteBal .. => voteBal _
  | .redux .. => redux _ | .vtos .. => vtos _ | .stov .. => stov _ | .fadd .. => fadd _ | .fsub .. => fsub _
  | .fmul .. => fmul _ | .fma .. => fma _ | .fmin .. => fmin _ | .fmax .. => fmax _ | .fcmp .. => fcmp _
  | .frcp .. => frcp _ | .frsq .. => frsq _ | .fsqrt .. => fsqrt _ | .fex2 .. => fex2 _ | .flg2 .. => flg2 _
  | .ftanh .. => ftanh _ | .fdot4 .. => fdot4 _ | .cvt .. => cvt _ | .cvtFi .. => cvtFi _ | .cvtIf .. => cvtIf _
  | .qblkHist .. => qblkHist _ | .qblkClip .. => qblkClip _ | .qblkQ .. => qblkQ _ | .ldl .. => ldl _ | .stl .. => stl _
  | .lds .. => lds _ | .sts .. => sts _ | .ldd .. => ldd _ | .std .. => std _ | .ldk .. => ldk _ | .stk .. => stk _
  | .ldg .. => ldg _ | .stg .. => stg _ | .ldSpec .. => ldSpec _ | .chk .. => chk _ | .pf .. => pf _ _ | .cwb .. => cwb _
  | .cinv .. => cinv _ | .atomAdd .. => atomAdd _ | .atomMin .. => atomMin _ | .atomMax .. => atomMax _
  | .atomAnd .. => atomAnd _ | .atomOr .. => atomOr _ | .atomXor .. => atomXor _ | .atomSwap .. => atomSwap _
  | .atomCas .. => atomCas _ | .atomFaddF32 .. => atomFaddF32 _ | .atomFaddBf16 .. => atomFaddBf16 _
  | .redAdd .. => redAdd _ | .redMin .. => redMin _ | .redMax .. => redMax _ | .redAnd .. => redAnd _
  | .redOr .. => redOr _ | .redXor .. => redXor _ | .redFaddF32 .. => redFaddF32 _ | .redFaddBf16 .. => redFaddBf16 _
  | .lck .. => lck _ | .lckTry .. => lckTry _ | .unlk .. => unlk _ | .barInit .. => barInit _
  | .barArrive .. => barArrive _ | .barExpect .. => barExpect _ | .barWait .. => barWait _ | .barTest .. => barTest _
  | .fenceAcq .. => fenceAcq _ | .fenceRel .. => fenceRel _ | .fenceFull .. => fenceFull _ | .fenceX .. => fenceX _ _ _
  | .cpy .. => cpy _ | .cpy2d .. => cpy2d _ | .cpyWait .. => cpyWait _ _ | .tld .. => tld _ | .tst .. => tst _
  | .tzero .. => tzero _ _ | .mmac .. => mmac _ | .mmacg .. => mmacg _ | .taccLd .. => taccLd _ | .taccSt .. => taccSt _
  | .tcvt .. => tcvt _ | .tileOpExecute .. => tileOpExecute _ | .mmacgChunk .. => mmacgChunk _ | .stAck .. => stAck _
  | .fflArr .. => fflArr _ | .fflB32 .. => fflB32 _ | .fflB64 .. => fflB64 _ | .shtl .. => shtl _ | .shtlT .. => shtlT _
  | .collAg .. => collAg _ _ | .collRs .. => collRs _ _ | .collAr .. => collAr _ _ | .collBc .. => collBc _ _
  | .shg .. => shg _ | .shev .. => shev _ _ | .shq .. => shq _ _ _ | .pgq .. => pgq _ _ _ | .trap .. => trap _
  | .rfh => rfh | .mfs .. => mfs _ _ | .mts .. => mts _ _ | .launch .. => launch _ _ _ _ | .evsig .. => evsig _
  | .qpop .. => qpop _ _ _ | .qpopNb .. => qpopNb _ _ _ | .bkpt .. => bkpt _ | .trc .. => trc _ _ | .smark .. => smark _
  | .instructionFetch => instructionFetch | .resultLand .. => resultLand _ _ | .lateTrapTake => lateTrapTake
  | .read .. => read _ _ _ | .fill .. => fill _ _ | .drain .. => drain _ _ | .perform .. => perform _
  | .storeAck .. => storeAck _ _ | .atomReply .. => atomReply _ _ | .redEntryApply .. => redEntryApply _
  | .movedResend .. => movedResend _ _ | .engine .. => engine _ _ | .land .. => land _ | .barrier .. => barrier _
  | .deliver .. => deliver _ | .resolve .. => resolve _ _ | .tick => tick | .expiredCopyDrop .. => expiredCopyDrop _ _
  | .save .. => save _ | .restore .. => restore _ | .teamMakeResident .. => teamMakeResident _
  | .quantumExpiry .. => quantumExpiry _ | .remoteLoadBlock .. => remoteLoadBlock _ _ | .faultReplay .. => faultReplay _
  | .carveChange .. => carveChange _ _ | .lockRequest .. => lockRequest _ _ | .lockGrant .. => lockGrant _
  | .lockHandoff .. => lockHandoff _ | .resUpdate .. => resUpdate _ _ _ | .lckTryTimeout .. => lckTryTimeout _ _
  | .deadlockProbe .. => deadlockProbe _ _ | .lockTimeout .. => lockTimeout _ _ | .proxyReadMiss .. => proxyReadMiss _ _
  | .invalidate .. => invalidate _ _ | .invalidateAck .. => invalidateAck _ _ | .recall .. => Laws.Encodes.recall _ _
  | .proxyEvict .. => proxyEvict _ _ | .requestResend .. => requestResend _ | .requestFail .. => requestFail _
  | .lateReply .. => lateReply _ | .ackSend .. => ackSend _ | .flagApply .. => flagApply _
  | .shuttleStep .. => shuttleStep _ | .shuttleReturn .. => shuttleReturn _ _
  | .collStreamReceive .. => collStreamReceive _ | .collFail .. => collFail _ _ | .gtimerMatch .. => gtimerMatch _
  | .deadline .. => deadline _ | .hostTailWrite .. => hostTailWrite _ _ _ | .hostAccess .. => hostAccess _
  | .qpopWake .. => qpopWake _ _ | .launchPacket .. => launchPacket _ _ | .waitEvent .. => waitEvent _ _
  | .signalEvent .. => signalEvent _ _ | .fencePacket .. => fencePacket _ _ | .markArm .. => markArm _ _
  | .markDisarm .. => markDisarm _ _ | .markStart .. => markStart _ _ | .markFreeze .. => markFreeze _ _
  | .markEvent .. => markEvent _ _ | .gridComplete .. => gridComplete _ | .eventActivate .. => eventActivate _ _
  | .eventDeactivate .. => eventDeactivate _ _ | .partitionRecompute .. => partitionRecompute _
  | .contextCreate .. => contextCreate _ | .contextTeardown .. => contextTeardown _ | .queueCreate .. => queueCreate _
  | .jobFormation .. => jobFormation _ | .jobEnd => jobEnd | .opticalReconfigure .. => opticalReconfigure _
  | .islandSet .. => islandSet _ _ _ | .dieLost .. => dieLost _ _ | .moduleLost .. => moduleLost _
  | .powerOn .. => powerOn _ | .reset .. => reset _ | .lifecycleChange .. => lifecycleChange _ _
  | .getMeasurements .. => getMeasurements _ | .usageRecordEmit .. => usageRecordEmit _
  | .interimRecord .. => interimRecord _ | .recordAck .. => recordAck _ _ | .pageWalk .. => pageWalk _ _ _ _
  | .absentAllocate .. => absentAllocate _ _ | .gatherStart .. => gatherStart _ _ | .slReq .. => slReq _
  | .slData .. => slData _ | .slNak .. => slNak _ | .contrib .. => contrib _ | .cnAck .. => cnAck _
  | .cnFull .. => cnFull _ | .cnNak .. => cnNak _ | .roundCommit .. => roundCommit _ _ _ _
  | .drainStart .. => drainStart _ _ | .poolPressure .. => poolPressure _ | .frameReturn .. => frameReturn _ _
  | .faultFlush .. => faultFlush _ | .movedEntryExpire .. => movedEntryExpire _ _ | .breakpointHit => breakpointHit
  | .logBreakpoint => logBreakpoint | .teamStop .. => teamStop _ _ | .debugCont .. => debugCont _
  | .debugStep .. => debugStep _ | .watchHit .. => watchHit _ | .stitchRecordReturn .. => stitchRecordReturn _
  | .sequencerEvent .. => sequencerEvent _ | .seqWrite .. => seqWrite _ _ | .whrdWrite .. => whrdWrite _ _
  | .whbaseWrite .. => whbaseWrite _ _ | .capbaseWrite .. => capbaseWrite _ _ | .registerWrite .. => registerWrite _ _ _
  | .uncorrectableError .. => uncorrectableError _ | .correctedError .. => correctedError _ _
  | .writebackComplete .. => writebackComplete _ _ | .illegalInstruction => illegalInstruction
  | .lockGrantWithdrawal .. => lockGrantWithdrawal _ | .responseCacheEntryExpiry .. => responseCacheEntryExpiry _
  | .contribResend .. => contribResend _ | .hostPushedRecoveryImage .. => hostPushedRecoveryImage _ _

/-- A decoded first word, when its format is known: the fields name an instruction that is well formed and encodes to them. -/
theorem decodeWords_of_encodeRaw {i : Instr} {r : Raw} (hwf : i.wf = true) (h : encodeRaw i = some r) {next : Option Nat}
    (hnext : r.w2.isSome = true → next = r.w2) : decodeWords r.pack next = .ok i := by
  obtain ⟨hfits, hop, hwide, hread⟩ := Laws.Encodes.all i r h
  have hsame : ∀ o, o = r.w2 → { r with w2 := o } = r := by rintro _ rfl; rfl
  have hr : { r with w2 := if r.w2.isSome then next else none } = r := hsame _ (by
    split
    · exact hnext ‹_›
    · exact (Option.not_isSome_iff_eq_none.1 ‹_›).symm)
  have hlong : (r.w2.isSome && next.isNone) = false := by
    cases hw : r.w2 with
    | none => rfl
    | some v => simp [hnext (by rw [hw]; rfl), hw]
  simp only [decodeWords, Raw.unpack_pack r hfits, hop, hwide, hlong, hr, hread, hwf, h]
  simp

theorem leBytes_length (n v : Nat) : (leBytes n v).length = n := by
  induction n generalizing v with
  | zero => rfl
  | succ n ih => simp [leBytes, ih]

/-- The n low bytes of a number, read back (spec/00 R1). -/
theorem leNat_leBytes (n v : Nat) : leNat (leBytes n v) = v % 256 ^ n := by
  induction n generalizing v with
  | zero => simp [leBytes, leNat, Nat.mod_one]
  | succ n ih =>
    rw [leBytes, leNat, ih, BitVec.toNat_ofNat, show (256 : Nat) ^ (n + 1) = 256 * 256 ^ n from Nat.pow_succ']
    exact (Nat.mod_mul (a := 256) (b := 256 ^ n) (x := v)).symm

/-- The eight bytes of a word in front of others are that word. -/
theorem leNat_take_leBytes {w : Nat} (hw : w < 2 ^ 64) (bs : List Byte) : leNat ((leBytes 8 w ++ bs).take 8) = w := by
  rw [List.take_left' (leBytes_length 8 w), leNat_leBytes]
  exact Nat.mod_eq_of_lt hw

/-- Bytes that begin with a word decode as that word does, with what follows as its second word. -/
theorem decode_leBytes_append {w : Nat} (hw : w < 2 ^ 64) (bs : List Byte) :
    decode (leBytes 8 w ++ bs) = decodeWords w (if bs.length < 8 then none else some (leNat (bs.take 8))) := by
  have hlen : (leBytes 8 w ++ bs).length = 8 + bs.length := by rw [List.length_append, leBytes_length]
  have hshort : ¬ (leBytes 8 w ++ bs).length < 8 := by omega
  have hlong : (leBytes 8 w ++ bs).length < 16 ↔ bs.length < 8 := by omega
  rw [decode, if_neg hshort, leNat_take_leBytes hw, List.drop_left' (leBytes_length 8 w)]
  simp only [hlong]

/-- Settles O2: the fields of every constructor are read back from its words, so the words decode to it. -/
theorem encodeThenDecode : Obligations.EncodeThenDecode := by
  unfold Obligations.EncodeThenDecode
  intro i ws hwf henc
  obtain ⟨r, hr, rfl⟩ := Option.map_eq_some_iff.1 henc
  obtain ⟨hfits, -, -, -⟩ := Laws.Encodes.all i r hr
  have hw := Raw.pack_lt r hfits
  cases hw2 : r.w2 with
  | none =>
    have hone : ∀ next, decodeWords r.pack next = .ok i := fun next => decodeWords_of_encodeRaw hwf hr (by simp [hw2])
    refine ⟨.inl ⟨r.pack, rfl, hw, hone⟩, fun bs => ?_⟩
    simp only [List.flatMap_cons, List.flatMap_nil, List.append_nil]
    rw [decode_leBytes_append hw, hone]
  | some v =>
    have hv := hfits.w2 v hw2
    have htwo : decodeWords r.pack (some v) = .ok i := decodeWords_of_encodeRaw hwf hr (fun _ => hw2.symm)
    refine ⟨.inr ⟨r.pack, v, rfl, hw, hv, htwo⟩, fun bs => ?_⟩
    have hlen : ¬ (leBytes 8 v ++ bs).length < 8 := by rw [List.length_append, leBytes_length]; omega
    simp only [List.flatMap_cons, List.flatMap_nil, List.append_nil, List.append_assoc]
    rw [decode_leBytes_append hw, if_neg hlen, leNat_take_leBytes hv, htwo]

/-- What the decoder has checked of a word that it accepts. -/
theorem decodeWords_eq_ok {w : Nat} {next : Option Nat} {i : Instr} (h : decodeWords w next = .ok i) :
    ∃ wide, opAssigned (w / 2 ^ 58 % 64) (w / 2 ^ 52 % 64) = true ∧ (wide = true → next.isSome = true) ∧ i.wf = true ∧
      encodeRaw i = some { Raw.unpack w none with w2 := if wide then next else none } := by
  unfold decodeWords at h
  simp only at h
  generalize isWide (Raw.unpack w none).cls (Raw.unpack w none).op = wide at h
  generalize hr : ({ Raw.unpack w none with w2 := if wide then next else none } : Raw) = r at h
  refine ⟨wide, ?_⟩
  rw [hr]
  split at h
  · cases h
  · rename_i hop
    split at h
    · cases h
    · rename_i hlong
      split at h
      · cases h
      · split at h
        · rename_i hok
          cases h
          obtain ⟨hwf, henc⟩ := Bool.and_eq_true_iff.1 hok
          exact ⟨by simpa [Raw.unpack] using hop, fun hwide => by simpa [hwide, ← Option.ne_none_iff_isSome] using hlong, hwf, beq_iff_eq.1 henc⟩
        · cases h

/-- Settles O3: the decoder encodes what it has read and accepts it only when the words agree. -/
theorem decodedIsEncoded : Obligations.DecodedIsEncoded := by
  unfold Obligations.DecodedIsEncoded
  intro w next i hw h
  obtain ⟨wide, hop, hnext, hwf, hraw⟩ := decodeWords_eq_ok h
  have hpack : ∀ o, Raw.pack { Raw.unpack w none with w2 := o } = w := fun o => Raw.pack_unpack w o hw
  refine ⟨hwf, hop, ?_⟩
  cases wide with
  | false => exact .inl (by simp [encode, hraw, hpack])
  | true =>
    obtain ⟨v, rfl⟩ := Option.isSome_iff_exists.1 (hnext rfl)
    exact .inr ⟨v, rfl, by simp [encode, hraw, hpack]⟩

end Sys2Proof

/-! ### Issue: when a word issues, what traps it first, and what its issue notes (spec/02 R29 to R38; spec/03 R61, R62) -/

namespace Sys2Proof.Machine

theorem Group.lateOpen_eq_false {g : Group} (h : g.late = [] ∨ g.handler.isSome = true) : g.lateOpen = false := by
  unfold Group.lateOpen
  rcases h with h | h
  · simp [h]
  · simp [Option.isNone_eq_false_iff.2 h]

theorem State.takesLate_of_not_open {s : State} {k : GKey} {sl : Slot} {g : Group} {f : Frag} {rs : Option (List Reg)}
    (h : g.lateOpen = false) : s.takesLate k sl g f rs = false := by simp [State.takesLate, h]

theorem Group.lateFirst_of_not_open {g : Group} (h : g.lateOpen = false) : g.lateFirst = false := by
  simp [Group.lateFirst, h]

theorem State.early_eq_false {s : State} {k : GKey} {f : Frag} (hent : f.entering = [])
    (hat : f.issueAt ≤ (s.core k.core).cycle)
    (hslot : nget 0 (s.core k.core).lastIssue (k.g % 4) ≤ (s.core k.core).cycle) : s.early k f = false := by
  simp [State.early, hent, Nat.not_lt.2 hat, Nat.not_lt.2 hslot]

theorem Group.windowStall_eq_false {g : Group} {f : Frag}
    (h : ∀ w ∈ f.windows, 0 < w.left ∨ ∀ fl ∈ g.flights, fl.id ≠ w.flight) : g.windowStall f = false := by
  simp only [Group.windowStall, List.any_eq_false, Bool.and_eq_true, beq_iff_eq, List.any_eq_true, not_and, not_exists]
  intro w hw h0 fl hfl
  rcases h w hw with h' | h'
  · omega
  · exact h' fl hfl

theorem Group.interlocked_eq_false {g : Group} {rs : List Reg} {cycle : Nat} (hready : ∀ e ∈ g.regReady, e.1 ∈ rs → e.2 ≤ cycle)
    (hflight : ∀ fl ∈ g.flights, ∀ d ∈ fl.dests, d ∉ rs) : g.interlocked rs cycle = false := by
  simp only [Group.interlocked, Bool.or_eq_false_iff, List.any_eq_false, Bool.and_eq_true, List.contains_iff_mem, not_and,
    decide_eq_true_eq, Nat.not_lt, List.any_eq_true, not_exists]
  exact ⟨hready, fun fl hfl d hd => hflight fl hfl d hd⟩

/-- Without damaged registers a word leaves its group as it was and acts on the lanes under its guard. -/
theorem Group.met_of_sound {g : Group} (h : g.badRegs = []) (i : Instr) (f : Frag) : g.met i f = g := by simp [Group.met, h]

theorem Instr.active_of_sound {g : Group} (h : g.badRegs = []) (i : Instr) (f : Frag) :
    Instr.active i g f = f.mask &&& g.regs.guard (Instr.guardOf i) &&& f.only.getD allLanes := by
  have hbad : g.badLanes i f.mask = 0#32 := by simp [Group.badLanes, h, maskOf]
  have hall : ~~~(0#32) = BitVec.allOnes 32 := by decide
  rw [Instr.active, hbad, hall, BitVec.and_allOnes]

/-- Settles O4: every condition that holds an issue back is excluded by one hypothesis. -/
theorem wordIssuesWhenFree : Obligations.WordIssuesWhenFree := by
  unfold Obligations.WordIssuesWhenFree
  intro i s g f hg hf hlate hhalt hend hrep hwait hent hhand hat hslot hwin htrap hready hflight hfloat hrepl hwatch hbad
  have hopen := Group.lateOpen_eq_false hlate
  have hmine : (g.handler.any fun h => f.mask &&& h.mask == 0#32) = false := by
    cases hh : g.handler with
    | none => rfl
    | some h => simpa using hhand h hh
  have hheld : s.heldFrag s.cur.k s.cur.slot g f = false := by
    simp [State.heldFrag, hhalt, hend, hrep, hwait, State.early_eq_false hent hat hslot, hmine,
      Group.windowStall_eq_false hwin, hrepl, hwatch]
  have hlock := Group.interlocked_eq_false hready hflight
  refine ⟨_, prelude_go_of hg hf (State.takesLate_of_not_open hopen) hheld htrap (by rw [hlock, hfloat]; rfl)
    (Group.lateFirst_of_not_open hopen) hbad, rfl, rfl, rfl, rfl, fun hsound => ⟨?_, ?_⟩, rfl, rfl, rfl⟩
  · simp only [Group.met_of_sound hsound]
  · exact Instr.active_of_sound hsound i f

/-! The decode traps, first to last (spec/02 R38) -/

section DecodeTrap
variable {i : Instr} {s : State} {g : Group} {f : Frag}

theorem Instr.decodeTrap_of_misaligned {t : DWord} (h : Instr.regTarget i g.regs f = some t) (hbad : t &&& 63#64 ≠ 0#64) :
    Instr.decodeTrap i s g f = some { code := 0x01, addr := t } := by
  simp [Instr.decodeTrap, h, hbad]

variable (htgt : ∀ t, Instr.regTarget i g.regs f = some t → t &&& 63#64 = 0#64)
include htgt

theorem Instr.decodeTrap_of_aligned : Instr.decodeTrap i s g f =
    if !i.wf || Instr.illegalHere i s g f then some { code := 0x02 }
    else if (Instr.named i).any (fun r => match r with | .v n => g.nregs ≤ n | _ => false) then some { code := 0x03 }
    else if f.windows.any (fun w => 0 < w.left && w.dests.any (fun d => (Instr.live i).contains d)) then some { code := 0x04 }
    else none := by
  have hany : ((Instr.regTarget i g.regs f).any fun t => decide (t &&& 63#64 ≠ 0#64)) = false := by
    cases h : Instr.regTarget i g.regs f with
    | none => rfl
    | some t => simp [htgt t h]
  simp only [Instr.decodeTrap, hany]
  rfl

theorem Instr.decodeTrap_of_illegal (h : i.wf = false ∨ Instr.illegalHere i s g f = true) :
    Instr.decodeTrap i s g f = some { code := 0x02 } := by
  rw [Instr.decodeTrap_of_aligned htgt, if_pos (by simpa using h)]

variable (hwf : i.wf = true) (hlegal : Instr.illegalHere i s g f = false)
include hwf hlegal

theorem Instr.decodeTrap_of_outside {n : Nat} (hn : Reg.v n ∈ Instr.named i) (h : g.nregs ≤ n) :
    Instr.decodeTrap i s g f = some { code := 0x03 } := by
  rw [Instr.decodeTrap_of_aligned htgt, if_neg (by simp [hwf, hlegal]), if_pos (List.any_eq_true.2 ⟨_, hn, by simpa using h⟩)]

theorem Instr.decodeTrap_of_inside (hin : ∀ n, Reg.v n ∈ Instr.named i → n < g.nregs) : Instr.decodeTrap i s g f =
    if f.windows.any (fun w => 0 < w.left && w.dests.any (fun d => (Instr.live i).contains d)) then some { code := 0x04 }
    else none := by
  have hnone : ((Instr.named i).any fun r => match r with | .v n => decide (g.nregs ≤ n) | _ => false) = false := by
    rw [List.any_eq_false]
    intro r hr
    cases r with
    | v n => simpa using hin n hr
    | _ => simp
  rw [Instr.decodeTrap_of_aligned htgt, if_neg (by simp [hwf, hlegal]), if_neg (by simpa using hnone)]

end DecodeTrap

theorem decodeTrapOrder : Claims.DecodeTrapOrder := by
  unfold Claims.DecodeTrapOrder
  intro i s g f
  refine ⟨fun t => Instr.decodeTrap_of_misaligned, fun htgt => ⟨Instr.decodeTrap_of_illegal htgt, fun hwf hlegal =>
    ⟨fun ⟨n, hn, h⟩ => Instr.decodeTrap_of_outside htgt hwf hlegal hn h, fun hin => ?_⟩⟩⟩
  rw [Instr.decodeTrap_of_inside htgt hwf hlegal hin]
  constructor
  · rintro ⟨w, hw, hleft, d, hd, hlive⟩
    exact if_pos (List.any_eq_true.2 ⟨w, hw, by simpa [hleft] using ⟨d, hd, hlive⟩⟩)
  · intro hfree
    refine if_neg (fun h => ?_)
    obtain ⟨w, hw, h⟩ := List.any_eq_true.1 h
    obtain ⟨hleft, h⟩ := Bool.and_eq_true_iff.1 h
    obtain ⟨d, hd, hlive⟩ := List.any_eq_true.1 h
    exact hfree w hw (by simpa using hleft) d hd (by simpa using hlive)

/-- Every instruction that has an encoding acts through the issue of a word. -/
theorem exec_eq_issue {i : Instr} (h : (encodeRaw i).isSome = true) (s : State) : ∃ body, exec i s = issue i s body := by
  cases i <;> unfold exec <;> first | exact ⟨_, rfl⟩ | exact Bool.noConfusion (show false = true from h)

theorem trapsComeBeforeTheWord : Claims.TrapsComeBeforeTheWord := by
  unfold Claims.TrapsComeBeforeTheWord
  intro i s h
  obtain ⟨body, hexec⟩ := exec_eq_issue h s
  rw [hexec]
  refine ⟨fun k sl g f hp => ?_, issue_hold body, fun k sl g f t => issue_decode_trap body, fun x hp => ?_, fun hp => ?_⟩
  all_goals rw [issue, hp]

/-- Settles O5: the traps are tried in the order of the spec, and every word asks for them before its own effect. -/
theorem decodeTraps : Obligations.DecodeTraps := ⟨decodeTrapOrder, trapsComeBeforeTheWord⟩

end Sys2Proof.Machine

/-! ### What the issue of a word notes (spec/03 R62; spec/18 R329, R331) -/

namespace Sys2Proof.Machine

/-- A core but for what its issue slots note. -/
def Core.dropIssue (c : Core) : Core := { c with lastIssue := [], lastPos := [] }

/-- A team but for what a stop writes. -/
def Team.dropStop (t : Team) : Team := { t with stop := none, also := [], stopAt := none, stepping := false }

/-- The issue of a word changes its own core's issue slots only. -/
theorem State.noteIssue_cores (s : State) (k : GKey) (sl : Slot) (j : CoreKey) :
    (tget (s.noteIssue k sl).cores j).map Core.dropIssue = (tget s.cores j).map Core.dropIssue ∨
      (tget s.cores j = none ∧ ∃ c, tget (s.noteIssue k sl).cores j = some c ∧ c.dropIssue = Core.fresh) := by
  by_cases hj : j = k.core
  · subst hj
    unfold State.noteIssue State.modCore State.setCore State.core
    cases h : tget s.cores k.core with
    | none => exact .inr ⟨rfl, _, tget_tset_self .., rfl⟩
    | some c => exact .inl (by simp only [tget_tset_self, Option.map_some]; rfl)
  · exact .inl (congrArg _ (tget_tset_of_ne _ _ hj))

/-- A context but for its offered events is as it was after an offer. -/
theorem State.offer_ctx_trig (s : State) (k j : CtxKey) (e : TrigEv) :
    ((s.offer k e).ctx? j).map (fun c => { c with trig := [] }) = (s.ctx? j).map (fun c => { c with trig := [] }) := by
  obtain ⟨f, hf, h⟩ := s.offer_ctx k j e
  rw [h, Option.map_map]
  refine congrArg (fun f => Option.map f (s.ctx? j)) (funext fun c => ?_)
  obtain ⟨t, ht⟩ := hf c
  simp [ht]

theorem State.noteDebug_ctx_trig (s : State) (k : GKey) (sl : Slot) (g : Group) (pc : DWord) (j : CtxKey) :
    ((s.noteDebug k sl g pc).ctx? j).map (fun c => { c with trig := [] }) =
      (s.ctx? j).map (fun c => { c with trig := [] }) := State.offer_ctx_trig ..

/-- A stop of a team leaves every team as it was but for what a stop writes. -/
theorem State.teamStop_teams (s : State) (team : Nat) (c : StopCause) (pc : DWord) (a : Option (Nat × Slot)) (j : Nat) :
    (tget (s.teamStop team c pc a).teams j).map Team.dropStop = (s.team? j).map Team.dropStop := by
  have write (t t' : Team) (ht : s.team? team = some t) (h : t'.dropStop = t.dropStop) :
      (tget (tset s.teams team t') j).map Team.dropStop = (s.team? j).map Team.dropStop := by
    by_cases hj : j = team
    · subst hj; simp [ht, h]
    · rw [tget_tset_of_ne _ _ hj]; rfl
  unfold State.teamStop
  cases ht : s.team? team with
  | none => rfl
  | some t =>
    dsimp only
    split
    · rfl
    · split
      · exact write t _ ht rfl
      · exact write t _ ht rfl

theorem State.noteStep_teams (s : State) (k : GKey) (sl : Slot) (g : Group) (j : Nat) :
    (tget (s.noteStep k sl g).teams j).map Team.dropStop = (s.team? j).map Team.dropStop := by
  unfold State.noteStep
  split
  · rfl
  · split
    · exact State.teamStop_teams ..
    · rfl

/-- Settles O6: the slots of the core, the offered event and a stop of the stepped fragment's team are all that a word adds. -/
theorem issueNotesNothingElse : Obligations.IssueNotesNothingElse := by
  intro x s
  obtain ⟨cs, hissue⟩ := State.noteIssue_frame s x.k x.sl
  obtain ⟨xs, hdebug⟩ := State.noteDebug_frame (s.noteIssue x.k x.sl) x.k x.sl x.g x.f.pc
  obtain ⟨ts, gs, hstep, hgroups⟩ :=
    State.noteStep_frame ((s.noteIssue x.k x.sl).noteDebug x.k x.sl x.g x.f.pc) x.k x.sl x.g
  have hcores := s.noteIssue_cores x.k x.sl
  have hctxs := (s.noteIssue x.k x.sl).noteDebug_ctx_trig x.k x.sl x.g x.f.pc
  have hteams := ((s.noteIssue x.k x.sl).noteDebug x.k x.sl x.g x.f.pc).noteStep_teams x.k x.sl x.g
  refine ⟨cs, xs, ts, gs, by unfold Iss.done; rw [hstep, hdebug, hissue], ?_, ?_, ?_, ?_⟩
  · rw [hissue] at hcores; exact hcores
  · intro j
    have := hctxs j
    rw [hdebug, hissue] at this
    exact this
  · intro j
    have := hteams j
    rw [hstep, hdebug, hissue] at this
    exact this
  · intro j
    have := hgroups j
    rw [hdebug, hissue] at this
    exact this

end Sys2Proof.Machine

/-! ### The scan of an issue slot (spec/03 R60 to R62) -/

namespace Sys2Proof.Machine

/-- A position of a slot is one of its core whose group the slot serves. -/
theorem State.mem_positions {s : State} {k : CoreKey} {n : Nat} {q : FragRef} (h : q ∈ s.positions k n) :
    q.k.core = k ∧ q.k.g % 4 = n % 4 := by
  have mem_all {q : FragRef} (h : q ∈ (List.range 8).flatMap (fun j =>
      [(⟨⟨k.m, k.c, 4 * j + n⟩, .f0⟩ : FragRef), ⟨⟨k.m, k.c, 4 * j + n⟩, .f1⟩])) :
      q.k.core = k ∧ q.k.g % 4 = n % 4 := by
    obtain ⟨j, -, hq⟩ := List.mem_flatMap.mp h
    simp only [List.mem_cons, List.not_mem_nil, or_false] at hq
    obtain rfl | rfl := hq <;> exact ⟨rfl, Nat.mul_add_mod ..⟩
  rcases List.mem_append.mp h with h | h <;> exact mem_all (List.mem_filter.mp h).1

/-- The scan passes over fragments that do nothing. -/
theorem State.scan_append {ex : Exec} {s : State} {before : List FragRef} (rest : List FragRef)
    (hnone : ∀ q ∈ before, s.tryIssue ex q = .next s) (hact : ∀ q ∈ before, s.acted s q = false) :
    s.scan ex (before ++ rest) = s.scan ex rest := by
  induction before with
  | nil => rfl
  | cons q qs ih =>
    rw [List.cons_append, State.scan, hnone q List.mem_cons_self]
    simp only [hact q List.mem_cons_self, Bool.false_eq_true, if_false]
    exact ih (fun q h => hnone q (.tail _ h)) (fun q h => hact q (.tail _ h))

/-- The scan ends at a fragment that does something. -/
theorem State.scan_cons {ex : Exec} {s t : State} {r : FragRef} (rest : List FragRef)
    (h : s.tryIssue ex r = .next t) (hact : s.acted t r = true) : s.scan ex (r :: rest) = .next t := by
  rw [State.scan, h]
  simp only [hact, if_true]

/-- A slot whose turn it is ends as its scan does, and counts as scanned. -/
theorem State.slotTurn_of_scan {ex : Exec} {s t : State} {k : CoreKey} {n : Nat} (hn : (s.core k).scanned = n)
    (h : s.scan ex (s.positions k n) = .next t) :
    s.slotTurn ex k n = .next (t.modCore k (fun c => { c with scanned := n + 1 })) := by
  unfold State.slotTurn
  rw [if_neg (not_not_intro hn), h]

/-- A word under no breakpoint is executed. -/
theorem State.issueWord_some {ex : Exec} {s : State} {i : Instr} {g : Group} {f : Frag} (hg : s.group? s.cur.k = some g)
    (hf : g.frag s.cur.slot = some f) (hstop : s.bpMatch g.key f.pc false = false)
    (hlog : s.bpMatch g.key f.pc true = false) : s.issueWord ex (some i) = ex i s := by
  have hbreaks : s.breaks s.cur = false := by simp [State.breaks, hg, hf, hstop]
  have hlogged : s.logged ex g f.pc (ex i) = ex i s := by simp [State.logged, hlog]
  unfold State.issueWord
  simp only [hg, hf, hbreaks, Option.getD_some, hlogged, Bool.and_false, Bool.false_and, Bool.false_eq_true, if_false,
    ite_self]

/-- A fragment whose word is decoded, that no late cause takes and that may issue, is to execute its word. -/
theorem State.todo_word {s : State} {r : FragRef} {g : Group} {f : Frag} {ws : List DWord} {i : Instr}
    (hg : s.group? r.k = some g) (hf : g.frag r.slot = some f) (hblock : s.block? r.k.core g.key.ctx f.pc = some ws)
    (hdec : decodeAt ws f.pc = .ok i) (hlate : s.takesLate r.k r.slot g f (some (Instr.waitRegs i)) = false)
    (hheld : s.heldFrag r.k r.slot g f = false) : s.todo r = .word i := by
  simp [State.todo, hg, hf, hblock, hdec, hlate, hheld]

theorem State.early_of_heldFrag {s : State} {k : GKey} {sl : Slot} {g : Group} {f : Frag}
    (h : s.heldFrag k sl g f = false) : s.early k f = false := by
  simp only [State.heldFrag, Bool.or_eq_false_iff] at h
  tauto

/-- Settles O7: the fragments before it are passed over, and none of them shares an issue of this cycle with a slot that may
still issue. -/
theorem stepRunsDecodedInstruction : Obligations.StepRunsDecodedInstruction := by
  intro s t k n ts before after r g f ws i hag hscan hpos hbefore hg hf hlate hheld hblock hdec hstop hlog hexec hacted
  have hslot : ∀ q ∈ before ++ r :: after, q.k.core = k ∧ q.k.g % 4 = n % 4 := fun q hq =>
    State.mem_positions (hpos ▸ hq)
  obtain ⟨hrcore, hrslot⟩ := hslot r (by simp)
  have hunused : nget 0 (s.core k).lastIssue (n % 4) ≤ (s.core k).cycle := by
    have := State.early_of_heldFrag hheld
    simp only [State.early, Bool.or_eq_false_iff, decide_eq_false_iff_not, hrcore, hrslot] at this
    omega
  have hpass : ∀ q ∈ before, State.acted { s with agenda := ts } { s with agenda := ts } q = false := by
    intro q hq
    obtain ⟨hcore, hg4⟩ := hslot q (by simp [hq])
    have : nget 0 (s.core k).lastIssue (n % 4) ≠ (s.core k).cycle + 1 := by omega
    simp only [State.acted, hcore, hg4, bne_self_eq_false, Bool.or_false, beq_eq_false_iff_ne]
    exact this
  have htry : State.tryIssue exec { s with agenda := ts } r = .next t := by
    have htodo : State.todo { s with agenda := ts } r = .word i :=
      State.todo_word (s := { s with agenda := ts }) hg hf hblock hdec hlate hheld
    simp only [State.tryIssue, htodo]
    rw [← hexec]
    exact State.issueWord_some (s := { s with agenda := ts, cur := r }) hg hf hstop hlog
  have hresult : State.scan exec { s with agenda := ts } (before ++ r :: after) = .next t := by
    rw [State.scan_append _ hbefore hpass]
    exact State.scan_cons _ htry hacted
  have hturn : step s = State.slotTurn exec { s with agenda := ts } k n := by
    unfold step State.oneStep
    rw [hag]; rfl
  rw [hturn]
  exact State.slotTurn_of_scan (s := { s with agenda := ts }) hscan (hpos ▸ hresult)

end Sys2Proof.Machine

/-! ### Taking a trap and a late cause (spec/14 R263 to R269) -/

namespace Sys2Proof.Machine

/-! #### What a walk leaves -/

/-- The entries of a walk change the translation caches of a core and of a die, no other table. -/
theorem State.noteWalk_frame (s : State) (k : CoreKey) (es : List TEnt) :
    ∃ cs ds, s.noteWalk k es = { s with cores := cs, dies := ds } := by
  have die (s : State) (d : DieKey) : ∃ ds, s.noteDieWalk d es = { s with dies := ds } := by
    unfold State.noteDieWalk
    split
    · exact ⟨s.dies, rfl⟩
    · exact ⟨_, rfl⟩
  unfold State.noteWalk
  dsimp only
  split
  · obtain ⟨ds, h⟩ := die s k.die
    exact ⟨s.cores, ds, h⟩
  · obtain ⟨ds, h⟩ := die _ _
    exact ⟨_, ds, h⟩

theorem State.noteDieWalk_core (s : State) (d : DieKey) (es : List TEnt) (j : CoreKey) :
    (s.noteDieWalk d es).core j = s.core j := by
  unfold State.noteDieWalk
  split <;> rfl

/-- Of a core a walk changes the translation cache only. -/
theorem State.noteWalk_core (s : State) (k : CoreKey) (es : List TEnt) (j : CoreKey) :
    ∃ l, (s.noteWalk k es).core j = { s.core j with tlb := l } := by
  unfold State.noteWalk
  dsimp only
  split
  · exact ⟨(s.core j).tlb, State.noteDieWalk_core ..⟩
  · rw [State.noteDieWalk_core]
    by_cases hj : j = k
    · subst hj; exact ⟨_, State.setCore_core_self ..⟩
    · exact ⟨(s.core j).tlb, State.setCore_core_of_ne _ _ _ _ hj⟩

@[simp] theorem State.noteWalk_cycle (s : State) (k : CoreKey) (es : List TEnt) (j : CoreKey) :
    ((s.noteWalk k es).core j).cycle = (s.core j).cycle := by
  obtain ⟨l, h⟩ := s.noteWalk_core k es j
  rw [h]

@[simp] theorem State.noteWalk_ctx (s : State) (k : CoreKey) (es : List TEnt) (j : CtxKey) :
    (s.noteWalk k es).ctx? j = s.ctx? j := by
  obtain ⟨cs, ds, h⟩ := s.noteWalk_frame k es
  rw [h]; rfl

@[simp] theorem State.noteWalk_group (s : State) (k : CoreKey) (es : List TEnt) (j : GKey) :
    (s.noteWalk k es).group? j = s.group? j := by
  obtain ⟨cs, ds, h⟩ := s.noteWalk_frame k es
  rw [h]; rfl

@[simp] theorem State.noteWalk_handlerEntry (s : State) (k : CoreKey) (es : List TEnt) (j : CtxKey) :
    (s.noteWalk k es).handlerEntry j = s.handlerEntry j := by
  unfold State.handlerEntry
  rw [State.noteWalk_ctx]

theorem State.handlerEntry_of_ctx {s : State} {k : CtxKey} {c : Context} (h : s.ctx? k = some c) :
    s.handlerEntry k = c.p.handler := by
  unfold State.handlerEntry
  rw [h]; rfl

/-! #### Handler entry of a group -/

/-- Pending a cause changes what is pending only: it adds at most that cause. -/
theorem Group.pend_frame (g : Group) (l : Late) :
    ∃ late, g.pend l = { g with late := late } ∧ (∀ m ∈ g.late, m ∈ late) ∧ ∀ m ∈ late, m ∈ g.late ∨ m = l := by
  unfold Group.pend
  split
  · exact ⟨g.late, rfl, fun _ h => h, fun _ h => .inl h⟩
  · exact ⟨g.late ++ [l], rfl, fun _ h => List.mem_append_left _ h, fun m h => by simpa using h⟩

/-- The cause of a vanished object has code 7. -/
theorem Frag.goneLate_code {f : Frag} {l : Late} (h : f.goneLate = some l) : l.code = 0x07 := by
  unfold Frag.goneLate at h
  obtain ⟨w, -, hw⟩ := Option.bind_eq_some_iff.mp h
  split at hw
  · cases hw; rfl
  · cases hw

/-- A fragment at the handler entry. -/
def Frag.atHandler (f : Frag) (entry : DWord) (cycle : Nat) : Frag :=
  { f with pc := entry, tok := 0, rj := 0, depth := 0, windows := [], only := none, wait := none,
           bpSkip := false, fence := none, hits := [], issueAt := cycle + 4 }

/-- A group in handler mode: its trap registers and the entry state; what is then pending, and who is to take it. -/
def Group.inHandler (g : Group) (sl : Slot) (f : Frag) (hstat hpc haddr hapc : DWord) (late : List Late)
    (taker : Option Slot) : Group :=
  { g with
    sr := { g.sr with hstat := hstat, hpc := hpc, hmask := f.mask.setWidth 64, haddr := haddr, hapc := hapc }
    handler := some ⟨sl, f.tok, f.rj, f.depth, f.mask⟩, late := late, taker := taker }

/-- Handler entry writes the trap registers, keeps the entry state and redirects the fragment; a cause that it makes pending is that
of a vanished object for the other fragment (spec/09 R175, spec/14 R265). -/
theorem Group.enter_eq (g : Group) (sl : Slot) (f : Frag) (entry : DWord) (cycle : Nat) (hstat hpc haddr hapc : DWord) :
    ∃ late taker, g.enter sl f entry cycle hstat hpc haddr hapc =
        ((g.inHandler sl f hstat hpc haddr hapc late taker).setFrag (Slot.other sl)
          ((g.frag (Slot.other sl)).map (g.closeStays f.mask))).setFrag sl (some (f.atHandler entry cycle)) ∧
      (∀ m ∈ g.late, m ∈ late) ∧ (∀ m ∈ late, m ∈ g.late ∨ m.code = 0x07) ∧
      ((g.frag (Slot.other sl)).bind Frag.goneLate = none → late = g.late) := by
  have hgone : ((g.frag (Slot.other sl)).map (g.closeStays f.mask)).bind Frag.goneLate =
      (g.frag (Slot.other sl)).bind Frag.goneLate := by
    cases g.frag (Slot.other sl) <;> rfl
  unfold Group.enter
  dsimp only
  split
  case h_1 h =>
    exact ⟨g.late, none, by cases sl <;> rfl, fun _ h => h, fun _ h => .inl h, fun _ => rfl⟩
  case h_2 l h =>
    have hl : (g.frag (Slot.other sl)).bind Frag.goneLate = some l := by
      rw [← hgone]; cases sl <;> exact h
    obtain ⟨f', -, hf'⟩ := Option.bind_eq_some_iff.mp hl
    obtain ⟨late, hp, hkeep, hnew⟩ := Group.pend_frame _ l
    rw [hp]
    refine ⟨late, some (Slot.other sl), by cases sl <;> rfl, ?_, ?_, fun h => by rw [hl] at h; cases h⟩
    · cases sl <;> exact hkeep
    · intro m hm
      rcases hnew m hm with h | rfl
      · exact .inl (by cases sl <;> exact h)
      · exact .inr (Frag.goneLate_code hf')

/-- What handler entry leaves in the group: the trap registers, the entry state, both fragments, what is pending; no general
register, no frame, no store and no flight changes (spec/14 R265). -/
theorem Group.enter_spec (g : Group) (sl : Slot) (f : Frag) (entry : DWord) (cycle : Nat) (hstat hpc haddr hapc : DWord) :
    let g' := g.enter sl f entry cycle hstat hpc haddr hapc
    (g'.sr.hstat = hstat ∧ g'.sr.hpc = hpc ∧ g'.sr.hmask = f.mask.setWidth 64 ∧ g'.sr.haddr = haddr ∧ g'.sr.hapc = hapc) ∧
      g'.handler = some ⟨sl, f.tok, f.rj, f.depth, f.mask⟩ ∧ g'.frag sl = some (f.atHandler entry cycle) ∧
      g'.frag (Slot.other sl) = (g.frag (Slot.other sl)).map (g.closeStays f.mask) ∧
      ((∀ m ∈ g.late, m ∈ g'.late) ∧ (∀ m ∈ g'.late, m ∈ g.late ∨ m.code = 0x07) ∧
        ((g.frag (Slot.other sl)).bind Frag.goneLate = none → g'.late = g.late)) ∧
      g'.regs = g.regs ∧ g'.stack = g.stack ∧ g'.sb = g.sb ∧ g'.flights = g.flights := by
  obtain ⟨late, taker, he, hkeep, hnew, hnone⟩ := g.enter_eq sl f entry cycle hstat hpc haddr hapc
  dsimp only
  rw [he]
  refine ⟨?_, ?_, Group.frag_setFrag_self .., ?_, ?_, ?_, ?_, ?_, ?_⟩
  · simp [Group.inHandler]
  · simp [Group.inHandler]
  · rw [Group.frag_setFrag_other, Group.frag_setFrag_self]
  · simp only [Group.setFrag_late]
    exact ⟨hkeep, hnew, hnone⟩
  all_goals simp [Group.inHandler]

/-! #### The claims -/

/-- The group after a write to it, under an event that is offered. -/
theorem State.event_setGroup_self (s : State) (k : GKey) (g : Group) (c : CtxKey) (a b d e : Nat) :
    ((s.setGroup k g).event c a b d e).group? k = some g := by simp

theorem trapEntersHandler : Claims.TrapEntersHandler := by
  intro s k sl g f t c hset heye hh hlog hctx hcode
  rw [State.takeTrap_enter hset heye hh hlog, State.event_setGroup_self]
  obtain ⟨hreg, hhandler, hfrag, hother, ⟨-, -, hlate⟩, hregs, hstack, hsb, hflights⟩ := g.enter_spec sl f
    (((s.noteWalk k.core t.walks).countTrap g t.code).handlerEntry g.key)
    (((s.noteWalk k.core t.walks).countTrap g t.code).core k.core).cycle (hstatOf t.code (t.lanes.getD f.mask) false t.detail)
    (t.hpc.getD f.pc) t.addr 0
  obtain ⟨hhstat, hhpc, hhmask, hhaddr, hhapc⟩ := hreg
  obtain ⟨hlow, hbit, hlanes⟩ := hstatOf_fields t.code (t.lanes.getD f.mask) false t.detail hcode
  refine ⟨_, rfl, by rw [hhstat, hlow], by rw [hhstat, hbit], by rw [hhstat, hlanes], hhpc, hhmask, hhaddr, hhapc, hhandler,
    ⟨_, hfrag, ?_, rfl, rfl, rfl, rfl, rfl, ?_⟩, hother, hlate, hregs, hstack, hsb, hflights⟩
  · simp [Frag.atHandler, State.handlerEntry_of_ctx hctx]
  · simp [Frag.atHandler]

theorem trapWaitsForOutstanding : Claims.TrapWaitsForOutstanding := by
  intro s k sl g f t ⟨fl, hmem, hlanes, hdests, hstays⟩
  have hset : s.settled g f.mask = false := by
    simp only [State.settled, List.all_eq_false, Group.pendingOf, Group.flightsOf, List.mem_filter]
    exact ⟨fl, ⟨⟨hmem, by simpa using hlanes⟩, by simpa using hdests⟩, by simp [hstays]⟩
  exact State.takeTrap_wait (by simp [hset])

/-- The fault record of an escalation (spec/14 R268). -/
def State.escRec (s : State) (g : Group) (f : Frag) (code : Nat) : CtxFault :=
  ⟨((s.team? g.team).map (·.x)).getD 0, ((s.team? g.team).map (·.y)).getD 0, ((s.team? g.team).map (·.z)).getD 0, g.gidx,
    g.sr.hstat, g.sr.hpc, g.sr.haddr, code, f.pc⟩

/-- A context that is halted with a fault, its first one recorded. -/
def Context.faulted (r : CtxFault) (c : Context) : Context :=
  { c with halted := true, fault := c.fault.orElse (fun _ => some r) }

/-- A group of a context that is halted. -/
def Group.haltedIn (k : CtxKey) (h : Group) : Group := if h.key = k then { h with halting := true } else h

/-- Escalation halts the context, marks its groups as halting and offers the event. -/
theorem State.escalate_eq (s : State) (k : GKey) (g : Group) (f : Frag) (code : Nat) :
    s.escalate k g f code = ({ s.modCtx g.key (Context.faulted (s.escRec g f code)) with
      groups := s.groups.map (fun e => (e.1, e.2.haltedIn g.key)) } : State).event g.key k.c g.team 4 code := by
  have hmap : (fun (e : GKey × Group) => if e.2.key = g.key then (e.1, { e.2 with halting := true }) else e) =
      fun e => (e.1, e.2.haltedIn g.key) := funext fun e => by unfold Group.haltedIn; split <;> rfl
  unfold State.escalate
  dsimp only
  rw [hmap, State.modCtx_groups]
  rfl

theorem State.escalate_group (s : State) (k : GKey) (g : Group) (f : Frag) (code : Nat) (j : GKey) :
    (s.escalate k g f code).group? j = (s.group? j).map (Group.haltedIn g.key) := by
  rw [State.escalate_eq, State.event_group]
  exact tget_map s.groups (fun e => e.2.haltedIn g.key) j

theorem State.offer_ctx_some {s : State} {k : CtxKey} {e : TrigEv} {c : Context} (h : s.ctx? k = some c) :
    ∃ l, (s.offer k e).ctx? k = some { c with trig := l } := by
  obtain ⟨φ, hφ, he⟩ := State.offer_ctx s k k e
  obtain ⟨l, hl⟩ := hφ c
  exact ⟨l, by rw [he, h, Option.map_some, hl]⟩

theorem State.modCtx_ctx_some {s : State} {k : CtxKey} {F : Context → Context} {c : Context} (h : s.ctx? k = some c) :
    (s.modCtx k F).ctx? k = some (F c) := by
  rw [State.modCtx_ctx, if_pos rfl, h]; rfl

theorem State.escalate_ctx (s : State) (k : GKey) (g : Group) (f : Frag) (code : Nat) {c : Context} (h : s.ctx? g.key = some c) :
    ∃ l, (s.escalate k g f code).ctx? g.key = some { c.faulted (s.escRec g f code) with trig := l } := by
  rw [State.escalate_eq]
  exact State.offer_ctx_some (State.modCtx_ctx_some h)

theorem trapInHandlerEscalates : Claims.TrapInHandlerEscalates := by
  intro s k sl g f t c hset heye hh hlog hctx
  rw [State.takeTrap_escalate hset heye hh hlog]
  obtain ⟨l, hc'⟩ := (s.noteWalk k.core t.walks).escalate_ctx k g f t.code (by rw [State.noteWalk_ctx, hctx])
  refine ⟨_, hc', rfl, fun hnone => ⟨_, by simp only [Context.faulted, hnone]; rfl, rfl, rfl, rfl, rfl, rfl, rfl⟩,
    fun q hq => by simp only [Context.faulted, hq]; rfl, ?_⟩
  intro j h hj hkey
  rw [State.escalate_group, State.noteWalk_group, hj, Option.map_some, Group.haltedIn, if_pos hkey]

/-- Settles O8: the handler's entry writes what it saves, a pending destination keeps the trap waiting, and one in handler mode
escalates. -/
theorem trapEntry : Obligations.TrapEntry := ⟨trapEntersHandler, trapWaitsForOutstanding, trapInHandlerEscalates⟩

/-- A late cause outside handler mode, nothing outstanding: the handler is entered at the boundary (spec/14 R269). -/
theorem State.takeLate_enter {s : State} {k : GKey} {sl : Slot} {g : Group} {f : Frag} {l : Late}
    (hs : s.settled g f.mask = true) (he : (s.core k.core).eyeletIn k.g f.mask = false) (hh : g.handler = none)
    (hl : lowestLate g.late = some l) :
    s.takeLate k sl g f = ((s.countTrap g l.code).setGroup k (Group.enter
      { g with late := g.late.filter (fun x => x.code ≠ l.code) } sl f ((s.countTrap g l.code).handlerEntry g.key)
      ((s.countTrap g l.code).core k.core).cycle (hstatOf l.code (if l.lanes = 0 then f.mask else l.lanes) true l.detail)
      f.pc l.addr l.pc)).event g.key k.c g.team 4 l.code := by
  simp [State.takeLate, hs, he, hh, hl]

/-- The cause that is taken is pending. -/
theorem lowestLate_mem {ls : List Late} {l : Late} (h : lowestLate ls = some l) : l ∈ ls := by
  induction ls generalizing l with
  | nil => cases h
  | cons a ls ih =>
    rw [lowestLate] at h
    split at h
    · cases h; exact List.mem_cons_self
    · next m hm =>
      cases h
      split
      · exact List.mem_cons_of_mem _ (ih hm)
      · exact List.mem_cons_self

/-- The cause of lowest code is the one that is taken. -/
theorem lowestLate_eq {ls : List Late} {l : Late} (hl : l ∈ ls) (hlow : ∀ m ∈ ls, m ≠ l → l.code < m.code) :
    lowestLate ls = some l := by
  induction ls with
  | nil => cases hl
  | cons a ls ih =>
    by_cases hmem : l ∈ ls
    · rw [lowestLate, ih hmem fun m hm => hlow m (.tail _ hm)]
      by_cases ha : a = l
      · subst ha; simp
      · have := hlow a List.mem_cons_self ha
        simp [this]
    · obtain rfl : l = a := by simpa [hmem] using hl
      rw [lowestLate]
      cases hrest : lowestLate ls with
      | none => rfl
      | some m =>
        have hm : m ∈ ls := lowestLate_mem hrest
        have := hlow m (.tail _ hm) (fun e => hmem (e ▸ hm))
        simp; omega

theorem lateTrapTakesLowestCode : Claims.LateTrapTakesLowestCode := by
  intro s g f l c hg hf hh hhalt hrep hend hearly htaker hset heye hctx hmem hlow hcode hlanes
  have hopen : g.lateOpen = true := by
    have : g.late ≠ [] := List.ne_nil_of_mem hmem
    simp [Group.lateOpen, this, hh, hhalt, hend, hrep]
  have hmine : g.taker.all (fun t => t == s.cur.slot) = true := by
    rcases htaker with h | h <;> simp [h]
  have hexec : exec .lateTrapTake s = .next (s.takeLate s.cur.k s.cur.slot g f) := by
    show execLateTrapTake s = _
    simp [execLateTrapTake, hg, hf, hopen, hearly, hmine]
  have htake := State.takeLate_enter (s := s) (k := s.cur.k) (sl := s.cur.slot) hset heye hh (lowestLate_eq hmem hlow)
  rw [if_neg (show ¬ l.lanes = 0 from hlanes)] at htake
  obtain ⟨hreg, hhandler, hfrag, -, ⟨hkeep, hnew, hlate⟩, hregs, -, -, -⟩ := Group.enter_spec
    { g with late := g.late.filter (fun x => x.code ≠ l.code) } s.cur.slot f ((s.countTrap g l.code).handlerEntry g.key)
    ((s.countTrap g l.code).core s.cur.k.core).cycle (hstatOf l.code l.lanes true l.detail) f.pc l.addr l.pc
  obtain ⟨hhstat, hhpc, hhmask, hhaddr, hhapc⟩ := hreg
  obtain ⟨hlow, hbit, hlan⟩ := hstatOf_fields l.code l.lanes true l.detail hcode
  refine ⟨_, _, hexec, by rw [htake, State.event_setGroup_self], by rw [hhstat, hlow], by rw [hhstat, hbit],
    by rw [hhstat, hlan], hhpc, hhmask, hhaddr, hhapc, hhandler, ⟨_, hfrag, ?_, rfl, rfl⟩, ?_, ?_, hlate, hregs⟩
  · simp [Frag.atHandler, State.handlerEntry_of_ctx hctx]
  · intro m hm hne
    exact hkeep m (List.mem_filter.mpr ⟨hm, by simpa using hne⟩)
  · intro m hm heq
    rcases hnew m hm with h | h
    · exact absurd heq (by simpa using (List.mem_filter.mp h).2)
    · exact h

theorem groupTimers : Claims.GroupTimers := by
  intro s k g hg
  have hmatch : exec (.gtimerMatch k) s = execGtimerMatch k s := rfl
  have hdeadline : exec (.deadline k) s = execDeadline k s := rfl
  rw [hmatch, hdeadline]
  unfold execGtimerMatch execDeadline
  simp only [hg]
  refine ⟨fun h => if_pos h, fun h => if_neg (by simp [h]), fun h0 hp => ?_, fun h => if_neg ?_⟩
  · rw [if_pos ⟨h0, hp⟩, Group.deadline, if_pos ⟨h0, hp⟩]
  · rcases h with h | h <;> simp [h]

/-- Settles O9: the lowest pending code enters the handler, and the timers make their causes pending. -/
theorem lateTraps : Obligations.LateTraps := ⟨lateTrapTakesLowestCode, groupTimers⟩

end Sys2Proof.Machine

/-! ### Fetching, illegal words and reset (spec/02 R23 to R28, R38; spec/19 R346) -/

namespace Sys2Proof.Machine

/-- A block enters a core's instruction cache, in place of an older copy of it. -/
def State.fillBlock (s : State) (k : CoreKey) (ctx : Nat) (b : DWord) (ws : List DWord) : State :=
  s.modCore k (fun c => { c with icache := (ctx, b, ws) :: c.icache.filter (fun e => !(e.1 == ctx && e.2.1 == b)) })

/-- The block that entered is the one that the cache holds. -/
theorem State.fillBlock_block (s : State) (k : CoreKey) (ctx : Nat) (pc : DWord) (ws : List DWord) :
    (s.fillBlock k ctx (blockOf pc) ws).block? k ctx pc = some ws := by
  simp [State.block?, State.fillBlock, State.modCore]

theorem fetchFillsTheBlock : Claims.FetchFillsTheBlock := by
  intro s g f pa leaf htodo hg hf hx hsound
  have hexec : exec .instructionFetch s = .next ((s.noteWalk s.cur.k.core (s.walked g.key (blockOf f.pc))).fillBlock
      s.cur.k.core g.key.ctx (blockOf f.pc) ((List.range 8).map (fun n => BitVec.ofNat 64 (mnat s.mem (pa + 8 * n) 8)))) := by
    show execInstructionFetch s = _
    simp only [execInstructionFetch, htodo, hg, hf, hx, hsound, ne_eq, not_true_eq_false, if_false, Bool.false_eq_true]
    rfl
  obtain ⟨cs, ds, hwalk⟩ := s.noteWalk_frame s.cur.k.core (s.walked g.key (blockOf f.pc))
  exact ⟨_, hexec, State.fillBlock_block .., by rw [hwalk]; rfl, by rw [hwalk]; rfl⟩

/-- A fragment whose word is illegal has fetched a block whose word at its PC does not decode. -/
theorem State.decodeAt_of_illegal {s : State} {r : FragRef} {g : Group} {f : Frag} {ws : List DWord} (htodo : s.todo r = .illegal)
    (hg : s.group? r.k = some g) (hf : g.frag r.slot = some f) (hblock : s.block? r.k.core g.key.ctx f.pc = some ws)
    (i : Instr) : decodeAt ws f.pc ≠ .ok i := by
  intro hdec
  simp only [State.todo, hg, hf, hblock, hdec, Option.map_some] at htodo
  split at htodo
  · cases htodo
  · split at htodo <;> cases htodo

/-- What the illegal-instruction step does once the fragment's word is illegal. -/
theorem illegalInstruction_eq {s : State} {g : Group} {f : Frag} {ws : List DWord} (htodo : s.todo s.cur = .illegal)
    (hg : s.group? s.cur.k = some g) (hf : g.frag s.cur.slot = some f) (hblock : s.block? s.cur.k.core g.key.ctx f.pc = some ws)
    (hlate : g.lateFirst = false) (hfree : ∀ i t, looseInstr ws f.pc = some i → Instr.regTarget i g.regs f = some t →
      g.interlocked (Instr.live i) (s.core s.cur.k.core).cycle = false) :
    exec .illegalInstruction s = .next (s.wordTrap s.cur.k s.cur.slot g f
      (match (looseInstr ws f.pc).bind (fun i => Instr.regTarget i g.regs f) with
        | some t => if t &&& 63#64 ≠ 0#64 then { code := 0x01, addr := t } else { code := 0x02 }
        | none => { code := 0x02 })) := by
  show execIllegalInstruction s = _
  unfold execIllegalInstruction
  simp only [htodo, hg, hf, hblock, hlate, Option.bind_some, ne_eq, not_true_eq_false, if_false, Bool.false_eq_true]
  cases hi : looseInstr ws f.pc with
  | none => simp
  | some i =>
    cases ht : Instr.regTarget i g.regs f with
    | none => simp [ht]
    | some t =>
      have := Group.regHeld_of_interlocked (hfree i t hi ht) f
      simp only [Option.bind_some, ht, Option.isSome_some, Option.any_some, this, Bool.true_and, Bool.false_eq_true, if_false,
        decide_eq_true_eq, Option.getD_some]
      split <;> rfl

theorem illegalWordTraps : Claims.IllegalWordTraps := by
  intro s g f ws htodo hg hf hblock
  refine ⟨State.decodeAt_of_illegal htodo hg hf hblock, fun haligned hlate => ?_, fun i t hi ht hmis hfree hlate => ?_⟩
  · rw [illegalInstruction_eq htodo hg hf hblock hlate fun i t hi ht => (haligned i t hi ht).2]
    cases hi : looseInstr ws f.pc with
    | none => rfl
    | some i =>
      cases ht : Instr.regTarget i g.regs f with
      | none => simp [ht]
      | some t => simp [ht, (haligned i t hi ht).1]
  · rw [illegalInstruction_eq htodo hg hf hblock hlate]
    · simp [hi, ht, hmis]
    · intro j u hj hu
      rw [hi] at hj; cases hj; exact hfree

/-- Settles O10: an aligned or no register target leaves code 0x02, a misaligned one gives 0x01. -/
theorem fetchAndIllegalWords : Obligations.FetchAndIllegalWords := ⟨fetchFillsTheBlock, illegalWordTraps⟩

theorem resetModule : Claims.ResetModule := by
  refine ⟨fun a ha => ?_, ⟨Module.reset, rfl, rfl, rfl, rfl, rfl, rfl, rfl, rfl, rfl, rfl⟩, rfl, rfl, rfl, rfl, rfl,
    fun n => ⟨rfl, rfl, rfl⟩⟩
  have h2 : 0x017FFFFE0002 ≠ a := by omega
  have h3 : 0x017FFFFE0003 ≠ a := by omega
  have h4 : 0x017FFFFE0004 ≠ a := by omega
  have h5 : 0x017FFFFE0005 ≠ a := by omega
  simp only [mread, State.reset, nget, if_neg h2, if_neg h3, if_neg h4, if_neg h5]

/-- Settles O11: the state after reset, read off its definition. -/
theorem resetState : Obligations.ResetState := ⟨resetModule, show State.reset.memOk = true by decide⟩

/-- Settles O1: each word is evaluated by the decoder. -/
theorem specWordsDecode : Obligations.SpecWordsDecode := by
  unfold Obligations.SpecWordsDecode
  decide

end Sys2Proof.Machine

/-! ### Scalar and vector integer words (spec/05 R69 to R75) -/

namespace Sys2Proof.Machine

/-! #### Scalar words -/

/-- Each R71 operation on scalar registers issues with the result of its row. -/
theorem exec_scalarOp {p : IOp × (SInt → Instr)} (hp : p ∈ scalarOps) (f : SInt) (s : State) :
    exec (p.2 f) s = issue (p.2 f) s (fun x => x.sresult (p.2 f) f.d (sintValue p.1 f x.g.regs)) := by
  simp only [scalarOps, List.mem_cons, List.not_mem_nil, or_false] at hp
  rcases hp with rfl | rfl | rfl | rfl | rfl | rfl | rfl | rfl | rfl | rfl | rfl | rfl | rfl | rfl | rfl | rfl | rfl | rfl |
    rfl | rfl | rfl | rfl | rfl | rfl | rfl | rfl <;> rfl

theorem exec_scalarImmOp {p : IOp × (SImmF → Instr)} (hp : p ∈ scalarImmOps) (f : SImmF) (s : State) :
    exec (p.2 f) s = issue (p.2 f) s (fun x => x.sresult (p.2 f) f.d (simmValue p.1 f x.g.regs)) := by
  simp only [scalarImmOps, List.mem_cons, List.not_mem_nil, or_false] at hp
  rcases hp with rfl | rfl | rfl | rfl | rfl | rfl | rfl <;> rfl

theorem scalarIntegerResults : Claims.ScalarIntegerResults := by
  intro p hp f s x h
  rw [exec_scalarOp hp]
  exact issue_ok h rfl

/-- A shifted address is the sum as an integer, wrapped. -/
theorem ofNat_leaResult (ty : IntTy) (a b n : Nat) :
    BitVec.ofNat 64 (leaResult ty a b n) = BitVec.ofInt 64 (a + readAs (IntTy.w ty) ty.signed b * 2 ^ n) := by
  refine BitVec.eq_of_toNat_eq ?_
  rw [leaResult, BitVec.toNat_ofNat, BitVec.toNat_ofInt]
  have := Int.emod_nonneg ((a : Int) + readAs (IntTy.w ty) ty.signed b * 2 ^ n) (show (2 ^ 64 : Int) ≠ 0 by decide)
  have := Int.emod_lt_of_pos ((a : Int) + readAs (IntTy.w ty) ty.signed b * 2 ^ n) (show (0 : Int) < 2 ^ 64 by decide)
  push_cast
  omega

theorem scalarOtherResults : Claims.ScalarOtherResults := by
  refine ⟨fun f s x h => ?_, fun f s x h => ?_, fun f s x h => ?_, fun f s x h => ?_, fun f s x h => ?_, fun f s x h => ?_,
    fun p hp f s x h => ?_⟩
  · show execScmp f s = _
    exact issue_ok h rfl
  · show execScmpImm f s = _
    exact issue_ok h rfl
  · show execSsel f s = _
    refine issue_ok h ?_
    cases hq : x.g.regs.rdQ f.q.val <;> rfl
  · show execSmovw f s = _
    exact issue_ok h rfl
  · show execSlea f s = _
    rw [← ofNat_leaResult]
    exact issue_ok h rfl
  · show execSmovImm f s = _
    exact issue_ok h rfl
  · rw [exec_scalarImmOp hp]
    exact issue_ok h rfl

/-- Settles O13: every scalar word issues with the value that its row of R71 to R75 gives. -/
theorem scalarResults : Obligations.ScalarResults := ⟨scalarIntegerResults, scalarOtherResults⟩

/-! #### Vector words -/

theorem exec_vectorOp {p : IOp × (VInt → Instr)} (hp : p ∈ vectorOps) (f : VInt) (s : State) :
    exec (p.2 f) s = issue (p.2 f) s (fun x => x.vint (p.2 f) p.1 f) := by
  simp only [vectorOps, List.mem_cons, List.not_mem_nil, or_false] at hp
  rcases hp with rfl | rfl | rfl | rfl | rfl | rfl | rfl | rfl | rfl | rfl | rfl | rfl | rfl | rfl | rfl | rfl | rfl | rfl |
    rfl | rfl | rfl | rfl | rfl | rfl | rfl | rfl <;> rfl

theorem exec_vectorImmOp {p : IOp × (VImmF → Instr)} (hp : p ∈ vectorImmOps) (f : VImmF) (s : State) :
    exec (p.2 f) s = issue (p.2 f) s (fun x => x.vimm (p.2 f) p.1 f) := by
  simp only [vectorImmOps, List.mem_cons, List.not_mem_nil, or_false] at hp
  rcases hp with rfl | rfl | rfl | rfl | rfl | rfl | rfl <;> rfl

/-- The value that a lane's write of a result of its type's width leaves. -/
theorem IOp.eval_mod (op : IOp) (ty : IntTy) (sat : Bool) (a b c n : Nat) :
    op.eval ty sat a b c n % 2 ^ (if ty.wide then 64 else 32) = op.eval ty sat a b c n :=
  Nat.mod_eq_of_lt (IOp.eval_lt ..)

/-- Writes to the lanes of a mask leave every register of another number, and every other lane. -/
theorem foldl_wrW_rdV (act : LaneMask) (wide : Bool) (d : Nat) (v : Nat → Nat) (r : Regs) (n l : Nat) (hl : l < 32)
    (h : act.getLsbD l = false ∨ (n ≠ d ∧ (wide = true → n ≠ d + 1))) :
    ((lanesOf act).foldl (fun r l => r.wrW wide d l (v l)) r).rdV n l = r.rdV n l := by
  refine foldl_keeps (fun r => Regs.rdV r n l) _ _ _ fun r m hm => ?_
  rw [mem_lanesOf] at hm
  refine Regs.rdV_wrW_of_ne _ _ _ _ _ _ _ hm.1 hl (h.imp_left fun h e => ?_)
  subst e
  rw [h] at hm
  exact Bool.noConfusion hm.2

/-- Writes to lanes of vector registers leave the other files. -/
theorem foldl_wrW_files (act : LaneMask) (wide : Bool) (d : Nat) (v : Nat → Nat) (r : Regs) :
    let r' := (lanesOf act).foldl (fun r l => r.wrW wide d l (v l)) r
    r'.s = r.s ∧ r'.p = r.p ∧ r'.q = r.q :=
  ⟨foldl_keeps Regs.s _ _ _ fun _ _ _ => Regs.wrW_s .., foldl_keeps Regs.p _ _ _ fun _ _ _ => Regs.wrW_p ..,
    foldl_keeps Regs.q _ _ _ fun _ _ _ => Regs.wrW_q ..⟩

theorem foldl_wrV_files (act : LaneMask) (d : Nat) (v : Nat → Word) (r : Regs) :
    let r' := (lanesOf act).foldl (fun r l => r.wrV d l (v l)) r
    r'.s = r.s ∧ r'.p = r.p ∧ r'.q = r.q :=
  ⟨foldl_keeps Regs.s _ _ _ fun _ _ _ => rfl, foldl_keeps Regs.p _ _ _ fun _ _ _ => rfl,
    foldl_keeps Regs.q _ _ _ fun _ _ _ => rfl⟩

theorem foldl_wrPbit_files (act : LaneMask) (d : Nat) (v : Nat → Bool) (r : Regs) :
    let r' := (lanesOf act).foldl (fun r l => r.wrPbit d l (v l)) r
    r'.v = r.v ∧ r'.s = r.s ∧ r'.q = r.q :=
  ⟨foldl_keeps Regs.v _ _ _ fun _ _ _ => Regs.wrPbit_v .., foldl_keeps Regs.s _ _ _ fun _ _ _ => Regs.wrPbit_s ..,
    foldl_keeps Regs.q _ _ _ fun _ _ _ => Regs.wrPbit_q ..⟩

theorem vectorIntegerResults : Claims.VectorIntegerResults := by
  intro p hp f s x h
  obtain ⟨hs, hpr, hq⟩ := foldl_wrW_files x.act f.ty.wide f.d.val (vintValue p.1 f x.g.regs) x.g.regs
  refine ⟨_, by rw [exec_vectorOp hp]; exact issue_ok h rfl, hs, hpr, hq, fun l hl hact => ?_, fun l hl hact n => ?_,
    fun l n hl hn hw => ?_⟩
  · rw [foldl_wrW _ _ _ _ _ _ hl, if_pos hact]
    exact IOp.eval_mod ..
  · exact foldl_wrW_rdV _ _ _ _ _ _ _ hl (.inl hact)
  · exact foldl_wrW_rdV _ _ _ _ _ _ _ hl (.inr ⟨hn, hw⟩)

theorem vectorOtherResults : Claims.VectorOtherResults := by
  refine ⟨fun f s x h => ?_, fun f s x h => ?_, fun f s x h => ?_, fun f s x h => ?_, fun f s x h => ?_, fun f s x h => ?_,
    fun p hp f s x h => ?_⟩
  · obtain ⟨hv, hs, hq⟩ := foldl_wrPbit_files x.act f.p.val (fun l => ICond.eval f.cond (if f.w64 then 64 else 32)
      (x.g.regs.rdW f.w64 f.a.val l) (x.g.regs.srcB f.sb f.w64 f.b.val l)) x.g.regs
    exact ⟨_, show execVcmp f s = _ from issue_ok h rfl, hv, hs, hq, fun l n hl => foldl_wrPbit _ _ _ _ _ _ hl⟩
  · obtain ⟨hv, hs, hq⟩ := foldl_wrPbit_files x.act f.p.val (fun l => ICond.eval f.cond (if f.w64 then 64 else 32)
      (x.g.regs.rdW f.w64 f.a.val l) (imm28 (if f.w64 then 64 else 32) f.imm)) x.g.regs
    exact ⟨_, show execVcmpImm f s = _ from issue_ok h rfl, hv, hs, hq, fun l n hl => foldl_wrPbit _ _ _ _ _ _ hl⟩
  · obtain ⟨hs, hp, hq⟩ := foldl_wrW_files x.act f.ty.wide f.d.val (fun l => if (x.g.regs.rdP f.p.val).getLsbD l
      then x.g.regs.rdW f.ty.wide f.a.val l else x.g.regs.srcB f.sb f.ty.wide f.b.val l) x.g.regs
    refine ⟨_, show execVsel f s = _ from issue_ok h rfl, hs, hp, hq,
      fun l n hl hn hw => foldl_wrW_rdV _ _ _ _ _ _ _ hl (.inr ⟨hn, hw⟩), fun l hl => ?_⟩
    have hlt : (if (x.g.regs.rdP f.p.val).getLsbD l = true then x.g.regs.rdW f.ty.wide f.a.val l
        else x.g.regs.srcB f.sb f.ty.wide f.b.val l) < 2 ^ (if f.ty.wide then 64 else 32) := by
      split
      · exact Regs.rdW_lt ..
      · exact Regs.srcB_lt ..
    rw [foldl_wrW _ _ _ _ _ _ hl, Nat.mod_eq_of_lt hlt]
  · obtain ⟨hs, hp, hq⟩ := foldl_wrW_files x.act f.ty.wide f.d.val (fun _ => f.imm.toNat) x.g.regs
    exact ⟨_, show execVmovw f s = _ from issue_ok h rfl, hs, hp, hq,
      fun l n hl hn hw => foldl_wrW_rdV _ _ _ _ _ _ _ hl (.inr ⟨hn, hw⟩), fun l hl => foldl_wrW _ _ _ _ _ _ hl⟩
  · obtain ⟨hs, hp, hq⟩ := foldl_wrW_files x.act true f.d.val (fun l => leaResult f.ty (x.g.regs.rdV64 f.a.val l).toNat
      (x.g.regs.srcB f.sb f.ty.wide f.b.val l) f.n.val) x.g.regs
    refine ⟨_, show execVlea f s = _ from issue_ok h rfl, hs, hp, hq,
      fun l n hl hn hw => foldl_wrW_rdV _ _ _ _ _ _ _ hl (.inr ⟨hn, fun _ => hw⟩), fun l hl => ?_⟩
    rw [← ofNat_leaResult]
    have hw := foldl_wrW x.act true f.d.val (fun l => leaResult f.ty (x.g.regs.rdV64 f.a.val l).toNat
      (x.g.regs.srcB f.sb f.ty.wide f.b.val l) f.n.val) x.g.regs l hl
    refine BitVec.eq_of_toNat_eq (hw.trans ?_)
    split
    · rw [BitVec.toNat_ofNat]; rfl
    · rfl
  · obtain ⟨hs, hp, hq⟩ := foldl_wrV_files x.act f.d.val (fun _ => f.imm.signExtend 32) x.g.regs
    exact ⟨_, show execVmovImm f s = _ from issue_ok h rfl, hs, hp, hq, fun l n hl => foldl_wrV _ _ _ _ _ _ hl⟩
  · obtain ⟨hs, hpr, hq⟩ := foldl_wrV_files x.act f.d.val (fun l =>
      BitVec.ofNat 32 (p.1.eval .i32 false (x.g.regs.rdV f.a.val l).toNat (imm28 32 f.imm) 0 0)) x.g.regs
    exact ⟨_, by rw [exec_vectorImmOp hp]; exact issue_ok h rfl, hs, hpr, hq, fun l n hl => foldl_wrV _ _ _ _ _ _ hl⟩

/-- Settles O14: each vector word is one write per active lane, from the sources as they were at issue. -/
theorem vectorResults : Obligations.VectorResults := ⟨vectorIntegerResults, vectorOtherResults⟩

end Sys2Proof.Machine

/-! ### The integer operations on bit vectors (spec/05 R71) -/

namespace Sys2Proof.Machine

/-- A bit vector read signed or unsigned. -/
def readBits {w : Nat} (sg : Bool) (x : BitVec w) : Int := if sg then x.toInt else x.toNat

/-! #### Reading and narrowing -/

section Widths
variable {w : Nat}

theorem two_pow_eq_double (hw : 0 < w) : 2 ^ w = 2 * 2 ^ (w - 1) := by
  rw [← pow_succ']; congr 1; omega

theorem toSigned_toNat (hw : 0 < w) (a : BitVec w) : toSigned w a.toNat = a.toInt := by
  have := two_pow_eq_double hw
  rw [toSigned, BitVec.toInt_eq_toNat_cond]
  push_cast
  split <;> split <;> omega

theorem readAs_toNat (hw : 0 < w) (sg : Bool) (a : BitVec w) : readAs w sg a.toNat = readBits sg a := by
  cases sg
  · rfl
  · exact toSigned_toNat hw a

/-- A pattern that wraps is that of the integer. -/
theorem narrow_wrap (sg : Bool) (x : Int) : narrow w sg false x = (BitVec.ofInt w x).toNat := by
  rw [BitVec.toNat_ofInt]; simp [narrow]

theorem narrow_natCast (sg : Bool) (n : Nat) : narrow w sg false (n : Int) = n % 2 ^ w := by
  rw [narrow_wrap, BitVec.ofInt_natCast, BitVec.toNat_ofNat]

theorem narrow_toNat (sg : Bool) (x : BitVec w) : narrow w sg false (x.toNat : Int) = x.toNat := by
  rw [narrow_natCast, Nat.mod_eq_of_lt x.isLt]

/-- A bit vector is the pattern of what it reads as. -/
theorem ofInt_readBits (sg : Bool) (x : BitVec w) : BitVec.ofInt w (readBits sg x) = x := by
  cases sg
  · exact (BitVec.ofInt_natCast _ _).trans (by simp)
  · exact BitVec.ofInt_toInt

theorem narrow_readBits (sg sg' : Bool) (x : BitVec w) : narrow w sg false (readBits sg' x) = x.toNat := by
  rw [narrow_wrap, ofInt_readBits]

/-! #### Sums, products, minimum and maximum -/

theorem narrow_add (hw : 0 < w) (sg : Bool) (a b : BitVec w) (c n : Nat) :
    narrow w sg false (IOp.add.exact w sg a.toNat b.toNat c n) = (a + b).toNat := by
  simp only [IOp.exact, readAs_toNat hw, narrow_wrap, BitVec.ofInt_add, ofInt_readBits]

theorem narrow_sub (hw : 0 < w) (sg : Bool) (a b : BitVec w) (c n : Nat) :
    narrow w sg false (IOp.sub.exact w sg a.toNat b.toNat c n) = (a - b).toNat := by
  simp only [IOp.exact, readAs_toNat hw, narrow_wrap, Int.sub_eq_add_neg, BitVec.ofInt_add, BitVec.ofInt_neg, ofInt_readBits,
    BitVec.sub_eq_add_neg]

theorem narrow_mulLo (sg : Bool) (a b : BitVec w) (c n : Nat) :
    narrow w sg false (IOp.mulLo.exact w sg a.toNat b.toNat c n) = (a * b).toNat := by
  simp only [IOp.exact, narrow_natCast, BitVec.toNat_mul]

theorem narrow_mad (hw : 0 < w) (sg : Bool) (a b c : BitVec w) (n : Nat) :
    narrow w sg false (IOp.mad.exact w sg a.toNat b.toNat c.toNat n) = (a * b + c).toNat := by
  simp only [IOp.exact, readAs_toNat hw, narrow_wrap, BitVec.ofInt_add, BitVec.ofInt_mul, ofInt_readBits]

theorem narrow_min (hw : 0 < w) (sg : Bool) (a b : BitVec w) (c n : Nat) :
    narrow w sg false (IOp.min.exact w sg a.toNat b.toNat c n) = (if readBits sg a < readBits sg b then a else b).toNat := by
  simp only [IOp.exact, readAs_toNat hw, min_def_lt]
  split <;> exact narrow_readBits ..

theorem narrow_max (hw : 0 < w) (sg : Bool) (a b : BitVec w) (c n : Nat) :
    narrow w sg false (IOp.max.exact w sg a.toNat b.toNat c n) = (if readBits sg a < readBits sg b then b else a).toNat := by
  simp only [IOp.exact, readAs_toNat hw, max_def_lt]
  split <;> exact narrow_readBits ..

/-! #### The magnitude -/

theorem natAbs_toInt_le (hw : 0 < w) (a : BitVec w) : a.toInt.natAbs ≤ 2 ^ (w - 1) := by
  have := two_pow_eq_double hw
  have := a.isLt
  rw [BitVec.toInt_eq_toNat_cond]
  split <;> omega

theorem narrow_abs (hw : 0 < w) (a : BitVec w) (b c n : Nat) :
    narrow w true false (IOp.abs.exact w true a.toNat b c n) = a.toInt.natAbs := by
  have := two_pow_eq_double hw
  have := natAbs_toInt_le hw a
  have := Nat.two_pow_pos (w - 1)
  simp only [IOp.exact, toSigned_toNat hw]
  rw [narrow_natCast, Nat.mod_eq_of_lt (by omega)]

theorem narrow_abs_sat (hw : 0 < w) (a : BitVec w) (b c n : Nat) :
    narrow w true true (IOp.abs.exact w true a.toNat b c n) = min a.toInt.natAbs (2 ^ (w - 1) - 1) := by
  have h2 := two_pow_eq_double hw
  have hpos := Nat.two_pow_pos (w - 1)
  simp only [IOp.exact, toSigned_toNat hw, narrow, if_true]
  have hclamp : max (-(2 ^ (w - 1) : Int)) (min (2 ^ (w - 1) - 1) (a.toInt.natAbs : Int)) =
      ((min a.toInt.natAbs (2 ^ (w - 1) - 1) : Nat) : Int) := by
    have : ((2 ^ (w - 1) : Nat) : Int) = 2 ^ (w - 1) := by push_cast; rfl
    rw [← this]
    omega
  rw [hclamp]
  have : ((2 ^ w : Nat) : Int) = 2 ^ w := by push_cast; rfl
  rw [← this, ← Int.natCast_mod, Int.toNat_natCast, Nat.mod_eq_of_lt (by omega)]

/-! #### Bitwise operations and shifts -/

theorem narrow_and (sg : Bool) (a b : BitVec w) (c n : Nat) :
    narrow w sg false (IOp.and.exact w sg a.toNat b.toNat c n) = (a &&& b).toNat := by
  simp only [IOp.exact, ← BitVec.toNat_and, narrow_toNat]

theorem narrow_or (sg : Bool) (a b : BitVec w) (c n : Nat) :
    narrow w sg false (IOp.or.exact w sg a.toNat b.toNat c n) = (a ||| b).toNat := by
  simp only [IOp.exact, ← BitVec.toNat_or, narrow_toNat]

theorem narrow_xor (sg : Bool) (a b : BitVec w) (c n : Nat) :
    narrow w sg false (IOp.xor.exact w sg a.toNat b.toNat c n) = (a ^^^ b).toNat := by
  simp only [IOp.exact, ← BitVec.toNat_xor, narrow_toNat]

theorem narrow_andn (sg : Bool) (a b : BitVec w) (c n : Nat) :
    narrow w sg false (IOp.andn.exact w sg a.toNat b.toNat c n) = (a &&& ~~~b).toNat := by
  simp only [IOp.exact, ← BitVec.toNat_not, ← BitVec.toNat_and, narrow_toNat]

theorem narrow_not (sg : Bool) (a : BitVec w) (b c n : Nat) :
    narrow w sg false (IOp.not.exact w sg a.toNat b c n) = (~~~a).toNat := by
  simp only [IOp.exact, ← BitVec.toNat_not, narrow_toNat]

theorem narrow_shl (sg : Bool) (a : BitVec w) (b c n : Nat) :
    narrow w sg false (IOp.shl.exact w sg a.toNat b c n) = (a <<< b).toNat := by
  simp only [IOp.exact, BitVec.toNat_shiftLeft, Nat.shiftLeft_eq]
  split
  · next h =>
    have : a.toNat * 2 ^ b = 2 ^ w * (a.toNat * 2 ^ (b - w)) := by
      rw [Nat.mul_left_comm, ← Nat.pow_add, Nat.add_sub_cancel' h]
    rw [this, Nat.mul_mod_right]
    exact (narrow_natCast sg 0).trans (Nat.zero_mod _)
  · exact narrow_natCast ..

theorem narrow_shr (sg : Bool) (a : BitVec w) (b c n : Nat) :
    narrow w sg false (IOp.shr.exact w sg a.toNat b c n) = (a >>> b).toNat := by
  simp only [IOp.exact]
  have hval : (if w ≤ b then (0 : Int) else (a.toNat / 2 ^ b : Nat)) = ((a >>> b).toNat : Int) := by
    rw [BitVec.toNat_ushiftRight, Nat.shiftRight_eq_div_pow]
    split
    · next h => rw [Nat.div_eq_of_lt (lt_of_lt_of_le a.isLt (Nat.pow_le_pow_right (by decide) h))]; rfl
    · rfl
  rw [hval, narrow_toNat]

/-- An arithmetic shift by the width less one or more leaves the sign. -/
theorem toInt_div_clamp (hw : 0 < w) (a : BitVec w) (b : Nat) :
    a.toInt / ((2 ^ min b (w - 1) : Nat) : Int) = a.toInt / ((2 ^ b : Nat) : Int) := by
  rcases Nat.le_total b (w - 1) with h | h
  · rw [Nat.min_eq_left h]
  · rw [Nat.min_eq_right h]
    have hle := natAbs_toInt_le hw a
    have hpow : 2 ^ (w - 1) ≤ 2 ^ b := Nat.pow_le_pow_right (by decide) h
    have hpos := Nat.two_pow_pos (w - 1)
    have hlt : a.toInt < 2 ^ (w - 1) := BitVec.toInt_lt
    rcases lt_or_ge a.toInt 0 with hneg | hneg
    · rw [Int.ediv_eq_neg_one_of_neg_of_le hneg (by omega), Int.ediv_eq_neg_one_of_neg_of_le hneg (by omega)]
    · push_cast at *
      rw [Int.ediv_eq_zero_of_lt hneg hlt, Int.ediv_eq_zero_of_lt hneg (lt_of_lt_of_le hlt (by exact_mod_cast hpow))]

theorem narrow_sar (hw : 0 < w) (sg : Bool) (a : BitVec w) (b c n : Nat) :
    narrow w sg false (IOp.sar.exact w sg a.toNat b c n) = (a.sshiftRight b).toNat := by
  simp only [IOp.exact, toSigned_toNat hw]
  rw [show Nat.min b (w - 1) = min b (w - 1) from rfl, toInt_div_clamp hw, narrow_wrap, ← Int.shiftRight_eq_div_pow]
  rfl

/-- A rotation puts what leaves at the top under what stays. -/
theorem rotate_eq_or {a w r : Nat} (hr : r ≤ w) (ha : a < 2 ^ w) :
    (a * 2 ^ r + a / 2 ^ (w - r)) % 2 ^ w = (a <<< r) % 2 ^ w ||| a >>> (w - r) := by
  have hw : 2 ^ w = 2 ^ r * 2 ^ (w - r) := by rw [← Nat.pow_add]; congr 1; omega
  have htop : a / 2 ^ (w - r) < 2 ^ r := Nat.div_lt_of_lt_mul (by rwa [Nat.mul_comm, ← hw])
  have hlow : a * 2 ^ r % 2 ^ w = 2 ^ r * (a % 2 ^ (w - r)) := by rw [hw, Nat.mul_comm a, Nat.mul_mod_mul_left]
  have hsum : 2 ^ r * (a % 2 ^ (w - r)) + a / 2 ^ (w - r) < 2 ^ w := by
    rw [hw]
    have := Nat.mul_le_mul_left (2 ^ r) (Nat.succ_le_of_lt (Nat.mod_lt a (Nat.two_pow_pos (w - r))))
    rw [Nat.mul_succ] at this
    omega
  rw [Nat.shiftLeft_eq, Nat.shiftRight_eq_div_pow, Nat.add_mod, hlow, Nat.mod_eq_of_lt (a := a / _) (by omega),
    Nat.mod_eq_of_lt hsum, Nat.two_pow_add_eq_or_of_lt htop]

theorem narrow_rot (hw : 0 < w) (sg : Bool) (a : BitVec w) (b c n : Nat) :
    narrow w sg false (IOp.rot.exact w sg a.toNat b c n) = (a.rotateLeft b).toNat := by
  simp only [IOp.exact]
  rw [narrow_natCast, BitVec.toNat_rotateLeft, rotate_eq_or (Nat.mod_lt _ hw).le a.isLt]

/-! #### Counting and reversing bits -/

/-- The number of one bits below n. -/
theorem popcount_eq (x n : Nat) : popcount x n = ((List.range n).filter (fun i => x.testBit i)).length := by
  induction n with
  | zero => rfl
  | succ n ih =>
    rw [popcount, ih, List.range_succ, List.filter_append, List.length_append]
    cases h : x.testBit n <;> simp [h, Nat.add_comm]

theorem narrow_popc (sg : Bool) (a : BitVec w) (b c n : Nat) :
    narrow w sg false (IOp.popc.exact w sg a.toNat b c n) = ((List.range w).filter (fun i => a.getLsbD i)).length := by
  have hle : ((List.range w).filter (fun i => a.getLsbD i)).length < 2 ^ w := by
    refine lt_of_le_of_lt (List.length_filter_le _ _) ?_
    rw [List.length_range]
    exact Nat.lt_two_pow_self
  simp only [IOp.exact]
  rw [narrow_natCast, popcount_eq]
  exact Nat.mod_eq_of_lt hle

theorem narrow_clz (sg : Bool) (a : BitVec w) (b c n : Nat) (ha : a ≠ 0) :
    narrow w sg false (IOp.clz.exact w sg a.toNat b c n) = w - 1 - Nat.log2 a.toNat := by
  have hne : a.toNat ≠ 0 := fun h => ha (BitVec.eq_of_toNat_eq h)
  simp only [IOp.exact, if_neg hne]
  have : w < 2 ^ w := Nat.lt_two_pow_self
  rw [narrow_natCast, Nat.mod_eq_of_lt (by omega)]

theorem narrow_width (sg : Bool) : narrow w sg false (w : Int) = w := by
  rw [narrow_natCast, Nat.mod_eq_of_lt Nat.lt_two_pow_self]

/-- The zero bits from bit i on, up to the lowest one bit. -/
theorem ctzFrom_eq {x i k n : Nat} (hk : k < n) (hone : x.testBit (i + k) = true)
    (hzero : ∀ j, j < k → x.testBit (i + j) = false) : ctzFrom x i n = k := by
  induction k generalizing i n with
  | zero =>
    obtain ⟨n, rfl⟩ : ∃ m, n = m + 1 := ⟨n - 1, by omega⟩
    exact if_pos hone
  | succ k ih =>
    obtain ⟨n, rfl⟩ : ∃ m, n = m + 1 := ⟨n - 1, by omega⟩
    have hi : x.testBit i = false := hzero 0 (by omega)
    rw [ctzFrom, if_neg (by simp [hi]), ih (by omega) (by rw [← hone]; congr 1; omega) fun j hj => by
      rw [← hzero (j + 1) (by omega)]; congr 1; omega]
    omega

theorem ctzFrom_zero (i n : Nat) : ctzFrom 0 i n = n := by
  induction n generalizing i with
  | zero => rfl
  | succ n ih => rw [ctzFrom, if_neg (by simp), ih]; omega

theorem narrow_ctz (sg : Bool) (a : BitVec w) (b c n k : Nat) (hk : k < w) (hone : a.getLsbD k = true)
    (hzero : ∀ j, j < k → a.getLsbD j = false) : narrow w sg false (IOp.ctz.exact w sg a.toNat b c n) = k := by
  have hctz : ctzFrom a.toNat 0 w = k := ctzFrom_eq hk (by rw [Nat.zero_add]; exact hone) fun j hj => by
    rw [Nat.zero_add]; exact hzero j hj
  have : w < 2 ^ w := Nat.lt_two_pow_self
  simp only [IOp.exact, hctz]
  rw [narrow_natCast, Nat.mod_eq_of_lt (by omega)]

/-- The reversed low n bits stand at the top of w bits. -/
theorem reverseBits_eq {x w n : Nat} (h : n ≤ w) : ∃ q, reverseBits x w n = 2 ^ (w - n) * q ∧ q < 2 ^ n ∧
    ∀ j, j < n → q.testBit j = x.testBit (n - 1 - j) := by
  induction n with
  | zero => exact ⟨0, by simp [reverseBits], by simp, fun j hj => by omega⟩
  | succ n ih =>
    obtain ⟨q, hq, hlt, hbits⟩ := ih (by omega)
    have hpow : 2 ^ (w - n) = 2 ^ (w - 1 - n) * 2 := by rw [← pow_succ]; congr 1; omega
    refine ⟨Nat.bit (x.testBit n) q, ?_, ?_, fun j hj => ?_⟩
    · rw [reverseBits, hq, hpow, show w - (n + 1) = w - 1 - n by omega, Nat.bit_val]
      cases x.testBit n <;> simp <;> ring
    · rw [Nat.bit_val, pow_succ]; cases x.testBit n <;> simp <;> omega
    · cases j with
      | zero => simp
      | succ j => rw [Nat.testBit_bit_succ, hbits j (by omega)]; congr 1; omega

theorem narrow_brev (sg : Bool) (a : BitVec w) (b c n i : Nat) (hi : i < w) :
    (narrow w sg false (IOp.brev.exact w sg a.toNat b c n)).testBit i = a.getLsbD (w - 1 - i) := by
  obtain ⟨q, hq, hlt, hbits⟩ := reverseBits_eq (x := a.toNat) (le_refl w)
  simp only [IOp.exact]
  rw [narrow_natCast, hq, Nat.sub_self, pow_zero, Nat.one_mul, Nat.mod_eq_of_lt hlt]
  exact hbits i hi

/-! #### Extensions and fields -/

theorem narrow_sext (sg : Bool) (a : BitVec w) (b c n : Nat) (hn : n + 1 < w) :
    narrow w sg false (IOp.sext.exact w sg a.toNat b c n) = ((a.setWidth (n + 1)).signExtend w).toNat := by
  simp only [IOp.exact, if_neg (Nat.not_le.mpr hn)]
  rw [← BitVec.toNat_setWidth, toSigned_toNat (Nat.succ_pos n), narrow_wrap]
  rfl

theorem narrow_zext (sg : Bool) (a : BitVec w) (b c n : Nat) (hn : n + 1 < w) :
    narrow w sg false (IOp.zext.exact w sg a.toNat b c n) = a.toNat % 2 ^ (n + 1) := by
  have := Nat.pow_le_pow_right (show 0 < 2 by decide) hn.le
  have := Nat.mod_lt a.toNat (Nat.two_pow_pos (n + 1))
  simp only [IOp.exact, if_neg (Nat.not_le.mpr hn)]
  rw [narrow_natCast, Nat.mod_eq_of_lt (by omega)]

theorem fieldOf_none {b : Nat} (h : w ≤ b % 256 ∨ b / 256 % 256 = 0) : fieldOf w b = none := if_pos h

theorem fieldOf_some {b : Nat} (hpos : b % 256 < w) (hlen : b / 256 % 256 ≠ 0) :
    fieldOf w b = some (b % 256, min (b / 256 % 256) (w - b % 256)) := if_neg (by omega)

theorem narrow_bfe_none (sg : Bool) (a : BitVec w) (b c n : Nat) (hf : fieldOf w b = none) :
    narrow w sg false (IOp.bfe.exact w sg a.toNat b c n) = 0 := by
  simp [IOp.exact, hf, narrow]

theorem narrow_bfi_none (sg : Bool) (a c : BitVec w) (b n : Nat) (hf : fieldOf w b = none) :
    narrow w sg false (IOp.bfi.exact w sg a.toNat b c.toNat n) = c.toNat := by
  simp only [IOp.exact, hf, narrow_toNat]

theorem narrow_clz_zero (sg : Bool) (b c n : Nat) :
    narrow w sg false (IOp.clz.exact w sg (0 : BitVec w).toNat b c n) = w := by
  simp [IOp.exact, narrow_width]

theorem narrow_ctz_zero (sg : Bool) (b c n : Nat) :
    narrow w sg false (IOp.ctz.exact w sg (0 : BitVec w).toNat b c n) = w := by
  simp [IOp.exact, ctzFrom_zero, narrow_width]

/-- The field of bfe is the low bits of the shifted source, read by the type's sign. -/
theorem narrow_bfe (sg : Bool) (a : BitVec w) (b c n : Nat) {pos len : Nat} (hlen : 0 < len) (hf : fieldOf w b = some (pos, len)) :
    narrow w sg false (IOp.bfe.exact w sg a.toNat b c n) =
      (if sg then ((a >>> pos).setWidth len).signExtend w else ((a >>> pos).setWidth len).setWidth w).toNat := by
  have hfield : a.toNat / 2 ^ pos % 2 ^ len = ((a >>> pos).setWidth len).toNat := by
    rw [BitVec.toNat_setWidth, BitVec.toNat_ushiftRight, Nat.shiftRight_eq_div_pow]
  simp only [IOp.exact, hf, hfield, readAs_toNat hlen]
  cases sg
  · exact (narrow_natCast ..).trans (BitVec.toNat_setWidth ..).symm
  · exact narrow_wrap ..

/-- bfi puts the low bits of its source into the field and keeps the others. -/
theorem narrow_bfi (sg : Bool) (a c : BitVec w) (b n i : Nat) {pos len : Nat} (hf : fieldOf w b = some (pos, len))
    (hi : i < w) : (narrow w sg false (IOp.bfi.exact w sg a.toNat b c.toNat n)).testBit i =
      if pos ≤ i ∧ i < pos + len then a.getLsbD (i - pos) else c.getLsbD i := by
  have hsplit : c.toNat / 2 ^ (pos + len) * 2 ^ (pos + len) + a.toNat % 2 ^ len * 2 ^ pos + c.toNat % 2 ^ pos =
      2 ^ pos * (2 ^ len * (c.toNat / 2 ^ (pos + len)) + a.toNat % 2 ^ len) + c.toNat % 2 ^ pos := by
    rw [Nat.pow_add]; ring
  simp only [IOp.exact, hf, hsplit]
  rw [narrow_natCast, Nat.testBit_mod_two_pow, Nat.testBit_two_pow_mul_add _ (Nat.mod_lt _ (Nat.two_pow_pos _)),
    Nat.testBit_two_pow_mul_add _ (Nat.mod_lt _ (Nat.two_pow_pos _))]
  simp only [hi, decide_true, Bool.true_and]
  by_cases hlow : i < pos
  · rw [if_pos hlow, if_neg (by omega), Nat.testBit_mod_two_pow]
    simp only [hlow, decide_true, Bool.true_and]
    rfl
  · rw [if_neg hlow]
    by_cases hin : i - pos < len
    · rw [if_pos hin, if_pos (by omega), Nat.testBit_mod_two_pow]
      simp only [hin, decide_true, Bool.true_and]
      rfl
    · rw [if_neg hin, if_neg (by omega), Nat.testBit_div_two_pow]
      exact congrArg c.toNat.testBit (by omega)

end Widths

/-- Settles O12: each row of R71 at the width of its type. -/
theorem integerOperations : Obligations.IntegerOperations := by
  intro ty a b c n w v clamp r
  have hw : 0 < IntTy.w ty := by unfold IntTy.w; split <;> decide
  have hv (x : BitVec (IntTy.w ty)) : readAs (IntTy.w ty) ty.signed x.toNat = v x := readAs_toNat hw ty.signed x
  have hsat (o : IOp) : r o true = clamp (o.exact (IntTy.w ty) ty.signed a.toNat b.toNat c.toNat n) := by
    refine Eq.trans ?_ (BitVec.toNat_ofInt ..).symm
    push_cast
    rfl
  refine ⟨⟨narrow_add hw .., narrow_sub hw .., narrow_mulLo .., narrow_mad hw ..⟩, ⟨?_, ?_, ?_⟩, ?_,
    ⟨narrow_min hw .., narrow_max hw ..⟩, fun hs => ⟨?_, ?_⟩,
    ⟨narrow_and .., narrow_or .., narrow_xor .., narrow_andn .., narrow_not .., narrow_toNat ..⟩,
    ⟨narrow_shl .., narrow_shr .., narrow_sar hw .., narrow_rot hw ..⟩, narrow_popc .., narrow_clz _ _ _ _ _,
    fun ha => ⟨?_, ?_⟩, fun k hk => narrow_ctz _ _ _ _ _ _ hk, fun i hi => narrow_brev _ _ _ _ _ _ hi,
    fun hn => ⟨narrow_sext _ _ _ _ _ hn, narrow_zext _ _ _ _ _ hn⟩, fun hn => ⟨?_, ?_⟩, ?_⟩
  · rw [hsat]; simp only [IOp.exact, hv]
  · rw [hsat]; simp only [IOp.exact, hv]
  · rw [hsat]; simp only [IOp.exact, hv]
  · refine (narrow_wrap ..).trans ?_
    simp only [IOp.exact, hv, w]
  · have := narrow_abs hw a b.toNat c.toNat n
    simp only [r, IOp.eval, hs]
    exact this
  · have := narrow_abs_sat hw a b.toNat c.toNat n
    simp only [r, IOp.eval, hs]
    exact this
  · subst ha
    exact narrow_clz_zero ..
  · subst ha
    exact narrow_ctz_zero ..
  · exact (congrArg (narrow _ _ _) (if_pos hn)).trans (narrow_toNat ..)
  · exact (congrArg (narrow _ _ _) (if_pos hn)).trans (narrow_toNat ..)
  · rintro pos len rfl rfl
    refine ⟨fun hnone => ⟨narrow_bfe_none _ _ _ _ _ (fieldOf_none hnone), narrow_bfi_none _ _ _ _ _ (fieldOf_none hnone)⟩,
      fun hpos hlen => ?_⟩
    have hf := fieldOf_some hpos hlen
    exact ⟨narrow_bfe _ _ _ _ _ (by omega) hf, fun i hi => narrow_bfi _ _ _ _ _ _ hf hi⟩

end Sys2Proof.Machine

/-! ### Branches, calls and returns (spec/03 R49 to R52) -/

namespace Sys2Proof.Machine

/-- The next word of one-word instruction. -/
theorem prelude_go_next {i : Instr} {s : State} {x : Iss} (h : prelude i s = .go x) :
    x.next = x.f.pc + BitVec.ofNat 64 (8 * Instr.words i) := by
  obtain ⟨g, f, -, -, -, -, -, -, -, -, -, hf, -, -, hn⟩ := prelude_go h
  rw [hn, hf]; rfl

/-! #### The link -/

/-- A write of a register pair is a wide write of its value. -/
theorem Regs.wrV64_eq_wrW (r : Regs) (d l : Nat) (x : DWord) : r.wrV64 d l x = r.wrW true d l x.toNat := by
  simp [Regs.wrW]

theorem Regs.wrPairs_eq (r : Regs) (d : Nat) (m : LaneMask) (x : DWord) :
    r.wrPairs d m x = (lanesOf m).foldl (fun r l => r.wrW true d l x.toNat) r := by
  simp only [Regs.wrPairs, Regs.wrV64_eq_wrW]

/-- A write to a pair in the lanes of a mask: the pair of each of them holds the value, all else is as it was. -/
theorem Regs.wrPairs_spec (r : Regs) (d : Nat) (m : LaneMask) (x : DWord) :
    let r' := r.wrPairs d m x
    r'.s = r.s ∧ r'.p = r.p ∧ r'.q = r.q ∧ (∀ l, l < 32 → m.getLsbD l = true → r'.rdV64 d l = x) ∧
      ∀ l n, l < 32 → m.getLsbD l = false ∨ (n ≠ d ∧ n ≠ d + 1) → r'.rdV n l = r.rdV n l := by
  obtain ⟨hs, hp, hq⟩ := foldl_wrW_files m true d (fun _ => x.toNat) r
  dsimp only
  rw [Regs.wrPairs_eq]
  refine ⟨hs, hp, hq, fun l hl hm => BitVec.eq_of_toNat_eq ?_, fun l n hl h => ?_⟩
  · refine (foldl_wrW m true d (fun _ => x.toNat) r l hl).trans ?_
    rw [if_pos hm]
    exact Nat.mod_eq_of_lt x.isLt
  · exact foldl_wrW_rdV _ _ _ _ _ _ _ hl (h.imp_right fun h => ⟨h.1, fun _ => h.2⟩)

/-! #### The target of a return -/

/-- The lanes of a return agree on its target. -/
theorem regTarget_ret_of_agree {a : VReg} {r : Regs} {f : Frag} {t : DWord} (hne : f.mask ≠ 0#32)
    (h : ∀ l, l < 32 → f.mask.getLsbD l = true → r.rdV64 a.val l = t) : Instr.regTarget (.ret a) r f = some t := by
  have hlane (l : Nat) (hl : l ∈ lanesOf f.mask) : r.rdV64 a.val l = t :=
    h l ((mem_lanesOf _ _).1 hl).1 ((mem_lanesOf _ _).1 hl).2
  unfold Instr.regTarget
  cases hls : lanesOf f.mask with
  | nil => exact absurd ((lanesOf_eq_nil_iff _).1 hls) hne
  | cons l ls =>
    rw [hls] at hlane
    have hall : ls.all (fun m => r.rdV64 a.val m == t) = true := by
      simp only [List.all_eq_true, beq_iff_eq]
      exact fun m hm => hlane m (.tail _ hm)
    simp only [hlane l List.mem_cons_self, hall, if_true]

/-- Two lanes of a return that differ leave it without a target. -/
theorem regTarget_ret_of_ne {a : VReg} {r : Regs} {f : Frag} {l m : Nat} (hl : l ∈ lanesOf f.mask) (hm : m ∈ lanesOf f.mask)
    (hne : r.rdV64 a.val l ≠ r.rdV64 a.val m) : Instr.regTarget (.ret a) r f = none := by
  unfold Instr.regTarget
  cases hls : lanesOf f.mask with
  | nil => rfl
  | cons k ks =>
    rw [hls] at hl hm
    refine if_neg fun hall => hne ?_
    have hk (j : Nat) (hj : j ∈ k :: ks) : r.rdV64 a.val j = r.rdV64 a.val k := by
      rcases List.mem_cons.mp hj with rfl | hj
      · rfl
      · simpa using List.all_eq_true.mp hall j hj
    rw [hk l hl, hk m hm]

theorem branchWords : Claims.BranchWords := by
  refine ⟨fun t s x h => ?_, fun t q qn s x h => ?_, fun a s x h => ?_, fun d tgt i s x h hi => ?_,
    fun a s x t h hne hall => ?_, fun s x h => ?_⟩
  · show execBra t s = _
    exact issue_ok h rfl
  · show execBrq t q qn s = _
    refine issue_ok h ?_
    have hnext : x.next = x.f.pc + 8#64 := prelude_go_next h
    rw [hnext]
    cases hq : x.g.regs.rdQ q.val <;> cases qn <;> rfl
  · show execBrx a s = _
    exact issue_ok h rfl
  · have hlink : exec i s = .next (x.done (x.link d.val tgt)) := by
      rcases hi with ⟨t, rfl, rfl, rfl⟩ | ⟨a, rfl, rfl⟩
      · exact (show execCall t s = _ from issue_ok h rfl)
      · exact (show execCallx d a s = _ from issue_ok h rfl)
    have hret : returnAddr x.f.pc = (x.f.pc &&& ~~~63#64) + 64#64 := by simp [returnAddr, blockPlus]
    exact ⟨_, hlink, hret ▸ Regs.wrPairs_spec ..⟩
  · show execRet a s = _
    exact issue_ok h (by rw [regTarget_ret_of_agree hne hall]; rfl)
  · show execNop s = _
    have hnext : x.next = x.f.pc + 8#64 := prelude_go_next h
    rw [← hnext]
    exact issue_ok h rfl

theorem divergentReturnTraps : Claims.DivergentReturnTraps := by
  intro a s x l m h hl hm hlm hmm hne
  show execRet a s = _
  exact issue_trap h (by rw [regTarget_ret_of_ne ((mem_lanesOf _ _).2 ⟨hl, hlm⟩) ((mem_lanesOf _ _).2 ⟨hm, hmm⟩) hne])

/-- Settles O19: each control word moves its fragment, and a return whose lanes differ has no target. -/
theorem branchResults : Obligations.BranchResults := ⟨branchWords, divergentReturnTraps⟩

end Sys2Proof.Machine

/-! ### The divergent branch (spec/03 R46, R47, R53) -/

namespace Sys2Proof.Machine

/-! #### New tokens -/

/-- The token after one, 0 being none (spec/03 R46). -/
def succTok (t : BitVec 16) : BitVec 16 := if t = 0xFFFF#16 then 1#16 else t + 1

theorem succTok_toNat (t : BitVec 16) : (succTok t).toNat = (t.toNat + 65535) % 65535 + 1 := by
  have := t.isLt
  unfold succTok
  split
  · next h => subst h; rfl
  · next h =>
    have hne : t.toNat ≠ 65535 := fun e => h (BitVec.eq_of_toNat_eq e)
    rw [BitVec.toNat_add]
    simp only [BitVec.ofNat_eq_ofNat, BitVec.toNat_ofNat]
    omega

theorem iterate_succTok_toNat (t : BitVec 16) (k : Nat) : (succTok^[k + 1] t).toNat = (t.toNat + k + 65535) % 65535 + 1 := by
  induction k with
  | zero => exact succTok_toNat t
  | succ k ih => rw [Function.iterate_succ_apply', succTok_toNat, ih]; omega

theorem succTok_ne_zero (t : BitVec 16) : succTok t ≠ 0#16 := fun h => by
  have := succTok_toNat t
  rw [h] at this
  exact Nat.succ_ne_zero _ this.symm

/-- The search ends at a token that is not in use, or it has met only tokens in use. -/
theorem nextTok_fresh_or (used : List (BitVec 16)) (t : BitVec 16) (n : Nat) :
    (nextTok used t n ≠ 0#16 ∧ nextTok used t n ∉ used) ∨ ∀ k, k < n → succTok^[k + 1] t ∈ used := by
  induction n generalizing t with
  | zero => exact .inr fun k h => absurd h (Nat.not_lt_zero k)
  | succ n ih =>
    have hstep : nextTok used t (n + 1) = if succTok t ∈ used then nextTok used (succTok t) n else succTok t := by
      show (if succTok t = 0#16 || used.contains (succTok t) then nextTok used (succTok t) n else succTok t) = _
      simp [succTok_ne_zero]
    by_cases hmem : succTok t ∈ used
    · rw [hstep, if_pos hmem]
      refine (ih (succTok t)).imp id fun h k hk => ?_
      cases k with
      | zero => exact hmem
      | succ k => exact h k (by omega)
    · rw [hstep, if_neg hmem]
      exact .inl ⟨succTok_ne_zero t, hmem⟩

/-- With fewer tokens in use than steps the search finds a free one. -/
theorem nextTok_fresh {used : List (BitVec 16)} {n : Nat} (t : BitVec 16) (hlen : used.length < n) (hn : n ≤ 65535) :
    nextTok used t n ≠ 0#16 ∧ nextTok used t n ∉ used := by
  refine (nextTok_fresh_or used t n).resolve_right fun hall => ?_
  have hcard : (Finset.range n).card ≤ used.toFinset.card := by
    refine Finset.card_le_card_of_injOn (fun k => succTok^[k + 1] t) (fun k hk => ?_) fun j hj k hk hjk => ?_
    · exact List.mem_toFinset.mpr (hall k (Finset.mem_range.mp hk))
    · have := congrArg BitVec.toNat hjk
      simp only [iterate_succTok_toNat, Finset.coe_range, Set.mem_Iio] at this hj hk
      omega
  rw [Finset.card_range] at hcard
  have := used.toFinset_card_le
  omega

/-- A new token is none of those of the frames in a stack with room. -/
theorem Group.newTok_fresh {g : Group} (h : g.stack.length < 32) :
    g.newTok ≠ 0#16 ∧ ∀ e ∈ g.stack, e.kind = .frame → e.tok ≠ g.newTok := by
  have hlen : ((g.stack.filter (fun e => e.kind == .frame)).map (·.tok)).length < 34 := by
    rw [List.length_map]
    exact lt_of_le_of_lt (List.length_filter_le _ _) (by omega)
  obtain ⟨hne, hfree⟩ := nextTok_fresh g.tokctr hlen (by decide)
  exact ⟨hne, fun e he hk htok => hfree (List.mem_map.mpr ⟨e, List.mem_filter.mpr ⟨he, by simp [hk]⟩, htok⟩)⟩

/-! #### The split -/

/-- A fragment under the frame that a split pushes, or under its own when its region rejoins there. -/
def Frag.under (f : Frag) (same : Bool) (k : BitVec 16) (j : DWord) : Frag :=
  if same then f else { f with tok := k, rj := j, depth := f.depth + 1 }

/-- A group whose fragment f splits: the frame that opens. -/
def Group.openFrame (g : Group) (same : Bool) (f : Frag) (j : DWord) : Group :=
  if same then g else
    { g with tokctr := g.newTok, stack := g.stack ++ [⟨.frame, f.depth + 1, g.newTok, f.tok, 0, f.mask, f.pc, j, f.rj⟩] }

/-- The group after a split: the taken lanes at the target, the others in the other slot or on the stack. -/
def Group.split (g : Group) (sl : Slot) (f : Frag) (same : Bool) (tk n : LaneMask) (tgt next j : DWord) (cycle : Nat) : Group :=
  let f' := f.under same g.newTok j
  let g' := (g.openFrame same f j).setFrag sl (some { f'.redirect tgt cycle with mask := tk })
  if (g.frag (Slot.other sl)).isSome then { g' with stack := g'.stack ++ [⟨.ready, f'.depth, f'.tok, 0, n, 0, next, f'.rj, 0⟩] }
  else g'.setFrag (Slot.other sl) (some { f' with pc := next, mask := n, only := none, issueAt := cycle + 4, mark := none })

/-- A branch with taken and other lanes, with room and nothing to wait for, splits its fragment. -/
theorem execBraDiv_split {gd : Guard} {t : BitVec 24} {r : BitVec 16} {s : State} {x : Iss} (h : prelude (.braDiv gd t r) s = .go x)
    (same : Bool) (hsame : (x.f.depth != 0 && rejoin16 x.f.pc r == x.f.rj) = same)
    (htk : x.f.mask &&& x.g.regs.guard gd ≠ 0) (hn : x.f.mask &&& ~~~(x.f.mask &&& x.g.regs.guard gd) ≠ 0)
    (hroom : ¬ x.g.free < (if same then 0 else 1) + (if (x.g.frag (Slot.other x.sl)).isSome then 1 else 0))
    (hwait : ((x.g.frag (Slot.other x.sl)).isSome && !(x.g.pendingOf x.f.mask).isEmpty) = false) :
    exec (.braDiv gd t r) s = .next (x.done (x.s.setGroup x.k (x.g.split x.sl x.f same (x.f.mask &&& x.g.regs.guard gd)
      (x.f.mask &&& ~~~(x.f.mask &&& x.g.regs.guard gd)) (target24 x.f.pc t) x.next (rejoin16 x.f.pc r) x.cycle))) := by
  show execBraDiv gd t r s = _
  refine issue_ok h ?_
  simp only [htk, hn, hsame, hwait, if_neg hroom, if_false, Bool.false_eq_true]
  cases same <;> rfl

/-- What a split leaves in the group. -/
theorem Group.split_spec (g : Group) (sl : Slot) (f : Frag) (same : Bool) (tk n : LaneMask) (tgt next j : DWord) (cycle : Nat) :
    let g' := g.split sl f same tk n tgt next j cycle
    let f' := f.under same g.newTok j
    g'.tokctr = (if same then g.tokctr else g.newTok) ∧
      g'.stack = g.stack ++ (if same then [] else [⟨.frame, f'.depth, f'.tok, f.tok, 0, f.mask, f.pc, j, f.rj⟩]) ++
        (if (g.frag (Slot.other sl)).isSome then [⟨.ready, f'.depth, f'.tok, 0, n, 0, next, f'.rj, 0⟩] else []) ∧
      g'.frag sl = some { f with
        pc := tgt, mask := tk, tok := f'.tok, rj := f'.rj, depth := f'.depth, only := none, issueAt := cycle + 4 } ∧
      g'.frag (Slot.other sl) = (if (g.frag (Slot.other sl)).isSome then g.frag (Slot.other sl) else
        some { f with
          pc := next, mask := n, tok := f'.tok, rj := f'.rj, depth := f'.depth, only := none, issueAt := cycle + 4, mark := none }) ∧
      g'.regs = g.regs ∧ g'.sr = g.sr ∧ g'.exited = g.exited := by
  unfold Group.split
  cases hbusy : (g.frag (Slot.other sl)).isSome <;> cases same <;> cases sl <;>
    simp [Group.openFrame, Group.setFrag, Group.frag, Slot.other, Frag.under, Frag.redirect]

/-- Settles O20: the four outcomes of the branch, with a split's new token free by the room on the stack. -/
theorem divergentBranch : Obligations.DivergentBranch := by
  rintro gd t r s x h tk n tgt j rfl rfl rfl rfl
  obtain ⟨same, hsame⟩ : ∃ same, (x.f.depth != 0 && rejoin16 x.f.pc r == x.f.rj) = same := ⟨_, rfl⟩
  have hcond : (x.f.depth ≠ 0#8 ∧ rejoin16 x.f.pc r = x.f.rj) ↔ same = true := by
    rw [← hsame]; simp
  have hj : (x.f.pc &&& ~~~63#64) + r.signExtend 64 * 64#64 = rejoin16 x.f.pc r := rfl
  have ht : (x.f.pc &&& ~~~63#64) + t.signExtend 64 * 64#64 = target24 x.f.pc t := rfl
  simp only [hj, ht, hcond]
  refine ⟨fun htk => ?_, fun htk hn => ?_, fun htk hn hroom hidle => ?_, fun htk hn hroom hbusy hpend => ?_,
    fun htk hn hfull => ?_⟩
  · show execBraDiv gd t r s = _
    exact issue_ok h (if_pos htk)
  · show execBraDiv gd t r s = _
    exact issue_ok h ((if_neg htk).trans (if_pos hn))
  · have hfree : ¬ x.g.free < (if same then 0 else 1) + (if (x.g.frag (Slot.other x.sl)).isSome then 1 else 0) :=
      Nat.not_lt.mpr hroom
    have hidle' : ((x.g.frag (Slot.other x.sl)).isSome && !(x.g.pendingOf x.f.mask).isEmpty) = false := by
      cases hb : (x.g.frag (Slot.other x.sl)).isSome
      · rfl
      · simp [hidle hb]
    obtain ⟨htok, hstack, hfrag, hother, hrest⟩ := x.g.split_spec x.sl x.f same (x.f.mask &&& x.g.regs.guard gd)
      (x.f.mask &&& ~~~(x.f.mask &&& x.g.regs.guard gd)) (target24 x.f.pc t) x.next (rejoin16 x.f.pc r) x.cycle
    refine ⟨_, _, _, _, execBraDiv_split h same hsame htk hn hfree hidle', fun hs => ?_, fun hs => ?_, ?_, hfrag, ?_, hrest⟩
    · subst hs
      exact ⟨rfl, rfl, rfl, htok⟩
    · obtain rfl : same = false := by simpa using hs
      have hlt : x.g.stack.length < 32 := by
        simp only [Bool.false_eq_true, if_false] at hroom
        omega
      exact ⟨(Group.newTok_fresh hlt).1, (Group.newTok_fresh hlt).2, rfl, rfl, htok⟩
    · exact hstack
    · exact hother
  · show execBraDiv gd t r s = _
    refine issue_wait h ?_
    have hfree : ¬ x.g.free < (if same then 0 else 1) + 1 := by
      unfold Group.free
      cases same <;> simp_all <;> omega
    have hwait : (x.g.pendingOf x.f.mask).isEmpty = false := by simpa using hpend
    simp only [show ¬ (x.f.mask &&& x.g.regs.guard gd = 0) from htk,
      show ¬ (x.f.mask &&& ~~~(x.f.mask &&& x.g.regs.guard gd) = 0) from hn, hsame, hbusy, if_true, if_neg hfree, if_false, hwait,
      Bool.not_false, Bool.and_true]
  · show execBraDiv gd t r s = _
    refine issue_trap h ?_
    have hneed : x.g.free < (if same then 0 else 1) + (if (x.g.frag (Slot.other x.sl)).isSome then 1 else 0) := hfull
    simp only [show ¬ (x.f.mask &&& x.g.regs.guard gd = 0) from htk, show ¬ (x.f.mask &&& ~~~(x.f.mask &&& x.g.regs.guard gd) = 0) from hn,
      hsame, if_pos hneed, if_false]

end Sys2Proof.Machine

/-! ### join and exit (spec/03 R42 to R47, R54 to R57) -/

namespace Sys2Proof.Machine

/-! #### Chains and stacks -/

theorem splitChain_eq_none {pc : DWord} {es : List Entry} (h : ∀ e ∈ es, e.rj ≠ pc) : splitChain pc es = none := by
  induction es with
  | nil => rfl
  | cons e es ih =>
    rw [splitChain, if_neg (h e List.mem_cons_self), ih fun e he => h e (.tail _ he)]; rfl

theorem splitChain_append {pc : DWord} {inner rest : List Entry} {kf : Entry} (h : ∀ e ∈ inner, e.rj ≠ pc) (hk : kf.rj = pc) :
    splitChain pc (inner ++ kf :: rest) = some (inner, kf) := by
  induction inner with
  | nil => exact if_pos hk
  | cons e es ih =>
    rw [List.cons_append, splitChain, if_neg (h e List.mem_cons_self), ih fun e he => h e (.tail _ he)]; rfl

theorem chainFrom_zero (st : List Entry) (n : Nat) : chainFrom st 0#16 n = [] := by
  cases n <;> simp [chainFrom]

theorem chainFrom_succ {st : List Entry} {tok : BitVec 16} {fr : Entry} (n : Nat) (h0 : tok ≠ 0#16) (h : frameOf st tok = some fr) :
    chainFrom st tok (n + 1) = fr :: chainFrom st fr.ptok n := by
  rw [chainFrom, if_neg (show ¬ tok = 0 from h0), h]

/-- A frame that is found has the token. -/
theorem frameOf_spec {st : List Entry} {tok : BitVec 16} {fr : Entry} (h : frameOf st tok = some fr) :
    fr ∈ st ∧ fr.kind = .frame ∧ fr.tok = tok := by
  have := List.find?_some h
  simp only [Bool.and_eq_true, beq_iff_eq] at this
  exact ⟨List.mem_of_find?_eq_some h, this⟩

/-- The parked entry of a token. -/
def parkedOf (st : List Entry) (tok : BitVec 16) : Option Entry := st.find? (fun e => e.kind == .parked && e.tok == tok)

theorem parkedOf_spec {st : List Entry} {tok : BitVec 16} {p : Entry} (h : parkedOf st tok = some p) :
    p ∈ st ∧ p.kind = .parked ∧ p.tok = tok := by
  have := List.find?_some h
  simp only [Bool.and_eq_true, beq_iff_eq] at this
  exact ⟨List.mem_of_find?_eq_some h, this⟩

theorem parkedOf_none {st : List Entry} {tok : BitVec 16} (h : parkedOf st tok = none) {e : Entry} (he : e ∈ st)
    (hk : e.kind = .parked) : e.tok ≠ tok := by
  have := List.find?_eq_none.mp h e he
  simpa [hk] using this

theorem trimFrames_nil (st : List Entry) (m : LaneMask) : trimFrames st [] m = st := by
  simp [trimFrames]

/-- An entry that a stack gains at its end and that is not ready is not what a refill takes. -/
theorem lastReady_append_of_ne {st : List Entry} {e : Entry} (h : e.kind ≠ .ready) : lastReady (st ++ [e]) = lastReady st := by
  induction st with
  | nil => simp [lastReady, h]
  | cons a st ih => rw [List.cons_append, lastReady, lastReady, ih]

/-- A change of entries that are not ready, which stay so, does not change what a refill takes. -/
theorem lastReady_map {st : List Entry} (φ : Entry → Entry) (h : ∀ e, φ e = e ∨ (e.kind ≠ .ready ∧ (φ e).kind ≠ .ready)) :
    lastReady (st.map φ) = lastReady st := by
  induction st with
  | nil => rfl
  | cons a st ih =>
    rw [List.map_cons, lastReady, lastReady, ih]
    rcases h a with h | ⟨h, h'⟩
    · rw [h]
    · cases lastReady st <;> simp [h, h']

/-! #### Refilling and completing a region -/

/-- What a refill of an empty slot leaves. -/
theorem Group.refill_spec (g : Group) (sl : Slot) (c : Nat) (h : g.frag sl = none) :
    (g.refill sl c).frag sl = (lastReady g.stack).map (fun e => Frag.plain e.pc e.mask e.tok e.rj e.depth (c + 8)) ∧
      (g.refill sl c).stack = g.stack.filter (fun y => lastReady g.stack ≠ some y) := by
  unfold Group.refill
  cases hr : lastReady g.stack with
  | none => simp [h]
  | some e =>
    refine ⟨Group.frag_setFrag_self .., ?_⟩
    rw [Group.setFrag_stack]
    exact List.filter_congr fun y _ => by simp [eq_comm]

/-- A region whose parked lanes are all of its frame's completes into the slot (spec/03 R56). -/
def Group.complete (g : Group) (sl : Slot) (c : Nat) (fr p : Entry) : Group :=
  ({ g with stack := g.stack.filter (fun x => x ≠ fr && x ≠ p) }.fuse p.mask).setFrag sl
    (some (Frag.plain fr.rj p.mask fr.ptok fr.prj (fr.depth - 1) (c + 4)))

theorem Group.settle_complete {g : Group} {sl : Slot} {c : Nat} {t : BitVec 16} {fr p : Entry} (ts : List (BitVec 16))
    (hf : frameOf g.stack t = some fr) (hp : parkedOf g.stack t = some p) (hm : p.mask = fr.xmask) :
    g.settle sl c (t :: ts) = g.complete sl c fr p := by
  unfold parkedOf at hp
  rw [Group.settle, hf, hp]
  exact if_pos hm

theorem Group.settle_refill {g : Group} {sl : Slot} {c : Nat} {t : BitVec 16}
    (h : ∀ fr p, frameOf g.stack t = some fr → parkedOf g.stack t = some p → p.mask ≠ fr.xmask) :
    g.settle sl c [t] = g.refill sl c := by
  unfold parkedOf at h
  rw [Group.settle]
  split
  · next fr p hf hp => rw [if_neg (h fr p hf hp)]; rfl
  · rfl

theorem Group.complete_spec (g : Group) (sl : Slot) (c : Nat) (fr p : Entry) :
    (g.complete sl c fr p).frag sl = some (Frag.plain fr.rj p.mask fr.ptok fr.prj (fr.depth - 1) (c + 4)) ∧
      (g.complete sl c fr p).stack = g.stack.filter (fun x => x ≠ fr && x ≠ p) ∧
      (g.complete sl c fr p).flights = g.flights.map (fun fl => if fl.mask &&& p.mask = 0#32 ∨ fl.mask ||| p.mask = fl.mask then fl
            else { fl with mask := fl.mask ||| p.mask, past := fl.past ++ [(g.nextId, fl.mask)] }) := by
  refine ⟨Group.frag_setFrag_self .., by simp [Group.complete, Group.fuse], ?_⟩
  simp only [Group.complete, Group.setFrag_flights, Group.fuse]
  refine List.map_congr_left fun fl _ => ?_
  by_cases h0 : fl.mask &&& p.mask = 0#32
  · simp [h0]
  · by_cases h1 : fl.mask ||| p.mask = fl.mask <;> simp [h0, h1]

/-- Without a fragment in the slot the matrix engine queue stays. -/
theorem State.fuseTiles_of_none {s : State} {k : GKey} {sl : Slot} {g : Group} (h : g.frag sl = none) :
    (s.setGroup k g).fuseTiles k sl = s.setGroup k g := by
  unfold State.fuseTiles
  simp only [State.setGroup_group_self, h]

/-! #### join -/

/-- The stack after a fragment has come to the join of a frame of its chain: its lanes are out of the frames inside, and parked. -/
def joinStack (st : List Entry) (f : Frag) (toks : List (BitVec 16)) (kf : Entry) : List Entry :=
  let st' := trimFrames st toks f.mask
  if (parkedOf st kf.tok).isSome then
    st'.map (fun e => if e.kind == .parked && e.tok == kf.tok then { e with mask := e.mask ||| f.mask } else e)
  else st' ++ [⟨.parked, kf.depth, kf.tok, 0, f.mask, 0, f.pc, kf.rj, 0⟩]

/-- A group whose slot has been emptied onto a stack. -/
def Group.emptied (g : Group) (sl : Slot) (st : List Entry) : Group := { g with stack := st }.setFrag sl none

@[simp] theorem Group.emptied_stack (g : Group) (sl : Slot) (st : List Entry) : (g.emptied sl st).stack = st := by
  simp [Group.emptied]
@[simp] theorem Group.emptied_frag (g : Group) (sl : Slot) (st : List Entry) : (g.emptied sl st).frag sl = none :=
  Group.frag_setFrag_self ..
@[simp] theorem Group.emptied_other (g : Group) (sl : Slot) (st : List Entry) :
    (g.emptied sl st).frag (Slot.other sl) = g.frag (Slot.other sl) :=
  (Group.frag_setFrag_other ..).trans (by cases sl <;> rfl)
@[simp] theorem Group.emptied_regs (g : Group) (sl : Slot) (st : List Entry) : (g.emptied sl st).regs = g.regs := by
  simp [Group.emptied]
@[simp] theorem Group.emptied_flights (g : Group) (sl : Slot) (st : List Entry) : (g.emptied sl st).flights = g.flights := by
  simp [Group.emptied]
@[simp] theorem Group.emptied_nextId (g : Group) (sl : Slot) (st : List Entry) : (g.emptied sl st).nextId = g.nextId := by
  cases sl <;> rfl

/-- A join of an open region parks the fragment's lanes and settles (spec/03 R54). -/
theorem execJoin_region {s : State} {x : Iss} {inner : List Entry} {kf : Entry} (h : prelude .join s = .go x)
    (hpend : x.g.pendingOf x.f.mask = []) (hsplit : splitChain x.f.pc (chainFrom x.g.stack x.f.tok 33) = some (inner, kf))
    (hroom : (parkedOf x.g.stack kf.tok).isSome = true ∨ x.g.stack.length < 32) :
    exec .join s = .next (x.done ((x.s.setGroup x.k
      ((x.g.emptied x.sl (joinStack x.g.stack x.f (inner.map Entry.tok) kf)).settle x.sl x.cycle
        (((inner.map Entry.tok).filter (fun t => (frameOf (joinStack x.g.stack x.f (inner.map Entry.tok) kf) t).isSome)) ++
          [kf.tok]))).fuseTiles x.k x.sl)) := by
  show execJoin s = _
  refine issue_ok h ?_
  have hfull : ((parkedOf x.g.stack kf.tok).isNone && decide (x.g.free < 1)) = false := by
    rcases hroom with h | h
    · cases hp : parkedOf x.g.stack kf.tok <;> simp_all
    · simp [Group.free]; omega
  unfold parkedOf at hfull
  simp only [hpend, List.isEmpty_nil, Bool.not_true, Bool.false_eq_true, if_false, hsplit, hfull]
  rfl

/-- Of the region that rejoins at the join itself: nothing inside it. -/
theorem execJoin_inner {s : State} {x : Iss} {fr : Entry} (h : prelude .join s = .go x)
    (hpend : x.g.pendingOf x.f.mask = []) (h0 : x.f.tok ≠ 0#16) (hfr : frameOf x.g.stack x.f.tok = some fr) (hrj : fr.rj = x.f.pc)
    (hroom : (parkedOf x.g.stack x.f.tok).isSome = true ∨ x.g.stack.length < 32) :
    exec .join s = .next (x.done ((x.s.setGroup x.k
      ((x.g.emptied x.sl (joinStack x.g.stack x.f [] fr)).settle x.sl x.cycle
        [x.f.tok])).fuseTiles x.k x.sl)) := by
  obtain ⟨-, -, htok⟩ := frameOf_spec hfr
  have hsplit : splitChain x.f.pc (chainFrom x.g.stack x.f.tok 33) = some ([], fr) := by
    rw [chainFrom_succ 32 h0 hfr]
    exact splitChain_append (inner := []) (by simp) hrj
  have := execJoin_region h hpend hsplit (by rwa [htok])
  rw [htok] at this
  exact this

/-- The first arrival of a region parks its lanes at the end of the stack. -/
theorem joinStack_first {st : List Entry} {f : Frag} {fr : Entry} (hfr : frameOf st f.tok = some fr)
    (hp : parkedOf st f.tok = none) :
    joinStack st f [] fr = st ++ [⟨.parked, fr.depth, f.tok, 0, f.mask, 0, f.pc, fr.rj, 0⟩] := by
  obtain ⟨-, -, htok⟩ := frameOf_spec hfr
  simp [joinStack, htok, hp, trimFrames_nil]

/-- A later arrival adds its lanes to those that are parked. -/
theorem joinStack_later {st : List Entry} {f : Frag} {fr p : Entry} (hfr : frameOf st f.tok = some fr)
    (hp : parkedOf st f.tok = some p) :
    joinStack st f [] fr = st.map (fun e => if e.kind = .parked ∧ e.tok = f.tok then { e with mask := e.mask ||| f.mask } else e) := by
  obtain ⟨-, -, htok⟩ := frameOf_spec hfr
  simp [joinStack, htok, hp, trimFrames_nil]

theorem frameOf_append {st : List Entry} {tok : BitVec 16} {fr : Entry} (l : List Entry) (h : frameOf st tok = some fr) :
    frameOf (st ++ l) tok = some fr := by
  unfold frameOf at *
  rw [List.find?_append, h]; rfl

theorem parkedOf_append {st : List Entry} {tok : BitVec 16} {p : Entry} (h : parkedOf st tok = none) (hk : p.kind = .parked)
    (ht : p.tok = tok) : parkedOf (st ++ [p]) tok = some p := by
  unfold parkedOf at *
  rw [List.find?_append, h]
  simp [hk, ht]

/-- Adding lanes to parked entries leaves the frames, and gives the parked entry its lanes. -/
theorem frameOf_park {st : List Entry} {tok : BitVec 16} (m : LaneMask) :
    frameOf (st.map (fun e => if e.kind = .parked ∧ e.tok = tok then { e with mask := e.mask ||| m } else e)) tok =
      frameOf st tok := by
  induction st with
  | nil => rfl
  | cons e st ih =>
    unfold frameOf at *
    by_cases h : e.kind = .parked ∧ e.tok = tok
    · rw [List.map_cons, if_pos h, List.find?_cons_of_neg (by simp [h.1]), List.find?_cons_of_neg (by simp [h.1]), ih]
    · rw [List.map_cons, if_neg h, List.find?_cons, List.find?_cons, ih]

theorem parkedOf_park {st : List Entry} {tok : BitVec 16} (m : LaneMask) :
    parkedOf (st.map (fun e => if e.kind = .parked ∧ e.tok = tok then { e with mask := e.mask ||| m } else e)) tok =
      (parkedOf st tok).map (fun e => { e with mask := e.mask ||| m }) := by
  induction st with
  | nil => rfl
  | cons e st ih =>
    unfold parkedOf at *
    by_cases h : e.kind = .parked ∧ e.tok = tok
    · rw [List.map_cons, if_pos h, List.find?_cons_of_pos (by simp [h]), List.find?_cons_of_pos (by simp [h])]; rfl
    · rw [List.map_cons, if_neg h, List.find?_cons_of_neg (by simpa using h), List.find?_cons_of_neg (by simpa using h), ih]

theorem lastReady_park {st : List Entry} {tok : BitVec 16} (m : LaneMask) :
    lastReady (st.map (fun e => if e.kind = .parked ∧ e.tok = tok then { e with mask := e.mask ||| m } else e)) = lastReady st := by
  refine lastReady_map _ fun e => ?_
  by_cases h : e.kind = .parked ∧ e.tok = tok
  · exact .inr (by simp [h])
  · exact .inl (if_neg h)

/-- Outside every open region that rejoins at it a join only advances. -/
theorem execJoin_outside {s : State} {x : Iss} (h : prelude .join s = .go x) (hpend : x.g.pendingOf x.f.mask = [])
    (hout : splitChain x.f.pc (chainFrom x.g.stack x.f.tok 33) = none) :
    exec .join s = .next (x.done (x.s.setGroup x.k (x.g.setFrag x.sl (some { x.f with pc := x.f.pc + 8#64, only := none })))) := by
  have hnext : x.next = x.f.pc + 8#64 := prelude_go_next h
  rw [← hnext]
  show execJoin s = _
  refine issue_ok h ?_
  simp only [hpend, List.isEmpty_nil, Bool.not_true, Bool.false_eq_true, if_false, hout]
  rfl

/-- The rest of the group after a settling from an emptied slot. -/
theorem Group.settle_emptied (g : Group) (sl : Slot) (st : List Entry) (c : Nat) (ts : List (BitVec 16)) :
    let g' := (g.emptied sl st).settle sl c ts
    g'.frag (Slot.other sl) = g.frag (Slot.other sl) ∧ g'.regs = g.regs := by
  have h := (g.emptied sl st).settle_settles sl c ts
  exact ⟨h.other.trans (Group.emptied_other ..), h.regs.trans (Group.emptied_regs ..)⟩

/-- An emptied slot is refilled from the stack. -/
theorem Group.refill_emptied (g : Group) (sl : Slot) (st : List Entry) (c : Nat) :
    ((g.emptied sl st).refill sl c).frag sl = (lastReady st).map (fun e => Frag.plain e.pc e.mask e.tok e.rj e.depth (c + 8)) ∧
      ((g.emptied sl st).refill sl c).stack = st.filter (fun y => lastReady st ≠ some y) := by
  have := (g.emptied sl st).refill_spec sl c (Group.emptied_frag ..)
  rwa [Group.emptied_stack] at this

/-- The first arrival of a region that others have still to reach. -/
theorem join_first {s : State} {x : Iss} {fr : Entry} (h : prelude .join s = .go x) (hpend : x.g.pendingOf x.f.mask = [])
    (h0 : x.f.tok ≠ 0#16) (hfr : frameOf x.g.stack x.f.tok = some fr) (hrj : fr.rj = x.f.pc)
    (hp : parkedOf x.g.stack x.f.tok = none) (hm : x.f.mask ≠ fr.xmask) (hlen : x.g.stack.length < 32) :
    ∃ g, exec .join s = .next (x.done ((x.s.setGroup x.k g).fuseTiles x.k x.sl)) ∧
      g.frag x.sl = (lastReady x.g.stack).map (fun e => Frag.plain e.pc e.mask e.tok e.rj e.depth (x.cycle + 8)) ∧
      g.stack = (x.g.stack ++ [(⟨.parked, fr.depth, x.f.tok, 0, x.f.mask, 0, x.f.pc, fr.rj, 0⟩ : Entry)]).filter
        (fun y => lastReady x.g.stack ≠ some y) ∧
      g.frag (Slot.other x.sl) = x.g.frag (Slot.other x.sl) ∧ g.regs = x.g.regs := by
  have hexec := execJoin_inner h hpend h0 hfr hrj (.inr hlen)
  rw [joinStack_first hfr hp, Group.settle_refill] at hexec
  · have hrefill := x.g.refill_emptied x.sl
      (x.g.stack ++ [⟨.parked, fr.depth, x.f.tok, 0, x.f.mask, 0, x.f.pc, fr.rj, 0⟩]) x.cycle
    rw [lastReady_append_of_ne (by simp)] at hrefill
    exact ⟨_, hexec, hrefill.1, hrefill.2, Group.settle_emptied x.g x.sl _ x.cycle []⟩
  · intro fr' p' hf' hp'
    rw [Group.emptied_stack] at hf' hp'
    rw [frameOf_append _ hfr] at hf'
    rw [parkedOf_append hp rfl rfl] at hp'
    cases hf'; cases hp'
    exact hm

/-- An arrival of every lane of a region completes it. -/
theorem join_alone {s : State} {x : Iss} {fr : Entry} (h : prelude .join s = .go x) (hpend : x.g.pendingOf x.f.mask = [])
    (h0 : x.f.tok ≠ 0#16) (hfr : frameOf x.g.stack x.f.tok = some fr) (hrj : fr.rj = x.f.pc)
    (hp : parkedOf x.g.stack x.f.tok = none) (hm : x.f.mask = fr.xmask) (hlen : x.g.stack.length < 32) :
    ∃ g f, exec .join s = .next (x.done ((x.s.setGroup x.k g).fuseTiles x.k x.sl)) ∧ g.stack = x.g.stack.filter (fun e => e ≠ fr) ∧
      g.frag x.sl = some f ∧ f.pc = fr.rj ∧ f.mask = x.f.mask ∧ f.tok = fr.ptok ∧ f.rj = fr.prj ∧ f.depth = fr.depth - 1 ∧
      f.issueAt = x.cycle + 4 ∧ g.frag (Slot.other x.sl) = x.g.frag (Slot.other x.sl) ∧ g.regs = x.g.regs := by
  have hexec := execJoin_inner h hpend h0 hfr hrj (.inr hlen)
  rw [joinStack_first hfr hp] at hexec
  obtain ⟨p, hpdef⟩ : ∃ p : Entry, p = ⟨.parked, fr.depth, x.f.tok, 0, x.f.mask, 0, x.f.pc, fr.rj, 0⟩ := ⟨_, rfl⟩
  rw [← hpdef] at hexec
  have hpm : p.mask = fr.xmask := by rw [hpdef]; exact hm
  have hpk : p.kind = .parked := by rw [hpdef]
  have hpt : p.tok = x.f.tok := by rw [hpdef]
  have hnot (e : Entry) (he : e ∈ x.g.stack) : e ≠ p := fun hep =>
    parkedOf_none hp he (hep ▸ hpk) (hep ▸ hpt)
  have hsettle : (x.g.emptied x.sl (x.g.stack ++ [p])).settle x.sl x.cycle [x.f.tok] =
      (x.g.emptied x.sl (x.g.stack ++ [p])).complete x.sl x.cycle fr p :=
    Group.settle_complete [] (by rw [Group.emptied_stack]; exact frameOf_append _ hfr)
      (by rw [Group.emptied_stack]; exact parkedOf_append hp hpk hpt) hpm
  obtain ⟨hfrag, hstack, -⟩ := (x.g.emptied x.sl (x.g.stack ++ [p])).complete_spec x.sl x.cycle fr p
  obtain ⟨hother, hregs⟩ := x.g.settle_emptied x.sl (x.g.stack ++ [p]) x.cycle [x.f.tok]
  refine ⟨_, _, hexec, ?_, by rw [hsettle]; exact hfrag, rfl, by rw [hpdef]; rfl, rfl, rfl, rfl, rfl, hother, hregs⟩
  rw [hsettle, hstack, Group.emptied_stack, List.filter_append]
  have hlast : [p].filter (fun y => y ≠ fr && y ≠ p) = [] := by simp
  rw [hlast, List.append_nil]
  exact List.filter_congr fun e he => by simp [hnot e he]

/-- A later arrival of a region that others have still to reach. -/
theorem join_later {s : State} {x : Iss} {fr p : Entry} (h : prelude .join s = .go x) (hpend : x.g.pendingOf x.f.mask = [])
    (h0 : x.f.tok ≠ 0#16) (hfr : frameOf x.g.stack x.f.tok = some fr) (hrj : fr.rj = x.f.pc)
    (hp : parkedOf x.g.stack x.f.tok = some p) (hm : p.mask ||| x.f.mask ≠ fr.xmask) :
    ∃ g, exec .join s = .next (x.done ((x.s.setGroup x.k g).fuseTiles x.k x.sl)) ∧
      g.frag x.sl = (lastReady x.g.stack).map (fun e => Frag.plain e.pc e.mask e.tok e.rj e.depth (x.cycle + 8)) ∧
      g.stack = (x.g.stack.map (fun e => if e.kind = .parked ∧ e.tok = x.f.tok then { e with mask := e.mask ||| x.f.mask } else e)).filter
        (fun y => lastReady x.g.stack ≠ some y) ∧
      g.frag (Slot.other x.sl) = x.g.frag (Slot.other x.sl) ∧ g.regs = x.g.regs := by
  have hexec := execJoin_inner h hpend h0 hfr hrj (.inl (by rw [hp]; rfl))
  rw [joinStack_later hfr hp, Group.settle_refill] at hexec
  · have hrefill := x.g.refill_emptied x.sl (x.g.stack.map (fun e => if e.kind = .parked ∧ e.tok = x.f.tok then
      { e with mask := e.mask ||| x.f.mask } else e)) x.cycle
    rw [lastReady_park] at hrefill
    exact ⟨_, hexec, hrefill.1, hrefill.2, Group.settle_emptied x.g x.sl _ x.cycle []⟩
  · intro fr' p' hf' hp'
    rw [Group.emptied_stack] at hf' hp'
    rw [frameOf_park, hfr] at hf'
    rw [parkedOf_park, hp] at hp'
    cases hf'; cases hp'
    exact hm

/-- The last arrival of a region completes it. -/
theorem join_last {s : State} {x : Iss} {fr p : Entry} (h : prelude .join s = .go x) (hpend : x.g.pendingOf x.f.mask = [])
    (h0 : x.f.tok ≠ 0#16) (hfr : frameOf x.g.stack x.f.tok = some fr) (hrj : fr.rj = x.f.pc)
    (hp : p ∈ x.g.stack) (hk : p.kind = .parked) (ht : p.tok = x.f.tok) (hm : p.mask ||| x.f.mask = fr.xmask)
    (huniq : ∀ e ∈ x.g.stack, e.tok = x.f.tok → e = fr ∨ e = p ∨ e.kind = .ready) :
    ∃ g, exec .join s = .next (x.done ((x.s.setGroup x.k g).fuseTiles x.k x.sl)) ∧
      g.stack = x.g.stack.filter (fun e => e ≠ fr ∧ e ≠ p) ∧
      g.flights = x.g.flights.map (fun fl => if fl.mask &&& fr.xmask = 0#32 ∨ fl.mask ||| fr.xmask = fl.mask then fl
        else { fl with mask := fl.mask ||| fr.xmask, past := fl.past ++ [(x.g.nextId, fl.mask)] }) ∧
      (∃ f, g.frag x.sl = some f ∧ f.pc = fr.rj ∧ f.mask = fr.xmask ∧ f.tok = fr.ptok ∧ f.rj = fr.prj ∧
        f.depth = fr.depth - 1 ∧ f.issueAt = x.cycle + 4) ∧
      g.frag (Slot.other x.sl) = x.g.frag (Slot.other x.sl) ∧ g.regs = x.g.regs := by
  obtain ⟨hfrmem, hfrk, hfrt⟩ := frameOf_spec hfr
  have honly (e : Entry) (he : e ∈ x.g.stack) (hek : e.kind = .parked) (het : e.tok = x.f.tok) : e = p := by
    rcases huniq e he het with rfl | h | h
    · rw [hfrk] at hek; cases hek
    · exact h
    · rw [h] at hek; cases hek
  have hpk : parkedOf x.g.stack x.f.tok = some p := by
    cases hfind : parkedOf x.g.stack x.f.tok with
    | none => exact absurd ht (parkedOf_none hfind hp hk)
    | some q =>
      obtain ⟨hq, hqk, hqt⟩ := parkedOf_spec hfind
      rw [honly q hq hqk hqt]
  have hexec := execJoin_inner h hpend h0 hfr hrj (.inl (by rw [hpk]; rfl))
  rw [joinStack_later hfr hpk] at hexec
  obtain ⟨st, hst⟩ : ∃ st, st = x.g.stack.map (fun e => if e.kind = .parked ∧ e.tok = x.f.tok then
    { e with mask := e.mask ||| x.f.mask } else e) := ⟨_, rfl⟩
  obtain ⟨p', hp'⟩ : ∃ p' : Entry, p' = { p with mask := p.mask ||| x.f.mask } := ⟨_, rfl⟩
  rw [← hst] at hexec
  have hpm : p'.mask = fr.xmask := by rw [hp']; exact hm
  have hsettle : (x.g.emptied x.sl st).settle x.sl x.cycle [x.f.tok] = (x.g.emptied x.sl st).complete x.sl x.cycle fr p' :=
    Group.settle_complete [] (by rw [Group.emptied_stack, hst, frameOf_park, hfr])
      (by rw [Group.emptied_stack, hst, parkedOf_park, hpk, hp']; rfl) hpm
  obtain ⟨hfrag, hstack, hflights⟩ := (x.g.emptied x.sl st).complete_spec x.sl x.cycle fr p'
  rw [hpm] at hfrag hflights
  obtain ⟨hother, hregs⟩ := x.g.settle_emptied x.sl st x.cycle [x.f.tok]
  refine ⟨_, hexec, ?_, ?_, ⟨_, by rw [hsettle]; exact hfrag, rfl, rfl, rfl, rfl, rfl, rfl⟩, hother, hregs⟩
  · rw [hsettle, hstack, Group.emptied_stack, hst, List.filter_map]
    have hpark (e : Entry) (he : e ∈ x.g.stack) : (e.kind = .parked ∧ e.tok = x.f.tok) ↔ e = p :=
      ⟨fun h => honly e he h.1 h.2, fun h => by rw [h]; exact ⟨hk, ht⟩⟩
    rw [List.filter_congr (q := fun e => e ≠ fr ∧ e ≠ p) fun e he => ?_]
    · refine (List.map_congr_left (g := id) fun e he => ?_).trans (List.map_id _)
      obtain ⟨he, hne⟩ := List.mem_filter.mp he
      exact if_neg fun h => by simp [(hpark e he).1 h] at hne
    · by_cases hep : e = p
      · subst hep
        simp [hk, ht, hp']
      · have hne : e ≠ p' := fun h => hep ((hpark e he).1 (by rw [h, hp']; exact ⟨hk, ht⟩))
        simp [Function.comp, mt (hpark e he).1 hep, hne, hep]
  · rw [hsettle, hflights, Group.emptied_flights, Group.emptied_nextId]

/-- A join of an outer region takes the lanes out of the frames inside it. -/
theorem join_outer {s : State} {x : Iss} {inner : List Entry} {kf : Entry} (h : prelude .join s = .go x)
    (hpend : x.g.pendingOf x.f.mask = []) (hsplit : splitChain x.f.pc (chainFrom x.g.stack x.f.tok 33) = some (inner, kf))
    (hroom : (parkedOf x.g.stack kf.tok).isSome = true ∨ x.g.stack.length < 32) :
    ∃ g, exec .join s = .next (x.done ((x.s.setGroup x.k g).fuseTiles x.k x.sl)) ∧
      (∀ e ∈ g.stack, e.kind = .frame → (∃ c ∈ inner, c.tok = e.tok) → e.xmask &&& x.f.mask = 0#32 ∧ e.xmask ≠ 0#32) ∧
      g.frag (Slot.other x.sl) = x.g.frag (Slot.other x.sl) ∧ g.regs = x.g.regs ∧ g.sr = x.g.sr ∧ g.exited = x.g.exited := by
  have hsettles := fun ts => (x.g.emptied x.sl (joinStack x.g.stack x.f (inner.map Entry.tok) kf)).settle_settles x.sl x.cycle ts
  refine ⟨_, execJoin_region h hpend hsplit hroom, fun e he hk ⟨c, hc, htok⟩ => ?_, (hsettles _).other.trans (Group.emptied_other ..),
    (hsettles _).regs.trans (Group.emptied_regs ..), (hsettles _).sr.trans (by simp [Group.emptied]),
    (hsettles _).exited.trans (by cases x.sl <;> rfl)⟩
  have hmem := (hsettles _).stack e he
  rw [Group.emptied_stack] at hmem
  have htrim : e ∈ trimFrames x.g.stack (inner.map Entry.tok) x.f.mask := by
    unfold joinStack at hmem
    dsimp only at hmem
    split at hmem
    · obtain ⟨a, ha, hae⟩ := List.mem_map.mp hmem
      split at hae
      · next hpark => subst hae; simp at hpark; simp [hpark.1] at hk
      · exact hae ▸ ha
    · rcases List.mem_append.mp hmem with hmem | hmem
      · exact hmem
      · simp only [List.mem_singleton] at hmem
        subst hmem
        cases hk
  exact mem_trimFrames _ _ _ e htrim hk (htok ▸ List.mem_map_of_mem hc)

theorem joinResults : Claims.JoinResults := by
  intro s x h
  refine ⟨fun hpend => ?_, fun hpend htok => ?_, fun fr hpend h0 hfr hrj => ⟨fun hp hm hr hlen => ?_, fun e hp hm hr hlen => ?_,
    fun hp hlen => ?_, fun hp hm hlen => join_alone h hpend h0 hfr hrj hp hm hlen,
    fun p hp hm => join_later h hpend h0 hfr hrj hp hm, fun p hp hk ht hm huniq => join_last h hpend h0 hfr hrj hp hk ht hm huniq⟩,
    fun inner rest kf hpend hchain hinner hkf hroom => join_outer h hpend (hchain ▸ splitChain_append hinner hkf) ?_,
    fun hpend hout => ?_⟩
  · show execJoin s = _
    exact issue_wait h (by simp [hpend])
  · exact execJoin_outside h hpend (by rw [htok, chainFrom_zero]; rfl)
  · obtain ⟨g, hexec, hfrag, hstack, hrest⟩ := join_first h hpend h0 hfr hrj hp hm hlen
    rw [hr] at hfrag hstack
    rw [State.fuseTiles_of_none hfrag] at hexec
    exact ⟨g, hexec, hfrag, by simpa using hstack, hrest⟩
  · obtain ⟨g, hexec, hfrag, hstack, hrest⟩ := join_first h hpend h0 hfr hrj hp hm hlen
    rw [hr] at hfrag hstack
    refine ⟨g, hexec, hfrag, hstack.trans (List.filter_congr fun y _ => ?_), hrest⟩
    simp [eq_comm]
  · obtain ⟨-, -, htok⟩ := frameOf_spec hfr
    have hsplit : splitChain x.f.pc (chainFrom x.g.stack x.f.tok 33) = some ([], fr) := by
      rw [chainFrom_succ 32 h0 hfr]
      exact splitChain_append (inner := []) (by simp) hrj
    have hfree : decide (x.g.free < 1) = true := by simp [Group.free]; omega
    show execJoin s = _
    refine issue_trap h ?_
    simp only [hpend, List.isEmpty_nil, Bool.not_true, Bool.false_eq_true, if_false, hsplit, htok, hp, Option.isNone_none, hfree,
      Bool.true_and, if_true]
  · refine hroom.imp_left fun ⟨p, hp, hk, ht⟩ => ?_
    cases hfind : parkedOf x.g.stack kf.tok with
    | none => exact absurd ht (parkedOf_none hfind hp hk)
    | some q => rfl
  · exact execJoin_outside h hpend (splitChain_eq_none hout)

end Sys2Proof.Machine

/-! ### exit (spec/03 R55, R56; spec/14 R266) -/

namespace Sys2Proof.Machine

/-- A group whose lanes m exit: they leave the frames of some tokens and have no eyelet struck. -/
def Group.exiting (g : Group) (m : LaneMask) (toks : List (BitVec 16)) : Group :=
  { g with
    stack := trimFrames g.stack toks m
    exited := g.exited ||| m
    sr := { g.sr with eystruck := g.sr.eystruck &&& ~~~m } }

/-- The tokens of a chain whose frames are still on the stack. -/
def Group.left (g : Group) (ts : List (BitVec 16)) : List (BitVec 16) := ts.filter (fun t => (frameOf g.stack t).isSome)

theorem alive_eq_zero (g : Group) : g.alive = 0#32 ↔ g.exited = allLanes := by
  unfold Group.alive allLanes
  bv_omega

/-- The end of a group changes whether it has ended, what is pending and its handler mode. -/
theorem Group.finish_spec (g : Group) :
    (∀ sl, g.finish.frag sl = g.frag sl) ∧ g.finish.stack = g.stack ∧ g.finish.exited = g.exited ∧ g.finish.sr = g.sr ∧
      g.finish.regs = g.regs ∧ g.finish.locks = g.locks ∧ g.finish.sb = g.sb ∧ g.finish.gwct = g.gwct ∧
      g.finish.ended = (g.ended || decide (g.exited = allLanes)) ∧
      g.finish.handler = if g.exited = allLanes then none else g.handler := by
  unfold Group.finish
  by_cases h : g.exited = allLanes
  · rw [if_pos ((alive_eq_zero g).2 h)]
    refine ⟨fun sl => by cases sl <;> rfl, rfl, rfl, rfl, rfl, rfl, rfl, rfl, by simp [h], by simp [h]⟩
  · rw [if_neg (mt (alive_eq_zero g).1 h)]
    simp [h]

/-- The settling of an exit, from the group g to that whose slot has been emptied: in handler mode, once every lane of the entry mask
has exited, it is that of the entry state's chain (spec/14 R266). -/
def Group.exitSettle (g g' : Group) (sl : Slot) (cycle : Nat) (toks : List (BitVec 16)) : Group :=
  match g.handler, g'.handler with
  | some h0, some h =>
    if h.mask = 0#32 then
      { g' with handler := none }.settle sl cycle (g'.left ((chainFrom g.stack h0.tok 33).map (fun (e : Entry) => e.tok)))
    else g'.settle sl cycle (g'.left toks)
  | _, _ => g'.settle sl cycle (g'.left toks)

/-- The group of an exit before it settles. -/
def Group.exitEmptied (g : Group) (sl : Slot) (m : LaneMask) (toks : List (BitVec 16)) : Group :=
  ((g.exiting m toks).exitHandler m).setFrag sl none

/-- An exit with nothing outstanding empties the slot, settles and may end the group. -/
theorem execExit_eq {s : State} {x : Iss} (h : prelude .exit s = .go x) (hpend : x.g.pendingOf x.f.mask = [])
    {toks : List (BitVec 16)} (htoks : (chainFrom x.g.stack x.f.tok 33).map Entry.tok = toks) :
    exec .exit s = .next (x.done (((x.s.setGroup x.k
      (x.g.exitSettle (x.g.exitEmptied x.sl x.f.mask toks) x.sl x.cycle toks).finish).fuseTiles x.k x.sl).tryEnd x.g.team)) := by
  show execExit s = _
  refine issue_ok h ?_
  simp only [hpend, List.isEmpty_nil, Bool.not_true, Bool.false_eq_true, if_false, htoks]
  rfl

/-- Outside handler mode. -/
theorem Group.exitEmptied_plain {g : Group} (hh : g.handler = none) (sl : Slot) (m : LaneMask) (toks : List (BitVec 16)) :
    g.exitEmptied sl m toks = (g.exiting m toks).setFrag sl none := by
  unfold Group.exitEmptied Group.exitHandler
  rw [show (g.exiting m toks).handler = none from hh]

theorem Group.exitSettle_plain {g : Group} (hh : g.handler = none) (g' : Group) (sl : Slot) (c : Nat) (toks : List (BitVec 16)) :
    g.exitSettle g' sl c toks = g'.settle sl c (g'.left toks) := by
  unfold Group.exitSettle
  rw [hh]

/-- The rest of a group whose slot an exit has emptied. -/
theorem Group.exiting_emptied (g : Group) (sl : Slot) (m : LaneMask) (toks : List (BitVec 16)) :
    let g' := (g.exiting m toks).setFrag sl none
    g'.stack = trimFrames g.stack toks m ∧ g'.frag sl = none ∧ g'.frag (Slot.other sl) = g.frag (Slot.other sl) ∧
      g'.exited = g.exited ||| m ∧ g'.sr = { g.sr with eystruck := g.sr.eystruck &&& ~~~m } ∧ g'.ended = g.ended ∧
      g'.regs = g.regs ∧ g'.locks = g.locks := by
  cases sl <;> exact ⟨rfl, rfl, rfl, rfl, rfl, rfl, rfl, rfl⟩

/-- Lanes leave one entry: a frame of the tokens loses them, and goes with the last. -/
theorem trimFrames_cons (e : Entry) (st : List Entry) (toks : List (BitVec 16)) (m : LaneMask) :
    trimFrames (e :: st) toks m =
      if e.kind = .frame ∧ e.tok ∈ toks then
        if e.xmask &&& ~~~m = 0#32 then trimFrames st toks m
        else { e with xmask := e.xmask &&& ~~~m } :: trimFrames st toks m
      else e :: trimFrames st toks m := by
  unfold trimFrames
  rw [List.map_cons, List.filter_cons]
  by_cases h : e.kind = .frame ∧ e.tok ∈ toks
  · by_cases h0 : e.xmask &&& ~~~m = 0#32 <;> simp [h, h0]
  · have h' : (e.kind == .frame && toks.contains e.tok) = false := by simpa using h
    simp only [h', Bool.false_eq_true, if_false, Bool.false_and, Bool.not_false, if_true, if_neg h]

/-- A frame that keeps a lane stays the one of its token when other lanes leave it. -/
theorem frameOf_trim {st : List Entry} {tok : BitVec 16} {fr : Entry} {toks : List (BitVec 16)} {m : LaneMask}
    (h : frameOf st tok = some fr) (ht : tok ∈ toks) (hm : fr.xmask &&& ~~~m ≠ 0#32) :
    frameOf (trimFrames st toks m) tok = some { fr with xmask := fr.xmask &&& ~~~m } := by
  induction st with
  | nil => cases h
  | cons e st ih =>
    unfold frameOf at *
    rw [trimFrames_cons]
    by_cases he : e.kind = .frame ∧ e.tok = tok
    · rw [List.find?_cons_of_pos (by simp [he])] at h
      cases h
      rw [if_pos ⟨he.1, he.2 ▸ ht⟩, if_neg hm, List.find?_cons_of_pos (by simp [he])]
    · rw [List.find?_cons_of_neg (by simpa using he)] at h
      split
      · split
        · exact ih h
        · rw [List.find?_cons_of_neg (by simpa using he)]
          exact ih h
      · rw [List.find?_cons_of_neg (by simpa using he)]
        exact ih h

/-- Parked entries stay when lanes leave frames. -/
theorem parkedOf_trim (st : List Entry) (tok : BitVec 16) (toks : List (BitVec 16)) (m : LaneMask) :
    parkedOf (trimFrames st toks m) tok = parkedOf st tok := by
  induction st with
  | nil => rfl
  | cons e st ih =>
    unfold parkedOf at *
    rw [trimFrames_cons]
    by_cases he : e.kind = .frame ∧ e.tok ∈ toks
    · rw [if_pos he, List.find?_cons_of_neg (by simp [he.1])]
      split
      · exact ih
      · rw [List.find?_cons_of_neg (by simp [he.1])]
        exact ih
    · rw [if_neg he, List.find?_cons, List.find?_cons, ih]

theorem chainFrom_nil (tok : BitVec 16) (n : Nat) : chainFrom [] tok n = [] := by
  cases n with
  | zero => rfl
  | succ n => rw [chainFrom]; split <;> rfl

/-- A group without a stack settles to itself. -/
theorem Group.settle_nil_stack {g : Group} (sl : Slot) (c : Nat) (h : g.stack = []) : g.settle sl c [] = g := by
  rw [Group.settle, Group.refill, h]; rfl

/-- An exit outside handler mode. -/
theorem execExit_plain {s : State} {x : Iss} (h : prelude .exit s = .go x) (hpend : x.g.pendingOf x.f.mask = [])
    (hh : x.g.handler = none) {toks : List (BitVec 16)} (htoks : (chainFrom x.g.stack x.f.tok 33).map Entry.tok = toks) :
    exec .exit s = .next (x.done (((x.s.setGroup x.k
      (((x.g.exiting x.f.mask toks).setFrag x.sl none).settle x.sl x.cycle
        (((x.g.exiting x.f.mask toks).setFrag x.sl none).left toks)).finish).fuseTiles x.k x.sl).tryEnd x.g.team)) := by
  rw [execExit_eq h hpend htoks, Group.exitSettle_plain hh, Group.exitEmptied_plain hh]

/-- What an exit outside handler mode leaves in the group. -/
theorem exit_plain {x : Iss} {toks : List (BitVec 16)} (htoks : (chainFrom x.g.stack x.f.tok 33).map Entry.tok = toks) :
    let g := ((((x.g.exiting x.f.mask toks).setFrag x.sl none).settle x.sl x.cycle
      (((x.g.exiting x.f.mask toks).setFrag x.sl none).left toks)).finish)
    g.frag (Slot.other x.sl) = x.g.frag (Slot.other x.sl) ∧
      g.exited = x.g.exited ||| x.f.mask ∧ g.sr.eystruck = x.g.sr.eystruck &&& ~~~x.f.mask ∧
      g.ended = (x.g.ended || decide (x.g.exited ||| x.f.mask = allLanes)) ∧ g.regs = x.g.regs ∧ g.locks = x.g.locks ∧
      (∀ e ∈ g.stack, e.kind = .frame → (∃ c ∈ chainFrom x.g.stack x.f.tok 33, c.tok = e.tok) →
        e.xmask &&& x.f.mask = 0#32 ∧ e.xmask ≠ 0#32) ∧
      (x.f.tok = 0#16 → g.stack = x.g.stack.filter (fun y => lastReady x.g.stack ≠ some y) ∧
        g.frag x.sl = (lastReady x.g.stack).map (fun e => Frag.plain e.pc e.mask e.tok e.rj e.depth (x.cycle + 8))) ∧
      (∀ fr p : Entry, x.f.tok ≠ 0#16 → frameOf x.g.stack x.f.tok = some fr → parkedOf x.g.stack x.f.tok = some p →
        p.mask = fr.xmask &&& ~~~x.f.mask → p.mask ≠ 0#32 →
        ∃ f, g.frag x.sl = some f ∧ f.pc = fr.rj ∧ f.mask = p.mask ∧ f.tok = fr.ptok ∧ f.rj = fr.prj ∧ f.depth = fr.depth - 1 ∧
          f.issueAt = x.cycle + 4) := by
  obtain ⟨g₁, hg₁⟩ : ∃ g₁, g₁ = (x.g.exiting x.f.mask toks).setFrag x.sl none := ⟨_, rfl⟩
  obtain ⟨hst, hfrag, hother, hexited, hsr, hended, hregs, hlocks⟩ := x.g.exiting_emptied x.sl x.f.mask toks
  rw [← hg₁] at hst hfrag hother hexited hsr hended hregs hlocks
  have hsettle := g₁.settle_settles x.sl x.cycle (g₁.left toks)
  obtain ⟨fin_frag, fin_stack, fin_exited, fin_sr, fin_regs, fin_locks, -, -, fin_ended, -⟩ :=
    (g₁.settle x.sl x.cycle (g₁.left toks)).finish_spec
  dsimp only
  rw [← hg₁, fin_stack, fin_exited, fin_sr, fin_regs, fin_locks, fin_ended, fin_frag, fin_frag, hsettle.exited, hsettle.ended,
    hsettle.sr, hsettle.regs, hsettle.locks, hsettle.other, hother, hexited, hsr, hended, hregs, hlocks]
  refine ⟨rfl, rfl, rfl, rfl, rfl, rfl, fun e he hk ⟨c, hc, htok⟩ => ?_, fun h0 => ?_, fun fr p h0 hfr hp hm hne => ?_⟩
  · have hmem := hsettle.stack e he
    rw [hst] at hmem
    exact mem_trimFrames _ _ _ e hmem hk (htoks ▸ htok ▸ List.mem_map_of_mem hc)
  · rw [h0, chainFrom_zero, List.map_nil] at htoks
    subst htoks
    rw [trimFrames_nil] at hst
    have := g₁.refill_spec x.sl x.cycle hfrag
    rw [hst] at this
    exact ⟨this.2, this.1⟩
  · have hfr' : frameOf g₁.stack x.f.tok = some { fr with xmask := fr.xmask &&& ~~~x.f.mask } := by
      rw [hst]
      refine frameOf_trim hfr ?_ (hm ▸ hne)
      rw [← htoks, chainFrom_succ 32 h0 hfr]
      exact List.mem_map.mpr ⟨fr, List.mem_cons_self, (frameOf_spec hfr).2.2⟩
    have hp' : parkedOf g₁.stack x.f.tok = some p := by rw [hst, parkedOf_trim, hp]
    have hleft : ∃ ts, g₁.left toks = x.f.tok :: ts := by
      rw [← htoks, chainFrom_succ 32 h0 hfr, List.map_cons, (frameOf_spec hfr).2.2]
      exact ⟨_, List.filter_cons_of_pos (by rw [hfr']; rfl)⟩
    obtain ⟨ts, hts⟩ := hleft
    rw [hts, Group.settle_complete ts hfr' hp' hm]
    exact ⟨_, (Group.complete_spec ..).1, rfl, rfl, rfl, rfl, rfl, rfl⟩

/-- Without open regions an exit empties its slot. -/
theorem exit_no_stack {g : Group} (sl : Slot) (m : LaneMask) (c : Nat) (h : g.stack = []) :
    ((g.exiting m []).setFrag sl none).settle sl c (((g.exiting m []).setFrag sl none).left []) = (g.exiting m []).setFrag sl none :=
  Group.settle_nil_stack _ _ (by rw [(Group.exiting_emptied ..).1, h]; rfl)

/-- The entry state once lanes have left its mask: none with the last of them (spec/14 R266). -/
def Handler.leave (h : Handler) (m : LaneMask) : Option Handler :=
  if h.mask &&& ~~~m = 0#32 then none else some { h with mask := h.mask &&& ~~~m }

/-- A group in another handler mode. -/
def Group.withHandler (g : Group) (h : Option Handler) : Group := { g with handler := h }

theorem Group.withHandler_eq_self {g : Group} {h : Option Handler} (hh : g.handler = h) : g.withHandler h = g := by
  subst hh; rfl

/-- Without open regions an exit in handler mode empties its slot, and takes its lanes out of the entry mask. -/
theorem exit_handler {g : Group} {hd : Handler} (sl : Slot) (m : LaneMask) (c : Nat) (hh : g.handler = some hd) (h : g.stack = []) :
    g.exitSettle (g.exitEmptied sl m []) sl c [] = (g.exitEmptied sl m []).withHandler (hd.leave m) := by
  have hstack : (g.exitEmptied sl m []).stack = [] := by
    unfold Group.exitEmptied Group.exitHandler
    rw [Group.setFrag_stack, show (g.exiting m []).handler = some hd from hh]
    simp [Group.exiting, h, trimFrames]
  have hhandler : (g.exitEmptied sl m []).handler = some { hd with mask := hd.mask &&& ~~~m } := by
    unfold Group.exitEmptied Group.exitHandler
    rw [Group.setFrag_handler, show (g.exiting m []).handler = some hd from hh]
  unfold Group.exitSettle
  simp only [hh, hhandler, h, chainFrom_nil, List.map_nil]
  unfold Handler.leave
  split
  · exact Group.settle_nil_stack _ _ hstack
  · exact (Group.settle_nil_stack _ _ hstack).trans (Group.withHandler_eq_self hhandler).symm

theorem exitResults : Claims.ExitResults := by
  intro s x h
  refine ⟨fun hpend => ?_, fun hpend hh hst => ?_, fun hpend hh => ?_, fun hd hpend hh hst => ?_⟩
  · show execExit s = _
    exact issue_wait h (by simp [hpend])
  · have htoks : (chainFrom x.g.stack x.f.tok 33).map Entry.tok = [] := by rw [hst, chainFrom_nil]; rfl
    have hexec := execExit_plain h hpend hh htoks
    rw [exit_no_stack _ _ _ hst] at hexec
    obtain ⟨fin_frag, fin_stack, fin_exited, fin_sr, fin_regs, fin_locks, fin_sb, fin_gwct, fin_ended, -⟩ :=
      ((x.g.exiting x.f.mask []).setFrag x.sl none).finish_spec
    obtain ⟨hst', hfrag, hother, hexited, hsr, hended, hregs, hlocks⟩ := x.g.exiting_emptied x.sl x.f.mask []
    rw [State.fuseTiles_of_none ((fin_frag x.sl).trans hfrag)] at hexec
    refine ⟨_, _, hexec, rfl, (fin_frag _).trans hfrag, (fin_frag _).trans hother, fin_exited.trans hexited,
      by rw [fin_sr, hsr], by rw [fin_stack, hst', hst]; rfl, by rw [fin_ended, hended, hexited], fin_regs.trans hregs, fin_sb.trans ?_,
      fin_locks.trans hlocks, fin_gwct.trans ?_⟩
    · cases x.sl <;> rfl
    · cases x.sl <;> rfl
  · exact ⟨_, execExit_plain h hpend hh rfl, exit_plain rfl⟩
  · have htoks : (chainFrom x.g.stack x.f.tok 33).map Entry.tok = [] := by rw [hst, chainFrom_nil]; rfl
    have hexec := execExit_eq h hpend htoks
    rw [exit_handler _ _ _ hh hst] at hexec
    obtain ⟨g, hg⟩ : ∃ g, g = (x.g.exitEmptied x.sl x.f.mask []).withHandler (hd.leave x.f.mask) := ⟨_, rfl⟩
    have hfrag : g.frag x.sl = none := by rw [hg]; cases x.sl <;> rfl
    have hexited : g.exited = x.g.exited ||| x.f.mask := by
      rw [hg]
      unfold Group.exitEmptied Group.exitHandler
      rw [show (x.g.exiting x.f.mask []).handler = some hd from hh]
      cases x.sl <;> rfl
    rw [← hg] at hexec
    obtain ⟨fin_frag, -, fin_exited, -, -, -, -, -, -, fin_handler⟩ := g.finish_spec
    rw [State.fuseTiles_of_none ((fin_frag x.sl).trans hfrag)] at hexec
    refine ⟨_, _, hexec, rfl, (fin_frag _).trans hfrag, fin_exited.trans hexited, fun h0 => ?_, fun h0 hall => ?_⟩
    · rw [fin_handler, hg, Group.withHandler, Handler.leave, if_pos h0, ite_self]
    · rw [fin_handler, hexited, if_neg hall, hg, Group.withHandler, Handler.leave, if_neg h0]

/-- Settles O21: a join parks lanes, adds them or completes its region; an exit takes them out of the frames. -/
theorem joinAndExit : Obligations.JoinAndExit := ⟨joinResults, exitResults⟩

end Sys2Proof.Machine

/-! ### Trap, rfh and the debug words (spec/14 R264, R266; spec/18 R323 to R325) -/

namespace Sys2Proof.Machine

/-- The words that rfh leaves to all lanes. -/
theorem unmasked_iff (w : DWord) :
    unmasked w = true ↔ w.toNat / 2 ^ 58 = 1 ∨ ∃ t, decodeTableWord 64 w.toNat = some (.chk t) := by
  unfold unmasked wordClass
  rw [Bool.or_eq_true, beq_iff_eq]
  refine or_congr_right ?_
  constructor
  · intro h
    split at h
    · next t ht => exact ⟨t, ht⟩
    · cases h
  · rintro ⟨t, ht⟩
    rw [ht]

/-- Settles O39: the trap names the next word, and rfh brings back what the entry state holds. -/
theorem trapWords : Obligations.TrapWords := by
  refine ⟨fun c s x h => ?_, fun s x hd h hh => ?_⟩
  · show execTrap c s = _
    exact issue_trap h rfl
  · refine ⟨match x.s.codeAt x.k.core x.g.key x.g.sr.hpc with
      | some w => if unmasked w then none else some (x.g.sr.hmask.setWidth 32 &&& hd.mask)
      | none => some (x.g.sr.hmask.setWidth 32 &&& hd.mask), ?_, fun w hw => ?_⟩
    · show execRfh s = _
      refine issue_ok h ?_
      simp only [hh]
      rfl
    · simp only [hw, unmasked_iff]

/-- Settles O42: each debug word goes on to the next word beside the stop, the event or the mark it leaves. -/
theorem debugWords : Obligations.DebugWords := by
  refine ⟨fun c s x h hoff => ?_, fun c s x h hon => ?_, fun a tag s x h => ?_, fun tag s x h => ?_⟩
  · show execBkpt c s = _
    exact issue_ok h (by simp only [hoff, Bool.false_eq_true, if_false])
  · show execBkpt c s = _
    exact issue_ok h (by simp only [hon, if_true])
  · exact ⟨_, (show execTrc a tag s = _ from issue_ok h rfl), rfl, rfl, rfl, rfl, rfl, rfl, rfl, rfl, rfl⟩
  · show execSmark tag s = _
    exact issue_ok h rfl

end Sys2Proof.Machine

/-! ### The local levels (spec/07 R110 to R122) -/

namespace Sys2Proof.Machine

/-- What a release asks for holds: the word takes its effect (spec/07 R128, spec/09 R172). -/
theorem Iss.withRelease_go {x : Iss} {rel : Bool} {sc : Scope} (h : x.mayRelease rel sc) (body : Res) :
    x.withRelease rel sc body = body := by
  unfold Iss.withRelease
  cases rel with
  | false => rfl
  | true =>
    obtain ⟨hdone, hin, hstruck⟩ := h rfl
    simp [Iss.release, hdone, hin, hstruck]

/-- The checked place of a lane of a local access (spec/07 R121). -/
def Iss.placeOf (x : Iss) (f : MemF) (sp : Space) (l : Nat) : Option (Space × Nat) :=
  x.s.localAt x.g.team x.g.gidx x.g.key x.k.die sp l (x.g.regs.ea f.addr l) (sizeBytes f.size)

/-- The lanes that fail their check, as the trap reads them. -/
theorem localLanes_bad (x : Iss) (f : MemF) (sp : Space) :
    (x.localLanes f sp).filter (fun e => e.2.2.isNone) =
      ((lanesOf x.act).filter (fun l => (x.placeOf f sp l).isNone)).map (fun l => (l, x.g.regs.ea f.addr l, x.placeOf f sp l)) := by
  unfold Iss.localLanes
  rw [List.filter_map]
  rfl

/-- A local access without a lane that fails its check. -/
theorem localTrap_eq_none {x : Iss} {f : MemF} {sp : Space} (h : ∀ l ∈ lanesOf x.act, (x.placeOf f sp l).isSome) :
    localTrap (x.localLanes f sp) = none := by
  have hnone : (lanesOf x.act).filter (fun l => (x.placeOf f sp l).isNone) = [] := by
    refine List.filter_eq_nil_iff.mpr fun l hl => ?_
    simpa [← Option.isSome_iff_ne_none] using h l hl
  rw [localTrap, localLanes_bad, hnone, List.map_nil]

/-- A local access with a lane that fails its check: the trap names the lanes that do, and the address of the lowest. -/
theorem localTrap_eq_some {x : Iss} {f : MemF} {sp : Space} {l : Nat}
    (h : (lanesOf x.act).find? (fun l => (x.placeOf f sp l).isNone) = some l) :
    localTrap (x.localLanes f sp) = some
      { code := 0x07, lanes := some (maskOf ((lanesOf x.act).filter (fun l => (x.placeOf f sp l).isNone)))
        addr := x.g.regs.ea f.addr l } := by
  rw [localTrap, localLanes_bad]
  rw [← List.head?_filter] at h
  obtain ⟨ls, hls⟩ := List.head?_eq_some_iff.mp h
  rw [hls]
  simp only [List.map_cons, List.map_map, Function.comp_def, List.map_id']

/-- The local load of each level. -/
theorem exec_localLoad {p : Space × (MemF → Instr)} (hp : p ∈ localLoads) (f : MemF) (s : State) :
    exec (p.2 f) s = issue (p.2 f) s (fun x => x.ldLocal (p.2 f) f p.1) := by
  simp only [localLoads, List.mem_cons, List.not_mem_nil, or_false] at hp
  rcases hp with rfl | rfl | rfl | rfl <;> rfl

/-- The local store of each level. -/
theorem exec_localStore {p : Space × (MemF → Instr)} (hp : p ∈ localStores) (f : MemF) (s : State) :
    exec (p.2 f) s = issue (p.2 f) s (fun x => x.stLocal f p.1) := by
  simp only [localStores, List.mem_cons, List.not_mem_nil, or_false] at hp
  rcases hp with rfl | rfl | rfl | rfl <;> rfl

theorem localLoads_open : Claims.LocalLoads := by
  intro p hp f s x h hall
  have hexec : exec (p.2 f) s = .next (x.done (x.s.setGroup x.k (x.g.launchFlight x.sl x.f x.next f.la.val
      { x.flight (.load f.size f.d.val) (Instr.dests (p.2 f)) with
        parts := (x.localLanes f p.1).flatMap (fun e => match e.2.2 with
          | some pl => localParts e.1 e.2.1 pl (sizeBytes f.size)
          | none => [])
        acq := f.order.acq }))) := by
    rw [exec_localLoad hp]
    exact issue_ok h (by simp only [Iss.ldLocal, localTrap_eq_none hall] <;> rfl)
  exact ⟨_, hexec, rfl, by simp only [Iss.localLanes, List.flatMap_map] <;> rfl⟩

/-- A lane's store holds a byte. -/
theorem storeBytes_ne_nil (r : Regs) (z : MSize) (d l : Nat) : storeBytes r z d l ≠ [] := by
  cases z <;> simp [storeBytes, sizeRegs, sizeBytes, List.range_succ, toBytes]

/-- The bytes of a local store, in lane order. -/
def Iss.localBytes (x : Iss) (f : MemF) (sp : Space) : List (Nat × Byte) :=
  (lanesOf x.act).flatMap (fun l => match x.placeOf f sp l with
    | some pl => (storeBytes x.g.regs f.size f.d.val l).mapIdx (fun j b => (locByte pl.1 pl.2 j, b))
    | none => [])

/-- A local store without a lane that fails its check has no bytes only without active lanes. -/
theorem localBytes_eq_nil {x : Iss} {f : MemF} {sp : Space} (h : ∀ l ∈ lanesOf x.act, (x.placeOf f sp l).isSome) :
    x.localBytes f sp = [] ↔ x.act = 0#32 := by
  rw [← lanesOf_eq_nil_iff, Iss.localBytes, List.flatMap_eq_nil_iff]
  constructor
  · intro hnil
    refine List.eq_nil_iff_forall_not_mem.mpr fun l hl => ?_
    obtain ⟨pl, hpl⟩ := Option.isSome_iff_exists.mp (h l hl)
    have := hnil l hl
    rw [hpl] at this
    exact storeBytes_ne_nil _ _ _ _ (List.mapIdx_eq_nil_iff.mp this)
  · intro hnil l hl
    rw [hnil] at hl
    cases hl

theorem localStores_leave : Claims.LocalStores := by
  intro p hp f s x h hrel hall
  refine ⟨x.localBytes f p.1, ?_, rfl⟩
  rw [exec_localStore hp]
  refine issue_ok h ?_
  have hbytes : (x.localLanes f p.1).flatMap (fun e => match e.2.2 with
      | some pl => (storeBytes x.g.regs f.size f.d.val e.1).mapIdx (fun j b => (locByte pl.1 pl.2 j, b))
      | none => []) = x.localBytes f p.1 := by
    simp only [Iss.localLanes, List.flatMap_map] <;> rfl
  have hempty : (x.localBytes f p.1).isEmpty = decide (x.act = 0#32) := by
    rw [Bool.eq_iff_iff]
    simpa using localBytes_eq_nil hall
  have hbody : x.stLocal f p.1 = .ok (x.s.setGroup x.k (Group.goto (if decide (x.act = 0#32) then x.g else { x.g with
      nextId := x.g.nextId + 1
      loc := x.g.loc ++ [⟨x.g.nextId, x.g.nextId, x.f.mask, x.f.pc, match p.1 with
        | .die => .scratch
        | .lane => .lane | .scratch => .scratch | .pks => .pks | .global => .global, 0, x.localBytes f p.1, []⟩] })
      x.sl x.f x.next)) := by
    rw [← hempty, ← hbytes]
    simp only [Iss.stLocal, localTrap_eq_none hall, Iss.withRelease_go hrel] <;> rfl
  rw [hbody]
  obtain ⟨sp, c⟩ := p
  by_cases h0 : x.act = 0#32
  · simp only [h0, decide_true, if_true]
    rfl
  · simp only [h0, decide_false, Bool.false_eq_true, if_false]
    cases sp <;> rfl

theorem localRangeTraps : Claims.LocalRangeTraps := by
  intro p hp f s x l h hfind
  have htrap := localTrap_eq_some hfind
  have hexec : exec (p.2 f) s = .next (s.wordTrap x.k x.sl x.g x.f
      { code := 0x07, lanes := some (maskOf ((lanesOf x.act).filter (fun l => (x.placeOf f p.1 l).isNone)))
        addr := x.g.regs.ea f.addr l }) := by
    rcases List.mem_append.mp hp with hp | hp
    · rw [exec_localLoad hp]
      exact issue_trap h (by simp only [Iss.ldLocal, htrap])
    · rw [exec_localStore hp]
      exact issue_trap h (by simp only [Iss.stLocal, htrap])
  exact ⟨_, hexec, rfl, rfl, rfl⟩

/-- Settles O22: a check of every lane, then one load, one set of bytes, or the trap. -/
theorem localAccesses : Obligations.LocalAccesses := ⟨localLoads_open, localStores_leave, localRangeTraps⟩

end Sys2Proof.Machine

/-! ### Special registers (spec/14 R260, R261; spec/06 R95; spec/07 R120) -/

namespace Sys2Proof.Machine

/-- mfs of a group register. -/
theorem execMfs_group {d : Fin 256} {n : BitVec 12} {s : State} {x : Iss} (h : prelude (.mfs d n) s = .go x)
    (hn : (sregKind n.toNat).any (·.1) = false) :
    exec (.mfs d n) s = .next (x.done (x.short (Instr.dests (.mfs d n)) (x.g.regs.wrS d.val (x.sreg n.toNat)))) := by
  show execMfs d n s = _
  exact issue_ok h (by simp only [hn, Bool.false_eq_true, if_false])

/-- mfs of a lane register. -/
theorem execMfs_lane {d : Fin 256} {n : BitVec 12} {s : State} {x : Iss} (h : prelude (.mfs d n) s = .go x)
    (hn : (sregKind n.toNat).any (·.1) = true) :
    exec (.mfs d n) s = .next (x.done (x.short (Instr.dests (.mfs d n))
      ((lanesOf x.act).foldl (fun (r : Regs) l => r.wrV d.val l (x.g.sr.lane n.toNat l)) x.g.regs))) := by
  show execMfs d n s = _
  exact issue_ok h (by simp only [hn, if_true])

/-- mts of a group register. -/
theorem execMts_group {a : Fin 256} {n : BitVec 12} {s : State} {x : Iss} (h : prelude (.mts a n) s = .go x)
    (hn : (sregKind n.toNat).any (·.1) = false) :
    exec (.mts a n) s = .next (x.done (x.s.setGroup x.k
      ({ x.g with sr := x.g.sr.write n.toNat (x.g.regs.rdS a.val) }.setFrag x.sl (some { x.f with pc := x.next, only := none })))) := by
  show execMts a n s = _
  refine issue_ok h ?_
  simp only [hn, Bool.false_eq_true, if_false]
  rfl

/-- A lock request of the group is outstanding. -/
def Flight.isLock (f : Flight) : Bool :=
  match f.kind with
  | .lock .. => true
  | .value | .load .. | .atom .. | .bar .. | .qpop .. | .launch .. | .shuttle .. => false

theorem Flight.isLock_iff (f : Flight) : f.isLock = true ↔ ∃ st l va p b, f.kind = .lock st l va p b := by
  unfold Flight.isLock
  cases f.kind <;> simp

/-- LOCKS (spec/08 R163). -/
theorem Iss.sreg_locks (x : Iss) :
    x.sreg 0x047 = BitVec.ofNat 64 (min x.g.locks.length 7 + (if x.g.flights.any Flight.isLock then 8 else 0)) := rfl

/-- A write of FMODE keeps bits 12:8 and 3 of the value, and three bits of RM. -/
theorem fmodeWrite_eq (old v : DWord) : fmodeWrite old v =
    v &&& 0x1F08#64 ||| (if (v &&& 7#64).toNat ≤ 4 then v else old) &&& 7#64 := by
  unfold fmodeWrite
  dsimp only
  split <;> rfl

theorem and_or_and_and {w : Nat} (x y a b m : BitVec w) : (x &&& a ||| y &&& b) &&& m = x &&& (a &&& m) ||| y &&& (b &&& m) := by
  refine BitVec.eq_of_getLsbD_eq fun i _ => ?_
  simp only [BitVec.getLsbD_and, BitVec.getLsbD_or, Bool.and_or_distrib_right, Bool.and_assoc]

theorem fmodeWrite_spec (old v : DWord) :
    fmodeWrite old v &&& 0x1F08#64 = v &&& 0x1F08#64 ∧ (fmodeWrite old v).ushiftRight 13 = 0#64 ∧ fmodeWrite old v &&& 0xF0#64 = 0#64 ∧
      fmodeWrite old v &&& 7#64 = if (v &&& 7#64).toNat ≤ 4 then v &&& 7#64 else old &&& 7#64 := by
  rw [fmodeWrite_eq]
  refine ⟨?_, ?_, ?_, ?_⟩
  · rw [and_or_and_and, show 0x1F08#64 &&& 0x1F08#64 = 0x1F08#64 by decide, show 7#64 &&& 0x1F08#64 = 0#64 by decide,
      BitVec.and_zero, BitVec.or_zero]
  · rw [show ∀ y : DWord, y.ushiftRight 13 = y >>> 13 from fun _ => rfl, BitVec.ushiftRight_or_distrib, BitVec.ushiftRight_and_distrib,
      BitVec.ushiftRight_and_distrib, show 0x1F08#64 >>> 13 = 0#64 by decide, show 7#64 >>> 13 = 0#64 by decide, BitVec.and_zero,
      BitVec.and_zero, BitVec.or_zero]
  · rw [and_or_and_and, show 0x1F08#64 &&& 0xF0#64 = 0#64 by decide, show 7#64 &&& 0xF0#64 = 0#64 by decide,
      BitVec.and_zero, BitVec.and_zero, BitVec.or_zero]
  · rw [and_or_and_and, show 0x1F08#64 &&& 7#64 = 0#64 by decide, show 7#64 &&& 7#64 = 7#64 by decide, BitVec.and_zero, BitVec.zero_or]
    split <;> rfl

/-- The group registers that the group, its place and its module hold. -/
def Iss.groupRegs (x : Iss) : List (Nat × DWord) :=
  [(0x001, BitVec.ofNat 64 x.g.gidx), (0x008, BitVec.ofNat 64 x.k.c), (0x009, BitVec.ofNat 64 (x.k.c % 48 / 4)),
    (0x00A, BitVec.ofNat 64 (x.k.c / 48)), (0x00B, BitVec.ofNat 64 x.k.m), (0x010, (x.s.module x.k.m).wall), (0x012, x.g.sr.gtimer),
    (0x021, x.g.sr.fmode), (0x030, x.g.sr.hstat), (0x031, x.g.sr.hpc), (0x032, x.g.sr.hmask), (0x040, x.f.mask.setWidth 64),
    (0x041, BitVec.ofNat 64 (x.f.depth.toNat * 2 ^ 16 + x.f.tok.toNat)), (0x044, BitVec.ofNat 64 (x.s.pksBytes x.g.key)),
    (0x045, x.g.sr.lease), (0x046, x.g.sr.eystruck.setWidth 64), (0x049, BitVec.ofNat 64 (x.s.copiesOf x.g.team x.g.gidx)),
    (0x04A, x.g.sr.mrows), (0x04B, x.g.sr.ncols), (0x04D, x.g.sr.ackba), (0x04E, (x.s.module x.k.m).optgrp.setWidth 64),
    (0x04F, x.g.sr.haddr), (0x050, x.g.sr.hapc), (0x051, x.g.sr.gtcmp), (0x052, x.g.sr.wdead)]

theorem Iss.sreg_group {x : Iss} {n : Nat} {v : DWord} (h : (n, v) ∈ x.groupRegs) : (sregKind n).any (·.1) = false ∧ x.sreg n = v := by
  have hwall : BitVec.ofNat 64 (x.s.wall x.k.m) = (x.s.module x.k.m).wall := BitVec.ofNat_toNat ..
  simp only [Iss.groupRegs, List.mem_cons, List.not_mem_nil, or_false, Prod.mk.injEq] at h
  rcases h with ⟨rfl, rfl⟩ | ⟨rfl, rfl⟩ | ⟨rfl, rfl⟩ | ⟨rfl, rfl⟩ | ⟨rfl, rfl⟩ | ⟨rfl, rfl⟩ | ⟨rfl, rfl⟩ | ⟨rfl, rfl⟩ | ⟨rfl, rfl⟩ |
    ⟨rfl, rfl⟩ | ⟨rfl, rfl⟩ | ⟨rfl, rfl⟩ | ⟨rfl, rfl⟩ | ⟨rfl, rfl⟩ | ⟨rfl, rfl⟩ | ⟨rfl, rfl⟩ | ⟨rfl, rfl⟩ | ⟨rfl, rfl⟩ | ⟨rfl, rfl⟩ |
    ⟨rfl, rfl⟩ | ⟨rfl, rfl⟩ | ⟨rfl, rfl⟩ | ⟨rfl, rfl⟩ | ⟨rfl, rfl⟩ | ⟨rfl, rfl⟩
  case inr.inr.inr.inr.inr.inl => exact ⟨rfl, hwall⟩
  all_goals exact ⟨rfl, rfl⟩

/-- The group registers that the team, its grid and its context hold. -/
def Iss.teamRegs (x : Iss) (t : Team) (gr : Grid) (c : Context) : List (Nat × Nat) :=
  [(0x002, t.x), (0x003, t.y), (0x004, t.z), (0x005, gr.gx), (0x006, gr.gy), (0x007, gr.gz), (0x011, c.ctxclk),
    (0x042, ((x.s.region? x.g.team).map (fun r => r.2)).getD 0), (0x043, t.s),
    (0x048, c.p.locklim), (0x04C, if t.tiles = true then (x.s.core x.k.core).mprog.toNat else 0)]

theorem Iss.sreg_team {x : Iss} {t : Team} {gr : Grid} {c : Context} (ht : x.s.team? x.g.team = some t)
    (hg : x.s.grid? t.grid = some gr) (hc : x.s.ctx? x.g.key = some c) {n v : Nat} (h : (n, v) ∈ x.teamRegs t gr c) :
    (sregKind n).any (·.1) = false ∧ x.sreg n = BitVec.ofNat 64 v := by
  simp only [Iss.teamRegs, List.mem_cons, List.not_mem_nil, or_false, Prod.mk.injEq] at h
  rcases h with ⟨rfl, rfl⟩ | ⟨rfl, rfl⟩ | ⟨rfl, rfl⟩ | ⟨rfl, rfl⟩ | ⟨rfl, rfl⟩ | ⟨rfl, rfl⟩ | ⟨rfl, rfl⟩ | ⟨rfl, rfl⟩ | ⟨rfl, rfl⟩ |
    ⟨rfl, rfl⟩ | ⟨rfl, rfl⟩
  case inr.inr.inr.inr.inr.inr.inr.inr.inr.inr =>
    refine ⟨rfl, ?_⟩
    simp only [Iss.sreg, ht, Option.any_some]
    cases t.tiles <;> simp
  all_goals exact ⟨rfl, by simp only [Iss.sreg, ht, hg, hc, Option.map_some, Option.bind_some, Option.getD_some]⟩

/-- The group registers that mts writes whole. -/
def Sregs.writes (r : Sregs) (v : DWord) : List (Nat × Sregs) :=
  [(0x012, { r with gtimer := v }), (0x031, { r with hpc := v }),
    (0x032, { r with hmask := v }), (0x04D, { r with ackba := v }), (0x051, { r with gtcmp := v }),
    (0x052, { r with wdead := v }), (0x04A, { r with mrows := v }), (0x04B, { r with ncols := v }),
    (0x045, { r with lease := if v.toNat ∈ [256, 512, 1024, 2048, 4096, 8192, 16384] then v else r.lease })]

theorem Sregs.write_of_mem {r r' : Sregs} {v : DWord} {n : Nat} (h : (n, r') ∈ r.writes v) :
    (sregKind n).any (·.1) = false ∧ r.write n v = r' := by
  simp only [Sregs.writes, List.mem_cons, List.not_mem_nil, or_false, Prod.mk.injEq] at h
  rcases h with ⟨rfl, rfl⟩ | ⟨rfl, rfl⟩ | ⟨rfl, rfl⟩ | ⟨rfl, rfl⟩ | ⟨rfl, rfl⟩ | ⟨rfl, rfl⟩ | ⟨rfl, rfl⟩ | ⟨rfl, rfl⟩ | ⟨rfl, rfl⟩
  case inr.inr.inr.inr.inr.inr.inr.inr =>
    refine ⟨rfl, ?_⟩
    simp only [Sregs.write, leaseWrite, List.contains_eq_mem, decide_eq_true_eq, List.mem_cons, List.not_mem_nil, or_false]
  all_goals exact ⟨rfl, rfl⟩

/-- The seeds after a write in the lanes of a mask. -/
theorem foldl_seeds (act : LaneMask) (v : Nat → Word) (m : NMap Word) (l : Nat) (hl : l < 32) :
    nget 0#32 ((lanesOf act).foldl (fun (m : NMap Word) l => nset 0#32 m l (v l)) m) l =
      if act.getLsbD l = true then v l else nget 0#32 m l :=
  foldl_lanesOf (nget 0#32) (fun m l => nset 0#32 m l (v l)) v act m (fun m l _ => by rw [nget_nset, if_pos rfl])
    (fun m l k _ _ h => by rw [nget_nset, if_neg h]) l hl

/-- Settles O40: each special register by its number, a group register whole, a lane register lane by lane. -/
theorem specialRegisters : Obligations.SpecialRegisters := by
  refine ⟨fun d n s x h => ⟨fun v hv => ?_, fun t gr c ht hg hc v hv => ?_, fun w hw hw' hn => ?_, fun hn => ?_⟩,
    fun a n s x v h hv => ⟨fun sr hsr => ?_, fun hn => ?_, fun hn => ?_⟩⟩
  · obtain ⟨hk, hval⟩ := Iss.sreg_group hv
    rw [execMfs_group h hk, hval]
  · obtain ⟨hk, hval⟩ := Iss.sreg_team ht hg hc hv
    rw [execMfs_group h hk, hval]
  · subst hn
    have hval : w = if x.g.flights.any Flight.isLock then 8 else 0 := by
      split
      · next hany =>
        obtain ⟨f, hf, hlock⟩ := List.any_eq_true.mp hany
        exact hw ⟨f, hf, (Flight.isLock_iff f).1 hlock⟩
      · next hany =>
        refine hw' fun f hf st l va p b hk => hany (List.any_eq_true.mpr ⟨f, hf, ?_⟩)
        exact (Flight.isLock_iff f).2 ⟨st, l, va, p, b, hk⟩
    rw [execMfs_group h rfl, hval, ← Iss.sreg_locks]
    rfl
  · obtain ⟨hs, hp, hq⟩ := foldl_wrV_files x.act d.val (fun l => x.g.sr.lane n.toNat l) x.g.regs
    have hk : (sregKind n.toNat).any (·.1) = true := by rcases hn with rfl | rfl <;> rfl
    refine ⟨_, execMfs_lane h hk, hs, hp, hq, fun v l hl => (foldl_wrV x.act d.val (fun l => x.g.sr.lane n.toNat l) _ l v hl).trans ?_⟩
    rcases hn with rfl | rfl <;> rfl
  · subst hv
    obtain ⟨hk, hval⟩ := Sregs.write_of_mem hsr
    rw [execMts_group h hk, hval]
  · subst hn hv
    exact ⟨_, execMts_group h rfl, fmodeWrite_spec ..⟩
  · subst hn
    refine ⟨_, show execMts a _ s = _ from issue_ok h rfl, fun l hl => ?_⟩
    exact foldl_seeds _ _ _ _ hl

end Sys2Proof.Machine

/-! ### The tile words (spec/10 R204 to R220) -/

namespace Sys2Proof.Machine

theorem Iss.tileFull_iff (x : Iss) : x.tileFull = true ↔ 8 ≤ (x.s.core x.k.core).tileQ.length := by
  simp [Iss.tileFull]

/-- The state once a tile instruction has joined the matrix engine queue. -/
def Iss.tiled (x : Iss) (op : TileOp) : State :=
  (x.s.modCore x.k.core (fun c =>
    { c with tileQ := c.tileQ ++ [⟨x.g.nextId, op, x.g.gidx, x.f.mask, x.f.pc, x.k.g, ⟨[], none, []⟩, false, [], []⟩] })).setGroup x.k
      ({ x.g with nextId := x.g.nextId + 1 }.setFrag x.sl (some { x.f with pc := x.next, only := none }))

theorem Iss.tile_eq (x : Iss) (op : TileOp) : x.tile op x.s = .ok (x.tiled op) := rfl

/-- Rows that all lie in the region. -/
theorem rowsOut_eq_none {base p rows len S : Nat} (h : ∀ j, j < rows → base + j * p + len ≤ S) : rowsOut base p rows len S = none := by
  simp only [rowsOut, List.findSome?_eq_none_iff, List.mem_range]
  intro j hj
  exact if_neg (Nat.not_lt.mpr (h j hj))

/-- A move with its rows in the region joins the queue. -/
theorem Iss.tileMove_ok {x : Iss} {base : DWord} {p rows len : Nat} {op : Nat → TileOp} (hfull : x.tileFull = false)
    (h : ∀ j, j < rows → base.toNat + j * p + len ≤ ((x.s.team? x.g.team).map (fun t => t.s)).getD 0) :
    x.tileMove base p rows len op = .ok (x.tiled (op base.toNat)) := by
  unfold Iss.tileMove
  rw [hfull, rowsOut_eq_none h]
  rfl

/-- A move with a byte outside the region traps there. -/
theorem Iss.tileMove_trap {x : Iss} {base : DWord} {p rows len a : Nat} {op : Nat → TileOp} (hfull : x.tileFull = false)
    (h : rowsOut base.toNat p rows len (((x.s.team? x.g.team).map (fun t => t.s)).getD 0) = some a) :
    x.tileMove base p rows len op = .trap { code := 0x07, addr := BitVec.ofNat 64 a } := by
  unfold Iss.tileMove
  rw [hfull, h]
  rfl

theorem Iss.tileMove_wait {x : Iss} (base : DWord) (p rows len : Nat) (op : Nat → TileOp) (hfull : x.tileFull = true) :
    x.tileMove base p rows len op = .wait := if_pos hfull

theorem tileWordsJoinTheQueue : Claims.TileWordsJoinTheQueue := by
  intro s x hlen i op hi h
  have hfull : x.tileFull = false := by
    rw [Bool.eq_false_iff, Ne, Iss.tileFull_iff]; omega
  change exec i s = .next (x.done (x.tiled op))
  rcases hi with ⟨acc, j, rfl, rfl⟩ | ⟨f, rfl, rfl⟩ | ⟨f, rfl, hmod, hlo, hhi, hmx, rfl⟩ | ⟨f, rfl, rfl⟩ |
    ⟨f, st, base, p, rows, len, rfl, rfl, rfl, rfl, rfl, rfl, hin⟩ | ⟨f, st, base, p, rfl, rfl, rfl, rfl, hin⟩
  · show execTzero acc j s = _
    exact issue_ok h (by simp only [hfull, Bool.false_eq_true, if_false]; exact x.tile_eq _)
  · show execMmac f s = _
    exact issue_ok h (by simp only [hfull, Bool.false_eq_true, if_false]; exact x.tile_eq _)
  · have hok : ¬ ((x.g.regs.rdS f.c.val).toNat % 2 ^ 32 % 64 ≠ 0 ∨ (x.g.regs.rdS f.c.val).toNat % 2 ^ 32 < 64 ∨
        2 ^ 24 < (x.g.regs.rdS f.c.val).toNat % 2 ^ 32 ∨ (f.mx = true ∧ 61 < f.c.val)) := by
      rintro (h | h | h | ⟨h, h'⟩)
      · exact h hmod
      · omega
      · omega
      · exact absurd (hmx h) (by omega)
    show execMmacg f s = _
    refine issue_ok h ?_
    simp only [hfull, Bool.false_eq_true, if_false, if_neg hok]
    exact x.tile_eq _
  · show execTcvt f s = _
    exact issue_ok h (by simp only [hfull, Bool.false_eq_true, if_false]; exact x.tile_eq _)
  · cases st
    · show execTld f s = _
      refine issue_ok h ?_
      cases hs : f.side
      all_goals
        simp only [hs, if_true, Bool.false_eq_true, if_false] at hin ⊢
        exact Iss.tileMove_ok hfull hin
    · show execTst f s = _
      refine issue_ok h ?_
      cases hs : f.side
      all_goals
        simp only [hs, if_true, Bool.false_eq_true, if_false] at hin ⊢
        exact Iss.tileMove_ok hfull hin
  · cases st
    · exact (show execTaccLd f s = _ from issue_ok h (Iss.tileMove_ok hfull hin))
    · exact (show execTaccSt f s = _ from issue_ok h (Iss.tileMove_ok hfull hin))

/-- A tile word waits while the queue is full. -/
theorem tileWord_waits {s : State} {x : Iss} {i : Instr} (ht : Instr.isTile i = true) (h : prelude i s = .go x)
    (hfull : x.tileFull = true) : exec i s = .next s := by
  cases i <;> first | exact Bool.noConfusion (show false = true from ht) | skip
  case tld f => exact (show execTld f s = _ from issue_wait h (by dsimp only; split <;> exact Iss.tileMove_wait _ _ _ _ _ hfull))
  case tst f => exact (show execTst f s = _ from issue_wait h (by dsimp only; split <;> exact Iss.tileMove_wait _ _ _ _ _ hfull))
  case taccLd f => exact (show execTaccLd f s = _ from issue_wait h (Iss.tileMove_wait _ _ _ _ _ hfull))
  case taccSt f => exact (show execTaccSt f s = _ from issue_wait h (Iss.tileMove_wait _ _ _ _ _ hfull))
  case tzero acc j => exact (show execTzero acc j s = _ from issue_wait h (if_pos hfull))
  case mmac f => exact (show execMmac f s = _ from issue_wait h (if_pos hfull))
  case mmacg f => exact (show execMmacg f s = _ from issue_wait h (if_pos hfull))
  case tcvt f => exact (show execTcvt f s = _ from issue_wait h (if_pos hfull))

theorem tileWordsWaitOrTrap : Claims.TileWordsWaitOrTrap := by
  intro s x i ht h
  refine ⟨fun hlen => tileWord_waits ht h (x.tileFull_iff.2 hlen), fun hlen => ⟨?_, ?_, ?_⟩⟩
  all_goals have hfull : x.tileFull = false := by rw [Bool.eq_false_iff, Ne, Iss.tileFull_iff]; omega
  · rintro f rfl hbad
    show execMmacg f s = _
    refine issue_trap h ?_
    simp only [hfull, Bool.false_eq_true, if_false, if_pos hbad]
  · rintro f a (rfl | rfl) hout
    · show execTld f s = _
      refine issue_trap h ?_
      cases hs : f.side
      all_goals
        simp only [hs, if_true, Bool.false_eq_true, if_false] at hout ⊢
        exact Iss.tileMove_trap hfull hout
    · show execTst f s = _
      refine issue_trap h ?_
      cases hs : f.side
      all_goals
        simp only [hs, if_true, Bool.false_eq_true, if_false] at hout ⊢
        exact Iss.tileMove_trap hfull hout
  · rintro f a (rfl | rfl) hout
    · exact (show execTaccLd f s = _ from issue_trap h (Iss.tileMove_trap hfull hout))
    · exact (show execTaccSt f s = _ from issue_trap h (Iss.tileMove_trap hfull hout))

/-- Settles O34: a tile word waits for room, traps on its operands or joins the queue. -/
theorem tileWords : Obligations.TileWords := ⟨tileWordsJoinTheQueue, tileWordsWaitOrTrap⟩

end Sys2Proof.Machine

/-! ### The barrier words and the barrier unit (spec/09 R173 to R182) -/

namespace Sys2Proof.Machine

/-- A barrier word whose object passes its check goes on with it. -/
theorem Iss.withObj_some {x : Iss} {f : BarF} {o : BRef}
    (h : x.s.barRef x.g.team x.g.key x.k.die (x.g.regs.sbase f.base f.off) = some o) (body : DWord → BRef → Res) :
    x.withObj f body = body (x.g.regs.sbase f.base f.off) o := by
  simp only [Iss.withObj, Iss.barObj, h]

theorem Iss.withObj_none {x : Iss} {f : BarF}
    (h : x.s.barRef x.g.team x.g.key x.k.die (x.g.regs.sbase f.base f.off) = none) (body : DWord → BRef → Res) :
    x.withObj f body = .trap { code := 0x07, addr := x.g.regs.sbase f.base f.off } := by
  simp only [Iss.withObj, Iss.barObj, h]

/-- The expected bytes as a signed word. -/
theorem Iss.barBytes_eq (x : Iss) (f : BarF) : x.barBytes f = ((x.g.regs.rdS f.b.val).setWidth 32 : Word).toInt := by
  rw [Iss.barBytes, ← BitVec.toNat_setWidth, toSigned_toNat (by omega)]

/-- The phase and the arrivals of bar.init as fields of the source. -/
theorem ofNat_div_eq_setWidth (v : DWord) : BitVec.ofNat 32 (v.toNat / 2 ^ 32) = (v >>> 32).setWidth 32 := by
  rw [BitVec.toNat_eq]
  simp [Nat.shiftRight_eq_div_pow]

theorem setWidth_eq_zero_iff (v : DWord) : v.setWidth 16 = 0#16 ↔ v.toNat % 2 ^ 16 = 0 := by
  rw [← BitVec.toNat_inj, BitVec.toNat_setWidth, BitVec.toNat_ofNat, Nat.zero_mod]

theorem barrierRequests_join : Claims.BarrierRequests := by
  rintro f s x ba o rfl ho
  refine ⟨fun h hb => ?_, fun h hb => ?_, fun h => ?_, fun h hrel =>
    ⟨x.flight (.bar f.d.val false 0) (Instr.dests (.barArrive f)), ?_, rfl, rfl, rfl, rfl, rfl⟩,
    fun h => ⟨{ x.flight (.bar f.d.val true ((x.g.regs.rdS f.b.val).setWidth 32)) (Instr.dests (.barTest f)) with acq := f.order.acq },
      ?_, rfl, rfl, rfl, rfl, rfl⟩⟩
  · show execBarInit f s = _
    refine issue_ok h ?_
    simp only [Iss.withObj_some ho, mt (setWidth_eq_zero_iff _).mpr hb, if_false, ofNat_div_eq_setWidth]
    rfl
  · show execBarInit f s = _
    refine issue_trap h ?_
    simp only [Iss.withObj_some ho, (setWidth_eq_zero_iff _).mp hb, if_true]
  · show execBarExpect f s = _
    refine issue_ok h ?_
    simp only [Iss.withObj_some ho, Iss.barBytes_eq]
    rfl
  · show execBarArrive f s = _
    refine issue_ok h ?_
    simp only [Iss.withObj_some ho, Iss.barBytes_eq, Iss.withRelease_go hrel]
    rfl
  · show execBarTest f s = _
    refine issue_ok h ?_
    simp only [Iss.withObj_some ho]
    rfl

theorem barrierWait_reads : Claims.BarrierWait := by
  intro f s x o v h ho hv hp
  have hph : ((x.g.regs.rdS f.b.val).setWidth 32 : Word).toNat = (x.g.regs.rdS f.b.val).toNat % 2 ^ 32 := BitVec.toNat_setWidth ..
  refine ⟨fun heq => ?_, fun hne hacq => ?_⟩
  · show execBarWait f s = _
    refine issue_ok h ?_
    simp only [Iss.withObj_some ho, hp, Bool.false_eq_true, if_false, hv, hph, heq, if_true]
  · have hgo : (f.order.acq && (x.s.core x.k.core).eyeletIn x.k.g x.f.mask) = false := by
      cases ha : f.order.acq with
      | false => rfl
      | true => exact hacq ha
    show execBarWait f s = _
    refine issue_ok h ?_
    simp only [Iss.withObj_some ho, hp, Bool.false_eq_true, if_false, hv, hph, hne, hgo]
    rfl

theorem barrierAddressTraps : Claims.BarrierAddressTraps := by
  intro i f s x hi h ho
  simp only [List.mem_cons, List.not_mem_nil, or_false] at hi
  obtain ⟨body, hexec⟩ : ∃ body : Iss → DWord → BRef → Res, exec i s = issue i s (fun y => y.withObj f (body y)) := by
    rcases hi with rfl | rfl | rfl | rfl | rfl <;> exact ⟨_, rfl⟩
  rw [hexec]
  exact issue_trap h (Iss.withObj_none ho _)

/-- Settles O29: the object's check first, then one request, the wait, or the trap. -/
theorem barrierWords : Obligations.BarrierWords := ⟨barrierRequests_join, barrierWait_reads, barrierAddressTraps⟩

/-- The report of an arrival as a number, by its outcome. -/
theorem arriveReport_eq (ph : Nat) (r : BarRes) :
    arriveReport ph r = BitVec.ofNat 64 (ph + (match r with | .none => 0 | .completed => 2 ^ 32 | .dropped => 2 ^ 33)) := by
  cases r <;> simp [arriveReport]

/-- Settles O31: the request is the first of its issuer, its object exists, and the unit performs it. -/
theorem barrierUnitStep : Obligations.BarrierUnitStep := by
  intro s i q v hq hfirst hgone hobj
  have hany : (s.barq.take i).any (fun p => p.sameIssuer q) = false := by
    simpa only [List.any_eq_false, Bool.not_eq_true] using hfirst
  refine ⟨?_, ?_, ?_, ?_⟩
  · show execBarrier i s = _
    simp only [execBarrier, hq, hany, hgone, hobj, Bool.false_eq_true, if_false]
  · rintro ph ap h
    rw [h]
    rfl
  · rintro ph h
    rw [h]
    exact ⟨rfl, rfl⟩
  · rintro da db h
    rw [h]
    exact ⟨rfl, arriveReport_eq _ _⟩

end Sys2Proof.Machine

/-! ### The fences (spec/09 R184 to R188) -/

namespace Sys2Proof.Machine

section
variable {x : Iss} {sc : Scope} {fa : FenceAt} {p q : Path} {s : State}

/-! #### A release that may not leave -/

theorem Iss.withRelease_wait (h : x.s.released x.k x.g x.f.mask (sc == .sys) = false) (body : Res) :
    x.withRelease true sc body = .wait := by
  simp [Iss.withRelease, Iss.release, h]

theorem Iss.withRelease_trap (h : x.s.released x.k x.g x.f.mask (sc == .sys) = true)
    (hin : (x.s.core x.k.core).eyeletIn x.k.g x.f.mask = false) (hstruck : x.g.sr.eystruck &&& x.f.mask ≠ 0#32) (body : Res) :
    x.withRelease true sc body = .trap { code := 0x0C } := by
  simp [Iss.withRelease, Iss.release, h, hin, hstruck]

/-! #### What a fence from an engine path finds -/

/-- The fence has taken the path's horizon and writes, and they have passed. -/
def Iss.FenceMet (x : Iss) (sc : Scope) (fa : FenceAt) (p : Path) : Prop :=
  ∃ h ∈ fa.hz, h.1 = p ∧ passed (x.s.wall x.k.m) h.2.1 = true ∧ x.s.gwctsIn p sc x.k.core h.2.2 = true

/-- The fence has not taken the path's horizon yet, and what it takes now has passed. -/
def Iss.FenceOpen (x : Iss) (sc : Scope) (fa : FenceAt) (p : Path) : Prop :=
  (∀ h ∈ fa.hz, h.1 ≠ p) ∧ x.s.pathDone x.g.team x.g.gidx fa p = true ∧
    passed (x.s.wall x.k.m) (x.s.horizon p sc x.k.core) = true ∧ x.s.gwctsIn p sc x.k.core x.s.nextId = true

theorem hz_any_eq_false (h : ∀ e ∈ fa.hz, e.1 ≠ p) : fa.hz.any (fun e => e.1 == p) = false := by
  simpa [List.any_eq_false] using h

/-- Whether a path's operations are done does not depend on the horizons that the fence has. -/
theorem State.pathDone_hz (team gidx : Nat) (hz : List (Path × Nat × Nat)) :
    s.pathDone team gidx { fa with hz := hz } p = s.pathDone team gidx fa p := by
  cases p <;> rfl

theorem Iss.fenceFrom_taken (h : ∃ e ∈ fa.hz, e.1 = p) : x.fenceFrom sc fa p = fa := by
  have hany : fa.hz.any (fun e => e.1 == p) = true := by simpa [List.any_eq_true] using h
  simp only [Iss.fenceFrom, hany, Bool.not_true, Bool.and_false, Bool.false_eq_true, if_false]

theorem Iss.fenceFrom_notDone (h : x.s.pathDone x.g.team x.g.gidx fa p = false) : x.fenceFrom sc fa p = fa := by
  simp only [Iss.fenceFrom, h, Bool.false_and, Bool.false_eq_true, if_false]

theorem Iss.fenceFrom_takes (h : ∀ e ∈ fa.hz, e.1 ≠ p) (hd : x.s.pathDone x.g.team x.g.gidx fa p = true) :
    x.fenceFrom sc fa p = { fa with hz := fa.hz ++ [(p, x.s.horizon p sc x.k.core, x.s.nextId)] } := by
  simp only [Iss.fenceFrom, hz_any_eq_false h, hd, Bool.not_false, Bool.and_true, if_true]

/-- Another path's turn leaves the fence or adds that path's horizon alone. -/
theorem Iss.fenceFrom_cases (x : Iss) (sc : Scope) (fa : FenceAt) (q : Path) :
    x.fenceFrom sc fa q = fa ∨ ∃ e, e.1 = q ∧ x.fenceFrom sc fa q = { fa with hz := fa.hz ++ [e] } := by
  unfold Iss.fenceFrom
  split
  · exact .inr ⟨_, rfl, rfl⟩
  · exact .inl rfl

theorem Iss.FenceMet.fenceFrom (h : x.FenceMet sc fa p) (q : Path) : x.FenceMet sc (x.fenceFrom sc fa q) p := by
  obtain heq | ⟨e, -, heq⟩ := x.fenceFrom_cases sc fa q
  · rwa [heq]
  · obtain ⟨h, hmem, hrest⟩ := h
    rw [heq]
    exact ⟨h, List.mem_append_left _ hmem, hrest⟩

theorem Iss.FenceOpen.met (h : x.FenceOpen sc fa p) : x.FenceMet sc (x.fenceFrom sc fa p) p := by
  obtain ⟨hnew, hdone, hpassed, hwrites⟩ := h
  rw [Iss.fenceFrom_takes hnew hdone]
  exact ⟨_, List.mem_append_right _ (List.mem_singleton_self _), rfl, hpassed, hwrites⟩

theorem Iss.FenceOpen.fenceFrom_of_ne (h : x.FenceOpen sc fa p) (hq : q ≠ p) : x.FenceOpen sc (x.fenceFrom sc fa q) p := by
  obtain heq | ⟨e, he, heq⟩ := x.fenceFrom_cases sc fa q
  · rwa [heq]
  · obtain ⟨hnew, hdone, hrest⟩ := h
    rw [heq]
    refine ⟨fun d hd => ?_, by rwa [State.pathDone_hz], hrest⟩
    rcases List.mem_append.mp hd with hd | hd
    · exact hnew d hd
    · rw [List.mem_singleton.mp hd, he]
      exact hq

/-- Going once through the paths, the fence meets each that it had met or finds open. -/
theorem Iss.fenceFrom_foldl_met (ps : List Path) (fa : FenceAt) (h : x.FenceMet sc fa p ∨ (p ∈ ps ∧ x.FenceOpen sc fa p)) :
    x.FenceMet sc (ps.foldl (x.fenceFrom sc) fa) p := by
  induction ps generalizing fa with
  | nil => exact h.resolve_right (fun hp => List.not_mem_nil hp.1)
  | cons q ps ih =>
    refine ih _ ?_
    rcases h with hmet | ⟨hmem, hopen⟩
    · exact .inl (hmet.fenceFrom q)
    · by_cases hq : q = p
      · subst hq
        exact .inl hopen.met
      · exact .inr ⟨(List.mem_cons.mp hmem).resolve_left (Ne.symm hq), hopen.fenceFrom_of_ne hq⟩

theorem Iss.FenceMet.crossed (h : x.FenceMet sc fa p) (q : Path) : x.crossed fa p q sc = true := by
  obtain ⟨e, hmem, hp, hpassed, hwrites⟩ := h
  refine List.any_eq_true.mpr ⟨e, hmem, ?_⟩
  simp [hp, hpassed, hwrites]

/-- A fence crosses from a path when an entry of that path meets the condition of its destination. -/
theorem Iss.crossed_of_mem {e : Path × Nat × Nat} (hmem : e ∈ fa.hz) (hp : e.1 = p)
    (hc : (if q = .group then passed (x.s.wall x.k.m) e.2.1 else x.s.gwctsIn p sc x.k.core e.2.2) = true) :
    x.crossed fa p q sc = true :=
  List.any_eq_true.mpr ⟨e, hmem, by rw [hc, hp]; simp⟩

theorem Iss.crossed_of_not_mem (h : ∀ e ∈ fa.hz, e.1 ≠ p) : x.crossed fa p q sc = false := by
  simpa [Iss.crossed, List.any_eq_false] using fun a b c hm ha => absurd ha (h _ hm)

theorem Iss.crossed_append {e : Path × Nat × Nat} (h : ∀ e ∈ fa.hz, e.1 ≠ p) (he : e.1 = p) :
    x.crossed { fa with hz := fa.hz ++ [e] } p q sc =
      (if q = .group then passed (x.s.wall x.k.m) e.2.1 else x.s.gwctsIn p sc x.k.core e.2.2) := by
  have hold := Iss.crossed_of_not_mem (x := x) (sc := sc) (q := q) h
  simp only [Iss.crossed] at hold ⊢
  rw [List.any_append, hold, Bool.false_or]
  simp [he]

end

section
variable {x : Iss} {sc : Scope} {s : State}

theorem fenceAcq_waits (h : prelude (.fenceAcq sc) s = .go x) :
    (x.acquired = true → exec (.fenceAcq sc) s = .next (x.done (x.step x.g))) ∧
      (x.acquired = false → exec (.fenceAcq sc) s = .next s) :=
  ⟨fun ha => by
    show execFenceAcq sc s = _
    exact issue_ok h (by simp only [ha, if_true]),
  fun ha => by
    show execFenceAcq sc s = _
    exact issue_wait h (by simp only [ha, Bool.false_eq_true, if_false])⟩

theorem fenceFull_goes (h : prelude (.fenceFull sc) s = .go x) (hrel : x.mayRelease true sc) (ha : x.acquired = true)
    (hall : ∀ p ∈ fencePaths sc, x.FenceMet sc x.fence p ∨ x.FenceOpen sc x.fence p) :
    exec (.fenceFull sc) s = .next (x.done (x.step x.g)) := by
  have hmet : ∀ p ∈ fencePaths sc, x.FenceMet sc ((fencePaths sc).foldl (x.fenceFrom sc) x.fence) p := fun p hp =>
    Iss.fenceFrom_foldl_met _ _ ((hall p hp).imp_right fun ho => ⟨hp, ho⟩)
  have hcross : (fencePaths sc).all (fun p => x.crossed ((fencePaths sc).foldl (x.fenceFrom sc) x.fence) p .group sc &&
      (fencePaths sc).all (fun q => p == q || x.crossed ((fencePaths sc).foldl (x.fenceFrom sc) x.fence) p q sc)) = true := by
    refine List.all_eq_true.mpr fun p hp => ?_
    rw [(hmet p hp).crossed, Bool.true_and]
    refine List.all_eq_true.mpr fun q _ => ?_
    rw [(hmet p hp).crossed, Bool.or_true]
  show execFenceFull sc s = _
  refine issue_ok h ?_
  simp only [Iss.withRelease_go hrel, ha, Bool.not_true, Bool.false_eq_true, if_false, hcross, if_true]

theorem fenceX_group {q : Path} (h : prelude (.fenceX .group q sc) s = .go x) :
    (x.s.groupDone x.k x.g x.fence = true → x.s.released x.k x.g x.f.mask (sc == .sys) = true →
      exec (.fenceX .group q sc) s = .next (x.done (x.step x.g))) ∧
    (x.s.groupDone x.k x.g x.fence = false → ∃ t, x.fenceWait x.fence [q] = .hold t ∧ exec (.fenceX .group q sc) s = .next t) := by
  refine ⟨fun hd hr => ?_, fun hd => ⟨_, rfl, ?_⟩⟩
  · show execFenceX .group q sc s = _
    exact issue_ok h (by simp only [if_true, hd, hr, Bool.and_self])
  · show execFenceX .group q sc s = _
    exact issue_found h (by simp only [if_true, hd, Bool.false_and, Bool.false_eq_true, if_false]; rfl)

/-- A fence.x from an engine path goes on or waits as the path is crossed. -/
theorem fenceX_engine {p q : Path} (hp : p ≠ .group) (h : prelude (.fenceX p q sc) s = .go x) :
    (x.crossed (x.fenceFrom sc x.fence p) p q sc = true → exec (.fenceX p q sc) s = .next (x.done (x.step x.g))) ∧
    (x.crossed (x.fenceFrom sc x.fence p) p q sc = false →
      ∃ t, x.fenceWait (x.fenceFrom sc x.fence p) [q] = .hold t ∧ exec (.fenceX p q sc) s = .next t) := by
  refine ⟨fun hc => ?_, fun hc => ⟨_, rfl, ?_⟩⟩
  · show execFenceX p q sc s = _
    exact issue_ok h (by simp only [hp, if_false, hc, if_true])
  · show execFenceX p q sc s = _
    exact issue_found h (by simp only [hp, if_false, hc, Bool.false_eq_true]; rfl)

end

/-- Settles O32: each fence by what its release, its acquire and its paths still wait for. -/
theorem fences : Obligations.Fences := by
  rintro s x sc goes waits rfl hwaits
  refine ⟨fun h => ?_, fenceAcq_waits, fun h => ⟨fun hrel => ?_, fun hr => ?_, fun hr hin hstruck => ?_⟩,
    fun h hrel ha hall => fenceFull_goes h hrel ha hall, fun q h => ?_, fun p q hp h => ⟨fun e he hep hg hn => ?_, fun hnew => ?_⟩⟩
  · simp only [Iss.fence, h, Option.getD_none]
  · show execFenceRel sc s = _
    exact issue_ok h (Iss.withRelease_go hrel _)
  · show execFenceRel sc s = _
    exact issue_wait h (Iss.withRelease_wait hr _)
  · show execFenceRel sc s = _
    exact issue_trap h (Iss.withRelease_trap hr hin hstruck _)
  · obtain ⟨hgo, hwait⟩ := fenceX_group h
    refine ⟨hgo, fun hd => ?_⟩
    obtain ⟨t, ht, hexec⟩ := hwait hd
    cases ht
    rw [hexec, hwaits]
  · have hc : (if q = .group then passed (x.s.wall x.k.m) e.2.1 else x.s.gwctsIn p sc x.k.core e.2.2) = true := by
      split
      · exact hg ‹_›
      · exact hn ‹_›
    exact (fenceX_engine hp h).1 (by rw [Iss.fenceFrom_taken ⟨e, he, hep⟩]; exact Iss.crossed_of_mem he hep hc)
  · obtain ⟨hgo, hwait⟩ := fenceX_engine hp h
    refine ⟨fun hd => ?_, fun hd hc => ?_, fun hd hc => ?_⟩
    · rw [Iss.fenceFrom_notDone hd] at hwait
      obtain ⟨t, ht, hexec⟩ := hwait (Iss.crossed_of_not_mem hnew)
      cases ht
      rw [hexec, hwaits]
    · exact hgo (by rw [Iss.fenceFrom_takes hnew hd, Iss.crossed_append hnew rfl]; exact hc)
    · rw [Iss.fenceFrom_takes hnew hd] at hwait
      obtain ⟨t, ht, hexec⟩ := hwait (by rw [Iss.crossed_append hnew rfl]; exact hc)
      cases ht
      rw [hexec, hwaits]

end Sys2Proof.Machine

/-! ### What an access notes beside its effect -/

namespace Sys2Proof.Machine

section
variable {s t u : State}

theorem AccessNoted.refl (s : State) : AccessNoted s s :=
  ⟨s.cores, s.dies, s.ctxs, s.watches, s.stitches, s.nextId, s.freeCtr, rfl, fun _ => rfl, fun _ => rfl, fun _ => rfl⟩

theorem AccessNoted.trans (h : AccessNoted s t) (h' : AccessNoted t u) : AccessNoted s u := by
  obtain ⟨_, _, _, _, _, _, _, rfl, hcore, hdie, hctx⟩ := h
  obtain ⟨_, _, _, _, _, _, _, rfl, hcore', hdie', hctx'⟩ := h'
  exact ⟨_, _, _, _, _, _, _, rfl, fun k => (hcore' k).trans (hcore k), fun k => (hdie' k).trans (hdie k),
    fun k => (hctx' k).trans (hctx k)⟩

/-! #### The notes -/

theorem AccessNoted.modCtx (s : State) (k : CtxKey) {f : Context → Context}
    (hf : ∀ c, { f c with trig := [], usage := [], sat := [] } = { c with trig := [], usage := [], sat := [] }) :
    AccessNoted s (s.modCtx k f) := by
  obtain ⟨xs, h⟩ := State.modCtx_frame s k f
  refine ⟨s.cores, s.dies, xs, s.watches, s.stitches, s.nextId, s.freeCtr, h, fun j => ?_, fun j => ?_, fun j => ?_⟩
  · rw [h]; rfl
  · rw [h]; rfl
  · rw [State.modCtx_ctx]
    split
    · subst j
      rw [Option.map_map]
      exact congrArg (fun g => Option.map g (s.ctx? k)) (funext hf)
    · rfl

theorem AccessNoted.offer (s : State) (k : CtxKey) (e : TrigEv) : AccessNoted s (s.offer k e) :=
  AccessNoted.modCtx s k fun _ => rfl

theorem AccessNoted.count (s : State) (k : CtxKey) (i n : Nat) : AccessNoted s (s.count k i n) := by
  unfold State.count
  split
  · exact AccessNoted.refl s
  · refine AccessNoted.modCtx s k fun c => ?_
    dsimp only
    split <;> rfl

theorem AccessNoted.countBytes (s : State) (k : CtxKey) (p : Path) (n : Nat) : AccessNoted s (s.countBytes k p n) :=
  AccessNoted.count ..

theorem AccessNoted.setCore (s : State) (k : CoreKey) {c : Core}
    (h : { c with tlb := [], countdown := 0 } = { s.core k with tlb := [], countdown := 0 }) : AccessNoted s (s.setCore k c) := by
  refine ⟨_, s.dies, s.ctxs, s.watches, s.stitches, s.nextId, s.freeCtr, rfl, fun j => ?_, fun _ => rfl, fun _ => rfl⟩
  by_cases hj : j = k
  · subst hj
    rwa [State.setCore_core_self]
  · rw [State.setCore_core_of_ne _ _ _ _ hj]

theorem AccessNoted.noteDieWalk (s : State) (d : DieKey) (es : List TEnt) : AccessNoted s (s.noteDieWalk d es) := by
  unfold State.noteDieWalk
  split
  · exact AccessNoted.refl s
  · refine ⟨s.cores, _, s.ctxs, s.watches, s.stitches, s.nextId, s.freeCtr, rfl, fun _ => rfl, fun j => ?_, fun _ => rfl⟩
    by_cases hj : j = d
    · subst hj
      rw [State.modDie, State.setDie_die_self]
    · rw [show (s.modDie d (fun x => { x with walker := addEntries x.walker es })).die j = s.die j from State.setDie_die_of_ne _ _ _ _ hj]

theorem AccessNoted.noteWalk (s : State) (k : CoreKey) (es : List TEnt) : AccessNoted s (s.noteWalk k es) := by
  unfold State.noteWalk
  refine AccessNoted.trans ?_ (AccessNoted.noteDieWalk ..)
  split
  · exact AccessNoted.refl s
  · exact AccessNoted.setCore s k rfl

theorem AccessNoted.noteParts (s : State) (k : GKey) (key : CtxKey) (ps : List XPart) : AccessNoted s (s.noteParts k key ps) :=
  AccessNoted.noteWalk ..

/-- A new watch hit, stitch record or number. -/
theorem AccessNoted.tables (s : State) (w : List WatchAcc) (y : List Stitch) (n c : Nat) :
    AccessNoted s { s with watches := w, stitches := y, nextId := n, freeCtr := c } :=
  ⟨s.cores, s.dies, s.ctxs, w, y, n, c, rfl, fun _ => rfl, fun _ => rfl, fun _ => rfl⟩

theorem AccessNoted.fresh (s : State) : AccessNoted s s.fresh.2 := AccessNoted.tables s s.watches s.stitches (s.nextId + 1) s.freeCtr

/-- A pass over a list of which every turn only notes. -/
theorem AccessNoted.foldl {α β : Type} (π : β → State) {f : β → α → β} (h : ∀ b a, AccessNoted (π b) (π (f b a))) (l : List α) (b : β) :
    AccessNoted (π b) (π (l.foldl f b)) := by
  induction l generalizing b with
  | nil => exact AccessNoted.refl _
  | cons a l ih => exact (h b a).trans (ih _)

theorem AccessNoted.noteTouch (s : State) (a : WatchAcc) (core : Nat) (hits : List Nat) (as : List (DWord × Nat)) :
    AccessNoted s (s.noteTouch a core hits as).1 := by
  unfold State.noteTouch
  dsimp only
  refine AccessNoted.trans (AccessNoted.foldl id (fun _ _ => AccessNoted.offer ..) as s)
    (AccessNoted.foldl Prod.fst (fun r w => ?_) (List.range 4) (_, hits))
  split
  · exact AccessNoted.refl _
  · split
    · exact AccessNoted.tables r.1 _ r.1.stitches r.1.nextId r.1.freeCtr
    · exact AccessNoted.refl _

theorem AccessNoted.noteAccess (x : Iss) (s : State) (kind : Nat) (as : List (DWord × Nat)) : AccessNoted s (x.noteAccess s kind as) :=
  AccessNoted.noteTouch ..

theorem AccessNoted.sampleOne (s : State) (k : GKey) (g : Group) (q : Sampled) (mark : Option (BitVec 12)) :
    AccessNoted s (s.sampleOne k g q mark) := by
  unfold State.sampleOne
  extract_lets lg on c left take u
  have hu : AccessNoted s u := by
    simp only [u]
    split
    · exact AccessNoted.refl s
    · exact AccessNoted.setCore s k.core rfl
  split
  · exact hu
  · exact hu.trans ((AccessNoted.fresh u).trans (AccessNoted.tables ..))

theorem AccessNoted.sample (s : State) (k : GKey) (g : Group) (mark : Option (BitVec 12)) (qs : List Sampled) :
    AccessNoted s (s.sample k g mark qs) := by
  unfold State.sample
  split
  · exact AccessNoted.refl s
  · exact (AccessNoted.sampleOne ..).trans (AccessNoted.foldl id (fun _ _ => AccessNoted.sampleOne ..) _ _)

/-! #### What they leave -/

theorem AccessNoted.groups (h : AccessNoted s t) : t.groups = s.groups := by
  obtain ⟨_, _, _, _, _, _, _, rfl, -⟩ := h
  rfl

theorem AccessNoted.core (h : AccessNoted s t) (k : CoreKey) :
    { t.core k with tlb := [], countdown := 0 } = { s.core k with tlb := [], countdown := 0 } := by
  obtain ⟨_, _, _, _, _, _, _, rfl, hcore, -⟩ := h
  exact hcore k

end

end Sys2Proof.Machine

/-! ### Lock words (spec/08 R153, R156, R162) -/

namespace Sys2Proof.Machine

/-! #### A group's fragments -/

theorem Group.setFrag_frame (g : Group) (sl : Slot) (f : Option Frag) : ∃ a b, g.setFrag sl f = { g with f0 := a, f1 := b } := by
  cases sl
  · exact ⟨f, g.f1, rfl⟩
  · exact ⟨g.f0, f, rfl⟩

theorem Group.unmark_frame (g : Group) (sl : Slot) : ∃ a b, g.unmark sl = { g with f0 := a, f1 := b } := by
  unfold Group.unmark
  split
  · exact Group.setFrag_frame ..
  · exact ⟨g.f0, g.f1, rfl⟩

@[simp] theorem Group.setFrag_locks (g : Group) (sl : Slot) (f : Option Frag) : (g.setFrag sl f).locks = g.locks := by
  obtain ⟨a, b, h⟩ := g.setFrag_frame sl f
  rw [h]

@[simp] theorem Group.unmark_locks (g : Group) (sl : Slot) : (g.unmark sl).locks = g.locks := by
  obtain ⟨a, b, h⟩ := g.unmark_frame sl
  rw [h]

@[simp] theorem Group.unmark_regs (g : Group) (sl : Slot) : (g.unmark sl).regs = g.regs := by
  obtain ⟨a, b, h⟩ := g.unmark_frame sl
  rw [h]

/-! #### lck and lck.try -/

theorem lockLine_skipped {x : Iss} (base : SReg) (off : BitVec 12) (h : x.act = 0#32) : x.lockLine base off = .skipped := by
  rw [Iss.lockLine, lowest, (lanesOf_eq_nil_iff _).mpr h]
  rfl

theorem Group.lockLimit_iff (g : Group) (l : Nat) : g.lockLimit l = true ↔
    g.locks.any (fun h => h.line = l) = true ∨ 4 ≤ g.locks.length ∨ ∃ fl ∈ g.flights, ∃ d l' v t b, fl.kind = .lock d l' v t b := by
  have hkind (fl : Flight) : (match fl.kind with
      | .lock .. => true
      | .value | .load .. | .atom .. | .bar .. | .qpop .. | .launch .. | .shuttle .. => false) = true ↔
      ∃ d l' v t b, fl.kind = .lock d l' v t b := by
    cases fl.kind <;> simp
  rw [Group.lockLimit, Bool.or_eq_true, Bool.or_eq_true, decide_eq_true_eq, or_assoc, List.any_eq_true (l := g.flights)]
  exact or_congr Iff.rfl (or_congr Iff.rfl (exists_congr fun fl => and_congr_right fun _ => hkind fl))

theorem lockRequests_open : Claims.LockRequests := by
  intro f i tmo s x h hi
  obtain ⟨hexec, hdests⟩ : exec i s = issue i s (fun y => y.lck i f (match i with
      | .lckTry f => some ((y.g.regs.rdS f.d.val).toNat % 2 ^ 32)
      | _ => none)) ∧ (match i with
      | .lckTry f => some ((x.g.regs.rdS f.d.val).toNat % 2 ^ 32)
      | _ => none) = tmo := by
    rcases hi with ⟨rfl, rfl⟩ | ⟨rfl, rfl⟩ <;> exact ⟨rfl, rfl⟩
  rw [hexec]
  refine ⟨fun hact => ?_, fun l va hline => ⟨fun hlim => ⟨_, AccessNoted.noteWalk x.s x.k.core (x.s.walked x.g.key va), ?_⟩,
    fun hheld hroom hnone => ⟨_, _, (AccessNoted.noteWalk x.s x.k.core (x.s.walked x.g.key va)).trans
      (AccessNoted.sample _ x.k x.g x.f.mark (x.requests 2 x.g.nextId [((lanesOf x.act).headD 0, va)])), ?_, rfl⟩⟩⟩
  · refine issue_ok h ?_
    simp only [Iss.lck, lockLine_skipped _ _ hact]
  · refine issue_ok h ?_
    simp only [Iss.lck, hline, (Group.lockLimit_iff _ _).mpr hlim, if_true]
  · have hfree : x.g.lockLimit l = false := by
      rw [← Bool.not_eq_true, Group.lockLimit_iff]
      rintro (hl | hl | ⟨fl, hfl, d, l', v, t, b, hk⟩)
      · rw [hheld] at hl
        cases hl
      · omega
      · exact hnone fl hfl d l' v t b hk
    refine issue_ok h ?_
    simp only [Iss.lck, hline, hfree, Bool.false_eq_true, if_false, hdests]

/-! #### unlk -/

/-- The unlock's request, where the line's home is another module. -/
def State.unlkReq (s : State) (m l i : Nat) (who : ReqWho) : Option Nat × State :=
  if lineMod l = m then (none, s) else (some (s.newReqFor m (lineMod l) (.unlk i) (some who)).1,
    (s.newReqFor m (lineMod l) (.unlk i) (some who)).2)

theorem State.unlkReq_spec (s : State) (m l i : Nat) (who : ReqWho) :
    ((s.unlkReq m l i who).1 = none ↔ lineMod l = m) ∧ ∃ rs n, (s.unlkReq m l i who).2 = { s with reqs := rs, nextId := n } := by
  unfold State.unlkReq
  split
  · exact ⟨by simpa, s.reqs, s.nextId, rfl⟩
  · exact ⟨by simpa, _, _, rfl⟩

/-- The state that an unlk leaves beside its group. -/
def Iss.unlked (x : Iss) (l : Nat) (va : DWord) : State :=
  let s := (x.s.noteWalk x.k.core (x.s.walked x.g.key va)).sample x.k x.g x.f.mark (x.requests 2 x.g.nextId [((lanesOf x.act).headD 0, va)])
  let s := s.modLine l (fun y => { y with lock := y.lock.map (fun e => { e with st := .handoff }) })
  let r := s.fresh.2.unlkReq x.k.m l s.fresh.1 ⟨x.g.key, x.g.team, va, x.f.pc, x.k.g⟩
  { r.2 with unlks := r.2.unlks ++ [⟨s.fresh.1, x.k, x.g.key, x.g.team, x.g.gidx, x.f.mask, l, va, x.f.pc, r.1, false, x.g.nextId⟩] }

theorem Iss.unlked_spec (x : Iss) (l : Nat) (va : DWord) :
    (∃ i r, (x.unlked l va).unlks = x.s.unlks ++
        [⟨i, x.k, x.g.key, x.g.team, x.g.gidx, x.f.mask, l, va, x.f.pc, r, false, x.g.nextId⟩] ∧ (r = none ↔ lineMod l = x.k.m)) ∧
      ((x.unlked l va).line l).lock = (x.s.line l).lock.map (fun e => { e with st := .handoff }) ∧
      (∀ l', l' ≠ l → (x.unlked l va).line l' = x.s.line l') ∧ (x.unlked l va).mem = x.s.mem := by
  unfold Iss.unlked
  extract_lets s0 s r
  obtain ⟨_, _, _, _, _, _, _, hs0, -⟩ : AccessNoted x.s s0 := (AccessNoted.noteWalk ..).trans (AccessNoted.sample ..)
  obtain ⟨hnone, rs, n, hr⟩ := s.fresh.2.unlkReq_spec x.k.m l s.fresh.1 ⟨x.g.key, x.g.team, va, x.f.pc, x.k.g⟩
  have hr' : r.2 = { s.fresh.2 with reqs := rs, nextId := n } := hr
  have hline (j : Nat) : s0.line j = x.s.line j := by rw [hs0]; rfl
  have hlast (j : Nat) : ({ r.2 with unlks := r.2.unlks ++
      [⟨s.fresh.1, x.k, x.g.key, x.g.team, x.g.gidx, x.f.mask, l, va, x.f.pc, r.1, false, x.g.nextId⟩] } : State).line j = s.line j := by
    rw [hr']; rfl
  refine ⟨⟨s.fresh.1, r.1, ?_, hnone⟩, ?_, fun j hj => ?_, ?_⟩
  · rw [hr']
    show s0.unlks ++ _ = _
    rw [hs0]
  · rw [hlast, show s.line l = _ from State.setLine_line_self .., hline]
  · rw [hlast, show s.line j = _ from State.setLine_line_of_ne _ _ _ _ hj, hline]
  · have hmem : r.2.mem = s0.mem := by rw [hr']; rfl
    show r.2.mem = _
    rw [hmem, hs0]

theorem unlockWord_hands : Claims.UnlockWord := by
  intro f s x h
  refine ⟨fun hact => ⟨(x.g.unmark x.sl).goto x.sl x.f x.next, ?_, by simp [Group.goto], by simp [Group.goto],
      _, Group.frag_setFrag_self .., rfl⟩, fun l va hline => ⟨fun hfree => ?_, fun ⟨hl, hmem, hheld⟩ hrel => ?_⟩⟩
  · show execUnlk f s = _
    refine issue_ok h ?_
    simp only [lockLine_skipped _ _ hact]
    rfl
  · have hany : x.g.locks.any (fun e => e.line == l) = false := by simpa [List.any_eq_false] using hfree
    show execUnlk f s = _
    refine issue_trap h ?_
    simp only [hline, hany, Bool.not_false, if_true]
  · have hany : x.g.locks.any (fun e => e.line == l) = true := by simpa [List.any_eq_true] using ⟨hl, hmem, hheld⟩
    refine ⟨x.unlked l va, Group.goto { (x.g.unmark x.sl) with
      locks := x.g.locks.filter (fun e => e.line ≠ l), nextId := x.g.nextId + 1 } x.sl { x.f with mark := none } x.next, ?_,
      by simp [Group.goto], by simp [Group.goto], ⟨_, Group.frag_setFrag_self .., rfl⟩, x.unlked_spec l va⟩
    show execUnlk f s = _
    refine issue_ok h ?_
    simp only [hline, hany, Bool.not_true, Bool.false_eq_true, if_false, Iss.withRelease_go hrel]
    rfl

/-- Settles O28: by what the address and the group's locks say, and then by the release. -/
theorem lockWords : Obligations.LockWords := ⟨lockRequests_open, unlockWord_hands⟩

end Sys2Proof.Machine

/-! ### Copies (spec/10 R196, R197, R201, R202) -/

namespace Sys2Proof.Machine

/-! #### The pieces of a copy -/

/-- The cuts of n bytes have n bytes together. -/
theorem cuts32_sum (a n : Nat) : ((cuts32 a n).map (fun p => p.2)).sum = n := by
  cases n with
  | zero => rfl
  | succ n =>
    have hlast (r f : Nat) : ((if r = 0 then [] else [(f, r)] : List (Nat × Nat)).map (fun p => p.2)).sum = r := by
      split <;> simp_all
    simp only [cuts32, List.map_cons, List.map_append, List.map_map, List.sum_cons, List.sum_append, hlast]
    simp only [Function.comp_def, List.map_const', List.length_range, List.sum_replicate, smul_eq_mul]
    have := Nat.div_add_mod (n + 1 - min (n + 1) (32 - a % 32)) 32
    omega

/-- Each cut holds a byte, lies among the n bytes, and stays within an aligned range of 32 bytes. -/
theorem cuts32_mem {a n : Nat} {p : Nat × Nat} (h : p ∈ cuts32 a n) : 0 < p.2 ∧ p.1 + p.2 ≤ n ∧ (a + p.1) % 32 + p.2 ≤ 32 := by
  cases n with
  | zero => cases h
  | succ n =>
    have hdiv := Nat.div_add_mod (n + 1 - min (n + 1) (32 - a % 32)) 32
    simp only [cuts32, List.mem_cons, List.mem_append, List.mem_map, List.mem_range] at h
    rcases h with rfl | ⟨i, hi, rfl⟩ | h
    · dsimp only
      omega
    · dsimp only
      omega
    · split at h
      · cases h
      · rw [List.mem_singleton.mp h]
        dsimp only
        omega

theorem copyPiecesCover : Claims.CopyPiecesCover := by
  intro c
  constructor
  · have hrows (l : List Int) (g : Int → List Piece) (h : ∀ i, ((g i).map (fun p => p.len)).sum = c.len) :
        ((l.flatMap g).map (fun p => p.len)).sum = l.length * c.len := by
      induction l with
      | nil => simp
      | cons i l ih => rw [List.flatMap_cons, List.map_append, List.sum_append, h, ih, List.length_cons, Nat.succ_mul, Nat.add_comm]
    rw [CopyArgs.pieces, hrows _ _ fun i => by rw [List.map_map]; exact cuts32_sum ..]
    simp
  · intro p hp
    obtain ⟨i, hi, hp⟩ := List.mem_flatMap.mp hp
    obtain ⟨q, hq, rfl⟩ := List.mem_map.mp hp
    obtain ⟨k, hk, rfl⟩ : ∃ j : Nat, j < c.rows ∧ i = (j : Int) := by simpa [eq_comm] using hi
    obtain ⟨hpos, hle, hin⟩ := cuts32_mem hq
    refine ⟨rfl, hpos, ?_, k, q.1, hk, hle, rfl, rfl⟩
    dsimp only
    rw [BitVec.toNat_add, BitVec.toNat_ofNat]
    omega

/-! #### The words -/

/-- The operation that a copy word puts into the queue. -/
def Iss.copyOp (x : Iss) (f : CpyF) (c : CopyArgs) : CopyOp :=
  ⟨x.s.nextId, x.g.team, x.g.gidx, x.g.key, x.f.pc, f.dlv, f.slv, x.k.die,
    x.s.copyObj x.g.team x.g.key x.k.die f (x.g.regs.rdS f.c.val), c.pieces, 0, c.rows * c.len, x.k.g, ⟨[], none, []⟩⟩

theorem copyRequests_join : Claims.CopyRequests := by
  rintro f s x two c i rfl rfl h
  have hexec : exec (if two then .cpy2d f else .cpy f) s = issue (if two then .cpy2d f else .cpy f) s (fun y => y.copy f two
      (if two then ⟨(y.g.regs.rdS f.b.val).toNat / 2 ^ 32 % 2 ^ 16, (y.g.regs.rdS f.b.val).toNat % 2 ^ 32,
        y.g.regs.rdS f.a.val, y.g.regs.rdS f.d.val, f.sstride.toInt, f.dstride.toInt⟩
      else ⟨1, (y.g.regs.rdS f.b.val).toNat % 2 ^ 32, y.g.regs.rdS f.a.val, y.g.regs.rdS f.d.val, 0, 0⟩)) := by
    cases two <;> rfl
  generalize hc : (if two then CopyArgs.mk ((x.g.regs.rdS f.b.val).toNat / 2 ^ 32 % 2 ^ 16) ((x.g.regs.rdS f.b.val).toNat % 2 ^ 32)
      (x.g.regs.rdS f.a.val) (x.g.regs.rdS f.d.val) f.sstride.toInt f.dstride.toInt
    else ⟨1, (x.g.regs.rdS f.b.val).toNat % 2 ^ 32, x.g.regs.rdS f.a.val, x.g.regs.rdS f.d.val, 0, 0⟩) = c
  rw [hexec]
  refine ⟨fun t ht => issue_trap h ?_, fun hnone => ⟨fun h0 => issue_ok h ?_, fun hr hl hq hg => ⟨x.copyOp f c, issue_ok h ?_, rfl, rfl, rfl, rfl,
    rfl, rfl, rfl, rfl, rfl, rfl, rfl, rfl, rfl, rfl⟩, fun hr hl hfull => issue_wait h ?_⟩⟩
  · simp only [hc, Iss.copy, ht]
  · simp only [hc, Iss.copy, hnone, h0, if_true]
    rfl
  · have hroom : (decide (64 ≤ (x.s.core x.k.core).copies.length) || decide (16 ≤ x.s.copiesOf x.g.team x.g.gidx)) = false := by
      simp [hq, hg]
    simp only [hc, Iss.copy, hnone, hr, hl, or_self, if_false, hroom, Bool.false_eq_true]
    rfl
  · have hfull' : (decide (64 ≤ (x.s.core x.k.core).copies.length) || decide (16 ≤ x.s.copiesOf x.g.team x.g.gidx)) = true := by
      simpa using hfull
    simp only [hc, Iss.copy, hnone, hr, hl, or_self, if_false, hfull', if_true]

theorem copyWait_counts : Claims.CopyWait := by
  intro d n s x h
  refine ⟨fun hmore => ?_, fun hfew => ?_⟩
  · show execCpyWait d n s = _
    exact issue_wait h (by simp only [hmore, if_true])
  · show execCpyWait d n s = _
    exact issue_ok h (by simp only [Nat.not_lt.mpr hfew, if_false])

/-- Settles O33: the words by their checks and the queue's room, the pieces by the cuts of one row. -/
theorem copyWords : Obligations.CopyWords := ⟨copyRequests_join, copyPiecesCover, copyWait_counts⟩

end Sys2Proof.Machine

/-! ### The translated parts of an access, and its traps (spec/07 R129, R130; spec/08 R143) -/

namespace Sys2Proof.Machine

section
variable {x : Iss} {acc : AccKind} {n : Nat} {ea : Nat → DWord}

/-! #### An access of which every part translates -/

theorem trapOf_eq_none {ps : List XPart} (h : ∀ p ∈ ps, ∀ c, p.fate ≠ .trap c) : trapOf ps = none := by
  have hnone (c : Nat) : ps.filter (fun p => p.fate == .trap c) = [] :=
    List.filter_eq_nil_iff.mpr fun p hp => by simpa using h p hp c
  simp only [trapOf, hnone, Option.map_eq_none_iff, List.findSome?_eq_none_iff, implies_true]

/-- The part has met a fault that the system can serve. -/
def XPart.faulted (p : XPart) : Bool :=
  match p.fate with
  | .fault _ _ => true
  | .ok .. | .trap _ | .wait => false

/-- When every part translates, the access goes on with all of them. -/
theorem decide130_ok {s : State} {ps : List XPart} (h : ∀ p ∈ ps, ∃ pa leaf, p.fate = .ok pa leaf) (k : CtxKey) (team grp : Nat)
    (pc : DWord) : s.decide130 k team grp pc ps = .go ps 0#32 none := by
  have hwait : ps.any (fun p => p.fate == .wait) = false := by
    refine List.any_eq_false.mpr fun p hp => ?_
    obtain ⟨pa, leaf, hok⟩ := h p hp
    simp [hok]
  unfold State.decide130
  rw [trapOf_eq_none fun p hp c => by obtain ⟨pa, leaf, hok⟩ := h p hp; simp [hok]]
  simp only [hwait, Bool.false_eq_true, if_false]
  have hnil : ps.filter XPart.faulted = [] := List.filter_eq_nil_iff.mpr fun p hp => by
    obtain ⟨pa, leaf, hok⟩ := h p hp
    simp only [XPart.faulted, hok, Bool.false_eq_true, not_false_eq_true]
  change XRes.go (ps.filter (fun p => !(maskOf ((ps.filter XPart.faulted).map (fun p => p.lane))).getLsbD p.lane))
    (maskOf ((ps.filter XPart.faulted).map (fun p => p.lane))) _ = _
  rw [hnil, List.findSome?_eq_none_iff.mpr fun p hp => by obtain ⟨pa, leaf, hok⟩ := h p hp; simp only [hok]]
  simp only [List.map_nil, maskOf, List.foldl_nil, BitVec.getLsbD_zero, Bool.not_false, List.filter_true]

theorem Iss.allTranslate.decide130 (h : x.allTranslate acc n ea) :
    x.s.decide130 x.g.key x.g.team x.k.g x.f.pc (x.s.parts x.g.key acc x.act n ea) = .go (x.s.parts x.g.key acc x.act n ea) 0#32 none :=
  decide130_ok h ..

/-- Every active lane has a part. -/
theorem exists_part (s : State) (k : CtxKey) (acc : AccKind) (act : LaneMask) (ea : Nat → DWord) (hn : 0 < n) {l : Nat}
    (hl : l ∈ lanesOf act) : ∃ p ∈ s.parts k acc act n ea, p.lane = l := by
  have hcut : ∃ c, c ∈ sectorCuts (ea l).toNat n := by
    unfold sectorCuts
    dsimp only
    rw [if_neg (by omega)]
    split <;> exact ⟨_, List.mem_cons_self⟩
  obtain ⟨c, hc⟩ := hcut
  exact ⟨_, List.mem_flatMap.mpr ⟨l, hl, List.mem_map.mpr ⟨c, hc, rfl⟩⟩, rfl⟩

theorem Iss.marked_parts (x : Iss) (acc : AccKind) (ea : Nat → DWord) (hn : 0 < n) : x.marked (x.s.parts x.g.key acc x.act n ea) = true := by
  unfold Iss.marked
  cases hh : (lanesOf x.act).head? with
  | none => rfl
  | some l =>
    obtain ⟨p, hp, hpl⟩ := exists_part x.s x.g.key acc x.act ea hn (List.mem_of_mem_head? hh)
    exact List.any_eq_true.mpr ⟨p, hp, by simp [hpl]⟩

/-- With a part for every active lane the lowest one carries the smark, and the word spends it. -/
theorem Iss.carrying_parts (x : Iss) (acc : AccKind) (ea : Nat → DWord) (hn : 0 < n) :
    x.carrying (x.s.parts x.g.key acc x.act n ea) = x := by
  rw [Iss.carrying, x.marked_parts acc ea hn, if_pos rfl]

theorem Iss.spent_parts (x : Iss) (acc : AccKind) (ea : Nat → DWord) (hn : 0 < n) (g : Group) (kind : Nat) :
    x.spent g kind (x.s.parts x.g.key acc x.act n ea) none = g.unmark x.sl := by
  rw [Iss.spent, x.marked_parts acc ea hn, if_pos rfl]
  rfl

/-- A word all of whose lanes take effect goes on to the next word. -/
theorem Iss.finishX_none (x : Iss) (s : State) (g : Group) (bad : LaneMask) (acc : AccKind) :
    x.finishX s g bad none acc = s.setGroup x.k (g.setFrag x.sl (some { ((g.frag x.sl).getD x.f) with pc := x.next, only := none })) := rfl

theorem sizeBytes_pos (z : MSize) : 0 < sizeBytes z := by cases z <;> decide
theorem asizeBytes_pos (z : ASize) : 0 < asizeBytes z := by cases z <;> decide

end

/-! #### The trap rows -/

/-- The first element of a list at which a partial function has a value. -/
theorem findSome?_of_takeWhile {α β : Type} [DecidableEq α] {g : α → Option β} {l : List α} {a : α} {b : β} (ha : a ∈ l)
    (hbefore : ∀ c ∈ l.takeWhile (fun c => c ≠ a), g c = none) (hb : g a = some b) : l.findSome? g = some b := by
  induction l with
  | nil => cases ha
  | cons c l ih =>
    by_cases hc : c = a
    · subst hc
      simp [hb]
    · have hwhile : (c :: l).takeWhile (fun c => c ≠ a) = c :: l.takeWhile (fun c => c ≠ a) := by simp [hc]
      rw [hwhile] at hbefore
      rw [List.findSome?_cons, hbefore c List.mem_cons_self]
      exact ih ((List.mem_cons.mp ha).resolve_left (Ne.symm hc)) fun d hd => hbefore d (List.mem_cons_of_mem _ hd)

/-- The first match of a list heads the list of its matches. -/
theorem filter_eq_cons_of_find? {α : Type} {f : α → Bool} {l : List α} {a : α} (h : l.find? f = some a) :
    ∃ as, l.filter f = a :: as := by
  rw [← List.head?_filter] at h
  exact List.head?_eq_some_iff.mp h

theorem trapOf_first {ps : List XPart} {c : Nat} {p : XPart} (hc : c ∈ trapRows) (hp : ps.find? (fun q => q.fate = .trap c) = some p)
    (hbefore : ∀ d ∈ trapRows.takeWhile (fun d => d ≠ c), ∀ q ∈ ps, q.fate ≠ .trap d) :
    trapOf ps = some { code := c, lanes := some (maskOf ((ps.filter (fun q => q.fate = .trap c)).map (fun q => q.lane))), addr := p.va, detail := 0 } := by
  obtain ⟨qs, hqs⟩ := filter_eq_cons_of_find? hp
  have hqs' : ps.filter (fun q => q.fate == .trap c) = p :: qs := hqs
  have hrows : trapRows.findSome? (fun c => match ps.filter (fun p => p.fate == .trap c) with
      | [] => none
      | p :: q => some (c, p, p :: q)) = some (c, p, p :: qs) := by
    refine findSome?_of_takeWhile hc (fun d hd => ?_) (by simp only [hqs'])
    have hnil : ps.filter (fun p => p.fate == .trap d) = [] :=
      List.filter_eq_nil_iff.mpr fun q hq => by simpa using hbefore d hd q hq
    simp only [hnil]
  unfold trapOf
  rw [hqs]
  exact congrArg (Option.map _) hrows

theorem translationTrapOrder : Claims.TranslationTrapOrder := by
  intro s k team grp pc ps c p hc hp hbefore
  unfold State.decide130
  rw [trapOf_first hc hp hbefore]
  exact ⟨_, rfl, rfl, rfl, rfl⟩

theorem globalWordsTrap : Claims.GlobalWordsTrap := by
  refine fun s x t => ⟨fun f h ht => ?_, fun f h ht => ?_, fun f h ht => ?_, fun f h ht => ?_⟩
  · show execLdg f s = _
    exact issue_trap h (by simp only [Iss.ldGlobal, ht])
  · show execLdSpec f s = _
    exact issue_trap h (by simp only [Iss.ldGlobal, ht])
  · show execStg f s = _
    exact issue_trap h (by simp only [ht])
  · show execCwb f s = _
    exact issue_trap h (by simp only [ht])

/-! #### Atomics and reductions as their operation -/

theorem exec_atom {i : Instr} {o : AtomOp} {la : Nat} (h : (∃ p ∈ atomOps, ∃ f, i = p.2 f ∧ o = AtomF.toOp f p.1 ∧ la = f.la.val) ∨
    (∃ p ∈ atomFOps, ∃ f, i = p.2 f ∧ o = AtomFF.toOp f p.1 ∧ la = f.la.val)) (s : State) :
    exec i s = issue i s (fun x => x.atom i o la) := by
  rcases h with ⟨p, hp, f, rfl, rfl, rfl⟩ | ⟨p, hp, f, rfl, rfl, rfl⟩
  · simp only [atomOps, List.mem_cons, List.not_mem_nil, or_false] at hp
    rcases hp with rfl | rfl | rfl | rfl | rfl | rfl | rfl | rfl <;> rfl
  · simp only [atomFOps, List.mem_cons, List.not_mem_nil, or_false] at hp
    rcases hp with rfl | rfl <;> rfl

theorem exec_red {i : Instr} {o : AtomOp} (h : (∃ p ∈ redOps, ∃ f, i = p.2 f ∧ o = AtomF.toOp f p.1) ∨
    (∃ p ∈ redFOps, ∃ f, i = p.2 f ∧ o = AtomFF.toOp f p.1)) (s : State) : exec i s = issue i s (fun x => x.red o) := by
  rcases h with ⟨p, hp, f, rfl, rfl⟩ | ⟨p, hp, f, rfl, rfl⟩
  · simp only [redOps, List.mem_cons, List.not_mem_nil, or_false] at hp
    rcases hp with rfl | rfl | rfl | rfl | rfl | rfl <;> rfl
  · simp only [redFOps, List.mem_cons, List.not_mem_nil, or_false] at hp
    rcases hp with rfl | rfl <;> rfl

/-- The trap of a word that crosses a sector, at the address of lane l. -/
def sectorFault (act : LaneMask) (n : Nat) (ea : Nat → DWord) (l : Nat) : TrapInfo :=
  { code := 0x0B, lanes := some (maskOf ((lanesOf act).filter (fun l => 32 < (ea l).toNat % 32 + n))), addr := ea l }

theorem sectorTrap_first {act : LaneMask} {n l : Nat} {ea : Nat → DWord}
    (h : (lanesOf act).find? (fun l => 32 < (ea l).toNat % 32 + n) = some l) :
    sectorTrap act n ea = some (sectorFault act n ea l) := by
  obtain ⟨ls, hls⟩ := filter_eq_cons_of_find? h
  simp only [sectorTrap, sectorFault, hls]

theorem sectorCrossingTraps : Claims.SectorCrossingTraps := by
  intro i o hi s x l h hl
  refine ⟨sectorFault x.act (asizeBytes o.size) (x.g.regs.ea o.addr) l, ?_, rfl, rfl, rfl⟩
  rcases hi with ⟨p, hp, f, hi, ho⟩ | ⟨p, hp, f, hi, ho⟩ <;> rcases List.mem_append.mp hp with hp | hp
  · rw [exec_atom (.inl ⟨p, hp, f, hi, ho, rfl⟩)]
    exact issue_trap h (by simp only [Iss.atom, sectorTrap_first hl])
  · rw [exec_red (.inl ⟨p, hp, f, hi, ho⟩)]
    exact issue_trap h (by simp only [Iss.red, sectorTrap_first hl])
  · rw [exec_atom (.inr ⟨p, hp, f, hi, ho, rfl⟩)]
    exact issue_trap h (by simp only [Iss.atom, sectorTrap_first hl])
  · rw [exec_red (.inr ⟨p, hp, f, hi, ho⟩)]
    exact issue_trap h (by simp only [Iss.red, sectorTrap_first hl])

/-- Settles O24: the first row of R130 with a part, which every global word takes, and the sector check before it. -/
theorem accessTraps : Obligations.AccessTraps := ⟨translationTrapOrder, globalWordsTrap, sectorCrossingTraps⟩

end Sys2Proof.Machine

/-! ### Flags and shuttles at issue (spec/11 R237 to R240) -/

namespace Sys2Proof.Machine

/-! #### The issuing fragment -/

/-- The group that a word sees holds the issuing fragment. -/
theorem prelude_go_frag {i : Instr} {s : State} {x : Iss} (h : prelude i s = .go x) : x.g.frag x.sl = some x.f := by
  obtain ⟨g, f, -, -, -, -, -, -, -, -, hsl, hf, hg, -, -⟩ := prelude_go h
  rw [hg, hf, hsl, Group.frag_setFrag_self]

theorem Group.unmark_eq {g : Group} {sl : Slot} {f : Frag} (h : g.frag sl = some f) :
    g.unmark sl = g.setFrag sl (some { f with mark := none }) := by
  simp only [Group.unmark, h]

theorem Group.setFrag_setFrag (g : Group) (sl : Slot) (a b : Option Frag) : (g.setFrag sl a).setFrag sl b = g.setFrag sl b := by
  cases sl <;> rfl

/-! #### Words that send one thing for each of a list -/

/-- A pass whose turns each append to one table and keep what I says. -/
theorem foldl_sends {α β τ : Type} {tbl : State → List τ} {turn : State → α → State} {tag : τ → β} {want : α → β} {Q : τ → Prop}
    {I : State → Prop} (hturn : ∀ s a, I s → (∃ f, tbl (turn s a) = tbl s ++ [f] ∧ tag f = want a ∧ Q f) ∧ I (turn s a))
    (l : List α) {s : State} (hs : I s) :
    ∃ fs, tbl (l.foldl turn s) = tbl s ++ fs ∧ I (l.foldl turn s) ∧ fs.map tag = l.map want ∧ ∀ f ∈ fs, Q f := by
  induction l generalizing s with
  | nil => exact ⟨[], by simp, hs, rfl, by simp⟩
  | cons a l ih =>
    obtain ⟨⟨f, hf, htag, hQ⟩, hI⟩ := hturn s a hs
    obtain ⟨fs, hfs, hI', hmap, hall⟩ := ih hI
    refine ⟨f :: fs, ?_, hI', ?_, ?_⟩
    · rw [List.foldl_cons, hfs, hf, List.append_assoc, List.singleton_append]
    · rw [List.map_cons, List.map_cons, htag, hmap]
    · rintro q (_ | ⟨_, hq⟩)
      · exact hQ
      · exact hall q hq

/-- The memory, the groups and the modules are those of a state. -/
def State.Keeps (s t : State) : Prop := t.mem = s.mem ∧ t.groups = s.groups ∧ t.mods = s.mods

theorem AccessNoted.keeps {s t : State} (h : AccessNoted s t) : s.Keeps t := by
  obtain ⟨_, _, _, _, _, _, _, rfl, -⟩ := h
  exact ⟨rfl, rfl, rfl⟩

theorem State.Keeps.trans {s t u : State} (h : s.Keeps t) (h' : t.Keeps u) : s.Keeps u :=
  ⟨h'.1.trans h.1, h'.2.1.trans h.2.1, h'.2.2.trans h.2.2⟩

theorem State.Keeps.wall {s t : State} (h : s.Keeps t) (m : Nat) : t.wall m = s.wall m := by
  obtain ⟨-, -, hmods⟩ := h
  simp only [State.wall, State.module, hmods]

theorem AccessNoted.flags {s t : State} (h : AccessNoted s t) : t.flags = s.flags ∧ t.shuttles = s.shuttles := by
  obtain ⟨_, _, _, _, _, _, _, rfl, -⟩ := h
  exact ⟨rfl, rfl⟩

/-! #### Flags -/

/-- What every flag of a word has, whatever its lane. -/
def Iss.FlagOf (x : Iss) (q : Flag) : Prop :=
  q.k = x.k ∧ q.team = x.g.team ∧ q.performed = false ∧ q.mask = x.f.mask ∧ q.ord = x.g.nextId ∧ q.waits = x.s.openWrites x.g q.m ∧
    q.ts = (x.g.gwm.filter (fun e => e.1 / 1024 = q.m)).map (fun e => (e.1 % 1024, e.2)) ∧ q.req.isSome = decide (q.m ≠ x.k.m)

/-- The flag that the word sends for one lane. -/
def Iss.flagFor (x : Iss) (i : Nat) (r : Option Nat) (lane m : Nat) (ba : Option DWord) (va : DWord) (pa leaf : Nat) (bs : List Byte) : Flag :=
  ⟨i, m, x.k, x.g.key, x.g.team, x.g.gidx, lane, x.f.pc, ba, va, pa, leaf, bs, x.s.openWrites x.g m,
    (x.g.gwm.filter (fun e => e.1 / 1024 == m)).map (fun e => (e.1 % 1024, e.2)), r, false, x.f.mask, x.g.nextId, false⟩

theorem Iss.sendFlag_spec (x : Iss) (s : State) (lane m : Nat) (ba : Option DWord) (va : DWord) (pa leaf : Nat) (bs : List Byte) :
    (∃ q : Flag, (x.sendFlag s lane m ba va pa leaf bs).flags = s.flags ++ [q] ∧
      (q.lane, q.m, q.ba, q.va, q.pa, q.bytes) = (lane, m, ba, va, pa, bs) ∧ x.FlagOf q) ∧
    s.Keeps (x.sendFlag s lane m ba va pa leaf bs) := by
  have hof (i : Nat) (r : Option Nat) (hr : r.isSome = decide (m ≠ x.k.m)) : x.FlagOf (x.flagFor i r lane m ba va pa leaf bs) :=
    ⟨rfl, rfl, rfl, rfl, rfl, rfl, rfl, hr⟩
  by_cases hm : m = x.k.m
  · have hsend : x.sendFlag s lane m ba va pa leaf bs =
        { s.fresh.2 with flags := s.flags ++ [x.flagFor s.nextId none lane m ba va pa leaf bs] } := if_pos hm
    rw [hsend]
    exact ⟨⟨_, rfl, rfl, hof _ _ (by simp [hm])⟩, rfl, rfl, rfl⟩
  · have hsend : x.sendFlag s lane m ba va pa leaf bs =
        { (s.fresh.2.newReqFor x.k.m m (.flag s.nextId) (some ⟨x.g.key, x.g.team, va, x.f.pc, x.k.g⟩)).2 with
          flags := s.flags ++ [x.flagFor s.nextId (some s.fresh.2.nextId) lane m ba va pa leaf bs] } := if_neg hm
    rw [hsend]
    exact ⟨⟨_, rfl, rfl, hof _ _ (by simp [hm])⟩, rfl, rfl, rfl⟩

theorem flagBa_eq (ea : DWord) : flagBa ea = ea &&& 0xFC00FFFFFFFFFFFF#64 := rfl

theorem fflArr_leaves (f : FflF) (s : State) (x : Iss) (h : prelude (.fflArr f) s = .go x)
    (hok : ∀ l ∈ lanesOf x.act, flagBaOk (x.g.regs.ea f.addr l &&& 0xFC00FFFFFFFFFFFF#64).toNat = true ∧
      x.s.reachable x.k.m ((x.g.regs.ea f.addr l).toNat / 2 ^ 48 % 1024) = true) :
    ∃ (t : State) (fs : List Flag), exec (.fflArr f) s = .next (x.done (t.setGroup x.k ({ x.g with
        nextId := x.g.nextId + 1 }.setFrag x.sl (some { x.f with mark := none, pc := x.next, only := none })))) ∧
      t.mem = x.s.mem ∧ t.groups = x.s.groups ∧ t.flags = x.s.flags ++ fs ∧
      fs.map (fun q => (q.lane, q.m, q.ba, q.va)) = (lanesOf x.act).map (fun l =>
        (l, (x.g.regs.ea f.addr l).toNat / 2 ^ 48 % 1024, some (x.g.regs.ea f.addr l &&& 0xFC00FFFFFFFFFFFF#64), x.g.regs.ea f.addr l)) ∧
      ∀ q ∈ fs, q.bytes = [] ∧ x.FlagOf q := by
  have hbad : ((lanesOf x.act).map (fun l => (l, x.g.regs.ea f.addr l))).filter (fun e => !flagBaOk (flagBa e.2).toNat) = [] :=
    List.filter_eq_nil_iff.mpr fun e he => by
      obtain ⟨l, hl, rfl⟩ := List.mem_map.mp he
      simp only [flagBa_eq, (hok l hl).1, Bool.not_true, Bool.false_eq_true, not_false_eq_true]
  have hfar : ((lanesOf x.act).map (fun l => (l, x.g.regs.ea f.addr l))).filter (fun e => !x.s.reachable x.k.m (flagMod e.2)) = [] :=
    List.filter_eq_nil_iff.mpr fun e he => by
      obtain ⟨l, hl, rfl⟩ := List.mem_map.mp he
      simp only [flagMod, (hok l hl).2, Bool.not_true, Bool.false_eq_true, not_false_eq_true]
  have hs := AccessNoted.sample x.s x.k x.g x.f.mark
    (x.requests 5 x.g.nextId ((lanesOf x.act).map (fun l => (l, x.g.regs.ea f.addr l))))
  obtain ⟨fs, hflags, ⟨hmem, hgroups, -⟩, hmap, hall⟩ := foldl_sends (tbl := State.flags)
    (turn := fun s e => x.sendFlag s e.1 (flagMod e.2) (some (flagBa e.2)) e.2 0 0 []) (tag := fun q => (q.lane, q.m, q.ba, q.va))
    (want := fun e => (e.1, flagMod e.2, some (flagBa e.2), e.2)) (Q := fun q => q.bytes = [] ∧ x.FlagOf q) (fun s e hI => by
      obtain ⟨⟨q, hq, htag, hof⟩, hkeep⟩ := x.sendFlag_spec s e.1 (flagMod e.2) (some (flagBa e.2)) e.2 0 0 []
      simp only [Prod.mk.injEq] at htag
      obtain ⟨hl, hm, hb, hv, -, hbs⟩ := htag
      exact ⟨⟨q, hq, by rw [hl, hm, hb, hv], hbs, hof⟩, hI.trans hkeep⟩)
    ((lanesOf x.act).map (fun l => (l, x.g.regs.ea f.addr l))) hs.keeps
  refine ⟨_, fs, ?_, hmem, hgroups, hflags.trans (by rw [hs.flags.1]), ?_, hall⟩
  · show execFflArr f s = _
    refine issue_ok h ?_
    simp only [hbad, hfar]
    rfl
  · rw [hmap, List.map_map]
    rfl

theorem fflStore_leaves (f : FflF) (s : State) (x : Iss) (i : Instr) (z : MSize) (hi : (i, z) ∈ [(.fflB32 f, .b32), (.fflB64 f, .b64)])
    (h : prelude i s = .go x) (hall : x.allTranslate .write (sizeBytes z) (fun l => x.g.regs.ea f.addr l)) :
    ∃ (t : State) (fs : List Flag),
      exec i s = .next (x.done (t.setGroup x.k ({ x.g with nextId := x.g.nextId + 1 }.setFrag x.sl
        (some { x.f with mark := none, pc := x.next, only := none })))) ∧
      t.mem = x.s.mem ∧ t.groups = x.s.groups ∧ t.flags = x.s.flags ++ fs ∧
      fs.map (fun q => (q.lane, q.m, q.ba, q.va, q.pa, q.bytes)) =
        (x.s.parts x.g.key .write x.act (sizeBytes z) (fun l => x.g.regs.ea f.addr l)).map (fun p =>
          (p.lane, paMod p.pa, none, p.va, p.pa, ((storeBytes x.g.regs z f.d.val p.lane).drop p.off).take p.len)) ∧
      ∀ q ∈ fs, x.FlagOf q := by
  have hexec : exec i s = issue i s (fun y => y.fflStore f z) := by
    simp only [List.mem_cons, List.not_mem_nil, or_false, Prod.mk.injEq] at hi
    rcases hi with ⟨rfl, rfl⟩ | ⟨rfl, rfl⟩ <;> rfl
  obtain ⟨ps, hps⟩ : ∃ ps, ps = x.s.parts x.g.key .write x.act (sizeBytes z) (fun l => x.g.regs.ea f.addr l) := ⟨_, rfl⟩
  obtain ⟨u, hu⟩ : ∃ u, u = (x.noteStores ps 1).sample x.k x.g x.f.mark
      (x.requests 5 x.g.nextId (lineReqs (ps.map (fun p => (p.lane, p.va))))) := ⟨_, rfl⟩
  have hs : AccessNoted x.s u := by
    rw [hu]
    exact (AccessNoted.noteParts ..).trans ((AccessNoted.noteAccess ..).trans (AccessNoted.sample ..))
  have hdrop (s : State) (d : DieKey) (l : Nat) :
      (s.dropCopy d l).flags = s.flags ∧ s.Keeps (s.dropCopy d l) := by
    unfold State.dropCopy
    split <;> exact ⟨rfl, rfl, rfl, rfl⟩
  obtain ⟨fs, hflags, ⟨hmem, hgroups, -⟩, hmap, hof⟩ := foldl_sends (tbl := State.flags)
    (turn := fun s (p : XPart) => (x.sendFlag s p.lane (paMod p.pa) none p.va p.pa p.leaf
        ((storeBytes x.g.regs z f.d.val p.lane).drop p.off |>.take p.len)).dropCopy x.k.die (lineOf p.pa))
    (tag := fun q => (q.lane, q.m, q.ba, q.va, q.pa, q.bytes))
    (want := fun p => (p.lane, paMod p.pa, none, p.va, p.pa, ((storeBytes x.g.regs z f.d.val p.lane).drop p.off).take p.len))
    (Q := x.FlagOf) (fun s p hI => by
      obtain ⟨⟨q, hq, hrest⟩, hkeep⟩ := x.sendFlag_spec s p.lane (paMod p.pa) none p.va p.pa p.leaf
        ((storeBytes x.g.regs z f.d.val p.lane).drop p.off |>.take p.len)
      obtain ⟨hf, hkeep'⟩ := hdrop (x.sendFlag s p.lane (paMod p.pa) none p.va p.pa p.leaf
        ((storeBytes x.g.regs z f.d.val p.lane).drop p.off |>.take p.len)) x.k.die (lineOf p.pa)
      exact ⟨⟨q, hf.trans hq, hrest⟩, (hI.trans hkeep).trans hkeep'⟩) ps hs.keeps
  rw [← hps]
  refine ⟨_, fs, ?_, hmem, hgroups, hflags.trans (by rw [hs.flags.1]), hmap, hof⟩
  have hgroup : ({ (x.g.unmark x.sl) with nextId := x.g.nextId + 1 } : Group).frag x.sl = some { x.f with mark := none } := by
    rw [Group.unmark_eq (prelude_go_frag h)]
    cases x.sl <;> rfl
  have hset (a : Option Frag) : ({ (x.g.unmark x.sl) with nextId := x.g.nextId + 1 } : Group).setFrag x.sl a =
      { x.g with nextId := x.g.nextId + 1 }.setFrag x.sl a := by
    rw [Group.unmark_eq (prelude_go_frag h)]
    cases x.sl <;> rfl
  rw [hexec]
  refine issue_ok h ?_
  have hdec := hall.decide130
  have hcar := x.carrying_parts .write (fun l => x.g.regs.ea f.addr l) (sizeBytes_pos z)
  have hspent := x.spent_parts .write (fun l => x.g.regs.ea f.addr l) (sizeBytes_pos z) x.g 1
  rw [← hps] at hdec hcar hspent
  simp only [Iss.fflStore, ← hps, hdec, hcar, hspent, Iss.finishX_none, hgroup, Option.getD_some, hset, hu]

theorem flagsLeave : Claims.FlagsLeave := by
  refine ⟨fun f s x h hok => ?_, fflStore_leaves⟩
  obtain ⟨t, fs, hexec, hmem, hgroups, hflags, hmap, hall⟩ := fflArr_leaves f s x h hok
  refine ⟨t, fs, hexec, hmem, hgroups, hflags, hmap, fun q hq => ?_⟩
  obtain ⟨hbs, hk, hteam, hp, hrest⟩ := hall q hq
  exact ⟨hk, hteam, hp, hbs, hrest⟩

theorem flagTraps : Claims.FlagTraps := by
  intro f s x l h
  refine ⟨fun hl => ?_, fun hok hl => ?_⟩
  · obtain ⟨ls, hls⟩ := filter_eq_cons_of_find? hl
    have hbad : ((lanesOf x.act).map (fun l => (l, x.g.regs.ea f.addr l))).filter (fun e => !flagBaOk (flagBa e.2).toNat) =
        (l :: ls).map (fun l => (l, x.g.regs.ea f.addr l)) := by
      rw [List.filter_map, ← hls]
      rfl
    refine ⟨_, (show execFflArr f s = _ from issue_trap h (by simp only [hbad, List.map_cons]; rfl)), rfl, rfl⟩
  · obtain ⟨ls, hls⟩ := filter_eq_cons_of_find? hl
    have hbad : ((lanesOf x.act).map (fun l => (l, x.g.regs.ea f.addr l))).filter (fun e => !flagBaOk (flagBa e.2).toNat) = [] :=
      List.filter_eq_nil_iff.mpr fun e he => by
        obtain ⟨l, hl, rfl⟩ := List.mem_map.mp he
        simp only [flagBa_eq, hok l hl, Bool.not_true, Bool.false_eq_true, not_false_eq_true]
    have hfar : ((lanesOf x.act).map (fun l => (l, x.g.regs.ea f.addr l))).filter (fun e => !x.s.reachable x.k.m (flagMod e.2)) =
        (l :: ls).map (fun l => (l, x.g.regs.ea f.addr l)) := by
      rw [List.filter_map, ← hls]
      rfl
    refine ⟨_, (show execFflArr f s = _ from issue_trap h (by simp only [hbad, hfar, List.map_cons]; rfl)), rfl, rfl, rfl⟩

/-- Settles O35: each flag by the turn of its lane, and the two checks before any. -/
theorem flagWords : Obligations.FlagWords := ⟨flagsLeave, flagTraps⟩

/-! #### Shuttles -/

theorem shtlOff_eq (r : Regs) (b j : Nat) : r.shtlOff b j =
    if j % 2 = 0 then (r.rdS (b + j / 2)).setWidth 32 else (r.rdS (b + j / 2) >>> 32).setWidth 32 := by
  rcases Nat.mod_two_eq_zero_or_one j with h | h
  · rw [Regs.shtlOff, h, if_pos rfl, Nat.mul_zero, pow_zero, Nat.div_one, BitVec.ofNat_toNat]
  · rw [Regs.shtlOff, h, if_neg (by omega), Nat.mul_one, ofNat_div_eq_setWidth]

/-- The packet that the word sends for one lane. -/
def Iss.packetFor (x : Iss) (f : ShtlF) (i lane : Nat) (a : DWord) (wall : Nat) : Shuttle :=
  ⟨i, x.k, x.g.key, x.g.team, x.g.gidx, x.g.nextId, lane, x.k.m, x.k.die.d, 0, f.nstep.val, f.stepw,
    (List.range f.nstep.val).map (fun j => x.g.regs.shtlOff f.b.val j), a, a, 0, 0, wall + 50000, none, false⟩

theorem shuttles_leave (f : ShtlF) (s : State) (x : Iss) (i : Instr) (trap : Bool) (hexec : exec i s = issue i s (fun y => y.shuttle i f trap))
    (h : prelude i s = .go x) (hn : 0 < f.nstep.val) (hsb : x.g.sb = []) (hent : x.g.entering = []) :
    ∃ (t : State) (ps : List Shuttle) (fl : Flight),
      exec i s = .next (x.done (t.setGroup x.k ((x.g.unmark x.sl).launchFlight x.sl { x.f with mark := none } x.next f.la.val fl))) ∧
      t.mem = x.s.mem ∧ t.groups = x.s.groups ∧ t.shuttles = x.s.shuttles ++ ps ∧
      ps.map (fun p => (p.lane, p.addr)) = (lanesOf x.act).map (fun l =>
        (l, x.g.regs.rdV64 f.a.val l + (((x.g.regs.rdS f.b.val).setWidth 32 : Word).signExtend 64 : DWord))) ∧
      (∀ p ∈ ps, ∃ i, p = x.packetFor f i p.lane p.addr (x.s.wall x.k.m)) ∧
      fl = { x.flight (.shuttle f.d.val f.c.val trap (lanesOf x.act).length) (Instr.dests i) with ready := (lanesOf x.act).isEmpty } := by
  have hoff : ((List.range f.nstep.val).map (fun j => x.g.regs.shtlOff f.b.val j)).headD 0 = (x.g.regs.rdS f.b.val).setWidth 32 := by
    obtain ⟨m, hm⟩ := Nat.exists_eq_succ_of_ne_zero hn.ne'
    rw [hm, List.range_succ_eq_map]
    exact shtlOff_eq x.g.regs f.b.val 0
  obtain ⟨ls, hls⟩ : ∃ ls, ls = (lanesOf x.act).map (fun l =>
    (l, x.g.regs.rdV64 f.a.val l + (((x.g.regs.rdS f.b.val).setWidth 32 : Word).signExtend 64 : DWord))) := ⟨_, rfl⟩
  have hlen : ls.length = (lanesOf x.act).length ∧ ls.isEmpty = (lanesOf x.act).isEmpty := by simp [hls]
  have hs := AccessNoted.sample x.s x.k x.g x.f.mark (x.requests 6 x.g.nextId ls)
  obtain ⟨ps, hps, ⟨hmem, hgroups, -⟩, hmap, hall⟩ := foldl_sends (tbl := State.shuttles)
    (turn := fun s (e : Nat × DWord) => { s.fresh.2 with shuttles := s.shuttles ++ [x.packetFor f s.fresh.1 e.1 e.2 (s.wall x.k.m)] })
    (tag := fun p => (p.lane, p.addr)) (want := id) (Q := fun p => ∃ i, p = x.packetFor f i p.lane p.addr (x.s.wall x.k.m))
    (I := x.s.Keeps) (fun s e hI => ⟨⟨_, rfl, rfl, _, by rw [hI.wall]; rfl⟩, hI⟩) ls hs.keeps
  refine ⟨_, ps, _, ?_, hmem, hgroups, hps.trans (by rw [hs.flags.2]), ?_, hall, rfl⟩
  · rw [hexec]
    refine issue_ok h ?_
    simp only [Iss.shuttle, hsb, hent, List.isEmpty_nil, Bool.not_true, Bool.or_self, Bool.false_eq_true, if_false, hoff, ← hls, hlen.1, hlen.2]
    rfl
  · rw [hmap, List.map_id, hls]

/-- Settles O36: the store buffer's check, then one packet for each lane in turn. -/
theorem shuttleWords : Obligations.ShuttleWords := by
  intro f s x i trap hi h hn
  have hexec : exec i s = issue i s (fun y => y.shuttle i f trap) := by
    simp only [List.mem_cons, List.not_mem_nil, or_false, Prod.mk.injEq] at hi
    rcases hi with ⟨rfl, rfl⟩ | ⟨rfl, rfl⟩ <;> rfl
  refine ⟨fun hbusy => ?_, fun hsb hent => ?_⟩
  · rw [hexec]
    refine issue_wait h ?_
    have hwait : (!x.g.sb.isEmpty || !x.g.entering.isEmpty) = true := by simpa using hbusy
    simp only [Iss.shuttle, hwait, if_true]
  · obtain ⟨t, ps, fl, hgo, hmem, hgroups, hps, hmap, hall, hfl⟩ := shuttles_leave f s x i trap hexec h hn hsb hent
    refine ⟨t, ps, fl, hgo, hmem, hgroups, hps, hmap, fun p hp => ?_, hfl⟩
    obtain ⟨i, hp⟩ := hall p hp
    rw [hp]
    refine ⟨rfl, rfl, rfl, rfl, rfl, rfl, rfl, rfl, rfl, rfl, fun j hj => ?_⟩
    simp only [Iss.packetFor, List.getElem?_map, List.getElem?_range hj, Option.map_some, shtlOff_eq]

end Sys2Proof.Machine

/-! ### Shard words (spec/15 R311 to R315) -/

namespace Sys2Proof.Machine

/-! #### What a walk leaves of the shard engines -/

@[simp] theorem State.noteWalk_gathers (s : State) (k : CoreKey) (es : List TEnt) : (s.noteWalk k es).gathers = s.gathers := by
  obtain ⟨cs, ds, h⟩ := s.noteWalk_frame k es
  rw [h]
@[simp] theorem State.noteWalk_shevs (s : State) (k : CoreKey) (es : List TEnt) : (s.noteWalk k es).shevs = s.shevs := by
  obtain ⟨cs, ds, h⟩ := s.noteWalk_frame k es
  rw [h]
@[simp] theorem State.noteWalk_nextId (s : State) (k : CoreKey) (es : List TEnt) : (s.noteWalk k es).nextId = s.nextId := by
  obtain ⟨cs, ds, h⟩ := s.noteWalk_frame k es
  rw [h]
@[simp] theorem State.noteWalk_gatherOf (s : State) (k : CoreKey) (es : List TEnt) (key : CtxKey) (va : DWord) :
    (s.noteWalk k es).gatherOf key va = s.gatherOf key va := by
  unfold State.gatherOf
  rw [State.noteWalk_gathers]

theorem State.mem_joinShard (s : State) (g : Group) (i : Nat) : i ∈ (s.joinShard g i).shOps :=
  List.mem_append_right _ (List.mem_singleton_self i)

/-! #### shg and shev -/

section
variable {s t : State} {x : Iss} {a : SReg} {va : DWord}

theorem shg_goes (hva : va = x.g.regs.rdS a.val) (ht : t = x.s.noteWalk x.k.core (x.s.walked x.g.key va)) (h : prelude (.shg a) s = .go x) :
    (x.s.leaf? x.g.key va = none → exec (.shg a) s = .next (x.done (({ x with s := t } : Iss).step x.g))) ∧
      ∀ lvl pa e, x.s.leaf? x.g.key va = some (lvl, pa, e) →
        (pteState e ≠ 1 → exec (.shg a) s = .next (x.done (({ x with s := t } : Iss).step x.g))) ∧
        (∀ y, pteState e = 1 → x.s.gatherOf x.g.key va = some y →
          exec (.shg a) s = .next (x.done (({ x with s := t } : Iss).step (t.joinShard x.g y.id)))) ∧
        (pteState e = 1 → x.s.gatherOf x.g.key va = none →
          exec (.shg a) s = .next (x.done (({ x with s := (t.newGather x.g.key va pa e x.issuer).2 } : Iss).step
            ((t.newGather x.g.key va pa e x.issuer).2.joinShard x.g t.nextId)))) := by
  subst hva ht
  refine ⟨fun hleaf => ?_, fun lvl pa e hleaf => ⟨fun hst => ?_, fun y hst hy => ?_, fun hst hy => ?_⟩⟩
  all_goals
    show execShg a s = _
    refine issue_ok h ?_
    simp only [hleaf]
  · simp only [hst, ne_eq, not_false_eq_true, if_true]
  · simp only [hst, ne_eq, not_true, if_false, State.noteWalk_gatherOf, hy]
  · simp only [hst, ne_eq, not_true, if_false, State.noteWalk_gatherOf, hy]
    rfl

theorem shev_hands (hva : va = x.g.regs.rdS a.val) (ht : t = x.s.noteWalk x.k.core (x.s.walked x.g.key va)) (b : SReg)
    (h : prelude (.shev a b) s = .go x) :
    (b.val ≠ 0 → x.s.barRef x.g.team x.g.key x.k.die (x.g.regs.rdS b.val) = none →
      exec (.shev a b) s = .next (s.wordTrap x.k x.sl x.g x.f { code := 0x07, addr := x.g.regs.rdS b.val })) ∧
    (∀ o, (b.val = 0 ∧ o = none) ∨ (b.val ≠ 0 ∧ x.s.barRef x.g.team x.g.key x.k.die (x.g.regs.rdS b.val) = o ∧ o.isSome = true) →
      ∃ (g' : Group) (y : Shev), exec (.shev a b) s = .next (x.done (({ x with s := { t with
          nextId := x.s.nextId + 1
          shevs := x.s.shevs ++ [y] } } : Iss).step g')) ∧
        y.id ∈ g'.shOps ∧ g' = { x.g with shOps := g'.shOps } ∧
        y = ⟨x.s.nextId, x.g.key, x.g.team, x.k.g, x.f.pc, va, y.die, o, none⟩ ∧
        ∀ lvl pa e, x.s.leaf? x.g.key va = some (lvl, pa, e) → y.die = paDie pa) := by
  subst hva ht
  refine ⟨fun hb hbad => ?_, fun o ho => ?_⟩
  · show execShev a b s = _
    refine issue_trap h ?_
    simp only [hb, if_false, hbad, ne_eq, not_false_eq_true, and_self, if_true]
  · have hobj : (if b.val = 0 then none else x.s.barRef x.g.team x.g.key x.k.die (x.g.regs.rdS b.val)) = o ∧ ¬ (b.val ≠ 0 ∧ o = none) := by
      rcases ho with ⟨hb, rfl⟩ | ⟨hb, hbar, hsome⟩
      · simp [hb]
      · rw [if_neg hb, hbar]
        exact ⟨rfl, fun hn => by rw [hn.2] at hsome; cases hsome⟩
    obtain ⟨hobj, hnot⟩ := hobj
    obtain ⟨die, hdie⟩ : ∃ die, die = (match x.s.leaf? x.g.key (x.g.regs.rdS a.val) with
        | some (_, pa, _) => entryDie pa
        | none => x.k.die.d) := ⟨_, rfl⟩
    have hexec : exec (.shev a b) s = .next (x.done (({ x with s := { x.s.noteWalk x.k.core (x.s.walked x.g.key (x.g.regs.rdS a.val)) with
          nextId := x.s.nextId + 1
          shevs := x.s.shevs ++ [⟨x.s.nextId, x.g.key, x.g.team, x.k.g, x.f.pc, x.g.regs.rdS a.val, die, o, none⟩] } } : Iss).step
        (State.joinShard { x.s.noteWalk x.k.core (x.s.walked x.g.key (x.g.regs.rdS a.val)) with
          nextId := x.s.nextId + 1
          shevs := x.s.shevs ++ [⟨x.s.nextId, x.g.key, x.g.team, x.k.g, x.f.pc, x.g.regs.rdS a.val, die, o, none⟩] } x.g x.s.nextId))) := by
      show execShev a b s = _
      refine issue_ok h ?_
      simp only [hobj, hnot, if_false, State.fresh, State.noteWalk_nextId, State.noteWalk_shevs]
      rw [hdie] <;> rfl
    refine ⟨_, _, hexec, State.mem_joinShard .., rfl, rfl, fun lvl pa e hleaf => ?_⟩
    show die = _
    rw [hdie, hleaf]
    rfl

end

/-! #### The answers of shq and pgq -/

theorem getLsbD_ofNat_eq (n i : Nat) (hi : i < 64) : (BitVec.ofNat 64 n).getLsbD i = decide (n / 2 ^ i % 2 = 1) := by
  rw [BitVec.getLsbD_ofNat, decide_eq_true hi, Bool.true_and, Nat.testBit_eq_decide_div_mod_eq]

theorem State.descAny_k_lt {s : State} {key : CtxKey} {sg : Nat} {d : Desc} (h : s.descAny key sg = some d) : d.k < 256 ∧ Nat.log2 d.n < 16 := by
  unfold State.descAny at h
  split at h
  · cases h
  · dsimp only at h
    split at h
    · cases h
      dsimp only
      rw [Nat.log2_two_pow]
      omega
    · cases h

theorem State.desc?_k_lt {s : State} {key : CtxKey} {sg : Nat} {d : Desc} (h : s.desc? key sg = some d) : d.k < 256 ∧ Nat.log2 d.n < 16 := by
  unfold State.desc? at h
  split at h
  · cases h
  · split at h
    · cases h
      exact State.descAny_k_lt ‹_›
    · cases h

/-- The fields of shq's answer below bit 32. -/
theorem State.shqValue_leaf {s : State} {key : CtxKey} {va : DWord} {lvl pa e : Nat} (h : s.leaf? key va = some (lvl, pa, e)) :
    ∃ k l r, k < 256 ∧ l < 16 ∧ s.shqValue key va = BitVec.ofNat 64 (pteSgid e * 2 ^ 24 + (if (s.gatherOf key va).isSome then 2 ^ 11 else 0) +
      (if (s.drainOf key va).isSome then 2 ^ 10 else 0) + pteState e * 16 + 1 + k * 2 ^ 16 + l * 2 ^ 12 + r * 2 ^ 32) := by
  unfold State.shqValue
  rw [h]
  dsimp only
  split
  · exact ⟨0, 0, 0, by omega, by omega, by simp only [Nat.zero_mul, Nat.add_zero]⟩
  · split
    · exact ⟨0, 0, 0, by omega, by omega, by simp only [Nat.zero_mul, Nat.add_zero]⟩
    · rename_i d hd
      obtain ⟨hk, hl⟩ := State.desc?_k_lt hd
      cases hp : d.page? va.toNat with
      | some i => exact ⟨d.k, _, _, hk, hl, rfl⟩
      | none => exact ⟨d.k, _, 0, hk, hl, by rw [Nat.zero_mul]⟩

theorem State.shqValue_spec {s : State} {key : CtxKey} {va : DWord} {lvl pa e : Nat} (h : s.leaf? key va = some (lvl, pa, e)) :
    (s.shqValue key va).getLsbD 0 = true ∧ (s.shqValue key va).toNat / 16 % 8 = pteState e % 8 ∧
      (s.shqValue key va).getLsbD 10 = (s.drainOf key va).isSome ∧ (s.shqValue key va).getLsbD 11 = (s.gatherOf key va).isSome ∧
      (s.shqValue key va).toNat / 2 ^ 24 % 256 = pteSgid e % 256 := by
  obtain ⟨k, l, r, hk, hl, hv⟩ := State.shqValue_leaf h
  rw [hv, getLsbD_ofNat_eq _ _ (by omega), getLsbD_ofNat_eq _ _ (by omega), getLsbD_ofNat_eq _ _ (by omega), BitVec.toNat_ofNat]
  have hst : pteState e < 8 := Nat.mod_lt _ (by omega)
  have hsg : pteSgid e < 256 := Nat.mod_lt _ (by omega)
  generalize pteState e = st at *
  generalize pteSgid e = sg at *
  cases (s.gatherOf key va).isSome <;> cases (s.drainOf key va).isSome <;>
    simp only [Bool.false_eq_true, if_true, if_false, decide_eq_true_eq, decide_eq_false_iff_not] <;> omega

theorem State.pgqValue_spec {s : State} {key : CtxKey} {va : DWord} {lvl pa e : Nat} (h : s.leaf? key va = some (lvl, pa, e)) :
    (pteState e = 1 → s.pgqValue key va = 0) ∧
      (pteState e = 0 → (s.pgqValue key va).getLsbD 63 = true ∧ (s.pgqValue key va).getLsbD 62 = pteRd e) := by
  unfold State.pgqValue
  rw [h]
  dsimp only
  refine ⟨fun hst => by rw [if_neg (by omega)], fun hst => ?_⟩
  rw [if_pos (by omega), getLsbD_ofNat_eq _ _ (by omega), getLsbD_ofNat_eq _ _ (by omega)]
  have hframe : pteFrame e ≤ (2 ^ 45 - 1) * 2 ^ 13 := Nat.mul_le_mul_right _ (by have := Nat.mod_lt (e / 2 ^ 6) (by omega : 0 < 2 ^ 45); omega)
  have hoff : va.toNat % pageBytes lvl < 2 ^ 21 := by
    unfold pageBytes
    split <;> omega
  have hbit (b : Bool) (i : Nat) : (if b then 2 ^ i else 0) ≤ 2 ^ i := by cases b <;> simp
  have h61 := hbit (pteW e && pteState e != 2 && pteState e != 4 && !pteMig e) 61
  have h60 := hbit (pteX e) 60
  have h59 := hbit (lvl != 0) 59
  generalize (if (pteW e && pteState e != 2 && pteState e != 4 && !pteMig e) = true then 2 ^ 61 else 0) = b61 at *
  generalize (if pteX e = true then 2 ^ 60 else 0) = b60 at *
  generalize (if (lvl != 0) = true then 2 ^ 59 else 0) = b59 at *
  cases pteRd e <;> simp only [Bool.false_eq_true, if_true, if_false, decide_eq_true_eq, decide_eq_false_iff_not] <;> omega

/-- Settles O38: each word by its page's leaf entry, and the fields of the answers. -/
theorem shardWords : Obligations.ShardWords := by
  intro s x a va t hva ht
  refine ⟨fun h => ?_, fun b h => shev_hands hva ht b h, fun la d h => ⟨x.s.shqValue x.g.key va, ?_, fun hnone => ?_,
    fun lvl pa e hleaf => State.shqValue_spec hleaf⟩, fun la d h => ⟨x.s.pgqValue x.g.key va, ?_, fun hnone => ?_,
    fun lvl pa e hleaf => State.pgqValue_spec hleaf⟩⟩
  · obtain ⟨hnone, hleaf⟩ := shg_goes hva ht h
    refine ⟨hnone, fun lvl pa e hl => ?_⟩
    obtain ⟨hother, hjoin, hnew⟩ := hleaf lvl pa e hl
    refine ⟨hother, fun y hst hy => ⟨_, hjoin y hst hy, State.mem_joinShard .., rfl⟩, fun hst hy => ?_⟩
    have hid : t.nextId = x.s.nextId := by rw [ht, State.noteWalk_nextId]
    have hgs : t.gathers = x.s.gathers := by rw [ht, State.noteWalk_gathers]
    have hexec := hnew hst hy
    rw [State.newGather, State.fresh] at hexec
    simp only [hid, hgs] at hexec
    exact ⟨_, _, hexec, rfl, State.mem_joinShard .., rfl, rfl, rfl, rfl, rfl, rfl, rfl, rfl, rfl, rfl, rfl, rfl, rfl⟩
  · subst hva ht
    exact (show execShq la d a s = _ from issue_ok h rfl)
  · simp only [State.shqValue, hnone]
  · subst hva ht
    exact (show execPgq la d a s = _ from issue_ok h rfl)
  · simp only [State.pgqValue, hnone]

end Sys2Proof.Machine

/-! ### The collectives at issue (spec/11 R243, R244) -/

namespace Sys2Proof.Machine

section
variable {s : State} {key : CtxKey} {k : CollKind} {src dst w2 : DWord}

/-- A condition of R243 under which the parameters of a good descriptor are refused. -/
def CollBad (d : Desc) (k : CollKind) (src dst w2 : DWord) : Bool :=
  let n := w2.toNat % 2 ^ 32
  let root := w2.toNat / 2 ^ 40 % 256
  let sb := k.srcBytes d.n n (k != .bc || root == d.k)
  let db := k.dstBytes d.n n
  n = 0 || decide (2 ^ 24 < n) || decide (2 ^ 30 < db) || decide (3 ≤ w2.toNat / 2 ^ 59 % 8) || w2.getLsbD 63 ||
    (k == .bc && decide (d.n ≤ root)) || (w2.getLsbD 62 && (k == .ag || k == .bc)) ||
    ((decide (0 < sb) && decide (src.toNat < dst.toNat + db) && decide (dst.toNat < src.toNat + sb)) && !(k == .ar && src == dst))

theorem collStatus_of_reachable {d d' : Desc} (hd : s.descAny key (w2.toNat / 2 ^ 32 % 256) = some d)
    (hd' : s.desc? key (w2.toNat / 2 ^ 32 % 256) = some d') (hall : ∀ m ∈ s.members d, s.reachable key.m m = true) :
    s.collStatus key k src dst w2.toNat = if CollBad d k src dst w2 then 4 else 0 := by
  have hany : (s.members d).any (fun m => !s.reachable key.m m) = false :=
    List.any_eq_false.mpr fun m hm => by simp [hall m hm]
  simp only [State.collStatus, hd, hd', Option.isNone_some, hany, Bool.false_eq_true, if_false]
  rfl

theorem collectiveStatus : Claims.CollectiveStatus := by
  rintro s key k src dst w2 sg n rfl rfl
  refine ⟨fun hd => ?_, fun d hd => ⟨fun hd' => ?_, fun d' hd' => ⟨fun ⟨m, hm, hr⟩ => ?_, fun hall => ⟨fun hbad => ?_,
    fun hpos hsrc hdst har => ?_, fun hn hmax hdb hwf h63 hroot hord hmeet => ?_⟩⟩⟩⟩
  · simp only [State.collStatus, hd]
  · simp only [State.collStatus, hd, hd', Option.isNone_none, if_true]
  · have hany : (s.members d).any (fun m => !s.reachable key.m m) = true :=
      List.any_eq_true.mpr ⟨m, hm, by simp [hr]⟩
    simp only [State.collStatus, hd, hd', Option.isNone_some, hany, Bool.false_eq_true, if_false, if_true]
  · rw [collStatus_of_reachable hd hd' hall, if_pos]
    simp only [CollBad, Bool.or_eq_true, Bool.and_eq_true, decide_eq_true_eq, beq_iff_eq]
    rcases hbad with h | h | h | h | h | h | h <;> simp only [h, true_or, or_true, and_self]
  · rw [collStatus_of_reachable hd hd' hall, if_pos]
    have har' : (k == .ar && src == dst) = false := by simpa using har
    simp only [CollBad, Bool.or_eq_true, Bool.and_eq_true, decide_eq_true_eq, har', Bool.not_false]
    exact .inr ⟨⟨⟨hpos, hsrc⟩, hdst⟩, trivial⟩
  · rw [collStatus_of_reachable hd hd' hall, if_neg]
    simp only [CollBad, Bool.or_eq_true, Bool.and_eq_true, decide_eq_true_eq, beq_iff_eq, Bool.not_eq_true', h63, Bool.false_eq_true, or_false]
    rintro (((((( h | h) | h) | h) | ⟨h, h'⟩) | ⟨h, h'⟩) | ⟨⟨⟨h0, h1⟩, h2⟩, h3⟩)
    · omega
    · omega
    · omega
    · omega
    · have := hroot h
      omega
    · rcases hord h with rfl | rfl <;> rcases h' with h' | h' <;> cases h'
    · rcases hmeet with h | ⟨rfl, rfl⟩ | h
      · omega
      · simp at h3
      · omega

end

/-- The shard group that a collective names. -/
def Iss.collSg (x : Iss) (p : SReg) : Nat := (x.g.regs.rdS (p.val + 2)).toNat / 2 ^ 32 % 256

/-- The operation that a collective starts. -/
def Iss.collOp (x : Iss) (k : CollKind) (p : SReg) (ds : Desc) (o : BRef) : CollOp :=
  let w2 := (x.g.regs.rdS (p.val + 2)).toNat
  ⟨x.s.nextId, k, x.k.die, x.g.key, x.g.team, x.g.gidx, x.f.pc, x.g.regs.rdS p.val, x.g.regs.rdS (p.val + 1), w2 % 2 ^ 32, x.collSg p,
    w2 / 2 ^ 40 % 256, w2 / 2 ^ 48 % 2 ^ 11, w2 / 2 ^ 59 % 8, w2.testBit 62,
    ((x.s.ctx? x.g.key).map (fun c => nget 0 c.collSeq (x.collSg p))).getD 0, o, x.s.members ds, ds.k,
    [], [], [], [], [], [], [], [], [], [], x.k.g, ⟨[], none, []⟩, 0, none, false⟩

/-- The state with the operation begun, before the status is written. -/
def Iss.collBegun (x : Iss) (k : CollKind) (p : SReg) (ds : Desc) (o : BRef) : State :=
  let s := x.s.fresh.2.modCtx x.g.key (fun c => { c with collSeq := nset 0 c.collSeq (x.collSg p) ((x.collOp k p ds o).seq + 1) })
  { s with colls := s.colls ++ [x.collOp k p ds o] }

theorem Iss.collBegun_spec (x : Iss) (k : CollKind) (p : SReg) (ds : Desc) (o : BRef) :
    (x.collBegun k p ds o).colls = x.s.colls ++ [x.collOp k p ds o] ∧ (x.collBegun k p ds o).mem = x.s.mem ∧
      (x.collBegun k p ds o).groups = x.s.groups ∧ ∀ c, x.s.ctx? x.g.key = some c →
        ((x.collBegun k p ds o).ctx? x.g.key).map (fun c => nget 0 c.collSeq (x.collSg p)) = some ((x.collOp k p ds o).seq + 1) := by
  unfold Iss.collBegun
  extract_lets s
  obtain ⟨cs, hs⟩ : ∃ cs, s = { x.s.fresh.2 with ctxs := cs } := State.modCtx_frame ..
  refine ⟨?_, ?_, ?_, fun c hc => ?_⟩
  · show s.colls ++ _ = _
    rw [hs]; rfl
  · show s.mem = _
    rw [hs]; rfl
  · show s.groups = _
    rw [hs]; rfl
  · have hold : x.s.fresh.2.ctx? x.g.key = some c := hc
    have hctx : s.ctx? x.g.key = some { c with
        collSeq := nset 0 c.collSeq (x.collSg p) ((x.collOp k p ds o).seq + 1) } := by
      simp only [s, State.modCtx_ctx, if_pos, hold, Option.map_some]
    show (s.ctx? x.g.key).map _ = _
    rw [hctx, Option.map_some, nget_nset_self]

theorem collectivesStart : Claims.CollectivesStart := by
  rintro d p s x i k hi h w2 sg st rfl rfl rfl
  have hexec : exec i s = issue i s (fun y => y.coll i k d p) := by
    simp only [List.mem_cons, List.not_mem_nil, or_false, Prod.mk.injEq] at hi
    rcases hi with ⟨rfl, rfl⟩ | ⟨rfl, rfl⟩ | ⟨rfl, rfl⟩ | ⟨rfl, rfl⟩ <;> rfl
  rw [hexec]
  have hfull : (decide (16 ≤ (x.s.colls.filter (fun o => o.die == x.k.die)).length) ||
      decide (4 ≤ (x.s.colls.filter (fun o => o.key == x.g.key && o.sg == (x.g.regs.rdS (p.val + 2)).toNat / 2 ^ 32 % 256)).length)) =
      decide (16 ≤ (x.s.colls.filter (fun o => o.die = x.k.die)).length ∨ 4 ≤ (x.s.colls.filter (fun o =>
        o.key = x.g.key ∧ o.sg = (x.g.regs.rdS (p.val + 2)).toNat / 2 ^ 32 % 256)).length) := by
    have hkey (o : CollOp) : (o.key == x.g.key && o.sg == (x.g.regs.rdS (p.val + 2)).toNat / 2 ^ 32 % 256) =
        decide (o.key = x.g.key ∧ o.sg = (x.g.regs.rdS (p.val + 2)).toNat / 2 ^ 32 % 256) := by
      rw [Bool.decide_and]
      rfl
    rw [Bool.decide_or]
    simp only [hkey]
    rfl
  refine ⟨fun hwait => issue_wait h ?_, fun hdie hsg => ⟨fun hbar => issue_trap h ?_, fun o hbar => ⟨fun hst => issue_ok h ?_,
    fun ds hst hds => ?_⟩⟩⟩
  · simp only [Iss.coll, hfull, hwait, decide_true, if_true]
  all_goals
    have hroom : ¬ (16 ≤ (x.s.colls.filter (fun o => o.die = x.k.die)).length ∨ 4 ≤ (x.s.colls.filter (fun o =>
        o.key = x.g.key ∧ o.sg = (x.g.regs.rdS (p.val + 2)).toNat / 2 ^ 32 % 256)).length) := by omega
  · simp only [Iss.coll, hfull, hroom, decide_false, Bool.false_eq_true, if_false, hbar]
  · simp only [Iss.coll, hfull, hroom, decide_false, Bool.false_eq_true, if_false, hbar]
    exact if_pos hst
  · have hst' : x.s.collStatus x.g.key k (x.g.regs.rdS (p.val + 0)) (x.g.regs.rdS (p.val + 1)) (x.g.regs.rdS (p.val + 2)).toNat = 0 := hst
    refine ⟨x.collBegun k p ds o, x.collOp k p ds o, issue_ok h ?_, ?_⟩
    · simp only [Iss.coll, hfull, hroom, decide_false, Bool.false_eq_true, if_false, hbar, hst', hds, ne_eq, not_true]
      rfl
    · obtain ⟨hcolls, hmem, hgroups, hctx⟩ := x.collBegun_spec k p ds o
      exact ⟨hcolls, hmem, hgroups, rfl, rfl, rfl, rfl, rfl, rfl, rfl, rfl, rfl, rfl, rfl, rfl, rfl, rfl, rfl, rfl, rfl, rfl, rfl,
        rfl, rfl, hctx⟩

/-- Settles O37: the checks of the status in their order, and the operation of a status 0. -/
theorem collectiveWords : Obligations.CollectiveWords := ⟨collectivesStart, collectiveStatus⟩

end Sys2Proof.Machine

/-! ### What the performance of a write changes (spec/07 R126; spec/09 R169; spec/11 R226) -/

namespace Sys2Proof.Machine

/-- A relation that every turn of a pass keeps holds between its ends. -/
theorem foldl_rel {α β : Type} {R : β → β → Prop} (hrefl : ∀ b, R b b) (htrans : ∀ a b c, R a b → R b c → R a c) {f : β → α → β}
    (h : ∀ b a, R b (f b a)) (l : List α) (b : β) : R b (l.foldl f b) := by
  induction l generalizing b with
  | nil => exact hrefl b
  | cons a l ih => exact htrans _ _ _ (h b a) (ih _)

/-! #### Queues and waiting teams -/

/-- t is s but for teams and contexts. -/
def State.InTeams (s t : State) : Prop := ∃ ts cs, t = { s with teams := ts, ctxs := cs }

theorem State.InTeams.refl (s : State) : s.InTeams s := ⟨s.teams, s.ctxs, rfl⟩
theorem State.InTeams.trans {s t u : State} (h : s.InTeams t) (h' : t.InTeams u) : s.InTeams u := by
  obtain ⟨_, _, rfl⟩ := h
  obtain ⟨_, _, rfl⟩ := h'
  exact ⟨_, _, rfl⟩

theorem State.InTeams.foldl {α : Type} {f : State → α → State} (h : ∀ s a, State.InTeams s (f s a)) (l : List α) (s : State) :
    s.InTeams (l.foldl f s) :=
  foldl_rel State.InTeams.refl (fun _ _ _ => State.InTeams.trans) h l s

theorem State.InTeams.modCtx (s : State) (k : CtxKey) (f : Context → Context) : s.InTeams (s.modCtx k f) := by
  obtain ⟨c, h⟩ := s.modCtx_frame k f
  exact ⟨s.teams, c, h⟩

theorem State.InTeams.makeRunnable (s : State) (team : Nat) : s.InTeams (s.makeRunnable team) := by
  unfold State.makeRunnable
  split
  · exact .refl s
  · split
    · split
      · exact ⟨_, s.ctxs, rfl⟩
      · exact State.InTeams.trans ⟨_, s.ctxs, rfl⟩ (.modCtx ..)
    all_goals exact .refl s

/-- A queue stops while TAIL is not valid, which is logged. -/
def State.noteStop (s : State) (k : CtxKey) (n : Nat) (q : Queue) : State :=
  if q.stopped == s.qValid q then
    let u := s.modQueue k n (fun x => { x with stopped := !s.qValid q })
    if s.qValid q then u else u.logErr k ⟨(u.module k.m).wall, BitVec.ofNat 64 q.block, 0, 0, 0, 0, BitVec.ofNat 64 n, k.m, 0, 0x0A⟩
  else s

theorem State.noteQueue_eq (s : State) (k : CtxKey) (n : Nat) (q : Queue) : s.noteQueue k n q =
    if q.data && s.qValid q && !q.badEvent && (s.noteStop k n q).qHead q != (s.noteStop k n q).qTail q then
      (s.noteStop k n q).teams.foldl (fun s e =>
        if e.2.key = k ∧ e.2.images.any (fun i => i.2.popsFrom n) then s.makeRunnable e.1 else s) (s.noteStop k n q)
    else s.noteStop k n q := rfl

theorem State.InTeams.noteQueue (s : State) (k : CtxKey) (n : Nat) (q : Queue) : s.InTeams (s.noteQueue k n q) := by
  rw [State.noteQueue_eq]
  have hstop : s.InTeams (s.noteStop k n q) := by
    unfold State.noteStop
    split
    · split
      · exact .modCtx ..
      · exact State.InTeams.trans (.modCtx ..) (.modCtx ..)
    · exact .refl s
  split
  · refine hstop.trans (.foldl (fun s e => ?_) _ _)
    split
    · exact .makeRunnable ..
    · exact .refl s
  · exact hstop

theorem State.InTeams.noteQueues (s : State) (l : Nat) : s.InTeams (s.noteQueues l) := by
  unfold State.noteQueues
  refine .foldl (fun s c => .foldl (fun s q => ?_) _ _) _ _
  split
  · exact .noteQueue ..
  · exact .refl s

theorem State.noteEntries_frame (s : State) (l : Nat) : ∃ ds cs xs, s.noteEntries l = { s with dies := ds, cores := cs, ctxs := xs } := by
  unfold State.noteEntries
  extract_lets cached s1
  obtain ⟨ds, cs, h1⟩ : ∃ ds cs, s1 = { s with dies := ds, cores := cs } := by
    simp only [s1]
    split
    · exact ⟨_, _, rfl⟩
    · exact ⟨s.dies, s.cores, rfl⟩
  split
  · exact ⟨_, _, _, by rw [h1]⟩
  · exact ⟨_, _, s.ctxs, by rw [h1]⟩

/-! #### The bytes of a line -/

/-- The record of a line that has been written: a new version, dirty, and who orders it. -/
structure Line.Written (ln ln' : Line) : Prop where
  ver : ln'.ver = ln.ver + 1
  dirty : ln'.dirty = true
  lock : ln'.lock = ln.lock
  red : ln'.red = ln.red
  lease : ln'.lease = ln.lease

/-- What a written line leaves beside its memory: its record, the directory, the entries and queues that lie in it. -/
structure State.LineWritten (s : State) (l : Nat) (mem : Memory) (t : State) : Prop where
  frame : ∃ ms ls ps ds cs xs ts, t = { s with
    mods := ms, lines := ls, proxies := ps, dies := ds, cores := cs, ctxs := xs, teams := ts, mem := mem }
  line : (s.line l).Written (t.line l)
  other : ∀ j, j ≠ l → t.line j = s.line j
  module : ∀ m, ∃ mv, t.module m = { s.module m with moved := mv }

/-- The switches of a write enter the moved tables. -/
theorem foldl_modModule_frame {α : Type} (m : α → Nat) (f : State → α → Module → Module) (l : List α) (s : State) :
    ∃ ms, l.foldl (fun s e => s.modModule (m e) (f s e)) s = { s with mods := ms } :=
  foldl_rel (R := fun s t => ∃ ms, t = { s with mods := ms }) (fun s => ⟨s.mods, rfl⟩)
    (fun _ _ _ ⟨_, h⟩ ⟨ms, h'⟩ => ⟨ms, by rw [h', h]⟩) (fun _ _ => ⟨_, rfl⟩) l s

/-- The moved tables take the switches of a write, and memory the new bytes. -/
def State.newBytes (s : State) (l : Nat) (mem : Memory) : State :=
  { (s.switches l mem).foldl (fun s e => s.modModule (paMod e.1) (fun md =>
      { md with moved := md.moved ++ [(e.1, e.2, s.wall (paMod e.1) + 100000)] })) s with mem := mem }

/-- Of a module the switches change the moved table. -/
theorem State.newBytes_module (s : State) (l : Nat) (mem : Memory) (m : Nat) :
    ∃ mv, (s.newBytes l mem).module m = { s.module m with moved := mv } := by
  refine foldl_rel (R := fun s t : State => ∃ mv, t.module m = { s.module m with moved := mv }) (fun s => ⟨_, rfl⟩)
    (fun _ _ _ ⟨_, h⟩ ⟨mv, h'⟩ => ⟨mv, by rw [h', h]⟩) (fun s e => ?_) (s.switches l mem) s
  by_cases hm : m = paMod e.1
  · subst hm
    exact ⟨_, State.setModule_module_self ..⟩
  · exact ⟨_, State.setModule_module_of_ne _ _ _ _ hm⟩

theorem State.newBytes_frame (s : State) (l : Nat) (mem : Memory) : ∃ ms, s.newBytes l mem = { s with mods := ms, mem := mem } := by
  obtain ⟨ms, h⟩ := foldl_modModule_frame (fun e : Nat × Nat => paMod e.1) (fun s e md =>
    { md with moved := md.moved ++ [(e.1, e.2, s.wall (paMod e.1) + 100000)] }) (s.switches l mem) s
  exact ⟨ms, by rw [State.newBytes, h]⟩

/-- The record of a line with one more version. -/
def Line.write (ln : Line) : Line := { ln with ver := ln.ver + 1, dirty := true }

/-- The record of a written line enters the table, with the latest lease that a writer waits for and the modules to invalidate. -/
def State.claimLine (s : State) (l w : Nat) : State × Nat × List Nat :=
  let u := s.setLine l (s.line l).write
  match (s.line l).point with
  | .slice _ => (u, 0, [])
  | .proxy m => (u, ((tget s.proxies (m, l)).map (fun (p : Proxy) => p.lease)).getD 0, [])
  | .home =>
    let t := if passed (s.wall (lineMod l)) (s.line l).lease then 0 else (s.line l).lease
    if u.exclOk l w then (u.giveExcl l w, max t (((tget s.proxies (w, l)).map (fun (p : Proxy) => p.lease)).getD 0), [])
    else (u, t, u.sharers l)

theorem State.claimLine_spec (s : State) (l w : Nat) : (∃ ls ps, (s.claimLine l w).1 = { s with lines := ls, proxies := ps }) ∧
    (s.line l).Written ((s.claimLine l w).1.line l) ∧ ∀ j, j ≠ l → (s.claimLine l w).1.line j = s.line j := by
  obtain ⟨u, hu⟩ : ∃ u, u = s.setLine l (s.line l).write := ⟨_, rfl⟩
  have hline : u.line l = (s.line l).write := by rw [hu, State.setLine_line_self]
  have hother (j : Nat) (hj : j ≠ l) : u.line j = s.line j := by rw [hu, State.setLine_line_of_ne _ _ _ _ hj]
  have hset : (∃ ls ps, u = { s with lines := ls, proxies := ps }) ∧ (s.line l).Written (u.line l) ∧ ∀ j, j ≠ l → u.line j = s.line j :=
    ⟨⟨_, s.proxies, hu⟩, by rw [hline]; exact ⟨rfl, rfl, rfl, rfl, rfl⟩, hother⟩
  have hgive : (∃ ls ps, u.giveExcl l w = { s with lines := ls, proxies := ps }) ∧ (s.line l).Written ((u.giveExcl l w).line l) ∧
      ∀ j, j ≠ l → (u.giveExcl l w).line j = s.line j := by
    have hgiven : (u.giveExcl l w).line l = { u.line l with dir := .exclusive w, racks := 0 } :=
      State.setLine_line_self u l { u.line l with dir := .exclusive w, racks := 0 }
    refine ⟨⟨_, _, by rw [hu]; rfl⟩, ?_, fun j hj => ?_⟩
    · rw [hgiven, hline]
      exact ⟨rfl, rfl, rfl, rfl, rfl⟩
    · exact (State.setLine_line_of_ne u l { u.line l with dir := .exclusive w, racks := 0 } j hj).trans (hother j hj)
  unfold State.claimLine
  rw [← hu]
  dsimp only
  split
  · exact hset
  · exact hset
  · split
    · exact hgive
    · exact hset

theorem State.writeLine_eq (s : State) (l : Nat) (mem : Memory) (w : Nat) : s.writeLine l mem w =
    ((((s.newBytes l mem).claimLine l w).1.noteEntries l).noteQueues l, ((s.newBytes l mem).claimLine l w).2) := by
  obtain ⟨ms, h⟩ := s.newBytes_frame l mem
  have hline : (s.newBytes l mem).line l = s.line l := by rw [h]; rfl
  unfold State.claimLine
  rw [hline]
  rfl

theorem State.writeLine_spec (s : State) (l : Nat) (mem : Memory) (w : Nat) : s.LineWritten l mem (s.writeLine l mem w).1 := by
  obtain ⟨ms, hnew⟩ := s.newBytes_frame l mem
  obtain ⟨⟨ls, ps, hclaim⟩, hline, hother⟩ := (s.newBytes l mem).claimLine_spec l w
  obtain ⟨ds, cs, xs, hent⟩ := ((s.newBytes l mem).claimLine l w).1.noteEntries_frame l
  obtain ⟨ts, ys, hq⟩ := State.InTeams.noteQueues (((s.newBytes l mem).claimLine l w).1.noteEntries l) l
  have hkeep (j : Nat) : (s.writeLine l mem w).1.line j = ((s.newBytes l mem).claimLine l w).1.line j := by
    rw [State.writeLine_eq, hq, hent]
    rfl
  have hold (j : Nat) : (s.newBytes l mem).line j = s.line j := by rw [hnew]; rfl
  have hmod (m : Nat) : (s.writeLine l mem w).1.module m = (s.newBytes l mem).module m := by
    rw [State.writeLine_eq, hq, hent, hclaim]
    rfl
  refine ⟨⟨ms, ls, ps, ds, cs, ys, ts, ?_⟩, ?_, fun j hj => ?_, fun m => by rw [hmod]; exact s.newBytes_module l mem m⟩
  · rw [State.writeLine_eq, hq, hent, hclaim, hnew]
  · rw [hkeep, ← hold l]
    exact hline
  · rw [hkeep, hother j hj, hold]

/-! #### The record of a write -/

/-- The record of a performed write that waits for acknowledgements. -/
theorem State.noteWriter_frame (s : State) (l : Nat) (o : Origin) : ∃ ls, s.noteWriter l o = { s with lines := ls } := by
  unfold State.noteWriter
  split
  · exact ⟨s.lines, rfl⟩
  · exact ⟨_, rfl⟩

/-- Beside its writers a line keeps its record. -/
theorem State.noteWriter_line (s : State) (l : Nat) (o : Origin) (j : Nat) :
    ∃ ws, (s.noteWriter l o).line j = { s.line j with writers := ws } := by
  unfold State.noteWriter
  split
  · exact ⟨_, rfl⟩
  · by_cases hj : j = l
    · subst hj
      rw [State.modLine, State.setLine_line_self]
      split
      · exact ⟨_, rfl⟩
      · exact ⟨_, rfl⟩
    · rw [State.modLine, State.setLine_line_of_ne _ _ _ _ hj]
      exact ⟨_, rfl⟩

/-- What the end of a write leaves: its record, the request that carried it, the line's writers. -/
structure State.WriteFinished (s : State) (l t : Nat) (wait : List Nat) (o : Origin) (w at_ : Nat) (r : Nat × State) : Prop where
  id : r.1 = s.nextId
  frame : ∃ ls rs, r.2 = { s with lines := ls, pend := s.pend ++ [⟨s.nextId, l, wait, t, o, w, at_⟩], reqs := rs, nextId := s.nextId + 1 }
  line : ∀ j, ∃ ws, r.2.line j = { s.line j with writers := ws }

theorem State.replyTo_frame (s : State) (p : Payload) (r : Reply) : ∃ rs, s.replyTo p r = { s with reqs := rs } := by
  unfold State.replyTo
  split
  · exact ⟨_, rfl⟩
  · exact ⟨s.reqs, rfl⟩

theorem State.finishWrite_spec (s : State) (l t : Nat) (wait : List Nat) (o : Origin) (w at_ : Nat) :
    s.WriteFinished l t wait o w at_ (s.finishWrite l t wait o w at_) := by
  obtain ⟨ls, hw⟩ := s.noteWriter_frame l o
  obtain ⟨u, hu⟩ : ∃ u : State, u = { s with lines := ls, pend := s.pend ++ [⟨s.nextId, l, wait, t, o, w, at_⟩], nextId := s.nextId + 1 } := ⟨_, rfl⟩
  have hpend : (s.noteWriter l o).pendWrite l t wait o w at_ = (s.nextId, u) := by rw [hw, hu]; rfl
  have hfin : ∃ rs, s.finishWrite l t wait o w at_ = (s.nextId, { u with reqs := rs }) := by
    unfold State.finishWrite
    rw [hpend]
    dsimp only
    split
    · exact ⟨u.reqs, rfl⟩
    · split
      · obtain ⟨rs, hr⟩ := State.replyTo_frame { u with reqs := u.reqs.map (fun q =>
          if q.payload = _ ∧ q.arrived ∧ q.reply = none then { q with performed := true, cached := q.payload.cachedKind } else q) } _ .done
        exact ⟨rs, by rw [hr]⟩
      · exact ⟨_, rfl⟩
  obtain ⟨rs, hfin⟩ := hfin
  rw [hfin]
  refine ⟨rfl, ⟨ls, rs, by rw [hu]⟩, fun j => ?_⟩
  obtain ⟨ws, hline⟩ := s.noteWriter_line l o j
  refine ⟨ws, ?_⟩
  rw [← hline, hw, hu]
  rfl

/-! #### The end of writes of engines, flags and the host -/

/-- t is s but for what a settled write of an engine or a flag changes. -/
def State.Settled (s t : State) : Prop := ∃ cs ds fs gs ts ls ps, t = { s with
  cores := cs, dies := ds, flags := fs, groups := gs, teams := ts, landings := ls, pend := ps }

theorem State.Settled.refl (s : State) : s.Settled s := ⟨s.cores, s.dies, s.flags, s.groups, s.teams, s.landings, s.pend, rfl⟩
theorem State.Settled.trans {s t u : State} (h : s.Settled t) (h' : t.Settled u) : s.Settled u := by
  obtain ⟨_, _, _, _, _, _, _, rfl⟩ := h
  obtain ⟨_, _, _, _, _, _, _, rfl⟩ := h'
  exact ⟨_, _, _, _, _, _, _, rfl⟩

theorem State.modMember_frame (s : State) (team gidx : Nat) (f : Group → Group) :
    ∃ gs ts, s.modMember team gidx f = { s with groups := gs, teams := ts } := by
  unfold State.modMember
  split
  · obtain ⟨gs, h⟩ := s.modGroup_frame _ f
    exact ⟨gs, s.teams, h⟩
  · obtain ⟨ts, h⟩ := s.modTeam_frame team (fun t => { t with images := t.images.map (fun e => if e.1 = gidx then (e.1, f e.2) else e) })
    exact ⟨s.groups, ts, h⟩

theorem State.Settled.modMember (s : State) (team gidx : Nat) (f : Group → Group) : s.Settled (s.modMember team gidx f) := by
  obtain ⟨gs, ts, h⟩ := s.modMember_frame team gidx f
  exact ⟨_, _, _, gs, ts, _, _, h⟩

theorem State.Settled.modTeam (s : State) (team : Nat) (f : Team → Team) : s.Settled (s.modTeam team f) := by
  obtain ⟨ts, h⟩ := s.modTeam_frame team f
  exact ⟨_, _, _, _, ts, _, _, h⟩

theorem State.Settled.raiseHz (s : State) (e : EngInst) (t : Nat) : s.Settled (s.raiseHz e t) := by
  cases e <;> exact ⟨_, _, _, _, _, _, _, rfl⟩

theorem State.Settled.flagInPlace (s : State) (i : Nat) (p : PendWrite) : s.Settled (s.flagInPlace i p) := by
  unfold State.flagInPlace
  split
  · exact .refl s
  · exact State.Settled.trans ⟨_, _, _, _, _, _, _, rfl⟩ ((State.Settled.modMember ..).trans (State.Settled.modTeam ..))

theorem State.Settled.settlePend (s : State) : s.Settled s.settlePend := by
  unfold State.settlePend
  refine State.Settled.trans (foldl_rel (R := State.Settled) State.Settled.refl (fun _ _ _ => State.Settled.trans) (fun s p => ?_)
    (s.pend.filter (fun p => p.wait.isEmpty)) s) ⟨_, _, _, _, _, _, _, rfl⟩
  split
  · exact .raiseHz ..
  · exact .flagInPlace ..
  all_goals exact .refl s

/-! #### What a store to a debug block does -/

/-- t is s but for what stores to debug blocks do: the bytes, in canonical form, the countdowns of cores, and the sequencers of the contexts,
all of which are still there. -/
def State.DbgStored (s t : State) : Prop :=
  (∃ cs xs m, t = { s with cores := cs, ctxs := xs, mem := m }) ∧ (s.mem.wf = true → t.mem.wf = true) ∧
    ∀ k, (s.ctx? k).isSome = true → (t.ctx? k).isSome = true

theorem State.modCtx_isSome (s : State) (k j : CtxKey) (f : Context → Context) (h : (s.ctx? j).isSome = true) :
    ((s.modCtx k f).ctx? j).isSome = true := by
  rw [State.modCtx_ctx]
  split
  · next hj => rwa [Option.isSome_map, ← hj]
  · exact h

namespace State.DbgStored

variable {s t u : State}

theorem refl (s : State) : s.DbgStored s := ⟨⟨s.cores, s.ctxs, s.mem, rfl⟩, id, fun _ => id⟩

theorem trans (h : s.DbgStored t) (h' : t.DbgStored u) : s.DbgStored u := by
  obtain ⟨⟨_, _, _, rfl⟩, hwf, hctx⟩ := h
  obtain ⟨⟨_, _, _, rfl⟩, hwf', hctx'⟩ := h'
  exact ⟨⟨_, _, _, rfl⟩, fun h => hwf' (hwf h), fun k h => hctx' k (hctx k h)⟩

theorem foldl {α : Type} {f : State → α → State} (h : ∀ s a, State.DbgStored s (f s a)) (l : List α) (s : State) :
    s.DbgStored (l.foldl f s) :=
  foldl_rel State.DbgStored.refl (fun _ _ _ => State.DbgStored.trans) h l s

theorem ite {c : Prop} [Decidable c] (h : s.DbgStored t) : s.DbgStored (if c then t else s) := by
  split
  · exact h
  · exact refl s

theorem modCtx (s : State) (k : CtxKey) (f : Context → Context) : s.DbgStored (s.modCtx k f) := by
  obtain ⟨xs, h⟩ := s.modCtx_frame k f
  exact ⟨⟨s.cores, xs, s.mem, h⟩, by rw [h]; exact id, fun j => s.modCtx_isSome k j f⟩

theorem setDbg (s : State) (k : CtxKey) (off v : Nat) : s.DbgStored (s.setDbg k off v) := by
  unfold State.setDbg
  split
  · exact ⟨⟨_, _, _, rfl⟩, fun h => mwriteN_wf _ _ _ h, fun _ => id⟩
  · exact refl s

theorem capture (s : State) (k : CtxKey) (r : List DWord) : s.DbgStored (s.capture k r) := by
  unfold State.capture
  extract_lets lg n u
  split
  · refine trans (t := u) ⟨⟨_, _, _, rfl⟩, fun h => mwriteN_wf _ _ _ h, fun _ => id⟩ (setDbg ..)
  · exact refl s

theorem putSeq (s : State) (k : CtxKey) (x : SeqSt) : s.DbgStored (s.putSeq k x) := by
  unfold State.putSeq
  extract_lets u
  have hu : s.DbgStored u := (setDbg ..).trans (setDbg ..)
  split
  · exact hu
  · refine hu.trans ?_
    unfold State.flushIssue
    split
    · exact refl u
    · exact refl u
    · exact (capture ..).trans (modCtx ..)

theorem modCore (s : State) (k : CoreKey) (f : Core → Core) : s.DbgStored (s.modCore k f) :=
  ⟨⟨_, _, _, rfl⟩, id, fun _ => id⟩

theorem storeReg (s : State) (k : CtxKey) (off v : Nat) : s.DbgStored (s.storeReg k off v) := by
  unfold State.storeReg
  extract_lets m u
  split
  · exact refl s
  · refine trans (t := u) ?_ (setDbg ..)
    simp only [u]
    split
    · exact foldl (fun s d => foldl (fun s i => modCore ..) _ s) _ s
    · exact refl s

theorem storeDbg (s : State) (k : CtxKey) (off v : Nat) : s.DbgStored (s.storeDbg k off v) := by
  unfold State.storeDbg
  split
  · exact (setDbg ..).trans (setDbg ..)
  · split
    · exact putSeq ..
    · split
      · exact ((setDbg ..).trans (setDbg ..)).trans (setDbg ..)
      · split
        · unfold State.storeWhrd
          dsimp only
          split
          · exact refl s
          · exact setDbg ..
        · exact storeReg ..

theorem storeFields (s : State) (l : Nat) (cov : List Nat) (old new : Memory) : s.DbgStored (s.storeFields l cov old new) := by
  unfold State.storeFields
  split
  · exact refl s
  · exact foldl (fun s i => ite (storeDbg ..)) _ s

end State.DbgStored

/-! #### Whatever performs writes -/

/-- t is s but for what writes of memory leave: the bytes, in canonical form, and the tables that take note of them; of a module they
change the moved table. -/
def State.Wrote (s t : State) : Prop :=
  (∃ ms ls ps ds cs xs ts gs fs la pe rs n m, t = { s with mods := ms, lines := ls, proxies := ps, dies := ds, cores := cs, ctxs := xs
                                                           teams := ts, groups := gs, flags := fs, landings := la, pend := pe
                                                           reqs := rs, nextId := n, mem := m }) ∧
    (∀ k, ∃ mv, t.module k = { s.module k with moved := mv }) ∧ (s.mem.wf = true → t.mem.wf = true)

namespace State.Wrote

variable {s t u : State}

theorem refl (s : State) : s.Wrote s :=
  ⟨⟨s.mods, s.lines, s.proxies, s.dies, s.cores, s.ctxs, s.teams, s.groups, s.flags, s.landings, s.pend, s.reqs, s.nextId, s.mem, rfl⟩,
    fun _ => ⟨_, rfl⟩, id⟩

theorem trans (h : s.Wrote t) (h' : t.Wrote u) : s.Wrote u := by
  obtain ⟨⟨_, _, _, _, _, _, _, _, _, _, _, _, _, _, rfl⟩, hmod, hwf⟩ := h
  obtain ⟨⟨_, _, _, _, _, _, _, _, _, _, _, _, _, _, rfl⟩, hmod', hwf'⟩ := h'
  refine ⟨⟨_, _, _, _, _, _, _, _, _, _, _, _, _, _, rfl⟩, fun k => ?_, fun h => hwf' (hwf h)⟩
  obtain ⟨_, hm⟩ := hmod k
  obtain ⟨mv, hm'⟩ := hmod' k
  exact ⟨mv, by rw [hm', hm]⟩

theorem foldl {α : Type} {f : State → α → State} (h : ∀ s a, State.Wrote s (f s a)) (l : List α) (s : State) : s.Wrote (l.foldl f s) :=
  foldl_rel State.Wrote.refl (fun _ _ _ => State.Wrote.trans) h l s

theorem ite {c : Prop} [Decidable c] (h : s.Wrote t) : s.Wrote (if c then t else s) := by
  split
  · exact h
  · exact refl s

theorem of_tables (s : State) (ds cs xs ts gs fs la pe rs ls ps n) : s.Wrote { s with
    dies := ds, cores := cs, ctxs := xs, teams := ts, groups := gs, flags := fs, landings := la, pend := pe, reqs := rs
    lines := ls, proxies := ps, nextId := n } :=
  ⟨⟨_, _, _, _, _, _, _, _, _, _, _, _, _, _, rfl⟩, fun _ => ⟨_, rfl⟩, id⟩

theorem of_inTeams (h : s.InTeams t) : s.Wrote t := by
  obtain ⟨_, _, rfl⟩ := h
  exact of_tables ..

theorem of_settled (h : s.Settled t) : s.Wrote t := by
  obtain ⟨_, _, _, _, _, _, _, rfl⟩ := h
  exact of_tables ..

theorem modCtx (s : State) (k : CtxKey) (f : Context → Context) : s.Wrote (s.modCtx k f) := of_inTeams (.modCtx ..)

theorem of_dbgStored (h : s.DbgStored t) : s.Wrote t := by
  obtain ⟨⟨_, _, _, rfl⟩, hwf, -⟩ := h
  exact ⟨⟨_, _, _, _, _, _, _, _, _, _, _, _, _, _, rfl⟩, fun _ => ⟨_, rfl⟩, hwf⟩

theorem writeLine (s : State) (l : Nat) {mem : Memory} (w : Nat) (h : s.mem.wf = true → mem.wf = true) : s.Wrote (s.writeLine l mem w).1 := by
  obtain ⟨⟨_, _, _, _, _, _, _, hframe⟩, -, -, hmod⟩ := s.writeLine_spec l mem w
  refine ⟨⟨_, _, _, _, _, _, _, _, _, _, _, _, _, _, hframe⟩, hmod, ?_⟩
  rw [hframe]
  exact h

theorem finishWrite (s : State) (l t : Nat) (wait : List Nat) (o : Origin) (w at_ : Nat) : s.Wrote (s.finishWrite l t wait o w at_).2 := by
  obtain ⟨-, ⟨ls, rs, h⟩, -⟩ := s.finishWrite_spec l t wait o w at_
  exact ⟨⟨_, ls, _, _, _, _, _, _, _, _, _, rs, _, _, h⟩, fun m => by rw [h]; exact ⟨_, rfl⟩, by rw [h]; exact id⟩

end State.Wrote

/-- A pass of writes keeps the canonical form. -/
theorem wf_foldl {α : Type} {f : Memory → α → Memory} (h : ∀ m a, m.wf = true → (f m a).wf = true) (l : List α) {m : Memory}
    (hm : m.wf = true) : (l.foldl f m).wf = true := by
  induction l generalizing m with
  | nil => exact hm
  | cons a l ih => exact ih (h m a hm)

/-- A register block keeps the canonical form of the bytes that a line is given. -/
theorem State.keepRegs_wf (s : State) (l : Nat) {new : Memory} (h : new.wf = true) : (s.keepRegs l new).wf = true := by
  unfold State.keepRegs
  split
  · exact h
  · refine wf_foldl (fun m i hm => ?_) _ h
    cases hf : s.fieldMask (l * 128 + 8 * i) with
    | none => simpa only [hf] using hm
    | some w => simpa only [hf] using mwriteN_wf _ _ _ hm

theorem RedEnt.apply_wf (r : RedEnt) {m : Memory} (h : m.wf = true) : (r.apply m).wf = true :=
  wf_foldl (fun _ _ hm => mwriteN_wf _ _ _ hm) _ h

namespace State.Wrote

variable {s : State}

theorem store (s : State) (l : Nat) {new : Memory} (cov : List Nat) (w : Nat) (h : s.mem.wf = true → new.wf = true) :
    s.Wrote (s.store l new cov w).1 := by
  unfold State.store
  split
  · exact (writeLine s l w (fun hs => s.keepRegs_wf l (h hs))).trans (of_dbgStored (.storeFields ..))
  · exact writeLine s l w h

theorem setEntry (s : State) (k : GKey) (e : Nat) (st : SbSt) : s.Wrote (s.setEntry k e st) := by
  obtain ⟨gs, h⟩ := s.modGroup_frame k (fun g => { g with sb := g.sb.map (fun x => if x.id = e then { x with st := st } else x) })
  exact ⟨⟨_, _, _, _, _, _, _, gs, _, _, _, _, _, _, h⟩, fun m => by rw [State.setEntry, h]; exact ⟨_, rfl⟩, by rw [State.setEntry, h]; exact id⟩

theorem count (s : State) (k : CtxKey) (i n : Nat) : s.Wrote (s.count k i n) := by
  obtain ⟨cs, h⟩ := s.count_frame k i n
  rw [h]
  exact of_tables ..

theorem countOp (s : State) (k : CtxKey) (op : SbOp) : s.Wrote (s.countOp k op) := by
  unfold State.countOp State.countFadd
  split
  · exact count ..
  · exact count ..
  · split
    · exact (count ..).trans (count ..)
    · exact (count ..).trans (count ..)
    · exact count ..

theorem entryDone (s : State) (k : GKey) (e w : Nat) : s.Wrote (s.entryDone k e w) := by
  unfold State.entryDone
  refine trans ?_ (setEntry ..)
  split
  · exact countOp ..
  · exact refl s

/- The two functions are abstracted first, so that no reduction of the matches evaluates them. -/
theorem applyRed (s : State) (l : Nat) : s.Wrote (s.applyRed l) := by
  unfold State.applyRed
  obtain ⟨store', hs⟩ : ∃ f, f = State.store := ⟨_, rfl⟩
  obtain ⟨fin, hf⟩ : ∃ f, f = State.finishWrite := ⟨_, rfl⟩
  rw [← hs, ← hf]
  dsimp only
  split
  · exact refl s
  · next r _ =>
    have hstore := store (s.setLine l { s.line l with red := none }) l [] (match r.from_ with
      | [] => lineMod l
      | (k, _) :: rest => if rest.all (fun c => c.1.m == k.m) then k.m else lineMod l) r.apply_wf
    rw [← hs] at hstore
    refine ((of_tables ..).trans hstore).trans (foldl (fun v c => ?_) _ _)
    rw [hf]
    exact (finishWrite ..).trans (entryDone ..)

theorem closeRed (s : State) (l : Nat) : s.Wrote (s.closeRed l) := by
  unfold State.closeRed
  split
  · exact applyRed ..
  · exact refl s

theorem hwStore (s : State) (pa : Nat) (bs : List Byte) : s.Wrote (s.hwStore pa bs) := by
  unfold State.hwStore
  exact (closeRed ..).trans ((writeLine _ _ _ (fun h => mwriteN_wf _ _ _ h)).trans ((finishWrite ..).trans (of_settled (.settlePend _))))

end State.Wrote

/-! #### A store of the hardware -/

theorem State.applyRed_none {s : State} {l : Nat} (h : (s.line l).red = none) : s.applyRed l = s := by
  simp only [State.applyRed, h]

theorem State.closeRed_none {s : State} {l : Nat} (h : (s.line l).red = none) : s.closeRed l = s := by
  rw [State.closeRed, State.applyRed_none h, ite_self]

theorem State.hwStore_mem {s : State} {pa : Nat} (bs : List Byte) (h : (s.line (lineOf pa)).red = none) :
    (s.hwStore pa bs).mem = mwriteN s.mem pa bs := by
  unfold State.hwStore
  rw [State.closeRed_none h]
  dsimp only
  generalize hw : s.writeLine (lineOf pa) (mwriteN s.mem pa bs) (paMod pa) = r
  obtain ⟨_, _, _, _, _, _, _, hline⟩ := (s.writeLine_spec (lineOf pa) (mwriteN s.mem pa bs) (paMod pa)).frame
  rw [hw] at hline
  obtain ⟨_, _, hfin⟩ := (r.1.finishWrite_spec (lineOf pa) r.2.1 r.2.2 .host (paMod pa) ((s.line (lineOf pa)).point.mod (lineOf pa))).frame
  obtain ⟨_, _, _, _, _, _, _, hset⟩ := State.Settled.settlePend (r.1.finishWrite (lineOf pa) r.2.1 r.2.2 .host (paMod pa)
    ((s.line (lineOf pa)).point.mod (lineOf pa))).2
  rw [hset, hfin, hline]

end Sys2Proof.Machine

/-! ### launch, qpop and evsig (spec/14 R283 to R286) -/

namespace Sys2Proof.Machine

/-- The parts of launch's load of its packet: the first lane of the fragment, at the address in sA. -/
def Iss.launchParts (x : Iss) (a : SReg) : List XPart :=
  x.s.parts x.g.key .read (maskOf ((lanesOf x.f.mask).take 1)) 64 (fun _ => x.g.regs.rdS a.val)

theorem launchResults : Claims.LaunchResults := by
  intro la d a b s x h
  refine ⟨fun hal => ?_, fun hal hrel hok => ?_⟩
  · show execLaunch la d a b s = _
    exact issue_ok h (if_pos hal)
  · refine ⟨x.noteAccess (x.s.noteParts x.k x.g.key (x.launchParts a)) 0 ((x.launchParts a).map (fun p => (p.va, p.len))),
      { x.flight (.launch d.val ((x.g.regs.rdS b.val).toNat % 256)) (Instr.dests (.launch la d a b)) with
        parts := (x.launchParts a).map globalPart },
      (AccessNoted.noteParts ..).trans (AccessNoted.noteAccess ..), ?_, rfl, rfl⟩
    show execLaunch la d a b s = _
    refine issue_ok h ((if_neg (not_not.mpr hal)).trans ((Iss.withRelease_go hrel _).trans ?_))
    simp only [decide130_ok hok]
    rfl

/-! #### qpop -/

section
variable {s : State} {k : CtxKey} {q : Nat} {qu : Queue} (nb : Bool)

theorem State.pop_none (h : s.queue? k q = none) : s.pop k q nb = (some (0, 2), s) := by
  simp only [State.pop, h]

theorem State.pop_command (h : s.queue? k q = some qu) (hd : qu.data = false) : s.pop k q nb = (some (0, 2), s) := by
  simp only [State.pop, h, hd, Bool.not_false, if_true]

theorem State.pop_empty (h : s.queue? k q = some qu) (hd : qu.data = true) (he : s.qHead qu = s.qTail qu) :
    s.pop k q nb = (if nb then some (0, 1) else none, s) := by
  simp only [State.pop, h, hd, he, Bool.not_true, Bool.false_eq_true, if_false, ne_eq, not_true_eq_false, false_and]
  cases nb <;> rfl

theorem State.pop_entry (h : s.queue? k q = some qu) (hd : qu.data = true) (he : s.qHead qu ≠ s.qTail qu) (hoff : qu.off = false) :
    s.pop k q nb = (some (BitVec.ofNat 64 (mnat s.mem (qu.slotAt (s.qHead qu)) 8), 0),
      (s.hwStore (qu.block + 8) (toBytes 8 (mnat s.mem (qu.block + 8) 8 / 2 ^ 63 * 2 ^ 63 + (s.qHead qu + 1) % 2 ^ 63) ++
        toBytes 8 (s.qHead qu + 1))).count k (idxBytes .group) 8) := by
  simp only [State.pop, h, hd, hoff, Bool.not_true, Bool.false_eq_true, if_false, ne_eq, he, not_false_eq_true, Bool.not_false, and_self,
    if_true]

end

theorem State.count_mem (s : State) (k : CtxKey) (i n : Nat) : (s.count k i n).mem = s.mem := by
  obtain ⟨cs, h⟩ := s.count_frame k i n
  rw [h]

/-- The flight of a qpop whose try gave r. -/
def Iss.popFlight (x : Iss) (i : Instr) (d a : SReg) : Option (DWord × Nat) → Flight
  | some r => { x.flight (.qpop d.val ((x.g.regs.rdS a.val).toNat % 256)) (Instr.dests i) with
      acq := true, ready := true, writes := popWrites d.val r }
  | none => { x.flight (.qpop d.val ((x.g.regs.rdS a.val).toNat % 256)) (Instr.dests i) with acq := true }

theorem Iss.qpop_go {x : Iss} (i : Instr) (la : Nat) (d a : SReg) (nb : Bool) (hacq : x.g.acqBlocks x.f.mask x.g.nextId = false)
    {r : Option (DWord × Nat)} {t : State} (h : x.s.pop x.g.key ((x.g.regs.rdS a.val).toNat % 256) nb = (r, t)) :
    x.qpop i la d a nb = .ok (t.setGroup x.k (x.g.launchFlight x.sl x.f x.next la (x.popFlight i d a r))) := by
  unfold Iss.qpop
  simp only [hacq, Bool.false_eq_true, if_false, h]
  cases r <;> rfl

theorem exec_qpop {la : Fin 16} {d a : SReg} {i : Instr} {nb : Bool} (h : (i, nb) ∈ [(.qpop la d a, false), (.qpopNb la d a, true)])
    {s : State} {x : Iss} (hx : prelude i s = .go x) {t : State} (hbody : x.qpop i la.val d a nb = .ok t) : exec i s = .next (x.done t) := by
  simp only [List.mem_cons, List.not_mem_nil, or_false] at h
  rcases h with h | h <;> cases h
  · exact (show exec (.qpop la d a) s = execQpop la d a s from rfl).trans (issue_ok hx hbody)
  · exact (show exec (.qpopNb la d a) s = execQpopNb la d a s from rfl).trans (issue_ok hx hbody)

theorem queuePops : Claims.QueuePops := by
  intro la d a s x i nb hi hx hacq
  obtain ⟨r, t, hpop⟩ : ∃ r t, x.s.pop x.g.key ((x.g.regs.rdS a.val).toNat % 256) nb = (r, t) := ⟨_, _, rfl⟩
  refine ⟨t, x.popFlight i d a r, exec_qpop hi hx (Iss.qpop_go i la.val d a nb hacq hpop), ?_, ?_, ?_, ?_, fun hq => ?_, fun q hq hd => ?_,
    fun q hq hd => ⟨fun he => ?_, fun he hoff hred => ?_⟩⟩
  · cases r <;> rfl
  · cases r <;> rfl
  · cases r <;> rfl
  · cases r <;> rfl
  · obtain ⟨rfl, rfl⟩ := Prod.mk.inj (hpop.symm.trans (State.pop_none nb hq))
    exact ⟨rfl, rfl, rfl⟩
  · obtain ⟨rfl, rfl⟩ := Prod.mk.inj (hpop.symm.trans (State.pop_command nb hq hd))
    exact ⟨rfl, rfl, rfl⟩
  · obtain ⟨rfl, rfl⟩ := Prod.mk.inj (hpop.symm.trans (State.pop_empty nb hq hd he))
    cases nb
    · exact ⟨rfl, rfl, nofun⟩
    · exact ⟨rfl, rfl, fun _ => rfl⟩
  · obtain ⟨rfl, rfl⟩ := Prod.mk.inj (hpop.symm.trans (State.pop_entry nb hq hd he hoff))
    refine ⟨rfl, rfl, ?_⟩
    exact (State.count_mem ..).trans (State.hwStore_mem _ hred)

/-! #### Events -/

/-- A packet that completes writes PROGRESS and changes no event. -/
theorem State.Wrote.completePacket (s : State) (k : CtxKey) (q idx : Nat) : s.Wrote (s.completePacket k q idx) := by
  unfold State.completePacket
  extract_lets t
  refine (show s.Wrote t from modCtx ..).trans ?_
  split
  · exact refl _
  · extract_lets n w
    split
    · exact refl _
    · exact (show State.Wrote t _ from modCtx ..).trans (hwStore ..)

theorem State.Wrote.events {s t : State} (h : s.Wrote t) (m : Nat) : (t.module m).events = (s.module m).events := by
  obtain ⟨-, hmod, -⟩ := h
  obtain ⟨mv, hmv⟩ := hmod m
  rw [hmv]

theorem find?_map_fst {α : Type} {es : List (Nat × α)} {id : Nat} (a : α) (h : ∃ e ∈ es, e.1 = id) :
    (es.map (fun e => if e.1 = id then (id, a) else e)).find? (fun e => e.1 == id) = some (id, a) := by
  induction es with
  | nil => obtain ⟨e, he, -⟩ := h; cases he
  | cons e es ih =>
    by_cases hid : e.1 = id
    · simp [hid]
    · have hes : ∃ e ∈ es, e.1 = id := by
        obtain ⟨e', he', hid'⟩ := h
        rcases List.mem_cons.mp he' with rfl | he'
        · exact absurd hid' hid
        · exact ⟨e', he', hid'⟩
      simp [hid, ih hes]

/-- An event after an addition of n: the waiters that its count reaches are gone. -/
def Event.add (e : Event) (n : Nat) : Event :=
  let c : DWord := BitVec.ofNat 64 (min (e.count.toNat + n) (2 ^ 64 - 1))
  { e with count := c, inline := e.inline.filter (fun w => !decide (w.2.2.2 ≤ c.toNat))
           overflow := e.overflow.filter (fun w => !decide (w.2.2.2 ≤ c.toNat)) }

theorem State.addEvent_events {s : State} {k : CtxKey} {id : Nat} {e : Event} (n : Nat) (pc : DWord) (team grp : Nat)
    (h : (s.module k.m).events.find? (fun e => e.1 == id && e.2.key == k) = some (id, e)) :
    ((s.addEvent k id n pc team grp).module k.m).events =
      (s.module k.m).events.map (fun x => if x.1 = id then (id, e.add n) else x) := by
  unfold State.addEvent
  simp only [h]
  refine (State.Wrote.events (State.Wrote.foldl (fun s w => .completePacket ..) _ _) k.m).trans ?_
  rw [State.setModule_module_self]
  rfl

theorem State.applyAdd_count {s : State} {b : EvAdd} {e : Event}
    (h : (s.module b.key.m).events.find? (fun e => e.1 == b.id && e.2.key == b.key) = some (b.id, e)) :
    (((s.applyAdd b).module b.key.m).events.find? (fun e => e.1 == b.id)).map (fun e => e.2.count) =
      some (BitVec.ofNat 64 (min (e.count.toNat + b.n) (2 ^ 64 - 1))) := by
  have hev := State.addEvent_events b.n b.pc b.team b.grp h
  have hdone : (s.addEvent b.key b.id b.n b.pc b.team b.grp).Wrote (s.applyAdd b) := by
    unfold State.applyAdd
    split
    · exact .completePacket ..
    · exact .refl _
    · exact .refl _
  have hmem : ∃ x ∈ (s.module b.key.m).events, x.1 = b.id := ⟨_, List.mem_of_find?_eq_some h, rfl⟩
  rw [hdone.events, hev, find?_map_fst (e.add b.n) hmem]
  rfl

theorem eventSignal : Claims.EventSignal := by
  refine ⟨?_, fun s b e h => State.applyAdd_count h⟩
  intro a s x e h hrel he
  have hadds : ∀ b, ((x.s.sendAdd x.k.m b).module x.k.m).adds = (x.s.module x.k.m).adds.filter (fun c => decide (c.rank ≤ b.rank)) ++
      b :: (x.s.module x.k.m).adds.filter (fun c => decide (b.rank < c.rank)) := fun b => by
    rw [State.sendAdd, State.modModule, State.setModule_module_self]
  refine ⟨x.s.sendAdd x.k.m e, ?_, ?_, ?_⟩
  · subst he
    exact issue_ok h (Iss.withRelease_go hrel _)
  · rw [hadds]
    rfl
  · rw [hadds, he]
    rfl

/-- Settles O41: an empty queue makes qpop wait and gives qpop.nb status 1; HEAD advances by a hardware store, which writes the queue's
block and no other byte; the completions of an event's waiters change no event. -/
theorem queueWords : Obligations.QueueWords := ⟨launchResults, queuePops, eventSignal⟩

end Sys2Proof.Machine

/-! ### Global loads (spec/07 R125, R130, R132) -/

namespace Sys2Proof.Machine

section
variable {x : Iss}

/-- What a global load notes beside its effect. -/
def Iss.loadNoted (x : Iss) (spec : Bool) (ok : List XPart) : State :=
  (x.noteAccess (x.s.noteParts x.k x.g.key ok) 0 (ok.map (fun p => (p.va, p.len)))).sample x.k x.g (x.carrying ok).f.mark
    (x.requests (if spec then 3 else 0) x.g.nextId (lineReqs (ok.map (fun p => (p.lane, p.va)))))

theorem Iss.loadNoted_noted (x : Iss) (spec : Bool) (ok : List XPart) : AccessNoted x.s (x.loadNoted spec ok) :=
  ((AccessNoted.noteParts ..).trans (AccessNoted.noteAccess ..)).trans (AccessNoted.sample ..)

/-- A part of a global load: with its bytes where a stale line gives them. -/
def Iss.loadPart (x : Iss) (stale : List (Nat × LaneMask × DWord × Copy)) (p : XPart) : Part :=
  match stale.find? (fun e => e.1 == lineOf p.pa) with
  | some e => (globalPart p).took (partBytes x.g p.pa p.len (fun a => e.2.2.2.data.getD (a % 128) 0#8))
  | none => globalPart p

/-- The flight of a global load. -/
def Iss.loadFlight (x : Iss) (i : Instr) (f : MemF) (act : LaneMask) (ps : List Part) : Flight :=
  { x.flight (.load f.size f.d.val) (Instr.dests i) with act := act, parts := ps, acq := f.order.acq }

/-- A global load whose parts all translate and that reads no stale line. -/
theorem Iss.ldGlobal_plain {i : Instr} {f : MemF} {spec : Bool} {ps : List XPart}
    (hps : ps = x.s.parts x.g.key .read x.act (sizeBytes f.size) (fun l => x.g.regs.ea f.addr l))
    (hall : x.allTranslate .read (sizeBytes f.size) (fun l => x.g.regs.ea f.addr l))
    (hstale : (if spec then (x.specLines ps).getD [] else []) = []) :
    x.ldGlobal i f spec = .ok ((x.loadNoted spec ps).setGroup x.k ((x.g.unmark x.sl).launchFlight x.sl { x.f with mark := none } x.next
      f.la.val (x.loadFlight i f x.act (ps.map globalPart)))) := by
  have hdec := hall.decide130
  have hspent := x.spent_parts .read (fun l => x.g.regs.ea f.addr l) (sizeBytes_pos f.size) x.g 0
  rw [← hps] at hdec hspent
  have hact : x.act &&& ~~~0#32 = x.act := BitVec.and_allOnes
  simp only [Iss.ldGlobal, ← hps, hdec, hspent, hstale, List.isEmpty_nil, Bool.not_true, Bool.false_and, Bool.false_eq_true, if_false, hact,
    List.find?_nil, if_true]
  rfl

theorem globalLoadWords : Claims.GlobalLoadWords := by
  intro f i s x h hi hall
  obtain ⟨ps, hps⟩ : ∃ ps, ps = x.s.parts x.g.key .read x.act (sizeBytes f.size) (fun l => x.g.regs.ea f.addr l) := ⟨_, rfl⟩
  rw [← hps] at hi
  obtain ⟨spec, hexec, hstale⟩ : ∃ spec, exec i s = issue i s (fun x => x.ldGlobal i f spec) ∧
      (if spec then (x.specLines ps).getD [] else []) = [] := by
    rcases hi with rfl | ⟨rfl, hst⟩
    · exact ⟨false, rfl, rfl⟩
    · exact ⟨true, rfl, hst⟩
  refine ⟨x.loadNoted spec ps, x.loadFlight i f x.act (ps.map globalPart), x.loadNoted_noted spec ps, ?_, rfl, by rw [← hps]; rfl⟩
  rw [hexec]
  exact issue_ok h (Iss.ldGlobal_plain hps hall hstale)

/-! #### Speculation on a stale line -/

theorem List.filterMap_eq_singleton {α β : Type} {g : α → Option β} {l : List α} {a : α} {b : β} (hl : l.Nodup) (ha : a ∈ l)
    (hb : g a = some b) (hother : ∀ c ∈ l, c ≠ a → g c = none) : l.filterMap g = [b] := by
  induction l with
  | nil => cases ha
  | cons c l ih =>
    obtain ⟨hc, hl⟩ := List.nodup_cons.mp hl
    by_cases hca : c = a
    · subst hca
      have hrest : l.filterMap g = [] := List.filterMap_eq_nil_iff.mpr fun d hd =>
        hother d (List.mem_cons_of_mem _ hd) (ne_of_mem_of_not_mem hd hc)
      rw [List.filterMap_cons_some hb, hrest]
    · rw [List.filterMap_cons_none (hother c List.mem_cons_self hca)]
      exact ih hl ((List.mem_cons.mp ha).resolve_left (Ne.symm hca)) fun d hd => hother d (List.mem_cons_of_mem _ hd)

theorem List.nodup_eraseDups {α : Type} [BEq α] [LawfulBEq α] (l : List α) : l.eraseDups.Nodup := by
  match l with
  | [] => exact List.nodup_nil
  | a :: as =>
    rw [List.eraseDups_cons]
    refine List.nodup_cons.mpr ⟨fun h => ?_, nodup_eraseDups _⟩
    simpa using List.mem_eraseDups.mp h
termination_by l.length
decreasing_by exact Nat.lt_succ_of_le (List.length_filter_le ..)

/-- The one stale line that an ld.spec reads, with its lanes and its copy. -/
def staleEntry (ps : List XPart) (L : Nat) (p0 : XPart) (cp : Copy) : Nat × LaneMask × DWord × Copy :=
  (L, maskOf ((ps.filter (fun p => lineOf p.pa = L)).map (fun p => p.lane)), p0.va, cp)

theorem Iss.specLines_single {ps : List XPart} {L : Nat} {p0 : XPart} {cp : Copy} (hp0 : ps.find? (fun p => lineOf p.pa = L) = some p0)
    (hcp : x.s.staleCopy x.k.die L = some cp) (hother : ∀ p ∈ ps, lineOf p.pa ≠ L → x.s.staleCopy x.k.die (lineOf p.pa) = none)
    (hnew : ∀ y ∈ (x.s.core x.k.core).eyelets, y.grp = x.k.g → y.pa ≠ L) (hroom : (x.s.core x.k.core).eyelets.length < 64)
    (hmine : ((x.s.core x.k.core).eyelets.filter (fun y => y.grp = x.k.g)).length < 8) :
    x.specLines ps = some [staleEntry ps L p0 cp] := by
  obtain ⟨us, hus⟩ := filter_eq_cons_of_find? hp0
  have hmem : L ∈ (ps.map (fun p => lineOf p.pa)).eraseDups :=
    List.mem_eraseDups.mpr (List.mem_map.mpr ⟨p0, List.mem_of_find?_eq_some hp0, by simpa using List.find?_some hp0⟩)
  have hstale : ((ps.map (fun p => lineOf p.pa)).eraseDups.filterMap (fun l => match x.s.staleCopy x.k.die l with
      | none => none
      | some cp => some (l, maskOf ((ps.filter (fun p => lineOf p.pa == l)).map (·.lane)),
          ((ps.filter (fun p => lineOf p.pa == l)).head?.map (·.va)).getD 0, cp))) = [staleEntry ps L p0 cp] := by
    refine List.filterMap_eq_singleton (List.nodup_eraseDups _) hmem ?_ fun l hl hne => ?_
    · have hus' : ps.filter (fun p => lineOf p.pa == L) = p0 :: us := hus
      have hus'' : ps.filter (fun p => decide (lineOf p.pa = L)) = p0 :: us := hus
      simp only [hcp, hus', staleEntry, hus'', List.head?_cons, Option.map_some, Option.getD_some]
    · obtain ⟨p, hp, rfl⟩ := List.mem_map.mp (List.mem_eraseDups.mp hl)
      simp only [hother p hp hne]
  have hnone : (x.s.core x.k.core).eyelets.any (fun y => y.pa == L && y.grp == x.k.g) = false :=
    List.any_eq_false.mpr fun y hy => by
      simp only [Bool.and_eq_true, beq_iff_eq, not_and]
      exact fun hpa hgrp => hnew y hy hgrp hpa
  unfold Iss.specLines
  extract_lets c ls stale news mine
  have hs : stale = [staleEntry ps L p0 cp] := hstale
  have hn : news = [staleEntry ps L p0 cp] := by
    show stale.filter _ = _
    rw [hs]
    exact List.filter_eq_self.mpr fun e he => by
      rw [List.mem_singleton.mp he]
      exact congrArg Bool.not hnone
  rw [hn, hs, if_pos ⟨hroom, hmine⟩]

/-- The core with one more eyelet. -/
def Core.withEyelet (c : Core) (e : Eyelet) : Core := { c with eyelets := c.eyelets ++ [e] }

theorem Core.addEyelets_single {c : Core} {grp lease : Nat} {e : Nat × LaneMask × DWord × Copy}
    (h : ∀ y ∈ c.eyelets, y.grp = grp → y.pa ≠ e.1) :
    c.addEyelets grp lease [e] = c.withEyelet ⟨e.2.2.1.ushiftRight 7, e.1, e.2.2.2.ver, e.2.1, grp, lease, false⟩ := by
  have hnone : c.eyelets.any (fun y => y.pa == e.1 && y.grp == grp) = false :=
    List.any_eq_false.mpr fun y hy => by
      simp only [Bool.and_eq_true, beq_iff_eq, not_and]
      exact fun hpa hgrp => h y hy hgrp hpa
  simp only [Core.addEyelets, List.foldl_cons, List.foldl_nil, hnone, Bool.false_eq_true, if_false]
  rfl

theorem Iss.ldGlobal_stale {i : Instr} {f : MemF} {ps : List XPart} {e : Nat × LaneMask × DWord × Copy}
    (hps : ps = x.s.parts x.g.key .read x.act (sizeBytes f.size) (fun l => x.g.regs.ea f.addr l))
    (hall : x.allTranslate .read (sizeBytes f.size) (fun l => x.g.regs.ea f.addr l)) (hstale : x.specLines ps = some [e]) :
    x.ldGlobal i f true = if x.g.acqBlocks x.f.mask x.g.nextId then .wait else
      .ok (((x.loadNoted true ps).modCore x.k.core (fun c => c.addEyelets x.k.g x.g.sr.lease.toNat [e])).setGroup x.k
        ((x.g.unmark x.sl).launchFlight x.sl { x.f with mark := none } x.next f.la.val (x.loadFlight i f x.act (ps.map (x.loadPart [e]))))) := by
  have hdec := hall.decide130
  have hspent := x.spent_parts .read (fun l => x.g.regs.ea f.addr l) (sizeBytes_pos f.size) x.g 0
  rw [← hps] at hdec hspent
  have hact : x.act &&& ~~~0#32 = x.act := BitVec.and_allOnes
  simp only [Iss.ldGlobal, ← hps, hdec, hspent, hstale, Option.getD_some, List.isEmpty_cons, Bool.not_false, Bool.true_and,
    Bool.false_eq_true, if_false, hact, if_true]
  rfl

theorem Iss.loadPart_stale (x : Iss) (ps : List XPart) (L : Nat) (p0 : XPart) (cp : Copy) (p : XPart) :
    x.loadPart [staleEntry ps L p0 cp] p = ⟨p.lane, .global, p.pa, p.va, p.off, p.len, 0, 0, if lineOf p.pa = L then
      some ((List.range p.len).map (fun i => (x.g.forward (p.pa + i)).getD (cp.data.getD ((p.pa + i) % 128) 0#8))) else none, p.leaf⟩ := by
  by_cases hL : lineOf p.pa = L
  · have hfind : [staleEntry ps L p0 cp].find? (fun e => e.1 == lineOf p.pa) = some (staleEntry ps L p0 cp) := by simp [staleEntry, hL]
    simp only [Iss.loadPart, hfind, if_pos hL]
    rfl
  · have hfind : [staleEntry ps L p0 cp].find? (fun e => e.1 == lineOf p.pa) = none := by simp [staleEntry, Ne.symm hL]
    simp only [Iss.loadPart, hfind, if_neg hL]
    rfl

theorem speculativeLoadOfStaleLine : Claims.SpeculativeLoadOfStaleLine := by
  intro f s x L cp ps p0 h hall hps hp0 hcp hother hnew hroom hmine
  have hbody := Iss.ldGlobal_stale (i := .ldSpec f) hps hall (Iss.specLines_single hp0 hcp hother hnew hroom hmine)
  refine ⟨fun hacq => ?_, fun hacq => ?_⟩
  · show execLdSpec f s = _
    exact issue_wait h (hbody.trans (if_pos hacq))
  · have hnoted := x.loadNoted_noted true ps
    refine ⟨x.loadNoted true ps, x.loadFlight (.ldSpec f) f x.act (ps.map (x.loadPart [staleEntry ps L p0 cp])), hnoted, ?_, rfl,
      congrArg (List.map · ps) (funext (x.loadPart_stale ps L p0 cp))⟩
    show execLdSpec f s = _
    refine issue_ok h (hbody.trans ((if_neg (by simp [hacq])).trans ?_))
    have heye : ((x.loadNoted true ps).core x.k.core).eyelets = (x.s.core x.k.core).eyelets :=
      (congrArg (fun c : Core => c.eyelets) (hnoted.core x.k.core) :)
    refine congrArg (fun c => Res.ok (((x.loadNoted true ps).setCore x.k.core c).setGroup x.k _)) ?_
    exact Core.addEyelets_single fun y hy => hnew y (heye ▸ hy)

end

/-! #### Lanes that meet a page fault -/

section
variable {s : State} {x : Iss}

theorem Iss.spent_eq {x : Iss} (h : x.g.frag x.sl = some x.f) (kind : Nat) (ok : List XPart) (f : Option Faulted) :
    ∃ f1, x.spent x.g kind ok f = x.g.setFrag x.sl (some f1) := by
  have hself : x.g = x.g.setFrag x.sl (some x.f) := by
    cases hsl : x.sl <;> simp only [hsl, Group.frag] at h <;> simp only [Group.setFrag, ← h]
  have hmark : ∃ f1, (if x.marked ok then x.g.unmark x.sl else x.g) = x.g.setFrag x.sl (some f1) := by
    split
    · exact ⟨_, Group.unmark_eq h⟩
    · exact ⟨_, hself⟩
  obtain ⟨f1, h1⟩ := hmark
  unfold Iss.spent
  rw [h1]
  split
  · exact ⟨f1, rfl⟩
  · extract_lets g
    show ∃ f2, Group.setFrag _ _ (Option.map _ (Group.frag (x.g.setFrag x.sl (some f1)) x.sl)) = _
    rw [Group.frag_setFrag_self, Option.map_some, Group.setFrag_setFrag]
    exact ⟨_, rfl⟩

/-- Marking a group for a replay keeps memory, but where a missing page is recorded. -/
theorem State.markReplay_mem (s : State) (k : GKey) (sl : Slot) (g : Group) (lanes : LaneMask) (f : Faulted) (acc : AccKind)
    (h : f.1 ≠ .notPresent) : (s.markReplay k sl g lanes f acc).mem = s.mem := by
  have hwait (s : State) (key : CtxKey) (va : DWord) : (s.waiterNote key va).mem = s.mem := by
    unfold State.waiterNote
    split <;> rfl
  have hqueue (s : State) (key : CtxKey) (va : DWord) (by_ : Issuer) : (s.queueGather key va by_).mem = s.mem := by
    unfold State.queueGather
    split
    · split <;> rfl
    · rfl
  obtain ⟨cs, ds, hwalk⟩ := s.noteWalk_frame k.core f.2.2.2
  unfold State.markReplay
  rw [hwalk]
  obtain ⟨kind, va, lvl, ws⟩ := f
  cases kind with
  | notPresent => exact absurd rfl h
  | gather => exact (hwait ..).trans (hqueue ..)
  | drain => exact hwait ..
  | absent => exact hwait ..
  | poolEmpty => exact hwait ..
  | movedStale => rfl

theorem State.markReplay_group (s : State) (k : GKey) (sl : Slot) (g : Group) (lanes : LaneMask) (f : Faulted) (acc : AccKind) :
    (s.markReplay k sl g lanes f acc).group? k = some { g with replay := some ⟨sl, f.1, f.2.1, acc, lanes, false, none⟩ } :=
  State.setGroup_group_self ..

/-- The flight of the lanes that do not fault, opened without a window. -/
def Group.openFlight (g : Group) (fl : Flight) : Group :=
  { g with nextId := g.nextId + 1, flights := g.flights ++ [{ fl with id := g.nextId, ord := g.nextId }] }

theorem Group.openFlight_setFrag_frag (g : Group) (sl : Slot) (f1 : Frag) (fl : Flight) :
    ((g.setFrag sl (some f1)).openFlight fl).frag sl = some f1 := by cases sl <;> rfl
theorem Group.openFlight_setFrag (g : Group) (sl : Slot) (a b : Option Frag) (fl : Flight) :
    ((g.setFrag sl a).openFlight fl).setFrag sl b = (g.openFlight fl).setFrag sl b := by cases sl <;> rfl

/-- The fragment at its word again, as before its issue, to execute for some lanes: with what the group's fragment keeps. -/
def Frag.again (f kept : Frag) (bad : LaneMask) : Frag :=
  { f with only := some bad, bpSkip := true, mark := kept.mark, hits := kept.hits, entering := kept.entering }

theorem Iss.ldGlobal_fault {f : MemF} {ok : List XPart} {bad : LaneMask} {F : Faulted} {f0 : Frag}
    (h : x.s.decide130 x.g.key x.g.team x.k.g x.f.pc
      (x.s.parts x.g.key .read x.act (sizeBytes f.size) (fun l => x.g.regs.ea f.addr l)) = .go ok bad (some F))
    (hx : x.g.frag x.sl = some x.f) (hf0 : (x.s.group? x.k).bind (fun g => g.frag x.sl) = some f0) :
    ∃ kept, x.ldGlobal (.ldg f) f false = .ok ((x.loadNoted false ok).markReplay x.k x.sl
      ((x.g.openFlight (x.loadFlight (.ldg f) f (x.act &&& ~~~bad) (ok.map globalPart))).setFrag x.sl (some (f0.again kept bad))) bad F .read) := by
  obtain ⟨f1, hspent⟩ := Iss.spent_eq hx 0 ok (some F)
  refine ⟨f1, ?_⟩
  simp only [Iss.ldGlobal, h, hspent, Bool.false_eq_true, if_false, List.isEmpty_nil, Bool.not_true, Bool.false_and, List.find?_nil]
  have hopen := Group.openFlight_setFrag_frag x.g x.sl f1 (x.loadFlight (.ldg f) f (x.act &&& ~~~bad) (ok.map globalPart))
  have hset := Group.openFlight_setFrag x.g x.sl (some f1) (some (f0.again f1 bad))
    (x.loadFlight (.ldg f) f (x.act &&& ~~~bad) (ok.map globalPart))
  rw [← hset]
  show Res.ok ((x.loadNoted false ok).markReplay x.k x.sl (((x.g.setFrag x.sl (some f1)).openFlight
    (x.loadFlight (.ldg f) f (x.act &&& ~~~bad) (ok.map globalPart))).setFrag x.sl (some ((Iss.uncounted _).again
      ((((x.g.setFrag x.sl (some f1)).openFlight (x.loadFlight (.ldg f) f (x.act &&& ~~~bad) (ok.map globalPart))).frag x.sl).getD _) bad))) bad F
        .read) = _
  rw [hopen]
  have hun : ({ x with f := { x.f with mark := none } } : Iss).uncounted = f0 := congrArg (Option.getD · _) hf0
  rw [hun]
  rfl

theorem faultingLanesReplay : Claims.FaultingLanesReplay := by
  intro f s x bad ok k va lvl ws h hdec
  obtain ⟨g0, f0, hg, hf, -, -, -, -, hs, hk, hsl, hxf, hxg, -, -⟩ := prelude_go h
  have hf0 : (s.group? x.k).bind (fun g => g.frag x.sl) = some f0 := by rw [hk, hsl, hg, Option.bind_some, hf]
  obtain ⟨kept, hbody⟩ := Iss.ldGlobal_fault hdec (prelude_go_frag h) (hs ▸ hf0)
  refine ⟨x.loadNoted false ok, _, _, { x.loadFlight (.ldg f) f (x.act &&& ~~~bad) (ok.map globalPart) with id := x.g.nextId, ord := x.g.nextId },
    f0, f0.again kept bad, x.loadNoted_noted false ok, rfl, issue_ok h hbody, State.markReplay_group .., fun hne => ?_, hf0,
    Group.frag_setFrag_self .., ?_, rfl, rfl, ?_, ?_, ?_, rfl, rfl, rfl, rfl, rfl, ?_, ?_⟩
  · obtain ⟨hmem, -, -⟩ := (x.loadNoted_noted false ok).keeps
    exact (State.markReplay_mem _ _ _ _ _ _ _ hne).trans hmem
  · rw [hxf]
    rfl
  · rw [hxf]
    rfl
  · rw [Group.frag_setFrag_other]
    cases x.sl <;> rfl
  · cases x.sl <;> rfl
  · cases x.sl <;> rfl
  · cases x.sl <;> rfl

end

/-- Settles O23: the parts of a load that translates are outstanding; the one stale line of an ld.spec gives its lanes its bytes and an
eyelet; the lanes that fault leave the fragment at the word, to execute again. -/
theorem globalLoads : Obligations.GlobalLoads := ⟨globalLoadWords, speculativeLoadOfStaleLine, faultingLanesReplay⟩

end Sys2Proof.Machine

/-! ### The store buffer, and the words that fill it (spec/07 R126, R128; spec/08 R146; spec/11 R235) -/

namespace Sys2Proof.Machine

/-! #### Entering the buffer -/

section
variable {g : Group} {sl : Slot} {f : Frag}

theorem Group.setFrag_frag (h : g.frag sl = some f) : g.setFrag sl (some f) = g := by
  cases sl <;> simp only [Group.frag] at h <;> simp only [Group.setFrag, ← h]

theorem Group.entering_nil (h : g.entering = []) (hf : g.frag sl = some f) : f.entering = [] := by
  obtain ⟨h0, h1⟩ := List.append_eq_nil_iff.mp h
  cases sl with
  | f0 => simpa only [show g.f0 = some f from hf, Option.map_some, Option.getD_some] using h0
  | f1 => simpa only [show g.f1 = some f from hf, Option.map_some, Option.getD_some] using h1

/-- A fragment with nothing entering adds nothing to the buffer. -/
theorem Group.admitOne_nil (h : ∀ f, g.frag sl = some f → f.entering = []) : g.admitOne sl = g := by
  unfold Group.admitOne
  cases hf : g.frag sl with
  | none => rfl
  | some f =>
    have hnil := h f hf
    simp only [hnil, List.take_nil, List.drop_nil, List.append_nil]
    rw [← hnil]
    exact Group.setFrag_frag hf

/-- A fragment all of whose entering stores have room has none left. -/
theorem Group.admitOne_room (hf : g.frag sl = some f) (hroom : g.sb.length + f.entering.length ≤ 8) :
    g.admitOne sl = { g with sb := g.sb ++ f.entering }.setFrag sl (some { f with entering := [] }) := by
  have htake : f.entering.take (8 - g.sb.length) = f.entering := List.take_of_length_le (by omega)
  have hdrop : f.entering.drop (8 - g.sb.length) = [] := List.drop_of_length_le (by omega)
  simp only [Group.admitOne, hf, htake, hdrop]

/-- Where only one fragment has stores that enter, and they have room, they all do. -/
theorem Group.fillSb_room (hf : g.frag sl = some f) (hother : ∀ f', g.frag (Slot.other sl) = some f' → f'.entering = [])
    (hroom : g.sb.length + f.entering.length ≤ 8) :
    g.fillSb = { g with sb := g.sb ++ f.entering }.setFrag sl (some { f with entering := [] }) := by
  unfold Group.fillSb
  cases sl with
  | f0 =>
    rw [Group.admitOne_room hf hroom]
    exact Group.admitOne_nil (sl := .f1) hother
  | f1 => rw [Group.admitOne_nil (sl := .f0) hother, Group.admitOne_room hf hroom]

/-- The group with new entries in its buffer, each with its number. -/
def Group.buffered (g : Group) (news : List SbEntry) : Group :=
  { g with nextId := g.nextId + news.length, sb := g.sb ++ news.mapIdx (fun i (e : SbEntry) => { e with id := g.nextId + i }) }

@[simp] theorem Group.buffered_frag (g : Group) (news : List SbEntry) (sl : Slot) : (g.buffered news).frag sl = g.frag sl := by
  cases sl <;> rfl

/-- With room for all of them the new entries of a word enter behind those before them. -/
theorem Group.enterSb_room (hf : g.frag sl = some f) (he : g.entering = []) {news : List SbEntry} (hroom : g.sb.length + news.length ≤ 8) :
    g.enterSb sl news = some (g.buffered news) := by
  cases news with
  | nil =>
    show some g = some (g.buffered [])
    simp only [Group.buffered, List.length_nil, Nat.add_zero, List.mapIdx_nil, List.append_nil]
  | cons e es =>
    have hlt : ¬8 ≤ g.sb.length := by simp only [List.length_cons] at hroom; omega
    simp only [Group.enterSb, List.isEmpty_cons, he, List.isEmpty_nil, Bool.not_true, Bool.false_eq_true, hlt, if_false, hf, decide_false,
      Bool.or_self]
    generalize hn : (e :: es).mapIdx (fun i (e : SbEntry) => { e with id := g.nextId + i }) = ms
    have hlen : g.sb.length + ms.length ≤ 8 := by rw [← hn, List.length_mapIdx]; exact hroom
    have hnil := Group.entering_nil he hf
    have hkeep : { f with entering := [] } = f := by rw [← hnil]
    refine congrArg some ?_
    rw [Group.fillSb_room (Group.frag_setFrag_self ..) (fun f' h' => ?_) (by rwa [Group.setFrag_sb])]
    · simp only [hkeep, Group.buffered, hn]
      cases sl
      · exact Group.setFrag_frag (sl := .f0) (g := { g with nextId := g.nextId + (e :: es).length, sb := g.sb ++ ms }) hf
      · exact Group.setFrag_frag (sl := .f1) (g := { g with nextId := g.nextId + (e :: es).length, sb := g.sb ++ ms }) hf
    · rw [Group.frag_setFrag_other] at h'
      cases sl
      · exact Group.entering_nil (sl := .f1) he h'
      · exact Group.entering_nil (sl := .f0) he h'

/-- Without room for its first entry a word waits. -/
theorem Group.enterSb_full {news : List SbEntry} (hn : news ≠ []) (h : 8 ≤ g.sb.length) : g.enterSb sl news = none := by
  have hnews : news.isEmpty = false := by simpa using hn
  simp only [Group.enterSb, hnews, Bool.false_eq_true, if_false, h, decide_true, Bool.or_true, if_true]

end

/-! #### Global stores -/

/-- The bytes of one part join those of its sector. -/
def sectorStep (r : Regs) (z : MSize) (d : Nat) (acc : List (Nat × DWord × List DWord × List (Nat × Byte))) (p : XPart) :
    List (Nat × DWord × List DWord × List (Nat × Byte)) :=
  let bs := ((storeBytes r z d p.lane).drop p.off |>.take p.len).mapIdx (fun j b => (p.pa % 32 + j, b))
  if acc.any (fun e => e.1 == p.pa / 32) then
    acc.map (fun e => if e.1 = p.pa / 32 then (e.1, e.2.1, e.2.2.1 ++ [p.va], e.2.2.2 ++ bs) else e)
  else acc ++ [(p.pa / 32, p.va, [], bs)]

theorem storeSectors_eq (r : Regs) (z : MSize) (d : Nat) (ps : List XPart) : storeSectors r z d ps = ps.foldl (sectorStep r z d) [] := rfl

theorem storeSectors_mem {r : Regs} {z : MSize} {d : Nat} {ps : List XPart} {e : Nat × DWord × List DWord × List (Nat × Byte)}
    (h : e ∈ storeSectors r z d ps) : ∃ p ∈ ps, e.1 = p.pa / 32 := by
  rw [storeSectors_eq] at h
  refine List.foldlRecOn (motive := fun acc => ∀ e : Nat × DWord × List DWord × List (Nat × Byte), e ∈ acc → ∃ p ∈ ps, e.1 = p.pa / 32)
    ps (sectorStep r z d) (fun e he => absurd he List.not_mem_nil) ?_ e h
  intro acc ih p hp e he
  unfold sectorStep at he
  dsimp only at he
  split at he
  · obtain ⟨e', he', rfl⟩ := List.mem_map.mp he
    obtain ⟨q, hq, hqe⟩ := ih e' he'
    refine ⟨q, hq, ?_⟩
    split <;> exact hqe
  · rcases List.mem_append.mp he with he | he
    · exact ih e he
    · rw [List.mem_singleton.mp he]
      exact ⟨p, hp, rfl⟩

theorem storeSectors_ne_nil {r : Regs} {z : MSize} {d : Nat} {ps : List XPart} (h : ps ≠ []) : storeSectors r z d ps ≠ [] := by
  obtain ⟨init, p, rfl⟩ := (List.eq_nil_or_concat' ps).resolve_left h
  rw [storeSectors_eq, List.foldl_append, List.foldl_cons, List.foldl_nil]
  generalize init.foldl (sectorStep r z d) [] = acc
  unfold sectorStep
  dsimp only
  split
  · rintro hnil
    simp_all
  · simp

/-- A pass that leaves its first component and appends one thing for each element. -/
theorem foldl_pair_append {α β γ : Type} {F : γ × List β → α → γ × List β} {g : γ} {f : α → β} {l : List α}
    (h : ∀ a ∈ l, ∀ n, F (g, n) a = (g, n ++ [f a])) (n : List β) : l.foldl F (g, n) = (g, n ++ l.map f) := by
  induction l generalizing n with
  | nil => simp
  | cons a l ih =>
    rw [List.foldl_cons, h a List.mem_cons_self, ih fun b hb => h b (List.mem_cons_of_mem _ hb)]
    simp

section
variable {x : Iss}

/-- The new entries of a store: one for each sector, in its bytes' order. -/
def Iss.storeEntries (x : Iss) (secs : List (Nat × DWord × List DWord × List (Nat × Byte))) : List SbEntry :=
  secs.map (fun e => ⟨0, x.g.nextId, x.f.mask, x.f.pc, e.2.1, e.1, .bytes e.2.2.2, .queued, e.2.2.1,
    x.storeNote (secs.head?.map (·.1) == some e.1), []⟩)

theorem mergeSb_none {sb : List SbEntry} {sec : Nat} (h : ∀ e ∈ sb, e.sector ≠ sec) (ord : Nat) (mask : LaneMask) (vas : List DWord)
    (bs : List (Nat × Byte)) (tag : Option (BitVec 12)) : mergeSb sb sec ord mask vas bs tag = none := by
  have hnil : sb.filter (fun e => e.sector == sec) = [] := List.filter_eq_nil_iff.mpr fun e he => by simpa using h e he
  simp only [mergeSb, hnil, List.getLast?_nil]

/-- Where no sector of a store has an entry, each takes a new one. -/
theorem Iss.bufferStores_fresh {secs : List (Nat × DWord × List DWord × List (Nat × Byte))}
    (h : ∀ e ∈ secs, ∀ y ∈ x.g.sb, y.sector ≠ e.1) : x.bufferStores secs = x.g.enterSb x.sl (x.storeEntries secs) := by
  unfold Iss.bufferStores Iss.storeEntries
  extract_lets first r
  have hr : r = (x.g, secs.map (fun e => ⟨0, x.g.nextId, x.f.mask, x.f.pc, e.2.1, e.1, .bytes e.2.2.2, .queued, e.2.2.1,
      x.storeNote (first == some e.1), []⟩)) := by
    refine foldl_pair_append (fun e he n => ?_) []
    simp only [mergeSb_none (h e he)]
  rw [hr]

/-- The group whose entry of number id takes the bytes of a store of one sector. -/
def Iss.merged (x : Iss) (id : Nat) (old : List (Nat × Byte)) (va : DWord) (vas : List DWord) (bs : List (Nat × Byte)) : Group :=
  { x.g with sb := x.g.sb.map (fun y => if y.id = id then { y with
      op := .bytes (old ++ bs), mask := y.mask ||| x.f.mask, ord := x.g.nextId, also := y.also ++ va :: vas
      note := { y.note with tag := x.f.mark.orElse (fun _ => y.note.tag) } } else y) }

theorem Iss.bufferStores_merge {sec : Nat} {va : DWord} {vas : List DWord} {old bs : List (Nat × Byte)} {e : SbEntry}
    (hlast : (x.g.sb.filter (fun e => e.sector = sec)).getLast? = some e) (hop : e.op = .bytes old) (hst : e.st = .queued) :
    x.bufferStores [(sec, va, vas, bs)] = some (x.merged e.id old va vas bs) := by
  have hlast' : (x.g.sb.filter (fun e => e.sector == sec)).getLast? = some e := hlast
  simp only [Iss.bufferStores, List.foldl_cons, List.foldl_nil, List.head?_cons, Option.map_some, BEq.rfl, mergeSb, hlast', hop, hst,
    Iss.storeNote, if_true]
  rfl

/-- A word all of whose lanes take effect, once its group holds g. -/
def Iss.storeGroup (x : Iss) (g : Group) : Group := g.setFrag x.sl (some { x.f with mark := none, pc := x.next, only := none })

theorem Iss.finish_unmark (s : State) {g : Group} (hg : g.frag x.sl = some x.f) (bad : LaneMask) (acc : AccKind) :
    x.finishX s (g.unmark x.sl) bad none acc = s.setGroup x.k (x.storeGroup g) := by
  rw [Iss.finishX_none, Group.unmark_eq hg, Group.frag_setFrag_self, Group.setFrag_setFrag]
  rfl

theorem Iss.storeGroup_frag (g : Group) : ∃ f1, (x.storeGroup g).frag x.sl = some f1 ∧ f1.pc = x.next ∧ f1.entering = x.f.entering ∧
    f1.mask = x.f.mask :=
  ⟨_, Group.frag_setFrag_self .., rfl, rfl, rfl⟩

theorem stg_go {f : MemF} {s : State} {ps : List XPart} {g : Group} (h : prelude (.stg f) s = .go x)
    (hps : ps = x.s.parts x.g.key .write x.act (sizeBytes f.size) (fun l => x.g.regs.ea f.addr l))
    (hall : x.allTranslate .write (sizeBytes f.size) (fun l => x.g.regs.ea f.addr l)) (hrel : x.mayRelease f.order.rel f.scope)
    (hbuf : x.bufferStores (storeSectors x.g.regs f.size f.d.val ps) = some g) (hg : g.frag x.sl = some x.f) :
    exec (.stg f) s = .next (x.done ((x.noteStores ps 1).setGroup x.k (x.storeGroup g))) := by
  show execStg f s = _
  refine issue_ok h ?_
  have hdec := hall.decide130
  have hcar := x.carrying_parts .write (fun l => x.g.regs.ea f.addr l) (sizeBytes_pos f.size)
  have hspent := x.spent_parts .write (fun l => x.g.regs.ea f.addr l) (sizeBytes_pos f.size) g 1
  rw [← hps] at hdec hcar hspent
  simp only [← hps, hdec, hcar, hbuf, hspent, Iss.withRelease_go hrel, Iss.finish_unmark _ hg]

theorem stg_wait {f : MemF} {s : State} {ps : List XPart} (h : prelude (.stg f) s = .go x)
    (hps : ps = x.s.parts x.g.key .write x.act (sizeBytes f.size) (fun l => x.g.regs.ea f.addr l))
    (hall : x.allTranslate .write (sizeBytes f.size) (fun l => x.g.regs.ea f.addr l)) (hrel : x.mayRelease f.order.rel f.scope)
    (hbuf : x.bufferStores (storeSectors x.g.regs f.size f.d.val ps) = none) : exec (.stg f) s = .next s := by
  show execStg f s = _
  refine issue_wait h ?_
  have hdec := hall.decide130
  have hcar := x.carrying_parts .write (fun l => x.g.regs.ea f.addr l) (sizeBytes_pos f.size)
  rw [← hps] at hdec hcar
  simp only [← hps, hdec, hcar, hbuf, Iss.withRelease_go hrel]

theorem Iss.noteStores_noted (x : Iss) (ok : List XPart) (kind : Nat) : AccessNoted x.s (x.noteStores ok kind) :=
  (AccessNoted.noteParts ..).trans (AccessNoted.noteAccess ..)

theorem stAck_go {f : MemF} {s : State} {ps : List XPart} {o : BRef} (h : prelude (.stAck f) s = .go x)
    (ho : x.s.barRef x.g.team x.g.key x.k.die x.g.sr.ackba = some o)
    (hps : ps = x.s.parts x.g.key .write x.act (sizeBytes f.size) (fun l => x.g.regs.ea f.addr l))
    (hall : x.allTranslate .write (sizeBytes f.size) (fun l => x.g.regs.ea f.addr l)) (hrel : x.mayRelease f.order.rel f.scope)
    (he : x.g.entering = []) (hroom : x.g.sb.length + (x.ackEntries f o ps).length ≤ 8) :
    exec (.stAck f) s = .next (x.done ((x.noteStores ps 1).setGroup x.k (x.storeGroup (x.g.buffered (x.ackEntries f o ps))))) := by
  show execStAck f s = _
  refine issue_ok h ?_
  have hfrag := prelude_go_frag h
  have hdec := hall.decide130
  have hcar := x.carrying_parts .write (fun l => x.g.regs.ea f.addr l) (sizeBytes_pos f.size)
  have hspent := x.spent_parts .write (fun l => x.g.regs.ea f.addr l) (sizeBytes_pos f.size) (x.g.buffered (x.ackEntries f o ps)) 1
  rw [← hps] at hdec hcar hspent
  simp only [ho, ← hps, hdec, hcar, Group.enterSb_room hfrag he hroom, hspent, Iss.withRelease_go hrel,
    Iss.finish_unmark _ ((Group.buffered_frag ..).trans hfrag)]

end

/-- Settles O25: a new entry for each sector that has none, a merge into the one that a sector has; a word whose first entry has no room
waits. -/
theorem globalStores : Obligations.GlobalStores := by
  refine ⟨fun f s x h hall hrel hent hsec secs hsecs hroom => ?_, fun f s x e old sec va vas bs h hall hrel hsecs hlast hop hst => ?_,
    fun f s x h hall hrel hact hfull hsec => ?_, fun f s x o h ho hall hrel hent es hes hroom => ?_, fun f s x h ho => ?_⟩
  · obtain ⟨ps, hps⟩ : ∃ ps, ps = x.s.parts x.g.key .write x.act (sizeBytes f.size) (fun l => x.g.regs.ea f.addr l) := ⟨_, rfl⟩
    rw [← hps] at hsec hsecs
    have hfrag := prelude_go_frag h
    have hbuf : x.bufferStores (storeSectors x.g.regs f.size f.d.val ps) = some (x.g.buffered (x.storeEntries secs)) := by
      rw [← hsecs, Iss.bufferStores_fresh fun e he y hy => ?_, Group.enterSb_room hfrag hent (by rwa [Iss.storeEntries, List.length_map])]
      obtain ⟨p, hp, hpe⟩ := storeSectors_mem (hsecs ▸ he)
      exact hpe ▸ hsec p hp y hy
    refine ⟨_, _, x.noteStores_noted ps 1, stg_go h hps hall hrel hbuf ((Group.buffered_frag ..).trans hfrag), ?_, ?_, ?_, ?_, ?_, ?_⟩
    · rw [Iss.storeGroup, Group.setFrag_sb, Group.buffered, Iss.storeEntries]
      exact congrArg (x.g.sb ++ ·) (List.ext_getElem? fun i => by simp only [List.getElem?_mapIdx, List.getElem?_map, Option.map_map]; rfl)
    · obtain ⟨f1, hf1, hpc, hentering, hmask⟩ := x.storeGroup_frag (x.g.buffered (x.storeEntries secs))
      exact ⟨f1, hf1, hpc, hentering.trans (Group.entering_nil hent hfrag), hmask⟩
    · exact (Group.frag_setFrag_other ..).trans (Group.buffered_frag ..)
    · exact Group.setFrag_regs ..
    · exact Group.setFrag_flights ..
    · exact Group.setFrag_sr ..
  · obtain ⟨ps, hps⟩ : ∃ ps, ps = x.s.parts x.g.key .write x.act (sizeBytes f.size) (fun l => x.g.regs.ea f.addr l) := ⟨_, rfl⟩
    rw [← hps] at hsecs
    have hbuf : x.bufferStores (storeSectors x.g.regs f.size f.d.val ps) = some (x.merged e.id old va vas bs) := by
      rw [hsecs]
      exact Iss.bufferStores_merge hlast hop hst
    refine ⟨_, _, x.noteStores_noted ps 1, stg_go h hps hall hrel hbuf (prelude_go_frag h), Group.setFrag_sb .., ?_, Group.setFrag_regs ..,
      Group.setFrag_flights .., Group.setFrag_sr ..⟩
    obtain ⟨f1, hf1, hpc, -⟩ := x.storeGroup_frag (x.merged e.id old va vas bs)
    exact ⟨f1, hf1, hpc⟩
  · obtain ⟨ps, hps⟩ : ∃ ps, ps = x.s.parts x.g.key .write x.act (sizeBytes f.size) (fun l => x.g.regs.ea f.addr l) := ⟨_, rfl⟩
    rw [← hps] at hsec
    have hne : ps ≠ [] := by
      obtain ⟨l, hl⟩ := List.exists_mem_of_ne_nil _ (mt (lanesOf_eq_nil_iff _).mp hact)
      obtain ⟨p, hp, -⟩ := exists_part x.s x.g.key .write x.act (fun l => x.g.regs.ea f.addr l) (sizeBytes_pos f.size) hl
      exact List.ne_nil_of_mem (hps ▸ hp)
    refine stg_wait h hps hall hrel ?_
    rw [Iss.bufferStores_fresh fun e he y hy => ?_, Group.enterSb_full _ hfull]
    · exact fun hnil => storeSectors_ne_nil hne (List.map_eq_nil_iff.mp hnil)
    · obtain ⟨p, hp, hpe⟩ := storeSectors_mem he
      exact hpe ▸ hsec p hp y hy
  · obtain ⟨ps, hps⟩ : ∃ ps, ps = x.s.parts x.g.key .write x.act (sizeBytes f.size) (fun l => x.g.regs.ea f.addr l) := ⟨_, rfl⟩
    rw [← hps] at hes
    subst hes
    refine ⟨_, _, x.noteStores_noted ps 1, stAck_go h ho hps hall hrel hent hroom, Group.setFrag_sb .., ?_, Group.setFrag_regs ..,
      Group.setFrag_flights ..⟩
    obtain ⟨f1, hf1, hpc, hentering, -⟩ := x.storeGroup_frag (x.g.buffered (x.ackEntries f o ps))
    exact ⟨f1, hf1, hpc, hentering.trans (Group.entering_nil hent (prelude_go_frag h))⟩
  · show execStAck f s = _
    exact issue_trap h (by simp only [ho])

end Sys2Proof.Machine

/-! ### Rounding into bf16, and the values of the atomics (spec/06 R93; spec/08 R140, R145) -/

namespace Sys2Proof

/-! #### The size of a rounded code -/

/-- At a quantum of at least the format's, a magnitude has at most p bits of quanta. -/
theorem shiftE_lt {m : Nat} {e q : Int} {p : Nat} (h : (Nat.log2 m : Int) + e < q + p) : shiftE m (e - q) < 2 ^ p := by
  have hm : m < 2 ^ (Nat.log2 m + 1) := Nat.lt_log2_self
  unfold shiftE
  split
  · next hk =>
    have hle : Nat.log2 m + 1 + (e - q).toNat ≤ p := by omega
    calc m * 2 ^ (e - q).toNat < 2 ^ (Nat.log2 m + 1) * 2 ^ (e - q).toNat := Nat.mul_lt_mul_of_pos_right hm (by positivity)
      _ = 2 ^ (Nat.log2 m + 1 + (e - q).toNat) := (Nat.pow_add ..).symm
      _ ≤ 2 ^ p := Nat.pow_le_pow_right (by decide) hle
  · next hk =>
    rw [Nat.div_lt_iff_lt_mul (by positivity), ← Nat.pow_add]
    exact hm.trans_le (Nat.pow_le_pow_right (by decide) (by omega))

/-- A neighbour in the grid is the number of whole quanta, or one more. -/
theorem pickQuanta_eq (neg : Bool) (m : Nat) (e : Int) (st : Bool) (q : Int) (mode : RMode) (r : Nat) (ev : Nat → Bool) :
    (pickQuanta neg m e st q mode r ev).1 = shiftE m (e - q) ∨ (pickQuanta neg m e st q mode r ev).1 = shiftE m (e - q) + 1 := by
  unfold pickQuanta
  extract_lets lo k rem inexact half up
  split
  · exact .inl rfl
  · split
    · exact .inr rfl
    · exact .inl rfl

theorem pickQuanta_le {neg : Bool} {m : Nat} {e : Int} {st : Bool} {q : Int} {mode : RMode} {r : Nat} {ev : Nat → Bool} {p : Nat}
    (h : (Nat.log2 m : Int) + e < q + p) : (pickQuanta neg m e st q mode r ev).1 ≤ 2 ^ p := by
  have hlo := shiftE_lt h
  rcases pickQuanta_eq neg m e st q mode r ev with h | h <;> omega

theorem pickQuanta_zero_le {neg : Bool} {e : Int} {st : Bool} {q : Int} {mode : RMode} {r : Nat} {ev : Nat → Bool} :
    (pickQuanta neg 0 e st q mode r ev).1 ≤ 1 := by
  have hlo : shiftE 0 (e - q) = 0 := by simp [shiftE]
  rcases pickQuanta_eq neg 0 e st q mode r ev with h | h <;> omega

/-- The code of a magnitude that is not above the largest one is below the sign bit. -/
theorem codeOf_bf16_lt {n : Nat} {q : Int} (hn : n ≤ 2 ^ 8) (hle : magLt 255 120 n q = false) :
    (Fmt.par .bf16).codeOf n q < 2 ^ 15 := by
  have hq : 2 ^ 7 ≤ n → q ≤ 120 := fun hn7 => by
    by_contra hq
    unfold magLt at hle
    rw [if_pos (by omega), decide_eq_false_iff_not, not_lt] at hle
    have : 2 ^ 1 ≤ 2 ^ (q - 120).toNat := Nat.pow_le_pow_right (by decide) (by omega)
    nlinarith
  have hq8 : n = 2 ^ 8 → q ≤ 119 := fun h8 => by
    by_contra hq
    subst h8
    unfold magLt at hle
    rw [if_pos (by omega), decide_eq_false_iff_not, not_lt] at hle
    have : 2 ^ 0 ≤ 2 ^ (q - 120).toNat := Nat.pow_le_pow_right (by decide) (by omega)
    omega
  show FmtP.codeOf ⟨8, -133, 0x7F7F, some 0x7F80, 0x7FC0, some 15, true⟩ n q < 2 ^ 15
  unfold FmtP.codeOf
  dsimp only
  by_cases h8 : n = 2 ^ 8
  · have := hq8 h8
    subst h8
    simp only [if_true]
    norm_num
    omega
  · simp only [if_neg h8]
    split
    · omega
    · next hlow =>
      have h7 : 2 ^ 7 ≤ n := by simp at hlow; omega
      have := hq h7
      omega

theorem roundTo_bf16_lt (x : Val) (mode : RMode) (sat : Bool) (r : Nat) : (roundTo x .bf16 mode sat r).1 < 2 ^ 16 := by
  have hsigned (neg : Bool) {c : Nat} (hc : c < 2 ^ 15) : (Fmt.par .bf16).signed neg c < 2 ^ 16 := by
    cases neg
    · exact hc.trans (by decide)
    · show c + 2 ^ 15 < 2 ^ 16
      omega
  cases x with
  | nan sig => exact (by decide : 0x7FC0 < 2 ^ 16)
  | inf neg =>
    unfold roundTo
    dsimp only [Fmt.par]
    split
    · cases sat <;> decide
    · cases sat
      · exact hsigned neg (by decide)
      · exact hsigned neg (by decide)
  | fin neg m e st =>
    unfold roundTo
    extract_lets f even mx out
    have hmx : mx = (255, 120) := by decide
    have hzero : (if f.negZero then f.signed neg 0 else 0) < 2 ^ 16 := hsigned neg (by decide)
    split <;> rename_i heq <;> cases heq
    split
    · exact hzero
    · extract_lets top qn q y inexact yn tiny nx uf toinf
      have hy : y.1 ≤ 2 ^ 8 := by
        by_cases h0 : m = 0
        · subst h0
          exact pickQuanta_zero_le.trans (by decide)
        · have htop : top = Nat.log2 m + e := if_neg h0
          have hq : top - 7 ≤ q := le_max_left ..
          exact pickQuanta_le (by push_cast; omega)
      split
      · exact hzero
      · split
        · cases sat <;> decide
        · split
          · cases sat
            · cases toinf
              · exact hsigned neg (by decide)
              · exact hsigned neg (by decide)
            · exact hsigned neg (by decide)
          · next hle =>
            rw [hmx] at hle
            exact hsigned neg (codeOf_bf16_lt hy (Bool.eq_false_iff.mpr hle))

end Sys2Proof

/-! ### The values and the words of the atomics (spec/08 R140 to R146) -/

namespace Sys2Proof.Machine

/-! #### Values -/

/-- Integer comparison of a size, on bit vectors of its width. -/
theorem asizeLt (z : ASize) (a b : BitVec (if z.wide then 64 else 32)) :
    (if asizeSigned z then decide (toSigned (if z.wide then 64 else 32) a.toNat < toSigned (if z.wide then 64 else 32) b.toNat)
      else decide (a.toNat < b.toNat)) = if asizeSigned z then a.slt b else a.ult b := by
  cases z
  · rfl
  · exact congrArg₂ (fun x y : Int => decide (x < y)) (toSigned_toNat (by decide) a) (toSigned_toNat (by decide) b)
  · rfl
  · exact congrArg₂ (fun x y : Int => decide (x < y)) (toSigned_toNat (by decide) a) (toSigned_toNat (by decide) b)

theorem atomicValues : Claims.AtomicValues := by
  refine ⟨fun z old v cmp => ?_, fun old v cmp => rfl, fun old v cmp j hj => ?_⟩
  · extract_lets lt r
    have hlt (a b : BitVec (if z.wide then 64 else 32)) := asizeLt z a b
    refine ⟨(BitVec.toNat_add ..).symm, ?_, ?_, (BitVec.toNat_and ..).symm, (BitVec.toNat_or ..).symm, (BitVec.toNat_xor ..).symm, rfl, ?_⟩
    · show (if _ then v.toNat else old.toNat) = _
      beta_reduce
      rw [hlt v old, ← apply_ite BitVec.toNat]
    · show (if _ then v.toNat else old.toNat) = _
      beta_reduce
      rw [hlt old v, ← apply_ite BitVec.toNat]
    · show (if old.toNat = cmp.toNat then v.toNat else old.toNat) = _
      simp only [BitVec.toNat_inj, ← apply_ite BitVec.toNat]
  · have hA := roundTo_bf16_lt (exactSum (Fmt.bf16.val (old.toNat % 2 ^ 16)) [Fmt.bf16.val (v.toNat % 2 ^ 16)]) .rne false 0
    have hB := roundTo_bf16_lt (exactSum (Fmt.bf16.val (old.toNat / 2 ^ 16)) [Fmt.bf16.val (v.toNat / 2 ^ 16)]) .rne false 0
    show (faddSum .bf16 (old.toNat % 2 ^ 16) [v.toNat % 2 ^ 16] + faddSum .bf16 (old.toNat / 2 ^ 16) [v.toNat / 2 ^ 16] * 2 ^ 16) /
      2 ^ (16 * j) % 2 ^ 16 = (roundTo (exactSum (Fmt.bf16.val _) [Fmt.bf16.val _]) .bf16 .rne false 0).1
    have hA' : faddSum .bf16 (old.toNat % 2 ^ 16) [v.toNat % 2 ^ 16] < 2 ^ 16 := hA
    have hB' : faddSum .bf16 (old.toNat / 2 ^ 16) [v.toNat / 2 ^ 16] < 2 ^ 16 := hB
    obtain rfl | rfl : j = 0 ∨ j = 1 := by omega
    · simp only [Nat.mul_zero, Nat.pow_zero, Nat.div_one]
      show _ = faddSum .bf16 (old.toNat % 2 ^ 16) [v.toNat % 2 ^ 16]
      omega
    · simp only [Nat.mul_one]
      rw [Nat.mod_eq_of_lt (a := old.toNat / 2 ^ 16) (by have := old.isLt; omega), Nat.mod_eq_of_lt (a := v.toNat / 2 ^ 16) (by have := v.isLt; omega)]
      show _ = faddSum .bf16 (old.toNat / 2 ^ 16) [v.toNat / 2 ^ 16]
      omega

/-! #### Atomics -/

section
variable {x : Iss}

theorem sectorTrap_none {act : LaneMask} {n : Nat} {ea : Nat → DWord} (h : ∀ l ∈ lanesOf act, (ea l).toNat % 32 + n ≤ 32) :
    sectorTrap act n ea = none := by
  have hnil : (lanesOf act).filter (fun l => 32 < (ea l).toNat % 32 + n) = [] :=
    List.filter_eq_nil_iff.mpr fun l hl => by simpa using h l hl
  simp only [sectorTrap, hnil]

/-- What an atomic notes beside its effect. -/
def Iss.atomNoted (x : Iss) (ok : List XPart) : State :=
  (x.noteStores ok 2).sample x.k x.g x.f.mark (x.requests 2 x.g.nextId (lineReqs (ok.map (fun p => (p.lane, p.va)))))

/-- The flight of an atomic: one part with its operands for each part that translated. -/
def Iss.atomFlight (x : Iss) (i : Instr) (o : AtomOp) (ok : List XPart) : Flight :=
  { x.flight (.atom o.op o.size o.d false) (Instr.dests i) with
    acq := o.order.acq
    parts := ok.map (fun p => ⟨p.lane, .global, p.pa, p.va, 0, asizeBytes o.size, (x.g.regs.casData o p.lane).2, (x.g.regs.casData o p.lane).1,
      none, p.leaf⟩) }

theorem Iss.atom_go {i : Instr} {o : AtomOp} {la : Nat} {ps : List XPart}
    (hps : ps = x.s.parts x.g.key .write x.act (asizeBytes o.size) (fun l => x.g.regs.ea o.addr l))
    (hin : ∀ l ∈ lanesOf x.act, (x.g.regs.ea o.addr l).toNat % 32 + asizeBytes o.size ≤ 32)
    (hall : x.allTranslate .write (asizeBytes o.size) (fun l => x.g.regs.ea o.addr l)) (hrel : x.mayRelease o.order.rel o.scope)
    (hsb : ∀ e ∈ x.g.sb, e.mask &&& x.f.mask = 0#32 ∨ e.st.done = true) :
    x.atom i o la = .ok ((x.atomNoted ps).setGroup x.k ((x.g.unmark x.sl).launchFlight x.sl { x.f with mark := none } x.next la
      (x.atomFlight i o ps))) := by
  have hdec := hall.decide130
  have hcar := x.carrying_parts .write (fun l => x.g.regs.ea o.addr l) (asizeBytes_pos o.size)
  have hspent := x.spent_parts .write (fun l => x.g.regs.ea o.addr l) (asizeBytes_pos o.size) x.g 2
  rw [← hps] at hdec hcar hspent
  have hact : x.act &&& ~~~0#32 = x.act := BitVec.and_allOnes
  have hno : x.g.sb.any (fun e => !e.st.done && e.mask &&& x.f.mask != 0#32 && ps.any (fun p => p.pa / 32 == e.sector)) = false :=
    List.any_eq_false.mpr fun e he => by
      rcases hsb e he with h | h <;> simp [h]
  simp only [Iss.atom, sectorTrap_none hin, ← hps, hdec, Iss.withRelease_go hrel, hno, Bool.false_eq_true, if_false, hcar, hspent, hact]
  rfl

theorem atomicsOpen : Claims.AtomicsOpen := by
  intro i o la hi s x h hin hall hrel hsb
  obtain ⟨ps, hps⟩ : ∃ ps, ps = x.s.parts x.g.key .write x.act (asizeBytes o.size) (fun l => x.g.regs.ea o.addr l) := ⟨_, rfl⟩
  rw [← hps]
  refine ⟨x.atomNoted ps, x.atomFlight i o ps, (x.noteStores_noted ps 2).trans (.sample ..), ?_, rfl, rfl⟩
  rw [exec_atom hi]
  exact issue_ok h (Iss.atom_go hps hin hall hrel hsb)

/-! #### Reductions -/

/-- The new entry of a reduction for one sector. -/
def Iss.redEntry (x : Iss) (o : AtomOp) (ok : List XPart) (secs : List Nat) (sec : Nat) : SbEntry :=
  let ps := ok.filter (fun p => p.pa / 32 == sec)
  SbEntry.mk 0 x.g.nextId x.f.mask x.f.pc ((ps.head?.map (·.va)).getD 0) sec
    (.red o.op o.size (ps.map (fun p => (p.pa % 32, x.g.regs.data o.size o.d p.lane)))) .queued
    ((ps.drop 1).map (·.va)) (x.storeNote (secs.head? == some sec)) []

theorem Iss.red_go {o : AtomOp} {ps : List XPart} {secs : List Nat} (hfrag : x.g.frag x.sl = some x.f)
    (hps : ps = x.s.parts x.g.key .write x.act (asizeBytes o.size) (fun l => x.g.regs.ea o.addr l))
    (hsecs : secs = (ps.map (fun p => p.pa / 32)).eraseDups)
    (hin : ∀ l ∈ lanesOf x.act, (x.g.regs.ea o.addr l).toNat % 32 + asizeBytes o.size ≤ 32)
    (hall : x.allTranslate .write (asizeBytes o.size) (fun l => x.g.regs.ea o.addr l)) (hrel : x.mayRelease o.order.rel o.scope)
    (hent : x.g.entering = []) (hroom : x.g.sb.length + secs.length ≤ 8) :
    x.red o = .ok ((x.noteStores ps 2).setGroup x.k (x.storeGroup (x.g.buffered (secs.map (x.redEntry o ps secs))))) := by
  have hdec := hall.decide130
  have hcar := x.carrying_parts .write (fun l => x.g.regs.ea o.addr l) (asizeBytes_pos o.size)
  have hspent := x.spent_parts .write (fun l => x.g.regs.ea o.addr l) (asizeBytes_pos o.size) (x.g.buffered (secs.map (x.redEntry o ps secs))) 2
  rw [← hps] at hdec hcar hspent
  have hbuf := Group.enterSb_room hfrag hent (news := secs.map (x.redEntry o ps secs)) (by rwa [List.length_map])
  unfold Iss.redEntry at hbuf hspent
  simp only [Iss.red, sectorTrap_none hin, ← hps, hdec, Iss.withRelease_go hrel, hcar, ← hsecs, hbuf, hspent]
  exact congrArg Res.ok (Iss.finish_unmark _ ((Group.buffered_frag ..).trans hfrag) _ _)

theorem Iss.redEntry_vas {o : AtomOp} {ok : List XPart} {secs : List Nat} {sec : Nat} (h : sec ∈ ok.map (fun p => p.pa / 32)) :
    (x.redEntry o ok secs sec).va :: (x.redEntry o ok secs sec).also = (ok.filter (fun p => p.pa / 32 = sec)).map (fun p => p.va) := by
  obtain ⟨p, hp, hsec⟩ := List.mem_map.mp h
  have hmem : p ∈ ok.filter (fun p => p.pa / 32 == sec) := List.mem_filter.mpr ⟨hp, by simpa using hsec⟩
  obtain ⟨q, qs, hqs⟩ := List.exists_cons_of_ne_nil (List.ne_nil_of_mem hmem)
  have hqs' : ok.filter (fun p => p.pa / 32 = sec) = q :: qs := hqs
  simp only [Iss.redEntry, hqs, hqs', List.head?_cons, Option.map_some, Option.getD_some, List.drop_succ_cons, List.drop_zero, List.map_cons]

theorem reductionsEnterTheBuffer : Claims.ReductionsEnterTheBuffer := by
  intro i o hi s x h hin hall hrel hent ps secs hps hsecs hroom
  have hfrag := prelude_go_frag h
  obtain ⟨f1, hf1, hpc, hentering, -⟩ := x.storeGroup_frag (x.g.buffered (secs.map (x.redEntry o ps secs)))
  have hsb : (x.storeGroup (x.g.buffered (secs.map (x.redEntry o ps secs)))).sb = x.g.sb ++
      (secs.map (x.redEntry o ps secs)).mapIdx (fun i (e : SbEntry) => { e with id := x.g.nextId + i }) := Group.setFrag_sb ..
  refine ⟨_, x.storeGroup (x.g.buffered (secs.map (x.redEntry o ps secs))), x.noteStores_noted ps 2, ?_, Group.setFrag_regs ..,
    Group.setFrag_flights .., ⟨f1, hf1, hpc, hentering.trans (Group.entering_nil hent hfrag)⟩, ?_, ?_, fun j sec hj => ?_⟩
  · rw [exec_red hi]
    exact issue_ok h (Iss.red_go hfrag hps hsecs hin hall hrel hent hroom)
  · rw [hsb, List.take_left]
  · rw [hsb, List.length_append, List.length_mapIdx, List.length_map]
  · have hsec : sec ∈ ps.map (fun p => p.pa / 32) := List.mem_eraseDups.mp (hsecs ▸ List.mem_of_getElem? hj)
    refine ⟨{ x.redEntry o ps secs sec with id := x.g.nextId + j }, ?_, rfl, rfl, rfl, rfl, rfl, rfl,
      Iss.redEntry_vas (x := x) (o := o) (secs := secs) hsec, rfl⟩
    rw [hsb, List.getElem?_append_right (Nat.le_add_right ..), Nat.add_sub_cancel_left, List.getElem?_mapIdx, List.getElem?_map, hj]
    rfl

end

/-- Settles O27: the operations on bit vectors of the word's width, with one rounding for each half of bf16; the outstanding operation of
an atomic and the buffer entries of a reduction. -/
theorem atomicWords : Obligations.AtomicWords := ⟨atomicValues, atomicsOpen, reductionsEnterTheBuffer⟩

end Sys2Proof.Machine

/-! ### chk and the cache controls (spec/07 R134, R137 to R139) -/

namespace Sys2Proof.Machine

section
variable {x : Iss}

theorem chkResults : Claims.ChkResults := by
  intro t s x h
  refine ⟨fun hin => ?_, fun hin => ?_⟩
  · show execChk t s = _
    exact issue_wait h (if_pos hin)
  · show execChk t s = _
    refine issue_ok h ((if_neg (by simp [hin])).trans ?_)
    simp only [ite_not]
    rfl

/-! #### What a cache control leaves -/

/-- The group of a cache control goes on, with its smark spent; n numbers its requests. -/
def Iss.controlGroup (x : Iss) (n : Nat) : Group :=
  ({ x.g with nextId := n }.unmark x.sl).setFrag x.sl (some { x.f with mark := none, pc := x.next, only := none })

theorem Iss.cacheControl_eq (x : Iss) (a : MAddr) (which : Nat) :
    ∃ t n, AccessNoted x.s t ∧ x.cacheControl a which = t.setGroup x.k (x.controlGroup n) := by
  unfold Iss.cacheControl
  extract_lets s _ g _
  have hs : AccessNoted x.s s := .sample ..
  by_cases he : (x.atOnceLanes a).isEmpty
  · have hg : g = { x.g with nextId := x.g.nextId } := if_pos he
    exact ⟨s, x.g.nextId, hs, by rw [hg]; rfl⟩
  · have hg : g = { x.g with nextId := x.g.nextId + 1 } := if_neg he
    exact ⟨s, x.g.nextId + 1, hs, by rw [hg]; rfl⟩

theorem Iss.controlGroup_frag (x : Iss) (n : Nat) :
    (x.controlGroup n).frag x.sl = some { x.f with mark := none, pc := x.next, only := none } := Group.frag_setFrag_self ..

theorem Iss.controlGroup_regs (x : Iss) (n : Nat) : (x.controlGroup n).regs = x.g.regs :=
  (Group.setFrag_regs ..).trans (Group.unmark_regs ..)

/-! #### cinv -/

theorem State.dropCopy_line (s : State) (d : DieKey) (l : Nat) : (s.dropCopy d l).lines = s.lines := by
  unfold State.dropCopy
  split <;> rfl

theorem State.dropCopy_copies (s : State) (d : DieKey) (a : Nat) (e : DieKey) (l : Nat) :
    tget (s.dropCopy d a).copies (e, l) = if e = d ∧ l = a ∧ (s.line l).point ≠ .slice d then none else tget s.copies (e, l) := by
  unfold State.dropCopy
  split
  · next hp => rw [if_neg fun ⟨_, ha, hne⟩ => hne (ha ▸ hp)]
  · next hp =>
    by_cases hk : (e, l) = (d, a)
    · cases hk
      rw [if_pos ⟨rfl, rfl, hp⟩]
      exact tget_terase_self ..
    · rw [if_neg fun ⟨he, ha, _⟩ => hk (by rw [he, ha])]
      exact tget_terase_of_ne _ hk

theorem State.dropCopies_frame (s : State) (d : DieKey) (ls : List Nat) :
    ∃ cs, ls.foldl (fun s l => s.dropCopy d l) s = { s with copies := cs } ∧
      ∀ e l, tget cs (e, l) = if e = d ∧ l ∈ ls ∧ (s.line l).point ≠ .slice d then none else tget s.copies (e, l) := by
  induction ls generalizing s with
  | nil => exact ⟨s.copies, rfl, fun e l => by simp⟩
  | cons a ls ih =>
    rw [List.foldl_cons]
    obtain ⟨cs, hcs, hget⟩ := ih (s.dropCopy d a)
    have hline (l : Nat) : (s.dropCopy d a).line l = s.line l := by rw [State.line, State.dropCopy_line]; rfl
    refine ⟨cs, ?_, fun e l => ?_⟩
    · rw [hcs, State.dropCopy]
      split <;> rfl
    · rw [hget, hline]
      rw [State.dropCopy_copies]
      by_cases hls : e = d ∧ l ∈ ls ∧ (s.line l).point ≠ .slice d
      · obtain ⟨he, hl, hp⟩ := hls
        rw [if_pos ⟨he, hl, hp⟩, if_pos ⟨he, List.mem_cons_of_mem _ hl, hp⟩]
      · rw [if_neg hls]
        refine if_congr ⟨fun ⟨he, hl, hp⟩ => ⟨he, hl ▸ List.mem_cons_self, hp⟩, fun ⟨he, hl, hp⟩ => ⟨he, ?_, hp⟩⟩ rfl rfl
        exact (List.mem_cons.mp hl).resolve_right fun hl => hls ⟨he, hl, hp⟩

theorem cinvDrops (f : LineF) (s : State) (x : Iss) (h : prelude (.cinv f) s = .go x) :
    ∃ t : State, exec (.cinv f) s = .next (x.done t) ∧
      (∃ n, t.group? x.k = some (x.controlGroup n)) ∧
      (∀ l ∈ x.atOnceLines f.addr, (x.s.line l).point ≠ .slice x.k.die → tget t.copies (x.k.die, l) = none) ∧
      (∀ d l, d ≠ x.k.die ∨ l ∉ x.atOnceLines f.addr ∨ (x.s.line l).point = .slice x.k.die → tget t.copies (d, l) =
        tget x.s.copies (d, l)) ∧
      t.mem = x.s.mem ∧ t.lines = x.s.lines := by
  obtain ⟨u, n, ⟨_, _, _, _, _, _, _, hu, -⟩, hc⟩ := x.cacheControl_eq f.addr 2
  obtain ⟨cs, hdrop, hget⟩ := (x.cacheControl f.addr 2).dropCopies_frame x.k.die (x.atOnceLines f.addr)
  have hline (l : Nat) : (x.cacheControl f.addr 2).line l = x.s.line l := by rw [hc, hu]; rfl
  have hcopies : (x.cacheControl f.addr 2).copies = x.s.copies := by rw [hc, hu]; rfl
  have hexec : exec (.cinv f) s = .next (x.done { x.cacheControl f.addr 2 with copies := cs }) := by
    show execCinv f s = _
    exact issue_ok h (congrArg Res.ok hdrop)
  refine ⟨_, hexec, ⟨n, ?_⟩, fun l hl hp => ?_, fun d l hor => ?_, ?_, ?_⟩
  · rw [hc]
    exact State.setGroup_group_self ..
  · show tget cs _ = _
    rw [hget, if_pos ⟨rfl, hl, by rwa [hline]⟩]
  · show tget cs _ = _
    rw [hget, hcopies, if_neg]
    rintro ⟨he, hl, hp⟩
    rw [hline] at hp
    rcases hor with h | h | h
    · exact h he
    · exact h hl
    · exact hp h
  · rw [hc, hu]
    rfl
  · rw [hc, hu]
    rfl

/-! #### pf -/

theorem State.newReq_frame (s : State) (src dst : Nat) (p : Payload) : ∃ rs n, (s.newReq src dst p).2 = { s with reqs := rs, nextId := n } :=
  ⟨_, _, rfl⟩

theorem State.askFill_frame (s : State) (k : GKey) (l : Nat) : ∃ rs n, s.askFill k l = { s with reqs := rs, nextId := n } := by
  unfold State.askFill
  split
  · exact ⟨s.reqs, s.nextId, rfl⟩
  · exact s.newReq_frame ..

/-- A line that its die does not hold is asked for. -/
theorem State.prefetch_asks {s : State} {k : GKey} {lease l : Nat}
    (hcopy : ∀ c, tget s.copies (k.die, l) = some c → live (s.wall k.m) c.expiry = false)
    (hpoint : (s.line l).point ≠ .slice k.die) (hnew : ∀ p ∈ (s.core k.core).pfs, p.1 ≠ l) :
    ∃ rs n, s.prefetch k lease l = ({ s with reqs := rs, nextId := n } : State).setCore k.core
      { s.core k.core with pfs := (s.core k.core).pfs ++ [(l, k.g, lease)] } := by
  have hask : ∃ rs n, (if k.m = lineMod l || (s.fillSource k.m l).isSome then s else s.askFill k l) = { s with reqs := rs, nextId := n } := by
    split
    · exact ⟨s.reqs, s.nextId, rfl⟩
    · exact s.askFill_frame k l
  obtain ⟨rs, n, hask⟩ := hask
  have hlive : (tget s.copies (k.die, l)).any (fun c => live (s.wall k.m) c.expiry) = false := by
    cases hc : tget s.copies (k.die, l) with
    | none => rfl
    | some c => simpa using hcopy c hc
  have hp : ((s.line l).point == .slice k.die) = false := by simpa using hpoint
  have hpf : (s.core k.core).pfs.any (fun p => p.1 == l) = false :=
    List.any_eq_false.mpr fun p hp => by simpa using hnew p hp
  refine ⟨rs, n, ?_⟩
  unfold State.prefetch
  rw [hlive, hp, if_neg (by simp), hask]
  refine congrArg (State.setCore _ k.core) ?_
  show (if (s.core k.core).pfs.any (fun p => p.1 == l) then s.core k.core else _) = _
  rw [hpf, if_neg (by simp)]
  rfl

theorem pfAsks (f : LineF) (s : State) (x : Iss) (h : prelude (.pf f false) s = .go x) {l : Nat} (hl : x.atOnceLines f.addr = [l])
    (hcopy : ∀ c, tget x.s.copies (x.k.die, l) = some c → live (x.s.wall x.k.m) c.expiry = false)
    (hpoint : (x.s.line l).point ≠ .slice x.k.die) (hnew : ∀ p ∈ (x.s.core x.k.core).pfs, p.1 ≠ l) :
    ∃ (t : State) (g : Group), exec (.pf f false) s = .next (x.done t) ∧ t.group? x.k = some g ∧
      (t.core x.k.core).pfs = (x.s.core x.k.core).pfs ++ [(l, x.k.g, x.g.sr.lease.toNat)] ∧
      g.frag x.sl = some { x.f with mark := none, pc := x.next, only := none } ∧ g.regs = x.g.regs ∧
      t.copies = x.s.copies ∧ t.lines = x.s.lines ∧ t.mem = x.s.mem ∧ t.dev = x.s.dev := by
  obtain ⟨u, n, hnoted, hc⟩ := x.cacheControl_eq f.addr 0
  have hcore := hnoted.core x.k.core
  obtain ⟨cs, ds, xs, ws, ys, m, c, hu, -⟩ := hnoted
  have hpfs : ((u.setGroup x.k (x.controlGroup n)).core x.k.core).pfs = (x.s.core x.k.core).pfs := (congrArg (fun c : Core => c.pfs) hcore :)
  obtain ⟨rs, m', hpre⟩ := State.prefetch_asks (s := u.setGroup x.k (x.controlGroup n)) (k := x.k) (lease := x.g.sr.lease.toNat) (l := l)
    (by rw [hu]; exact hcopy) (by rw [hu]; exact hpoint) (by rw [hpfs]; exact hnew)
  have hexec : exec (.pf f false) s = .next (x.done ((u.setGroup x.k (x.controlGroup n)).prefetch x.k x.g.sr.lease.toNat l)) := by
    show execPf f false s = _
    refine issue_ok h ?_
    simp only [Bool.false_eq_true, if_false, hl, List.foldl_cons, List.foldl_nil, hc]
  rw [hpre] at hexec
  refine ⟨_, _, hexec, State.setGroup_group_self .., ?_, x.controlGroup_frag n, x.controlGroup_regs n, ?_, ?_, ?_, ?_⟩
  · rw [State.setCore_core_self]
    exact congrArg (· ++ _) hpfs
  · rw [hu]; rfl
  · rw [hu]; rfl
  · rw [hu]; rfl
  · rw [hu]; rfl

/-! #### cwb -/

/-- The write-backs of a cwb: one for each line. -/
def Iss.writeBacks (x : Iss) (ps : List XPart) (ls : List Nat) : List WriteBack :=
  ls.mapIdx (fun j l => ⟨x.g.nextId + j, x.f.mask, l, x.f.pc, ((ps.find? (fun p => lineOf p.pa = l)).map (fun p => p.va)).getD 0, []⟩)

/-- The group of a cwb with its write-backs outstanding. -/
def Iss.cwbGroup (x : Iss) (ps : List XPart) (ls : List Nat) : Group :=
  { x.g with nextId := x.g.nextId + ls.length, wbs := x.g.wbs ++ x.writeBacks ps ls }

/-- The requests of a cwb: one for each line. -/
def Iss.cwbRequests (x : Iss) (ps : List XPart) (ls : List Nat) : List Sampled :=
  (lineReqs (ps.map (fun p => (p.lane, p.va)))).flatMap (fun r => x.requests (Config.cacheAcc 1).val
    (x.g.nextId + ls.idxOf (((ps.find? (fun p => p.va == r.2)).map (fun p => lineOf p.pa)).getD 0)) [r])

theorem cwbOpens (f : LineF) (s : State) (x : Iss) (ls : List Nat) (ps : List XPart) (h : prelude (.cwb f) s = .go x)
    (hall : x.allTranslate .write 1 (fun l => x.g.regs.ea f.addr l &&& ~~~127#64))
    (hrel : f.order.rel = true → x.s.released x.k x.g x.f.mask (f.scope == .sys) = true)
    (hps : ps = x.s.parts x.g.key .write x.act 1 (fun l => x.g.regs.ea f.addr l &&& ~~~127#64))
    (hls : ls = (ps.map (fun p => lineOf p.pa)).eraseDups) :
    ∃ t, AccessNoted x.s t ∧ exec (.cwb f) s = .next (x.done (t.setGroup x.k (x.storeGroup (x.cwbGroup ps ls)))) := by
  have hdec := hall.decide130
  have hspent := x.spent_parts .write (fun l => x.g.regs.ea f.addr l &&& ~~~127#64) Nat.one_pos (x.cwbGroup ps ls) 3
  rw [← hps] at hdec hspent
  have hgo : (f.order.rel && !x.s.released x.k x.g x.f.mask (f.scope == .sys)) = false := by
    cases hr : f.order.rel with
    | false => rfl
    | true => rw [hrel hr]; rfl
  have hfrag : (x.cwbGroup ps ls).frag x.sl = some x.f := (show _ = x.g.frag x.sl by cases x.sl <;> rfl).trans (prelude_go_frag h)
  refine ⟨_, (AccessNoted.noteParts x.s x.k x.g.key ps).trans (AccessNoted.sample _ x.k x.g (x.carrying ps).f.mark (x.cwbRequests ps ls)), ?_⟩
  show execCwb f s = _
  refine issue_ok h ?_
  simp only [← hps, hdec, hgo, Bool.false_eq_true, if_false, ← hls]
  refine (congrArg (fun g => Res.ok (x.finishX _ g 0#32 none .write)) hspent).trans (congrArg Res.ok (Iss.finish_unmark _ hfrag _ _))

end

theorem cacheControls : Claims.CacheControls := by
  refine ⟨fun f l2 s x h => ⟨fun hno => ?_, fun l hl2 hl hcopy hpoint hnew => ?_⟩, fun f s x ls ps h hall hrel hps hls => ?_,
    fun f s x h => cinvDrops f s x h⟩
  · obtain ⟨t, n, hnoted, hc⟩ := x.cacheControl_eq f.addr 0
    refine ⟨t, n, hnoted, ?_⟩
    show execPf f l2 s = _
    refine issue_ok h ?_
    rw [hc]
    rcases hno with rfl | hnil
    · rfl
    · rw [hnil]
      exact congrArg Res.ok (ite_self _)
  · subst hl2
    exact pfAsks f s x h hl hcopy hpoint hnew
  · obtain ⟨t, hnoted, hexec⟩ := cwbOpens f s x ls ps h hall hrel hps hls
    obtain ⟨f1, hf1, hpc, -⟩ := x.storeGroup_frag (x.cwbGroup ps ls)
    refine ⟨t, _, hnoted, hexec, ?_, ⟨f1, hf1, hpc⟩, Group.setFrag_regs .., Group.setFrag_sb .., Group.setFrag_flights ..⟩
    unfold Iss.storeGroup
    cases x.sl <;> rfl

/-- Settles O26: chk reads the struck eyelets of its lanes; pf asks for the one line that its die does not hold; cwb opens its
write-backs; cinv drops the copies of its lines one by one. -/
theorem chkAndCacheControls : Obligations.ChkAndCacheControls := ⟨chkResults, cacheControls⟩

end Sys2Proof.Machine

/-! ### The float words (spec/06 R94 to R101) -/

namespace Sys2Proof.Machine

/-! #### Words whose lanes each round once -/

section
variable {i : Instr} {s : State} {x : Iss} {mode : RMode} {idx per : Nat}

/-- A word of the short class whose lanes write ws and set the flags fl. -/
theorem shortFloat_of_lanes {ws : Nat → Nat → List RegW} {fl : Nat → Nat → Flags}
    (h : exec i s = .next (x.done ((x.counted idx per).fshort i (x.lanes mode (fun l r => (ws l r, fl l r)))))) :
    ShortFloat i x s idx per mode (fun l => fl l (drawOf mode x.g.sr.seed l).1)
      (x.g.regs.apply ((lanesOf x.act).flatMap (fun l => ws l (drawOf mode x.g.sr.seed l).1))) := by
  obtain ⟨hws, hfl, hseed⟩ := x.lanes_spec mode (fun l r => (ws l r, fl l r))
  refine ⟨_, hseed, ?_⟩
  rw [h, Iss.fshort, hws, hfl]
  rfl

/-- Registers t are those of r, but that each active lane's vector register d holds v of the lane. -/
def Regs.LanesWritten (r t : Regs) (act : LaneMask) (d : Nat) (v : Nat → Word) : Prop :=
  t.s = r.s ∧ t.p = r.p ∧ t.q = r.q ∧ ∀ l n, l < 32 → t.rdV n l = if n = d ∧ act.getLsbD l = true then v l else r.rdV n l

theorem Regs.lanesWritten_apply (r : Regs) (act : LaneMask) (d : Nat) (v : Nat → Word) :
    r.LanesWritten (r.apply ((lanesOf act).flatMap (fun l => [.v d l (v l)]))) act d v := by
  rw [Regs.apply_flatMap]
  obtain ⟨hs, hp, hq⟩ := foldl_wrV_files act d v r
  exact ⟨hs, hp, hq, fun l n hl => foldl_wrV act d v r l n hl⟩

/-- A word of the short class whose lanes write one vector register each. -/
theorem shortFloat_v {d : Nat} {val : Nat → Nat → Word} {fl : Nat → Nat → Flags}
    (h : exec i s = .next (x.done ((x.counted idx per).fshort i (x.lanes mode (fun l r => ([.v d l (val l r)], fl l r)))))) :
    ∃ r : Regs, ShortFloat i x s idx per mode (fun l => fl l (drawOf mode x.g.sr.seed l).1) r ∧
      x.g.regs.LanesWritten r x.act d (fun l => val l (drawOf mode x.g.sr.seed l).1) :=
  ⟨_, shortFloat_of_lanes h, Regs.lanesWritten_apply ..⟩

end

/-! #### Arithmetic -/

/-- One lane of an arithmetic float word with its draw: the code and the flags. -/
def Iss.fltOut (x : Iss) (op : FOp) (f : FltF) (l r : Nat) : Nat × Flags :=
  fltLane op f.ft (f.rnd.mode x.g.rm) f.sat x.g.ftz r ((x.g.regs.rdV f.a.val l).toNat % FT.bits f.ft)
    (x.g.regs.srcB f.sb false f.b.val l % FT.bits f.ft) ((x.g.regs.rdV f.c.val l).toNat % FT.bits f.ft)

theorem Iss.fltLanes_eq (x : Iss) (op : FOp) (f : FltF) :
    x.fltLanes op f = x.lanes (f.rnd.mode x.g.rm) (fun l r => ([.v f.d.val l (BitVec.ofNat 32 (x.fltOut op f l r).1)], (x.fltOut op f l r).2)) :=
  rfl

theorem exec_floatShort {p : FOp × Nat × (FltF → Instr)} (hp : p ∈ floatShort) (f : FltF) (s : State) :
    exec (p.2.2 f) s = issue (p.2.2 f) s (fun x => .ok ((x.counted (idxFloat f.ft.fmt) p.2.1).fshort (p.2.2 f) (x.fltLanes p.1 f))) := by
  simp only [floatShort, List.mem_cons, List.not_mem_nil, or_false] at hp
  rcases hp with rfl | rfl | rfl | rfl <;> rfl

theorem exec_floatLong {p : FOp × (FltF → Instr)} (hp : p ∈ floatLong) (f : FltF) (s : State) :
    exec (p.2 f) s = issue (p.2 f) s (fun x => .ok ((x.counted (idxFloat f.ft.fmt) 1).flong (p.2 f) f.la.val (x.fltLanes p.1 f))) := by
  simp only [floatLong, List.mem_cons, List.not_mem_nil, or_false] at hp
  rcases hp with rfl | rfl | rfl | rfl | rfl | rfl <;> rfl

theorem floatShort_go {p : FOp × Nat × (FltF → Instr)} (hp : p ∈ floatShort) {f : FltF} {s : State} {x : Iss} (h : prelude (p.2.2 f) s = .go x) :
    exec (p.2.2 f) s = .next (x.done ((x.counted (idxFloat f.ft.fmt) p.2.1).fshort (p.2.2 f) (x.lanes (f.rnd.mode x.g.rm)
      (fun l r => ([.v f.d.val l (BitVec.ofNat 32 (x.fltOut p.1 f l r).1)], (x.fltOut p.1 f l r).2))))) :=
  (exec_floatShort hp f s).trans (issue_ok h rfl)

theorem floatShortResults : Claims.FloatShortResults := by
  intro p hp f s x h
  obtain ⟨r, hshort, hr⟩ := shortFloat_v (floatShort_go hp h)
  exact ⟨r, hshort, hr⟩

theorem floatLong_go {p : FOp × (FltF → Instr)} (hp : p ∈ floatLong) {f : FltF} {s : State} {x : Iss} (h : prelude (p.2 f) s = .go x) :
    exec (p.2 f) s = .next (x.done ((x.counted (idxFloat f.ft.fmt) 1).flong (p.2 f) f.la.val (x.lanes (f.rnd.mode x.g.rm)
      (fun l r => ([.v f.d.val l (BitVec.ofNat 32 (x.fltOut p.1 f l r).1)], (x.fltOut p.1 f l r).2))))) :=
  (exec_floatLong hp f s).trans (issue_ok h rfl)

theorem floatLongResults : Claims.FloatLongResults := by
  intro p hp f s x h
  obtain ⟨hws, hfl, hseed⟩ := x.lanes_spec (f.rnd.mode x.g.rm)
    (fun l r => ([.v f.d.val l (BitVec.ofNat 32 (x.fltOut p.1 f l r).1)], (x.fltOut p.1 f l r).2))
  have hexec := floatLong_go hp h
  rw [Iss.flong, hws, hfl, Iss.counted, Nat.one_mul] at hexec
  refine ⟨_, _, hseed, hexec, fun r l n hl => ?_⟩
  obtain ⟨hs, hp, hq, hv⟩ := r.lanesWritten_apply x.act f.d.val
    (fun l => BitVec.ofNat 32 (x.fltOut p.1 f l (drawOf (f.rnd.mode x.g.rm) x.g.sr.seed l).1).1)
  exact ⟨⟨hs, hp, hq⟩, hv l n hl⟩

/-! #### The other float words -/

/-- One lane of fmin or fmax, of fcmp and of fdot4: the result and the flags. -/
def Iss.fminOut (x : Iss) (mx : Bool) (f : FMinF) (l : Nat) : Nat × Flags :=
  fminLane mx f.ft x.g.ftz ((x.g.regs.rdV f.a.val l).toNat % FT.bits f.ft) (x.g.regs.srcB f.sb false f.b.val l % FT.bits f.ft)
def Iss.fcmpOut (x : Iss) (f : FCmpF) (l : Nat) : Bool × Flags :=
  fcmpLane f.cond f.ft x.g.ftz ((x.g.regs.rdV f.a.val l).toNat % FT.bits f.ft) (x.g.regs.srcB f.sb false f.b.val l % FT.bits f.ft)
def Iss.fdotOut (x : Iss) (f : FDotF) (l : Nat) : Nat × Flags :=
  fdotLane f.fmt x.g.ftz (x.g.regs.rdV f.a.val l).toNat (x.g.regs.rdV f.b.val l).toNat (x.g.regs.rdV f.c.val l).toNat

theorem exec_fminmax {f : FMinF} {mx : Bool} {s : State} {x : Iss} (h : prelude (if mx then .fmax f else .fmin f) s = .go x) :
    exec (if mx then .fmax f else .fmin f) s = .next (x.done ((x.counted (idxFloat f.ft.fmt) 1).fshort (if mx then .fmax f else .fmin f)
      (x.lanes .rne (fun l _ => ([.v f.d.val l (BitVec.ofNat 32 (x.fminOut mx f l).1)], (x.fminOut mx f l).2))))) := by
  cases mx
  · exact (show exec (.fmin f) s = execFmin f s from rfl).trans (issue_ok h rfl)
  · exact (show exec (.fmax f) s = execFmax f s from rfl).trans (issue_ok h rfl)

theorem exec_fcmp {f : FCmpF} {s : State} {x : Iss} (h : prelude (.fcmp f) s = .go x) :
    exec (.fcmp f) s = .next (x.done ((x.counted (idxFloat f.ft.fmt) 1).fshort (.fcmp f)
      (x.lanes .rne (fun l _ => ([.p f.p.val l (x.fcmpOut f l).1], (x.fcmpOut f l).2))))) :=
  (show exec (.fcmp f) s = execFcmp f s from rfl).trans (issue_ok h rfl)

theorem exec_fdot4 {f : FDotF} {s : State} {x : Iss} (h : prelude (.fdot4 f) s = .go x) :
    exec (.fdot4 f) s = .next (x.done ((x.counted (idxFloat f.fmt) 8).fshort (.fdot4 f)
      (x.lanes .rne (fun l _ => ([.v f.d.val l (BitVec.ofNat 32 (x.fdotOut f l).1)], (x.fdotOut f l).2))))) :=
  (show exec (.fdot4 f) s = execFdot4 f s from rfl).trans (issue_ok h rfl)

theorem fminmax_short {f : FMinF} {mx : Bool} {s : State} {x : Iss} (h : prelude (if mx then .fmax f else .fmin f) s = .go x) :
    ∃ r : Regs, ShortFloat (if mx then .fmax f else .fmin f) x s (idxFloat f.ft.fmt) 1 .rne (fun l => (x.fminOut mx f l).2) r ∧
      x.g.regs.LanesWritten r x.act f.d.val (fun l => BitVec.ofNat 32 (x.fminOut mx f l).1) :=
  shortFloat_v (val := fun l _ => BitVec.ofNat 32 (x.fminOut mx f l).1) (fl := fun l _ => (x.fminOut mx f l).2) (exec_fminmax h)

theorem fdot4_short {f : FDotF} {s : State} {x : Iss} (h : prelude (.fdot4 f) s = .go x) :
    ∃ r : Regs, ShortFloat (.fdot4 f) x s (idxFloat f.fmt) 8 .rne (fun l => (x.fdotOut f l).2) r ∧
      x.g.regs.LanesWritten r x.act f.d.val (fun l => BitVec.ofNat 32 (x.fdotOut f l).1) :=
  shortFloat_v (val := fun l _ => BitVec.ofNat 32 (x.fdotOut f l).1) (fl := fun l _ => (x.fdotOut f l).2) (exec_fdot4 h)

theorem fcmp_short {f : FCmpF} {s : State} {x : Iss} (h : prelude (.fcmp f) s = .go x) :
    ∃ r : Regs, ShortFloat (.fcmp f) x s (idxFloat f.ft.fmt) 1 .rne (fun l => (x.fcmpOut f l).2) r ∧
      r = (lanesOf x.act).foldl (fun r l => r.wrPbit f.p.val l (x.fcmpOut f l).1) x.g.regs :=
  ⟨_, shortFloat_of_lanes (ws := fun l _ => [.p f.p.val l (x.fcmpOut f l).1]) (fl := fun l _ => (x.fcmpOut f l).2) (exec_fcmp h),
    Regs.apply_flatMap ..⟩

theorem floatOtherResults : Claims.FloatOtherResults := by
  refine ⟨fun f s x mx h => fminmax_short h, fun f s x h => ?_, fun f s x h => fdot4_short h⟩
  obtain ⟨r, hshort, rfl⟩ := fcmp_short h
  obtain ⟨hv, hs, hq⟩ := foldl_wrPbit_files x.act f.p.val (fun l => (x.fcmpOut f l).1) x.g.regs
  exact ⟨_, hshort, hv, hs, hq, fun l n hl => foldl_wrPbit x.act f.p.val (fun l => (x.fcmpOut f l).1) x.g.regs l n hl⟩

/-- Settles O17: the lanes of a word round one by one; each writes its own destination. -/
theorem floatResults : Obligations.FloatResults := ⟨floatShortResults, floatLongResults, floatOtherResults⟩

end Sys2Proof.Machine

/-! ### Conversions and block quantization (spec/06 R103 to R108) -/

namespace Sys2Proof.Machine

/-! #### Conversions -/

/-- One lane of cvt and of cvt.if with its draw, and of cvt.fi: the result and the flags. -/
def Iss.cvtOut (x : Iss) (f : CvtF) (l r : Nat) : Nat × Flags :=
  roundTo (f.sfmt.val (subBytes (x.g.regs.rdV f.a.val l) f.sfmt.bytes (sideByte f.sfmt.bytes f.dfmt.bytes f.bsel.val))) f.dfmt
    (f.rnd.mode x.g.rm) f.sat r
def Iss.cvtIfOut (x : Iss) (f : CvtIfF) (l r : Nat) : Nat × Flags :=
  roundTo (Val.ofInt (readAs (IntTy.w f.ty) f.ty.signed (x.g.regs.rdW f.ty.wide f.a.val l))) f.dfmt (f.rnd.mode x.g.rm) f.sat r
def Iss.cvtFiOut (x : Iss) (f : CvtFiF) (l : Nat) : Int × Flags :=
  toIntClamp (f.sfmt.val (subBytes (x.g.regs.rdV f.a.val l) f.sfmt.bytes f.bsel.val)) (f.rnd.mode x.g.rm).noSr (IntTy.lo f.ty) (IntTy.hi f.ty)

/-- The pattern that cvt.fi writes for one lane. -/
def Iss.cvtFiNat (x : Iss) (f : CvtFiF) (l : Nat) : Nat := ((x.cvtFiOut f l).1 % 2 ^ 64).toNat

theorem exec_cvt {f : CvtF} {s : State} {x : Iss} (h : prelude (.cvt f) s = .go x) :
    exec (.cvt f) s = .next (x.done ((x.counted (idxConv (Fmt.code f.sfmt) (Fmt.code f.dfmt)) 1).fshort (.cvt f)
      (x.lanes (f.rnd.mode x.g.rm) (fun l r => ([.v f.d.val l (putBytes (x.g.regs.rdV f.d.val l) f.dfmt.bytes
        (sideByte f.dfmt.bytes f.sfmt.bytes f.bsel.val) (x.cvtOut f l r).1)], (x.cvtOut f l r).2))))) :=
  (show exec (.cvt f) s = execCvt f s from rfl).trans (issue_ok h rfl)

theorem exec_cvtIf {f : CvtIfF} {s : State} {x : Iss} (h : prelude (.cvtIf f) s = .go x) :
    exec (.cvtIf f) s = .next (x.done ((x.counted (idxConv (intFmt f.ty) (Fmt.code f.dfmt)) 1).fshort (.cvtIf f)
      (x.lanes (f.rnd.mode x.g.rm) (fun l r => ([.v f.d.val l (putBytes (x.g.regs.rdV f.d.val l) f.dfmt.bytes f.bsel.val
        (x.cvtIfOut f l r).1)], (x.cvtIfOut f l r).2))))) :=
  (show exec (.cvtIf f) s = execCvtIf f s from rfl).trans (issue_ok h rfl)

theorem exec_cvtFi {f : CvtFiF} {s : State} {x : Iss} (h : prelude (.cvtFi f) s = .go x) :
    exec (.cvtFi f) s = .next (x.done ((x.counted (idxConv (Fmt.code f.sfmt) (intFmt f.ty)) 1).fshort (.cvtFi f)
      (x.lanes .rne (fun l _ => (vwr f.ty.wide f.d.val l (x.cvtFiNat f l), (x.cvtFiOut f l).2))))) :=
  (show exec (.cvtFi f) s = execCvtFi f s from rfl).trans (issue_ok h rfl)

theorem cvt_short {f : CvtF} {s : State} {x : Iss} (h : prelude (.cvt f) s = .go x) :
    ∃ r : Regs, ShortFloat (.cvt f) x s (idxConv (Fmt.code f.sfmt) (Fmt.code f.dfmt)) 1 (f.rnd.mode x.g.rm)
        (fun l => (x.cvtOut f l (drawOf (f.rnd.mode x.g.rm) x.g.sr.seed l).1).2) r ∧
      x.g.regs.LanesWritten r x.act f.d.val (fun l => putBytes (x.g.regs.rdV f.d.val l) f.dfmt.bytes
        (sideByte f.dfmt.bytes f.sfmt.bytes f.bsel.val) (x.cvtOut f l (drawOf (f.rnd.mode x.g.rm) x.g.sr.seed l).1).1) :=
  shortFloat_v (val := fun l r => putBytes (x.g.regs.rdV f.d.val l) f.dfmt.bytes (sideByte f.dfmt.bytes f.sfmt.bytes f.bsel.val)
    (x.cvtOut f l r).1) (fl := fun l r => (x.cvtOut f l r).2) (exec_cvt h)

theorem cvtIf_short {f : CvtIfF} {s : State} {x : Iss} (h : prelude (.cvtIf f) s = .go x) :
    ∃ r : Regs, ShortFloat (.cvtIf f) x s (idxConv (intFmt f.ty) (Fmt.code f.dfmt)) 1 (f.rnd.mode x.g.rm)
        (fun l => (x.cvtIfOut f l (drawOf (f.rnd.mode x.g.rm) x.g.sr.seed l).1).2) r ∧
      x.g.regs.LanesWritten r x.act f.d.val (fun l => putBytes (x.g.regs.rdV f.d.val l) f.dfmt.bytes f.bsel.val
        (x.cvtIfOut f l (drawOf (f.rnd.mode x.g.rm) x.g.sr.seed l).1).1) :=
  shortFloat_v (val := fun l r => putBytes (x.g.regs.rdV f.d.val l) f.dfmt.bytes f.bsel.val (x.cvtIfOut f l r).1)
    (fl := fun l r => (x.cvtIfOut f l r).2) (exec_cvtIf h)

theorem cvtFi_short {f : CvtFiF} {s : State} {x : Iss} (h : prelude (.cvtFi f) s = .go x) :
    ∃ r : Regs, ShortFloat (.cvtFi f) x s (idxConv (Fmt.code f.sfmt) (intFmt f.ty)) 1 .rne (fun l => (x.cvtFiOut f l).2) r ∧
      r = (lanesOf x.act).foldl (fun r l => r.wrW f.ty.wide f.d.val l (x.cvtFiNat f l)) x.g.regs := by
  have hshort := shortFloat_of_lanes (ws := fun l _ => vwr f.ty.wide f.d.val l (x.cvtFiNat f l))
    (fl := fun l _ => (x.cvtFiOut f l).2) (exec_cvtFi h)
  rw [Regs.apply_flatMap] at hshort
  simp only [Regs.apply_vwr] at hshort
  exact ⟨_, hshort, rfl⟩

/-- The low bits of an integer taken to 64 bits. -/
theorem toNat_emod_width (a : Int) (wide : Bool) :
    (a % 2 ^ 64).toNat % 2 ^ (if wide then 64 else 32) = (a % 2 ^ (if wide then 64 else 32)).toNat := by
  cases wide
  · simp only [Bool.false_eq_true, if_false]
    omega
  · simp only [if_true]
    omega

theorem conversionResults : Claims.ConversionResults := by
  refine ⟨fun f s x h => cvt_short h, fun f s x h => ?_, fun f s x h => cvtIf_short h⟩
  obtain ⟨r, hshort, rfl⟩ := cvtFi_short h
  obtain ⟨hs, hp, hq⟩ := foldl_wrW_files x.act f.ty.wide f.d.val (x.cvtFiNat f) x.g.regs
  refine ⟨_, hshort, hs, hp, hq, fun l n hl hn hn1 => foldl_wrW_rdV x.act f.ty.wide f.d.val _ x.g.regs n l hl (.inr ⟨hn, hn1⟩), fun l hl => ?_⟩
  rw [foldl_wrW x.act f.ty.wide f.d.val _ x.g.regs l hl]
  refine if_congr Iff.rfl ?_ rfl
  exact toNat_emod_width (x.cvtFiOut f l).1 f.ty.wide

/-! #### The histogram -/

/-- The bins of a histogram in a register pair, written one by one. -/
theorem foldl_bins_rdV (d : Nat) (w : Nat → Word) (r : Regs) (n j m : Nat) (hm : m < 32) :
    ((List.range n).foldl (fun r k => r.wrV (d + k / 32) (k % 32) (w k)) r).rdV j m =
      if d ≤ j ∧ (j - d) * 32 + m < n then w ((j - d) * 32 + m) else r.rdV j m := by
  induction n with
  | zero => simp
  | succ n ih =>
    rw [List.range_succ, List.foldl_append, List.foldl_cons, List.foldl_nil, Regs.rdV_wrV _ _ _ _ _ _ (Nat.mod_lt _ (by decide)) hm, ih]
    by_cases h : j = d + n / 32 ∧ m = n % 32
    · have hn : (j - d) * 32 + m = n := by omega
      rw [if_pos h, hn, if_pos ⟨by omega, Nat.lt_succ_self n⟩]
    · rw [if_neg h]
      refine if_congr ⟨fun ⟨h1, h2⟩ => ⟨h1, by omega⟩, fun ⟨h1, h2⟩ => ⟨h1, ?_⟩⟩ rfl rfl
      rcases Nat.lt_succ_iff_lt_or_eq.mp h2 with h3 | h3
      · exact h3
      · exact absurd ⟨by omega, by omega⟩ h

/-- What qblk.hist writes to bin k. -/
def Iss.binOut (x : Iss) (f : QHistF) (k : Nat) : Nat :=
  min ((x.g.regs.rdV (f.d.val + k / 32) (k % 32)).toNat +
    ((lanesOf x.act).filter (fun l => histBin (x.g.regs.rdV f.a.val l).toNat = some k)).length) (2 ^ 32 - 1)

theorem filterMap_filter_length {α : Type} (g : α → Option Nat) (l : List α) (k : Nat) :
    ((l.filterMap g).filter (· == k)).length = (l.filter (fun a => g a = some k)).length := by
  induction l with
  | nil => rfl
  | cons a l ih =>
    cases hg : g a with
    | none => simp [hg, ih]
    | some b => by_cases hb : b = k <;> simp [hg, hb, ih]

theorem Iss.histAdd_eq (x : Iss) (f : QHistF) :
    histAdd (x.g.regs.bins f.d.val) ((lanesOf x.act).map (fun l => (x.g.regs.rdV f.a.val l).toNat)) = (List.range 64).map (x.binOut f) := by
  unfold histAdd Regs.bins
  refine List.ext_getElem? fun k => ?_
  simp only [List.getElem?_mapIdx, List.getElem?_map, Option.map_map, List.filterMap_map]
  by_cases hk : k < 64
  · rw [List.getElem?_range hk]
    simp only [Option.map_some, Function.comp_apply, Iss.binOut, filterMap_filter_length]
  · rw [List.getElem?_eq_none (by simpa using hk)]
    rfl

theorem mapIdx_map_range {α β : Type} (n : Nat) (w : Nat → α) (g : Nat → α → β) :
    ((List.range n).map w).mapIdx g = (List.range n).map (fun k => g k (w k)) := by
  refine List.ext_getElem? fun k => ?_
  simp only [List.getElem?_mapIdx, List.getElem?_map, Option.map_map]
  by_cases hk : k < n
  · rw [List.getElem?_range hk]
    rfl
  · rw [List.getElem?_eq_none (by simpa using hk)]
    rfl

theorem qblkHistResults (f : QHistF) (s : State) (x : Iss) (h : prelude (.qblkHist f) s = .go x) :
    exec (.qblkHist f) s = .next (x.done (x.later 6 f.la.val (Instr.dests (.qblkHist f)) 8
      ((List.range 64).map (fun k => .v (f.d.val + k / 32) (k % 32) (BitVec.ofNat 32 (x.binOut f k)))) 0#5)) := by
  show execQblkHist f s = _
  refine issue_ok h ?_
  exact congrArg (fun ws => Res.ok (x.later 6 f.la.val (Instr.dests (.qblkHist f)) 8 ws 0#5))
    ((congrArg (List.mapIdx _) (x.histAdd_eq f)).trans (mapIdx_map_range ..))

/-! #### The clip exponent -/

theorem clipFrom_spec {t : Nat} {bs : List Nat} {acc i : Nat} (hne : bs ≠ []) (ht : t ≤ acc + bs.sum) :
    ∃ k, k < bs.length ∧ clipFrom t bs acc i = (i + k : Nat) - 32 ∧ t ≤ acc + (bs.take (k + 1)).sum ∧
      ∀ j, j < k → acc + (bs.take (j + 1)).sum < t := by
  induction bs generalizing acc i with
  | nil => exact absurd rfl hne
  | cons b bs ih =>
    by_cases hb : t ≤ acc + b
    · exact ⟨0, Nat.succ_pos _, by simp [clipFrom, hb], by simpa using hb, fun j hj => absurd hj (Nat.not_lt_zero j)⟩
    · have hne' : bs ≠ [] := by
        rintro rfl
        simp at ht
        omega
      obtain ⟨k, hk, hclip, hle, hlt⟩ := ih (acc := acc + b) (i := i + 1) hne' (by simp at ht; omega)
      refine ⟨k + 1, Nat.succ_lt_succ hk, ?_, ?_, fun j hj => ?_⟩
      · rw [clipFrom, if_neg hb, hclip]
        push_cast
        omega
      · rw [List.take_succ_cons, List.sum_cons]
        omega
      · cases j with
        | zero => simp; omega
        | succ j =>
          have := hlt j (Nat.lt_of_succ_lt_succ hj)
          rw [List.take_succ_cons, List.sum_cons]
          omega

theorem clipExp_spec (bins : List Nat) (pct : Nat) (hlen : bins.length = 64) (hpos : 0 < bins.sum) :
    ∃ k : Nat, k < 64 ∧ clipExp bins pct = (k : Int) - 32 ∧
      (min pct 1024 * bins.sum + 1023) / 1024 ≤ (bins.take (k + 1)).sum ∧
      ∀ j : Nat, j < k → (bins.take (j + 1)).sum < (min pct 1024 * bins.sum + 1023) / 1024 := by
  have ht : (min pct 1024 * bins.sum + 1023) / 1024 ≤ 0 + bins.sum := by
    have : min pct 1024 * bins.sum ≤ 1024 * bins.sum := Nat.mul_le_mul_right _ (min_le_right ..)
    omega
  obtain ⟨k, hk, hclip, hle, hlt⟩ := clipFrom_spec (i := 0) (List.ne_nil_of_length_pos (by omega)) ht
  refine ⟨k, hlen ▸ hk, ?_, by rwa [Nat.zero_add] at hle, fun j hj => by have := hlt j hj; rwa [Nat.zero_add] at this⟩
  unfold clipExp
  rw [← List.sum_eq_foldl, if_neg (by omega)]
  rw [hclip, Nat.zero_add]

/-! #### The scale and the codes -/

/-- The writes of qblk.q: the scale, and the code of each active lane. -/
def Iss.quantWrites (x : Iss) (f : QQuantF) (sx : Int) : List RegW :=
  .s f.c.val (BitVec.ofNat 64 ((sx + 127).toNat % 256)) :: (lanesOf x.act).map (fun l =>
    .v f.d.val l (putBytes (x.g.regs.rdV f.d.val l) 1 f.bsel.val (blockCode f.fmt sx (x.g.regs.rdV f.a.val l).toNat)))

theorem Iss.apply_quantWrites (x : Iss) (f : QQuantF) (sx : Int) (r : Regs) :
    (r.wrS f.c.val (BitVec.ofNat 64 ((sx + 127).toNat % 256))).LanesWritten (r.apply (x.quantWrites f sx)) x.act f.d.val
      (fun l => putBytes (x.g.regs.rdV f.d.val l) 1 f.bsel.val (blockCode f.fmt sx (x.g.regs.rdV f.a.val l).toNat)) := by
  rw [Iss.quantWrites, Regs.apply, Regs.apply_map]
  obtain ⟨hs, hp, hq⟩ := foldl_wrV_files x.act f.d.val (fun l => putBytes (x.g.regs.rdV f.d.val l) 1 f.bsel.val
    (blockCode f.fmt sx (x.g.regs.rdV f.a.val l).toNat)) (r.wrS f.c.val (BitVec.ofNat 64 ((sx + 127).toNat % 256)))
  exact ⟨hs, hp, hq, fun l n hl => foldl_wrV x.act f.d.val _ _ l n hl⟩

theorem exec_qblkQ {f : QQuantF} {s : State} {x : Iss} (h : prelude (.qblkQ f) s = .go x) {sx : Int}
    (hsx : sx = scaleExp f.fmt (max (-32) (min 31 (x.g.regs.rdS f.b.val).toInt)) ((lanesOf x.act).map (fun l => (x.g.regs.rdV f.a.val l).toNat))) :
    exec (.qblkQ f) s = .next (x.done (({ x with
        s := x.s.count x.g.key (idxConv (Fmt.code .f32) (Fmt.code f.fmt)) (lanesOf x.act).length } : Iss).later 6 f.la.val
          (Instr.dests (.qblkQ f)) 8 (x.quantWrites f sx) 0#5)) := by
  subst hsx
  show execQblkQ f s = _
  refine issue_ok h ?_
  simp only [Iss.counted, Nat.one_mul]
  rfl

theorem blockQuantization : Claims.BlockQuantization := by
  refine ⟨fun f s x h => ⟨_, qblkHistResults f s x h, fun r k hk => ?_⟩, fun f s x h => ?_, clipExp_spec,
    fun f s x h => ⟨_, exec_qblkQ h rfl, ?_⟩⟩
  · rw [Regs.apply_map]
    refine ⟨⟨foldl_keeps Regs.s _ _ _ fun _ _ _ => rfl, foldl_keeps Regs.p _ _ _ fun _ _ _ => rfl,
      foldl_keeps Regs.q _ _ _ fun _ _ _ => rfl⟩, fun n l hl hn hn1 => ?_, ?_⟩
    · refine (foldl_bins_rdV f.d.val (fun k => BitVec.ofNat 32 (x.binOut f k)) r 64 n l hl).trans (if_neg ?_)
      omega
    · refine (congrArg BitVec.toNat (foldl_bins_rdV f.d.val (fun k => BitVec.ofNat 32 (x.binOut f k)) r 64 (f.d.val + k / 32) (k % 32)
        (Nat.mod_lt _ (by decide)))).trans ?_
      have hbin : (f.d.val + k / 32 - f.d.val) * 32 + k % 32 = k := by omega
      rw [hbin, if_pos ⟨Nat.le_add_right .., hk⟩, BitVec.toNat_ofNat]
      exact Nat.mod_eq_of_lt (lt_of_le_of_lt (min_le_right _ _) (by decide))
  · show execQblkClip f s = _
    exact issue_ok h rfl
  · rintro r sx rfl
    obtain ⟨hs, hp, hq, hv⟩ := x.apply_quantWrites f (scaleExp f.fmt (max (-32) (min 31 (x.g.regs.rdS f.b.val).toInt))
      ((lanesOf x.act).map (fun l => (x.g.regs.rdV f.a.val l).toNat))) r
    refine ⟨⟨hp.trans (Regs.wrS_p ..), hq.trans (Regs.wrS_q ..), fun m hm => ?_⟩, fun hc => ?_, fun l n hl => (hv l n hl).trans ?_⟩
    · rw [Regs.rdS_congr hs, Regs.rdS_wrS, if_neg fun h => hm h.1]
    · rw [Regs.rdS_congr hs, Regs.rdS_wrS, if_pos ⟨rfl, hc⟩]
    · rw [Regs.rdV_congr (Regs.wrS_v ..)]

/-- Settles O18: each lane rounds the bytes that BSEL selects; the 64 bins are written one by one; the clip exponent is the first bin
at which the running sum covers the percentile. -/
theorem conversionsAndBlocks : Obligations.ConversionsAndBlocks := ⟨conversionResults, blockQuantization⟩

end Sys2Proof.Machine

/-! ### Rounding values of a format's own grid, and the special cases of the float operations (spec/06 R86 to R99) -/

namespace Sys2Proof

/-! #### A value in the grid -/

/-- The quantum to which a format rounds a magnitude m·2^e. -/
def FmtP.quantum (f : FmtP) (m : Nat) (e : Int) : Int := max (floorLog2 m e - (f.p - 1 : Nat)) f.qmin

/-- A magnitude that is a whole number of quanta is rounded exactly. -/
theorem pickQuanta_exact {neg : Bool} {m : Nat} {e q : Int} {mode : RMode} {r : Nat} {ev : Nat → Bool} (h : q ≤ e) :
    pickQuanta neg m e false q mode r ev = (shiftE m (e - q), false) := by
  have hlt : ¬e < q := not_lt.mpr h
  simp [pickQuanta, hlt]

theorem roundTo_exact {fm : Fmt} {neg : Bool} {m n : Nat} {e q : Int} (hm : m ≠ 0) (hquant : (Fmt.par fm).quantum m e = q) (hq : q ≤ e)
    (hn : shiftE m (e - q) = n) (hn0 : n ≠ 0) (hsign : ((Fmt.par fm).signBit.isNone && neg) = false)
    (hmax : magLt ((Fmt.par fm).mag (Fmt.par fm).maxCode).1 ((Fmt.par fm).mag (Fmt.par fm).maxCode).2 n q = false) (mode : RMode) (sat : Bool)
    (r : Nat) : roundTo (.fin neg m e false) fm mode sat r = ((Fmt.par fm).signed neg ((Fmt.par fm).codeOf n q), 0#5) := by
  have hq' : max (floorLog2 m e - ((Fmt.par fm).p - 1 : Nat)) (Fmt.par fm).qmin = q := hquant
  have hpick (ev : Nat → Bool) : pickQuanta neg m e false q mode r ev = (n, false) := by rw [pickQuanta_exact hq, hn]
  simp only [roundTo, hm, decide_false, Bool.not_false, Bool.and_true, Bool.false_eq_true, if_false, hq', hpick, hn0, hsign, hmax,
    Bool.false_and]
  rfl

/-! #### The special cases -/

theorem fltLane_f32 {op : FOp} {mode : RMode} {sat ftz : Bool} {r a b c : Nat} {x y z : Val} {g h : Flags} {n : Nat} (v : Val) (fl : Flags)
    (ha : Fmt.f32.val (flush .f32 ftz a) = x) (hb : Fmt.f32.val (flush .f32 ftz b) = y) (hc : Fmt.f32.val (flush .f32 ftz c) = z)
    (hx : op.exact (mode == .rdn) x y z = (v, fl)) (hy : roundTo v .f32 mode sat r = (n, g)) (hsub : Fmt.f32.isSub n = false)
    (hfl : fl ||| g = h) : fltLane op .f32 mode sat ftz r a b c = (n, h) := by
  subst ha hb hc hfl
  unfold fltLane
  simp only [FT.fmt, hx, hy, hsub, Bool.and_false, Bool.false_eq_true, if_false]

theorem roundTo_f32_inf (neg : Bool) (mode : RMode) (r : Nat) :
    roundTo (.inf neg) .f32 mode false r = (if neg then 0xFF800000 else 0x7F800000, 0#5) := by cases neg <;> rfl
theorem roundTo_f32_zero (neg : Bool) (e : Int) (mode : RMode) (sat : Bool) (r : Nat) :
    roundTo (.fin neg 0 e false) .f32 mode sat r = (if neg then 0x80000000 else 0, 0#5) := by cases neg <;> rfl
theorem roundTo_f32_nan (sig : Bool) (mode : RMode) (sat : Bool) (r : Nat) :
    roundTo (.nan sig) .f32 mode sat r = (0x7FC00000, if sig then Flags.nv else 0#5) := rfl
theorem roundTo_f32_one (neg : Bool) (mode : RMode) (sat : Bool) (r : Nat) :
    roundTo (.fin neg 1 0 false) .f32 mode sat r = (if neg then 0xBF800000 else 0x3F800000, 0#5) := by
  rw [roundTo_exact (n := 2 ^ 23) (q := -23) (by decide) (by decide) (by decide) (by decide) (by decide) (by cases neg <;> rfl) (by decide)]
  cases neg <;> decide

/-- What the codes of the special cases stand for: flushing changes none of them. -/
theorem val_f32_zero (ftz : Bool) : Fmt.f32.val (flush .f32 ftz 0) = .fin false 0 (-149) false := by cases ftz <;> decide
theorem val_f32_negZero (ftz : Bool) : Fmt.f32.val (flush .f32 ftz 0x80000000) = .fin true 0 (-149) false := by cases ftz <;> decide
theorem val_f32_inf (ftz : Bool) : Fmt.f32.val (flush .f32 ftz 0x7F800000) = .inf false := by cases ftz <;> decide
theorem val_f32_negInf (ftz : Bool) : Fmt.f32.val (flush .f32 ftz 0xFF800000) = .inf true := by cases ftz <;> decide
theorem val_f32_one (ftz : Bool) : Fmt.f32.val (flush .f32 ftz 0x3F800000) = .fin false (2 ^ 23) (-23) false := by cases ftz <;> decide
theorem val_f32_negOne (ftz : Bool) : Fmt.f32.val (flush .f32 ftz 0xBF800000) = .fin true (2 ^ 23) (-23) false := by cases ftz <;> decide
theorem val_f32_qnan (ftz : Bool) : Fmt.f32.val (flush .f32 ftz 0x7FC00000) = .nan false := by cases ftz <;> decide
theorem val_f32_qnan' (ftz : Bool) : Fmt.f32.val (flush .f32 ftz 0x7FC00001) = .nan false := by cases ftz <;> decide
theorem val_f32_snan (ftz : Bool) : Fmt.f32.val (flush .f32 ftz 0x7F800001) = .nan true := by cases ftz <;> decide

end Sys2Proof

namespace Sys2Proof.Machine

theorem floatSpecialCases : Claims.FloatSpecialCases := by
  intro mode sat ftz r b c
  refine ⟨?_, ?_, ?_, ?_, ?_, ?_, ?_, ?_, ?_, ?_, ?_, ?_, ?_, ?_, ?_, ?_, ?_⟩
  · exact fltLane_f32 (.inf false) .dz (val_f32_zero ftz) rfl rfl rfl (roundTo_f32_inf ..) (by decide) (by decide)
  · exact fltLane_f32 (.inf true) .dz (val_f32_negZero ftz) rfl rfl rfl (roundTo_f32_inf ..) (by decide) (by decide)
  · exact fltLane_f32 (.fin false 0 0 false) 0#5 (val_f32_inf ftz) rfl rfl rfl (roundTo_f32_zero ..) (by decide) (by decide)
  · exact fltLane_f32 (.nan false) .nv (val_f32_negOne ftz) rfl rfl rfl (roundTo_f32_nan ..) (by decide) (by decide)
  · exact fltLane_f32 (.fin true 0 (-149) false) 0#5 (val_f32_negZero ftz) rfl rfl rfl (roundTo_f32_zero ..) (by decide) (by decide)
  · exact fltLane_f32 (.nan false) .nv (val_f32_negOne ftz) rfl rfl rfl (roundTo_f32_nan ..) (by decide) (by decide)
  · exact fltLane_f32 (.fin false 0 0 false) 0#5 (val_f32_negInf ftz) rfl rfl rfl (roundTo_f32_zero ..) (by decide) (by decide)
  · exact fltLane_f32 (.fin false 1 0 false) 0#5 (val_f32_zero ftz) rfl rfl rfl (roundTo_f32_one ..) (by decide) (by decide)
  · exact fltLane_f32 (.inf true) .dz (val_f32_zero ftz) rfl rfl rfl (roundTo_f32_inf ..) (by decide) (by decide)
  · exact fltLane_f32 (.fin false 0 0 false) 0#5 (val_f32_one ftz) rfl rfl rfl (roundTo_f32_zero ..) (by decide) (by decide)
  · exact fltLane_f32 (.fin true 1 0 false) 0#5 (val_f32_negInf ftz) rfl rfl rfl (roundTo_f32_one ..) (by decide) (by decide)
  · exact fltLane_f32 (.nan false) .nv (val_f32_inf ftz) (val_f32_negInf ftz) rfl rfl (roundTo_f32_nan ..) (by decide) (by decide)
  · exact fltLane_f32 (.nan false) .nv (val_f32_zero ftz) (val_f32_inf ftz) rfl rfl (roundTo_f32_nan ..) (by decide) (by decide)
  · exact fltLane_f32 (.nan false) .nv (val_f32_zero ftz) (val_f32_inf ftz) (val_f32_qnan ftz) rfl (roundTo_f32_nan ..) (by decide) (by decide)
  · exact fltLane_f32 (.nan false) 0#5 (val_f32_qnan' ftz) (val_f32_one ftz) rfl rfl (roundTo_f32_nan ..) (by decide) (by decide)
  · exact fltLane_f32 (.nan true) 0#5 (val_f32_snan ftz) (val_f32_one ftz) rfl rfl (roundTo_f32_nan ..) (by decide) (by decide)
  · have hneg : (if mode == .rdn then 0x80000000 else 0 : Nat) = if mode = .rdn then 0x80000000 else 0 := by cases mode <;> rfl
    rw [← hneg]
    exact fltLane_f32 (.fin (mode == .rdn) 0 (-23) false) 0#5 (val_f32_one ftz) (val_f32_one ftz) rfl rfl (roundTo_f32_zero ..) (by cases mode <;> decide) (by decide)

end Sys2Proof.Machine

/-! ### The one-byte formats round their own codes to themselves (spec/06 R86, R88, R91, R93) -/

namespace Sys2Proof

/-! #### Codes of a format without special codes -/

section
variable {f : FmtP} {c : Nat}

/-- A code below the first normal one, and one above it. -/
theorem FmtP.mag_sub (h : c < 2 ^ (f.p - 1)) : f.mag c = (c, f.qmin) := by
  have hE : c / 2 ^ (f.p - 1) = 0 := Nat.div_eq_of_lt h
  unfold FmtP.mag
  simp only [hE, if_true, Nat.mod_eq_of_lt h]
  split
  · next hp =>
    rw [hp] at h
    simp at h
    rw [h]
  · rfl

theorem FmtP.mag_normal (h : 2 ^ (f.p - 1) ≤ c) :
    f.mag c = (2 ^ (f.p - 1) + c % 2 ^ (f.p - 1), f.qmin + (c / 2 ^ (f.p - 1) - 1 : Nat)) := by
  have hE : c / 2 ^ (f.p - 1) ≠ 0 := Nat.div_ne_zero_iff.mpr ⟨by positivity, h⟩
  unfold FmtP.mag
  simp only [hE, if_false]

/-- Only the code 0 has the magnitude 0. -/
theorem FmtP.mag_eq_zero (h : (f.mag c).1 = 0) : c = 0 := by
  by_cases hs : c < 2 ^ (f.p - 1)
  · rwa [FmtP.mag_sub hs] at h
  · rw [FmtP.mag_normal (not_lt.mp hs)] at h
    have : 0 < 2 ^ (f.p - 1) := by positivity
    omega

theorem log2_normal {p t : Nat} (h : t < 2 ^ p) : Nat.log2 (2 ^ p + t) = p := by
  have hne : 2 ^ p + t ≠ 0 := by positivity
  have h1 : p ≤ Nat.log2 (2 ^ p + t) := (Nat.le_log2 hne).mpr (Nat.le_add_right ..)
  have h2 : Nat.log2 (2 ^ p + t) < p + 1 := (Nat.log2_lt hne).mpr (by rw [Nat.pow_succ]; omega)
  omega

/-- A code's magnitude is whole in its own quantum. -/
theorem FmtP.quantum_mag (h : (f.mag c).1 ≠ 0) : f.quantum (f.mag c).1 (f.mag c).2 = (f.mag c).2 := by
  by_cases hs : c < 2 ^ (f.p - 1)
  · rw [FmtP.mag_sub hs] at h ⊢
    have hlog : Nat.log2 c < f.p - 1 := (Nat.log2_lt h).mpr hs
    unfold FmtP.quantum floorLog2
    dsimp only
    omega
  · rw [FmtP.mag_normal (not_lt.mp hs)]
    unfold FmtP.quantum floorLog2
    dsimp only
    rw [log2_normal (Nat.mod_lt _ (by positivity))]
    omega

/-- The code of a code's magnitude. -/
theorem FmtP.codeOf_mag (hp : 0 < f.p) : f.codeOf (f.mag c).1 (f.mag c).2 = c := by
  have hpos : 0 < 2 ^ (f.p - 1) := by positivity
  have hdouble : 2 ^ f.p = 2 * 2 ^ (f.p - 1) := by rw [← Nat.pow_succ']; congr 1; omega
  by_cases hs : c < 2 ^ (f.p - 1)
  · rw [FmtP.mag_sub hs]
    have hne : c ≠ 2 ^ f.p := by omega
    simp only [FmtP.codeOf, hne, if_false, hs, decide_true, Bool.true_or, if_true]
  · have hle := not_lt.mp hs
    rw [FmtP.mag_normal hle]
    have hmod : c % 2 ^ (f.p - 1) < 2 ^ (f.p - 1) := Nat.mod_lt _ hpos
    have hne : 2 ^ (f.p - 1) + c % 2 ^ (f.p - 1) ≠ 2 ^ f.p := by omega
    have hlow : (decide (2 ^ (f.p - 1) + c % 2 ^ (f.p - 1) < 2 ^ (f.p - 1)) || decide (2 ^ (f.p - 1) + c % 2 ^ (f.p - 1) = 0)) = false := by
      simp
    have hE : 1 ≤ c / 2 ^ (f.p - 1) := (Nat.one_le_div_iff hpos).mpr hle
    have hexp : (f.qmin + (c / 2 ^ (f.p - 1) - 1 : Nat) - f.qmin + 1).toNat = c / 2 ^ (f.p - 1) := by omega
    simp only [FmtP.codeOf, hne, if_false, hlow, Bool.false_eq_true, hexp]
    rw [Nat.add_sub_cancel_left, Nat.mul_comm]
    exact Nat.div_add_mod ..

theorem magLt_eq_false_of_le {m1 m2 : Nat} {e1 e2 : Int} (he : e2 ≤ e1) (hm : m2 ≤ m1 * 2 ^ (e1 - e2).toNat) : magLt m1 e1 m2 e2 = false := by
  unfold magLt
  split
  · next h =>
    obtain rfl : e1 = e2 := le_antisymm h he
    simpa using hm
  · simpa using hm

/-- Codes are in the order of their magnitudes. -/
theorem FmtP.not_magLt_mag {mx : Nat} (h : c ≤ mx) : magLt (f.mag mx).1 (f.mag mx).2 (f.mag c).1 (f.mag c).2 = false := by
  have hpos : 0 < 2 ^ (f.p - 1) := by positivity
  have hone (n : Nat) (m : Nat) : m ≤ m * 2 ^ n := Nat.le_mul_of_pos_right m (by positivity)
  by_cases hmx : mx < 2 ^ (f.p - 1)
  · rw [FmtP.mag_sub hmx, FmtP.mag_sub (h.trans_lt hmx)]
    exact magLt_eq_false_of_le le_rfl (h.trans (hone _ _))
  · rw [FmtP.mag_normal (not_lt.mp hmx)]
    by_cases hc : c < 2 ^ (f.p - 1)
    · rw [FmtP.mag_sub hc]
      exact magLt_eq_false_of_le (by dsimp only; omega) ((by omega : c ≤ _).trans (hone _ _))
    · rw [FmtP.mag_normal (not_lt.mp hc)]
      have hdiv : c / 2 ^ (f.p - 1) ≤ mx / 2 ^ (f.p - 1) := Nat.div_le_div_right h
      have hc1 : 1 ≤ c / 2 ^ (f.p - 1) := (Nat.one_le_div_iff hpos).mpr (not_lt.mp hc)
      refine magLt_eq_false_of_le (by dsimp only; omega) ?_
      dsimp only
      rcases hdiv.eq_or_lt with heq | hlt
      · have hmc := Nat.div_add_mod c (2 ^ (f.p - 1))
        have hmm := Nat.div_add_mod mx (2 ^ (f.p - 1))
        rw [← heq] at hmm
        exact (by omega : _ ≤ 2 ^ (f.p - 1) + mx % 2 ^ (f.p - 1)).trans (hone _ _)
      · have htwo : 2 ≤ 2 ^ (f.qmin + (mx / 2 ^ (f.p - 1) - 1 : Nat) - (f.qmin + (c / 2 ^ (f.p - 1) - 1 : Nat))).toNat :=
          Nat.le_self_pow (by omega) 2
        have hmod : c % 2 ^ (f.p - 1) < 2 ^ (f.p - 1) := Nat.mod_lt _ hpos
        exact (by omega : _ ≤ (2 ^ (f.p - 1) + mx % 2 ^ (f.p - 1)) * 2).trans (Nat.mul_le_mul_left _ htwo)

/-- A code that is not above the largest one is what its value rounds to. -/
theorem roundTo_mag {fm : Fmt} {neg : Bool} {mg : Nat} (hp : 0 < (Fmt.par fm).p) (hmax : mg ≤ (Fmt.par fm).maxCode)
    (hsign : ((Fmt.par fm).signBit.isNone && neg) = false) (hzero : mg = 0 → neg = true → (Fmt.par fm).negZero = true)
    (mode : RMode) (sat : Bool) (r : Nat) :
    roundTo (.fin neg ((Fmt.par fm).mag mg).1 ((Fmt.par fm).mag mg).2 false) fm mode sat r = ((Fmt.par fm).signed neg mg, 0#5) := by
  by_cases h0 : ((Fmt.par fm).mag mg).1 = 0
  · have hmg := FmtP.mag_eq_zero h0
    subst hmg
    have hsz : (if (Fmt.par fm).negZero then (Fmt.par fm).signed neg 0 else 0) = (Fmt.par fm).signed neg 0 := by
      cases neg with
      | true => rw [if_pos (hzero rfl rfl)]
      | false =>
        have : (Fmt.par fm).signed false 0 = 0 := by
          unfold FmtP.signed
          cases (Fmt.par fm).signBit <;> rfl
        rw [this, ite_self]
    simp only [roundTo, h0, decide_true, Bool.not_false, Bool.and_true, if_true, hsz]
  · rw [roundTo_exact h0 (FmtP.quantum_mag h0) le_rfl (n := ((Fmt.par fm).mag mg).1) ?_ h0 hsign (FmtP.not_magLt_mag hmax),
      FmtP.codeOf_mag hp]
    simp [shiftE]

end

end Sys2Proof

namespace Sys2Proof.Machine

/-! #### The one-byte formats -/

theorem mem_oneByteFormats {fm : Fmt} (h : fm ∈ oneByteFormats) : fm = .e4m3 ∨ fm = .e5m2 ∨ ∃ u x p, fm = .b8 u x p := by
  rcases List.mem_append.mp h with h | h
  · simp only [List.mem_cons, List.not_mem_nil, or_false] at h
    exact h.imp_right .inl
  · obtain ⟨u, -, h⟩ := List.mem_flatMap.mp h
    obtain ⟨x, -, h⟩ := List.mem_flatMap.mp h
    obtain ⟨p, -, rfl⟩ := List.mem_map.mp h
    exact .inr (.inr ⟨u, x, _, rfl⟩)

/-- A code c stands in its format for the magnitude code mg with a sign. -/
structure CodeOf (fm : Fmt) (c : Nat) (neg : Bool) (mg : Nat) : Prop where
  le_max : mg ≤ (Fmt.par fm).maxCode
  signBit : ((Fmt.par fm).signBit.isNone && neg) = false
  zero : mg = 0 → neg = true → (Fmt.par fm).negZero = true
  signed : (Fmt.par fm).signed neg mg = c

/-- The value of a code of the binary8 family by its parts: the NaN code, the sign, and the magnitude. -/
theorem val_b8 (u x : Bool) (p : Fin 7) {c : Nat} (hc : c < 256) :
    (Fmt.b8 u x p).val c =
      if c = (Fmt.par (.b8 u x p)).nan then .nan false
      else if (Fmt.par (.b8 u x p)).inf = some (if !u && decide (128 ≤ c) then c - 128 else c) then .inf (!u && decide (128 ≤ c))
      else .fin (!u && decide (128 ≤ c))
        ((Fmt.par (.b8 u x p)).mag (if !u && decide (128 ≤ c) then c - 128 else c)).1
        ((Fmt.par (.b8 u x p)).mag (if !u && decide (128 ≤ c) then c - 128 else c)).2 false := by
  have hmod : c % 256 = c := Nat.mod_eq_of_lt hc
  simp only [Fmt.val, hmod]

/-- A code of the binary8 family that is neither the NaN nor an infinity is its magnitude with its sign. -/
theorem codeOf_b8 (u x : Bool) (p : Fin 7) {c : Nat} (hc : c < 256) (hnan : c ≠ (Fmt.par (.b8 u x p)).nan)
    (hinf : (Fmt.par (.b8 u x p)).inf ≠ some (if !u && decide (128 ≤ c) then c - 128 else c)) :
    CodeOf (.b8 u x p) c (!u && decide (128 ≤ c)) (if !u && decide (128 ≤ c) then c - 128 else c) := by
  cases u with
  | true => cases x <;> simp [Fmt.par] at hnan hinf ⊢ <;> constructor <;> simp [Fmt.par, FmtP.signed] <;> omega
  | false =>
    by_cases h : 128 ≤ c
    · cases x <;> simp [Fmt.par, h] at hnan hinf ⊢ <;> constructor <;> simp [Fmt.par, FmtP.signed] <;> omega
    · cases x <;> simp [Fmt.par, h] at hnan hinf ⊢ <;> constructor <;> simp [Fmt.par, FmtP.signed] <;> omega

/-- The value of a one-byte code: a quiet NaN, an infinity, or the magnitude of the code without its sign. -/
theorem val_oneByte {fm : Fmt} (h : fm ∈ oneByteFormats) {c : Nat} (hc : c < 256) :
    fm.val c = .nan false ∨ (∃ neg, fm.val c = .inf neg) ∨
      ∃ neg mg, fm.val c = .fin neg ((Fmt.par fm).mag mg).1 ((Fmt.par fm).mag mg).2 false ∧ CodeOf fm c neg mg := by
  have hmod : c % 256 = c := Nat.mod_eq_of_lt hc
  rcases mem_oneByteFormats h with rfl | rfl | ⟨u, x, p, rfl⟩
  · simp only [Fmt.val, hmod]
    split
    · exact .inl rfl
    · refine .inr (.inr ⟨_, c % 128, rfl, ?_, rfl, fun _ _ => rfl, ?_⟩)
      · show c % 128 ≤ 0x7E
        omega
      · show (if decide (128 ≤ c) = true then c % 128 + 2 ^ 7 else c % 128) = c
        simp only [decide_eq_true_eq]
        split <;> omega
  · simp only [Fmt.val, hmod]
    split
    · exact .inr (.inl ⟨_, rfl⟩)
    · split
      · exact .inl rfl
      · refine .inr (.inr ⟨_, c % 128, rfl, ?_, rfl, fun _ _ => rfl, ?_⟩)
        · show c % 128 ≤ 0x7B
          omega
        · show (if decide (128 ≤ c) = true then c % 128 + 2 ^ 7 else c % 128) = c
          simp only [decide_eq_true_eq]
          split <;> omega
  · rw [val_b8 u x p hc]
    split
    · exact .inl rfl
    · next hnan =>
      by_cases hinf : (Fmt.par (.b8 u x p)).inf = some (if !u && decide (128 ≤ c) then c - 128 else c)
      · exact .inr (.inl ⟨_, if_pos hinf⟩)
      · exact .inr (.inr ⟨_, _, if_neg hinf, codeOf_b8 u x p hc hnan hinf⟩)

theorem oneByteCodesRoundToThemselves : Claims.OneByteCodesRoundToThemselves := by
  intro fm hfm c hc mode sat r
  have hp : 0 < (Fmt.par fm).p := by
    rcases mem_oneByteFormats hfm with rfl | rfl | ⟨u, x, p, rfl⟩
    · decide
    · decide
    · exact Nat.succ_pos _
  rcases val_oneByte hfm hc with hval | ⟨neg, hval⟩ | ⟨neg, mg, hval, hle, hsign, hzero, hcode⟩ <;> rw [hval]
  · exact ⟨nofun, fun _ _ => rfl⟩
  · exact ⟨nofun, nofun⟩
  · exact ⟨fun _ _ _ _ _ => by rw [roundTo_mag hp hle hsign hzero, hcode], nofun⟩

theorem workedRoundings : Claims.WorkedRoundings := by
  unfold Claims.WorkedRoundings
  decide

/-- Settles O16: the worked roundings evaluate; a one-byte code is the magnitude of a grid code with its sign, which rounds to itself; the
special cases round infinities, zeros, ones and NaNs only. -/
theorem floatFormats : Obligations.FloatFormats := ⟨workedRoundings, oneByteCodesRoundToThemselves, floatSpecialCases⟩

end Sys2Proof.Machine

/-! ### What a load reads, and the landing of a result -/
namespace Sys2Proof.Machine

theorem Group.flight?_id {g : Group} {fl : Nat} {f : Flight} (h : g.flight? fl = some f) : f.id = fl := by
  simpa using List.find?_some h

theorem Group.entry?_id {g : Group} {e : Nat} {x : SbEntry} (h : g.entry? e = some x) : x.id = e := by
  simpa using List.find?_some h

section
variable {s : State} {k : GKey} {g : Group} {fl i : Nat} {f : Flight} {p : Part} {z : MSize} {d : Nat}

/-- READ of a part of a load that has no bytes, at its level. -/
theorem execRead_load (hg : s.group? k = some g) (hf : g.flight? fl = some f) (hk : f.kind = .load z d) (hp : f.parts[i]? = some p)
    (hb : p.bytes = none) (ha : g.acqBlocks f.own f.ord = false) :
    exec (.read k fl i) s = match p.space with
      | .global => .next (s.readGlobal k g f i p)
      | .lane | .scratch | .die | .pks =>
        if s.locReady k g f.own f.ord p.space [(p.addr, p.len)] then
          if s.spoiledAt p.space ((List.range p.len).map (locByte p.space p.addr)) then .next (s.loseLanes k fl (maskOf [p.lane]) p.va)
          else .next (s.setGroup k (g.setPart fl i (p.took (s.locRead p.space p.addr p.len))))
        else .next s := by
  show execRead k fl i s = _
  simp only [execRead, hg, hf, hp, hk, hb, ha]
  rfl

theorem execRead_global (hg : s.group? k = some g) (hf : g.flight? fl = some f) (hk : f.kind = .load z d) (hp : f.parts[i]? = some p)
    (hb : p.bytes = none) (ha : g.acqBlocks f.own f.ord = false) (hsp : p.space = .global) :
    exec (.read k fl i) s = .next (s.readGlobal k g f i p) := by
  rw [execRead_load hg hf hk hp hb ha, hsp]

theorem partBytes_forwarded {g : Group} {pa len : Nat} {bs : List Byte} (src : Nat → Byte) (hlen : bs.length = len)
    (h : ∀ j, j < len → g.forward (pa + j) = bs[j]?) : partBytes g pa len src = bs := by
  apply List.ext_getElem
  · simp [partBytes, hlen]
  · intro j hj hj'
    have hlt : j < len := hlen ▸ hj'
    simp [partBytes, h j hlt, List.getElem?_eq_getElem hj']

theorem readTakesBytes : Claims.ReadTakesBytes := by
  intro s k g fl i f p z d hg hf hk hp hb ha
  have hid := Group.flight?_id hf
  refine ⟨fun hsp hready hspoil => ?_, fun hsp hr href hmoved hstale => ?_⟩
  · rw [execRead_load hg hf hk hp hb ha, hready, hspoil]
    split
    · next h => exact absurd h hsp
    all_goals rfl
  · rw [hid] at hstale
    have hread : ∀ src, s.heldBytes k.die (lineOf p.addr) = some src → (∃ j, j < p.len ∧ g.forward (p.addr + j) = none) →
        s.readGlobal k g f i p = s.setGroup k (g.setPart fl i (p.took (partBytes g p.addr p.len (fun a => src.getD (a % 128) 0#8)))) := by
      rintro src hheld ⟨j, hj, hnone⟩
      have hall : (List.range p.len).all (fun j => (g.forward (p.addr + j)).isSome) = false :=
        List.all_eq_false.mpr ⟨j, List.mem_range.mpr hj, by simp [hnone]⟩
      simp only [State.readGlobal, hstale, hr, href, hmoved, hall, hid, hheld]
      rfl
    refine ⟨fun bs hlen hfwd => ?_, fun src hex hsrc => ?_⟩
    · rw [execRead_global hg hf hk hp hb ha hsp]
      have hall : (List.range p.len).all (fun j => (g.forward (p.addr + j)).isSome) = true := by
        refine List.all_eq_true.mpr fun j hj => ?_
        have hlt := List.mem_range.mp hj
        rw [hfwd j hlt, List.getElem?_eq_getElem (hlen.symm ▸ hlt)]
        rfl
      simp only [State.readGlobal, hid, hstale, hr, href, hmoved, hall, partBytes_forwarded _ hlen hfwd]
      rfl
    · rw [execRead_global hg hf hk hp hb ha hsp, hread src ?_ hex]
      · rfl
      · rcases hsrc with ⟨hpt, rfl⟩ | ⟨hpt, c, hc, hlive, rfl⟩
        · exact if_pos hpt
        · have hlive' : live (s.wall k.die.m) c.expiry = true := hlive
          simp only [State.heldBytes, if_neg hpt, hc, hlive']
          rfl

end

/-- A landed value or load is no launch: its landing prepares nothing. -/
theorem State.readyLaunch_value {s : State} {k : GKey} {g : Group} {fl : Nat} {f : Flight} (hg : s.group? k = some g)
    (hf : g.flight? fl = some f) (hk : f.kind = .value ∨ ∃ z d, f.kind = .load z d) : s.readyLaunch k fl = s := by
  rcases hk with hk | ⟨z, d, hk⟩ <;> simp only [State.readyLaunch, hg, hf, hk]

theorem resultsLand : Claims.ResultsLand := by
  intro s k g fl f ws hg hf hk hw
  have hid := Group.flight?_id hf
  have hready := State.readyLaunch_value hg hf hk
  refine ⟨fun hacq hey => ?_, fun hey => ?_⟩
  · show execResultLand k fl s = _
    simp only [execResultLand, hready, hg, hf, hw, hacq, hey]
    rfl
  · have hwait : (f.acq && (s.core k.core).eyeletIn k.g f.mask) = false := by
      cases h : f.acq with
      | false => rfl
      | true => exact hey h
    have hbad : f.badLanes = 0 := by rcases hk with hk | ⟨z, d, hk⟩ <;> simp only [Flight.badLanes, hk]
    have hphase : ∀ t : State, t.notePhase g f ws = t := fun t => by
      rcases hk with hk | ⟨z, d, hk⟩ <;> simp only [State.notePhase, hk]
    show execResultLand k fl s = _
    simp only [execResultLand, hready, hg, hf, hw, hwait, hbad, hphase, Flight.loaded, Group.land, hid]
    rcases hk with hk | ⟨z, d, hk⟩ <;> rw [hk] <;> rfl

/-- Settles O43: a part that is not held back takes the bytes of its level, of its group's stores, or of what its die holds; a result
whose time has come lands unless it is an acquire with an eyelet in flight. -/
theorem readsLand : Obligations.ReadsLand := ⟨readTakesBytes, resultsLand⟩

end Sys2Proof.Machine

/-! ### Copies of lines: fills, expiry, and the resolution of eyelets -/
namespace Sys2Proof.Machine

section
variable {s : State} {m l : Nat}

/-- The source of a fill on the home's own module. -/
theorem State.fillSource_home (hm : m = lineMod l) (hmoved : s.movedLine l = false) (hlost : s.homeLost (128 * l) = false)
    (hdir : (s.line l).dir = .uncached) : s.fillSource m l = some (s.lineBytes l, (s.line l).ver) := by
  simp only [State.fillSource, hmoved, hlost, Bool.or_self, if_pos hm, hdir]
  rfl

theorem State.readBlocked_of_red_none (h : (s.line l).red = none) : s.readBlocked m l = false := by
  simp [State.readBlocked, State.redClear, h]

theorem State.redFirst_of_red_none (h : (s.line l).red = none) : s.redFirst m l = s := by
  rw [State.redFirst, State.applyRed_none h, ite_self]

/-- Entering a lease changes leases only, and covers it at a home of its own module. -/
theorem State.enterLease_frame (s : State) (m l t : Nat) : (s.enterLease m l t).mem = s.mem ∧ (s.enterLease m l t).groups = s.groups ∧
    (s.enterLease m l t).cores = s.cores ∧ (s.enterLease m l t).copies = s.copies := by
  unfold State.enterLease
  split
  · exact ⟨rfl, rfl, rfl, rfl⟩
  · split
    · exact ⟨rfl, rfl, rfl, rfl⟩
    · exact ⟨rfl, rfl, rfl, rfl⟩

theorem State.enterLease_lease (s : State) (l t : Nat) : t ≤ ((s.enterLease (lineMod l) l t).line l).lease := by
  rw [State.enterLease, if_pos rfl, State.modLine, State.setLine_line_self]
  exact le_max_right _ _

/-- A copy that is installed: what the slice then holds, and what an install leaves. -/
theorem State.install_frame (s : State) (d : DieKey) (l lease : Nat) (src : List Byte × Word) :
    (s.install d l lease src).mem = s.mem ∧ (s.install d l lease src).groups = s.groups ∧ (s.install d l lease src).cores = s.cores := by
  obtain ⟨hmem, hgroups, hcores, -⟩ := State.enterLease_frame { s with
    copies := tset (match Config.victim s.freeCtr with
      | none => s.copies
      | some v => if v % 48 = l % 48 ∧ (s.line v).point ≠ .slice d then terase s.copies (d, v) else s.copies) (d, l)
        ⟨src.1, s.wall (if d.m = lineMod l then lineMod l else d.m) + lease, src.2⟩
    freeCtr := s.freeCtr + 1 } d.m l (s.wall (if d.m = lineMod l then lineMod l else d.m) + lease)
  exact ⟨hmem, hgroups, hcores⟩

theorem State.install_copy {d : DieKey} (hd : d.m = lineMod l) (lease : Nat) (src : List Byte × Word) :
    tget (s.install d l lease src).copies (d, l) = some ⟨src.1, s.wall d.m + lease, src.2⟩ := by
  have hwall : s.wall (if d.m = lineMod l then lineMod l else d.m) = s.wall d.m := by rw [if_pos hd, hd]
  unfold State.install
  dsimp only
  rw [(State.enterLease_frame _ _ _ _).2.2.2, hwall]
  exact tget_tset_self _ _ _

theorem State.install_lease {d : DieKey} (hd : d.m = lineMod l) (lease : Nat) (src : List Byte × Word) :
    s.wall d.m + lease ≤ ((s.install d l lease src).line l).lease := by
  have hwall : s.wall (if d.m = lineMod l then lineMod l else d.m) = s.wall d.m := by rw [if_pos hd, hd]
  unfold State.install
  dsimp only
  rw [hwall, hd]
  exact State.enterLease_lease _ _ _

end

/-- What a fill's installation leaves: the requests of its core for a pf are answered. -/
def State.pfDone (s : State) (k : CoreKey) (l : Nat) : State :=
  if (s.core k).pfs.isEmpty then s else s.modCore k (fun c => { c with pfs := c.pfs.filter (fun p => p.1 ≠ l) })

theorem State.pfDone_frame (s : State) (k : CoreKey) (l : Nat) : (s.pfDone k l).mem = s.mem ∧ (s.pfDone k l).groups = s.groups ∧
    (s.pfDone k l).copies = s.copies ∧ (s.pfDone k l).lines = s.lines := by
  unfold State.pfDone
  split
  · exact ⟨rfl, rfl, rfl, rfl⟩
  · exact ⟨rfl, rfl, rfl, rfl⟩

theorem fillInstallsCopy : Claims.FillInstallsCopy := by
  intro s k l lease hlease hm hred hdir hmay hdam hmoved hlost hcopy
  have hlive : (tget s.copies (k.die, l)).any (fun c => live (s.wall k.m) c.expiry) = false := by
    cases h : tget s.copies (k.die, l) with
    | none => rfl
    | some c => exact hcopy c h
  have hstep : exec (.fill k l) s = .next ((s.install k.die l lease (s.lineBytes l, (s.line l).ver)).pfDone k.core l) := by
    show execFill k l s = _
    simp only [execFill, hlease, hlive, State.readBlocked_of_red_none hred, hmay, hdam, State.redFirst_of_red_none hred,
      State.fillSource_home hm hmoved hlost hdir]
    rfl
  obtain ⟨hmem, hgroups, hcopies, hlines⟩ := State.pfDone_frame (s.install k.die l lease (s.lineBytes l, (s.line l).ver)) k.core l
  obtain ⟨hmem', hgroups', -⟩ := State.install_frame s k.die l lease (s.lineBytes l, (s.line l).ver)
  refine ⟨_, hstep, ?_, ?_, hmem.trans hmem', hgroups.trans hgroups'⟩
  · rw [hcopies]
    exact State.install_copy (d := k.die) hm lease _
  · rw [State.line, hlines]
    exact State.install_lease (d := k.die) hm lease _

theorem expiredCopies : Claims.ExpiredCopies := by
  intro s d l c hc
  refine ⟨fun h => ?_, fun h => ?_⟩
  · show execExpiredCopyDrop d l s = _
    simp only [execExpiredCopyDrop, hc, if_pos h]
  · show execExpiredCopyDrop d l s = _
    simp only [execExpiredCopyDrop, hc, if_neg (Nat.not_lt.mpr h)]

theorem eyeletsResolve : Claims.EyeletsResolve := by
  intro s k e y hy hm hlost href hmoved hred hdir
  have hframe := State.install_frame s k.die y.pa y.lease (s.lineBytes y.pa, (s.line y.pa).ver)
  have hstep : exec (.resolve k e) s = .next ((if !s.mayInstall k.die y.pa then s
        else if decide ((s.line y.pa).ver = y.ver) && (tget s.copies (k.die, y.pa)).isNone then s
        else if decide ((s.line y.pa).ver = y.ver) && (tget s.copies (k.die, y.pa)).any (fun c => c.ver != y.ver) then s
        else s.install k.die y.pa y.lease (s.lineBytes y.pa, (s.line y.pa).ver)).freeEyelet k y (decide ((s.line y.pa).ver ≠ y.ver))) := by
    show execResolve k e s = _
    simp only [execResolve, hy, hlost, href, hmoved, State.readBlocked_of_red_none hred, State.redFirst_of_red_none hred,
      State.fillSource_home hm hmoved hlost hdir, ne_eq, decide_not]
    rfl
  refine ⟨_, _, hstep, rfl, ?_⟩
  split
  · exact ⟨rfl, rfl, rfl⟩
  · split
    · exact ⟨rfl, rfl, rfl⟩
    · split
      · exact ⟨rfl, rfl, rfl⟩
      · exact hframe

/-- Settles O44: on the home's own module a fill and a resolved eyelet read the line itself; a copy is dropped by its expiry alone. -/
theorem copiesOfLines : Obligations.CopiesOfLines := ⟨fillInstallsCopy, expiredCopies, eyeletsResolve⟩

end Sys2Proof.Machine

/-! ### A drain sends the oldest entry of its sector -/
namespace Sys2Proof.Machine

theorem State.dropCopy_frame (s : State) (d : DieKey) (l : Nat) :
    s.dropCopy d l = { s with copies := if (s.line l).point = .slice d then s.copies else terase s.copies (d, l) } := by
  unfold State.dropCopy
  split <;> rfl

/-- What the sampling of a drain leaves: the tables that hold no entry, and the entries but for their counting. -/
theorem State.sampleDrain_spec {s : State} {k : GKey} {g : Group} (x : SbEntry) (hg : s.group? k = some g) :
    let t := s.sampleDrain k g x
    t.mem = s.mem ∧ t.copies = s.copies ∧ t.lines = s.lines ∧ t.reqs = s.reqs ∧ (x.note.counted = true → t.groups = s.groups) ∧
      (t.group? k).map (fun h => { h with sb := g.sb }) = some g := by
  intro t
  simp only [t]
  unfold State.sampleDrain
  split
  · exact ⟨rfl, rfl, rfl, rfl, fun _ => rfl, by rw [hg]; rfl⟩
  · next hc =>
    obtain ⟨u, hu⟩ : ∃ u, u = s.sampleOne k g x.sampled x.note.tag := ⟨_, rfl⟩
    have hnoted : AccessNoted s u := hu ▸ AccessNoted.sampleOne ..
    have hgroup : u.group? k = some g := by rw [State.group?, hnoted.groups]; exact hg
    rw [← hu, State.modGroup, hgroup]
    obtain ⟨_, _, _, _, _, _, _, rfl, -⟩ := hnoted
    refine ⟨rfl, rfl, rfl, rfl, fun h => absurd h hc, ?_⟩
    dsimp only
    rw [State.setGroup_group_self]
    rfl

/-- DRAIN of the oldest queued entry of its sector, with no acquire in its way. -/
theorem execDrain_eq {s : State} {k : GKey} {g : Group} {e : Nat} {x : SbEntry} (hg : s.group? k = some g) (hx : g.entry? e = some x)
    (hst : x.st = .queued) (hold : ∀ y ∈ g.sb.takeWhile (fun y => y.id ≠ e), y.sector ≠ x.sector)
    (hacq : g.acqBlocks x.own x.ord = false) :
    exec (.drain k e) s =
      let u := (s.dropCopy k.die (x.sector / 4)).sampleDrain k g x
      if u.localPoint k.die (x.sector / 4) then .next (u.setEntry k e (.sent none))
      else .next ((u.newReq k.m (lineMod (x.sector / 4)) (.entry k e)).2.setEntry k e
        (.sent (some (u.newReq k.m (lineMod (x.sector / 4)) (.entry k e)).1))) := by
  have holder : (g.sb.takeWhile (fun y => y.id ≠ e)).any (fun y => y.sector == x.sector) = false := by
    simpa [List.any_eq_false] using hold
  show execDrain k e s = _
  simp only [execDrain, hg, hx, hst, holder, hacq]
  rfl

theorem drainSendsEntry : Claims.DrainSendsEntry := by
  intro s k g e x hg hx hst hold hacq
  rw [execDrain_eq hg hx hst hold hacq]
  obtain ⟨u, hu⟩ : ∃ u, u = (s.dropCopy k.die (x.sector / 4)).sampleDrain k g x := ⟨_, rfl⟩
  rw [← hu]
  have hgd : (s.dropCopy k.die (x.sector / 4)).group? k = some g := by rw [State.dropCopy_frame]; exact hg
  obtain ⟨hmem, hcopies, hlines, hreqs, hgroups, hgroup⟩ := hu ▸ State.sampleDrain_spec x hgd
  rw [State.dropCopy_frame] at hmem hcopies hlines hreqs hgroups
  have hpoint : u.localPoint k.die (x.sector / 4) = s.localPoint k.die (x.sector / 4) := by
    simp only [State.localPoint, State.line, hlines]
  simp only [hpoint]
  by_cases h : s.localPoint k.die (x.sector / 4)
  · rw [if_pos h]
    exact ⟨u, _, rfl, hmem, hgroups, hgroup, hcopies, by rw [if_pos h]; exact ⟨rfl, hreqs⟩⟩
  · rw [if_neg h]
    refine ⟨_, _, rfl, hmem, hgroups, hgroup, hcopies, ?_⟩
    rw [if_neg h]
    exact ⟨_, rfl, _, List.mem_append_right _ (List.mem_singleton_self _), rfl, rfl, rfl, rfl⟩

end Sys2Proof.Machine

/-! ### The places of a context's records in memory do not change as lines are written -/
namespace Sys2Proof.Machine

theorem mem_of_tget {κ β : Type} [DecidableEq κ] {t : Table κ β} {k : κ} {v : β} (h : tget t k = some v) : (k, v) ∈ t := by
  induction t with
  | nil => cases h
  | cons e t ih =>
    rw [tget] at h
    split at h
    · next hk =>
      cases h
      exact hk ▸ List.mem_cons_self
    · exact List.mem_cons_of_mem _ (ih h)

theorem mem_tset {κ β : Type} [DecidableEq κ] {t : Table κ β} {k : κ} {v : β} {e : κ × β} (h : e ∈ tset t k v) : e = (k, v) ∨ e ∈ t := by
  induction t with
  | nil => exact .inl (List.mem_singleton.mp h)
  | cons a t ih =>
    rw [tset] at h
    split at h
    · exact (List.mem_cons.mp h).imp_right (List.mem_cons_of_mem _)
    · rcases List.mem_cons.mp h with rfl | h
      · exact .inr List.mem_cons_self
      · exact (ih h).imp_right (List.mem_cons_of_mem _)

/-- Every context of t has its records where a context of s has them. -/
def State.KeptPlaces (s t : State) : Prop := ∀ c ∈ t.ctxs, ∃ c' ∈ s.ctxs, c'.2.p = c.2.p

namespace State.KeptPlaces

variable {s t u : State}

theorem of_ctxs (h : t.ctxs = s.ctxs) : s.KeptPlaces t := fun c hc => ⟨c, h ▸ hc, rfl⟩

theorem refl (s : State) : s.KeptPlaces s := of_ctxs rfl

theorem trans (h : s.KeptPlaces t) (h' : t.KeptPlaces u) : s.KeptPlaces u := fun c hc => by
  obtain ⟨c', hc', hp⟩ := h' c hc
  obtain ⟨c'', hc'', hp'⟩ := h c' hc'
  exact ⟨c'', hc'', hp'.trans hp⟩

theorem foldl {α : Type} {f : State → α → State} (h : ∀ s a, State.KeptPlaces s (f s a)) (l : List α) (s : State) :
    s.KeptPlaces (l.foldl f s) :=
  foldl_rel State.KeptPlaces.refl (fun _ _ _ => State.KeptPlaces.trans) h l s

theorem modCtx (s : State) (k : CtxKey) {f : Context → Context} (hf : ∀ c, (f c).p = c.p) : s.KeptPlaces (s.modCtx k f) := by
  unfold State.modCtx
  split
  · next x hx =>
    intro c hc
    rcases mem_tset hc with rfl | hc
    · exact ⟨(k, x), mem_of_tget hx, (hf x).symm⟩
    · exact ⟨c, hc, rfl⟩
  · exact refl s

theorem logErr (s : State) (k : CtxKey) (r : ErrRec) : s.KeptPlaces (s.logErr k r) :=
  modCtx s k fun c => by split <;> rfl

theorem makeRunnable (s : State) (team : Nat) : s.KeptPlaces (s.makeRunnable team) := by
  unfold State.makeRunnable
  split
  · exact refl s
  · split
    · split
      · exact of_ctxs rfl
      · exact trans (of_ctxs rfl) (modCtx _ _ fun _ => rfl)
    all_goals exact refl s

theorem noteStop (s : State) (k : CtxKey) (n : Nat) (q : Queue) : s.KeptPlaces (s.noteStop k n q) := by
  unfold State.noteStop
  split
  · split
    · exact modCtx _ _ fun _ => rfl
    · exact trans (t := s.modQueue k n fun x => { x with stopped := !s.qValid q }) (modCtx _ _ fun _ => rfl) (logErr _ _ _)
  · exact refl s

theorem noteQueues (s : State) (l : Nat) : s.KeptPlaces (s.noteQueues l) := by
  unfold State.noteQueues
  refine foldl (fun s c => foldl (fun s q => ?_) _ _) _ _
  split
  · rw [State.noteQueue_eq]
    split
    · refine trans (noteStop _ _ _ _) (foldl (fun s e => ?_) _ _)
      split
      · exact makeRunnable _ _
      · exact refl s
    · exact noteStop _ _ _ _
  · exact refl s

theorem noteEntries (s : State) (l : Nat) : s.KeptPlaces (s.noteEntries l) := by
  unfold State.noteEntries
  extract_lets cached s1
  have h1 : s1.ctxs = s.ctxs := by
    simp only [s1]
    split <;> rfl
  split
  · intro c hc
    obtain ⟨c', hc', rfl⟩ := List.mem_map.mp hc
    exact ⟨c', h1 ▸ hc', rfl⟩
  · exact of_ctxs h1

theorem writeLine (s : State) (l : Nat) (mem : Memory) (w : Nat) : s.KeptPlaces (s.writeLine l mem w).1 := by
  rw [State.writeLine_eq]
  obtain ⟨ms, hnew⟩ := s.newBytes_frame l mem
  obtain ⟨⟨ls, ps, hclaim⟩, -⟩ := (s.newBytes l mem).claimLine_spec l w
  have hctxs : ((s.newBytes l mem).claimLine l w).1.ctxs = s.ctxs := by rw [hclaim, hnew]
  exact trans (of_ctxs hctxs) (trans (noteEntries _ _) (noteQueues _ _))

end State.KeptPlaces

end Sys2Proof.Machine

/-! ### A plain store is performed -/
namespace Sys2Proof.Machine

/-- A store to a line in which no debug block lies is not acted on. -/
theorem State.storeFields_eq {s : State} {l : Nat} (h : ∀ c ∈ s.ctxs, l < c.2.p.dbgBase / 128 ∨ c.2.p.dbgBase / 128 + 4 ≤ l)
    (cov : List Nat) (old new : Memory) : s.storeFields l cov old new = s := by
  have hnone : s.ctxs.find? (fun c => decide (c.2.p.dbgBase / 128 ≤ l) && decide (l < c.2.p.dbgBase / 128 + 4)) = none := by
    refine List.find?_eq_none.mpr fun c hc hin => ?_
    simp only [Bool.and_eq_true, decide_eq_true_eq] at hin
    have := h c hc
    omega
  simp only [State.storeFields, hnone]

/-- What a store to a line at its ordering point does. -/
structure State.Stored (s : State) (l : Nat) (new : Memory) (t : State) : Prop where
  groups : t.groups = s.groups
  pend : t.pend = s.pend
  reqs : t.reqs = s.reqs
  line : (s.line l).Written (t.line l)
  other : ∀ j, j ≠ l → t.line j = s.line j
  mem_plain : s.hasRegs l = false → t.mem = new
  mem_regs : (∀ c ∈ s.ctxs, l < c.2.p.dbgBase / 128 ∨ c.2.p.dbgBase / 128 + 4 ≤ l) → t.mem = s.keepRegs l new

theorem State.store_spec (s : State) (l : Nat) (new : Memory) (cov : List Nat) (w : Nat) : s.Stored l new (s.store l new cov w).1 := by
  unfold State.store
  split
  · next hregs =>
    have hplaces := State.KeptPlaces.writeLine s l (s.keepRegs l new) w
    obtain ⟨⟨_, _, _, _, _, _, _, hframe⟩, hline, hother, -⟩ := s.writeLine_spec l (s.keepRegs l new) w
    obtain ⟨u, hu⟩ : ∃ u, u = (s.writeLine l (s.keepRegs l new) w).1 := ⟨_, rfl⟩
    dsimp only
    rw [← hu] at hplaces hline hother hframe ⊢
    obtain ⟨⟨cs, xs, m, hdbg⟩, -⟩ := State.DbgStored.storeFields u l cov s.mem new
    refine ⟨by rw [hdbg, hframe], by rw [hdbg, hframe], by rw [hdbg, hframe], by rw [hdbg]; exact hline, fun j hj => ?_, fun h => ?_, fun h => ?_⟩
    · rw [hdbg]
      exact hother j hj
    · exact absurd hregs (by rw [h]; decide)
    · rw [State.storeFields_eq, hframe]
      intro c hc
      obtain ⟨c', hc', hp⟩ := hplaces c hc
      rw [← hp]
      exact h c' hc'
  · next hregs =>
    obtain ⟨⟨_, _, _, _, _, _, _, hframe⟩, hline, hother, -⟩ := s.writeLine_spec l new w
    refine ⟨by rw [hframe], by rw [hframe], by rw [hframe], hline, hother, fun _ => by rw [hframe], fun _ => ?_⟩
    rw [hframe, State.keepRegs, if_pos (by simpa using hregs)]

/-- The bytes that a register block keeps depend on the blocks, their fields and the bytes that memory has. -/
theorem State.keepRegs_congr {s t : State} {l : Nat} (hregs : t.hasRegs l = s.hasRegs l) (hmask : t.fieldMask = s.fieldMask)
    (hmem : t.mem = s.mem) (new : Memory) : t.keepRegs l new = s.keepRegs l new := by
  unfold State.keepRegs
  rw [hregs, hmask, hmem]

/-- A line of no lock, whose directory names no Exclusive proxy, is ordered at its home. -/
theorem Line.point_home {x : Line} (hlock : x.lock = none) (hdir : x.dir = .uncached) : x.point = .home := by
  simp only [Line.point, hlock, hdir]

section
variable {s : State} {m l : Nat}

theorem State.pinsHome_unlocked (hlock : (s.line l).lock = none) : s.pinsHome l = s.pinnedBy (lineMod l) l := by
  simp [State.pinsHome, hlock]

/-- A write whose line is at its home, with no lock, no pending reduction and no pin in the way. -/
theorem State.tryWrite_home {self : List (GKey × Nat)} {cov : List Nat} {f : Memory → Memory} {o : Origin}
    (hmoved : s.movedLine l = false) (hlost : s.homeLost (128 * l) = false) (hred : (s.line l).red = none) (hlock : (s.line l).lock = none)
    (hdir : (s.line l).dir = .uncached) (hpin : s.pinnedBy (lineMod l) l = false) (hx : s.xlatClear l self = true)
    (hroom : s.switchRoom l (f s.mem) = true) : s.tryWrite m l self cov f o = some (s.putWrite m l cov (f s.mem) o) := by
  have hopen : s.pointOpen m l = true := by
    simp only [State.pointOpen, hlost, Line.point_home hlock hdir, State.pinsHome_unlocked hlock, hpin]
    rfl
  have hclear : s.redClear l = true := by simp only [State.redClear, hred]
  simp only [State.tryWrite, hmoved, hopen, hclear, State.closeRed_none hred, hx, hroom]
  cases (s.line l).point == OPoint.home <;> rfl

/-- What a write that is performed leaves: the bytes, the line's record, and the record of the write. -/
structure State.Put (s : State) (l : Nat) (new : Memory) (o : Origin) (r : Nat × State) : Prop where
  groups : r.2.groups = s.groups
  ver : (r.2.line l).ver = (s.line l).ver + 1
  pend : ∃ p ∈ r.2.pend, p.id = r.1 ∧ p.line = l ∧ p.origin = o
  mem_plain : s.hasRegs l = false → r.2.mem = new
  mem_regs : (∀ c ∈ s.ctxs, l < c.2.p.dbgBase / 128 ∨ c.2.p.dbgBase / 128 + 4 ≤ l) → r.2.mem = s.keepRegs l new

theorem State.Stored.finish {new : Memory} {r : State × Nat × List Nat} (h : s.Stored l new r.1) (o : Origin) (w at_ : Nat) :
    s.Put l new o (r.1.finishWrite l r.2.1 r.2.2 o w at_) := by
  obtain ⟨hgroups, -, -, hline, -, hplain, hregs⟩ := h
  obtain ⟨hid, ⟨ls, rs, hframe⟩, hfin⟩ := r.1.finishWrite_spec l r.2.1 r.2.2 o w at_
  obtain ⟨ws, hw⟩ := hfin l
  refine ⟨?_, ?_, ?_, fun h => ?_, fun h => ?_⟩
  · rw [hframe]
    exact hgroups
  · rw [hw]
    exact hline.ver
  · rw [hframe]
    exact ⟨_, List.mem_append_right _ (List.mem_singleton_self _), hid.symm, rfl, rfl⟩
  · rw [hframe]
    exact hplain h
  · rw [hframe]
    exact hregs h

/-! Damage that has been overwritten bears on no register block. -/

theorem State.mend_hasRegs (s : State) (cov : List Nat) (l : Nat) : (s.mend cov).hasRegs l = s.hasRegs l := rfl
theorem State.mend_fieldMask (s : State) (cov : List Nat) : (s.mend cov).fieldMask = s.fieldMask := rfl
theorem State.mend_mem (s : State) (cov : List Nat) : (s.mend cov).mem = s.mem := rfl

/-- That damage has been overwritten changes nothing of a write. -/
theorem State.Put.of_mend {new : Memory} {o : Origin} {cov : List Nat} {r : Nat × State} (h : (s.mend cov).Put l new o r) : s.Put l new o r := by
  obtain ⟨hgroups, hver, hpend, hplain, hregs⟩ := h
  have hkeep : (s.mend cov).keepRegs l new = s.keepRegs l new :=
    State.keepRegs_congr (s.mend_hasRegs cov l) (s.mend_fieldMask cov) (s.mend_mem cov) new
  rw [hkeep] at hregs
  exact ⟨hgroups, hver, hpend, hplain, hregs⟩

theorem State.putWrite_spec (s : State) (m l : Nat) (cov : List Nat) (new : Memory) (o : Origin) :
    s.Put l new o (s.putWrite m l cov new o) :=
  State.Put.of_mend (((s.mend cov).store_spec l new cov m).finish o m ((s.line l).point.mod l))

end

/-- Counting changes contexts only. -/
theorem State.countFadd_frame (s : State) (k : CtxKey) (op n : Nat) : ∃ cs, s.countFadd k op n = { s with ctxs := cs } := by
  unfold State.countFadd
  split
  · exact s.count_frame ..
  · exact s.count_frame ..
  · exact ⟨s.ctxs, rfl⟩

theorem State.countOp_frame (s : State) (k : CtxKey) (op : SbOp) : ∃ cs, s.countOp k op = { s with ctxs := cs } := by
  unfold State.countOp State.countBytes
  split
  · exact s.count_frame ..
  · exact s.count_frame ..
  · next o z ws =>
    obtain ⟨_, h⟩ := s.count_frame k (idxBytes .group) (asizeBytes z * ws.length)
    obtain ⟨cs, h'⟩ := (s.count k (idxBytes .group) (asizeBytes z * ws.length)).countFadd_frame k o ws.length
    exact ⟨cs, by rw [h', h]⟩

/-- A change of entries that keeps their numbers is seen of the entry that is found. -/
theorem Group.entry?_map (g : Group) (e : Nat) {u : SbEntry → SbEntry} (hu : ∀ x, (u x).id = x.id) :
    ({ g with sb := g.sb.map u } : Group).entry? e = (g.entry? e).map u := by
  unfold Group.entry?
  dsimp only
  rw [List.find?_map]
  have hfun : ((fun y : SbEntry => y.id == e) ∘ u) = fun y => y.id == e := funext fun y => congrArg (· == e) (hu y)
  rw [hfun]

/-- An entry that is done: marked performed, and counted. -/
theorem State.entryDone_spec {s : State} {k : GKey} {g : Group} {e : Nat} {x : SbEntry} (w : Nat) (hg : s.group? k = some g)
    (hx : g.entry? e = some x) :
    (s.entryDone k e w).mem = s.mem ∧ (s.entryDone k e w).lines = s.lines ∧ (s.entryDone k e w).pend = s.pend ∧
      ((s.entryDone k e w).group? k).bind (fun g => g.entry? e) = some { x with st := .performed w } := by
  obtain ⟨cs, hc⟩ := s.countOp_frame g.key x.op
  have heq : s.entryDone k e w = ({ s with ctxs := cs } : State).setGroup k
      { g with sb := g.sb.map (fun y => if y.id = e then { y with st := .performed w } else y) } := by
    have hcount : ((s.group? k).bind (fun g => (g.entry? e).map (fun x => (g.key, x.op)))) = some (g.key, x.op) := by
      simp only [hg, Option.bind_some, hx, Option.map_some]
    have hg' : ({ s with ctxs := cs } : State).group? k = some g := hg
    simp only [State.entryDone, hcount, hc, State.setEntry, State.modGroup, hg']
  rw [heq]
  refine ⟨rfl, rfl, rfl, ?_⟩
  rw [State.setGroup_group_self, Option.bind_some, Group.entry?_map g e (fun y => by split <;> rfl), hx, Option.map_some,
    if_pos (Group.entry?_id hx)]

/-- A store over sound words writes its bytes. -/
theorem State.storeLoc_sound {s : State} {sp : Space} {bs : List (Nat × Byte)} (h : s.spoiledAt sp (bs.map (fun b => b.1)) = false) :
    s.storeLoc sp bs = s.setLocMem sp (bs.foldl (fun m b => mwrite m b.1 b.2) (s.locMem sp)) := by
  have hhit : s.spoiled.filter (fun w => w.1 == sp.held && bs.any (fun b => b.1 / 4 == w.2)) = [] := by
    rw [State.spoiledAt, List.any_eq_false] at h
    refine List.filter_eq_nil_iff.mpr fun w hw => ?_
    have hany : (bs.map (fun b => b.1)).any (fun a => a / 4 == w.2) = bs.any (fun b => b.1 / 4 == w.2) := List.any_map
    rw [← hany]
    exact h w hw
  simp only [State.storeLoc, hhit]
  rfl

theorem performStores : Claims.PerformStores := by
  refine ⟨fun s k g e x bs l hg hx hst hop hl hmoved hlost hred hlock hdir hpin hclear hroom => ?_, fun s k g e x hg hx hready => ⟨fun hheld => ?_, fun hheld hspoil => ?_⟩⟩
  · obtain ⟨r, hr⟩ : ∃ r, r = s.putWrite k.m l x.covers (mwriteAt s.mem (x.sector * 32) bs) (.entry k e) := ⟨_, rfl⟩
    have hid := Group.entry?_id hx
    have hstep : exec (.perform (.entry k e)) s = .next (r.2.entryDone k e r.1) := by
      have htry : s.tryWrite k.m l [(k, e)] x.covers (x.op.apply x.sector) (.entry k e) = some r := by
        rw [hr, hop]
        exact State.tryWrite_home hmoved hlost hred hlock hdir hpin hclear hroom
      show execPerform (.entry k e) s = _
      have hdam : s.redDamaged x = false := by simp only [State.redDamaged, hop]
      have hent : s.entryReady x.st = true := by rw [hst]; rfl
      simp only [execPerform, hg, Option.bind_some, hx, State.performEntry, hent, ← hl, hmoved, hdam, hid]
      rw [hop] at htry ⊢
      dsimp only
      rw [htry]
      rfl
    obtain ⟨hgroups, hver, hpend, hplain, hregs⟩ := hr ▸ s.putWrite_spec k.m l x.covers (mwriteAt s.mem (x.sector * 32) bs) (.entry k e)
    have hg' : r.2.group? k = some g := by rw [State.group?, hgroups]; exact hg
    obtain ⟨hmem, hlines, hpe, hent⟩ := State.entryDone_spec r.1 hg' hx
    refine ⟨_, r.1, hstep, ?_, ?_, ?_, ?_, ?_⟩
    · rw [hmem]; exact hplain
    · rw [hmem]; exact hregs
    · rw [State.line, hlines]; exact hver
    · rw [hent]; rfl
    · rw [hpe]
      obtain ⟨p, hp, hpid, hpl, -⟩ := hpend
      exact ⟨p, hp, hpid, hpl⟩
  · show execPerform (.loc k e) s = _
    simp only [execPerform, hg, hx, State.performLoc, hready, hheld]
    rfl
  · show execPerform (.loc k e) s = _
    simp only [execPerform, hg, hx, State.performLoc, hready, hheld, State.storeLoc_sound hspoil]
    rfl

end Sys2Proof.Machine

/-! ### Writes complete, and refused ones are sent again -/
namespace Sys2Proof.Machine

/-- Raising the cells of some lanes to a time. -/
theorem nget_foldl_max (t : Nat) (ls : List Nat) (m : NMap Nat) (j : Nat) :
    nget 0 (ls.foldl (fun m l => nset 0 m l (max (nget 0 m l) t)) m) j = if j ∈ ls then max (nget 0 m j) t else nget 0 m j := by
  induction ls generalizing m with
  | nil => simp
  | cons a ls ih =>
    rw [List.foldl_cons, ih, nget_nset]
    by_cases h : j = a
    · subst h
      simp
    · simp [h]

theorem Group.admitOne_frame (g : Group) (sl : Slot) : ∃ es a b, g.admitOne sl = { g with sb := g.sb ++ es, f0 := a, f1 := b } := by
  unfold Group.admitOne
  split
  · exact ⟨[], g.f0, g.f1, by rw [List.append_nil]⟩
  · next f hf =>
    obtain ⟨a, b, h⟩ := Group.setFrag_frame { g with sb := g.sb ++ f.entering.take (8 - g.sb.length) } sl
      (some { f with entering := f.entering.drop (8 - g.sb.length) })
    exact ⟨_, a, b, h⟩

/-- Entries that enter the buffer stand behind those in it; nothing else of the group changes. -/
theorem Group.fillSb_frame (g : Group) : ∃ es a b, g.fillSb = { g with sb := g.sb ++ es, f0 := a, f1 := b } := by
  obtain ⟨es, a, b, h⟩ := g.admitOne_frame .f0
  obtain ⟨es', a', b', h'⟩ := (g.admitOne .f0).admitOne_frame .f1
  exact ⟨es ++ es', a', b', by rw [Group.fillSb, h', h, List.append_assoc]⟩

theorem Group.fillSb_of_entering_nil {g : Group} (h : g.entering = []) : g.fillSb = g := by
  rw [Group.fillSb, Group.admitOne_nil (sl := .f0) fun _ => Group.entering_nil h, Group.admitOne_nil (sl := .f1) fun _ => Group.entering_nil h]

section
variable {s : State} {k : GKey} {g : Group}

theorem foldl_noteGwm_frame (ps : List PendWrite) (g : Group) : ∃ w, ps.foldl Group.noteGwm g = { g with gwm := w } :=
  foldl_rel (R := fun g h : Group => ∃ w, h = { g with gwm := w }) (fun g => ⟨g.gwm, rfl⟩)
    (fun _ _ _ ⟨_, h⟩ ⟨w, h'⟩ => ⟨w, by rw [h', h]⟩) (fun _ _ => ⟨_, rfl⟩) ps g

/-- The GWCTs of an atomic's lanes enter the group and the flags behind them; their records go. -/
theorem State.takeGwct_frame (fl : Nat) (mask : LaneMask) (hg : s.group? k = some g) :
    ∃ fs ps w c, s.takeGwct k fl mask = ({ s with flags := fs, pend := ps } : State).setGroup k { g with gwct := c, gwm := w } := by
  unfold State.takeGwct
  extract_lets mine done t lane who u
  obtain ⟨fs, hu⟩ : ∃ fs, u = { s with pend := s.pend.filter (fun p => !mine p), flags := fs } :=
    foldl_rel (R := fun s t : State => ∃ fs, t = { s with flags := fs }) (fun s => ⟨s.flags, rfl⟩)
      (fun _ _ _ ⟨_, h⟩ ⟨w, h'⟩ => ⟨w, by rw [h', h]⟩) (fun _ _ => ⟨_, rfl⟩) done _
  have hg' : u.group? k = some g := by rw [hu]; exact hg
  obtain ⟨w, hw⟩ := foldl_noteGwm_frame done { g with
    gwct := (lanesOf mask).foldl (fun m l => nset 0 m l (max (nget 0 m l) t)) g.gwct }
  refine ⟨fs, s.pend.filter (fun p => !mine p), w, (lanesOf mask).foldl (fun m l => nset 0 m l (max (nget 0 m l) t)) g.gwct, ?_⟩
  rw [State.modGroup, hg']
  dsimp only
  rw [hw, hu]

theorem Group.flight?_modFlight {fl : Nat} {f : Flight} (hf : g.flight? fl = some f) {u : Flight → Flight} (hu : (u f).id = f.id) :
    (g.modFlight fl u).flight? fl = some (u f) := by
  have hid := Group.flight?_id hf
  unfold Group.flight? Group.modFlight at *
  dsimp only
  generalize g.flights = fs at hf ⊢
  induction fs with
  | nil => cases hf
  | cons a fs ih =>
    rw [List.map_cons]
    by_cases h : a.id = fl
    · rw [List.find?_cons_of_pos (by simpa using h)] at hf
      cases hf
      rw [List.find?_cons_of_pos (by simp [hid, hu]), if_pos h]
    · rw [List.find?_cons_of_neg (by simpa using h)] at hf
      rw [List.find?_cons_of_neg (by simp [h])]
      exact ih hf

end

theorem atomsReply (s : State) (k : GKey) (g : Group) (fl op d : Nat) (z : ASize) (f : Flight) (hg : s.group? k = some g)
    (hf : g.flight? fl = some f) (hk : f.kind = .atom op z d false) (hc : f.complete = true) (hd : s.laneDone k fl = true) :
    ∃ t : State, exec (.atomReply k fl) s = .next t ∧ t.mem = s.mem ∧
      ((t.group? k).bind (fun g => g.flight? fl)).map (fun f => (f.kind, f.writes, f.ready)) =
        some (.atom 0 z d true, atomWrites z d f.act f.parts, true) := by
  obtain ⟨fs, ps, w, c, ht⟩ := State.takeGwct_frame fl f.mask hg
  obtain ⟨u, hu⟩ : ∃ u : State, u = { s with flags := fs, pend := ps } := ⟨_, rfl⟩
  rw [← hu] at ht
  obtain ⟨g', hg'⟩ : ∃ g' : Group, g' = { g with gwct := c, gwm := w } := ⟨_, rfl⟩
  rw [← hg'] at ht
  have hf' : g'.flight? fl = some f := by rw [hg']; exact hf
  have hstep : exec (.atomReply k fl) s = .next ((u.setGroup k g').setGroup k (g'.modFlight fl (fun f =>
      { f with kind := .atom 0 z d true, writes := atomWrites z d f.act f.parts, ready := true }))) := by
    show execAtomReply k fl s = _
    have hfk : (s.group? k).bind (fun g => g.flight? fl) = some f := by rw [hg]; exact hf
    simp only [execAtomReply, hfk, hk, hc, hd, ht, State.modGroup, State.setGroup_group_self]
    rfl
  refine ⟨_, hstep, by rw [hu]; rfl, ?_⟩
  rw [State.setGroup_group_self, Option.bind_some, Group.flight?_modFlight hf' rfl]
  rfl

/-- The group once an entry whose write has its commit time has left its buffer. -/
def Group.acked (g : Group) (e : Nat) (x : SbEntry) (p : PendWrite) : Group :=
  { g with sb := g.sb.filter (fun y => y.id ≠ e)
           gwct := (lanesOf x.mask).foldl (fun m l => nset 0 m l (max (nget 0 m l) p.t)) g.gwct }.noteGwm p

theorem storesAck (s : State) (k : GKey) (g : Group) (e w : Nat) (x : SbEntry) (p : PendWrite) (hg : s.group? k = some g)
    (hx : g.entry? e = some x) (hst : x.st = .performed w) (hp : s.pend.find? (fun p => p.id == w) = some p) (hwait : p.wait = [])
    (hreqs : ∀ r ∈ s.reqs, r.payload = .entry k e → r.closed = true) :
    ∃ (t : State) (g' : Group), exec (.storeAck k e) s = .next ((t.setGroup k g').tryEnd g.team) ∧ t.mem = s.mem ∧
      (∀ y ∈ g.sb, y.id ≠ e → y ∈ g'.sb) ∧ (g.entering = [] → g'.sb = g.sb.filter (fun y => y.id ≠ e)) ∧ g'.regs = g.regs ∧
      t.landings = s.landings ++ x.landing p.t p.at_ g.key g.team ∧
      (∀ l ∈ lanesOf x.mask, nget 0 g'.gwct l = max (nget 0 g.gwct l) p.t) ∧
      ∀ l, l ∉ lanesOf x.mask → nget 0 g'.gwct l = nget 0 g.gwct l := by
  have hopen : s.reqs.any (fun r => r.payload == .entry k e && !r.closed) = false := by
    refine List.any_eq_false.mpr fun r hr => ?_
    simp only [Bool.and_eq_true, beq_iff_eq, Bool.not_eq_true', not_and, Bool.not_eq_false]
    exact hreqs r hr
  have hstep : exec (.storeAck k e) s = .next (((({ s.writeInPlace g.team g.gidx 0 e [p] with
      pend := s.pend.filter (fun q => q.id ≠ w), landings := s.landings ++ x.landing p.t p.at_ g.key g.team } : State)).setGroup k
        (g.acked e x p).fillSb).tryEnd g.team) := by
    show execStoreAck k e s = _
    simp only [execStoreAck, hg, hx, hst, hp, hopen, hwait]
    rfl
  obtain ⟨es, a, b, hfill⟩ := (g.acked e x p).fillSb_frame
  have hgwct : ∀ l, nget 0 (g.acked e x p).fillSb.gwct l = if l ∈ lanesOf x.mask then max (nget 0 g.gwct l) p.t else nget 0 g.gwct l := by
    intro l
    rw [hfill]
    exact nget_foldl_max p.t (lanesOf x.mask) g.gwct l
  refine ⟨_, _, hstep, rfl, fun y hy hne => ?_, fun hent => ?_, ?_, rfl, fun l hl => ?_, fun l hl => ?_⟩
  · rw [hfill]
    exact List.mem_append_left _ (List.mem_filter.mpr ⟨hy, by simpa using hne⟩)
  · rw [Group.fillSb_of_entering_nil (g := g.acked e x p) hent]
    rfl
  · rw [hfill]
    rfl
  · rw [hgwct, if_pos hl]
  · rw [hgwct, if_neg hl]

theorem writeBacksComplete (s : State) (k : GKey) (g : Group) (i : Nat) (w : WriteBack) (hg : s.group? k = some g)
    (hw : g.wbs.find? (fun w => w.id == i) = some w) (hdir : ∀ m, (s.line w.line).dir ≠ .exclusive m) (hred : (s.line w.line).red = none)
    (hacq : g.acqBlocks w.own w.id = false) :
    ∃ t : State, exec (.writebackComplete k i) s = .next (t.tryEnd g.team) ∧ t.mem = s.mem ∧
      t.dev = mwriteN s.dev (w.line * 128) (s.lineBytes w.line) ∧ (t.line w.line).dirty = false ∧
      (t.group? k).map (fun g => g.wbs) = some (g.wbs.filter (fun x => x.id ≠ i)) := by
  have hclear : s.redClear w.line = true := by simp only [State.redClear, hred]
  obtain ⟨u, hu⟩ : ∃ u : State, u = ({ s with dev := mwriteN s.dev (w.line * 128) (s.lineBytes w.line) } : State).modLine w.line
      (fun x => { x with dirty := false, writers := [] }) := ⟨_, rfl⟩
  have hgu : u.group? k = some g := by rw [hu]; exact hg
  have hstep : exec (.writebackComplete k i) s =
      .next ((u.setGroup k { g with wbs := g.wbs.filter (fun x => x.id ≠ i) }).tryEnd g.team) := by
    show execWritebackComplete k i s = _
    simp only [execWritebackComplete, hg, hw, hclear, hacq, State.closeRed_none hred, ← hu, State.modGroup, hgu]
    cases h : (s.line w.line).dir with
    | exclusive m => exact absurd h (hdir m)
    | uncached => rfl
    | shared ms => rfl
  refine ⟨_, hstep, by rw [hu]; rfl, by rw [hu]; rfl, ?_, ?_⟩
  · rw [State.line, State.setGroup_lines, ← State.line, hu, State.modLine, State.setLine_line_self]
  · rw [State.setGroup_group_self]
    rfl

theorem completionsOfWrites : Claims.CompletionsOfWrites := ⟨atomsReply, storesAck, writeBacksComplete⟩

/-- A request that translates now, to a frame that has not moved, goes there. -/
theorem State.retry_ok {s : State} {r : Resend} {g : Group} {pa leaf : Nat} (gone lost : State) (hg : s.group? r.k = some g)
    (hx : s.xlat g.key r.va r.acc = .ok pa leaf) : s.retry r gone lost = if s.movedLine (lineOf pa)
      then .stop ((s.noteWalk r.k.core (s.walked g.key r.va)).movedStale r.k g.key r.id r.va r.acc)
      else .go pa leaf (s.noteWalk r.k.core (s.walked g.key r.va)) := by
  simp only [State.retry, hg, hx]

theorem refusedEntriesResend : Claims.RefusedEntriesResend := by
  rintro s k g e x pa leaf t hg hx hst hstale hxlat rfl
  have hretry := fun gone lost => State.retry_ok (s := s) (r := ⟨k, e, x.mask, x.mask, x.pc, x.va, .write, false⟩) gone lost hg hxlat
  have hcond : ¬ (x.st ≠ .moved ∨ s.staleWait k g.key e x.va = true) := by simp [hst, hstale]
  refine ⟨fun hm => ?_, fun hm => ?_⟩
  · show execMovedResend k e s = _
    simp only [execMovedResend, hg, hx, if_neg hcond, hretry, hm]
    rfl
  · show execMovedResend k e s = _
    simp only [execMovedResend, hg, hx, if_neg hcond, hretry, hm]
    rfl

/-- Settles O45: a drain changes no byte, a store that nothing holds back writes its own, and completions take their records; a refused
entry is translated again. -/
theorem writesPerform : Obligations.WritesPerform := ⟨drainSendsEntry, performStores, completionsOfWrites, refusedEntriesResend⟩

end Sys2Proof.Machine

/-! ### Atomics are performed at the home of their line -/
namespace Sys2Proof.Machine

theorem Part.getElem?_mapIdx_set {ps : List Part} {i : Nat} {p : Part} (q : Part) (h : ps[i]? = some p) :
    (ps.mapIdx (fun j (x : Part) => if j = i then q else x))[i]? = some q := by
  rw [List.getElem?_mapIdx, h, Option.map_some, if_pos rfl]

/-- Counting an atomic's bytes and its float operation changes contexts only. -/
theorem State.countLane_frame (s : State) (key : CtxKey) (op n : Nat) : ∃ cs, (s.countBytes key .group n).countFadd key op 1 = { s with ctxs := cs } := by
  obtain ⟨_, h⟩ := s.count_frame key (idxBytes .group) n
  obtain ⟨cs, h'⟩ := (s.countBytes key .group n).countFadd_frame key op 1
  exact ⟨cs, by rw [h', State.countBytes, h]⟩

section
variable {s : State} {k : GKey} {g : Group} {fl i : Nat} {f : Flight} {p : Part} {op d : Nat} {z : ASize}

/-- One lane is performed where its write may be. -/
theorem State.laneWrite_spec {new : Memory} (hg : s.group? k = some g) (hf : g.flight? fl = some f)
    (hdam : s.damagedAt p.addr (asizeBytes z) = false) (hred : (s.line (lineOf p.addr)).red = none)
    (hrec : s.hasRecords (lineOf p.addr) = false) (hregs : s.hasRegs (lineOf p.addr) = false)
    (htry : s.tryWrite k.m (lineOf p.addr) [] [] (fun m => mwriteN m p.addr (toBytes (asizeBytes z) (atomOp op z (mnat m p.addr (asizeBytes z))
      (p.val.toNat % 2 ^ (8 * asizeBytes z)) (p.cmp.toNat % 2 ^ (8 * asizeBytes z))))) (.lane k f.id i) =
        some (s.putWrite k.m (lineOf p.addr) [] new (.lane k f.id i))) :
    (s.laneWrite k f op z i p).mem = new ∧
      ((s.laneWrite k f op z i p).group? k).bind (fun g => g.flight? fl) =
        some { f with parts := f.parts.mapIdx (fun j (q : Part) => if j = i then p.took (mreadN s.mem p.addr (asizeBytes z)) else q) } ∧
      ((s.laneWrite k f op z i p).line (lineOf p.addr)).ver = (s.line (lineOf p.addr)).ver + 1 := by
  obtain rfl := Group.flight?_id hf
  obtain ⟨r, hr⟩ : ∃ r, r = s.putWrite k.m (lineOf p.addr) [] new (.lane k f.id i) := ⟨_, rfl⟩
  obtain ⟨hgroups, hver, -, hplain, -⟩ := hr ▸ s.putWrite_spec k.m (lineOf p.addr) [] new (.lane k f.id i)
  rw [← hr] at htry
  have hold : (s.closeRed (lineOf p.addr)).peekN p.addr (asizeBytes z) = mreadN s.mem p.addr (asizeBytes z) := by
    rw [State.closeRed_none hred, State.peekN, if_neg]
    rw [show p.addr / 128 = lineOf p.addr from rfl, hrec]
    decide
  have hgr : r.2.group? k = some g := by rw [State.group?, hgroups]; exact hg
  obtain ⟨cs, hc⟩ := r.2.countLane_frame (((r.2.group? k).map (·.key)).getD ⟨k.m, 0⟩) op (asizeBytes z)
  have hgc : ({ r.2 with ctxs := cs } : State).group? k = some g := hgr
  have heq : s.laneWrite k f op z i p = ({ r.2 with ctxs := cs } : State).setGroup k
      (g.setPart f.id i (p.took (mreadN s.mem p.addr (asizeBytes z)))) := by
    simp only [State.laneWrite, hdam, hold, htry, hc, State.modGroup, hgc]
    rfl
  rw [heq]
  refine ⟨hplain hregs, ?_, hver⟩
  rw [State.setGroup_group_self, Option.bind_some]
  exact Group.flight?_modFlight hf (u := fun f => { f with parts := f.parts.mapIdx (fun j (q : Part) =>
    if j = i then p.took (mreadN s.mem p.addr (asizeBytes z)) else q) }) rfl

end

theorem performAtomicLane : Claims.PerformAtomicLane := by
  intro s k g fl i op d z f p l n hg hf hk hp hb hearlier hacq href hreqs hstale hl hn hm hmoved hlost hred hlock hdir hpin hdam hclear hregs
    hrec m hmem hroom
  subst hl hn
  have hid := Group.flight?_id hf
  have hstep : exec (.perform (.lane k fl i)) s = .next ((s.dropCopy k.die (lineOf p.addr)).laneWrite k f op z i p) := by
    have hhead : (p.bytes.isSome || (f.parts.take i).any (fun q => q.bytes.isNone && q.addr / 32 == p.addr / 32) ||
        g.acqBlocks f.own f.ord) = false := by
      have hany : (f.parts.take i).any (fun q => q.bytes.isNone && q.addr / 32 == p.addr / 32) = false := by
        refine List.any_eq_false.mpr fun q hq => ?_
        simp only [Bool.and_eq_true, Option.isNone_iff_eq_none, beq_iff_eq, not_and]
        exact hearlier q hq
      rw [hb, hany, hacq]
      rfl
    have hreq : s.laneReq k f.id i = none := by
      refine List.find?_eq_none.mpr fun r hr => ?_
      rw [hid]
      simp only [Bool.and_eq_true, beq_iff_eq, not_and]
      exact fun h => absurd h (hreqs r hr)
    have hlocal : s.localPoint k.die (lineOf p.addr) = true := by
      have hm' : (lineMod (lineOf p.addr) == k.die.m) = true := beq_iff_eq.mpr hm.symm
      simp only [State.localPoint, hm', Bool.true_or]
    show execPerform (.lane k fl i) s = _
    simp only [execPerform, hg, hf, hk, hp, State.performLane, hhead, hreq, hstale, href, hmoved, hlocal]
    rfl
  obtain ⟨cs, hdrop⟩ : ∃ cs, s.dropCopy k.die (lineOf p.addr) = { s with copies := cs } := ⟨_, State.dropCopy_frame ..⟩
  obtain ⟨u, hu⟩ : ∃ u : State, u = { s with copies := cs } := ⟨_, rfl⟩
  rw [hstep, hdrop, ← hu]
  have humem : u.mem = s.mem := by rw [hu]
  have htry : u.tryWrite k.m (lineOf p.addr) [] [] (fun m => mwriteN m p.addr (toBytes (asizeBytes z) (atomOp op z (mnat m p.addr (asizeBytes z))
      (p.val.toNat % 2 ^ (8 * asizeBytes z)) (p.cmp.toNat % 2 ^ (8 * asizeBytes z))))) (.lane k f.id i) =
        some (u.putWrite k.m (lineOf p.addr) [] m (.lane k f.id i)) := by
    rw [hmem, ← humem]
    refine State.tryWrite_home ?_ ?_ ?_ ?_ ?_ ?_ ?_ ?_
    · rw [hu]; exact hmoved
    · rw [hu]; exact hlost
    · rw [hu]; exact hred
    · rw [hu]; exact hlock
    · rw [hu]; exact hdir
    · rw [hu]; exact hpin
    · rw [hu]; exact hclear
    · rw [humem, ← hmem, hu]; exact hroom
  have hspec := State.laneWrite_spec (s := u) (by rw [hu]; exact hg) hf (by rw [hu]; exact hdam) (by rw [hu]; exact hred)
    (by rw [hu]; exact hrec) (by rw [hu]; exact hregs) htry
  obtain ⟨hm', hf', hv⟩ := hspec
  refine ⟨_, _, rfl, hm', hf', ?_, hv.trans (by rw [hu]; rfl)⟩
  rw [humem]
  exact Part.getElem?_mapIdx_set _ hp

/-! #### The pending merged reduction -/

/-- The entry of a store buffer that a write's origin names. -/
def State.entryOf (s : State) (c : GKey × Nat) : Option SbEntry := (s.group? c.1).bind (fun g => g.entry? c.2)

/-- An entry is performed, with a record of its commit time. -/
def State.Recorded (s : State) (l : Nat) (c : GKey × Nat) : Prop :=
  ∃ w, (s.entryOf c).map (fun y => y.st) = some (.performed w) ∧ ∃ p ∈ s.pend, p.id = w ∧ p.line = l ∧ p.origin = .entry c.1 c.2

/-- An entry that is marked, and the others. -/
theorem State.entryOf_setEntry {s : State} (c c' : GKey × Nat) (st : SbSt) :
    (s.setEntry c'.1 c'.2 st).entryOf c = (s.entryOf c).map (fun x => if c = c' then { x with st := st } else x) := by
  obtain ⟨k, e⟩ := c
  obtain ⟨k', e'⟩ := c'
  unfold State.setEntry State.modGroup State.entryOf
  cases hg : s.group? k' with
  | none =>
    dsimp only
    by_cases hk : k = k'
    · subst hk
      rw [hg]
      rfl
    · have hne : ¬ (k, e) = (k', e') := fun h => hk (congrArg Prod.fst h)
      simp [hne]
  | some g =>
    dsimp only
    by_cases hk : k = k'
    · subst hk
      rw [State.setGroup_group_self, hg, Option.bind_some, Option.bind_some, Group.entry?_map g e (fun y => by split <;> rfl)]
      refine Option.map_congr fun x hx => ?_
      have hid := Group.entry?_id hx
      by_cases he : e = e'
      · subst he
        rw [if_pos hid, if_pos rfl]
      · rw [if_neg (fun h => he (hid.symm.trans h)), if_neg (fun h => he (congrArg Prod.snd h))]
    · have hne : ¬ (k, e) = (k', e') := fun h => hk (congrArg Prod.fst h)
      rw [State.setGroup_group_of_ne _ _ _ _ hk]
      simp [hne]

/-- What one contributor of a merged reduction is given: the record of its write, and its entry performed. -/
def State.contribute (l t : Nat) (wait : List Nat) (w : Nat) (s : State) (c : GKey × Nat) : State :=
  (s.finishWrite l t wait (.entry c.1 c.2) w (lineMod l)).2.entryDone c.1 c.2 (s.finishWrite l t wait (.entry c.1 c.2) w (lineMod l)).1

/-- What a contributor's share leaves. -/
structure State.Contributed (s : State) (l : Nat) (c' : GKey × Nat) (u : State) : Prop where
  mem : u.mem = s.mem
  line : ∀ j, ∃ ws, u.line j = { s.line j with writers := ws }
  entryOf : ∃ i, (∀ c, u.entryOf c = (s.entryOf c).map (fun x => if c = c' then { x with st := .performed i } else x)) ∧
    ∃ p, u.pend = s.pend ++ [p] ∧ p.id = i ∧ p.line = l ∧ p.origin = .entry c'.1 c'.2

theorem State.contribute_spec (s : State) (l t : Nat) (wait : List Nat) (w : Nat) (c : GKey × Nat) :
    s.Contributed l c (s.contribute l t wait w c) := by
  obtain ⟨hid, ⟨ls, rs, hframe⟩, hline⟩ := s.finishWrite_spec l t wait (.entry c.1 c.2) w (lineMod l)
  obtain ⟨u, hu⟩ : ∃ u, u = (s.finishWrite l t wait (.entry c.1 c.2) w (lineMod l)).2 := ⟨_, rfl⟩
  obtain ⟨v, hv, hdone⟩ : ∃ v : State, (∃ cs, v = { u with ctxs := cs }) ∧
      s.contribute l t wait w c = v.setEntry c.1 c.2 (.performed s.nextId) := by
    refine ⟨_, ?_, by rw [State.contribute, hid, State.entryDone]⟩
    split
    · exact hu ▸ State.countOp_frame ..
    · exact ⟨_, by rw [hu]⟩
  obtain ⟨cs, rfl⟩ := hv
  obtain ⟨gs, hset⟩ := State.modGroup_frame { u with ctxs := cs } c.1
    (fun g => { g with sb := g.sb.map (fun x => if x.id = c.2 then { x with st := .performed s.nextId } else x) })
  have hset' : ({ u with ctxs := cs } : State).setEntry c.1 c.2 (.performed s.nextId) = { { u with ctxs := cs } with groups := gs } := hset
  refine ⟨?_, fun j => ?_, s.nextId, fun c' => ?_, ⟨s.nextId, l, wait, t, .entry c.1 c.2, w, lineMod l⟩, ?_, rfl, rfl, rfl⟩
  · rw [hdone, hset', hu, hframe]
  · rw [hdone, hset', hu]
    exact hline j
  · rw [hdone, State.entryOf_setEntry]
    rw [hu, hframe]
    rfl
  · rw [hdone, hset', hu, hframe]

/-- Every contributor's entry that the store buffers hold ends performed. -/
theorem State.foldl_contribute (l t : Nat) (wait : List Nat) (w : Nat) (cs : List (GKey × Nat)) (s : State) :
    (cs.foldl (State.contribute l t wait w) s).mem = s.mem ∧
      (∀ j, ∃ ws, (cs.foldl (State.contribute l t wait w) s).line j = { s.line j with writers := ws }) ∧
      ∀ c, (s.entryOf c).isSome → (s.Recorded l c ∨ c ∈ cs) → (cs.foldl (State.contribute l t wait w) s).Recorded l c := by
  induction cs generalizing s with
  | nil => exact ⟨rfl, fun j => ⟨_, rfl⟩, fun c _ h => h.resolve_right List.not_mem_nil⟩
  | cons a cs ih =>
    obtain ⟨hmem, hline, i, hentry, p, hpend, hpid, hpl, hpo⟩ := s.contribute_spec l t wait w a
    obtain ⟨hmem', hline', hrec⟩ := ih (s.contribute l t wait w a)
    refine ⟨hmem'.trans hmem, fun j => ?_, fun c hc h => hrec c ?_ ?_⟩
    · obtain ⟨_, h⟩ := hline j
      obtain ⟨ws, h'⟩ := hline' j
      exact ⟨ws, by rw [List.foldl_cons, h', h]⟩
    · rw [hentry, Option.isSome_map]
      exact hc
    · by_cases hca : c = a
      · subst hca
        obtain ⟨x, hx⟩ := Option.isSome_iff_exists.mp hc
        exact .inl ⟨i, by rw [hentry, hx]; simp, p, by rw [hpend]; simp, hpid, hpl, hpo⟩
      · refine h.imp ?_ fun hin => (List.mem_cons.mp hin).resolve_left hca
        rintro ⟨w', hst, q, hq, hqs⟩
        exact ⟨w', by rw [hentry]; simpa [hca] using hst, q, by rw [hpend]; exact List.mem_append_left _ hq, hqs⟩

/-- A merged reduction is applied as one store, and each contributor takes its share. -/
theorem State.applyRed_some {s : State} {l : Nat} {r : RedEnt} (h : (s.line l).red = some r) : ∃ w t wait,
    s.applyRed l = r.from_.foldl (State.contribute l t wait w) ((s.setLine l { s.line l with red := none }).store l (r.apply s.mem) [] w).1 := by
  unfold State.applyRed
  obtain ⟨store', hs⟩ : ∃ f, f = State.store := ⟨_, rfl⟩
  rw [← hs]
  dsimp only
  rw [h]
  exact ⟨_, _, _, rfl⟩

theorem mergedReductions : Claims.MergedReductions := by
  refine ⟨fun s l r hpoint hred hclear hmoved hregs => ?_, fun s l hred => ?_⟩
  · have hstep : exec (.redEntryApply l) s = .next (s.applyRed l) := by
      show execRedEntryApply l s = _
      simp only [execRedEntryApply, hpoint, hclear, hmoved]
      rfl
    obtain ⟨w, t, wait, happ⟩ := State.applyRed_some hred
    have hstored := (s.setLine l { s.line l with red := none }).store_spec l (r.apply s.mem) [] w
    obtain ⟨u, hu⟩ : ∃ u, u = ((s.setLine l { s.line l with red := none }).store l (r.apply s.mem) [] w).1 := ⟨_, rfl⟩
    rw [← hu] at happ hstored
    obtain ⟨hgroups, -, -, hline, -, hplain, -⟩ := hstored
    obtain ⟨hmem, hlines, hrec⟩ := State.foldl_contribute l t wait w r.from_ u
    rw [← happ] at hmem hlines hrec
    obtain ⟨ws, hl⟩ := hlines l
    rw [State.setLine_line_self] at hline
    refine ⟨_, hstep, hmem.trans (hplain hregs), ?_, ?_, fun c hc g x hg hx => hrec c ?_ (.inr hc)⟩
    · rw [hl]
      exact hline.red
    · rw [hl]
      exact hline.ver
    · have hg' : u.group? c.1 = some g := by rw [State.group?, hgroups]; exact hg
      rw [State.entryOf, hg', Option.bind_some, hx]
      rfl
  · show execRedEntryApply l s = _
    unfold execRedEntryApply
    split
    · rw [State.applyRed_none hred]
    · rfl

/-- Settles O46: a lane's write at its home is a plain write, and a merged reduction is one store whose contributors are performed in turn. -/
theorem atomicsPerform : Obligations.AtomicsPerform := ⟨performAtomicLane, mergedReductions⟩

end Sys2Proof.Machine

/-! ### The directory of a line -/
namespace Sys2Proof.Machine

/-- A change of requests that keeps their numbers is seen of the request that is found. -/
theorem State.req?_setReq_self {s : State} {i : Nat} {f : Req → Req} (hf : ∀ q, (f q).id = q.id) :
    (s.setReq i f).req? i = (s.req? i).map f := by
  unfold State.req? State.setReq
  dsimp only
  rw [List.find?_map]
  have hfun : ((fun y : Req => y.id == i) ∘ fun r => if r.id = i then f r else r) = fun y => y.id == i := by
    funext y
    by_cases h : y.id = i <;> simp [h, hf]
  rw [hfun]
  refine Option.map_congr fun q hq => ?_
  rw [if_pos (by simpa using List.find?_some hq)]

section
variable {s : State} {m l : Nat}

/-- A proxy that misses on a line at its home, with nothing in the way. -/
theorem State.proxyMiss_home (hm : m ≠ lineMod l) (hp : tget s.proxies (m, l) = none) (hmoved : s.movedLine l = false)
    (hlock : (s.line l).lock = none) (hreach : s.reachable m (lineMod l) = true) (hlost : s.homeLost (128 * l) = false)
    (hdam : s.damagedAt (128 * l) 128 = false) (hred : (s.line l).red = none) (hdir : (s.line l).dir = .uncached)
    (hroom : s.proxyRoom m l = true) : s.proxyMiss m l = some
      (State.modLine { s with proxies := tset s.proxies (m, l) ⟨false, s.lineBytes l, (s.line l).ver, 0, false⟩ } l (fun x => x.share m)) := by
  have hclear : s.redClear l = true := by simp only [State.redClear, hred]
  have hne : (m == lineMod l) = false := beq_eq_false_iff_ne.mpr hm
  simp only [State.proxyMiss, hne, hp, hmoved, hlock, hreach, hlost, hdam, hroom, hdir, hclear, State.applyRed_none hred]
  rfl

/-- The fill request of a module for a line that the home may answer. -/
def State.fillReq? (s : State) (m l : Nat) : Option Req :=
  s.reqs.find? (fun r => (match r.payload with
    | .fill k l' => k.m == m && l' == l
    | .entry .. | .lane .. | .lock .. | .flag _ | .shuttle _ | .stream _ | .slReq .. | .contrib .. | .unlk _ | .engine _ => false) &&
    !r.closed && s.reqReady r.id)

/-- The proxy of a module misses, and its request is answered. -/
theorem execProxyReadMiss_some {r : Req} {u : State} (hreq : s.fillReq? m l = some r) (hmiss : s.proxyMiss m l = some u) :
    exec (.proxyReadMiss m l) s = .next (u.setReq r.id (fun q => { q with performed := true, reply := some .done, closed := true })) := by
  show execProxyReadMiss m l s = _
  unfold execProxyReadMiss
  split
  · next h =>
    have habs : some r = none := hreq.symm.trans h
    cases habs
  · next r' h =>
    obtain rfl : r = r' := Option.some.inj (hreq.symm.trans h)
    rw [hmiss]

theorem proxyReadsMiss {r : Req} (hfind : s.fillReq? m l = some r) (hm : m ≠ lineMod l) (hp : tget s.proxies (m, l) = none)
    (hmoved : s.movedLine l = false) (hlock : (s.line l).lock = none) (hreach : s.reachable m (lineMod l) = true)
    (hlost : s.homeLost (128 * l) = false) (hdam : s.damagedAt (128 * l) 128 = false) (hred : (s.line l).red = none)
    (hdir : (s.line l).dir = .uncached) (hroom : s.proxyRoom m l = true) : ∃ t : State, exec (.proxyReadMiss m l) s = .next t ∧
      tget t.proxies (m, l) = some ⟨false, s.lineBytes l, (s.line l).ver, 0, false⟩ ∧ (t.line l).dir = .shared [m] ∧
      t.mem = s.mem ∧ (t.req? r.id).map (fun q => (q.performed, q.reply, q.closed)) = some (true, some .done, true) := by
  obtain ⟨u, hu⟩ : ∃ u : State, u = State.modLine { s with
    proxies := tset s.proxies (m, l) ⟨false, s.lineBytes l, (s.line l).ver, 0, false⟩ } l (fun x => x.share m) := ⟨_, rfl⟩
  have hmiss := State.proxyMiss_home hm hp hmoved hlock hreach hlost hdam hred hdir hroom
  rw [← hu] at hmiss
  refine ⟨_, execProxyReadMiss_some hfind hmiss, ?_, ?_, ?_, ?_⟩
  · rw [hu]
    exact tget_tset_self _ _ _
  · have hline : u.line l = (s.line l).share m := by rw [hu, State.modLine, State.setLine_line_self]; rfl
    show (u.line l).dir = _
    rw [hline, Line.share, hdir]
  · rw [hu]
    rfl
  · have hq : ∃ q, u.req? r.id = some q := by
      have hmem : r ∈ u.reqs := by rw [hu]; exact List.mem_of_find?_eq_some hfind
      exact Option.isSome_iff_exists.mp (List.find?_isSome.mpr ⟨r, hmem, beq_self_eq_true _⟩)
    obtain ⟨q, hq⟩ := hq
    rw [State.req?_setReq_self (by intro q; rfl), hq]
    rfl

theorem invalidates {p : Proxy} (hp : tget s.proxies (m, l) = some p) (hexcl : p.excl = false)
    (hw : ∃ w ∈ s.pend, w.waitsFor m l = true) :
    exec (.invalidate m l) s = .next { s with proxies := tset s.proxies (m, l) { p with dropped := true } } := by
  have hany : s.pend.any (fun w => w.waitsFor m l) = true := List.any_eq_true.mpr hw
  show execInvalidate m l s = _
  simp only [execInvalidate, hp, hexcl, hany]
  rfl

/-- What an acknowledgement of an invalidation does: the writes that wait for it, the directory, and the writer that it gives the line. -/
def State.ackInvalidate (s : State) (m l e : Nat) : State :=
  let last := s.pend.filter (fun w => w.waitsFor m l && w.wait.all (fun x => x == m))
  let s := { s with pend := s.pend.map (fun (w : PendWrite) =>
      if w.waitsFor m l then { w with wait := w.wait.filter (fun x => x ≠ m), t := max w.t e } else w) }.forget l m
  let s := if last.isEmpty || !s.redClear l then s else s.closeRed l
  let s := last.foldl (fun s w => if s.exclOk l w.w then s.giveExcl l w.w else s) s
  s.replyDone.settlePend.modLine l (fun x => { x with lease := max x.lease e })

theorem execInvalidateAck_shared {p : Proxy} (hp : tget s.proxies (m, l) = some p) (hexcl : p.excl = false)
    (hw : ∃ w ∈ s.pend, w.waitsFor m l = true) : exec (.invalidateAck m l) s =
      if p.dropped && passed (s.wall m) p.lease && !s.pinnedBy m l then
        .next (State.ackInvalidate { s with proxies := terase s.proxies (m, l) } m l p.lease) else .next s := by
  have hany : s.pend.any (fun w => w.waitsFor m l) = true := List.any_eq_true.mpr hw
  show execInvalidateAck m l s = _
  simp only [execInvalidateAck, hp, hexcl, hany]
  rfl

theorem State.modLine_line (s : State) (l : Nat) (f : Line → Line) (j : Nat) :
    (s.modLine l f).line j = if j = l then f (s.line l) else s.line j := by
  unfold State.modLine
  split
  · next h => rw [h, State.setLine_line_self]
  · next h => rw [State.setLine_line_of_ne _ _ _ _ h]

theorem State.forget_frame (s : State) (l m : Nat) : ∃ ls, s.forget l m = { s with lines := ls } := by
  unfold State.forget
  split
  · exact ⟨s.lines, rfl⟩
  · exact ⟨_, rfl⟩

/-- The directory forgets sharers only. -/
theorem State.forget_red (s : State) (l m j : Nat) : ((s.forget l m).line j).red = (s.line j).red := by
  unfold State.forget
  split
  · rfl
  · dsimp only
    rw [State.modLine_line]
    split
    · next h =>
      rw [h]
      split <;> rfl
    · rfl

theorem foldl_rel_of_mem {α β : Type} {R : β → β → Prop} (hrefl : ∀ b, R b b) (htrans : ∀ a b c, R a b → R b c → R a c) {f : β → α → β}
    (l : List α) (h : ∀ b, ∀ a ∈ l, R b (f b a)) (b : β) : R b (l.foldl f b) := by
  induction l generalizing b with
  | nil => exact hrefl b
  | cons a l ih => exact htrans _ _ _ (h b a List.mem_cons_self) (ih (fun b a ha => h b a (List.mem_cons_of_mem _ ha)) _)

/-- The line goes to another module's proxy: of a third module nothing changes. -/
theorem State.giveExcl_frame (s : State) (l : Nat) {w : Nat} (h : w ≠ m) :
    ∃ ls ps, s.giveExcl l w = { s with lines := ls, proxies := ps } ∧ tget ps (m, l) = tget s.proxies (m, l) :=
  ⟨_, _, rfl, tget_tset_of_ne _ _ (fun he => h (congrArg Prod.fst he).symm)⟩

theorem State.replyDone_frame (s : State) : ∃ rs, s.replyDone = { s with reqs := rs } := by
  unfold State.replyDone
  refine foldl_rel (R := fun s t : State => ∃ rs, t = { s with reqs := rs }) (fun s => ⟨s.reqs, rfl⟩)
    (fun _ _ _ ⟨_, h⟩ ⟨rs, h'⟩ => ⟨rs, by rw [h', h]⟩) (fun s w => ?_) s.pend s
  split
  · split
    · exact s.replyTo_frame ..
    · exact ⟨s.reqs, rfl⟩
  · exact ⟨s.reqs, rfl⟩

theorem State.flagInPlace_pend (s : State) (i : Nat) (p : PendWrite) : (s.flagInPlace i p).pend = s.pend := by
  unfold State.flagInPlace
  split
  · rfl
  · next f _ =>
    dsimp only
    obtain ⟨gs, ts, h⟩ := (({ s with flags := s.flags.filter (fun x => x.id ≠ i) } : State).writeInPlace f.team f.gidx 2 i [p]).modMember_frame
      f.team f.gidx (fun g => g.noteGwm p)
    rw [h]
    obtain ⟨ts', h'⟩ := State.modTeam_frame ({ (({ s with flags := s.flags.filter (fun x => x.id ≠ i) } : State).writeInPlace
      f.team f.gidx 2 i [p]) with groups := gs, teams := ts }) f.team (fun t => { t with gwct := max t.gwct p.t })
    rw [h']
    rfl

/-- Settling takes records away only. -/
theorem State.mem_settlePend {s : State} {w : PendWrite} (h : w ∈ s.settlePend.pend) : w ∈ s.pend := by
  have hfold : ((s.pend.filter (fun p => p.wait.isEmpty)).foldl (fun s p => match p.origin with
      | .engine e => s.raiseHz e p.t
      | .flag i => s.flagInPlace i p
      | .entry .. | .lane .. | .host => s) s).pend = s.pend := by
    refine foldl_rel (R := fun s t : State => t.pend = s.pend) (fun _ => rfl) (fun _ _ _ h h' => h'.trans h) (fun s p => ?_) _ s
    split
    · cases ‹EngInst› <;> rfl
    · exact s.flagInPlace_pend ..
    all_goals rfl
  exact hfold ▸ List.mem_of_mem_filter h

/-- An acknowledgement with no merged reduction at the home and no writer of the module itself: the writes that waited for it do no longer. -/
theorem State.ackInvalidate_spec (e : Nat) (hred : (s.line l).red = none) (hw : ∀ w ∈ s.pend, w.waitsFor m l = true → w.w ≠ m) :
    tget (s.ackInvalidate m l e).proxies (m, l) = tget s.proxies (m, l) ∧ (s.ackInvalidate m l e).mem = s.mem ∧
      ∀ w ∈ (s.ackInvalidate m l e).pend, w.waitsFor m l = false := by
  unfold State.ackInvalidate
  extract_lets last u v x
  obtain ⟨ls, hu⟩ : ∃ ls, u = { s with lines := ls, pend := s.pend.map (fun (w : PendWrite) =>
      if w.waitsFor m l then { w with wait := w.wait.filter (fun x => x ≠ m), t := max w.t e } else w) } := by
    obtain ⟨ls, h⟩ := State.forget_frame { s with pend := s.pend.map (fun (w : PendWrite) =>
      if w.waitsFor m l then { w with wait := w.wait.filter (fun x => x ≠ m), t := max w.t e } else w) } l m
    exact ⟨ls, h⟩
  have hured : (u.line l).red = none := (State.forget_red _ l m l).trans hred
  have hv : v = u := by
    simp only [v]
    rw [State.closeRed_none hured, ite_self]
  obtain ⟨ls', ps, hx, hps⟩ : ∃ ls ps, x = { v with lines := ls, proxies := ps } ∧ tget ps (m, l) = tget v.proxies (m, l) := by
    refine foldl_rel_of_mem (R := fun s t : State => ∃ ls ps, t = { s with lines := ls, proxies := ps } ∧ tget ps (m, l) = tget s.proxies (m, l))
      (fun s => ⟨s.lines, s.proxies, rfl, rfl⟩) ?_ last (fun t w hlast => ?_) v
    · rintro _ _ _ ⟨_, _, rfl, h⟩ ⟨_, _, rfl, h'⟩
      exact ⟨_, _, rfl, h'.trans h⟩
    · obtain ⟨hmem, hwait⟩ := List.mem_filter.mp hlast
      split
      · exact t.giveExcl_frame l (hw w hmem (Bool.and_eq_true_iff.mp hwait).1)
      · exact ⟨t.lines, t.proxies, rfl, rfl⟩
  obtain ⟨rs, hreply⟩ := x.replyDone_frame
  obtain ⟨_, _, _, _, _, _, _, hsettle⟩ := State.Settled.settlePend x.replyDone
  refine ⟨?_, ?_, fun w hmem => ?_⟩
  · show tget x.replyDone.settlePend.proxies (m, l) = _
    rw [hsettle, hreply, hx]
    show tget ps (m, l) = _
    rw [hps, hv, hu]
  · show x.replyDone.settlePend.mem = _
    rw [hsettle, hreply, hx, hv, hu]
  · have hmem' : w ∈ x.replyDone.pend := State.mem_settlePend hmem
    rw [hreply, hx, hv, hu] at hmem'
    obtain ⟨w', -, rfl⟩ := List.mem_map.mp hmem'
    split
    · next h =>
      simp [PendWrite.waitsFor]
    · next h => simpa using h

theorem recalls {p : Proxy} (hp : tget s.proxies (m, l) = some p) (hexcl : p.excl = true) (hdir : (s.line l).dir = .exclusive m)
    (hpin : s.pinnedBy m l = false) : exec (.recall m l) s = if passed (s.wall m) p.lease then
      .next (State.modLine { s with proxies := terase s.proxies (m, l) } l
        (fun x => { x with dir := .uncached, racks := 0, lease := max x.lease p.lease })) else .next s := by
  show execRecall m l s = _
  simp only [execRecall, hp, hexcl, hdir, hpin]
  simp

theorem execProxyEvict_eq {p : Proxy} (hp : tget s.proxies (m, l) = some p) (hpin : s.pinnedBy m l = false) :
    exec (.proxyEvict m l) s = if p.dropped || live (s.wall m) p.lease then .next s
      else .next ((({ s with proxies := terase s.proxies (m, l) } : State).forget l m).modLine l (fun x => match x.dir with
        | .exclusive o => if o = m then { x with dir := .uncached, racks := 0, lease := max x.lease p.lease } else x
        | .shared _ | .uncached => { x with lease := max x.lease p.lease })) := by
  show execProxyEvict m l s = _
  simp only [execProxyEvict, hp, hpin, Bool.or_false] <;> rfl

theorem State.forget_line_of_ne (s : State) (l m : Nat) {j : Nat} (h : j ≠ l) : (s.forget l m).line j = s.line j := by
  unfold State.forget
  split
  · rfl
  · exact (State.modLine_line _ _ _ _).trans (if_neg h)

theorem State.forget_exclusive {o : Nat} (hdir : (s.line l).dir = .exclusive o) : (s.forget l m).line l = s.line l := by
  unfold State.forget
  split
  · rfl
  · refine (State.modLine_line _ _ _ _).trans ((if_pos rfl).trans ?_)
    rw [hdir]

/-- An eviction: the proxy is gone, and the line's record is what the directory and the proxy's leases make of it. -/
theorem proxyEvicts {p : Proxy} {x : Line} (hp : tget s.proxies (m, l) = some p) (hpin : s.pinnedBy m l = false)
    (hdrop : p.dropped = false) (hlive : live (s.wall m) p.lease = false)
    (hx : ((({ s with proxies := terase s.proxies (m, l) } : State).forget l m).line l) = x) :
    ∃ t : State, exec (.proxyEvict m l) s = .next t ∧ tget t.proxies (m, l) = none ∧ t.mem = s.mem ∧
      t.line l = (match x.dir with
        | .exclusive o => if o = m then { x with dir := .uncached, racks := 0, lease := max x.lease p.lease } else x
        | .shared _ | .uncached => { x with lease := max x.lease p.lease }) ∧ ∀ l', l' ≠ l → t.line l' = s.line l' := by
  obtain ⟨ls, hf⟩ := State.forget_frame { s with proxies := terase s.proxies (m, l) } l m
  refine ⟨_, by rw [execProxyEvict_eq hp hpin, hdrop, hlive]; rfl, ?_, ?_, ?_, fun l' hl' => ?_⟩
  · rw [hf]
    exact tget_terase_self _ _
  · rw [hf]
    rfl
  · rw [State.modLine_line, if_pos rfl, hx]
  · rw [State.modLine_line, if_neg hl', State.forget_line_of_ne _ _ _ hl']
    rfl

/-- The directory forgets a sharer whose proxy is gone. -/
theorem State.forget_shared {ms : List Nat} (hp : tget s.proxies (m, l) = none) (hdir : (s.line l).dir = .shared ms) (hracks : (s.line l).racks = 0#16) :
    (s.forget l m).line l = { s.line l with dir := if ms.filter (fun y => y ≠ m) = [] then .uncached else .shared (ms.filter (fun y => y ≠ m)) } := by
  unfold State.forget
  rw [hp]
  dsimp only [Option.isSome_none]
  rw [if_neg Bool.false_ne_true, State.modLine_line, if_pos rfl, hdir]
  dsimp only
  have hr : (if s.proxies.any (fun p => p.1.2 == l && p.1.1 / 64 == m / 64) then (s.line l).racks
      else (s.line l).racks &&& ~~~(1#16 <<< (m / 64))) = (s.line l).racks := by
    rw [hracks, BitVec.zero_and, ite_self]
  rw [hr, hracks]
  simp [List.isEmpty_iff]

end

/-- Settles O47: a miss enters a sharer, an acknowledgement waits for the proxy's leases, and a recall or an eviction takes the proxy and its
leases home. -/
theorem directorySteps : Obligations.DirectorySteps := by
  refine ⟨fun s m l r k hfind hr hm hp hmoved hlock hreach hlost hdam hred hdir hroom =>
      proxyReadsMiss hfind hm hp hmoved hlock hreach hlost hdam hred hdir hroom,
    fun s m l p hp hexcl hw => ⟨invalidates hp hexcl hw, fun hdrop hpass hpin hred hwriter => ?_, fun hwait => ?_⟩,
    fun s m l p hp hexcl hdir hpin => ⟨fun h => ?_, fun h => ?_, fun h => ?_, fun hdrop h => ?_⟩,
    fun s m l p ms hp hdir hracks hpin hdrop => ⟨fun h => ?_, fun h => ?_⟩⟩
  · obtain ⟨hnone, hmem, hpend⟩ := State.ackInvalidate_spec (s := { s with proxies := terase s.proxies (m, l) }) p.lease hred hwriter
    refine ⟨_, ?_, hnone.trans (tget_terase_self _ _), hmem, hpend⟩
    rw [execInvalidateAck_shared hp hexcl hw, hdrop, hpass, hpin]
    rfl
  · rw [execInvalidateAck_shared hp hexcl hw]
    rcases hwait with h | h
    · rw [h]
      rfl
    · rw [h, Bool.and_false]
      rfl
  · rw [recalls hp hexcl hdir hpin, if_pos h]
  · rw [recalls hp hexcl hdir hpin, h]
    rfl
  · rw [execProxyEvict_eq hp hpin, h, Bool.or_true]
    rfl
  · obtain ⟨t, hstep, hnone, hmem, hline, hother⟩ := proxyEvicts hp hpin hdrop h
      (State.forget_exclusive (s := { s with proxies := terase s.proxies (m, l) }) hdir)
    refine ⟨t, hstep, hnone, hmem, hline.trans ?_, hother⟩
    show (match (s.line l).dir with
      | .exclusive o => if o = m then { s.line l with dir := .uncached, racks := 0, lease := max (s.line l).lease p.lease } else s.line l
      | .shared _ | .uncached => { s.line l with lease := max (s.line l).lease p.lease }) = _
    rw [hdir]
    exact if_pos rfl
  · rw [execProxyEvict_eq hp hpin, h, Bool.or_true]
    rfl
  · obtain ⟨t, hstep, hnone, hmem, hline, hother⟩ := proxyEvicts hp hpin hdrop h
      (State.forget_shared (s := { s with proxies := terase s.proxies (m, l) }) (tget_terase_self _ _) hdir hracks)
    refine ⟨t, hstep, hnone, hmem, ?_, ?_, hother⟩
    · rw [hline]
      by_cases hms : ms.filter (fun y => y ≠ m) = []
      · simp only [if_pos hms]
      · simp only [if_neg hms]
    · rw [hline]
      by_cases hms : ms.filter (fun y => y ≠ m) = []
      · simp only [if_pos hms]
        rfl
      · simp only [if_neg hms]
        rfl

end Sys2Proof.Machine

/-! ### The end-to-end layer of fabric requests -/
namespace Sys2Proof.Machine

theorem State.req?_id {s : State} {r : Nat} {q : Req} (h : s.req? r = some q) : q.id = r := by simpa using List.find?_some h

/-- A counter of a module changes only its module. -/
theorem State.fab_module (s : State) (m : Nat) (f : FabCtr → FabCtr) : (s.fab m f).module m = { s.module m with fab := f (s.module m).fab } := by
  rw [State.fab, State.modModule, State.setModule_module_self]

section
variable {s : State} {r : Nat} {q : Req}

/-- DELIVER of a copy, where no reply is on its way. -/
theorem execDeliver_copy (hq : s.req? r = some q) (hin : 0 < q.inFlight) (hrep : q.replies = 0) (hbehind : s.behind q = false) :
    exec (.deliver r) s = .next { s.arrive q with freeCtr := s.freeCtr + 1 } := by
  have hback : (decide (0 < q.replies) && !q.closed && !q.payload.shard) = false := by rw [hrep]; rfl
  show execDeliver r s = _
  simp only [execDeliver, hq, hback, hin, hbehind]
  simp

/-- DELIVER of a reply, where no copy is on its way. -/
theorem execDeliver_reply (hq : s.req? r = some q) (hin : q.inFlight = 0) (hrep : 0 < q.replies) (hclosed : q.closed = false)
    (hshard : q.payload.shard = false) : exec (.deliver r) s = .next { s.replied q with freeCtr := s.freeCtr + 1 } := by
  have hback : (decide (0 < q.replies) && !q.closed && !q.payload.shard) = true := by simp [hrep, hclosed, hshard]
  show execDeliver r s = _
  simp only [execDeliver, hq, hback, hin]
  simp

theorem firstCopyArrives (hq : s.req? r = some q) (hin : 0 < q.inFlight) (hrep : q.replies = 0) (hbehind : s.behind q = false)
    (hrouted : s.routed q.src q.dst = true) (harr : q.arrived = false) (hdead : s.wall q.dst + 32 < q.deadline) :
    ∃ t : State, exec (.deliver r) s = .next t ∧ (t.req? r).map (fun p => (p.arrived, p.inFlight)) = some (true, q.inFlight - 1) ∧
      t.mem = s.mem ∧ t.groups = s.groups := by
  have hid := State.req?_id hq
  obtain ⟨u, hu⟩ : ∃ u, u = s.setReq q.id (fun r => { r with inFlight := r.inFlight - 1 }) := ⟨_, rfl⟩
  have harrive : s.arrive q = { u.setReq q.id (fun r => { r with arrived := true, arr := u.nextId }) with nextId := u.nextId + 1 } := by
    have hrouted' : u.routed q.src q.dst = true := by rw [hu]; exact hrouted
    have hdead' : decide (u.wall q.dst + 32 < q.deadline) = true := by rw [hu]; exact decide_eq_true hdead
    simp only [State.arrive, ← hu, hrouted', harr, hdead']
    simp
  refine ⟨_, execDeliver_copy hq hin hrep hbehind, ?_, ?_, ?_⟩
  · have hreq : ({ s.arrive q with freeCtr := s.freeCtr + 1 } : State).req? r =
        (u.setReq q.id (fun r => { r with arrived := true, arr := u.nextId })).req? r := by rw [harrive]; rfl
    rw [hreq, hid, State.req?_setReq_self (by intro; rfl), hu, hid, State.req?_setReq_self (by intro; rfl), hq]
    rfl
  · rw [harrive, hu]; rfl
  · rw [harrive, hu]; rfl

/-- The counter of a duplicate. -/
def FabCtr.dup (c : FabCtr) (cached : Bool) : FabCtr :=
  if cached then { c with dupcache := sat32 c.dupcache } else { c with dupdrop := sat32 c.dupdrop }

/-- What a duplicate does: it is counted, and answered again where the target still has the answer. -/
theorem State.arrive_duplicate (hrouted : s.routed q.src q.dst = true) (harr : q.arrived = true) (hagain : q.payload.again = false) :
    s.arrive q = ((if (if q.payload.cachedKind && q.performed then q.cached else q.reply.isSome) = true
      then (s.setReq q.id (fun r => { r with inFlight := r.inFlight - 1 })).setReq q.id (fun r => { r with replies := r.replies + 1 })
      else s.setReq q.id (fun r => { r with inFlight := r.inFlight - 1 }))).fab q.dst
        (fun c => c.dup (q.payload.cachedKind && q.performed && q.cached)) := by
  have hrouted' : (s.setReq q.id (fun r => { r with inFlight := r.inFlight - 1 })).routed q.src q.dst = true := hrouted
  unfold State.arrive
  dsimp only
  rw [hrouted', harr, hagain, Bool.and_comm q.performed]
  cases hhit : q.payload.cachedKind && q.performed with
  | true => cases hc : q.cached <;> rfl
  | false => cases hr : q.reply.isSome <;> rfl

theorem duplicateArrives {hit : Bool} (hhit : hit = (q.payload.cachedKind && q.performed)) (hq : s.req? r = some q) (hin : 0 < q.inFlight)
    (hrep : q.replies = 0) (hbehind : s.behind q = false) (hrouted : s.routed q.src q.dst = true) (harr : q.arrived = true)
    (hslice : ∀ op sl, q.payload ≠ .slReq op sl) :
    ∃ t : State, exec (.deliver r) s = .next t ∧ t.mem = s.mem ∧ t.groups = s.groups ∧
      (t.req? r).map (fun p => (p.arrived, p.performed, p.inFlight, p.replies)) = some (true, q.performed, q.inFlight - 1,
        if (if hit = true then q.cached else q.reply.isSome) = true then 1 else 0) ∧
      (t.module q.dst).fab = (if hit = true ∧ q.cached = true then
        { (s.module q.dst).fab with dupcache := min ((s.module q.dst).fab.dupcache + 1) (2 ^ 32 - 1) }
        else { (s.module q.dst).fab with dupdrop := min ((s.module q.dst).fab.dupdrop + 1) (2 ^ 32 - 1) }) := by
  obtain rfl := State.req?_id hq
  have hagain : q.payload.again = false := by
    cases hp : q.payload with
    | slReq op sl => exact absurd hp (hslice op sl)
    | _ => rfl
  have hcopy := execDeliver_copy hq hin hrep hbehind
  rw [State.arrive_duplicate hrouted harr hagain, ← hhit] at hcopy
  obtain ⟨u, hu⟩ : ∃ u, u = s.setReq q.id (fun r => { r with inFlight := r.inFlight - 1 }) := ⟨_, rfl⟩
  have hreq : u.req? q.id = some { q with inFlight := q.inFlight - 1 } := by
    rw [hu, State.req?_setReq_self (by intro; rfl), hq]
    rfl
  obtain ⟨c, hc⟩ : ∃ c, c = if hit = true then q.cached else q.reply.isSome := ⟨_, rfl⟩
  rw [← hc] at hcopy ⊢
  obtain ⟨w, hw⟩ : ∃ w, w = if c = true
    then u.setReq q.id (fun r => { r with replies := r.replies + 1 }) else u := ⟨_, rfl⟩
  rw [← hu, ← hw] at hcopy
  have hmods : w.mods = s.mods ∧ w.mem = s.mem ∧ w.groups = s.groups := by
    rw [hw, hu]
    split <;> exact ⟨rfl, rfl, rfl⟩
  obtain ⟨hmods, hmem, hgroups⟩ := hmods
  refine ⟨_, hcopy, hmem, hgroups, ?_, ?_⟩
  · show (w.req? q.id).map _ = _
    rw [hw]
    split
    · rw [State.req?_setReq_self (by intro; rfl), hreq]
      simp [harr, hrep]
    · rw [hreq]
      simp [harr, hrep]
  · show ((w.fab q.dst (fun c => c.dup (hit && q.cached))).module q.dst).fab = _
    rw [State.fab_module, State.module, hmods, ← State.module]
    simp only [FabCtr.dup, Bool.and_eq_true, sat32]

theorem State.setEntry_frame (s : State) (k : GKey) (e : Nat) (st : SbSt) : ∃ gs, s.setEntry k e st = { s with groups := gs } :=
  s.modGroup_frame ..

/-- What a reply does beside closing its request. -/
theorem State.replied_frame (hstream : ∀ i, q.payload ≠ .stream i) : ∃ gs fs us, s.replied q =
    { s.setReq q.id (fun r => { r with closed := true, cached := false, replies := r.replies - 1 }) with groups := gs, flags := fs, unlks := us } := by
  unfold State.replied
  extract_lets u
  split
  · next k e _ _ =>
    obtain ⟨gs, h⟩ := u.setEntry_frame k e .moved
    exact ⟨gs, u.flags, u.unlks, h⟩
  · next k fl i _ _ =>
    obtain ⟨gs, h⟩ := u.modGroup_frame k (fun g => g.refuse fl [i])
    exact ⟨gs, u.flags, u.unlks, h⟩
  · exact ⟨s.groups, _, s.unlks, rfl⟩
  · exact ⟨s.groups, s.flags, _, rfl⟩
  · next i _ hp _ => exact absurd hp (hstream i)
  · exact ⟨s.groups, s.flags, s.unlks, rfl⟩

/-- The groups that a reply changes: those that MOVED sends back. -/
theorem State.replied_groups (hstream : ∀ i, q.payload ≠ .stream i) (h : q.reply ≠ some .moved) : (s.replied q).groups = s.groups := by
  unfold State.replied
  dsimp only
  split
  · exact absurd ‹_› h
  · exact absurd ‹_› h
  · rfl
  · rfl
  · next i _ hp _ => exact absurd hp (hstream i)
  · rfl

/-- What a change of a group makes of the groups depends on the groups alone. -/
theorem State.modGroup_groups {s t : State} {k : GKey} {f : Group → Group} (h : t.groups = s.groups) :
    (t.modGroup k f).groups = (s.modGroup k f).groups := by
  unfold State.modGroup
  rw [State.group?, State.group?, h]
  split
  · simp only [State.setGroup_groups, h]
  · exact h

theorem replyArrives (hq : s.req? r = some q) (hin : q.inFlight = 0) (hrep : 0 < q.replies) (hclosed : q.closed = false)
    (hshard : q.payload.shard = false) (hstream : ∀ i, q.payload ≠ .stream i) :
    ∃ t : State, exec (.deliver r) s = .next t ∧ (t.req? r).map (fun p => (p.closed, p.replies)) = some (true, q.replies - 1) ∧
      t.mem = s.mem ∧ (q.reply ≠ some .moved → t.groups = s.groups) ∧
      (∀ k e, q.payload = .entry k e → q.reply = some .moved → t.groups = (s.setEntry k e .moved).groups) ∧
      ∀ k fl i, q.payload = .lane k fl i → q.reply = some .moved → t.groups = (s.modGroup k (fun g => g.refuse fl [i])).groups := by
  obtain rfl := State.req?_id hq
  obtain ⟨gs, fs, us, hframe⟩ := State.replied_frame (s := s) hstream
  refine ⟨_, execDeliver_reply hq hin hrep hclosed hshard, ?_, by rw [hframe]; rfl, State.replied_groups hstream,
    fun k e hp hr => ?_, fun k fl i hp hr => ?_⟩
  · have hreq : (s.setReq q.id (fun r => { r with closed := true, cached := false, replies := r.replies - 1 })).req? q.id =
        some { q with closed := true, cached := false, replies := q.replies - 1 } := by
      rw [State.req?_setReq_self (by intro; rfl), hq]
      rfl
    rw [hframe]
    exact congrArg (Option.map _) hreq
  · show (s.replied q).groups = _
    rw [State.replied, hp, hr]
    exact State.modGroup_groups rfl
  · show (s.replied q).groups = _
    rw [State.replied, hp, hr]
    exact State.modGroup_groups rfl

theorem requestsResend (hq : s.req? r = some q) (hopen : q.closed = false) (hs : 0 < q.sends) (hs4 : q.sends ≤ 4)
    (htime : q.sentAt + 10000 * q.sends ≤ s.wall q.src) :
    ∃ t : State, exec (.requestResend r) s = .next t ∧
      (t.req? r).map (fun p => (p.sends, p.inFlight)) = some (q.sends + 1, q.inFlight + 1) ∧ t.mem = s.mem := by
  have hwait : (q.closed || decide (4 < q.sends) || decide (s.wall q.src < q.sentAt + 10000 * q.sends)) = false := by
    simp only [hopen, Bool.false_or, Bool.or_eq_false_iff, decide_eq_false_iff_not]
    omega
  have hstep : exec (.requestResend r) s = .next ((s.setReq r (fun q => { q with sends := q.sends + 1, inFlight := q.inFlight + 1 })).fab q.src
      (fun c => { c with resent := sat32 c.resent })) := by
    show execRequestResend r s = _
    simp only [execRequestResend, hq, if_neg (Nat.pos_iff_ne_zero.mp hs), hwait]
    rfl
  refine ⟨_, hstep, ?_, rfl⟩
  refine (congrArg (Option.map _) (State.req?_setReq_self (s := s) (i := r)
    (f := fun q => { q with sends := q.sends + 1, inFlight := q.inFlight + 1 }) (fun _ => rfl))).trans ?_
  rw [hq]
  rfl

theorem requestsWait (hq : s.req? r = some q) (hs : 0 < q.sends)
    (h : q.closed = true ∨ 4 < q.sends ∨ s.wall q.src < q.sentAt + 10000 * q.sends) : exec (.requestResend r) s = .next s := by
  have hwait : (q.closed || decide (4 < q.sends) || decide (s.wall q.src < q.sentAt + 10000 * q.sends)) = true := by
    simpa [or_assoc] using h
  show execRequestResend r s = _
  simp only [execRequestResend, hq, if_neg (Nat.pos_iff_ne_zero.mp hs), hwait]
  rfl

/-! #### Failed requests -/

/-- t holds the bytes and the requests of s. -/
def State.KeptReqs (s t : State) : Prop := t.reqs = s.reqs ∧ t.mem = s.mem

theorem State.KeptReqs.refl (s : State) : s.KeptReqs s := ⟨rfl, rfl⟩

theorem State.KeptReqs.trans {s t u : State} (h : s.KeptReqs t) (h' : t.KeptReqs u) : s.KeptReqs u := ⟨h'.1.trans h.1, h'.2.trans h.2⟩

theorem State.KeptReqs.modGroup (s : State) (k : GKey) (f : Group → Group) : s.KeptReqs (s.modGroup k f) := by
  obtain ⟨gs, h⟩ := s.modGroup_frame k f
  rw [h]
  exact ⟨rfl, rfl⟩

theorem State.KeptReqs.modCtx (s : State) (k : CtxKey) (f : Context → Context) : s.KeptReqs (s.modCtx k f) := by
  obtain ⟨gs, h⟩ := s.modCtx_frame k f
  rw [h]
  exact ⟨rfl, rfl⟩

theorem State.KeptReqs.count (s : State) (k : CtxKey) (i n : Nat) : s.KeptReqs (s.count k i n) := by
  obtain ⟨gs, h⟩ := s.count_frame k i n
  rw [h]
  exact ⟨rfl, rfl⟩

theorem State.KeptReqs.pendTeam (s : State) (team gidx : Nat) (l : Late) : s.KeptReqs (s.pendTeam team gidx l) := by
  obtain ⟨gs, ts, h⟩ := s.modMember_frame team gidx (fun g => g.pend l)
  rw [State.pendTeam, h]
  exact ⟨rfl, rfl⟩

theorem State.KeptReqs.failFlag (s : State) (i : Nat) : s.KeptReqs (s.failFlag i) := by
  unfold State.failFlag
  split
  · exact .refl s
  · dsimp only
    refine State.KeptReqs.trans ?_ (.pendTeam ..)
    refine State.KeptReqs.trans ?_ (.modCtx ..)
    split
    · exact .refl s
    · exact ⟨rfl, rfl⟩

theorem State.KeptReqs.failUnlk (s : State) (i : Nat) : s.KeptReqs (s.failUnlk i) := by
  unfold State.failUnlk
  split
  · exact .refl s
  · dsimp only
    refine State.KeptReqs.trans ?_ (.pendTeam ..)
    refine State.KeptReqs.trans ?_ (.modCtx ..)
    refine State.KeptReqs.trans ?_ (.count ..)
    split
    · exact ⟨rfl, rfl⟩
    · exact .refl s

/-- The state in which a failed request's fate is met: counted and logged, and closed. -/
def State.reqFailed (s : State) (r : Nat) (q : Req) : State :=
  let s := match q.who with
    | some w => s.noteReqFail q.src w.key w.team w.addr w.pc q.dst w.grp
    | none => s.fab q.src (fun c => { c with reqfail := sat32 c.reqfail })
  let s := if q.arrived && !q.performed then s.fab q.dst (fun c => { c with staletgt := sat32 c.staletgt }) else s
  s.setReq r (fun q => { q with closed := true, failed := true })

theorem State.reqFailed_frame (s : State) (r : Nat) (q : Req) : ∃ ms xs,
    s.reqFailed r q = { s.setReq r (fun q => { q with closed := true, failed := true }) with mods := ms, ctxs := xs } := by
  unfold State.reqFailed
  extract_lets u v
  obtain ⟨ms, xs, hu⟩ : ∃ ms xs, u = { s with mods := ms, ctxs := xs } := by
    simp only [u]
    split
    · next w _ =>
      obtain ⟨xs, h⟩ := State.modCtx_frame (s.modModule q.src (fun x => { x with fab := { x.fab with reqfail := min (x.fab.reqfail + 1) (2 ^ 32 - 1) } }))
        w.key _
      exact ⟨_, xs, h⟩
    · exact ⟨_, s.ctxs, rfl⟩
  obtain ⟨ms', hv⟩ : ∃ ms, v = { s with mods := ms, ctxs := xs } := by
    simp only [v]
    split
    · exact ⟨_, by rw [hu]; rfl⟩
    · exact ⟨ms, hu⟩
  exact ⟨ms', xs, by rw [hv]; rfl⟩

theorem State.dropStitches_none {p : Stitch → Bool} (h : s.stitches.filter p = []) : s.dropStitches p = s := by
  unfold State.dropStitches
  rw [h]
  rfl

/-- A request that is closed stays so as what it names loses its data. -/
theorem State.KeptReqs.closed {t : State} (hq : s.req? r = some q) (h : (s.reqFailed r q).KeptReqs t) :
    (t.req? r).map (fun p => (p.closed, p.failed)) = some (true, true) ∧ t.mem = s.mem := by
  obtain ⟨ms, xs, hframe⟩ := s.reqFailed_frame r q
  obtain ⟨hreqs, hmem⟩ := h
  rw [hframe] at hreqs hmem
  refine ⟨?_, hmem⟩
  have hreq : t.req? r = (s.setReq r (fun q => { q with closed := true, failed := true })).req? r := by
    rw [State.req?, hreqs]
    rfl
  rw [hreq, State.req?_setReq_self (by intro; rfl), hq]
  rfl

theorem requestsFail (hq : s.req? r = some q) (hopen : q.closed = false) (hs : 0 < q.sends) (hpass : passed (s.wall q.src) q.deadline = true)
    (hst : s.stitches.filter (s.reqStitch q.payload) = []) (hentry : ∀ k e, q.payload ≠ .entry k e) (hfill : ∀ k l, q.payload ≠ .fill k l)
    (hstream : ∀ i, q.payload ≠ .stream i) (hslice : ∀ op x, q.payload ≠ .slReq op x) (hcontrib : ∀ op x, q.payload ≠ .contrib op x) :
    ∃ t : State, exec (.requestFail r) s = .next t ∧ (t.req? r).map (fun p => (p.closed, p.failed)) = some (true, true) ∧ t.mem = s.mem := by
  have hcond : (q.closed || q.sends == 0 || !passed (s.wall q.src) q.deadline) = false := by
    simp [hopen, hpass, Nat.pos_iff_ne_zero.mp hs]
  have hdrop : (s.reqFailed r q).dropStitches ((s.reqFailed r q).reqStitch q.payload) = s.reqFailed r q := by
    obtain ⟨ms, xs, hframe⟩ := s.reqFailed_frame r q
    refine State.dropStitches_none ?_
    rw [hframe]
    exact hst
  obtain ⟨u, hu⟩ : ∃ u, u = s.reqFailed r q := ⟨_, rfl⟩
  suffices h : ∃ t, exec (.requestFail r) s = .next t ∧ u.KeptReqs t by
    obtain ⟨t, hstep, hkept⟩ := h
    exact ⟨t, hstep, State.KeptReqs.closed hq (hu ▸ hkept)⟩
  show ∃ t, execRequestFail r s = .next t ∧ u.KeptReqs t
  unfold execRequestFail
  rw [hq]
  dsimp -zeta only
  rw [hcond, if_neg Bool.false_ne_true]
  extract_lets _ _ _ v
  refine ⟨_, rfl, ?_⟩
  have hv : v = u := hdrop.trans hu.symm
  rw [hv]
  split
  · exact absurd ‹_› (hentry _ _)
  · split
    · exact .modGroup ..
    · exact .refl u
  · exact absurd ‹_› (hfill _ _)
  · exact .modGroup ..
  · exact .failFlag ..
  · exact .failUnlk ..
  · exact .refl u
  · exact .refl u
  · exact absurd ‹_› (hstream _)
  · exact absurd ‹_› (hslice _ _)
  · exact absurd ‹_› (hcontrib _ _)

end

/-- Settles O48: what each step of the end-to-end layer does to the request it names. -/
theorem requestSteps : Obligations.RequestSteps := by
  intro s r q hq
  refine ⟨firstCopyArrives hq, fun hit hhit hin hrep hb hr ha hs => duplicateArrives hhit hq hin hrep hb hr ha hs, replyArrives hq, fun hopen hs hahead => ?_,
    fun hopen hs hahead => ?_, requestsResend hq, requestsWait hq, fun hopen hs hpass hst hkind => ?_, fun hclosed hrep => ?_, fun hc hpass => ?_⟩
  · show execRequestResend r s = _
    simp only [execRequestResend, hq, hs, hahead, Bool.or_true]
    rfl
  · show execRequestResend r s = _
    simp only [execRequestResend, hq, hs, hahead, hopen]
    rfl
  · exact requestsFail hq hopen hs hpass hst (fun k e hp => by rw [hp] at hkind; exact hkind) (fun k l hp => by rw [hp] at hkind; exact hkind)
      (fun i hp => by rw [hp] at hkind; exact hkind) (fun op x hp => by rw [hp] at hkind; exact hkind)
      (fun op x hp => by rw [hp] at hkind; exact hkind)
  · have hcond : (q.closed && decide (0 < q.replies)) = true := by simp [hclosed, hrep]
    show execLateReply r s = _
    simp only [execLateReply, hq, hcond]
    rfl
  · show execResponseCacheEntryExpiry r s = _
    simp only [execResponseCacheEntryExpiry, hq, hc, hpass]
    rfl

end Sys2Proof.Machine

/-! ### The lock logic of a home -/
namespace Sys2Proof.Machine

/-- t is s but for groups, teams and contexts: what notices to groups and their teams change. -/
def State.Noticed (s t : State) : Prop := ∃ gs ts cs, t = { s with groups := gs, teams := ts, ctxs := cs }

namespace State.Noticed

variable {s t u : State}

theorem refl (s : State) : s.Noticed s := ⟨s.groups, s.teams, s.ctxs, rfl⟩

theorem trans (h : s.Noticed t) (h' : t.Noticed u) : s.Noticed u := by
  obtain ⟨_, _, _, rfl⟩ := h
  obtain ⟨_, _, _, rfl⟩ := h'
  exact ⟨_, _, _, rfl⟩

theorem of_inTeams (h : s.InTeams t) : s.Noticed t := by
  obtain ⟨ts, cs, rfl⟩ := h
  exact ⟨s.groups, ts, cs, rfl⟩

theorem foldl {α : Type} {f : State → α → State} (h : ∀ s a, State.Noticed s (f s a)) (l : List α) (s : State) : s.Noticed (l.foldl f s) :=
  foldl_rel State.Noticed.refl (fun _ _ _ => State.Noticed.trans) h l s

theorem modGroup (s : State) (k : GKey) (f : Group → Group) : s.Noticed (s.modGroup k f) := by
  obtain ⟨gs, h⟩ := s.modGroup_frame k f
  exact ⟨gs, s.teams, s.ctxs, h⟩

theorem modMember (s : State) (team gidx : Nat) (f : Group → Group) : s.Noticed (s.modMember team gidx f) := by
  obtain ⟨gs, ts, h⟩ := s.modMember_frame team gidx f
  exact ⟨gs, ts, s.ctxs, h⟩

theorem lockStatus (s : State) (w : Waiter) (st : Nat) : s.Noticed (s.lockStatus w st) :=
  (modMember ..).trans (of_inTeams (.makeRunnable ..))

theorem wakeNotice (s : State) (ws : List Waiter) : s.Noticed (s.wakeNotice ws) :=
  foldl (fun _ _ => of_inTeams (.makeRunnable ..)) _ s

theorem event (s : State) (k : CtxKey) (core team code arg : Nat) : s.Noticed (s.event k core team code arg) :=
  of_inTeams (.modCtx ..)

theorem logErr (s : State) (k : CtxKey) (r : ErrRec) : s.Noticed (s.logErr k r) := of_inTeams (.modCtx ..)

theorem line (h : s.Noticed t) (l : Nat) : t.line l = s.line l := by
  obtain ⟨_, _, _, rfl⟩ := h
  rfl

theorem mem (h : s.Noticed t) : t.mem = s.mem := by
  obtain ⟨_, _, _, rfl⟩ := h
  rfl

end State.Noticed

/-- What a notice to a group keeps of it stays, in every resident group. -/
theorem State.modGroup_keeps {α : Type} {s : State} {p : Group → α} {f : Group → Group} (h : ∀ g, p (f g) = p g) (k k' : GKey) :
    ((s.modGroup k' f).group? k).map p = (s.group? k).map p := by
  rw [State.modGroup_group]
  split
  · next hk =>
    rw [hk, Option.map_map]
    exact congrArg (fun u => Option.map u (s.group? k')) (funext h)
  · rfl

theorem State.modMember_keeps {α : Type} {s : State} {p : Group → α} {f : Group → Group} (h : ∀ g, p (f g) = p g) (k : GKey)
    (team gidx : Nat) : ((s.modMember team gidx f).group? k).map p = (s.group? k).map p := by
  unfold State.modMember
  split
  · exact State.modGroup_keeps h k _
  · obtain ⟨ts, ht⟩ := s.modTeam_frame team (fun t => { t with images := t.images.map (fun e => if e.1 = gidx then (e.1, f e.2) else e) })
    rw [ht]
    rfl

/-- A lock status is noted at an outstanding instruction: what does not speak of them stays. -/
theorem State.lockStatus_keeps {α : Type} {s : State} {p : Group → α} (h : ∀ g fs, p { g with flights := fs } = p g) (k : GKey) (w : Waiter)
    (st : Nat) : ((s.lockStatus w st).group? k).map p = (s.group? k).map p := by
  unfold State.lockStatus
  have hrun : ∀ u : State, (u.makeRunnable w.team).group? k = u.group? k := fun u => by
    obtain ⟨ts, cs, hu⟩ := State.InTeams.makeRunnable u w.team
    rw [hu]
    rfl
  rw [hrun]
  exact State.modMember_keeps (fun g => h g _) k w.team w.gidx

section
variable {s : State} {k : GKey} {g : Group} {fl d l : Nat} {va : DWord} {tm : Option Nat} {f : Flight}

/-- LOCK_REQUEST at the home of the line, with nothing in the way: the home handles it. -/
theorem execLockRequest_home (hg : s.group? k = some g) (hf : g.flight? fl = some f) (hk : f.kind = .lock d l va tm false)
    (hready : f.ready = false) (href : f.refused = []) (hacq : g.acqBlocks f.own f.ord = false) (hm : k.m = lineMod l)
    (hmoved : s.movedLine l = false) (hred : (s.line l).red = none) (hopen : s.pointOpen (lineMod l) l = true)
    (hreqs : ∀ r ∈ s.reqs, r.payload = .lock k fl → r.closed = true) :
    exec (.lockRequest k fl) s = .next (s.lockArrive k g f l va tm) := by
  have hreq : s.reqs.find? (fun r => r.payload == .lock k fl && !r.closed) = none := by
    refine List.find?_eq_none.mpr fun r hr => ?_
    simp only [Bool.and_eq_true, beq_iff_eq, Bool.not_eq_true', not_and, Bool.not_eq_false]
    exact hreqs r hr
  have hclear : s.redClear l = true := by simp only [State.redClear, hred]
  show execLockRequest k fl s = _
  simp only [execLockRequest, hg, hf, hk, hready, href, hacq, hm, hmoved, hopen, hclear, hreq, State.closeRed_none hred]
  simp

/-- The waiter that a request of a group enters. -/
def State.lockWaiter (s : State) (k : GKey) (g : Group) (f : Flight) (l : Nat) (tm : Option Nat) : Waiter :=
  ⟨k.m, k.c, k.g, g.key, g.team, g.gidx, f.id, s.wall (lineMod l), tm.map (fun t => s.wall (lineMod l) + t), true, 0,
    (s.core ⟨lineMod l, 48 * lineDie l⟩).cycle⟩

theorem State.enterLock_lock (s : State) (l : Nat) (w : Waiter) (vline pc : DWord) (t : Nat) :
    ((s.enterLock l w vline pc t).line l).lock = some ⟨w, .granting t, vline, pc⟩ := by
  rw [State.enterLock, State.modLine_line, if_pos rfl]

theorem State.enterLock_queue (s : State) (l : Nat) (w : Waiter) (vline pc : DWord) (t : Nat) :
    ((s.enterLock l w vline pc t).line l).queue = (s.line l).queue := by
  have hinv : (s.lockInvalidate l).line l = s.line l := by
    unfold State.lockInvalidate
    dsimp only
    split <;> rfl
  rw [State.enterLock, State.modLine_line, if_pos rfl, hinv]

theorem State.enterLock_mem (s : State) (l : Nat) (w : Waiter) (vline pc : DWord) (t : Nat) : (s.enterLock l w vline pc t).mem = s.mem := by
  unfold State.enterLock State.lockInvalidate
  dsimp only
  split <;> rfl

theorem State.lockArrive_free (hlock : (s.line l).lock = none) (hq : ∀ v ∈ (s.line l).queue, v.res = false) (hroom : s.lockCount l < 64) :
    (s.enterLock l (s.lockWaiter k g f l tm) va f.pc (s.grantTime l)).Noticed (s.lockArrive k g f l va tm) := by
  have hany : (s.line l).queue.any (·.res) = false := List.any_eq_false.mpr fun v hv => by simp [hq v hv]
  unfold State.lockArrive
  dsimp only
  rw [hlock, hany, if_pos (show ((none : Option LockEnt).isNone && !false) = true from rfl), if_neg (Nat.not_le.mpr hroom)]
  exact .modGroup ..

theorem State.lockArrive_held {e : LockEnt} (hlock : (s.line l).lock = some e) (hroom : s.queueCount l < 256) (htm : tm ≠ some 0) :
    (s.modLine l (fun x => { x with queue := enqueue (s.lockWaiter k g f l tm) x.queue })).Noticed (s.lockArrive k g f l va tm) := by
  unfold State.lockArrive
  dsimp only
  rw [hlock, if_neg (by simp), if_neg (Nat.not_le.mpr hroom), if_neg htm]
  exact .modGroup ..

end

/-- A waiter that no other of its cycle precedes goes to the tail. -/
theorem enqueue_tail {w : Waiter} {q : List Waiter} (h : ∀ v ∈ q, v.cyc ≠ w.cyc ∨ v.arr ≠ w.arr) : enqueue w q = q ++ [w] := by
  have hsame : q.reverse.takeWhile (fun v => v.cyc == w.cyc && v.arr == w.arr) = [] := by
    refine List.takeWhile_eq_nil_iff.mpr fun hpos hv => ?_
    have hmem : q.reverse[0] ∈ q := List.mem_reverse.mp (List.getElem_mem _)
    simp only [Bool.and_eq_true, beq_iff_eq] at hv
    rcases h _ hmem with h | h
    · exact h hv.1
    · exact h hv.2
  simp [enqueue, hsame]

/-- A grant whose time has come, of a holder that is resident on the home's module. -/
theorem execLockGrant_resident {s : State} {l : Nat} {e : LockEnt} {t0 : Nat} {k : GKey} (hlock : (s.line l).lock = some e)
    (hst : e.st = .granting t0) (hpend : ∀ p ∈ s.pend, p.line = l → p.wait = []) (htime : max t0 ((s.line l).lease + 32) ≤ s.wall (lineMod l))
    (hm : e.holder.m = lineMod l) (hopen : s.pointOpen (lineMod l) l = true) (hred : (s.line l).red = none)
    (hk : s.findGroup e.holder.team e.holder.gidx = some k) : exec (.lockGrant l) s =
      .next ((((({ s.modLine l (fun x => { x with
          lock := some { e with holder := { e.holder with m := k.m, core := k.c, grp := k.g }, st := .held } }) with
        copies := terase s.copies (k.die, l) } : State).modGroup k (fun g => if g.locks.any (fun h => h.line == l) then g
          else { g with locks := g.locks ++ [⟨l, e.vline, e.pc, 0, false⟩] })).lockStatus
            { e.holder with m := k.m, core := k.c, grp := k.g } 0).event e.holder.key k.c e.holder.team 3 0)) := by
  have hwaits : s.pend.any (fun p => p.line == l && !p.wait.isEmpty) = false := by
    refine List.any_eq_false.mpr fun p hp => ?_
    simp only [Bool.and_eq_true, beq_iff_eq, Bool.not_eq_true', not_and, Bool.not_eq_false, List.isEmpty_iff]
    exact hpend p hp
  have hlate : (e.holder.m != lineMod l) = false := by simp [hm]
  have hclear : s.redClear l = true := by simp only [State.redClear, hred]
  show execLockGrant l s = _
  simp only [execLockGrant, hlock, hst, hwaits, hlate, hopen, hclear, State.closeRed_none hred, hk,
    decide_eq_false (Nat.not_lt.mpr htime)]
  rfl

theorem lockArrivals : Claims.LockArrivals := by
  refine ⟨fun s k g fl d l va tm f hg hf hk hready href hacq hm hmoved hred hopen hreqs => ?_, fun s l e t0 k g hlock hst hpend htime hm hopen hred hfind hg => ?_⟩
  · have hstep := execLockRequest_home hg hf hk hready href hacq hm hmoved hred hopen hreqs
    refine ⟨fun hlock hq hroom => ?_, fun e hlock hroom htm => ?_⟩
    · have hnote := State.lockArrive_free (k := k) (g := g) (tm := tm) (va := va) (f := f) hlock hq hroom
      exact ⟨_, _, hstep, by rw [hnote.line]; exact State.enterLock_lock .., rfl, rfl, rfl, rfl, hnote.mem.trans (State.enterLock_mem ..)⟩
    · have hnote := State.lockArrive_held (k := k) (g := g) (va := va) (f := f) hlock hroom htm
      have hline : ((s.lockArrive k g f l va tm).line l) =
          { s.line l with queue := enqueue (s.lockWaiter k g f l tm) (s.line l).queue } := by
        rw [hnote.line, State.modLine_line, if_pos rfl]
      exact ⟨_, s.lockWaiter k g f l tm, hstep, by rw [hline], enqueue_tail, by rw [hline]; exact hlock, rfl, rfl, rfl, rfl, rfl⟩
  · obtain ⟨u, hu⟩ : ∃ u : State, u = { s.modLine l (fun x => { x with
      lock := some { e with holder := { e.holder with m := k.m, core := k.c, grp := k.g }, st := .held } }) with
        copies := terase s.copies (k.die, l) } := ⟨_, rfl⟩
    have hstep := execLockGrant_resident hlock hst hpend htime hm hopen hred hfind
    rw [← hu] at hstep
    obtain ⟨v, hv⟩ : ∃ v, v = u.modGroup k (fun g => if g.locks.any (fun h => h.line == l) then g
      else { g with locks := g.locks ++ [⟨l, e.vline, e.pc, 0, false⟩] }) := ⟨_, rfl⟩
    rw [← hv] at hstep
    have huv : u.Noticed v := hv ▸ .modGroup ..
    have hnote := huv.trans ((State.Noticed.lockStatus v { e.holder with m := k.m, core := k.c, grp := k.g } 0).trans
      (State.Noticed.event _ e.holder.key k.c e.holder.team 3 0))
    refine ⟨_, { e with holder := { e.holder with m := k.m, core := k.c, grp := k.g }, st := .held }, hstep, ?_, rfl, rfl, rfl, rfl, ?_, ?_⟩
    · have hline : (u.line l).lock = some { e with holder := { e.holder with m := k.m, core := k.c, grp := k.g }, st := .held } := by
        rw [hu]
        show ((tget (tset s.lines l _) l).getD _).lock = _
        rw [tget_tset_self]
        rfl
      rw [hnote.line]
      exact hline
    · rw [hnote.mem, hu]
      rfl
    · have hgv : v.group? k = some (if g.locks.any (fun h => h.line == l) then g
          else { g with locks := g.locks ++ [⟨l, e.vline, e.pc, 0, false⟩] }) := by
        have hgu : u.group? k = some g := by rw [hu]; exact hg
        rw [hv, State.modGroup_group, if_pos rfl, hgu]
        rfl
      rw [State.event_group, State.lockStatus_keeps (p := fun g : Group => g.locks.any (fun h => h.line == l)) (fun _ _ => rfl), hgv]
      by_cases hany : g.locks.any (fun h => h.line == l) = true
      · rw [if_pos hany, Option.map_some, hany]
      · rw [if_neg hany, Option.map_some]
        simp

/-! #### Released lines, withdrawals and waiters -/

/-- t is s but for what the end of an unlk changes: its record, its request and the flags behind it. -/
theorem State.unlkDone_frame (s : State) (l : Nat) : ∃ fs us rs, s.unlkDone l = { s with flags := fs, unlks := us, reqs := rs } := by
  unfold State.unlkDone
  refine foldl_rel (R := fun s t : State => ∃ fs us rs, t = { s with flags := fs, unlks := us, reqs := rs })
    (fun s => ⟨s.flags, s.unlks, s.reqs, rfl⟩) ?_ (fun s u => ?_) _ s
  · rintro _ _ _ ⟨_, _, _, rfl⟩ ⟨_, _, _, rfl⟩
    exact ⟨_, _, _, rfl⟩
  · dsimp only
    split
    · exact ⟨_, _, s.reqs, rfl⟩
    · exact ⟨_, _, _, rfl⟩

section
variable {s : State} {l : Nat}

/-- A line that no resident waiter awaits is free once it is handed on. -/
theorem State.handoff_free (h : ∀ w ∈ (s.line l).queue, w.res = false) : (s.freeLock l).Noticed (s.handoff l) := by
  have hdrop : (s.line l).queue.dropWhile (fun w => !w.res) = [] :=
    List.dropWhile_eq_nil_iff.mpr fun w hw => by rw [h w hw]; rfl
  unfold State.handoff
  dsimp only
  rw [hdrop]
  exact .wakeNotice ..

/-- A line goes to the first resident waiter, those ahead of it to the tail. -/
theorem State.handoff_next {ahead : List Waiter} {w : Waiter} {rest : List Waiter} (hq : (s.line l).queue = ahead ++ w :: rest)
    (hahead : ∀ x ∈ ahead, x.res = false) (hw : w.res = true) :
    (s.modLine l (fun x => { x with
      queue := rest ++ ahead
      lock := some ⟨w, .granting (s.wall (lineMod l)), (s.waiterReq w).1, (s.waiterReq w).2⟩ })).Noticed (s.handoff l) := by
  have hall : ∀ x ∈ ahead, (!x.res) = true := fun x hx => by rw [hahead x hx]; rfl
  have hdrop : (s.line l).queue.dropWhile (fun w => !w.res) = w :: rest := by
    rw [hq, List.dropWhile_append_of_pos hall, List.dropWhile_cons_of_neg (by simp [hw])]
  have htake : (s.line l).queue.takeWhile (fun w => !w.res) = ahead := by
    rw [hq, List.takeWhile_append_of_pos hall, List.takeWhile_cons_of_neg (by simp [hw]), List.append_nil]
  unfold State.handoff
  dsimp only
  rw [hdrop, htake]
  exact .wakeNotice ..

theorem handsOn {e : LockEnt} (hlock : (s.line l).lock = some e) (hst : e.st = .handoff) (hready : s.unlkReady l = true) :
    exec (.lockHandoff l) s = .next ((s.unlkDone l).handoff l) := by
  show execLockHandoff l s = _
  simp only [execLockHandoff, hlock]
  exact if_pos ⟨hst, hready⟩

theorem withdraws {e : LockEnt} {t0 : Nat} (hlock : (s.line l).lock = some e) (hst : e.st = .granting t0) (hm : e.holder.m ≠ lineMod l)
    (htime : t0 + 50032 ≤ s.wall (lineMod l)) :
    ∃ t : State, exec (.lockGrantWithdrawal l) s = .next (t.handoff l) ∧ t.lines = s.lines ∧ t.mem = s.mem := by
  have hnote : s.Noticed ((s.logErr e.holder.key (s.errRec e.holder.key e.holder.team 0x01 (BitVec.ofNat 64 (128 * l)) e.pc 0 e.holder.m
      e.holder.grp)).modMember e.holder.team e.holder.gidx (fun g => (g.dropFlight e.holder.flight).pend ⟨0x0A, 0, e.vline, e.pc, 0⟩)) :=
    (State.Noticed.logErr ..).trans (.modMember ..)
  obtain ⟨t, ht⟩ : ∃ t, t = (s.logErr e.holder.key (s.errRec e.holder.key e.holder.team 0x01 (BitVec.ofNat 64 (128 * l)) e.pc 0 e.holder.m
      e.holder.grp)).modMember e.holder.team e.holder.gidx (fun g => (g.dropFlight e.holder.flight).pend ⟨0x0A, 0, e.vline, e.pc, 0⟩) := ⟨_, rfl⟩
  rw [← ht] at hnote
  refine ⟨t, ?_, ?_, hnote.mem⟩
  · show execLockGrantWithdrawal l s = _
    simp only [execLockGrantWithdrawal, hlock, hst, ht]
    exact if_pos ⟨hm, htime⟩
  · obtain ⟨_, _, _, rfl⟩ := hnote
    rfl

variable {i : Nat} {w : Waiter}

theorem waitersTimeOut (hw : (s.line l).queue[i]? = some w) : exec (.lckTryTimeout l i) s =
    if w.deadline.any (fun d => decide (d ≤ s.wall (lineMod l))) then
      .next ((s.modLine l (fun x => { x with queue := x.queue.eraseIdx i })).lockStatus w 3) else .next s := by
  show execLckTryTimeout l i s = _
  simp only [execLckTryTimeout, hw]

/-- A probe that does not return counts. -/
theorem probes_none (hw : (s.line l).queue[i]? = some w) (hdue : w.due (s.wall (lineMod l)) = true) (hp : s.probe w.team w.gidx 64 l = none) :
    exec (.deadlockProbe l i) s = .next (s.modLine l (fun x => { x with queue := x.queue.map (fun y =>
      if y.team = w.team ∧ y.gidx = w.gidx then { y with probes := y.probes + 1 } else y) })) := by
  show execDeadlockProbe l i s = _
  simp only [execDeadlockProbe, hw, hdue, hp]
  rfl

/-- The other waiters whose due probes return. -/
def State.deadlocked (s : State) (w : Waiter) : List (Nat × Waiter × Nat) :=
  s.lines.flatMap (fun e => e.2.queue.filterMap (fun v =>
    if v.due (s.wall (lineMod e.1)) && !(v.team == w.team && v.gidx == w.gidx) then
      (s.probe v.team v.gidx 64 e.1).map (fun n => (e.1, v, n)) else none))

theorem State.mem_deadlocked {o : Nat × Waiter × Nat} (h : o ∈ s.deadlocked w) :
    o.2.1.due (s.wall (lineMod o.1)) = true ∧ s.probe o.2.1.team o.2.1.gidx 64 o.1 = some o.2.2 := by
  obtain ⟨e, -, he⟩ := List.mem_flatMap.mp h
  obtain ⟨v, -, hv⟩ := List.mem_filterMap.mp he
  split at hv
  · next hcond =>
    obtain ⟨n, hn, rfl⟩ := Option.map_eq_some_iff.mp hv
    exact ⟨(Bool.and_eq_true_iff.mp hcond).1, hn⟩
  · cases hv

theorem probes_some {h : Nat} (hw : (s.line l).queue[i]? = some w) (hdue : w.due (s.wall (lineMod l)) = true)
    (hp : s.probe w.team w.gidx 64 l = some h) :
    ∃ os : List (Nat × Waiter × Nat), exec (.deadlockProbe l i) s = .next (os.foldl (fun s o => s.deadlock o.1 o.2.1 o.2.2)
        (State.deadlock { s with freeCtr := s.freeCtr + 1 } l w h)) ∧
      ∀ o ∈ os, o.2.1.due (s.wall (lineMod o.1)) = true ∧ s.probe o.2.1.team o.2.1.gidx 64 o.1 = some o.2.2 := by
  refine ⟨if Config.pick s.freeCtr then s.deadlocked w else [], ?_, fun o ho => ?_⟩
  · show execDeadlockProbe l i s = _
    simp only [execDeadlockProbe, hw, hdue, hp]
    rfl
  · split at ho
    · exact State.mem_deadlocked ho
    · cases ho

/-- A waiter whose residence is as it says is not changed; else it is marked, or takes the free lock. -/
theorem execResUpdate_eq {res : Bool} (hw : (s.line l).queue[i]? = some w) (hres : (s.findGroup w.team w.gidx).isSome = res) (hne : w.res ≠ res) :
    exec (.resUpdate l i res) s =
      let w' := match s.findGroup w.team w.gidx with
        | some k => { w with res := res, m := k.m, core := k.c, grp := k.g }
        | none => { w with res := res }
      if res && (s.line l).lock.isNone && !((s.line l).queue.take i).any (·.res) && s.lockCount l < 64 then
        .next ((s.modLine l (fun x => { x with queue := x.queue.eraseIdx i })).enterLock l w' (s.waiterReq w).1 (s.waiterReq w).2
          ((s.modLine l (fun x => { x with queue := x.queue.eraseIdx i })).grantTime l))
      else .next (s.modLine l (fun x => { x with queue := x.queue.set i w' })) := by
  have hcond : (decide ((s.findGroup w.team w.gidx).isSome ≠ res) || w.res == res) = false := by
    simp [hres, beq_eq_false_iff_ne.mpr hne]
  show execResUpdate l i res s = _
  simp only [execResUpdate, hw, hcond]
  rfl

end

theorem lockQueueSteps : Claims.LockQueueSteps := by
  refine ⟨fun s l e hlock hst hready => ⟨fun hq => ?_, fun ahead w rest hq hahead hw => ?_⟩, fun s l e t0 hlock hst hm ht => withdraws hlock hst hm ht,
    fun s l i w hw => ⟨fun d hd hle => ?_, fun hd => ?_, probes_none hw, fun h => probes_some hw, fun hk hres => ?_,
      fun k hk hres hlock hroom hq => ?_, fun k hk hres hlock => ?_⟩⟩
  · obtain ⟨_, _, _, hdone⟩ := s.unlkDone_frame l
    have hnote := State.handoff_free (s := s.unlkDone l) (l := l) (by rw [hdone]; exact hq)
    refine ⟨_, handsOn hlock hst hready, ?_, ?_⟩
    · rw [hnote.line, State.freeLock, State.modLine_line, if_pos rfl]
    · rw [hnote.mem, hdone]
      rfl
  · obtain ⟨_, _, _, hdone⟩ := s.unlkDone_frame l
    have hnote := State.handoff_next (s := s.unlkDone l) (l := l) (by rw [hdone]; exact hq) hahead hw
    have hline := hnote.line l
    rw [State.modLine_line, if_pos rfl] at hline
    refine ⟨_, _, handsOn hlock hst hready, by rw [hline], rfl, ?_, by rw [hline], ?_⟩
    · rw [hdone]
      rfl
    · rw [hnote.mem, hdone]
      rfl
  · rw [waitersTimeOut hw, hd, Option.any_some, decide_eq_true hle, if_pos rfl]
  · rw [waitersTimeOut hw, hd]
    rfl
  · rw [execResUpdate_eq hw (by rw [hk]; rfl) (by rw [hres]; decide), hk]
    rfl
  · have hany : ((s.line l).queue.take i).any (·.res) = false := List.any_eq_false.mpr fun v hv => by simp [hq v hv]
    obtain ⟨u, hu⟩ : ∃ u, u = s.modLine l (fun x => { x with queue := x.queue.eraseIdx i }) := ⟨_, rfl⟩
    have hstep : exec (.resUpdate l i true) s = .next (u.enterLock l { w with res := true, m := k.m, core := k.c, grp := k.g }
        (s.waiterReq w).1 (s.waiterReq w).2 (u.grantTime l)) := by
      rw [execResUpdate_eq hw (by rw [hk]; rfl) (by rw [hres]; decide), hk, hlock, hany, decide_eq_true hroom, hu]
      rfl
    have hline : u.line l = { s.line l with queue := (s.line l).queue.eraseIdx i } := by rw [hu, State.modLine_line, if_pos rfl]
    refine ⟨_, _, hstep, State.enterLock_lock .., ?_, rfl, ?_, ?_⟩
    · have hwall : u.wall (lineMod l) = s.wall (lineMod l) := by rw [hu]; rfl
      simp only [State.grantTime, hwall, hline]
    · rw [State.enterLock_queue, hline]
    · rw [State.enterLock_mem, hu]
      rfl
  · obtain ⟨e, he⟩ := Option.isSome_iff_exists.mp hlock
    rw [execResUpdate_eq hw (by rw [hk]; rfl) (by rw [hres]; decide), hk, he]
    rfl

theorem lockTimeouts : Claims.LockTimeouts := by
  intro s k g l h c hg hc hh
  have heq : exec (.lockTimeout k l) s = if !h.fired && decide (c.p.locklim ≤ h.cycles) then
      .next (s.setGroup k (Group.pend { g with locks := g.locks.map (fun (x : HeldLock) =>
        if x.line = l then { x with fired := true } else x) } ⟨0x0E, 0, h.vline, h.pc, 0⟩)) else .next s := by
    show execLockTimeout k l s = _
    simp only [execLockTimeout, hg, hc, hh]
    rfl
  refine ⟨fun hf hle => ?_, fun hor => ?_⟩
  · rw [heq, hf, decide_eq_true hle]
    rfl
  · rw [heq, if_neg]
    simp only [Bool.and_eq_true, Bool.not_eq_true', decide_eq_true_eq, not_and, not_le]
    intro hf
    exact hor.resolve_left (by rw [hf]; decide)

/-- Settles O49: each step of the lock logic, by the line's lock and queue. -/
theorem lockSteps : Obligations.LockSteps := ⟨lockArrivals, lockQueueSteps, lockTimeouts⟩

end Sys2Proof.Machine

/-! ### Landings, acknowledgements and the pieces of the copy engine -/
namespace Sys2Proof.Machine

section
variable {s : State} {i : Nat} {l : Landing}

/-- A landing that reports no commit time on its way may be sent. -/
theorem State.mayLand_of (hack : l.ack = false) (h : l.rmt = true → l.w = none ∧ passed (s.wall l.sentFrom) l.t = true) : s.mayLand l = true := by
  unfold State.mayLand
  rw [hack, Bool.or_false]
  split
  · next hr =>
    obtain ⟨hw, hp⟩ := h hr
    rw [hw, hp]
    rfl
  · rfl

/-- One whose commit time has not passed may not. -/
theorem State.mayLand_early (hsent : l.rmt = true ∨ l.ack = true) (h : passed (s.wall l.sentFrom) l.t = false) : s.mayLand l = false := by
  unfold State.mayLand
  rw [if_pos (by simpa using hsent), h, Bool.and_false]

/-- The landings that are sent with one. -/
def State.joined (s : State) (i : Nat) (l : Landing) : List Landing :=
  if Config.pick s.freeCtr then (s.landings.eraseIdx i).filter (fun x => x.joins l && s.mayLand x) else []

/-- The state once landings have become one request of a barrier unit. -/
def State.sendLanding (s : State) (i : Nat) (l : Landing) (more : List Landing) : State :=
  let l' := { l with db := more.foldl (fun (d : Int) (x : Landing) => d + x.db) l.db }
  let s := { s with freeCtr := s.freeCtr + 1, landings := (s.landings.eraseIdx i).filter (fun x => !more.contains x) }
  let s := { s with barq := s.barq ++ [l'.toReq s] }
  match l.coll with
  | some i => { s with colls := s.colls.map (fun (o : CollOp) => if o.id = i then { o with landed := o.landed + (-l'.db).toNat } else o) }
  | none => s

theorem execLand_eq (hl : s.landings[i]? = some l) (hack : l.ack = false) (hmay : s.mayLand l = true) :
    exec (.land i) s = .next ((s.sendLanding i l (s.joined i l)).landed l.copyOp) := by
  show execLand i s = _
  simp only [execLand, hl, hack, hmay]
  rfl

theorem execAckSend_eq (hl : s.landings[i]? = some l) (hack : l.ack = true) : exec (.ackSend i) s = if s.mayLand l then
    .next { s with landings := s.landings.eraseIdx i, barq := s.barq ++ [l.toReq s] } else .next s := by
  show execAckSend i s = _
  simp only [execAckSend, hl, hack]
  cases s.mayLand l <;> rfl

/-- A landing of no copy and no collective is sent alone. -/
theorem State.joined_alone (hcopy : l.copyOp = none) (hcoll : l.coll = none) : s.joined i l = [] := by
  unfold State.joined
  split
  · refine List.filter_eq_nil_iff.mpr fun x _ h => ?_
    simp only [Landing.joins, hcopy, hcoll, Bool.and_eq_true, beq_iff_eq, Bool.or_eq_true] at h
    obtain ⟨⟨⟨⟨⟨⟨⟨⟨-, hc⟩, hl⟩, h⟩, -⟩, -⟩, -⟩, -⟩, -⟩ := h
    rw [hc, hl] at h
    rcases h with h | h <;> cases h
  · rfl

theorem State.mem_joined {y : Landing} (h : y ∈ s.joined i l) :
    y ∈ s.landings.eraseIdx i ∧ y.o = l.o ∧ y.copyOp = l.copyOp ∧ y.coll = l.coll ∧ y.rmt = l.rmt ∧ s.mayLand y = true := by
  unfold State.joined at h
  split at h
  · obtain ⟨hmem, hcond⟩ := List.mem_filter.mp h
    simp only [Landing.joins, Bool.and_eq_true, beq_iff_eq] at hcond
    obtain ⟨⟨⟨⟨⟨⟨⟨⟨ho, hc⟩, hl⟩, -⟩, hr⟩, -⟩, -⟩, -⟩, hmay⟩ := hcond
    exact ⟨hmem, ho, hc, hl, hr, hmay⟩
  · cases h

theorem foldl_add_db (more : List Landing) (d : Int) :
    more.foldl (fun (d : Int) (x : Landing) => d + x.db) d = d + (more.map (fun y => y.db)).sum := by
  induction more generalizing d with
  | nil => simp
  | cons a more ih =>
    rw [List.foldl_cons, ih, List.map_cons, List.sum_cons, Int.add_assoc]

end

theorem landingsSend : Claims.LandingsSend := by
  intro s i l hl
  refine ⟨fun hack hw hpass => ?_, fun hack hpass => ?_, fun hack hrmt hcopy hcoll => ?_, fun hack hr => ?_, fun hack hrmt hpass => ?_⟩
  · have hmay : s.mayLand l = true := by
      simp only [State.mayLand, hack, Bool.or_true, hw, hpass]
      rfl
    rw [execAckSend_eq hl hack, if_pos hmay]
  · rw [execAckSend_eq hl hack, State.mayLand_early (.inr hack) hpass]
    rfl
  · rw [execLand_eq hl hack (State.mayLand_of hack fun h => absurd h (by rw [hrmt]; decide)), State.joined_alone hcopy hcoll]
    obtain ⟨o, da, db, w, t, sentFrom, rmt, ack, key, team, copyOp, coll⟩ := l
    obtain rfl : copyOp = none := hcopy
    obtain rfl : coll = none := hcoll
    have hrest : (s.landings.eraseIdx i).filter (fun x => !([] : List Landing).contains x) = s.landings.eraseIdx i :=
      List.filter_eq_self.mpr fun _ _ => rfl
    unfold State.sendLanding
    dsimp only
    rw [hrest]
    rfl
  · refine ⟨s.joined i l, _, s.sendLanding i l (s.joined i l), execLand_eq hl hack (State.mayLand_of hack hr), rfl, fun y hy => State.mem_joined hy, ?_⟩
    unfold State.sendLanding
    dsimp only
    rw [foldl_add_db]
    cases hcoll : l.coll with
    | none => exact ⟨rfl, rfl, rfl, rfl, rfl⟩
    | some c => exact ⟨rfl, rfl, rfl, rfl, rfl⟩
  · show execLand i s = _
    simp only [execLand, hl, State.mayLand_early (.inl hrmt) hpass, Bool.not_false, Bool.or_true]
    rfl

section
variable {s : State} {k : CoreKey} {op i : Nat} {o : CopyOp} {p : Piece} {sp : Space} {a : Nat}

/-- A piece of a started copy that has not begun is read. -/
theorem execEngine_copy_todo (ho : (s.core k).copies.find? (fun o => o.id == op) = some o) (hp : o.pieces[i]? = some p)
    (hstarted : o.started = true) (hst : p.st = .todo) : exec (.engine (.copy k op) i) s = .next (s.copyRead k o i p []) := by
  show Host.Outcome.next (s.engineCopy k op i) = _
  simp only [State.engineCopy, ho, hp, hstarted, hst]
  rfl

/-- One that has read all its bytes is written. -/
theorem execEngine_copy_read {bs : List Byte} (ho : (s.core k).copies.find? (fun o => o.id == op) = some o) (hp : o.pieces[i]? = some p)
    (hstarted : o.started = true) (hst : p.st = .read bs) (hlen : p.len ≤ bs.length) :
    exec (.engine (.copy k op) i) s = .next (s.copyWrite k o i p bs) := by
  show Host.Outcome.next (s.engineCopy k op i) = _
  simp only [State.engineCopy, ho, hp, hstarted, hst, if_neg (Nat.not_lt.mpr hlen)]
  rfl

/-- The first read of a piece at a local level. -/
theorem State.copyRead_local (hlv : o.slv ≠ .global)
    (hplace : s.engPlace o.team o.key o.die o.slv p.src (min p.len (32 - p.src.toNat % 32)) = .mem sp a)
    (hspoil : s.spoiledAt sp ((List.range (min p.len (32 - p.src.toNat % 32))).map (fun j => a + j)) = false) :
    s.copyRead k o i p [] = s.modCopy k o.id (fun y =>
      { y.setPiece i { p with st := .read (s.locRead sp a (min p.len (32 - p.src.toNat % 32))) } with note := o.note }) := by
  have hnext : p.nextRead ([] : List Byte).length = (p.src, min p.len (32 - p.src.toNat % 32)) := by
    simp only [Piece.nextRead, List.length_nil, BitVec.add_zero, Nat.sub_zero]
  unfold State.copyRead
  rw [hnext]
  dsimp only
  split
  · next h => exact absurd h hlv
  all_goals
    rw [hplace]
    dsimp only
    rw [hspoil, List.nil_append]
    rfl

/-- The write of a piece at a local level. -/
theorem State.copyWrite_local {bs : List Byte} (hlv : o.dlv ≠ .global)
    (hplace : s.engPlace o.team o.key o.die o.dlv p.dst p.len = .mem sp a) : s.copyWrite k o i p bs =
      ((s.storeLoc sp (bs.mapIdx (fun j b => (a + j, b)))).copyWrote k o i p { o.note with fault := none } none).reeval := by
  unfold State.copyWrite
  dsimp only
  split
  · next h => exact absurd h hlv
  all_goals rw [hplace]

end

theorem copyEngineSteps : Claims.CopyEngineSteps := by
  intro s k op i o p sp a ho hp hstarted
  refine ⟨fun hst hlv hplace hspoil => ?_, fun bs hst hlen hlv hplace => ?_⟩
  · rw [execEngine_copy_todo ho hp hstarted hst, State.copyRead_local hlv hplace hspoil]
  · rw [execEngine_copy_read ho hp hstarted hst hlen, State.copyWrite_local hlv hplace]

/-- Settles O50: landings that join are one request with the sum of their bytes; a piece between scratchpads is read and written at its place. -/
theorem engineSteps : Obligations.EngineSteps := ⟨landingsSend, copyEngineSteps⟩

end Sys2Proof.Machine

/-! ### The matrix engine performs the head of its queue -/
namespace Sys2Proof.Machine

section
variable {s : State} {k : CoreKey} {e : TileEnt} {rest : List TileEnt} {tid : Nat} {t : Team}

theorem State.badTile_sound (h : s.badTiles = []) (rs : List (Nat × Nat)) : s.badTile rs = false := by
  rw [State.badTile, h]
  rfl

theorem State.mendTiles_sound (h : s.badTiles = []) (rs : List (Nat × Nat)) : s.mendTiles rs = s := by
  rw [State.mendTiles, h]
  rfl

theorem State.mendScratch_sound (h : s.spoiled = []) (rs : List (Nat × Nat)) : s.mendScratch rs = s := by
  rw [State.mendScratch, h]
  rfl

theorem State.spoiledAt_sound (h : s.spoiled = []) (sp : Space) (as : List Nat) : s.spoiledAt sp as = false := by
  rw [State.spoiledAt, h]
  rfl

/-- The head of the queue has been performed: it is counted, and leaves. -/
def State.popTile (s : State) (k : CoreKey) (key : CtxKey) (op : TileOp) (rest : List TileEnt) : State :=
  (s.countTile key op).modCore k (fun c => { c with tileQ := rest })

/-- A head that reads a damaged word leaves with no effect. -/
theorem execTileOpExecute_bad (ho : s.tileOwner k = some (tid, t)) (hq : (s.core k).tileQ = e :: rest) (hbad : s.badTile (e.op.reads k) = true) :
    exec (.tileOpExecute k) s = .next ((s.loseTile k tid t.key e 5).tryEnd tid) := by
  show execTileOpExecute k s = _
  simp only [execTileOpExecute, ho, hq, hbad]
  rfl

/-- An mmacg at the head is performed by its own step. -/
theorem execTileOpExecute_macro {x : Macro} (ho : s.tileOwner k = some (tid, t)) (hq : (s.core k).tileQ = e :: rest)
    (hsound : s.badTiles = []) (hx : e.op.macro? = some x) : exec (.tileOpExecute k) s = .next s := by
  show execTileOpExecute k s = _
  simp only [execTileOpExecute, ho, hq, State.badTile_sound hsound, State.mendTiles_sound hsound, ite_self]
  cases hop : e.op with
  | mmacg => rfl
  | _ => rw [hop] at hx; cases hx

/-- The operations that change the tile state alone. -/
theorem execTileOpExecute_tiles {tiles : Memory} (ho : s.tileOwner k = some (tid, t)) (hq : (s.core k).tileQ = e :: rest)
    (hsound : s.badTiles = []) (htiles : (∃ acc i, e.op = .zero acc i ∧ tiles = zeroTile s.tiles k acc i) ∨
      (∃ f r c, e.op = .mmac f r c ∧ tiles = MmacF.perform f s.tiles k r c) ∨
      ∃ f rm b r c, e.op = .cvt f rm b r c ∧ tiles = TcvtF.perform f s.tiles k rm b r c) :
    exec (.tileOpExecute k) s = .next ((State.popTile { s with tiles := tiles } k t.key e.op rest).tryEnd tid) := by
  show execTileOpExecute k s = _
  simp only [execTileOpExecute, ho, hq, State.badTile_sound hsound, State.mendTiles_sound hsound, ite_self]
  rcases htiles with ⟨acc, i, hop, rfl⟩ | ⟨f, r, c, hop, rfl⟩ | ⟨f, rm, b, r, c, hop, rfl⟩ <;> rw [hop] <;> rfl

/-- A move of tile rows. -/
theorem execTileOpExecute_move {store : Bool} {rows : List (Nat × Nat)} {c r n base : Nat} {gk : GKey} {g : Group}
    (ho : s.tileOwner k = some (tid, t)) (hq : (s.core k).tileQ = e :: rest) (hsound : s.badTiles = []) (hspoiled : s.spoiled = [])
    (hst : t.st = .resident c r n) (hbase : base = scratchAt k (r * t.s)) (hgk : s.findGroup tid e.gidx = some gk) (hg : s.group? gk = some g)
    (hmoves : e.op.moves = some (store, rows)) : exec (.tileOpExecute k) s =
      if s.locReady gk g e.own e.id .scratch (rows.map (fun q => (base + q.1, q.2))) = false then .next s
      else if store then .next ((State.popTile { s with scratch := moveRows s.tiles s.scratch base (e.op.place k) rows false } k t.key e.op
        rest).reeval.tryEnd tid)
      else .next ((State.popTile { s with tiles := moveRows s.scratch s.tiles base (e.op.place k) rows true } k t.key e.op rest).tryEnd tid) := by
  show execTileOpExecute k s = _
  simp only [execTileOpExecute, ho, hq, State.badTile_sound hsound, State.mendTiles_sound hsound, ite_self]
  rw [hst]
  have hcond : ∀ b : Bool, ((!b) = true) = (b = false) := fun b => by cases b <;> simp
  cases hop : e.op with
  | ld | st | accLd | accSt =>
    rw [hop] at hmoves
    simp only [hmoves, hgk, hg, State.mendScratch_sound hspoiled, State.spoiledAt_sound hspoiled, hcond, ← hbase]
    rfl
  | _ => rw [hop] at hmoves; cases hmoves

/-! #### mmacg -/

variable {x : Macro} {j : Nat}

theorem execMmacgChunk_waits (ho : s.tileOwner k = some (tid, t)) (hq : (s.core k).tileQ = e :: rest) (hx : e.op.macro? = some x)
    (hj : j = if e.begun then (s.core k).mprog.toNat else 0) (h : ∃ l ∈ x.lines j, ∀ g ∈ e.got, g.chunk ≠ j ∨ g.vline ≠ l.1) :
    exec (.mmacgChunk k) s = .next s := by
  have hall : (x.lines j).all (fun l => e.got.any (fun g => g.chunk == j && g.vline == l.1)) = false := by
    obtain ⟨l, hl, hno⟩ := h
    refine List.all_eq_false.mpr ⟨l, hl, ?_⟩
    rw [Bool.not_eq_true, List.any_eq_false]
    intro g hg hyes
    obtain ⟨hc, hv⟩ := Bool.and_eq_true_iff.mp hyes
    exact (hno g hg).elim (fun h => h (beq_iff_eq.mp hc)) (fun h => h (beq_iff_eq.mp hv))
  have hchunk : chunkOf (s.core k) e = j := hj.symm
  show execMmacgChunk k s = _
  simp only [execMmacgChunk, ho, hq, hx, hchunk, hall]
  rfl

/-- The mmacg at the head begins. -/
theorem State.beginMacro_frame (s : State) (k : CoreKey) (e : TileEnt) (hq : (s.core k).tileQ = e :: rest) :
    (s.beginMacro k e).tiles = s.tiles ∧ (s.beginMacro k e).mem = s.mem ∧ (s.beginMacro k e).badTiles = s.badTiles ∧
      ((s.beginMacro k e).core k).tileQ.tail = rest := by
  unfold State.beginMacro
  split
  · exact ⟨rfl, rfl, rfl, by rw [hq]; rfl⟩
  · refine ⟨rfl, rfl, rfl, ?_⟩
    simp only [State.modCore, State.setTileHead, State.setCore_core_self, List.tail_cons, hq]

/-- A chunk that is done: MPROG, the head without its lines, and the queue without a head that is done. -/
def State.chunkDone (s : State) (k : CoreKey) (e : TileEnt) (j : Nat) (last : Bool) : State :=
  let s := (s.setTileHead k e).modCore k (fun c => { c with mprog := BitVec.ofNat 32 (j + 1) })
  let s := if last then s.modCore k (fun c => { c with tileQ := c.tileQ.tail }) else s
  s.repin k

theorem State.chunkDone_spec (s : State) (k : CoreKey) (e : TileEnt) (j : Nat) (last : Bool) :
    (s.chunkDone k e j last).tiles = s.tiles ∧ (s.chunkDone k e j last).mem = s.mem ∧
      ((s.chunkDone k e j last).core k).mprog = BitVec.ofNat 32 (j + 1) ∧
      ((s.chunkDone k e j last).core k).tileQ = if last then (s.core k).tileQ.tail else e :: (s.core k).tileQ.tail := by
  cases last <;> exact ⟨rfl, rfl, by simp [State.chunkDone, State.repin, State.modCore, State.setTileHead],
    by simp [State.chunkDone, State.repin, State.modCore, State.setTileHead]⟩

theorem execMmacgChunk_done (ho : s.tileOwner k = some (tid, t)) (hq : (s.core k).tileQ = e :: rest) (hx : e.op.macro? = some x)
    (hhalt : s.tileHalting tid t = false) (hsound : s.badTiles = []) (hj : j = if e.begun then (s.core k).mprog.toNat else 0)
    (h : ∀ l ∈ x.lines j, ∃ g ∈ e.got, g.chunk = j ∧ g.vline = l.1) :
    ∃ u : State, exec (.mmacgChunk k) s = .next (u.tryEnd tid) ∧ u.tiles = x.perform e s.tiles k j ∧ u.mem = s.mem ∧
      (u.core k).mprog = BitVec.ofNat 32 (j + 1) ∧
      (u.core k).tileQ = (if j + 1 = x.kk / 64 then rest
        else { e with begun := true, got := e.got.filter (fun g => g.chunk ≠ j) } :: rest) := by
  have hall : (x.lines j).all (fun l => e.got.any (fun g => g.chunk == j && g.vline == l.1)) = true := by
    refine List.all_eq_true.mpr fun l hl => ?_
    obtain ⟨g, hg, hc, hv⟩ := h l hl
    exact List.any_eq_true.mpr ⟨g, hg, by simp [hc, hv]⟩
  have hchunk : chunkOf (s.core k) e = j := hj.symm
  obtain ⟨htiles, hmem, hbad, htail⟩ := s.beginMacro_frame k e hq
  obtain ⟨u, hu⟩ : ∃ u, u = s.beginMacro k e := ⟨_, rfl⟩
  rw [← hu] at htiles hmem hbad htail
  obtain ⟨cs, hcount⟩ := State.count_frame { u with tiles := x.perform e u.tiles k j } t.key (idxProduct x.f.fa x.f.fb)
    (popc64 x.mrows * popc64 x.ncols * 64)
  have hstep : exec (.mmacgChunk k) s = .next ((State.chunkDone { u with tiles := x.perform e u.tiles k j, ctxs := cs } k
      { e with begun := true, got := e.got.filter (fun g => g.chunk ≠ j) } j (decide (j + 1 = x.kk / 64))).tryEnd tid) := by
    show execMmacgChunk k s = _
    simp only [execMmacgChunk, ho, hq, hx, hchunk, hall, hhalt, ← hu, State.badTile_sound (hbad.trans hsound),
      State.mendTiles_sound (hbad.trans hsound), hcount, State.chunkDone, decide_eq_true_eq, Bool.and_false]
    rfl
  obtain ⟨ht, hm, hp, hqu⟩ := State.chunkDone_spec { u with tiles := x.perform e u.tiles k j, ctxs := cs } k
    { e with begun := true, got := e.got.filter (fun g => g.chunk ≠ j) } j (decide (j + 1 = x.kk / 64))
  have htail' : (State.core { u with tiles := x.perform e u.tiles k j, ctxs := cs } k).tileQ.tail = rest := htail
  refine ⟨_, hstep, ht.trans (by rw [htiles]), hm.trans hmem, hp, ?_⟩
  rw [hqu, htail']
  simp only [decide_eq_true_eq]

end

/-- Settles O51: where nothing is damaged, the head of the queue changes the tile state, or one memory, as its operation says. -/
theorem tileExecution : Obligations.TileExecution := by
  refine ⟨fun s k e rest tid t left ho hq => ⟨execTileOpExecute_bad ho hq, fun hsound hspoiled hleft => ?_⟩,
    fun s k e rest tid t x j ho hq hx hhalt hsound hj => ⟨execMmacgChunk_waits ho hq hx hj, execMmacgChunk_done ho hq hx hhalt hsound hj⟩⟩
  obtain rfl : left = fun s => State.modCore s k (fun c => { c with tileQ := rest }) := funext hleft
  refine ⟨fun acc i hop => ?_, fun f r c hop => ?_, fun f rm b r c hop => ?_, fun x hx => execTileOpExecute_macro ho hq hsound hx, ?_⟩
  · rw [execTileOpExecute_tiles ho hq hsound (.inl ⟨acc, i, hop, rfl⟩), hop]
    rfl
  · rw [execTileOpExecute_tiles ho hq hsound (.inr (.inl ⟨f, r, c, hop, rfl⟩)), hop]
    rfl
  · rw [execTileOpExecute_tiles ho hq hsound (.inr (.inr ⟨f, rm, b, r, c, hop, rfl⟩)), hop]
    rfl
  · intro store place rows c r n gk g base hst hbase hgk hg hop
    have hmoves : e.op.moves = some (store, rows) ∧ e.op.place k = place ∧
        ∀ (u : State), u.countTile t.key e.op = u.countBytes t.key .group (rows.map (fun q => q.2)).sum := by
      rcases hop with ⟨tl, side, b, p, hop, rfl, rfl⟩ | ⟨acc, b, p, hop, rfl, rfl⟩ <;> cases store <;> rw [hop] <;> exact ⟨rfl, rfl, fun _ => rfl⟩
    obtain ⟨hmoves, hplace, hcount⟩ := hmoves
    have hstep := execTileOpExecute_move ho hq hsound hspoiled hst hbase hgk hg hmoves
    rw [hplace] at hstep
    refine ⟨fun hw => ?_, fun hgo => ⟨fun hs => ?_, fun hs => ?_⟩⟩
    · rw [hstep, if_pos hw]
    · rw [hstep, if_neg (by rw [hgo]; decide), hs, if_neg Bool.false_ne_true, State.popTile, hcount]
    · rw [hstep, if_neg (by rw [hgo]; decide), hs, if_pos rfl, State.popTile, hcount]

end Sys2Proof.Machine

/-! ### Flags and shuttle packets on their way -/
namespace Sys2Proof.Machine

/-! #### Flags -/

section
variable {s : State} {i l : Nat} {f : Flag}

theorem State.flagClear_of_passed (hwaits : f.waits = []) (hts : ∀ e ∈ f.ts, e.2 = 0 ∨ passed (s.wall e.1) e.2 = true) : s.flagClear f = true := by
  simp only [State.flagClear, hwaits, List.all_nil, Bool.true_and, List.all_eq_true, Bool.or_eq_true, beq_iff_eq]
  exact hts

/-- No flag of a number is on its way. -/
def State.NoFlag (s : State) (i : Nat) : Prop := ∀ q ∈ s.flags, q.id ≠ i

theorem State.flagInPlace_flags (s : State) (i : Nat) (p : PendWrite) (hf : s.flags.find? (fun f => f.id == i) = some f) :
    (s.flagInPlace i p).flags = (({ s with flags := s.flags.filter (fun x => x.id ≠ i) } : State).writeInPlace f.team f.gidx 2 i [p]).flags := by
  simp only [State.flagInPlace, hf]
  obtain ⟨gs, ts, h⟩ := (({ s with flags := s.flags.filter (fun x => x.id ≠ i) } : State).writeInPlace f.team f.gidx 2 i [p]).modMember_frame
    f.team f.gidx (fun g => g.noteGwm p)
  obtain ⟨ts', h'⟩ := State.modTeam_frame ({ (({ s with flags := s.flags.filter (fun x => x.id ≠ i) } : State).writeInPlace
    f.team f.gidx 2 i [p]) with groups := gs, teams := ts }) f.team (fun t => { t with gwct := max t.gwct p.t })
  rw [h, h']

/-- A flag that is in place leaves; of the others what they wait for changes. -/
theorem State.mem_flagInPlace {j : Nat} {p : PendWrite} {q : Flag} (h : q ∈ (s.flagInPlace j p).flags) :
    q.id ≠ j ∧ ∃ r ∈ s.flags, r.id = q.id := by
  cases hf : s.flags.find? (fun f => f.id == j) with
  | none =>
    have hflags : (s.flagInPlace j p).flags = s.flags := by simp only [State.flagInPlace, hf]
    rw [hflags] at h
    exact ⟨by simpa using List.find?_eq_none.mp hf q h, q, h, rfl⟩
  | some f =>
    rw [s.flagInPlace_flags j p hf] at h
    obtain ⟨r, hr, rfl⟩ := List.mem_map.mp h
    obtain ⟨hr, hne⟩ := List.mem_filter.mp hr
    have hid : (if r.team = f.team ∧ r.gidx = f.gidx ∧ r.waits.contains (2, j) then
      { r with waits := r.waits.filter (fun w => w ≠ (2, j))
               ts := r.ts ++ (([p] : List PendWrite).filter (fun p => lineMod p.line == r.m)).map (fun p => (p.at_, p.t)) } else r).id = r.id := by
      split <;> rfl
    exact ⟨by rw [hid]; simpa using hne, r, hr, hid.symm⟩

/-- One finished write, as its origin asks. -/
def State.settleOne (s : State) (p : PendWrite) : State :=
  match p.origin with
  | .engine e => s.raiseHz e p.t
  | .flag i => s.flagInPlace i p
  | .entry .. | .lane .. | .host => s

theorem State.settlePend_flags (s : State) :
    s.settlePend.flags = ((s.pend.filter (fun p => p.wait.isEmpty)).foldl State.settleOne s).flags := rfl

theorem State.NoFlag.settleOne (h : s.NoFlag i) (p : PendWrite) : (s.settleOne p).NoFlag i := by
  unfold State.settleOne
  split
  · cases ‹EngInst› <;> exact h
  · intro q hq
    obtain ⟨-, r, hr, hid⟩ := State.mem_flagInPlace hq
    exact hid ▸ h r hr
  all_goals exact h

theorem State.NoFlag.settleAll (ps : List PendWrite) (h : s.NoFlag i) : (ps.foldl State.settleOne s).NoFlag i := by
  induction ps generalizing s with
  | nil => exact h
  | cons p ps ih => exact ih (h.settleOne p)

/-- A finished write of a flag takes the flag away. -/
theorem State.noFlag_settleAll {p : PendWrite} (ho : p.origin = .flag i) {ps : List PendWrite} (hp : p ∈ ps) (s : State) :
    (ps.foldl State.settleOne s).NoFlag i := by
  induction ps generalizing s with
  | nil => exact absurd hp List.not_mem_nil
  | cons a ps ih =>
    rcases List.mem_cons.mp hp with rfl | hp
    · refine State.NoFlag.settleAll ps fun q hq => ?_
      rw [State.settleOne, ho] at hq
      exact (State.mem_flagInPlace hq).1
    · exact ih hp _

theorem State.noFlag_settlePend {p : PendWrite} (hp : p ∈ s.pend) (hwait : p.wait = []) (ho : p.origin = .flag i) : s.settlePend.NoFlag i := by
  intro q hq
  rw [State.settlePend_flags] at hq
  exact State.noFlag_settleAll ho (List.mem_filter.mpr ⟨hp, by rw [hwait]; rfl⟩) s q hq

/-- A write to a line that no proxy holds waits for no acknowledgement. -/
theorem State.claimLine_wait (hlock : (s.line l).lock = none) (hdir : (s.line l).dir = .uncached) (w : Nat) : (s.claimLine l w).2.2 = [] := by
  obtain ⟨u, hu⟩ : ∃ u, u = s.setLine l (s.line l).write := ⟨_, rfl⟩
  have hshare : u.sharers l = [] := by
    have hline : (u.line l).dir = .uncached := by rw [hu, State.setLine_line_self]; exact hdir
    rw [State.sharers, hline]
  rw [State.claimLine, Line.point_home hlock hdir, ← hu]
  dsimp only
  split
  · rfl
  · exact hshare

theorem State.putWrite_wait (hregs : s.hasRegs l = false) (hlock : (s.line l).lock = none) (hdir : (s.line l).dir = .uncached) (m : Nat) (cov : List Nat)
    (new : Memory) (o : Origin) : ∃ p ∈ (s.putWrite m l cov new o).2.pend, p.wait = [] ∧ p.origin = o := by
  obtain ⟨u, hu⟩ : ∃ u, u = s.mend cov := ⟨_, rfl⟩
  have hregs' : u.hasRegs l = false := by rw [hu, State.mend_hasRegs]; exact hregs
  have hline : u.line l = s.line l := by rw [hu]; rfl
  obtain ⟨ms, hnew⟩ := u.newBytes_frame l new
  have hnewLine : (u.newBytes l new).line l = s.line l := by rw [hnew]; exact hline
  have hwait : (u.store l new cov m).2.2 = [] := by
    rw [State.store, hregs', if_neg Bool.false_ne_true, State.writeLine_eq]
    exact State.claimLine_wait (by rw [hnewLine]; exact hlock) (by rw [hnewLine]; exact hdir) m
  rw [State.putWrite, ← hu]
  obtain ⟨r, hr⟩ : ∃ r, r = u.store l new cov m := ⟨_, rfl⟩
  rw [← hr] at hwait ⊢
  obtain ⟨-, ⟨ls, rs, hframe⟩, -⟩ := r.1.finishWrite_spec l r.2.1 r.2.2 o m ((s.line l).point.mod l)
  rw [hframe]
  exact ⟨_, List.mem_append_right _ (List.mem_singleton_self _), hwait, rfl⟩

theorem execFlagApply_arrive {ba : DWord} (hf : s.flags.find? (fun f => f.id == i) = some f) (hreq : f.req = none) (hperf : f.performed = false)
    (href : f.refused = false) (hclear : s.flagClear f = true) (hba : f.ba = some ba) : ∃ t : State, exec (.flagApply i) s = .next { t with
      barq := s.barq ++ [⟨s.farObj f.key f.k.die f.m ba, .step true 0, .flag, (s.peer f.key f.m).getD f.key, f.team⟩] } ∧
      t.flags = s.flags.filter (fun x => x.id ≠ i) ∧ t.mem = s.mem ∧ t.groups = s.groups := by
  obtain ⟨rs, h⟩ := State.replyTo_frame { s with flags := s.flags.filter (fun x => x.id ≠ i) } (.flag i) .done
  refine ⟨{ s with flags := s.flags.filter (fun x => x.id ≠ i), reqs := rs }, ?_, rfl, rfl, rfl⟩
  rw [show exec (.flagApply i) s = execFlagApply i s from rfl]
  simp only [execFlagApply, hf, hreq, hperf, href, hclear, hba]
  simp only [Option.isNone_some, Bool.false_and, Bool.not_true, Bool.or_false, Bool.false_eq_true, if_false, Option.isNone_none, if_true, h]
  rfl

theorem execFlagApply_store (hf : s.flags.find? (fun f => f.id == i) = some f) (hreq : f.req = none) (hperf : f.performed = false)
    (href : f.refused = false) (hclear : s.flagClear f = true) (hacq : (s.member? f.team f.gidx).any (fun g => g.acqBlocks f.mask f.ord) = false)
    (hba : f.ba = none) (hl : l = lineOf f.pa) (hmoved : s.movedLine l = false) {w : Nat} {u : State}
    (hwrite : s.tryWrite f.k.m l [] ((List.range f.bytes.length).map (fun j => f.pa + j)) (fun m => mwriteN m f.pa f.bytes) (.flag i) = some (w, u)) :
    exec (.flagApply i) s = .next ((u.countBytes f.key .group f.bytes.length).setFlag { f with performed := true }).settlePend := by
  subst hl
  rw [show exec (.flagApply i) s = execFlagApply i s from rfl]
  simp only [execFlagApply, hf, hreq, hperf, href, hclear, hba, hacq, hmoved, hwrite]
  rfl

theorem flagStored (hf : s.flags.find? (fun f => f.id == i) = some f) (hreq : f.req = none) (hperf : f.performed = false)
    (href : f.refused = false) (hclear : s.flagClear f = true) (hacq : (s.member? f.team f.gidx).any (fun g => g.acqBlocks f.mask f.ord) = false)
    (hregs : s.hasRegs l = false) (hba : f.ba = none) (hl : l = lineOf f.pa) (hmoved : s.movedLine l = false)
    (hlost : s.homeLost (128 * l) = false) (hred : (s.line l).red = none) (hlock : (s.line l).lock = none) (hdir : (s.line l).dir = .uncached)
    (hpin : s.pinnedBy (lineMod l) l = false) (hx : s.xlatClear l [] = true) (hroom : s.switchRoom l (mwriteN s.mem f.pa f.bytes) = true) :
    ∃ t : State, exec (.flagApply i) s = .next t ∧ t.mem = mwriteN s.mem f.pa f.bytes ∧ ∀ q ∈ t.flags, q.id ≠ i := by
  have hwrite := State.tryWrite_home (m := f.k.m) (cov := (List.range f.bytes.length).map (fun j => f.pa + j)) (f := fun m => mwriteN m f.pa f.bytes)
    (o := .flag i) hmoved hlost hred hlock hdir hpin hx hroom
  obtain ⟨r, hr⟩ : ∃ r, r = s.putWrite f.k.m l ((List.range f.bytes.length).map (fun j => f.pa + j)) (mwriteN s.mem f.pa f.bytes) (.flag i) :=
    ⟨_, rfl⟩
  obtain ⟨-, -, -, hmem, -⟩ := hr ▸ s.putWrite_spec f.k.m l ((List.range f.bytes.length).map (fun j => f.pa + j)) (mwriteN s.mem f.pa f.bytes) (.flag i)
  obtain ⟨p, hp, hwait, ho⟩ := hr ▸ State.putWrite_wait hregs hlock hdir f.k.m ((List.range f.bytes.length).map (fun j => f.pa + j))
    (mwriteN s.mem f.pa f.bytes) (.flag i)
  rw [← hr] at hwrite
  refine ⟨_, execFlagApply_store hf hreq hperf href hclear hacq hba hl hmoved hwrite, ?_, ?_⟩
  · obtain ⟨xs, hcount⟩ := r.2.count_frame f.key (idxBytes .group) f.bytes.length
    obtain ⟨_, _, _, _, _, _, _, hsettle⟩ := State.Settled.settlePend ((r.2.countBytes f.key .group f.bytes.length).setFlag { f with performed := true })
    rw [hsettle, State.countBytes, hcount]
    exact hmem hregs
  · refine State.noFlag_settlePend (p := p) ?_ hwait ho
    obtain ⟨xs, hcount⟩ := r.2.count_frame f.key (idxBytes .group) f.bytes.length
    rw [State.countBytes, hcount]
    exact hp

end

end Sys2Proof.Machine

/-! ### Shuttle packets on their way -/
namespace Sys2Proof.Machine

section
variable {s : State} {i : Nat} {p : Shuttle}

/-- A packet that its module may step, or stop. -/
structure State.Steps (s : State) (i : Nat) (p : Shuttle) : Prop where
  found : s.shuttles.find? (fun p => p.id == i) = some p
  open_ : p.res = none
  routed : s.routed p.k.m p.at_ = true
  left : p.i ≠ p.nstep
  early : s.wall p.at_ + 32 < p.deadline
  acq : ∀ g f, s.member? p.team p.gidx = some g → g.flight? p.fl = some f → g.acqBlocks f.own f.ord = false

theorem State.Steps.notBlocked (h : s.Steps i p) : ((s.member? p.team p.gidx).bind (fun g => g.flight? p.fl)).any
    (fun f => (s.member? p.team p.gidx).any (fun g => g.acqBlocks f.own f.ord)) = false := by
  cases hg : s.member? p.team p.gidx with
  | none => rfl
  | some g =>
    cases hf : g.flight? p.fl with
    | none => simp [hf]
    | some f => simp [hf, h.acq g f hg hf]

theorem State.Steps.go (h : s.Steps i p) : (p.res.isSome || ((s.member? p.team p.gidx).bind (fun g => g.flight? p.fl)).any
    (fun f => (s.member? p.team p.gidx).any (fun g => g.acqBlocks f.own f.ord)) || !s.routed p.k.m p.at_ || p.i == p.nstep ||
    decide (p.deadline ≤ s.wall p.at_ + 32)) = false := by
  rw [h.notBlocked, h.open_, h.routed, beq_false_of_ne h.left, decide_eq_false (Nat.not_le.mpr h.early)]
  rfl

theorem execShuttleStep_cross (h : s.Steps i p) (ha : 24 < p.addr.toNat % 32) :
    exec (.shuttleStep i) s = .next (s.setShuttle { p with res := some (p.addr, 5, p.i) }) := by
  rw [show exec (.shuttleStep i) s = execShuttleStep i s from rfl]
  simp only [execShuttleStep, h.found, h.go, Bool.false_eq_true, if_false, ha, if_true]

theorem execShuttleStep_stop {st : Nat} (h : s.Steps i p) (ha : p.addr.toNat % 32 ≤ 24) (hx : s.shtlXlat p = .inr st) :
    exec (.shuttleStep i) s = .next (s.setShuttle { p with res := some (p.addr, st, p.i) }) := by
  rw [show exec (.shuttleStep i) s = execShuttleStep i s from rfl]
  simp only [execShuttleStep, h.found, h.go, Bool.false_eq_true, if_false, Nat.not_lt.mpr ha, hx]

/-- The packet once it has read its word. -/
def Shuttle.advance (p : Shuttle) (pa : Nat) (w : DWord) : Shuttle := { p with
  at_ := paMod pa, die := paDie pa, trav := p.trav + traversals p.at_ (paMod pa), word := w, i := p.i + 1
  addr := if p.i + 1 = p.nstep then p.addr else p.nextAddr w (p.i + 1)
  res := if p.i + 1 = p.nstep then some (w, 0, 0) else none }

theorem Shuttle.advance_eq (hres : p.res = none) (pa : Nat) (w : DWord) :
    (if p.i + 1 = p.nstep then
      { p with at_ := paMod pa, die := paDie pa, trav := p.trav + traversals p.at_ (paMod pa), word := w, i := p.i + 1, res := some (w, 0, 0) }
    else { p with at_ := paMod pa, die := paDie pa, trav := p.trav + traversals p.at_ (paMod pa), word := w, i := p.i + 1
                  addr := p.nextAddr w (p.i + 1) }) = p.advance pa w := by
  unfold Shuttle.advance
  split
  · rfl
  · rw [hres]

theorem State.peekN_plain {a n : Nat} (h : s.hasRecords (lineOf a) = false) : s.peekN a n = mreadN s.mem a n := by
  rw [State.peekN, show a / 128 = lineOf a from rfl, h]
  rfl

/-- The packet goes on with the word of memory. -/
theorem execShuttleStep_read {pa : Nat} (h : s.Steps i p) (ha : p.addr.toNat % 32 ≤ 24) (hx : s.shtlXlat p = .inl pa)
    (hops : p.trav + traversals p.at_ (paMod pa) ≤ 10)
    (hgo : paMod pa = p.at_ ∨ (s.sectorBusy p.at_ (pa / 32) = false ∧ s.wall (paMod pa) + 32 < p.deadline))
    (hmoved : s.movedLine (lineOf pa) = false) (hsound : s.damagedAt pa 8 = false) (hred : (s.line (lineOf pa)).red = none)
    (hblock : s.readBlocked (paMod pa) (lineOf pa) = false)
    (hrec : s.hasRecords (lineOf pa) = false) : ∃ t : State, t.mem = s.mem ∧ t.shuttles = s.shuttles ∧
      exec (.shuttleStep i) s = .next (t.setShuttle (p.advance pa (BitVec.ofNat 64 (mnat s.mem pa 8)))) := by
  have hhops : ¬ 12 < p.trav + traversals p.at_ (paMod pa) + 2 := by omega
  have hbusy : ¬ (paMod pa ≠ p.at_ ∧ s.sectorBusy p.at_ (pa / 32) = true) := by
    rintro ⟨hne, hb⟩
    rcases hgo with hm | ⟨hfree, -⟩
    · exact hne hm
    · rw [hfree] at hb
      exact absurd hb (by decide)
  have hlate : ¬ (paMod pa ≠ p.at_ ∧ p.deadline ≤ s.wall (paMod pa) + 32) := by
    rintro ⟨hne, hd⟩
    rcases hgo with hm | ⟨-, hearly⟩
    · exact hne hm
    · omega
  have hword : ofBytes (s.peekN pa 8) = mnat s.mem pa 8 := by rw [State.peekN_plain hrec]; rfl
  rw [show exec (.shuttleStep i) s = execShuttleStep i s from rfl]
  unfold execShuttleStep
  rw [h.found]
  dsimp -zeta only
  extract_lets fl acq stop
  rw [if_neg (by rw [h.go]; exact Bool.false_ne_true), if_neg (Nat.not_lt.mpr ha), hx]
  dsimp -zeta only
  extract_lets m hops' l u w v r q
  rw [if_neg hhops, if_neg hbusy, if_neg hlate, if_neg (by rw [hmoved]; exact Bool.false_ne_true),
    if_neg (by rw [hsound]; exact Bool.false_ne_true), if_neg (by rw [hblock]; exact Bool.false_ne_true)]
  have hu : u = s := State.redFirst_of_red_none hred
  have hw : w = BitVec.ofNat 64 (mnat s.mem pa 8) := by simp only [w]; rw [hu, hword]
  obtain ⟨xs, hv⟩ : ∃ xs, v = { s with ctxs := xs } := by simp only [v]; rw [hu]; exact s.count_frame ..
  have hr : r.mem = s.mem ∧ r.shuttles = s.shuttles := by
    simp only [r]
    obtain ⟨gs, ts, hmem⟩ := State.modMember_frame _ p.team p.gidx _
    rw [hmem]
    obtain ⟨cs, ds, xs', ws, ys, n, c, hnote, -⟩ := AccessNoted.noteTouch v _ p.k.c ((fl.map (·.hits)).getD []) [(p.addr, 8)]
    rw [hnote, hv]
    exact ⟨rfl, rfl⟩
  refine ⟨r, hr.1, hr.2, ?_⟩
  rw [← hw]
  exact congrArg (fun q => Host.Outcome.next (r.setShuttle q)) (Shuttle.advance_eq h.open_ pa w)

end

/-! #### Results come back -/

section
variable {s : State} {k : GKey} {fl : Nat} {p : Shuttle}

/-- The packets of an instruction. -/
def State.packets (s : State) (k : GKey) (fl : Nat) : List Shuttle := s.shuttles.filter (fun p => p.k == k && p.fl == fl && !p.dead)

theorem execShuttleReturn_result {v : DWord} {st ix : Nat} (hp : (s.packets k fl).find? (fun p => p.res.isSome) = some p)
    (hres : p.res = some (v, st, ix)) (hlate : passed (s.wall k.m) p.deadline = false) : exec (.shuttleReturn k fl) s =
      .next (({ s with shuttles := s.shuttles.filter (fun x => x.id ≠ p.id), freeCtr := s.freeCtr + 1 } : State).shtlResult p v st ix) := by
  unfold State.packets at hp
  rw [show exec (.shuttleReturn k fl) s = execShuttleReturn k fl s from rfl]
  simp only [execShuttleReturn, hp, hres, hlate, Bool.false_and, Bool.false_eq_true, if_false]

/-- A packet that its deadline has passed, and that goes no further. -/
def State.failPacket (s : State) (k : GKey) (fl : Nat) (p : Shuttle) : State :=
  let u := if p.res.isNone && 0 < p.i && p.i < p.nstep && p.at_ != k.m then s.staleShuttle p p.at_ else s
  let fl? := (u.group? k).bind (fun g => g.flight? fl)
  let v := u.dropStitches (fun y => y.lane == p.lane && fl?.any (fun f => y.of k f.ord))
  (v.setShuttle { p with dead := true }).noteReqFail k.m p.key p.team p.start ((fl?.map (·.pc)).getD 0) (v.targetModule p.key p.start) k.g

theorem execShuttleReturn_late (hnone : (s.packets k fl).find? (fun p => p.res.isSome) = none)
    (hp : (s.packets k fl).find? (fun p => passed (s.wall k.m) p.deadline) = some p) :
    exec (.shuttleReturn k fl) s = .next ((s.failPacket k fl p).shtlResult p p.start 8 7) := by
  unfold State.packets at hnone hp
  rw [show exec (.shuttleReturn k fl) s = execShuttleReturn k fl s from rfl]
  simp only [execShuttleReturn, hnone, hp]
  rfl

theorem State.dropStitches_frame (s : State) (q : Stitch → Bool) : ∃ m ys, s.dropStitches q = { s with mem := m, stitches := ys } := by
  unfold State.dropStitches
  obtain ⟨m, h⟩ := foldl_rel (R := fun s t : State => ∃ m, t = { s with mem := m }) (fun s => ⟨s.mem, rfl⟩)
    (fun _ _ _ ⟨_, h⟩ ⟨m, h'⟩ => ⟨m, by rw [h', h]⟩)
    (f := fun s (y : Stitch) => s.setDbg y.key 0xD0 (min (s.dbg y.key 0xD0 / 2 ^ 32 + 1) (2 ^ 32 - 1) * 2 ^ 32 + s.dbg y.key 0xD0 % 2 ^ 32))
    (fun s y => by
      unfold State.setDbg
      split
      · exact ⟨_, rfl⟩
      · exact ⟨s.mem, rfl⟩) (s.stitches.filter q) (if (s.stitches.filter q).isEmpty then s else { s with stitches := s.stitches.filter (fun y => !q y) })
  refine ⟨m, if (s.stitches.filter q).isEmpty then s.stitches else s.stitches.filter (fun y => !q y), ?_⟩
  rw [show _ = _ from h]
  split <;> rfl

theorem State.failPacket_keeps (s : State) (k : GKey) (fl : Nat) (p : Shuttle) : (s.failPacket k fl p).groups = s.groups ∧
    ((∀ y ∈ s.stitches, y.lane ≠ p.lane) → (s.failPacket k fl p).mem = s.mem) := by
  unfold State.failPacket
  extract_lets u fl? v
  obtain ⟨ms, ss, hu⟩ : ∃ ms ss, u = { s with mods := ms, shuttles := ss } := by
    simp only [u]
    split
    · exact ⟨_, _, rfl⟩
    · exact ⟨s.mods, s.shuttles, rfl⟩
  obtain ⟨m, ys, hv⟩ := u.dropStitches_frame (fun y => y.lane == p.lane && fl?.any (fun f => y.of k f.ord))
  have hend (x : State) (pc : DWord) (tgt : Nat) : (x.noteReqFail k.m p.key p.team p.start pc tgt k.g).groups = x.groups ∧
      (x.noteReqFail k.m p.key p.team p.start pc tgt k.g).mem = x.mem := by
    obtain ⟨xs, h⟩ := State.modCtx_frame (x.modModule k.m (fun c => { c with fab := { c.fab with reqfail := min (c.fab.reqfail + 1) (2 ^ 32 - 1) } })) p.key _
    rw [show x.noteReqFail k.m p.key p.team p.start pc tgt k.g = _ from h]
    exact ⟨rfl, rfl⟩
  refine ⟨?_, fun hst => ?_⟩
  · rw [(hend ..).1, show v = _ from hv, hu]
    rfl
  · have hv' : v = u := by
      refine State.dropStitches_none (List.filter_eq_nil_iff.mpr fun y hy => ?_)
      have hne : y.lane ≠ p.lane := hst y (by rw [hu] at hy; exact hy)
      simp [hne]
    rw [(hend ..).2, hv', hu]
    rfl

end

end Sys2Proof.Machine

/-! ### Collective streams on their way, and failed collectives -/
namespace Sys2Proof.Machine

section
variable {s : State} {i : Nat} {x : Stream} {key : CtxKey} {o : CollOp}

/-- The request that carries a stream has arrived, or the stream is held already. -/
def State.streamThere (s : State) (x : Stream) : Bool :=
  match x.req with
  | none => true
  | some r => x.held.isSome || s.reqReady r

theorem State.streamThere_of_held {h : Nat} (hheld : x.held = some h) : s.streamThere x = true := by
  unfold State.streamThere
  rw [hheld]
  cases x.req <;> rfl

theorem State.streamThere_of_ready (hready : ∀ r, x.req = some r → s.reqReady r = true) : s.streamThere x = true := by
  unfold State.streamThere
  cases hreq : x.req with
  | none => rfl
  | some r =>
    dsimp only
    rw [hready r hreq, Bool.or_true]

/-- What a stream that is there meets. -/
def execThere (i : Nat) (x : Stream) (s : State) : Out :=
  let rest := { s with streams := s.streams.filter (fun y => y.id ≠ i) }
  let ack (s : State) (r : Reply) := if x.held.isSome then s else s.replyTo (.stream i) r
  match x.holder.orElse (fun _ => s.peer x.key x.dst) with
  | none => .next (ack rest .noPeer)
  | some key =>
    let taker := s.colls.find? (fun o => o.key == key && o.sg == x.sg && o.seq == x.seq)
    if !s.collAccepted key x.sg x.seq || taker.any s.collHeld then
      if x.held.isSome then .next s
      else .next (ack { rest with streams := rest.streams ++ [{ x with held := some (s.wall x.dst), holder := some key }] } .done)
    else
      let earlier := (s.streams.takeWhile (fun y => y.id != i || x.held.isNone)).any (fun y => y.id != i && y.held.isSome &&
        y.dst == x.dst && y.sg == x.sg && y.seq == x.seq && y.holder == some key)
      if earlier then .next s
      else match taker with
        | some o => .next ((ack rest .done).collTake o x)
        | none => .next (ack rest .done)

theorem execCollStreamReceive_there (hx : s.streams.find? (fun x => x.id == i) = some x) (hthere : s.streamThere x = true) :
    execCollStreamReceive i s = execThere i x s := by
  unfold execCollStreamReceive
  rw [hx]
  dsimp -zeta only
  extract_lets there
  rw [if_neg (by rw [show there = true from hthere]; decide)]
  rfl

/-- Whether a stream of the same operation has been held since before this one came. -/
def State.streamBefore (s : State) (i : Nat) (x : Stream) (key : CtxKey) : Bool :=
  (s.streams.takeWhile (fun y => y.id != i || x.held.isNone)).any (fun y => y.id != i && y.held.isSome &&
    y.dst == x.dst && y.sg == x.sg && y.seq == x.seq && y.holder == some key)

theorem State.streamBefore_none (h : ∀ y ∈ s.streams, y.id ≠ i → y.held = none) : s.streamBefore i x key = false := by
  refine List.any_eq_false.mpr fun y hy => ?_
  have hy := List.takeWhile_subset _ hy
  by_cases hid : y.id = i
  · simp [hid]
  · simp [h y hy hid]

/-- The operation of a context that a stream is for. -/
def State.taker? (s : State) (key : CtxKey) (x : Stream) : Option CollOp :=
  s.colls.find? (fun o => o.key == key && o.sg == x.sg && o.seq == x.seq)

theorem execCollStreamReceive_held {h : Nat} (hx : s.streams.find? (fun x => x.id == i) = some x) (hheld : x.held = some h)
    (hholder : x.holder = some key) (hacc : s.collAccepted key x.sg x.seq = true) (hfirst : ∀ y ∈ s.streams, y.id ≠ i → y.held = none)
    (ho : s.taker? key x = some o) (hfree : s.collHeld o = false) :
    exec (.collStreamReceive i) s = .next (State.collTake { s with streams := s.streams.filter (fun y => y.id ≠ i) } o x) := by
  have hthere : s.streamThere x = true := State.streamThere_of_held hheld
  have hbefore := State.streamBefore_none (x := x) (key := key) hfirst
  unfold State.streamBefore at hbefore
  unfold State.taker? at ho
  rw [show exec (.collStreamReceive i) s = execCollStreamReceive i s from rfl, execCollStreamReceive_there hx hthere]
  simp only [execThere, hholder, Option.orElse_some, hacc, ho, Option.any_some, hfree, hbefore, Bool.not_true,
    Bool.or_false, Bool.false_eq_true, if_false]
  simp only [hheld, Option.isSome_some, if_true]

theorem execCollStreamReceive_arrives (hx : s.streams.find? (fun x => x.id == i) = some x) (hheld : x.held = none)
    (hholder : x.holder = none) (hready : ∀ r, x.req = some r → s.reqReady r = true) (hpeer : s.peer x.key x.dst = some key)
    (hacc : s.collAccepted key x.sg x.seq = true) (hfirst : ∀ y ∈ s.streams, y.held = none) (ho : s.taker? key x = some o)
    (hfree : s.collHeld o = false) : exec (.collStreamReceive i) s = .next (State.collTake (State.replyTo { s with
      streams := s.streams.filter (fun y => y.id ≠ i) } (.stream i) .done) o x) := by
  have hthere := State.streamThere_of_ready hready
  have hbefore := State.streamBefore_none (i := i) (x := x) (key := key) fun y hy _ => hfirst y hy
  unfold State.streamBefore at hbefore
  unfold State.taker? at ho
  rw [show exec (.collStreamReceive i) s = execCollStreamReceive i s from rfl, execCollStreamReceive_there hx hthere]
  simp only [execThere, hholder, Option.orElse_none, hpeer, hacc, ho, Option.any_some, hfree, hbefore, Bool.not_true,
    Bool.or_false, Bool.false_eq_true, if_false]
  simp only [hheld, Option.isSome_none, Bool.false_eq_true, if_false]

theorem execCollStreamReceive_noPeer (hx : s.streams.find? (fun x => x.id == i) = some x) (hheld : x.held = none)
    (hholder : x.holder = none) (hready : ∀ r, x.req = some r → s.reqReady r = true) (hpeer : s.peer x.key x.dst = none) :
    exec (.collStreamReceive i) s = .next (State.replyTo { s with streams := s.streams.filter (fun y => y.id ≠ i) } (.stream i) .noPeer) := by
  have hthere := State.streamThere_of_ready hready
  rw [show exec (.collStreamReceive i) s = execCollStreamReceive i s from rfl, execCollStreamReceive_there hx hthere]
  simp only [execThere, hholder, Option.orElse_none, hpeer]
  simp only [hheld, Option.isSome_none, Bool.false_eq_true, if_false]

theorem execCollStreamReceive_early (hx : s.streams.find? (fun x => x.id == i) = some x) (hheld : x.held = none)
    (hholder : x.holder = none) (hready : ∀ r, x.req = some r → s.reqReady r = true) (hpeer : s.peer x.key x.dst = some key)
    (hacc : s.collAccepted key x.sg x.seq = false) : exec (.collStreamReceive i) s = .next (State.replyTo { s with
      streams := s.streams.filter (fun y => y.id ≠ i) ++ [{ x with held := some (s.wall x.dst), holder := some key }] } (.stream i) .done) := by
  have hthere := State.streamThere_of_ready hready
  rw [show exec (.collStreamReceive i) s = execCollStreamReceive i s from rfl, execCollStreamReceive_there hx hthere]
  simp only [execThere, hholder, Option.orElse_none, hpeer, hacc, Bool.not_false, Bool.true_or, if_true]
  simp only [hheld, Option.isSome_none, Bool.false_eq_true, if_false]

/-- The requests of an operation that is over are closed. -/
theorem State.dropAsks_frame (s : State) (n : EngNote) : ∃ rs, s.dropAsks n = { s with reqs := rs } := by
  unfold State.dropAsks
  exact foldl_rel (R := fun s t : State => ∃ rs, t = { s with reqs := rs }) (fun s => ⟨s.reqs, rfl⟩)
    (fun _ _ _ ⟨_, h⟩ ⟨rs, h'⟩ => ⟨rs, by rw [h', h]⟩) (fun s e => ⟨_, rfl⟩) n.sent s

theorem execCollFail_fails {op : Nat} {cause : CollCause} (ho : s.colls.find? (fun o => o.id == op) = some o)
    (hfail : o.failing = some cause ∨ s.starved o cause = true) :
    ∃ t : State, exec (.collFail op cause) s = .next (t.pendTeam o.team o.gidx ⟨0x17, 0, 0, o.pc, o.sg⟩) ∧
      t.colls = s.colls.filter (fun x => x.id ≠ op) ∧ t.landings = s.landings.filter (fun l => l.coll ≠ some op) ∧ t.mem = s.mem ∧
      t.collLost = s.collLost ++ [(o.key, o.sg, o.seq, o.me, cause)] := by
  have hgo : ¬ (o.failing ≠ some cause ∧ (!(cause == .lost && o.members.any (fun m => (s.module m).lost))) = true ∧ (!s.starved o cause) = true) := by
    rintro ⟨hne, -, hfed⟩
    rcases hfail with h | h
    · exact hne h
    · rw [h] at hfed
      exact absurd hfed (by decide)
  rw [show exec (.collFail op cause) s = execCollFail op cause s from rfl]
  unfold execCollFail
  rw [ho]
  dsimp -zeta only
  extract_lets lost code asks u v
  rw [if_neg hgo]
  refine ⟨v, rfl, ?_⟩
  obtain ⟨rs, hasks⟩ := s.dropAsks_frame o.note
  obtain ⟨xs, hv⟩ := State.modCtx_frame u o.key (fun c =>
    if c.err.length < 1024 then { c with err := c.err ++ [u.errRec o.key o.team 0x08 0 o.pc
        (BitVec.ofNat 64 (o.sg + 2 ^ 8 * code + 2 ^ 12 * (o.landed % 2 ^ 32) + 2 ^ 44 * (o.seq % 2 ^ 20))) o.key.m 0] }
    else { c with logovf := min (c.logovf + 1) (2 ^ 32 - 1) })
  rw [show v = _ from hv]
  simp only [u, show asks = _ from hasks]
  exact ⟨trivial, trivial, trivial, trivial⟩

end

/-- Settles O52: flags, shuttle packets, streams and failed collectives, step by step. -/
theorem podSteps : Obligations.PodSteps := by
  unfold Obligations.PodSteps
  refine ⟨⟨?_, ?_, ?_, ?_, ?_⟩, ?_, ?_, ?_⟩
  · intro s i f ba hf hreq hperf href hwaits hts hba
    exact execFlagApply_arrive hf hreq hperf href (State.flagClear_of_passed hwaits hts) hba
  · intro s i l f hf hreq hperf href hwaits hts hacq hregs hba hl hmoved hlost hred hlock hdir hpin hx hroom
    exact flagStored hf hreq hperf href (State.flagClear_of_passed hwaits hts) hacq hregs hba hl hmoved hlost hred hlock hdir hpin hx hroom
  · intro s i p hp hres hroute hi hearly hacq
    have h : s.Steps i p := ⟨hp, hres, hroute, hi, hearly, hacq⟩
    refine ⟨execShuttleStep_cross h, ?_, fun st => execShuttleStep_stop h⟩
    rintro pa ha hx hops hgo hmoved hsound hred hrec w rfl
    exact execShuttleStep_read h ha hx hops hgo hmoved hsound hred (State.readBlocked_of_red_none hred) hrec
  · intro s k fl p v st ix hp hres hlate
    exact ⟨_, execShuttleReturn_result hp hres hlate, rfl, rfl, rfl⟩
  · intro s k fl p hnone hp
    exact ⟨_, execShuttleReturn_late hnone hp, s.failPacket_keeps k fl p⟩
  · intro s i h x key o hx hheld hholder hacc hfirst ho hfree
    exact execCollStreamReceive_held hx hheld hholder hacc hfirst ho hfree
  · intro s i x hx hheld hholder hready
    refine ⟨fun key o hpeer hacc hfirst ho hfree => execCollStreamReceive_arrives hx hheld hholder hready hpeer hacc hfirst ho hfree,
      fun hpeer => ?_, fun key hpeer hacc => ?_⟩
    · refine ⟨_, execCollStreamReceive_noPeer hx hheld hholder hready hpeer, ?_⟩
      obtain ⟨rs, h⟩ := State.replyTo_frame { s with streams := s.streams.filter (fun y => y.id ≠ i) } (.stream i) .noPeer
      rw [h]
      exact ⟨rfl, rfl, rfl⟩
    · refine ⟨_, execCollStreamReceive_early hx hheld hholder hready hpeer hacc, ?_⟩
      obtain ⟨rs, h⟩ := State.replyTo_frame { s with
        streams := s.streams.filter (fun y => y.id ≠ i) ++ [{ x with held := some (s.wall x.dst), holder := some key }] } (.stream i) .done
      rw [h]
      exact ⟨rfl, rfl, rfl⟩
  · intro s op cause o ho hfail
    exact execCollFail_fails ho hfail

end Sys2Proof.Machine

/-! ### Two gathers of one number -/
namespace Sys2Proof.Machine

/-! The counterexample to O53: a context with a shard group of two members and a pool of four frames, and two gathers of one number, of
which the one holds the pool's first frame. When the other begins, its record takes the place of both, so that the first frame counts as
free again and is the one it takes; the statement names the second. -/
namespace TwinGathers

/-- The context of the counterexample. -/
def key : CtxKey := ⟨0, 0⟩
def params : CtxParams where
  k := key
  ptroot := 0x100000
  handler := 0
  quantumUs := 1000
  locklim := 65536
  mind := 1
  weight := 1
  pksMib := 0
  poolBase := 0x40000000
  poolN := 4
  lowat := 1
  sgTable := 0x500000
  shardStaging := 2
  dbgBase := 0x600000
  errBase := 0x610000
  collBase := 0x620000
  shardBase := 0x630000
  saveBase := 0x10000000
  saveLen := 0
  peers := [(0, 0), (1, 0)]

/-- The entry of the page at 0xA00000: Sharded, of group 0. -/
def entry : Nat := 3 * 2 ^ 62 + 2 ^ 59 + 3

/-- The page table down to that entry, and the descriptor of the group with its list of members. -/
def mem : Memory :=
  [(0x100000, 2 ^ 63 + 0x404), (0x101000, 2 ^ 63 + 0x408), (0x102028, entry), (0x500000, 0x800000), (0x500008, 2 ^ 48 + 2 ^ 32 + 2),
    (0x500010, 0x50000000), (0x500018, 0x500800), (0x500020, 0x500C00), (0x500800, 2 ^ 16)].foldl
    (fun m (c : Nat × Nat) => mwriteN m c.1 (toBytes 8 c.2)) State.reset.mem

/-- The gather of the page, which has no place yet. -/
def waiting : Gather :=
  ⟨5, key, 0, 0xA00000, 0, 1, 0x102028, entry, false, 2, 0, 0x50000000, [0, 1], false, none, 0, [], [], [], ⟨0, 0, 0⟩, ⟨[], none, []⟩⟩

/-- A gather of another page under the same number, which holds the first frame. -/
def twin : Gather := { waiting with va := 0x800000, begun := true, frame := some 0x40000000 }

def state : State := { State.reset with mem := mem, ctxs := [(key, Context.fresh params 0)], gathers := [waiting, twin] }

def desc : Desc := ⟨0x500C00, 0x500800, 0x50000000, false, 0, 2, 2, 0x800000⟩

theorem gatherOf_waiting : state.gatherOf key 0xA00000 = some waiting := by decide +kernel
theorem die_sound : (state.die ⟨0, 0⟩).lost = false := by decide +kernel
theorem place_free : state.running 0 0 < 16 := by decide +kernel
theorem nextGather_waiting : state.nextGather waiting = true := by decide +kernel
theorem leaf_entry : state.leaf? key 0xA00000 = some (1, 0x102028, entry) := by decide +kernel
theorem entry_sharded : pteState entry = 1 := by decide +kernel
theorem desc_valid : state.desc? key (pteSgid entry) = some desc := by decide +kernel
theorem pool_there : (state.ctx? key).any (fun c => c.poolLost) = false := by decide +kernel
theorem freeFrames_state : state.freeFrames key = [0x40200000, 0x40400000, 0x40600000] := by decide +kernel

/-- The frame that the gather has after a step. -/
def frameAfter (o : Out) : Option (Option Nat) :=
  match o with
  | .next t => (t.gathers.find? (fun x => x.id == waiting.id)).map (fun x => x.frame)
  | .fault _ | .refused _ => none

theorem frameAfter_start : frameAfter (exec (.gatherStart key 0xA00000) state) = some (some 0x40000000) := by decide +kernel

end TwinGathers

/-- Refutes O53: where two gathers have one number, the start of the one writes its record over both, so that the frame that the other
holds counts as free and is taken, and not the first of the frames that were free. -/
theorem not_shardSteps : ¬ Obligations.ShardSteps := by
  unfold Obligations.ShardSteps
  rintro ⟨⟨hstart, -⟩, -⟩
  obtain ⟨-, -, hbegin, -⟩ := hstart TwinGathers.state TwinGathers.key 0xA00000 TwinGathers.waiting TwinGathers.gatherOf_waiting rfl rfl
    TwinGathers.die_sound
  obtain ⟨t, y, hexec, hfind, -, hframe, -⟩ := hbegin 1 TwinGathers.entry TwinGathers.desc 0x40200000 [0x40400000, 0x40600000] rfl
    TwinGathers.place_free TwinGathers.nextGather_waiting TwinGathers.leaf_entry TwinGathers.entry_sharded TwinGathers.desc_valid
    TwinGathers.pool_there TwinGathers.freeFrames_state
  have htook := TwinGathers.frameAfter_start
  rw [hexec, TwinGathers.frameAfter, hfind, Option.map_some, hframe] at htook
  exact absurd htook (by decide)

end Sys2Proof.Machine

/-! ### The pool, page faults, walks and moved entries -/
namespace Sys2Proof.Machine

/-! #### The fault flush -/

/-- What a step leaves of the faults that the contexts have recorded, and of the modules. -/
def State.KeptRecords (s t : State) : Prop := t.mods = s.mods ∧
  ∀ c ∈ t.ctxs, ∃ d ∈ s.ctxs, d.1 = c.1 ∧ c.2.recorded = d.2.recorded ∧ c.2.stale = d.2.stale

namespace State.KeptRecords
theorem of_ctxs {s t : State} (hmods : t.mods = s.mods) (hctxs : t.ctxs = s.ctxs) : s.KeptRecords t :=
  ⟨hmods, fun c hc => ⟨c, hctxs ▸ hc, rfl, rfl, rfl⟩⟩

theorem refl (s : State) : s.KeptRecords s := of_ctxs rfl rfl

theorem trans {s t u : State} (h : s.KeptRecords t) (h' : t.KeptRecords u) : s.KeptRecords u := by
  refine ⟨h'.1.trans h.1, fun c hc => ?_⟩
  obtain ⟨d, hd, hkey, hrec, hstale⟩ := h'.2 c hc
  obtain ⟨e, he, hkey', hrec', hstale'⟩ := h.2 d hd
  exact ⟨e, he, hkey'.trans hkey, hrec.trans hrec', hstale.trans hstale'⟩

theorem modCtx (s : State) (k : CtxKey) {f : Context → Context} (hrec : ∀ c, (f c).recorded = c.recorded) (hstale : ∀ c, (f c).stale = c.stale) :
    s.KeptRecords (s.modCtx k f) := by
  unfold State.modCtx
  split
  · next x hx =>
    refine ⟨rfl, fun c hc => ?_⟩
    rcases mem_tset hc with rfl | hc
    · exact ⟨(k, x), mem_of_tget hx, rfl, hrec x, hstale x⟩
    · exact ⟨c, hc, rfl, rfl, rfl⟩
  · exact refl s

theorem setTeam (s : State) (team : Nat) (x : Team) : s.KeptRecords (s.setTeam team x) := of_ctxs rfl rfl

theorem modTeam (s : State) (team : Nat) (f : Team → Team) : s.KeptRecords (s.modTeam team f) := by
  obtain ⟨ts, h⟩ := s.modTeam_frame team f
  rw [h]
  exact of_ctxs rfl rfl

theorem makeRunnable (s : State) (team : Nat) : s.KeptRecords (s.makeRunnable team) := by
  unfold State.makeRunnable
  split
  · exact refl s
  · split
    · split
      · exact setTeam ..
      · exact (setTeam ..).trans (modCtx _ _ (fun _ => rfl) (fun _ => rfl))
    all_goals exact refl s

theorem foldl {α : Type} {f : State → α → State} (h : ∀ s a, State.KeptRecords s (f s a)) (l : List α) (s : State) :
    s.KeptRecords (l.foldl f s) := foldl_rel refl (fun _ _ _ => trans) h l s

theorem wake (s : State) (key : CtxKey) (p : Replay → Bool) (f : Replay → Replay) : s.KeptRecords (s.wake key p f) := by
  unfold State.wake
  refine trans ?_ (foldl (fun s e => ?_) _ _)
  · split
    · exact of_ctxs rfl rfl
    · exact refl s
  · split
    · exact (modTeam ..).trans (makeRunnable ..)
    · exact refl s
end State.KeptRecords

/-- A pass that keeps the records keeps a module's generation, and leaves no record of its contexts where there was none. -/
theorem State.KeptRecords.passes {v : State} {f : State → CtxKey × Context → State} {m : Nat} (hf : ∀ s c, State.KeptRecords s (f s c))
    (old : List (CtxKey × Context)) {gen : Byte} (hgen : (v.module m).fb.gen = gen)
    (hv : ∀ c ∈ v.ctxs, c.1.m = m → c.2.recorded = [] ∧ c.2.stale = []) : ((old.foldl f v).module m).fb.gen = gen ∧ ∀ c ∈ (old.foldl f v).ctxs, c.1.m = m → c.2.recorded = [] ∧ c.2.stale = [] := by
  obtain ⟨hmods, hctxs⟩ := State.KeptRecords.foldl hf old v
  refine ⟨by rw [State.module, hmods]; exact hgen, fun c hc hm => ?_⟩
  obtain ⟨d, hd, hkey, hrec, hstale⟩ := hctxs c hc
  rw [hrec, hstale]
  exact hv d hd (by rw [hkey]; exact hm)

theorem execFaultFlush_forgets {s : State} {m : Nat} (h : (mnat s.mem (s.fbBlock m + 0x18) 8).testBit 8 = true) :
    ∃ t : State, exec (.faultFlush m) s = .next t ∧ (t.module m).fb.gen = (s.module m).fb.gen + 1 ∧
      ∀ c ∈ t.ctxs, c.1.m = m → c.2.recorded = [] ∧ c.2.stale = [] := by
  rw [show exec (.faultFlush m) s = execFaultFlush m s from rfl]
  unfold execFaultFlush
  extract_lets b md put get mem mem' fb u old v
  rw [if_neg (by rw [h]; decide)]
  have hgen : (u.module m).fb.gen = md.fb.gen + 1 := by
    have hset := State.setModule_module_self { s with mem := mem' } m { md with fb := { md.fb with gen := md.fb.gen + 1 } }
    exact congrArg (fun x : Module => x.fb.gen) hset
  have hv : ∀ c ∈ v.ctxs, c.1.m = m → c.2.recorded = [] ∧ c.2.stale = [] := by
    intro c hc hm
    obtain ⟨d, -, hd⟩ := List.mem_map.mp hc
    by_cases hmod : d.1.m = m
    · rw [if_pos hmod] at hd
      rw [← hd]
      exact ⟨rfl, rfl⟩
    · rw [if_neg hmod] at hd
      exact absurd (hd ▸ hm) hmod
  refine ⟨_, rfl, State.KeptRecords.passes (v := v) (fun s c => ?_) old hgen hv⟩
  split
  · exact .refl s
  · exact .wake ..

/-! #### The pool -/

section
variable {s : State} {k : CtxKey} {va : DWord} {lvl pa e : Nat}

theorem execDrainStart_starts {t : State} {d : Desc} {y : Shev}
    (hy : s.shevs.find? (fun x => x.key == k && pageOf x.va == pageOf va && x.on.isNone && !s.shardHeld x.id) = some y)
    (hleaf : s.leaf? k va = some (lvl, pa, e)) (he : pteState e = 3) (hd : s.desc? k (pteSgid e) = some d)
    (ht : s.startDrain k va pa e d ⟨y.team, y.grp, y.pc⟩ = some t) :
    exec (.drainStart k va) s = .next { t with shevs := t.shevs.map (fun (x : Shev) =>
      if x.key == k && pageOf x.va == pageOf va && x.on.isNone &&
        !s.shardHeld x.id then { x with on := (t.drainOf k va).map (fun g => g.id) } else x) } := by
  have hany : s.shevs.any (fun x => x.key == k && pageOf x.va == pageOf va && x.on.isNone && !s.shardHeld x.id) = true :=
    have hmine := List.find?_some hy
    List.any_eq_true.mpr ⟨y, List.mem_of_find?_eq_some hy, hmine⟩
  rw [show exec (.drainStart k va) s = execDrainStart k va s from rfl]
  simp only [execDrainStart, hany, hleaf, he, hd, hy, Option.map_some, Option.getD_some, ht]
  rfl

section
variable (hwait : s.someWaits k (pageOf va) .absent = true) (hleaf : s.leaf? k va = some (lvl, pa, e))
include hwait hleaf

theorem execAbsentAllocate_changed (he : pteState e ≠ 6) : exec (.absentAllocate k va) s = .next (s.wakePage k (pageOf va)) := by
  rw [show exec (.absentAllocate k va) s = execAbsentAllocate k va s from rfl]
  simp only [execAbsentAllocate, hwait, hleaf, Bool.not_true, Bool.false_eq_true, if_false, he, ne_eq, not_false_eq_true, true_or, if_true]

theorem execAbsentAllocate_dry (he : pteState e = 6) (hfree : s.freeFrames k = []) (hpool : (s.ctx? k).any (fun c => c.poolLost) = false) :
    exec (.absentAllocate k va) s = .next (s.poolEmpty k va (entryDie pa) (pteSgid e)) := by
  rw [show exec (.absentAllocate k va) s = execAbsentAllocate k va s from rfl]
  simp only [execAbsentAllocate, hwait, hleaf, Bool.not_true, Bool.false_eq_true, if_false, he, ne_eq, not_true_eq_false, false_or, hpool,
    hfree]

theorem execAbsentAllocate_serves {f w : Nat} {fs : List Nat} {t t' u : State} (he : pteState e = 6)
    (hpool : (s.ctx? k).any (fun c => c.poolLost) = false) (hfree : s.freeFrames k = f :: fs)
    (ht : s.shardWrite k.m (entryDie pa) f (List.replicate (2 ^ 21) 0#8) (2 ^ 14) = some t)
    (ht' : t' = { t.count k (idxBytes .shard) (2 ^ 21) with nextId := (t.count k (idxBytes .shard) (2 ^ 21)).nextId + 1 })
    (hu : ((t'.noteEngine k (entryDie pa * 48) (s.firstWaiter k (pageOf va)) .shard true [] (BitVec.ofNat 64 (pageOf va * 2 ^ 21))
        (2 ^ 21)).1.modCtx k (fun c => { c with
      frames := c.frames ++ [(f, pa, va, pteSgid e, (t.count k (idxBytes .shard) (2 ^ 21)).nextId)] })).casEntry k (entryDie pa) pa e
        (pteWith e 3 f) = some (some w, u)) :
    exec (.absentAllocate k va) s = .next ((u.stateNote k (entryDie pa) (pteSgid e) (u.shardPage k (pteSgid e) va) 0 3).wakePage k
      (pageOf va)).settlePend := by
  subst ht'
  rw [show exec (.absentAllocate k va) s = execAbsentAllocate k va s from rfl]
  unfold execAbsentAllocate
  rw [hwait, hleaf]
  simp only [Bool.not_true, Bool.false_eq_true, if_false, he, ne_eq, not_true_eq_false, false_or, hpool, hfree, ht, State.fresh, hu]

end

theorem execPoolPressure_above {c : Context} (hc : s.ctx? k = some c) (hpool : c.poolLost = false) (hfree : c.p.lowat ≤ (s.freeFrames k).length) :
    exec (.poolPressure k) s = .next s := by
  rw [show exec (.poolPressure k) s = execPoolPressure k s from rfl]
  simp only [execPoolPressure, hc, hpool, Bool.false_eq_true, if_false, hfree, if_true]

theorem execPoolPressure_releases {c : Context} {f w : Nat} {t : State} (hc : s.ctx? k = some c) (hpool : c.poolLost = false)
    (hfree : (s.freeFrames k).length < c.p.lowat) (hpage : s.pressurePage k c = some (f, pa, va)) (he : pteState (s.entryAt pa) = 2)
    (ht : s.casEntry k (entryDie pa) pa (s.entryAt pa) (pteWith (s.entryAt pa) 1 0) = some (some w, t)) :
    exec (.poolPressure k) s = .next (t.stateNote k (entryDie pa) (pteSgid (s.entryAt pa))
      (s.shardPage k (pteSgid (s.entryAt pa)) va) 0 1).settlePend := by
  have hrelease : s.release k va pa (s.entryAt pa) = some (some w, t.stateNote k (entryDie pa) (pteSgid (s.entryAt pa))
      (s.shardPage k (pteSgid (s.entryAt pa)) va) 0 1) := by
    rw [State.release, ht]
    rfl
  rw [show exec (.poolPressure k) s = execPoolPressure k s from rfl]
  simp only [execPoolPressure, hc, hpool, Bool.false_eq_true, if_false, Nat.not_le.mpr hfree, hpage, he, if_true, hrelease]

theorem execFrameReturn_frees {c : Context} {frame : Nat} (hc : s.ctx? k = some c) (hret : frame ∈ c.returning)
    (hlines : ∀ e ∈ s.lines, frame ≤ e.1 * 128 → e.1 * 128 < frame + 2 ^ 21 →
      e.2.lock = none ∧ (e.2.lease = 0 ∨ passed (s.wall k.m) e.2.lease = true))
    (hpins : ∀ x ∈ s.cores, ∀ l ∈ x.2.pins, ¬ (frame ≤ l * 128 ∧ l * 128 < frame + 2 ^ 21)) :
    exec (.frameReturn k frame) s = .next (s.setCtx k { c with
      frames := c.frames.filter (fun f => f.1 ≠ frame), returning := c.returning.filter (fun f => f ≠ frame) }) := by
  have hline : s.lines.any (fun e => (decide (frame ≤ e.1 * 128) && decide (e.1 * 128 < frame + 2 ^ 21)) &&
      (e.2.lock.isSome || !(e.2.lease == 0 || passed (s.wall k.m) e.2.lease))) = false := by
    refine List.any_eq_false.mpr fun e he hbad => ?_
    simp only [Bool.and_eq_true, decide_eq_true_eq] at hbad
    obtain ⟨⟨hlo, hhi⟩, hbusy⟩ := hbad
    obtain ⟨hlock, hlease⟩ := hlines e he hlo hhi
    rcases hlease with h | h <;> simp [hlock, h] at hbusy
  have hpin : s.cores.any (fun x => x.2.pins.any (fun l => decide (frame ≤ l * 128) && decide (l * 128 < frame + 2 ^ 21))) = false := by
    refine List.any_eq_false.mpr fun x hx hbad => ?_
    obtain ⟨l, hl, hin⟩ := List.any_eq_true.mp hbad
    simp only [Bool.and_eq_true, decide_eq_true_eq] at hin
    exact hpins x hx l hl hin
  rw [show exec (.frameReturn k frame) s = execFrameReturn k frame s from rfl]
  simp only [execFrameReturn, hc, List.contains_iff_mem.mpr hret, Bool.not_true, hline, hpin, Bool.or_false, Bool.false_eq_true,
    if_false]

end

/-- Settles O54: each step of the pool, of the page faults and of the walks is computed under its hypotheses. -/
theorem pageSteps : Obligations.PageSteps := by
  unfold Obligations.PageSteps
  refine ⟨⟨?_, ?_, ?_, ?_⟩, ?_, fun s m h => execFaultFlush_forgets h, fun s m frame => rfl⟩
  · intro s t k va lvl pa e d y hy hleaf he hd ht
    exact execDrainStart_starts hy hleaf he hd ht
  · intro s k va lvl pa e hwait hleaf
    refine ⟨execAbsentAllocate_changed hwait hleaf, ?_, execAbsentAllocate_dry hwait hleaf⟩
    intro f fs t t' u w c hc hpool he hfree ht ht' hu
    exact execAbsentAllocate_serves hwait hleaf he (by rw [hc]; exact hpool) hfree ht ht' hu
  · intro s k c hc hpool
    exact ⟨execPoolPressure_above hc hpool, fun f pa va w t hfree hpage he ht => execPoolPressure_releases hc hpool hfree hpage he ht⟩
  · intro s k c frame hc hret hlines hpins
    exact execFrameReturn_frees hc hret hlines hpins
  · intro s d k va kind hm hlost
    have hstep : exec (.pageWalk d k va kind) s = execPageWalk d k va kind s := rfl
    refine ⟨fun hneeds => ?_, fun hneeds => ?_⟩
    · have hgo : ¬ (d.m ≠ k.m ∨ (s.die d).lost = true ∨ s.needs d k va = false) := by simp [hm, hlost, hneeds]
      rw [hstep]
      unfold execPageWalk
      rw [if_neg hgo]
      cases kind <;> rfl
    · rw [hstep]
      unfold execPageWalk
      rw [if_pos (Or.inr (Or.inr hneeds))]

end Sys2Proof.Machine

/-! ### Teams become resident, give way, and the clock advances -/
namespace Sys2Proof.Machine

/-! #### Waiters -/

theorem State.Noticed.setGroup (s : State) (k : GKey) (g : Group) : s.Noticed (s.setGroup k g) := ⟨_, s.teams, s.ctxs, rfl⟩

theorem State.Noticed.modTeam (s : State) (team : Nat) (f : Team → Team) : s.Noticed (s.modTeam team f) := by
  obtain ⟨ts, h⟩ := s.modTeam_frame team f
  exact ⟨s.groups, ts, s.ctxs, h⟩

theorem State.Noticed.reevalFrag (s : State) (k : GKey) (sl : Slot) : s.Noticed (s.reevalFrag k sl) := by
  unfold State.reevalFrag
  split
  · exact .refl s
  · split
    · exact .refl s
    · split
      · exact .refl s
      · split
        · dsimp only
          split
          · exact .refl s
          · exact .setGroup ..
        · split
          · exact .refl s
          · exact (State.Noticed.setGroup ..).trans (.modTeam ..)

/-- Whoever waits is woken: of the state groups, teams and contexts change. -/
theorem State.Noticed.reeval (s : State) : s.Noticed s.reeval := by
  unfold State.reeval
  refine State.Noticed.trans (foldl (fun s e => (reevalFrag ..).trans (reevalFrag ..)) _ s) (foldl (fun s e => ?_) _ _)
  split
  · exact of_inTeams (.makeRunnable ..)
  · exact refl s

/-! #### A region that reads zero -/

theorem nget_filter_out {β : Type} (d : β) (m : NMap β) (p : Nat → Bool) {a : Nat} (h : p a = false) : nget d (m.filter (fun c => p c.1)) a = d := by
  induction m with
  | nil => rfl
  | cons c m ih =>
    obtain ⟨b, v⟩ := c
    rw [List.filter_cons]
    split
    · next hb =>
      have hne : b ≠ a := fun hab => by rw [hab, h] at hb; exact absurd hb (by decide)
      simp only [nget, hne, if_false, ih]
    · exact ih

theorem mread_mclear_inside (m : Memory) {a n x : Nat} (hlo : a ≤ x) (hhi : x < a + n) : mread (mclear m a n) x = 0#8 :=
  nget_filter_out 0#8 m (fun x => decide (x < a) || decide (a + n ≤ x)) (by simp; omega)

theorem State.regrant_frame (s : State) (gk : GKey) (g : Group) : ∃ ls, s.regrant gk g = { s with lines := ls } := by
  unfold State.regrant
  refine foldl_rel (R := fun s t : State => ∃ ls, t = { s with lines := ls }) (fun s => ⟨s.lines, rfl⟩)
    (fun _ _ _ ⟨_, h⟩ ⟨ls, h'⟩ => ⟨ls, by rw [h', h]⟩) (fun s h => ?_) g.locks s
  split
  · exact ⟨s.lines, rfl⟩
  · split
    · exact ⟨_, rfl⟩
    · exact ⟨s.lines, rfl⟩

theorem State.openInterval_frame (s : State) (k : CtxKey) (c : Nat) : ∃ cs, s.openInterval k c = { s with ctxs := cs } := by
  unfold State.openInterval
  split
  · exact ⟨s.ctxs, rfl⟩
  · exact s.modCtx_frame ..

/-- The scratchpads once a team is placed. -/
theorem State.place_scratch (s : State) (id : Nat) (t : Team) (k : CoreKey) (r : Nat) : (s.place id t k r).scratch =
    mpaste (mclear s.scratch (scratchAt k (r * t.s)) t.s) (scratchAt k (r * t.s)) (if t.fresh then [] else t.region) := by
  unfold State.place
  extract_lets now cyc u imgs placed v w x y z
  obtain ⟨cs, hu⟩ := s.openInterval_frame t.key k.c
  obtain ⟨cs', hz⟩ := y.modCtx_frame t.key (fun c => { c with runnable := c.runnable.filter (fun x => x ≠ id) })
  obtain ⟨ls, hgrant⟩ := foldl_rel (R := fun s t : State => ∃ ls, t = { s with lines := ls }) (fun s => ⟨s.lines, rfl⟩)
    (fun _ _ _ ⟨_, h⟩ ⟨ls, h'⟩ => ⟨ls, by rw [h', h]⟩)
    (fun (s : State) (e : Nat × Nat × Group) => s.regrant_frame ⟨k.m, k.c, e.1⟩ e.2.2) placed z
  obtain ⟨gs, ts, cs'', hend⟩ := State.Noticed.reeval (placed.foldl (fun (s : State) (e : Nat × Nat × Group) => s.regrant ⟨k.m, k.c, e.1⟩ e.2.2) z)
  rw [hend, hgrant, show z = _ from hz]
  simp only [y, x, w, v, u, hu]
  rfl

theorem State.place_fresh {s : State} {id r a : Nat} {t : Team} {c : CoreKey} (hfresh : t.fresh = true) (hlo : scratchAt c (r * t.s) ≤ a)
    (hhi : a < scratchAt c (r * t.s) + t.s) : mread (s.place id t c r).scratch a = 0#8 := by
  rw [State.place_scratch, if_pos hfresh]
  exact mread_mclear_inside s.scratch hlo hhi

/-! #### The registers of a group that starts -/

theorem Regs.launch_rdS (args : List DWord) (n : Nat) : (Regs.launch args).rdS n = if 1 ≤ n ∧ n ≤ 4 then args.getD (n - 1) 0#64 else 0#64 := by
  have hlaunch : Regs.launch args = (((((⟨[], [], [], []⟩ : Regs).wrS 1 (args.getD 0 0)).wrS 2 (args.getD 1 0)).wrS 3 (args.getD 2 0)).wrS 4
    (args.getD 3 0)) := rfl
  have hzero : (⟨[], [], [], []⟩ : Regs).rdS n = 0#64 := by simp [Regs.rdS, nget]
  by_cases hn : 1 ≤ n ∧ n ≤ 4
  · obtain ⟨hlo, hhi⟩ := hn
    rw [hlaunch]
    interval_cases n <;> simp [Regs.rdS_wrS]
  · rw [hlaunch, if_neg hn]
    simp only [Regs.rdS_wrS, hzero]
    grind

theorem Regs.launch_rdV (args : List DWord) (n l : Nat) : (Regs.launch args).rdV n l = 0#32 := rfl

/-! #### The scheduler's choice -/

section
variable {s : State} {k : CtxKey} {id r : Nat} {t : Team} {c : CoreKey}

theorem State.makeResident_places {want : Nat → Team → Bool} (hsched : s.schedules k = true) (hhead : s.headTeam k = some id) (ht : s.team? id = some t)
    (hhalt : t.halted = false) (hstop : t.stop = none) (hcore : s.chooseCore k t = some c) (hreg : s.regionFor c t = some r)
    (hwant : want id t = true) : s.makeResident k want = s.place id t c r := by
  simp only [State.makeResident, hsched, hhead, ht, hhalt, hstop, hcore, hreg, hwant]
  rfl

theorem execRestore_places (hsched : s.schedules k = true) (hhead : s.headTeam k = some id) (ht : s.team? id = some t)
    (hhalt : t.halted = false) (hstop : t.stop = none) (hcore : s.chooseCore k t = some c) (hreg : s.regionFor c t = some r)
    (hkey : t.key = k) (hst : t.st = .saved true) : exec (.restore id) s = .next (s.place id t c r) := by
  rw [show exec (.restore id) s = execRestore id s from rfl, execRestore, ht]
  dsimp only
  rw [hkey, State.makeResident_places hsched hhead ht hhalt hstop hcore hreg (by simp [hst])]

end

/-! #### A carve -/

theorem execCarveChange_takes {s : State} {k : CoreKey} {grid id : Nat} {gr : Grid} {t : Team} (hgrid : s.grid? grid = some gr)
    (hhead : s.headTeam gr.key = some id) (ht : s.team? id = some t) (hmine : t.grid = grid) (hsched : s.schedules gr.key = true)
    (hcore : s.chooseCore gr.key t = some k) (hempty : s.teamsOn k = []) (hother : ∀ c, (s.core k).carve = some c → c.grid ≠ grid)
    (hbanks : t.regions * t.s ≤ s.carveBytes k) :
    exec (.carveChange k grid) s = .next (s.modCore k (fun c => { c with carve := some ⟨grid, t.s, t.regions⟩ })).reeval := by
  have hcarve : (s.core k).carve.any (fun c => c.grid == grid) = false := by
    cases hc : (s.core k).carve with
    | none => rfl
    | some c => simpa using hother c hc
  have hgrows : decide (s.carveBytes k < t.regions * t.s) = false := by simpa using hbanks
  rw [show exec (.carveChange k grid) s = execCarveChange k grid s from rfl]
  simp only [execCarveChange, hgrid, hhead, Option.bind_some, ht, hmine, hsched, hcore, hempty, hcarve, hgrows, ne_eq, not_true_eq_false, decide_false,
    Bool.not_true, Bool.or_false, List.isEmpty_nil, Bool.false_and, Bool.false_eq_true, if_false]

/-! #### Groups give way -/

section
variable {s : State} {k : GKey} {g : Group}

theorem execQuantumExpiry_eq {id c r since : Nat} {t : Team} {x : Context} (ht : s.team? id = some t) (hst : t.st = .resident c r since)
    (hx : s.ctx? t.key = some x) (hstop : t.stop = none) (hrun : x.runnable ≠ []) : exec (.quantumExpiry id) s =
      if (x.p.quantumUs * 1000 ≤ s.wall t.key.m - since ∧ s.teamWaits id = true) ∨ 2 * (x.p.quantumUs * 1000) ≤ s.wall t.key.m - since then
        .next (s.haltTeam id) else .next s := by
  have hne : x.runnable.isEmpty = false := by simpa using hrun
  rw [show exec (.quantumExpiry id) s = execQuantumExpiry id s from rfl]
  simp only [execQuantumExpiry, ht, hst, hx, hstop, hne, Option.isNone_none, Bool.not_false, Bool.and_true, Bool.true_and, Bool.or_eq_true,
    Bool.and_eq_true, decide_eq_true_eq]

theorem execRemoteLoadBlock_eq {fl d : Nat} {f : Flight} {z : MSize} (hg : s.group? k = some g) (hf : g.flight? fl = some f)
    (hkind : f.kind = .load z d) (hp : ∃ p ∈ f.parts, p.space = .global ∧ p.bytes = none ∧ paMod p.addr ≠ k.m) :
    exec (.remoteLoadBlock k fl) s = if f.wallAt + 2000 ≤ s.wall k.m then
      .next (s.setGroup k (g.modFlight fl (fun f => { f with blocked := true }))) else .next s := by
  have hany : f.parts.any (fun p => p.space == .global && p.bytes.isNone && paMod p.addr != k.m) = true := by
    obtain ⟨p, hp, hspace, hbytes, hmod⟩ := hp
    exact List.any_eq_true.mpr ⟨p, hp, by simp [hspace, hbytes, hmod]⟩
  rw [show exec (.remoteLoadBlock k fl) s = execRemoteLoadBlock k fl s from rfl]
  simp only [execRemoteLoadBlock, hg, hf, hkind, hany, Bool.true_and, decide_eq_true_eq]

theorem execFaultReplay_eq {r : Replay} (hg : s.group? k = some g) (hr : g.replay = some r) (hlost : r.lost = none) :
    exec (.faultReplay k) s = if r.ready = true then .next (s.setGroup k { g with replay := none }) else .next s := by
  rw [show exec (.faultReplay k) s = execFaultReplay k s from rfl]
  cases hready : r.ready <;> simp [execFaultReplay, hg, hr, hlost, hready]

end

/-! #### The clock -/

theorem tget_of_key {κ β : Type} [DecidableEq κ] {t : Table κ β} {k : κ} (h : k ∈ t.map (·.1)) : ∃ v, tget t k = some v := by
  induction t with
  | nil => exact absurd h List.not_mem_nil
  | cons e t ih =>
    obtain ⟨j, v⟩ := e
    by_cases hj : j = k
    · exact ⟨v, if_pos hj⟩
    · obtain ⟨w, hw⟩ := ih ((List.mem_cons.mp h).resolve_left fun hk => hj hk.symm)
      exact ⟨w, by rw [tget, if_neg hj, hw]⟩

/-- A core after a nanosecond: with groups it is given its share, without it runs through its cycles. -/
def State.tickCore (s : State) (k : CoreKey) (c : Core) : Core :=
  if (s.groupsOn k).isEmpty then
    { c with cycle := c.cycle + (c.credit + s.mhz k) / 1000, credit := (c.credit + s.mhz k) % 1000, scanned := 0 }
  else { c with credit := c.credit + s.mhz k }

theorem clockTick : Claims.ClockTick := by
  intro s hcores
  have hidle : s.cores.any (fun c => decide (1000 ≤ c.2.credit) && !(s.groupsOn c.1).isEmpty) = false := by
    refine List.any_eq_false.mpr fun c hc hbad => ?_
    simp only [Bool.and_eq_true, decide_eq_true_eq, Bool.not_eq_true', List.isEmpty_eq_false_iff] at hbad
    rcases hcores c hc with h | h
    · exact hbad.2 h
    · omega
  rw [show exec .tick s = execTick s from rfl, execTick, hidle]
  refine ⟨_, rfl, fun m hm => ?_, fun k c hc hon => ?_, rfl, rfl⟩
  · obtain ⟨x, hx⟩ := tget_of_key hm
    have hmap := tget_map s.mods (fun e => { e.2 with wall := e.2.wall + 1 }) m
    rw [hx] at hmap
    simp only [State.module, hmap, hx, Option.map_some, Option.getD_some]
  · have hmap := tget_map s.cores (fun e => s.tickCore e.1 e.2) k
    rw [hc, Option.map_some, State.tickCore, if_neg (by simpa using hon)] at hmap
    have hpair (e : CoreKey × Core) : (if (s.groupsOn e.1).isEmpty then
        (e.1, { e.2 with cycle := e.2.cycle + (e.2.credit + s.mhz e.1) / 1000, credit := (e.2.credit + s.mhz e.1) % 1000, scanned := 0 })
        else (e.1, { e.2 with credit := e.2.credit + s.mhz e.1 })) = (e.1, s.tickCore e.1 e.2) := by
      unfold State.tickCore
      split <;> rfl
    simp only [State.core, hpair, hmap, Option.getD_some]

end Sys2Proof.Machine

/-! ### A team leaves its core -/
namespace Sys2Proof.Machine

/-! #### The images in the save area -/

/-- t is s but for bytes of the save area of a context. -/
def State.SavedIn (p : CtxParams) (s t : State) : Prop :=
  ∃ m, t = { s with mem := m } ∧ ∀ a, a < p.saveBase ∨ p.saveBase + p.saveLen ≤ a → mread m a = mread s.mem a

theorem State.SavedIn.refl (p : CtxParams) (s : State) : s.SavedIn p s := ⟨s.mem, rfl, fun _ _ => rfl⟩

theorem State.SavedIn.trans {p : CtxParams} {s t u : State} (h : s.SavedIn p t) (h' : t.SavedIn p u) : s.SavedIn p u := by
  obtain ⟨m, rfl, hm⟩ := h
  obtain ⟨m', rfl, hm'⟩ := h'
  exact ⟨m', rfl, fun a ha => (hm' a ha).trans (hm a ha)⟩

theorem State.SavedIn.fillArea (p : CtxParams) (s : State) (ctr : Nat) : s.SavedIn p (s.fillArea p ctr) := by
  unfold State.fillArea
  split
  · exact .refl p s
  · refine ⟨_, rfl, fun a ha => mread_mwriteN_outside _ _ _ _ ?_⟩
    have hoff : Config.saveAt ctr % max 1 p.saveLen < max 1 p.saveLen := Nat.mod_lt _ (by omega)
    have hlen : ((Config.saveBytes ctr).take (p.saveLen - Config.saveAt ctr % max 1 p.saveLen)).length ≤
      p.saveLen - Config.saveAt ctr % max 1 p.saveLen := List.length_take_le _ _
    omega

theorem State.SavedIn.fillAreas (p : CtxParams) (s : State) (ctr n : Nat) :
    s.SavedIn p ((List.range n).foldl (fun s i => s.fillArea p (ctr + i)) s) :=
  foldl_rel (State.SavedIn.refl p) (fun _ _ _ => State.SavedIn.trans) (fun s i => .fillArea p s (ctr + i)) _ s

/-! #### What leaves with the team -/

theorem State.closeInterval_frame (s : State) (k : CtxKey) (c : Nat) : ∃ cs, s.closeInterval k c = { s with ctxs := cs } := by
  unfold State.closeInterval
  split
  · exact ⟨s.ctxs, rfl⟩
  · split
    · exact ⟨s.ctxs, rfl⟩
    · next x _ =>
      obtain ⟨cs, h⟩ := (s.setCtx k { x with openIv := nset 0 x.openIv c 0 }).count_frame k 0x5000 (12 * (s.wall k.m - nget 0 x.openIv c) / 5)
      exact ⟨cs, h⟩

theorem State.closeInterval_runnable (s : State) (k : CtxKey) (c : Nat) :
    ((s.closeInterval k c).ctx? k).map (fun x => x.runnable) = (s.ctx? k).map (fun x => x.runnable) := by
  unfold State.closeInterval
  split
  · rfl
  · split
    · rfl
    · next x hx =>
      dsimp only
      obtain ⟨f, hf, hcount⟩ := (s.setCtx k { x with openIv := nset 0 x.openIv c 0 }).count_ctx k k 0x5000 (12 * (s.wall k.m - nget 0 x.openIv c) / 5)
      obtain ⟨u, v, h⟩ := hf { x with openIv := nset 0 x.openIv c 0 }
      rw [hcount, State.setCtx_ctx_self, hx, Option.map_some, h]
      rfl

/-- The image of a team cannot be written: its groups are told. -/
def State.imageLost (s : State) (id : Nat) (t : Team) : Bool :=
  (s.ctx? t.key).any (fun x => !s.imageFits x.p (s.freeCtr + (s.groupsOf id).length))

/-- The image of the group that leaves as the i-th. -/
def State.savedImage (s : State) (t : Team) (lost : Bool) (i : Nat) (g : Group) : Group :=
  match s.ctx? t.key with
  | none => g.image
  | some x => if lost = true then (s.writeImage x.p (s.freeCtr + i) g.image).pend ⟨0x1C, 0, 0, 0, 0⟩
    else s.writeImage x.p (s.freeCtr + i) g.image

/-- A team whose images have left its core. -/
structure State.Saved (s : State) (id c r : Nat) (t : Team) (u : State) (t' : Team) (run : Bool) : Prop where
  team : u.team? id = some t'
  st : t'.st = .saved run
  groups : u.groups = s.groups.filter (fun e => e.2.team ≠ id)
  mem : (∀ y ∈ s.stitches, ∀ e ∈ s.groupsOf id, ∀ f ∈ e.2.flights, f.blocked = true → y.of e.1 f.ord = false) →
    ∀ a, (∀ x, s.ctx? t.key = some x → a < x.p.saveBase ∨ x.p.saveBase + x.p.saveLen ≤ a) → mread u.mem a = mread s.mem a
  region : s.imageLost id t = false → t'.region = mslice s.scratch (scratchAt ⟨t.key.m, c⟩ (r * t.s)) t.s
  images : t'.images = (s.groupsOf id).mapIdx (fun i e => (e.2.gidx, s.savedImage t (s.imageLost id t) i e.2))
  runs : run = true → t.halted = false → ∀ x, u.ctx? t.key = some x → id ∈ x.runnable

theorem State.saveTeam_saved {s : State} {id c r since : Nat} {t : Team} (ht : s.team? id = some t) (hstop : t.stop = none)
    (hst : t.st = .resident c r since) : ∃ t' run, s.Saved id c r t (s.saveTeam id) t' run := by
  unfold State.saveTeam
  rw [ht]
  dsimp -zeta only
  rw [hst]
  dsimp -zeta only
  extract_lets k gs run gone s1 s2 s3 core s4 s5 ctr p? own lost s6 wr s7 s8 s9
  obtain ⟨m1, ys, h1⟩ := s.dropStitches_frame (fun y => !s.answered y && gone.any fun e => y.of e.1 e.2)
  obtain ⟨rs, h2⟩ : ∃ rs, s2 = { s1 with reqs := rs } := by
    simp only [s2]
    split
    · exact foldl_rel (R := fun s t : State => ∃ rs, t = { s with reqs := rs }) (fun s => ⟨s.reqs, rfl⟩)
        (fun _ _ _ ⟨_, h⟩ ⟨rs, h'⟩ => ⟨rs, by rw [h', h]⟩) (fun s (e : TileEnt) => s.dropAsks_frame e.note) _ s1
    · exact ⟨s1.reqs, rfl⟩
  obtain ⟨ls, h4⟩ : ∃ ls, s4 = { s3 with lines := ls } :=
    foldl_rel (R := fun s t : State => ∃ ls, t = { s with lines := ls }) (fun s => ⟨s.lines, rfl⟩)
      (fun _ _ _ ⟨_, h⟩ ⟨ls, h'⟩ => ⟨ls, by rw [h', h]⟩) (fun s e =>
        foldl_rel (R := fun s t : State => ∃ ls, t = { s with lines := ls }) (fun s => ⟨s.lines, rfl⟩)
          (fun _ _ _ ⟨_, h⟩ ⟨ls, h'⟩ => ⟨ls, by rw [h', h]⟩) (fun s h => ⟨_, rfl⟩) e.2.locks s) gs s3
  obtain ⟨cs5, rs5, h5⟩ : ∃ cs rs, s5 = { s with
      mem := m1, stitches := ys, cores := cs, lines := ls, reqs := rs, groups := s.groups.filter (fun e => e.2.team ≠ id) } := by
    refine ⟨s3.cores, s5.reqs, ?_⟩
    simp only [s5, h4, s3, h2, show s1 = _ from h1]
    rfl
  obtain ⟨m6, fc, h6, hm6⟩ : ∃ m fc, s6 = { s5 with mem := m, freeCtr := fc } ∧
      ∀ a, (∀ x, s.ctx? t.key = some x → a < x.p.saveBase ∨ x.p.saveBase + x.p.saveLen ≤ a) → mread m a = mread m1 a := by
    have hp : p? = (s.ctx? t.key).map (fun x => x.p) := by simp only [p?, h5]; rfl
    have hmem : s5.mem = m1 := by rw [h5]
    cases hx : s.ctx? t.key with
    | none =>
      rw [hx] at hp
      refine ⟨s5.mem, own + 1 + (if lost then t.s + tileSize else 0), ?_, fun a _ => by rw [hmem]⟩
      simp only [s6, hp]
      rfl
    | some x =>
      rw [hx] at hp
      obtain ⟨m, hm, hout⟩ := State.SavedIn.fillAreas x.p { s5 with freeCtr := own + 1 + (if lost then t.s + tileSize else 0) } ctr (gs.length + 1)
      refine ⟨m, own + 1 + (if lost then t.s + tileSize else 0), ?_, fun a ha => ?_⟩
      · simp only [s6, hp]
        exact hm
      · rw [← hmem]
        exact hout a (ha x rfl)
  have hctx : s6.ctx? t.key = s.ctx? t.key := by rw [h6, h5]; rfl
  have hctr : ctr = s.freeCtr := by simp only [ctr, h5]
  have hlost : lost = s.imageLost id t := by
    simp only [lost, p?, own, hctr, h5, State.imageLost]
    rw [Option.any_map]
    rfl
  have hwr (i : Nat) (g : Group) : wr i g.image = s.savedImage t (s.imageLost id t) i g := by
    have hwrite (p : CtxParams) (n : Nat) (g : Group) : s6.writeImage p n g = s.writeImage p n g := by rw [h6, h5]; rfl
    simp only [wr, hctx, hwrite, hlost, hctr]
    rfl
  obtain ⟨cs9, h9⟩ : ∃ cs, s9 = { s8 with ctxs := cs } := by
    simp only [s9]
    split
    · exact s8.modCtx_frame ..
    · exact ⟨s8.ctxs, rfl⟩
  obtain ⟨cs10, h10⟩ := s9.closeInterval_frame t.key c
  have hteam : (s9.closeInterval t.key c).team? id = s7.team? id := by
    rw [h10, h9]
    rfl
  refine ⟨_, run, hteam.trans (State.setTeam_team_self ..), rfl, ?_, fun hnone a ha => ?_, fun hsound => ?_, ?_, fun hrun hhalt x hx => ?_⟩
  · rw [h10, h9]
    simp only [s8, s7, h6, h5]
    rfl
  · have hgone : s1 = s := State.dropStitches_none (List.filter_eq_nil_iff.mpr fun y hy => by
      simp only [Bool.and_eq_true, not_and, List.any_eq_true, gone, not_exists]
      rintro - p hp
      obtain ⟨e, he, hp⟩ := List.mem_flatMap.mp hp
      obtain ⟨f, hf, rfl⟩ := List.mem_map.mp hp
      obtain ⟨hf, hblocked⟩ := List.mem_filter.mp hf
      rw [hnone y hy e he f hf hblocked]
      decide)
    have hm1 : m1 = s.mem := congrArg State.mem ((show s1 = _ from h1).symm.trans hgone)
    rw [h10, h9, ← hm1, ← hm6 a ha]
    simp only [s8, s7, h6]
    rfl
  · show (if lost then _ else _) = _
    rw [hlost, hsound, h6, h5]
    rfl
  · show gs.mapIdx _ = _
    simp only [hwr]
    rfl
  · have hrunnable : ((s9.closeInterval t.key c).ctx? t.key).map (fun x => x.runnable) = (s8.ctx? t.key).map (fun x => x.runnable ++ [id]) := by
      rw [State.closeInterval_runnable]
      simp only [s9, hrun, hhalt, hstop]
      rw [if_pos (by decide), State.modCtx_ctx, if_pos rfl, Option.map_map]
      rfl
    rw [hx] at hrunnable
    obtain ⟨y, -, hy⟩ := Option.map_eq_some_iff.mp hrunnable.symm
    rw [show x.runnable = y.runnable ++ [id] from hy.symm]
    exact List.mem_append_right _ (List.mem_singleton_self _)

/-! #### Residency -/

theorem execSave_leaves {s : State} {id c r since : Nat} {t : Team} (ht : s.team? id = some t) (hstop : t.stop = none)
    (hst : t.st = .resident c r since) (hleaves : s.teamLeaves id = true) :
    ∃ u t' run, exec (.save id) s = .next u ∧ s.Saved id c r t u t' run := by
  obtain ⟨t', run, h⟩ := State.saveTeam_saved ht hstop hst
  refine ⟨_, t', run, ?_, h⟩
  rw [show exec (.save id) s = execSave id s from rfl, execSave, hleaves, ht]
  simp [hstop]

theorem execSave_stays {s : State} {id : Nat} (hstays : s.teamLeaves id = false) : exec (.save id) s = .next s := by
  rw [show exec (.save id) s = execSave id s from rfl, execSave, hstays]
  rfl

theorem teamsLeave : Claims.TeamsLeave := by
  intro s id c r since t ht hstop hst
  refine ⟨fun hleaves => ?_, execSave_stays⟩
  obtain ⟨u, t', run, hexec, hteam, hst', hgroups, hmem, hregion, himages, hruns⟩ := execSave_leaves ht hstop hst hleaves
  refine ⟨u, t', run, hexec, hteam, hst', ?_, ?_, hmem, ?_, hruns⟩
  · intro e he
    rw [hgroups] at he
    simpa using (List.mem_filter.mp he).2
  · intro e he hne
    rw [hgroups]
    exact List.mem_filter.mpr ⟨he, by simpa using hne⟩
  · rintro lost hlost
    refine ⟨fun h => hregion ?_, ?_⟩
    · rw [← h, hlost]
      rfl
    · rw [himages, show s.imageLost id t = lost from hlost.symm]
      rfl

theorem teamsBecomeResident : Claims.TeamsBecomeResident := by
  refine ⟨?_, fun s id t c r a hfresh hlo hhi => State.place_fresh hfresh hlo hhi, ?_⟩
  · intro s k id r t c hsched hhead ht hhalt hstop hcore hreg
    refine ⟨?_, fun hkey hst => execRestore_places hsched hhead ht hhalt hstop hcore hreg hkey hst⟩
    rw [show exec (.teamMakeResident k) s = execTeamMakeResident k s from rfl, execTeamMakeResident,
      State.makeResident_places hsched hhead ht hhalt hstop hcore hreg rfl]
  · rintro t id i cyc g rfl
    exact ⟨rfl, rfl, rfl, rfl, rfl, rfl, ⟨_, rfl, rfl, rfl, rfl, rfl, rfl⟩, fun n _ => Regs.launch_rdS t.args n,
      fun n l => Regs.launch_rdV t.args n l, rfl, rfl, rfl, rfl⟩

theorem groupsGiveWay : Claims.GroupsGiveWay := by
  refine ⟨?_, ?_, ?_⟩
  · intro s id c r since t x ht hst hx hstop hrun
    have hstep := execQuantumExpiry_eq ht hst hx hstop hrun
    refine ⟨fun h => by rw [hstep, if_pos h]; rfl, fun h => ?_⟩
    rw [hstep, if_neg]
    rintro (⟨hq, -⟩ | hq) <;> omega
  · intro s k g fl d f z hg hf hkind hp
    have hstep := execRemoteLoadBlock_eq hg hf hkind hp
    exact ⟨fun h => by rw [hstep, if_pos h], fun h => by rw [hstep, if_neg (Nat.not_le.mpr h)]⟩
  · intro s k g r hg hr hlost
    have hstep := execFaultReplay_eq hg hr hlost
    exact ⟨fun h => by rw [hstep, if_pos h], fun h => by rw [hstep, if_neg (by rw [h]; decide)]⟩

/-- Settles O55: what a team's placing and saving leave, and the other steps computed under their hypotheses. -/
theorem residency : Obligations.Residency := by
  unfold Obligations.Residency
  refine ⟨teamsBecomeResident, teamsLeave, groupsGiveWay, ?_, clockTick⟩
  intro s k grid id gr t hgrid hhead ht hmine hsched hcore hempty hother hbanks
  exact execCarveChange_takes hgrid hhead ht hmine hsched hcore hempty hother hbanks

end Sys2Proof.Machine

/-! ### The packets of command queues, waking pops, completions and window writes -/
namespace Sys2Proof.Machine

/-! #### Packets -/

section
variable {s : State} {k : CtxKey} {q : Nat} {p : Pkt}

theorem any_ne_zero {n : Nat} {f : Nat → Nat} (h : ∃ i, i < n ∧ f i ≠ 0) : (List.range n).any (fun i => f i != 0) = true := by
  obtain ⟨i, hi, hne⟩ := h
  exact List.any_eq_true.mpr ⟨i, List.mem_range.mpr hi, by simpa using hne⟩

theorem not_any_ne_zero {n : Nat} {f : Nat → Nat} (h : ∀ i, i < n → f i = 0) : ¬ (List.range n).any (fun i => f i != 0) = true := by
  rw [Bool.not_eq_true]
  exact List.any_eq_false.mpr fun i hi => by simp [h i (List.mem_range.mp hi)]

theorem State.pk_zero (s : State) (p : Pkt) (n : Nat) : s.pk p 0 n = mnat s.mem p.pa n := rfl

section
variable (hp : s.starts k q = some p)
include hp

theorem execLaunchPacket_starts (hty : mnat s.mem p.pa 1 = 1) (hst : (s.noteLaunch k).launchStatus p = none) :
    exec (.launchPacket k q) s = .next (((s.noteLaunch k).startPacket k q p 1 0 0).runGrid k q p) := by
  rw [show exec (.launchPacket k q) s = execLaunchPacket k q s from rfl]
  simp only [execLaunchPacket, hp, State.pk_zero, hty, if_true, hst]

theorem execLaunchPacket_rejects {st : Nat} (hty : mnat s.mem p.pa 1 = 1) (hst : (s.noteLaunch k).launchStatus p = some st) :
    exec (.launchPacket k q) s =
      .next (((s.noteLaunch k).rejectPacket k q p 1 st).signalGrid k (mnat (s.noteLaunch k).mem (p.pa + 2) 2)) := by
  rw [show exec (.launchPacket k q) s = execLaunchPacket k q s from rfl]
  simp only [execLaunchPacket, hp, State.pk_zero, hty, if_true, hst]
  rfl

theorem execLaunchPacket_reserved (hty : mnat s.mem p.pa 1 = 0 ∨ 5 < mnat s.mem p.pa 1) :
    exec (.launchPacket k q) s = .next (s.rejectPacket k q p (mnat s.mem p.pa 1) 2) := by
  have hne : mnat s.mem p.pa 1 ≠ 1 := by omega
  have hres : mnat s.mem p.pa 1 = 0 ∨ 5 < mnat s.mem p.pa 1 ∨ (mnat s.mem p.pa 1 = 4 ∧ (s.pk p 1 1 = 0 ∨ 5 < s.pk p 1 1)) :=
    hty.imp_right Or.inl
  rw [show exec (.launchPacket k q) s = execLaunchPacket k q s from rfl]
  unfold execLaunchPacket
  rw [hp]
  dsimp -zeta only
  extract_lets ty
  rw [if_neg (show ¬ ty = 1 from hne), if_pos (show ty = 0 ∨ 5 < ty ∨ (ty = 4 ∧ (s.pk p 1 1 = 0 ∨ 5 < s.pk p 1 1)) from hres)]
  rfl

theorem execLaunchPacket_reservedMark (hty : mnat s.mem p.pa 1 = 4) (hact : mnat s.mem (p.pa + 1) 1 = 0 ∨ 5 < mnat s.mem (p.pa + 1) 1) :
    exec (.launchPacket k q) s = .next (s.rejectPacket k q p 4 2) := by
  have hres : (4 : Nat) = 0 ∨ 5 < 4 ∨ True ∧ (s.pk p 1 1 = 0 ∨ 5 < s.pk p 1 1) := Or.inr (Or.inr ⟨trivial, hact⟩)
  rw [show exec (.launchPacket k q) s = execLaunchPacket k q s from rfl]
  simp only [execLaunchPacket, hp, State.pk_zero, hty]
  rw [if_neg (by decide), if_pos hres]

theorem execWaitEvent_rejects (hty : mnat s.mem p.pa 1 = 2) (hbad : mnat s.mem (p.pa + 1) 1 ≠ 0 ∨ mnat s.mem (p.pa + 4) 4 ≠ 0 ∨
    (∃ i, i < 6 ∧ mnat s.mem (p.pa + (16 + 8 * i)) 8 ≠ 0)) : exec (.waitEvent k q) s = .next (s.rejectPacket k q p 2 2) := by
  have hres : s.pk p 1 1 ≠ 0 ∨ s.pk p 4 4 ≠ 0 ∨ (List.range 6).any (fun i => s.pk p (16 + 8 * i) 8 != 0) = true :=
    hbad.imp_right (Or.imp_right any_ne_zero)
  rw [show exec (.waitEvent k q) s = execWaitEvent k q s from rfl]
  simp only [execWaitEvent, hp, State.pk_zero, hty, ne_eq, not_true_eq_false, if_false]
  rw [if_pos hres]

theorem execSignalEvent_rejects (hty : mnat s.mem p.pa 1 = 3)
    (hbad : mnat s.mem (p.pa + 1) 1 ≠ 0 ∨ (∃ i, i < 7 ∧ mnat s.mem (p.pa + (8 + 8 * i)) 8 ≠ 0)) :
    exec (.signalEvent k q) s = .next (s.rejectPacket k q p 3 2) := by
  have hres : s.pk p 1 1 ≠ 0 ∨ (List.range 7).any (fun i => s.pk p (8 + 8 * i) 8 != 0) = true := hbad.imp_right any_ne_zero
  rw [show exec (.signalEvent k q) s = execSignalEvent k q s from rfl]
  simp only [execSignalEvent, hp, State.pk_zero, hty, ne_eq, not_true_eq_false, if_false]
  rw [if_pos hres]

theorem execFencePacket_rejects (hty : mnat s.mem p.pa 1 = 5)
    (hbad : mnat s.mem (p.pa + 1) 7 ≠ 0 ∨ (∃ i, i < 7 ∧ mnat s.mem (p.pa + (8 + 8 * i)) 8 ≠ 0)) :
    exec (.fencePacket k q) s = .next (s.rejectPacket k q p 5 2) := by
  have hres : s.pk p 1 7 ≠ 0 ∨ (List.range 7).any (fun i => s.pk p (8 + 8 * i) 8 != 0) = true := hbad.imp_right any_ne_zero
  rw [show exec (.fencePacket k q) s = execFencePacket k q s from rfl]
  simp only [execFencePacket, hp, State.pk_zero, hty, ne_eq, not_true_eq_false, if_false]
  rw [if_pos hres]

/-- A WAIT_EVENT of good fields, as its event stands once it has started. -/
theorem execWaitEvent_starts (hty : mnat s.mem p.pa 1 = 2) (hact : mnat s.mem (p.pa + 1) 1 = 0) (hres : mnat s.mem (p.pa + 4) 4 = 0)
    (hrest : ∀ i, i < 6 → mnat s.mem (p.pa + (16 + 8 * i)) 8 = 0) {id v : Nat} {t : State} (hid : id = mnat s.mem (p.pa + 2) 2)
    (hv : v = mnat s.mem (p.pa + 8) 8) (ht : t = s.startPacket k q p 2 id v) :
    (∀ e, (t.module k.m).events.find? (fun e => e.1 == id && e.2.key == k) = some (id, e) → v ≤ e.count.toNat →
      exec (.waitEvent k q) s = .next (t.completePacket k q p.idx)) ∧
    ((t.module k.m).events.find? (fun e => e.1 == id && e.2.key == k) = none → exec (.waitEvent k q) s = .next (t.eventStops k q id)) := by
  subst hid hv ht
  have hgood : ¬ (s.pk p 1 1 ≠ 0 ∨ s.pk p 4 4 ≠ 0 ∨ (List.range 6).any (fun i => s.pk p (16 + 8 * i) 8 != 0) = true) := by
    rintro (h | h | h)
    · exact h hact
    · exact h hres
    · exact not_any_ne_zero hrest h
  have hgo : ¬ s.pk p 0 1 ≠ 2 := not_not.mpr hty
  rw [show exec (.waitEvent k q) s = execWaitEvent k q s from rfl]
  unfold execWaitEvent
  rw [hp]
  dsimp -zeta only
  rw [if_neg hgo, if_neg hgood]
  extract_lets id v t md
  refine ⟨fun e he hle => ?_, fun he => ?_⟩
  · rw [show md.events.find? (fun e => e.1 == id && e.2.key == k) = some (id, e) from he]
    dsimp only
    rw [if_pos (show v ≤ e.count.toNat from hle)]
    rfl
  · rw [show md.events.find? (fun e => e.1 == id && e.2.key == k) = none from he]
    rfl

theorem execSignalEvent_sends (hty : mnat s.mem p.pa 1 = 3) (hact : mnat s.mem (p.pa + 1) 1 = 0)
    (hrest : ∀ i, i < 7 → mnat s.mem (p.pa + (8 + 8 * i)) 8 = 0) : exec (.signalEvent k q) s =
      .next ((s.startPacket k q p 3 (mnat s.mem (p.pa + 2) 2) 0).sendAdd k.m
        ⟨k, mnat s.mem (p.pa + 2) 2, max 1 (mnat s.mem (p.pa + 4) 4), .packet q p.idx, 0, 0, 0⟩) := by
  have hgood : ¬ (s.pk p 1 1 ≠ 0 ∨ (List.range 7).any (fun i => s.pk p (8 + 8 * i) 8 != 0) = true) := by
    rintro (h | h)
    · exact h hact
    · exact not_any_ne_zero hrest h
  rw [show exec (.signalEvent k q) s = execSignalEvent k q s from rfl]
  simp only [execSignalEvent, hp, State.pk_zero, hty]
  rw [if_neg (by simp), if_neg hgood]
  rfl

theorem execFencePacket_completes (hty : mnat s.mem p.pa 1 = 5) (hact : mnat s.mem (p.pa + 1) 7 = 0)
    (hrest : ∀ i, i < 7 → mnat s.mem (p.pa + (8 + 8 * i)) 8 = 0) :
    exec (.fencePacket k q) s = .next ((s.startPacket k q p 5 0 0).completePacket k q p.idx) := by
  have hgood : ¬ (s.pk p 1 7 ≠ 0 ∨ (List.range 7).any (fun i => s.pk p (8 + 8 * i) 8 != 0) = true) := by
    rintro (h | h)
    · exact h hact
    · exact not_any_ne_zero hrest h
  rw [show exec (.fencePacket k q) s = execFencePacket k q s from rfl]
  simp only [execFencePacket, hp, State.pk_zero, hty]
  rw [if_neg (by simp), if_neg hgood]

section
variable {act : Nat} {f : State → Nat → State} (hty : mnat s.mem p.pa 1 = 4) (hact : mnat s.mem (p.pa + 1) 1 = act)
  (htrig : ∃ c, s.ctx? k = some c ∧ c.trig = [])
include hty hact htrig

omit hp in
/-- A MARK may act once every event offered before it has been taken. -/
theorem State.markPacket_ready : ¬ (s.pk p 0 1 ≠ 4 ∨ s.pk p 1 1 ≠ act ∨ (!((s.ctx? k).any (fun c => c.trig.isEmpty))) = true) := by
  obtain ⟨c, hc, hempty⟩ := htrig
  rintro (h | h | h)
  · exact h hty
  · exact h hact
  · simp [hc, hempty] at h

theorem State.markPacket_rejects (hbad : mnat s.mem (p.pa + 2) 2 ≠ 0 ∨ (∃ i, i < 7 ∧ mnat s.mem (p.pa + (8 + 8 * i)) 8 ≠ 0)) :
    s.markPacket k q act f = s.rejectPacket k q p 4 2 := by
  have hres : s.pk p 2 2 ≠ 0 ∨ (List.range 7).any (fun i => s.pk p (8 + 8 * i) 8 != 0) = true := hbad.imp_right any_ne_zero
  unfold State.markPacket
  rw [hp]
  dsimp only
  rw [if_neg (State.markPacket_ready hty hact htrig), if_pos hres]

theorem State.markPacket_acts (hres : mnat s.mem (p.pa + 2) 2 = 0) (hrest : ∀ i, i < 7 → mnat s.mem (p.pa + (8 + 8 * i)) 8 = 0) :
    s.markPacket k q act f = (f (s.startPacket k q p 4 act (mnat s.mem (p.pa + 4) 4)) (mnat s.mem (p.pa + 4) 4)).completePacket k q p.idx := by
  have hgood : ¬ (s.pk p 2 2 ≠ 0 ∨ (List.range 7).any (fun i => s.pk p (8 + 8 * i) 8 != 0) = true) := by
    rintro (h | h)
    · exact h hres
    · exact not_any_ne_zero hrest h
  unfold State.markPacket
  rw [hp]
  dsimp only
  rw [if_neg (State.markPacket_ready hty hact htrig), if_neg hgood]
  rfl

end
end
end

/-! #### Queues -/

section
variable {s : State} {k : CtxKey} {q : Nat} {qu : Queue}

theorem execQpopWake_empty {k : GKey} {g : Group} {fl d : Nat} {f : Flight} (hg : s.group? k = some g) (hf : g.flight? fl = some f)
    (hkind : f.kind = .qpop d q) (hready : f.ready = false) (hq : s.queue? g.key q = some qu) (hdata : qu.data = true) (hempty : s.qHead qu = s.qTail qu) :
    exec (.qpopWake k fl) s = .next s := by
  have hpop : s.pop g.key q false = (none, s) := by
    simp [State.pop, hq, hdata, hempty]
  rw [show exec (.qpopWake k fl) s = execQpopWake k fl s from rfl]
  simp only [execQpopWake, hg, hf, hkind, hready, Bool.false_eq_true, if_false, hpop]

theorem execQpopWake_takes {k : GKey} {g : Group} {fl d : Nat} {f : Flight} (hg : s.group? k = some g) (hf : g.flight? fl = some f)
    (hkind : f.kind = .qpop d q) (hready : f.ready = false) (hq : s.queue? g.key q = some qu) (hdata : qu.data = true) (hoff : qu.off = false)
    (hfull : s.qHead qu ≠ s.qTail qu) (hred : (s.line (lineOf (qu.block + 8))).red = none) : ∃ t : State, t.mem =
      mwriteN s.mem (qu.block + 8) (toBytes 8 (mnat s.mem (qu.block + 8) 8 / 2 ^ 63 * 2 ^ 63 +
        (s.qHead qu + 1) % 2 ^ 63) ++ toBytes 8 (s.qHead qu + 1)) ∧ exec (.qpopWake k fl) s = .next (t.modGroup k (fun g =>
      g.modFlight fl (fun f => { f with ready := true, writes :=
        [.s d (BitVec.ofNat 64 (mnat s.mem (qu.slotAt (s.qHead qu)) 8)), .s (d + 1) 0#64] }))) := by
  obtain ⟨t, ht⟩ : ∃ t, t = s.hwStore (qu.block + 8) (toBytes 8 (mnat s.mem (qu.block + 8) 8 / 2 ^ 63 * 2 ^ 63 +
    (s.qHead qu + 1) % 2 ^ 63) ++ toBytes 8 (s.qHead qu + 1)) := ⟨_, rfl⟩
  have hpop : s.pop g.key q false = (some (BitVec.ofNat 64 (mnat s.mem (qu.slotAt (s.qHead qu)) 8), 0), t.count g.key (idxBytes .group) 8) := by
    simp only [State.pop, hq, hdata, hoff, Bool.not_true, Bool.not_false, Bool.false_eq_true, if_false, ht, ne_eq, hfull, not_false_eq_true,
      and_self, if_true]
  refine ⟨t.count g.key (idxBytes .group) 8, ?_, ?_⟩
  · rw [State.count_mem, ht, State.hwStore_mem _ hred]
  · rw [show exec (.qpopWake k fl) s = execQpopWake k fl s from rfl]
    simp only [execQpopWake, hg, hf, hkind, hready, Bool.false_eq_true, if_false, hpop]
    rfl

theorem execGridComplete_completes {grid : Nat} {g : Grid} (hg : s.grid? grid = some g) (hopen : g.complete = false)
    (hleft : g.left = (s.teams.filter (fun t => t.2.grid == grid && t.2.st != .ended)).length) (hdone : s.gridDone grid g.key.m = true) :
    exec (.gridComplete grid) s =
      .next (((s.setGrid grid { g with complete := true }).signalGrid g.key g.sigev).completePacket g.key g.q g.idx) := by
  rw [show exec (.gridComplete grid) s = execGridComplete grid s from rfl]
  unfold execGridComplete
  rw [hg]
  dsimp only
  rw [if_neg (by simp [hopen, hleft, hdone])]

theorem execHostTailWrite_stores {v : DWord} (hq : s.queue? k q = some qu) (hdev : qu.devpush = false) (hgood : qu.badEvent = false) :
    exec (.hostTailWrite k q v) s = .next (s.hwStore qu.block (toBytes 8 v.toNat)) := by
  rw [show exec (.hostTailWrite k q v) s = execHostTailWrite k q v s from rfl]
  simp only [execHostTailWrite, hq, hdev, hgood, Bool.not_false, Bool.false_eq_true, if_false, if_true]

theorem execHostTailWrite_ignored {v : DWord} (hq : s.queue? k q = some qu) (hdev : qu.devpush = true) :
    exec (.hostTailWrite k q v) s = .next (s.windowIgnored k q qu) := by
  rw [show exec (.hostTailWrite k q v) s = execHostTailWrite k q v s from rfl]
  simp only [execHostTailWrite, hq, hdev, if_true]

theorem State.windowIgnored_frame (s : State) (k : CtxKey) (n : Nat) (q : Queue) : ∃ cs, s.windowIgnored k n q = { s with ctxs := cs } :=
  State.logErr_frame ..

end

theorem packetSteps : Claims.PacketSteps := by
  intro s k q p hp
  refine ⟨execLaunchPacket_starts hp, fun st => execLaunchPacket_rejects hp, execLaunchPacket_reserved hp, execLaunchPacket_reservedMark hp,
    execWaitEvent_rejects hp, execSignalEvent_rejects hp, execFencePacket_rejects hp, ?_, ?_, execSignalEvent_sends hp, execFencePacket_completes hp, ?_⟩
  · intro w act hw hty hact htrig hbad
    have hreject (f : State → Nat → State) := State.markPacket_rejects (f := f) hp hty hact htrig hbad
    simp only [List.mem_cons, Prod.mk.injEq, List.not_mem_nil, or_false] at hw
    rcases hw with ⟨rfl, rfl⟩ | ⟨rfl, rfl⟩ | ⟨rfl, rfl⟩ | ⟨rfl, rfl⟩ | ⟨rfl, rfl⟩
    · exact congrArg Host.Outcome.next (hreject _)
    · exact congrArg Host.Outcome.next (hreject _)
    · exact congrArg Host.Outcome.next (hreject _)
    · exact congrArg Host.Outcome.next (hreject _)
    · exact congrArg Host.Outcome.next (hreject _)
  · intro hty hact hres hrest id v t hid hv ht
    exact execWaitEvent_starts hp hty hact hres hrest hid hv ht
  · intro hty hres hrest htrig act mark t hact hmark ht
    subst hmark ht
    have hacts (f : State → Nat → State) := State.markPacket_acts (f := f) hp hty hact.symm htrig hres hrest
    refine ⟨?_, ?_, ?_, ?_, ?_⟩
    · rintro rfl
      exact congrArg Host.Outcome.next (hacts _)
    · rintro rfl
      exact congrArg Host.Outcome.next (hacts _)
    · rintro rfl
      exact congrArg Host.Outcome.next (hacts _)
    · rintro rfl
      exact congrArg Host.Outcome.next (hacts _)
    · rintro rfl
      exact congrArg Host.Outcome.next (hacts _)

/-- Settles O56: each packet and each step of the queue unit is computed under its hypotheses. -/
theorem queueSteps : Obligations.QueueSteps := by
  unfold Obligations.QueueSteps
  refine ⟨packetSteps, ?_, ?_, ?_⟩
  · intro s k g fl d q f qu hg hf hkind hready hq hdata hoff
    exact ⟨execQpopWake_empty hg hf hkind hready hq hdata, execQpopWake_takes hg hf hkind hready hq hdata hoff⟩
  · intro s grid g hg hopen hleft hdone
    exact execGridComplete_completes hg hopen hleft hdone
  · intro s k q v qu hq
    refine ⟨execHostTailWrite_stores hq, fun hdev => ⟨_, execHostTailWrite_ignored hq hdev, ?_⟩⟩
    obtain ⟨cs, h⟩ := s.windowIgnored_frame k q qu
    rw [h]
    exact ⟨rfl, rfl⟩

end Sys2Proof.Machine

/-! ### Whose groups there are, and which contexts -/
namespace Sys2Proof.Machine

/-- No group of t is of a context of which none was in s, and no context has gone. -/
def State.KeptOwners (s t : State) : Prop :=
  (∀ e ∈ t.groups, ∃ d ∈ s.groups, d.2.key = e.2.key) ∧ ∀ k, (s.ctx? k).isSome = true → (t.ctx? k).isSome = true

namespace State.KeptOwners

variable {s t u : State}

theorem of_tables (hgroups : t.groups = s.groups) (hctxs : t.ctxs = s.ctxs) : s.KeptOwners t :=
  ⟨fun e he => ⟨e, hgroups ▸ he, rfl⟩, fun k h => by rw [State.ctx?, hctxs]; exact h⟩

theorem refl (s : State) : s.KeptOwners s := of_tables rfl rfl

theorem trans (h : s.KeptOwners t) (h' : t.KeptOwners u) : s.KeptOwners u := by
  refine ⟨fun e he => ?_, fun k hk => h'.2 k (h.2 k hk)⟩
  obtain ⟨d, hd, hkey⟩ := h'.1 e he
  obtain ⟨c, hc, hkey'⟩ := h.1 d hd
  exact ⟨c, hc, hkey'.trans hkey⟩

theorem foldl {α : Type} {f : State → α → State} (h : ∀ s a, State.KeptOwners s (f s a)) (l : List α) (s : State) :
    s.KeptOwners (l.foldl f s) :=
  foldl_rel State.KeptOwners.refl (fun _ _ _ => State.KeptOwners.trans) h l s

theorem modCtx (s : State) (k : CtxKey) (f : Context → Context) : s.KeptOwners (s.modCtx k f) := by
  obtain ⟨cs, h⟩ := s.modCtx_frame k f
  exact ⟨fun e he => ⟨e, by rw [h] at he; exact he, rfl⟩, fun j => s.modCtx_isSome k j f⟩

theorem logErr (s : State) (k : CtxKey) (r : ErrRec) : s.KeptOwners (s.logErr k r) := modCtx ..

theorem count (s : State) (k : CtxKey) (i n : Nat) : s.KeptOwners (s.count k i n) := by
  unfold State.count
  split
  · exact refl s
  · exact modCtx ..

theorem modGroup (s : State) (k : GKey) {f : Group → Group} (hf : ∀ g, (f g).key = g.key) : s.KeptOwners (s.modGroup k f) := by
  unfold State.modGroup
  split
  · next g hg =>
    refine ⟨fun e he => ?_, fun _ => id⟩
    rcases mem_tset he with rfl | he
    · exact ⟨(k, g), mem_of_tget hg, (hf g).symm⟩
    · exact ⟨e, he, rfl⟩
  · exact refl s

theorem modTeam (s : State) (team : Nat) (f : Team → Team) : s.KeptOwners (s.modTeam team f) := by
  obtain ⟨ts, h⟩ := s.modTeam_frame team f
  rw [h]
  exact of_tables rfl rfl

theorem modMember (s : State) (team gidx : Nat) {f : Group → Group} (hf : ∀ g, (f g).key = g.key) : s.KeptOwners (s.modMember team gidx f) := by
  unfold State.modMember
  split
  · exact modGroup s _ hf
  · exact modTeam ..

theorem makeRunnable (s : State) (team : Nat) : s.KeptOwners (s.makeRunnable team) := by
  unfold State.makeRunnable
  split
  · exact refl s
  · split
    · split
      · exact of_tables rfl rfl
      · exact trans (of_tables rfl rfl) (modCtx ..)
    all_goals exact refl s

theorem noteStop (s : State) (k : CtxKey) (n : Nat) (q : Queue) : s.KeptOwners (s.noteStop k n q) := by
  unfold State.noteStop
  split
  · split
    · exact modCtx ..
    · exact trans (t := s.modQueue k n fun x => { x with stopped := !s.qValid q }) (modCtx ..) (logErr ..)
  · exact refl s

theorem noteQueues (s : State) (l : Nat) : s.KeptOwners (s.noteQueues l) := by
  unfold State.noteQueues
  refine foldl (fun s c => foldl (fun s q => ?_) _ _) _ _
  split
  · rw [State.noteQueue_eq]
    split
    · refine trans (noteStop ..) (foldl (fun s e => ?_) _ _)
      split
      · exact makeRunnable ..
      · exact refl s
    · exact noteStop ..
  · exact refl s

theorem noteEntries (s : State) (l : Nat) : s.KeptOwners (s.noteEntries l) := by
  unfold State.noteEntries
  extract_lets cached v
  have hv : s.KeptOwners v := by
    simp only [v]
    split
    · exact of_tables rfl rfl
    · exact refl s
  split
  · refine hv.trans ⟨fun e he => ⟨e, he, rfl⟩, fun k hk => ?_⟩
    rw [State.ctx?, tget_map v.ctxs (fun c => { c.2 with returning := _ }) k, Option.isSome_map]
    exact hk
  · exact hv

theorem writeLine (s : State) (l : Nat) (mem : Memory) (w : Nat) : s.KeptOwners (s.writeLine l mem w).1 := by
  rw [State.writeLine_eq]
  obtain ⟨ms, hnew⟩ := s.newBytes_frame l mem
  obtain ⟨⟨ls, ps, hclaim⟩, -⟩ := (s.newBytes l mem).claimLine_spec l w
  refine trans (of_tables ?_ ?_) (trans (noteEntries ..) (noteQueues ..))
  · rw [hclaim, hnew]
  · rw [hclaim, hnew]

theorem of_dbgStored (h : s.DbgStored t) : s.KeptOwners t := by
  obtain ⟨⟨_, _, _, rfl⟩, -, hctx⟩ := h
  exact ⟨fun e he => ⟨e, he, rfl⟩, hctx⟩

theorem store (s : State) (l : Nat) (new : Memory) (cov : List Nat) (w : Nat) : s.KeptOwners (s.store l new cov w).1 := by
  unfold State.store
  split
  · exact (writeLine ..).trans (of_dbgStored (.storeFields ..))
  · exact writeLine ..

theorem finishWrite (s : State) (l t : Nat) (wait : List Nat) (o : Origin) (w at_ : Nat) : s.KeptOwners (s.finishWrite l t wait o w at_).2 := by
  obtain ⟨-, ⟨ls, rs, h⟩, -⟩ := s.finishWrite_spec l t wait o w at_
  rw [h]
  exact of_tables rfl rfl

theorem countOp (s : State) (k : CtxKey) (op : SbOp) : s.KeptOwners (s.countOp k op) := by
  unfold State.countOp State.countFadd
  split
  · exact count ..
  · exact count ..
  · split
    · exact (count ..).trans (count ..)
    · exact (count ..).trans (count ..)
    · exact count ..

theorem entryDone (s : State) (k : GKey) (e w : Nat) : s.KeptOwners (s.entryDone k e w) := by
  unfold State.entryDone
  refine trans ?_ (modGroup _ _ fun _ => rfl)
  split
  · exact countOp ..
  · exact refl s

theorem applyRed (s : State) (l : Nat) : s.KeptOwners (s.applyRed l) := by
  rcases hred : (s.line l).red with _ | r
  · rw [State.applyRed_none hred]
    exact refl s
  · obtain ⟨w, at_, wait, happly⟩ := State.applyRed_some hred
    rw [happly]
    have hset : s.KeptOwners (s.setLine l { s.line l with red := none }) := of_tables rfl rfl
    exact (hset.trans (store ..)).trans (foldl (fun v c => (finishWrite ..).trans (entryDone ..)) _ _)

theorem closeRed (s : State) (l : Nat) : s.KeptOwners (s.closeRed l) := by
  unfold State.closeRed
  split
  · exact applyRed ..
  · exact refl s

theorem flagInPlace (s : State) (i : Nat) (p : PendWrite) : s.KeptOwners (s.flagInPlace i p) := by
  unfold State.flagInPlace
  split
  · exact refl s
  · dsimp only
    refine trans ?_ (modTeam ..)
    refine trans ?_ (modMember _ _ _ fun _ => rfl)
    exact of_tables rfl rfl

theorem settlePend (s : State) : s.KeptOwners s.settlePend := by
  unfold State.settlePend
  refine trans (foldl (fun s p => ?_) (s.pend.filter (fun p => p.wait.isEmpty)) s) (of_tables rfl rfl)
  split
  · cases ‹EngInst› <;> exact of_tables rfl rfl
  · exact flagInPlace ..
  all_goals exact refl s

theorem hwStore (s : State) (pa : Nat) (bs : List Byte) : s.KeptOwners (s.hwStore pa bs) := by
  unfold State.hwStore
  exact (closeRed ..).trans ((writeLine ..).trans ((finishWrite ..).trans (settlePend _)))

theorem completePacket (s : State) (k : CtxKey) (q idx : Nat) : s.KeptOwners (s.completePacket k q idx) := by
  unfold State.completePacket
  extract_lets t
  refine (show s.KeptOwners t from modCtx ..).trans ?_
  split
  · exact refl t
  · dsimp only
    split
    · exact refl t
    · exact (show State.KeptOwners t _ from modCtx ..).trans (hwStore ..)

theorem addEvent (s : State) (k : CtxKey) (id n : Nat) (pc : DWord) (team grp : Nat) : s.KeptOwners (s.addEvent k id n pc team grp) := by
  unfold State.addEvent
  dsimp only
  split
  · exact logErr ..
  · exact (of_tables rfl rfl).trans (foldl (fun s w => completePacket ..) _ _)

theorem applyAdd (s : State) (a : EvAdd) : s.KeptOwners (s.applyAdd a) := by
  unfold State.applyAdd
  dsimp only
  split
  · exact (addEvent ..).trans (completePacket ..)
  all_goals exact addEvent ..

theorem eventTable (s : State) (m : Nat) : s.KeptOwners (s.eventTable m) :=
  (of_tables rfl rfl).trans (foldl (fun s a => applyAdd s a) (s.module m).adds (s.modModule m (fun x => { x with adds := [] })))

theorem closeInterval (s : State) (k : CtxKey) (c : Nat) : s.KeptOwners (s.closeInterval k c) := by
  unfold State.closeInterval
  split
  · exact refl s
  · split
    · exact refl s
    · next x hx =>
      have hset : s.setCtx k { x with openIv := nset 0 x.openIv c 0 } = s.modCtx k (fun x => { x with openIv := nset 0 x.openIv c 0 }) := by
        rw [State.modCtx, hx]
      dsimp only
      rw [hset]
      exact (modCtx ..).trans (count ..)

theorem eventStops (s : State) (k : CtxKey) (q id : Nat) : s.KeptOwners (s.eventStops k q id) := (modCtx ..).trans (logErr ..)

theorem dropActive (s : State) (m id : Nat) : s.KeptOwners (s.dropActive m id) := by
  unfold State.dropActive
  dsimp only
  split
  · exact refl s
  · exact (of_tables rfl rfl).trans (foldl (fun s w => eventStops ..) _ _)

theorem queuesResident (s : State) (k : CtxKey) (on : Bool) : s.KeptOwners (s.queuesResident k on) := by
  unfold State.queuesResident
  split
  · exact refl s
  · refine foldl (fun s q => ?_) _ s
    dsimp only
    split
    · exact refl s
    · exact (show State.KeptOwners s _ from modCtx ..).trans (hwStore ..)

end State.KeptOwners

end Sys2Proof.Machine

/-! ### The control plane and the host -/
namespace Sys2Proof.Machine

/-! #### Contexts -/

theorem tget_append_none {κ β : Type} [DecidableEq κ] {t : Table κ β} {k : κ} (v : β) (h : tget t k = none) : tget (t ++ [(k, v)]) k = some v := by
  induction t with
  | nil => exact if_pos rfl
  | cons e t ih =>
    obtain ⟨j, w⟩ := e
    by_cases hj : j = k
    · rw [tget, if_pos hj] at h
      exact absurd h (by simp)
    · rw [tget, if_neg hj] at h
      rw [List.cons_append, tget, if_neg hj]
      exact ih h

theorem mread_mclear_outside (m : Memory) {a n x : Nat} (h : x < a ∨ a + n ≤ x) : mread (mclear m a n) x = mread m x := by
  induction m with
  | nil => rfl
  | cons c m ih =>
    obtain ⟨b, v⟩ := c
    have ih : nget 0#8 (mclear m a n) x = nget 0#8 m x := ih
    rw [mread, mread, mclear, List.filter_cons]
    split
    · rw [nget, nget]
      split
      · rfl
      · exact ih
    · next hb =>
      have hne : b ≠ x := by
        rintro rfl
        exact hb (by simpa using h)
      rw [nget, if_neg hne]
      exact ih

theorem execContextCreate_creates {s : State} {p : CtxParams} {md : Module} (hmod : tget s.mods p.k.m = some md) (hready : md.ready = true)
    (hlife : md.life ≠ .retired) (hnew : s.ctx? p.k = none) (hok : CtxOk p = true) :
    ∃ (t : State) (c : Context), exec (.contextCreate p) s = .next t ∧ t.ctx? p.k = some c ∧ c.p = p ∧ c.torn = none ∧ c.dies = [] ∧
      c.queues = [] ∧ (∀ i, i < 512 → mread t.mem (p.dbgBase + i) = 0#8) ∧
      (∀ a, a < p.dbgBase ∨ p.dbgBase + 512 ≤ a → mread t.mem a = mread s.mem a) ∧ t.groups = s.groups := by
  have hgo : ¬ (!md.ready || md.life == .retired || (s.ctx? p.k).isSome || !CtxOk p) = true := by simp [hready, hlife, hnew, hok]
  rw [show exec (.contextCreate p) s = execContextCreate p s from rfl]
  unfold execContextCreate
  rw [hmod]
  dsimp only
  rw [if_neg hgo]
  refine ⟨_, _, rfl, tget_append_none _ hnew, rfl, rfl, rfl, rfl, fun i hi => ?_, fun a ha => mread_mclear_outside s.mem ha, rfl⟩
  exact mread_mclear_inside s.mem (Nat.le_add_right _ _) (by omega)

/-- No group of a context is left, and its record is still there. -/
def State.Emptied (s : State) (k : CtxKey) : Prop := (∀ e ∈ s.groups, e.2.key ≠ k) ∧ (s.ctx? k).isSome = true

theorem State.KeptOwners.emptied {s t : State} {k : CtxKey} (h : s.KeptOwners t) (hs : s.Emptied k) : t.Emptied k := by
  refine ⟨fun e he hkey => ?_, h.2 k hs.2⟩
  obtain ⟨d, hd, hd'⟩ := h.1 e he
  exact hs.1 d hd (hd'.trans hkey)

theorem State.dropTeams_emptied {s : State} {k : CtxKey} (h : (s.ctx? k).isSome = true) : (s.dropTeams k).Emptied k := by
  unfold State.dropTeams
  extract_lets u own gone held v
  have hu : s.KeptOwners u := .foldl (fun s l => .applyRed ..) _ s
  have hv : u.KeptOwners v := by
    refine .foldl (fun s e => ?_) held u
    unfold State.forceRelease
    dsimp only
    exact .trans (.of_tables rfl rfl) (.logErr ..)
  exact ⟨fun e he => by simpa using (List.mem_filter.mp he).2, (hu.trans hv).2 k h⟩

theorem execContextTeardown_tears {s : State} {k : CtxKey} {c : Context} (hc : s.ctx? k = some c) (htorn : c.torn = none)
    (hcopies : ∀ x ∈ s.cores, ∀ o ∈ x.2.copies, o.key ≠ k) : ∃ t : State, exec (.contextTeardown k) s = .next t ∧
      (t.ctx? k).map (fun c => (c.torn.isSome, c.dies, c.runnable)) = some (true, [], []) ∧ ∀ e ∈ t.groups, e.2.key ≠ k := by
  have hcopy : s.cores.any (fun x => x.2.copies.any (fun o => o.key == k)) = false :=
    List.any_eq_false.mpr fun x hx => by
      rw [Bool.not_eq_true]
      exact List.any_eq_false.mpr fun o ho => by simpa using hcopies x hx o ho
  rw [show exec (.contextTeardown k) s = execContextTeardown k s from rfl]
  unfold execContextTeardown
  rw [hc]
  dsimp -zeta only
  rw [if_neg (by rw [htorn, hcopy]; decide)]
  extract_lets on tileOn u1 u2 u3 u4 u5 u6
  have h1 : u1.Emptied k := State.KeptOwners.emptied (.eventTable ..) (State.dropTeams_emptied (by rw [hc]; rfl))
  have h2 : u2.Emptied k := State.KeptOwners.emptied (.foldl (fun s n => .closeInterval ..) on u1) h1
  have h3 : u3.Emptied k := by
    refine State.KeptOwners.emptied (.foldl (fun s n => ?_) tileOn u2) h2
    exact .of_tables rfl rfl
  have h4 : u4.Emptied k := State.KeptOwners.emptied (.foldl (fun s e => by
    split
    · exact .dropActive ..
    · exact .refl s) (u3.module k.m).events u3) h3
  have h5 : u5.Emptied k := State.KeptOwners.emptied (.queuesResident ..) h4
  have h6 : u6.Emptied k := State.KeptOwners.emptied (.of_tables rfl rfl) h5
  obtain ⟨c', hc'⟩ := Option.isSome_iff_exists.mp h6.2
  obtain ⟨_, _, _, _, _, _, _, hsettle⟩ := State.Settled.settlePend (u6.modCtx k (fun c => { c with
    dies := [], prevDies := [], runnable := [], trig := [], issBuf := [], torn := some (u6.wall k.m) }))
  refine ⟨_, rfl, ?_, (State.KeptOwners.emptied (.trans (.modCtx ..) (.settlePend ..)) h6).1⟩
  rw [hsettle]
  show Option.map _ ((u6.modCtx k _).ctx? k) = _
  rw [State.modCtx_ctx, if_pos rfl, hc']
  rfl

/-! #### Events -/

section
variable {s : State}

theorem execEventActivate_new {k : CtxKey} {c : Context} {id : Nat} (hc : s.ctx? k = some c) (htorn : c.torn = none) (hlo : 1 ≤ id) (hhi : id ≤ 65535)
    (hroom : (s.module k.m).events.length < 4096) (hfree : ∀ e ∈ (s.module k.m).events, e.1 ≠ id) : exec (.eventActivate k id) s =
      .next (s.setModule k.m { (s.module k.m) with events := (s.module k.m).events ++ [(id, ⟨k, 0, [], []⟩)] }) := by
  have hany : (s.module k.m).events.any (fun e => e.1 == id) = false := List.any_eq_false.mpr fun e he => by simpa using hfree e he
  rw [show exec (.eventActivate k id) s = execEventActivate k id s from rfl]
  unfold execEventActivate
  dsimp only
  rw [if_neg]
  rintro (h | h | h | h | h)
  · omega
  · omega
  · omega
  · rw [hany] at h
    exact absurd h (by decide)
  · simp [hc, htorn] at h

theorem execEventDeactivate_none {m id : Nat} (hfree : ∀ e ∈ (s.module m).events, e.1 ≠ id) : exec (.eventDeactivate m id) s = .next s := by
  have hfind : (s.module m).events.find? (fun e => e.1 == id) = none := List.find?_eq_none.mpr fun e he => by simpa using hfree e he
  rw [show exec (.eventDeactivate m id) s = execEventDeactivate m id s from rfl]
  simp only [execEventDeactivate, State.dropActive, hfind]

theorem execEventDeactivate_drops {m id : Nat} {e : Event} (hfind : (s.module m).events.find? (fun e => e.1 == id) = some (id, e))
    (hinline : e.inline = []) (hover : e.overflow = []) : exec (.eventDeactivate m id) s =
      .next (s.setModule m { (s.module m) with events := (s.module m).events.filter (fun x => x.1 ≠ id) }) := by
  rw [show exec (.eventDeactivate m id) s = execEventDeactivate m id s from rfl]
  simp only [execEventDeactivate, State.dropActive, hfind, hinline, hover, List.append_nil, List.foldl_nil]

/-! #### Queues -/

theorem execQueueCreate_writes {p : QueueParams} {c : Context} (hc : s.ctx? p.k = some c) (htorn : c.torn = none) (hnum : p.q ≤ 255)
    (hfree : ∀ q ∈ c.queues, q.1 ≠ p.q) (hblock : p.block % 128 = 0) (hring : p.ring % 64 = 0) (hown : ownLpddr p.k.m p.block = true)
    (hown' : ownLpddr p.k.m p.ring = true) (hlo : 4 ≤ p.logsz) (hhi : p.logsz ≤ 20) (hprio : p.prio ≤ 3) :
    exec (.queueCreate p) s = .next ((s.setCtx p.k { c with queues := c.queues ++
        [(p.q, ⟨p.block, p.ring, p.logsz, p.prio, p.data, p.devpush, false, false, [], 0⟩)] }).hwStore p.block
      (toBytes 8 0 ++ toBytes 8 (if c.dies.isEmpty then 0 else 2 ^ 63) ++ toBytes 8 0 ++ toBytes 8 p.ring ++
        toBytes 8 ((if p.devpush then 2 ^ 14 else 0) + p.prio * 2 ^ 12 + (if p.data then 2 ^ 11 else 0) + p.logsz) ++ toBytes 88 0)) := by
  have hany : c.queues.any (fun q => q.1 == p.q) = false := List.any_eq_false.mpr fun q hq => by simpa using hfree q hq
  have hgo : ¬ (c.torn.isSome || decide (255 < p.q) || c.queues.any (fun q => q.1 == p.q) || decide (p.block % 128 ≠ 0) ||
      decide (p.ring % 64 ≠ 0) || !ownLpddr p.k.m p.block || !ownLpddr p.k.m p.ring || decide (p.logsz < 4) || decide (20 < p.logsz) ||
      decide (3 < p.prio)) = true := by
    simp [htorn, hany, hblock, hring, hown, hown', hnum, hlo, hhi, hprio]
  rw [show exec (.queueCreate p) s = execQueueCreate p s from rfl]
  unfold execQueueCreate
  rw [hc]
  dsimp only
  rw [if_neg hgo]

/-! #### Partitions -/

theorem execPartitionRecompute_same {m : Nat} (hwhole : (s.module m).sliced = false)
    (hset : (s.runnableCtxs m).map (fun c => c.1) = (s.module m).runSet) : exec (.partitionRecompute m) s = .next s := by
  rw [show exec (.partitionRecompute m) s = execPartitionRecompute m s from rfl]
  unfold execPartitionRecompute
  dsimp only
  rw [if_pos]
  simp [hwhole, hset]

theorem foldl_append_map {α β γ : Type} {π : β → γ} {ρ : α → γ} {f : List β → α → β} (hf : ∀ l a, π (f l a) = ρ a) (as : List α) (l : List β) :
    (as.foldl (fun l a => l ++ [f l a]) l).map π = l.map π ++ as.map ρ := by
  induction as generalizing l with
  | nil => simp
  | cons a as ih =>
    rw [List.foldl_cons, ih]
    simp [hf]

/-- Every context is given its dies, in the order of the sizes. -/
theorem placeDies_fst (avail : List Nat) (cs : List (Nat × Nat × List Nat)) : (placeDies avail cs).map (fun p => p.1) = cs.map (fun c => c.1) := by
  unfold placeDies
  dsimp only
  have hkept (kept : List (Nat × Nat × List Nat)) := foldl_append_map (π := fun p : Nat × List Nat => p.1) (ρ := fun c : Nat × Nat × List Nat => c.1)
    (f := fun a c => (c.1, c.2.2 ++ (avail.filter (fun d => !(kept.flatMap (fun x => x.2.2) ++ a.flatMap (fun x => x.2)).contains d)).take
      (c.2.1 - c.2.2.length))) (fun _ _ => rfl) kept []
  have hsize := foldl_append_map (π := fun p : Nat × Nat × List Nat => p.1) (ρ := fun c : Nat × Nat × List Nat => c.1)
    (f := fun a c => (c.1, c.2.1, (avail.filter (fun d => c.2.2.contains d && !(a.flatMap (fun x => x.2.2)).contains d)).take c.2.1))
    (fun _ _ => rfl) cs []
  exact (hkept _).trans hsize

theorem execPartitionRecompute_places {m : Nat}
    (hset : (s.runnableCtxs m).map (fun c => c.1) ≠ (s.module m).runSet) (hnow : (s.module m).wall.toNat % 1000000 = 0)
    (hfit : ((s.runnableCtxs m).map (fun c => c.2.p.mind)).sum ≤ 12) (hlost : (s.module m).lostDies = []) :
    ∃ (t u : State) (ps : List (Nat × List Nat)), exec (.partitionRecompute m) s = .next u ∧ u = t.partition m ps ∧ t.groups = s.groups ∧
      ps.map (fun p => p.1) = (s.runnableCtxs m).map (fun c => c.1) := by
  have havail : (List.range 12).filter (fun d => !(s.module m).lostDies.contains d) = List.range 12 := by rw [hlost]; rfl
  rw [show exec (.partitionRecompute m) s = execPartitionRecompute m s from rfl]
  unfold execPartitionRecompute
  extract_lets md now cs set boundary avail need extra sizes
  have hgo : ¬ (!(boundary || (now % 1000000 == 0 && set != md.runSet))) = true := by
    have hnow' : (now % 1000000 == 0) = true := beq_iff_eq.mpr hnow
    have hset' : (set != md.runSet) = true := by simpa using hset
    rw [hnow', hset', Bool.true_and, Bool.or_true]
    decide
  have hneed : need ≤ avail.length := by
    rw [show avail = List.range 12 from havail]
    exact hfit
  rw [if_neg hgo, if_pos hneed]
  refine ⟨_, _, _, rfl, rfl, rfl, ?_⟩
  rw [placeDies_fst]
  simp only [sizes, List.map_map]
  rfl

/-! #### The host -/

theorem execHostAccess_load {m addr len : Nat} (hready : (s.module m).ready = true) (hpop : s.populated (m * 2 ^ 48 + addr) = true)
    (hpop' : s.populated (m * 2 ^ 48 + addr + len - 1) = true) (hin : addr + len < 2 ^ 48) {bs : List Byte} {t : State}
    (hread : s.hostRead m (lineCuts (m * 2 ^ 48 + addr) (len + 1) len) = some (bs, t)) :
    exec (.hostAccess (.load m addr len)) s = .next (t.modModule m (fun x => { x with hostRead := bs })) := by
  rw [show exec (.hostAccess (.load m addr len)) s = execHostAccess (.load m addr len) s from rfl]
  simp only [execHostAccess]
  rw [if_neg (by simp [-Nat.reducePow, hready, hpop, hpop', hin]), hread]

/-- An access within one line is one part. -/
theorem lineCuts_one {pa n : Nat} (hpos : 0 < n) (hline : pa % 128 + n ≤ 128) : lineCuts pa (n + 1) n = [(pa, n)] := by
  obtain ⟨k, rfl⟩ : ∃ k, n = k + 1 := ⟨n - 1, by omega⟩
  have hmin : min (k + 1) (128 - pa % 128) = k + 1 := by omega
  simp only [lineCuts, hmin, Nat.sub_self]

theorem lineMod_of_lt {m addr : Nat} (hm : m < 1024) (ha : addr < 2 ^ 48) : lineMod (lineOf (m * 2 ^ 48 + addr)) = m := by
  simp only [lineMod, lineOf, paMod]
  omega

theorem execHostAccess_store {m addr pa l : Nat} {bs : List Byte} (hready : (s.module m).ready = true) (hpa : pa = m * 2 ^ 48 + addr)
    (hl : l = lineOf pa) (hpos : 0 < bs.length) (hline : pa % 128 + bs.length ≤ 128) (hpop : s.populated pa = true)
    (hpop' : s.populated (pa + bs.length - 1) = true) (hin : addr + bs.length < 2 ^ 48) (hregs : s.hasRegs l = false)
    (hmoved : s.movedLine l = false) (hlost : s.homeLost (128 * l) = false) (hred : (s.line l).red = none) (hlock : (s.line l).lock = none)
    (hdir : (s.line l).dir = .uncached) (hpin : s.pinnedBy (lineMod l) l = false) (hx : s.xlatClear l [] = true)
    (hroom : s.switchRoom l (mwriteN s.mem pa bs) = true) :
    ∃ t : State, exec (.hostAccess (.store m addr bs)) s = .next t ∧ t.mem = mwriteN s.mem pa bs := by
  subst hpa hl
  have hm : m < 1024 := by
    simp only [State.populated, Bool.and_eq_true, decide_eq_true_eq] at hpop
    omega
  have hmod : lineMod (lineOf (m * 2 ^ 48 + addr)) = m := lineMod_of_lt hm (by omega)
  have hwrite := State.tryWrite_home (m := m) (cov := (List.range bs.length).map (fun i => m * 2 ^ 48 + addr + i))
    (f := fun mem => mwriteN mem (m * 2 ^ 48 + addr) bs) (o := .host) hmoved hlost hred hlock hdir hpin hx hroom
  obtain ⟨r, hr⟩ : ∃ r, r = s.putWrite m (lineOf (m * 2 ^ 48 + addr)) ((List.range bs.length).map (fun i => m * 2 ^ 48 + addr + i))
    (mwriteN s.mem (m * 2 ^ 48 + addr) bs) .host := ⟨_, rfl⟩
  obtain ⟨-, -, -, hmem, -⟩ := hr ▸ s.putWrite_spec m (lineOf (m * 2 ^ 48 + addr)) ((List.range bs.length).map (fun i => m * 2 ^ 48 + addr + i))
    (mwriteN s.mem (m * 2 ^ 48 + addr) bs) .host
  have heng : s.engWrite m (m * 2 ^ 48 + addr) bs .host = some r := by
    simp only [State.engWrite, hmod, bne_self_eq_false, Bool.false_and, Bool.false_eq_true, if_false]
    rw [hwrite, hr]
  have hhost : s.hostWrite m bs (m * 2 ^ 48 + addr) (lineCuts (m * 2 ^ 48 + addr) (bs.length + 1) bs.length) = some r.2.settlePend := by
    rw [lineCuts_one hpos hline]
    simp only [State.hostWrite, Nat.sub_self, List.drop_zero, List.take_length, heng]
  refine ⟨r.2.settlePend, ?_, ?_⟩
  · rw [show exec (.hostAccess (.store m addr bs)) s = execHostAccess (.store m addr bs) s from rfl]
    simp only [execHostAccess]
    rw [if_neg (by simp [-Nat.reducePow, hready, hpop, hpop', hin]), hhost]
  · obtain ⟨_, _, _, _, _, _, _, hsettle⟩ := State.Settled.settlePend r.2
    rw [hsettle]
    exact hmem hregs

end

/-- Settles O57: what the control plane and the host leave, step by step. -/
theorem controlPlane : Obligations.ControlPlane := by
  unfold Obligations.ControlPlane
  refine ⟨⟨?_, ?_, ?_, ?_, ?_, ?_⟩, ?_, ?_, ?_⟩
  · intro s p md hmod hready hlife hnew hok
    exact execContextCreate_creates hmod hready hlife hnew hok
  · intro s k c hc htorn hcopies
    exact execContextTeardown_tears hc htorn hcopies
  · intro s k c id hc htorn hlo hhi hroom hfree
    exact ⟨execEventActivate_new hc htorn hlo hhi hroom hfree, execEventDeactivate_none hfree⟩
  · intro s m id e hfind hinline hover
    exact execEventDeactivate_drops hfind hinline hover
  · intro s p c hc htorn hnum hfree hblock hring hown hown' hlo hhi hprio
    exact ⟨_, _, execQueueCreate_writes hc htorn hnum hfree hblock hring hown hown' hlo hhi hprio, rfl, rfl⟩
  · intro s m hwhole
    exact ⟨execPartitionRecompute_same hwhole, execPartitionRecompute_places⟩
  · intro s m addr len hready hpop hpop' hin bs t hread
    exact execHostAccess_load hready hpop hpop' hin hread
  · intro s m addr pa l bs hready hpa hl hpos hline hpop hpop' hin hregs hmoved hlost hred hlock hdir hpin hx hroom
    exact execHostAccess_store hready hpa hl hpos hline hpop hpop' hin hregs hmoved hlost hred hlock hdir hpin hx hroom
  · intro s k q qu hq
    have hprogress : exec (.hostAccess (.windowProgress k q)) s = .next (s.windowIgnored k q qu) := by
      rw [show exec (.hostAccess (.windowProgress k q)) s = execHostAccess (.windowProgress k q) s from rfl]
      simp only [execHostAccess, hq]
    have hread (b : Bool) : exec (.hostAccess (.windowRead k q b)) s = .next (s.modModule k.m (fun x => { x with
        hostRead := toBytes 8 (if b then s.windowProgress qu else s.qTail qu) })) := by
      rw [show exec (.hostAccess (.windowRead k q b)) s = execHostAccess (.windowRead k q b) s from rfl]
      simp only [execHostAccess, hq]
    refine ⟨hread false, ?_, _, hprogress, rfl⟩
    rintro w rfl
    exact hread true

end Sys2Proof.Machine

/-! ### The debug block, the trigger sequencer, breakpoints, stops and records (O58) -/
namespace Sys2Proof.Machine

/-! #### Stores to the debug block -/

theorem State.setDbg_frame (s : State) (k : CtxKey) (off v : Nat) : ∃ m, s.setDbg k off v = { s with mem := m } := by
  unfold State.setDbg
  split
  · exact ⟨_, rfl⟩
  · exact ⟨s.mem, rfl⟩

theorem State.setDbg_core (s : State) (k : CtxKey) (off v : Nat) (c : CoreKey) : (s.setDbg k off v).core c = s.core c := by
  obtain ⟨m, h⟩ := s.setDbg_frame k off v
  rw [h]
  rfl

theorem State.setDbg_mem_of_tables {s t : State} {k : CtxKey} {off v : Nat} (hctxs : t.ctxs = s.ctxs) (hmem : t.mem = s.mem) :
    (t.setDbg k off v).mem = (s.setDbg k off v).mem := by
  have hctx : t.ctx? k = s.ctx? k := by rw [State.ctx?, hctxs, State.ctx?]
  unfold State.setDbg
  rw [hctx, hmem]
  split
  · rfl
  · exact hmem

/-- Loading the countdowns of a list of cores loads that of each of them. -/
theorem State.foldl_countdown (n : Nat) (key : Nat → CoreKey) (is : List Nat) (s : State) (c : CoreKey)
    (h : (∃ i ∈ is, key i = c) ∨ (s.core c).countdown = n) :
    ((is.foldl (fun s i => s.modCore (key i) (fun x => { x with countdown := n })) s).core c).countdown = n := by
  induction is generalizing s with
  | nil => simpa using h
  | cons i is ih =>
    rw [List.foldl_cons]
    refine ih _ ?_
    by_cases hi : key i = c
    · subst hi
      exact .inr (by rw [State.modCore, State.setCore_core_self])
    · rw [State.modCore, State.setCore_core_of_ne _ _ _ _ (Ne.symm hi)]
      refine h.imp_left ?_
      rintro ⟨j, hj, hjc⟩
      rcases List.mem_cons.mp hj with rfl | hj
      · exact absurd hjc hi
      · exact ⟨j, hj, hjc⟩

theorem State.foldl_dies_countdown (m n : Nat) (ds : List Nat) (s : State) (c : CoreKey)
    (h : (∃ d ∈ ds, ∃ i < 48, c = ⟨m, d * 48 + i⟩) ∨ (s.core c).countdown = n) :
    ((ds.foldl (fun s d => (List.range 48).foldl (fun s i => s.modCore ⟨m, d * 48 + i⟩ (fun x => { x with countdown := n })) s) s).core
      c).countdown = n := by
  induction ds generalizing s with
  | nil => simpa using h
  | cons d ds ih =>
    rw [List.foldl_cons]
    refine ih _ ?_
    rcases h with ⟨e, he, i, hi, rfl⟩ | h
    · rcases List.mem_cons.mp he with rfl | he
      · exact .inr (foldl_countdown n (fun i => ⟨m, e * 48 + i⟩) _ s _ (.inl ⟨i, List.mem_range.mpr hi, rfl⟩))
      · exact .inl ⟨e, he, i, hi, rfl⟩
    · exact .inr (foldl_countdown n (fun i => ⟨m, d * 48 + i⟩) _ s c (.inr h))

theorem State.loadCountdowns_loads {s : State} {k : CtxKey} {c : Context} {d i : Nat} (n : Nat) (hc : s.ctx? k = some c) (hd : d ∈ c.dies)
    (hi : i < 48) : ((s.loadCountdowns k n).core ⟨k.m, d * 48 + i⟩).countdown = n := by
  unfold State.loadCountdowns
  rw [hc]
  exact foldl_dies_countdown k.m n c.dies s _ (.inl ⟨d, hd, i, hi, rfl⟩)

section
variable {s : State} {k : CtxKey} {v : DWord}

theorem execWhrdWrite_outside (h : s.dbg k 0xC8 < v.toNat ∨ v.toNat + 256 < s.dbg k 0xC8) : exec (.whrdWrite k v) s = .next s := by
  rw [show exec (.whrdWrite k v) s = .next (s.storeWhrd k v.toNat) from rfl]
  unfold State.storeWhrd
  dsimp only
  rw [if_pos h]

theorem execWhrdWrite_inside (h : v.toNat ≤ s.dbg k 0xC8) (h' : s.dbg k 0xC8 ≤ v.toNat + 256) :
    exec (.whrdWrite k v) s = .next (s.setDbg k 0xD8 v.toNat) := by
  rw [show exec (.whrdWrite k v) s = .next (s.storeWhrd k v.toNat) from rfl]
  unfold State.storeWhrd
  dsimp only
  rw [if_neg (by omega)]

theorem execRegisterWrite_readonly {off : Nat} (h : dbgMask off = 0) : exec (.registerWrite k off v) s = .next s := by
  rw [show exec (.registerWrite k off v) s = .next (s.storeReg k off v.toNat) from rfl]
  unfold State.storeReg
  dsimp only
  rw [if_pos h]

theorem execRegisterWrite_other {off : Nat} (hoff : off ≠ 0) (h : dbgMask off ≠ 0) :
    exec (.registerWrite k off v) s = .next (s.setDbg k off (v.toNat &&& dbgMask off)) := by
  rw [show exec (.registerWrite k off v) s = .next (s.storeReg k off v.toNat) from rfl]
  unfold State.storeReg
  dsimp only
  rw [if_neg h, if_neg (fun h => hoff h.1)]

theorem execRegisterWrite_control : exec (.registerWrite k 0 v) s = .next (State.setDbg
    (if slogOn v.toNat = true ∧ slogOn (s.dbg k 0) = false then s.loadCountdowns k (2 ^ (v.toNat / 256 % 32)) else s) k 0
    (v.toNat &&& dbgMask 0)) := by
  rw [show exec (.registerWrite k 0 v) s = .next (s.storeReg k 0 v.toNat) from rfl]
  unfold State.storeReg
  dsimp only
  rw [if_neg (by decide)]
  simp only [true_and, Bool.not_eq_true']

theorem execRegisterWrite_countdown {c : Context} {d i : Nat} (hc : s.ctx? k = some c) (hd : d ∈ c.dies) (hi : i < 48)
    (hon : slogOn v.toNat = true) (hoff : slogOn (s.dbg k 0) = false) : ∃ t : State, exec (.registerWrite k 0 v) s = .next t ∧
      (t.core ⟨k.m, d * 48 + i⟩).countdown = 2 ^ (v.toNat / 256 % 32) := by
  rw [execRegisterWrite_control, if_pos ⟨hon, hoff⟩]
  refine ⟨_, rfl, ?_⟩
  rw [State.setDbg_core]
  exact State.loadCountdowns_loads _ hc hd hi

end

theorem debugStores : Claims.DebugStores := by
  intro s k v
  exact ⟨rfl, execWhrdWrite_outside, execWhrdWrite_inside, rfl, rfl, fun _ => execRegisterWrite_other, execRegisterWrite_control,
    fun _ _ _ => execRegisterWrite_countdown, fun _ => execRegisterWrite_readonly⟩

/-! #### The trigger sequencer -/

/-- The event taken next is one of those offered, and none goes before it. -/
theorem nextEvent_first {es : List TrigEv} {e : TrigEv} (h : nextEvent es = some e) :
    e ∈ es ∧ ∀ f ∈ es, e.wtime < f.wtime ∨ (e.wtime = f.wtime ∧ e.core ≤ f.core) := by
  induction es generalizing e with
  | nil => simp [nextEvent] at h
  | cons a es ih =>
    unfold nextEvent at h
    split at h
    · next hnone =>
      obtain rfl := Option.some.inj h
      have hes : es = [] := by
        cases es with
        | nil => rfl
        | cons b bs =>
          unfold nextEvent at hnone
          split at hnone
          · exact absurd hnone (by simp)
          · split at hnone <;> exact absurd hnone (by simp)
      subst hes
      exact ⟨List.mem_singleton_self a, fun f hf => .inr (by simp [List.mem_singleton.mp hf])⟩
    · next b hb =>
      obtain ⟨hmem, hleast⟩ := ih hb
      split at h
      · next hlt =>
        obtain rfl := Option.some.inj h
        refine ⟨List.mem_cons_of_mem _ hmem, fun f hf => ?_⟩
        rcases List.mem_cons.mp hf with rfl | hf
        · omega
        · exact hleast f hf
      · next hge =>
        obtain rfl := Option.some.inj h
        refine ⟨List.mem_cons_self, fun f hf => ?_⟩
        rcases List.mem_cons.mp hf with rfl | hf
        · exact .inr ⟨rfl, le_refl _⟩
        · have := hleast f hf
          omega

section
variable {s : State} {k : CtxKey} {e : TrigEv}

theorem execSequencerEvent_early {c : Context} (hc : s.ctx? k = some c) (he : nextEvent c.trig = some e) (h : s.wall k.m ≤ e.wtime) :
    exec (.sequencerEvent k) s = .next s := by
  rw [show exec (.sequencerEvent k) s = execSequencerEvent k s from rfl]
  simp only [execSequencerEvent, hc, he, if_pos h]

theorem execSequencerEvent_takes {c : Context} (hc : s.ctx? k = some c) (he : nextEvent c.trig = some e) (h : e.wtime < s.wall k.m) :
    exec (.sequencerEvent k) s = .next (State.takeEvent (s.setCtx k { c with trig := dropEvent e c.trig }) k e) := by
  rw [show exec (.sequencerEvent k) s = execSequencerEvent k s from rfl]
  simp only [execSequencerEvent, hc, he, if_neg (Nat.not_le.mpr h)]

theorem State.takeEvent_stays {x : SeqSt} (hx : s.seqSt k = x) (hseq : x.seq = 0 ∨ x.seq = 3) : ∃ t : State, s.takeEvent k e = t.putSeq k x := by
  unfold State.takeEvent
  rw [hx]
  rcases hseq with h | h <;> (simp only [h]; exact ⟨_, rfl⟩)

theorem State.takeEvent_first {x : SeqSt} (hx : s.seqSt k = x) (hseq : x.seq = 1) {a f : Bool} {c : Nat}
    (hrule : s.ruleStep k false x.a0 x.c0 e = (a, c, f)) : ∃ t : State, s.takeEvent k e =
      t.putSeq k (if f = true then s.seqEnter k { x with a0 := a, c0 := c, seq := 2 } else { x with a0 := a, c0 := c }) := by
  unfold State.takeEvent
  rw [hx]
  simp only [hseq, hrule]
  exact ⟨_, rfl⟩

theorem State.takeEvent_second {x : SeqSt} (hx : s.seqSt k = x) (hseq : x.seq = 2) {a f : Bool} {c : Nat}
    (hrule : s.ruleStep k true x.a1 x.c1 e = (a, c, f)) : ∃ t : State, s.takeEvent k e =
      t.putSeq k (if f = true then { x with a1 := a, c1 := c, seq := 3 } else { x with a1 := a, c1 := c }) := by
  unfold State.takeEvent
  rw [hx]
  simp only [hseq, hrule]
  exact ⟨_, rfl⟩

section
variable {fr a : Bool} {c n bsel asel : Nat} (hrule : s.seqRule k fr = (n, bsel, asel))
include hrule

theorem State.ruleStep_reserved (h : 4 ≤ asel) : s.ruleStep k fr a c e = (a, c, false) := by
  simp only [State.ruleStep, hrule, if_pos h]

theorem State.ruleStep_a (h : asel < 4) (ha : asel ≠ 0 ∧ s.selects k asel e = true) : s.ruleStep k fr a c e = (true, c, false) := by
  simp only [State.ruleStep, hrule, if_neg (Nat.not_le.mpr h), if_pos ha]

theorem State.ruleStep_b (hc : c < 2 ^ 32 - 1) (h : asel < 4) (hna : ¬ (asel ≠ 0 ∧ s.selects k asel e = true)) (ha : a = true)
    (hb : s.selects k bsel e = true) : s.ruleStep k fr a c e = (true, c + 1, decide (n ≤ c + 1)) := by
  have hmin : min (c + 1) (2 ^ 32 - 1) = c + 1 := by omega
  simp only [State.ruleStep, hrule, if_neg (Nat.not_le.mpr h), if_neg hna, ha, hb, Bool.and_self, if_true, hmin]

theorem State.ruleStep_none (hna : ¬ (asel ≠ 0 ∧ s.selects k asel e = true)) (h : a = false ∨ s.selects k bsel e = false) :
    s.ruleStep k fr a c e = (a, c, false) := by
  have hb : ¬ (a && s.selects k bsel e) = true := by rcases h with h | h <;> simp [h]
  simp only [State.ruleStep, hrule, if_neg hna, if_neg hb, ite_self]

end

end

theorem sequencerSteps : Claims.SequencerSteps :=
  ⟨fun _ _ _ _ hc he => ⟨execSequencerEvent_early hc he, execSequencerEvent_takes hc he⟩, fun _ _ => nextEvent_first,
    fun _ _ _ _ hx => ⟨State.takeEvent_stays hx, fun hseq _ _ _ => State.takeEvent_first hx hseq, fun hseq _ _ _ => State.takeEvent_second hx hseq⟩,
    fun _ _ _ _ _ _ _ _ _ hrule hc => ⟨State.ruleStep_reserved hrule, State.ruleStep_a hrule, State.ruleStep_b hrule hc,
      State.ruleStep_none hrule⟩⟩

/-! #### Breakpoints and stops -/

/-- t is s but for records that went to the capture rings. -/
def State.Captured (s t : State) : Prop :=
  (∃ xs m n, t = { s with ctxs := xs, mem := m, freeCtr := n }) ∧
    ∀ k c, s.ctx? k = some c → ∃ x, t.ctx? k = some x ∧ x.runnable = c.runnable

namespace State.Captured
variable {s t u : State}

theorem of_mem (m : Memory) (n : Nat) : s.Captured { s with mem := m, freeCtr := n } :=
  ⟨⟨_, _, _, rfl⟩, fun _ c h => ⟨c, h, rfl⟩⟩

theorem refl (s : State) : s.Captured s := of_mem s.mem s.freeCtr

theorem trans (h : s.Captured t) (h' : t.Captured u) : s.Captured u := by
  obtain ⟨⟨_, _, _, rfl⟩, hctx⟩ := h
  obtain ⟨⟨_, _, _, rfl⟩, hctx'⟩ := h'
  refine ⟨⟨_, _, _, rfl⟩, fun k c hc => ?_⟩
  obtain ⟨x, hx, hrun⟩ := hctx k c hc
  obtain ⟨y, hy, hrun'⟩ := hctx' k x hx
  exact ⟨y, hy, hrun'.trans hrun⟩

theorem foldl {α : Type} {f : State → α → State} (h : ∀ s a, State.Captured s (f s a)) (l : List α) (s : State) : s.Captured (l.foldl f s) :=
  foldl_rel State.Captured.refl (fun _ _ _ => State.Captured.trans) h l s

theorem setDbg (s : State) (k : CtxKey) (off v : Nat) : s.Captured (s.setDbg k off v) := by
  obtain ⟨m, h⟩ := s.setDbg_frame k off v
  rw [h]
  exact of_mem m s.freeCtr

theorem capture (s : State) (k : CtxKey) (r : List DWord) : s.Captured (s.capture k r) := by
  unfold State.capture
  extract_lets lg n u
  split
  · exact trans (t := u) (of_mem _ _) (setDbg ..)
  · exact refl s

theorem modCtx (s : State) (k : CtxKey) {f : Context → Context} (hf : ∀ c, (f c).runnable = c.runnable) : s.Captured (s.modCtx k f) := by
  obtain ⟨xs, h⟩ := s.modCtx_frame k f
  refine ⟨⟨xs, s.mem, s.freeCtr, h⟩, fun j c hc => ?_⟩
  rw [State.modCtx_ctx]
  split
  · next hj => exact ⟨f c, by rw [← hj, hc, Option.map_some], hf c⟩
  · exact ⟨c, hc, rfl⟩

theorem flushIssue (s : State) (k : CtxKey) : s.Captured (s.flushIssue k) := by
  unfold State.flushIssue
  split
  · exact refl s
  · exact refl s
  · exact (capture ..).trans (modCtx _ _ fun _ => rfl)

theorem dumpRecord (s : State) (team : Nat) (k : CtxKey) (d : DieKey) (e : ArrLog) (ent : Nat) : s.Captured (s.dumpRecord team k d e ent) :=
  trans (t := { s with freeCtr := s.freeCtr + 16 }) (of_mem _ _) (capture ..)

theorem team? (h : s.Captured t) (id : Nat) : t.team? id = s.team? id := by
  obtain ⟨⟨_, _, _, rfl⟩, -⟩ := h
  rfl

theorem groups (h : s.Captured t) : t.groups = s.groups := by
  obtain ⟨⟨_, _, _, rfl⟩, -⟩ := h
  rfl

end State.Captured

theorem execBreakpointHit_stops {s : State} {g : Group} {f : Frag} (hg : s.group? s.cur.k = some g) (hf : g.frag s.cur.slot = some f)
    (hskip : f.bpSkip = false) (hheld : s.heldFrag s.cur.k s.cur.slot g f = false) :
    (s.bpMatch g.key f.pc false = true → exec .breakpointHit s = .next ((s.setGroup s.cur.k (g.setFrag s.cur.slot
      (some { f with bpSkip := true }))).teamStop g.team .brk f.pc (some (g.gidx, s.cur.slot)))) ∧
    (s.bpMatch g.key f.pc false = false → exec .breakpointHit s = .next s) := by
  rw [show exec .breakpointHit s = execBreakpointHit s from rfl]
  constructor <;> intro h
  · simp only [execBreakpointHit, hg, hf, hskip, hheld, h, Bool.not_true, Bool.or_self, Bool.false_eq_true, if_false]
  · simp only [execBreakpointHit, hg, hf, h, Bool.not_false, Bool.or_true, if_true]

/-- The state that a word left, as a logging breakpoint at it takes it. -/
def State.snapshotOf (s : State) (g : Group) (sl : Slot) (pc : DWord) : Snapshot :=
  ⟨pc, (s.module g.key.m).wall, ((s.team? g.team).map (·.x)).getD 0, ((s.team? g.team).map (·.y)).getD 0,
    ((s.team? g.team).map (·.z)).getD 0, s.cur.k.g, sl, g.f0, g.f1, g.stackBytes,
    { g.regs with v := g.regs.v.filter (fun e => (Config.namedVregs pc).contains (e.1 / 32)) }, g.flights.flatMap (fun f => f.dests)⟩

theorem execLogBreakpoint_eq {s : State} {g : Group} {sl : Slot} {pc : DWord} (hg : s.group? s.cur.k = some g) (hlog : g.logAt = some (sl, pc)) :
    exec .logBreakpoint s = .next (((Config.snapshotBodies (s.snapshotOf g sl pc)).foldl (fun s b => s.capture g.key (kindRecord 4 b))
      ((s.setGroup s.cur.k { g with logAt := none }).capture g.key (kindRecord 3 (Config.snapshotHead (s.snapshotOf g sl pc))))).tryEnd g.team) := by
  rw [show exec .logBreakpoint s = execLogBreakpoint s from rfl]
  simp only [execLogBreakpoint, hg, hlog, State.snapshotOf]

theorem execLogBreakpoint_records {s : State} {g : Group} {sl : Slot} {pc : DWord} (hg : s.group? s.cur.k = some g) (hlog : g.logAt = some (sl, pc)) :
    ∃ (t : State) (snap : Snapshot), exec .logBreakpoint s = .next (t.tryEnd g.team) ∧ snap.pc = pc ∧ snap.slot = sl ∧
      snap.regs = { g.regs with v := g.regs.v.filter (fun e => (Config.namedVregs pc).contains (e.1 / 32)) } ∧ snap.stack = g.stackBytes ∧
      t = (Config.snapshotBodies snap).foldl (fun s b => s.capture g.key (kindRecord 4 b))
        ((s.setGroup s.cur.k { g with logAt := none }).capture g.key (kindRecord 3 (Config.snapshotHead snap))) := by
  rw [execLogBreakpoint_eq hg hlog]
  exact ⟨_, s.snapshotOf g sl pc, rfl, rfl, rfl, rfl, rfl, rfl⟩

theorem execTeamStop_halts {s : State} {id : Nat} {t : Team} {cause : StopCause} {p : DWord} {run : Bool} (ht : s.team? id = some t)
    (hhalted : t.halted = false) (hstop : t.stop = some (cause, p)) (hst : t.st = .saved run) :
    ∃ u : State, exec (.teamStop id cause) s = .next u ∧ (u.team? id).map (fun t => t.halted) = some true ∧ u.groups = s.groups ∧
      ∀ c, s.ctx? t.key = some c → ∃ x, u.ctx? t.key = some x ∧ id ∉ x.runnable := by
  rw [show exec (.teamStop id cause) s = execTeamStop id cause s from rfl]
  unfold execTeamStop
  rw [ht]
  dsimp -zeta only
  rw [if_neg (by simp [hhalted, hstop])]
  extract_lets here die log waits s0 u1 u2 u3
  have hhere : here = false := by simp only [here, hst]
  have h0 : s0 = s := by simp only [s0, hhere, Bool.false_eq_true, if_false]
  rw [hhere, Bool.false_and, if_neg Bool.false_ne_true]
  have hrec : u1.Captured ((waits.foldl (fun s e => s.dumpRecord id t.key die e 2) u3)) :=
    (State.Captured.flushIssue u1 t.key).trans ((State.Captured.foldl (fun _ _ => .dumpRecord ..) _ u2).trans (.foldl (fun _ _ => .dumpRecord ..) waits u3))
  obtain ⟨xs, hctx⟩ := State.modCtx_frame (s0.modTeam id fun t => { t with halted := true }) t.key
    (fun c => { c with runnable := c.runnable.filter (fun x => x ≠ id) })
  refine ⟨_, rfl, ?_, ?_, fun c hc => ?_⟩
  · rw [hrec.team?, show u1 = _ from hctx]
    show Option.map _ ((s0.modTeam id _).team? id) = _
    rw [State.modTeam_team, if_pos rfl, h0, ht]
    rfl
  · rw [hrec.groups, show u1 = _ from hctx]
    obtain ⟨ts, hteam⟩ := s0.modTeam_frame id (fun t => { t with halted := true })
    rw [hteam, h0]
  · have hu1 : u1.ctx? t.key = some { c with runnable := c.runnable.filter (fun x => x ≠ id) } := by
      obtain ⟨ts, hteam⟩ := s0.modTeam_frame id (fun t => { t with halted := true })
      simp only [u1]
      rw [State.modCtx_ctx, if_pos rfl, hteam, h0]
      show Option.map _ (s.ctx? t.key) = _
      rw [hc]
      rfl
    obtain ⟨x, hx, hrun⟩ := hrec.2 _ _ hu1
    exact ⟨x, hx, by rw [hrun]; simp⟩

theorem State.contTeam_runnable {s : State} {id : Nat} {t : Team} (step : Bool) (ht : s.team? id = some t) (hhalted : t.halted = true)
    (hst : t.st = .saved true) : s.contTeam id step = State.modCtx (s.setTeam id { t with
        halted := false, stop := none, also := [], stepping := step, joined := s.wall t.key.m, stopAt := if step then t.stopAt else none })
      t.key (fun c => { c with runnable := c.runnable ++ [id] }) := by
  unfold State.contTeam
  rw [ht]
  dsimp only
  rw [if_neg (by rw [hhalted]; decide), hst]
  rfl

theorem execDebug_continues {s : State} {id : Nat} {t : Team} {step : Bool} (ht : s.team? id = some t)
    (hat : step = true → t.stopAt ≠ none) :
    exec (if step then .debugStep id else .debugCont (.team id)) s = .next (s.contTeam id step) := by
  cases step with
  | false => rfl
  | true =>
    have hsome : ¬ t.stopAt.isNone = true := by simpa using hat rfl
    rw [if_pos rfl, show exec (.debugStep id) s = execDebugStep id s from rfl]
    simp only [execDebugStep, ht, if_neg hsome]

theorem stopsAndBreakpoints : Claims.StopsAndBreakpoints := by
  refine ⟨fun s g f => execBreakpointHit_stops, fun s g sl pc hg => ⟨fun hlog => ?_, execLogBreakpoint_records hg⟩,
    fun s id t cause p run => execTeamStop_halts, fun s id t step ht hhalted hst hat => ?_⟩
  · rw [show exec .logBreakpoint s = execLogBreakpoint s from rfl]
    simp only [execLogBreakpoint, hg, hlog]
  · rw [execDebug_continues ht hat, State.contTeam_runnable step ht hhalted hst]

/-! #### Records of watches and of sampled requests -/

theorem execWatchHit_records {s : State} {i : Nat} {a : WatchAcc} (ha : s.watches[i]? = some a) (hfirst : ∀ b ∈ s.watches.take i, b.key ≠ a.key)
    (hstop : (s.dbg a.key (0x88 + 16 * a.w)).testBit 50 = false) :
    ∃ t : State, exec (.watchHit i) s = .next (t.tryEnd a.team) ∧ t.watches = s.watches.eraseIdx i ∧ t.groups = s.groups ∧
      (s.dbg a.key 0xC8 - s.dbg a.key 0xD8 = 256 → t.mem = (s.setDbg a.key 0xD0 (s.dbg a.key 0xD0 / 2 ^ 32 * 2 ^ 32 +
        min (s.dbg a.key 0xD0 % 2 ^ 32 + 1) (2 ^ 32 - 1))).mem) ∧
      (s.dbg a.key 0xC8 - s.dbg a.key 0xD8 ≠ 256 → ∃ r, t = State.setDbg { s with
        watches := s.watches.eraseIdx i, mem := mwriteN s.mem (s.dbg a.key 0xC0 + 32 * (s.dbg a.key 0xC8 % 256)) (toBytes 32 r) }
          a.key 0xC8 (s.dbg a.key 0xC8 + 1)) := by
  have hnone : (s.watches.take i).any (fun b => b.key == a.key) = false := List.any_eq_false.mpr fun b hb => by simpa using hfirst b hb
  rw [show exec (.watchHit i) s = execWatchHit i s from rfl]
  unfold execWatchHit
  rw [ha]
  dsimp -zeta only
  rw [hnone, if_neg (by decide)]
  extract_lets k t ended halted asks stops n d num r u v w
  have hasks : stops = false := by
    simp only [stops, show asks = false from hstop, Bool.false_and]
  have hw : w = v := by simp only [w, hasks, Bool.not_false, if_true]
  refine ⟨v, by rw [hw], ?_⟩
  simp only [v]
  split
  · next hfull =>
    obtain ⟨m, hm⟩ := u.setDbg_frame k 0xD0 (d / 2 ^ 32 * 2 ^ 32 + min (d % 2 ^ 32 + 1) (2 ^ 32 - 1))
    have hmem : (u.setDbg k 0xD0 (d / 2 ^ 32 * 2 ^ 32 + min (d % 2 ^ 32 + 1) (2 ^ 32 - 1))).mem =
        (s.setDbg k 0xD0 (d / 2 ^ 32 * 2 ^ 32 + min (d % 2 ^ 32 + 1) (2 ^ 32 - 1))).mem := State.setDbg_mem_of_tables rfl rfl
    refine ⟨by rw [hm], by rw [hm], fun _ => hmem, fun hroom => absurd hfull hroom⟩
  · next hroom =>
    obtain ⟨m, hm⟩ := State.setDbg_frame { u with mem := mwriteN u.mem (u.dbg k 0xC0 + 32 * (n % 256)) (toBytes 32 r) } k 0xC8 (n + 1)
    exact ⟨by rw [hm], by rw [hm], fun hfull => absurd hfull hroom, fun _ => ⟨r, rfl⟩⟩

theorem execStitchRecordReturn_records {s : State} {i : Nat} {y : Stitch} (hy : s.stitches.find? (fun y => y.id == i) = some y)
    (hans : s.answered y = true) :
    ∃ (t : State) (e : TrigEv), exec (.stitchRecordReturn i) s = .next (t.offer y.key e) ∧ e.code = 2 ∧
      e.arg = min (s.wall y.core.m - y.issued) (2 ^ 31 - 1) ∧ t.stitches = s.stitches.filter (fun z => z.id ≠ i) ∧
      ((s.core y.core).samples.length < 64 → (t.core y.core).samples = (s.core y.core).samples ++ [{ y with
        total := min (s.wall y.core.m - y.issued) (2 ^ 31 - 1) }] ∧ t.mem = s.mem) ∧
      (64 ≤ (s.core y.core).samples.length → t.cores = s.cores) := by
  rw [show exec (.stitchRecordReturn i) s = execStitchRecordReturn i s from rfl]
  unfold execStitchRecordReturn
  rw [hy]
  dsimp -zeta only
  rw [if_neg (by rw [hans]; decide)]
  extract_lets total u w v
  refine ⟨v, _, rfl, rfl, rfl, ?_⟩
  simp only [v]
  split
  · next hroom =>
    refine ⟨rfl, fun _ => ⟨?_, rfl⟩, fun hfull => absurd hroom (Nat.not_lt.mpr hfull)⟩
    rw [State.modCore, State.setCore_core_self]
    rfl
  · next hfull =>
    obtain ⟨m, hm⟩ := u.setDbg_frame y.key 0xD0 (min (w / 2 ^ 32 + 1) (2 ^ 32 - 1) * 2 ^ 32 + w % 2 ^ 32)
    exact ⟨by rw [hm], fun hroom => absurd hroom hfull, fun _ => by rw [hm]⟩

/-- Settles O58: the stores to the debug block, the sequencer, breakpoints and stops, and the records. -/
theorem debugSteps : Obligations.DebugSteps :=
  ⟨debugStores, sequencerSteps, stopsAndBreakpoints, fun _ _ _ => execWatchHit_records, fun _ _ _ => execStitchRecordReturn_records⟩

end Sys2Proof.Machine

/-! ### A lane that loses its data keeps its parts (O59) -/
namespace Sys2Proof.Machine

/-! The counterexample to O59: a group with one load of one lane outstanding. An error of the device memory under it makes the lane lose its
data: its part is marked as having no bytes to bring, so that it asks for nothing more, but it stays in the load, under its lane; the
statement says that no part of the lane is left. -/
namespace LostLane

def key : GKey := ⟨0, 0, 0⟩

/-- The lane's read of the word at 0x40000000. -/
def part : Part := ⟨0, .global, 0x40000000, 0x40000000#64, 0, 4, 0, 0, none, 0⟩

def flight : Flight where
  id := 1
  ord := 0
  cls := 0
  pc := 0x8000#64
  mask := 1#32
  act := 1#32
  kind := .load .b32 0
  dests := [.v 0]
  acq := false
  parts := [part]
  writes := []
  flags := 0
  ready := false
  landAt := 0
  issued := 0
  wallAt := 0
  blocked := false
  lease := 2048
  hits := []
  past := []
  refused := []

def group : Group where
  team := 1
  key := ⟨0, 0⟩
  gidx := 0
  nregs := 32
  f0 := none
  f1 := none
  stack := []
  tokctr := 0
  exited := 0
  regs := ⟨[], [], [], []⟩
  sr := Sregs.launch
  handler := none
  late := []
  taker := none
  replay := none
  flights := [flight]
  badRegs := []
  sb := []
  loc := []
  wbs := []
  gwct := []
  gwm := []
  locks := []
  cpyErr := 0
  shOps := []
  nextId := 2
  regReady := []
  gtHit := false
  halting := false
  ended := false
  logAt := none

def state : State := { State.reset with groups := [(key, group)] }

/-- The lanes of the parts that the group's load has after a step. -/
def lanesAfter (o : Out) : Option (List Nat) :=
  match o with
  | .next t => (t.group? key).bind (fun h => (h.flight? 1).map (fun x => x.parts.map (fun q => q.lane)))
  | .fault _ | .refused _ => none

theorem lanesAfter_error : lanesAfter (exec (.uncorrectableError (.dram 0x40000000 32 key 1 0)) state) = some [0] := by decide +kernel

end LostLane

/-- Refutes O59: a lane that loses its data keeps its parts, as parts that bring no bytes, where the statement has none of them left. -/
theorem not_management : ¬ Obligations.Management := by
  unfold Obligations.Management
  rintro ⟨-, -, -, -, -, -, -, hdram, -⟩
  obtain ⟨t, hexec, -, -, hlanes⟩ := hdram LostLane.state 0x40000000 32 LostLane.key 1 0 LostLane.group LostLane.flight LostLane.part rfl rfl rfl
    (by decide) rfl
  have hleft := LostLane.lanesAfter_error
  rw [hexec, LostLane.lanesAfter, Option.bind_eq_some_iff] at hleft
  obtain ⟨h, hgroup, hleft⟩ := hleft
  obtain ⟨x, hflight, hparts⟩ := Option.map_eq_some_iff.mp hleft
  have hmem : LostLane.part.lane ∈ x.parts.map (fun q => q.lane) := by rw [hparts]; exact List.mem_singleton_self 0
  obtain ⟨q, hq, hlane⟩ := List.mem_map.mp hmem
  exact (hlanes h hgroup).2 x hflight q hq hlane

end Sys2Proof.Machine

/-! ### The memories of a state, and what keeps them in their canonical form (O60) -/
namespace Sys2Proof.Machine

/-- The six memories. -/
structure Memories where
  mem : Memory
  dev : Memory
  scratch : Memory
  pks : Memory
  lpm : Memory
  tiles : Memory

/-- The memories of a state. -/
def State.memories (s : State) : Memories := ⟨s.mem, s.dev, s.scratch, s.pks, s.lpm, s.tiles⟩

/-- Each is in its canonical form. -/
def Memories.wf (m : Memories) : Bool := m.mem.wf && m.dev.wf && m.scratch.wf && m.pks.wf && m.lpm.wf && m.tiles.wf

theorem State.memOk_eq (s : State) : s.memOk = s.memories.wf := rfl

@[simp] theorem Memories.eta (s : State) : Memories.mk s.mem s.dev s.scratch s.pks s.lpm s.tiles = s.memories := rfl

@[simp] theorem State.memories_mk (agenda cur freeCtr mods parked dies cores groups teams grids ctxs mem dev scratch pks lpm tiles lines copies
    proxies pend reqs flags unlks shuttles colls streams collLost gathers drains shevs contribs rounds landings barq stitches watches damaged
    spoiled badTiles nextId) :
    (State.mk agenda cur freeCtr mods parked dies cores groups teams grids ctxs mem dev scratch pks lpm tiles lines copies proxies pend reqs
      flags unlks shuttles colls streams collLost gathers drains shevs contribs rounds landings barq stitches watches damaged spoiled badTiles
      nextId).memories = ⟨mem, dev, scratch, pks, lpm, tiles⟩ := rfl

/-- A fold of steps that leave the memories leaves them. -/
theorem foldl_memories {α : Type} {f : State → α → State} (h : ∀ s a, (f s a).memories = s.memories) (l : List α) (s : State) :
    (l.foldl f s).memories = s.memories := by
  induction l generalizing s with
  | nil => rfl
  | cons a l ih => rw [List.foldl_cons, ih, h]

/-- Each memory of the state is in its canonical form. -/
def State.Canonical (s : State) : Prop := s.memories.wf = true

theorem State.memOk_iff (s : State) : s.memOk = true ↔ s.Canonical := Iff.rfl

namespace State.Canonical
variable {s t : State}

/-- A state with the same memories. -/
theorem same (h : s.Canonical) (ht : t.memories = s.memories) : t.Canonical := by
  rw [State.Canonical, ht]
  exact h

theorem mk (hmem : s.mem.wf = true) (hdev : s.dev.wf = true) (hscratch : s.scratch.wf = true) (hpks : s.pks.wf = true)
    (hlpm : s.lpm.wf = true) (htiles : s.tiles.wf = true) : s.Canonical := by
  simp only [State.Canonical, State.memories, Memories.wf, hmem, hdev, hscratch, hpks, hlpm, htiles, Bool.and_self]

theorem parts (h : s.Canonical) : s.mem.wf = true ∧ s.dev.wf = true ∧ s.scratch.wf = true ∧ s.pks.wf = true ∧ s.lpm.wf = true ∧ s.tiles.wf = true := by
  simpa only [State.Canonical, State.memories, Memories.wf, Bool.and_eq_true, and_assoc] using h

theorem mem (h : s.Canonical) : s.mem.wf = true := h.parts.1
theorem dev (h : s.Canonical) : s.dev.wf = true := h.parts.2.1
theorem scratch (h : s.Canonical) : s.scratch.wf = true := h.parts.2.2.1
theorem pks (h : s.Canonical) : s.pks.wf = true := h.parts.2.2.2.1
theorem lpm (h : s.Canonical) : s.lpm.wf = true := h.parts.2.2.2.2.1
theorem tiles (h : s.Canonical) : s.tiles.wf = true := h.parts.2.2.2.2.2

/-! One memory takes other bytes, in canonical form. -/

theorem withMem (h : s.Canonical) {m : Memory} (hm : m.wf = true) (ht : t.memories = { s.memories with mem := m }) : t.Canonical :=
  (mk hm h.dev h.scratch h.pks h.lpm h.tiles : State.Canonical { s with mem := m }).same ht

theorem withDev (h : s.Canonical) {m : Memory} (hm : m.wf = true) (ht : t.memories = { s.memories with dev := m }) : t.Canonical :=
  (mk h.mem hm h.scratch h.pks h.lpm h.tiles : State.Canonical { s with dev := m }).same ht

theorem withScratch (h : s.Canonical) {m : Memory} (hm : m.wf = true) (ht : t.memories = { s.memories with scratch := m }) : t.Canonical :=
  (mk h.mem h.dev hm h.pks h.lpm h.tiles : State.Canonical { s with scratch := m }).same ht

theorem withPks (h : s.Canonical) {m : Memory} (hm : m.wf = true) (ht : t.memories = { s.memories with pks := m }) : t.Canonical :=
  (mk h.mem h.dev h.scratch hm h.lpm h.tiles : State.Canonical { s with pks := m }).same ht

theorem withLpm (h : s.Canonical) {m : Memory} (hm : m.wf = true) (ht : t.memories = { s.memories with lpm := m }) : t.Canonical :=
  (mk h.mem h.dev h.scratch h.pks hm h.tiles : State.Canonical { s with lpm := m }).same ht

theorem withTiles (h : s.Canonical) {m : Memory} (hm : m.wf = true) (ht : t.memories = { s.memories with tiles := m }) : t.Canonical :=
  (mk h.mem h.dev h.scratch h.pks h.lpm hm : State.Canonical { s with tiles := m }).same ht

theorem of_wrote (h : s.Canonical) (hw : s.Wrote t) : t.Canonical := by
  obtain ⟨⟨_, _, _, _, _, _, _, _, _, _, _, _, _, _, rfl⟩, -, hwf⟩ := hw
  exact h.withMem (hwf h.mem) rfl

theorem ite {c : Prop} [Decidable c] (h : s.Canonical) (h' : t.Canonical) : (if c then s else t).Canonical := by
  split
  · exact h
  · exact h'

theorem foldl {α : Type} {f : State → α → State} (h : s.Canonical) (hf : ∀ s a, State.Canonical s → (f s a).Canonical) (l : List α) :
    (l.foldl f s).Canonical := by
  induction l generalizing s with
  | nil => exact h
  | cons a l ih => exact ih (hf s a h)

end State.Canonical

end Sys2Proof.Machine

/-! ### What leaves every memory as it is -/
namespace Sys2Proof.Machine

/-! #### The tables, groups and traps -/

@[simp] theorem State.setModule_memories (s : State) (m : Nat) (x : Module) : (s.setModule m x).memories = s.memories := rfl

@[simp] theorem State.setCore_memories (s : State) (k : CoreKey) (x : Core) : (s.setCore k x).memories = s.memories := rfl

@[simp] theorem State.setDie_memories (s : State) (k : DieKey) (x : Die) : (s.setDie k x).memories = s.memories := rfl

@[simp] theorem State.setLine_memories (s : State) (l : Nat) (x : Line) : (s.setLine l x).memories = s.memories := rfl

@[simp] theorem State.setGroup_memories (s : State) (k : GKey) (g : Group) : (s.setGroup k g).memories = s.memories := rfl

@[simp] theorem State.setCtx_memories (s : State) (k : CtxKey) (c : Context) : (s.setCtx k c).memories = s.memories := rfl

@[simp] theorem State.setTeam_memories (s : State) (t : Nat) (x : Team) : (s.setTeam t x).memories = s.memories := rfl

@[simp] theorem State.setGrid_memories (s : State) (t : Nat) (x : Grid) : (s.setGrid t x).memories = s.memories := rfl

@[simp] theorem State.modGroup_memories (s : State) (k : GKey) (f : Group → Group) : (s.modGroup k f).memories = s.memories := by
  unfold State.modGroup
  split <;> rfl

@[simp] theorem State.modCtx_memories (s : State) (k : CtxKey) (f : Context → Context) : (s.modCtx k f).memories = s.memories := by
  unfold State.modCtx
  split <;> rfl

@[simp] theorem State.modTeam_memories (s : State) (t : Nat) (f : Team → Team) : (s.modTeam t f).memories = s.memories := by
  unfold State.modTeam
  split <;> rfl

@[simp] theorem State.modCore_memories (s : State) (k : CoreKey) (f : Core → Core) : (s.modCore k f).memories = s.memories := rfl

@[simp] theorem State.modLine_memories (s : State) (l : Nat) (f : Line → Line) : (s.modLine l f).memories = s.memories := rfl

@[simp] theorem State.modModule_memories (s : State) (m : Nat) (f : Module → Module) : (s.modModule m f).memories = s.memories := rfl

@[simp] theorem State.modDie_memories (s : State) (k : DieKey) (f : Die → Die) : (s.modDie k f).memories = s.memories := rfl

@[simp] theorem State.fresh_memories (s : State) : s.fresh.2.memories = s.memories := rfl

@[simp] theorem State.count_memories (s : State) (k : CtxKey) (idx n : Nat) : (s.count k idx n).memories = s.memories := by
  unfold State.count
  split <;> simp

@[simp] theorem State.logErr_memories (s : State) (k : CtxKey) (r : ErrRec) : (s.logErr k r).memories = s.memories := by simp [State.logErr]

@[simp] theorem State.offer_memories (s : State) (k : CtxKey) (e : TrigEv) : (s.offer k e).memories = s.memories := by simp [State.offer]

@[simp] theorem State.event_memories (s : State) (k : CtxKey) (core team code arg : Nat) :
    (s.event k core team code arg).memories = s.memories := by simp [State.event]

@[simp] theorem State.modQueue_memories (s : State) (k : CtxKey) (q : Nat) (f : Queue → Queue) :
    (s.modQueue k q f).memories = s.memories := by simp [State.modQueue]

@[simp] theorem State.countTrap_memories (s : State) (g : Group) (code : Nat) : (s.countTrap g code).memories = s.memories := by
  unfold State.countTrap
  split <;> simp

@[simp] theorem State.teamStop_memories (s : State) (team : Nat) (cause : StopCause) (pc : DWord) (at_ : Option (Nat × Slot)) :
    (s.teamStop team cause pc at_).memories = s.memories := by
  unfold State.teamStop
  repeat' split
  all_goals rfl

@[simp] theorem State.noteStep_memories (s : State) (k : GKey) (sl : Slot) (g : Group) : (s.noteStep k sl g).memories = s.memories := by
  unfold State.noteStep
  repeat' split
  all_goals simp

@[simp] theorem State.escalate_memories (s : State) (k : GKey) (g : Group) (f : Frag) (code : Nat) :
    (s.escalate k g f code).memories = s.memories := by simp [State.escalate]

@[simp] theorem State.noteDieWalk_memories (s : State) (d : DieKey) (es : List TEnt) : (s.noteDieWalk d es).memories = s.memories := by
  unfold State.noteDieWalk
  split <;> rfl

@[simp] theorem State.noteWalk_memories (s : State) (k : CoreKey) (es : List TEnt) : (s.noteWalk k es).memories = s.memories := by
  unfold State.noteWalk
  dsimp only
  split <;> simp

@[simp] theorem State.takeTrap_memories (s : State) (k : GKey) (sl : Slot) (g : Group) (f : Frag) (t : TrapInfo) :
    (s.takeTrap k sl g f t).memories = s.memories := by
  unfold State.takeTrap
  repeat' split
  all_goals simp

@[simp] theorem State.takeLate_memories (s : State) (k : GKey) (sl : Slot) (g : Group) (f : Frag) : (s.takeLate k sl g f).memories = s.memories := by
  unfold State.takeLate
  repeat' split
  all_goals simp

@[simp] theorem State.noteIssue_memories (s : State) (k : GKey) (sl : Slot) : (s.noteIssue k sl).memories = s.memories := rfl

@[simp] theorem State.noteDebug_memories (s : State) (k : GKey) (sl : Slot) (g : Group) (pc : DWord) :
    (s.noteDebug k sl g pc).memories = s.memories := by simp [State.noteDebug]

@[simp] theorem State.wordTrap_memories (s : State) (k : GKey) (sl : Slot) (g : Group) (f : Frag) (t : TrapInfo) :
    (s.wordTrap k sl g f t).memories = s.memories := by
  unfold State.wordTrap
  dsimp only
  split <;> simp

@[simp] theorem Iss.done_memories (x : Iss) (s : State) : (Iss.done x s).memories = s.memories := by simp [Iss.done]

/-! #### Words, members and notes -/

@[simp] theorem Iss.late_memories (x : Iss) : (Iss.late x).memories = x.s.memories := by
  unfold Iss.late
  split <;> simp

@[simp] theorem Iss.short_memories (x : Iss) (dests : List Reg) (regs : Regs) : (Iss.short x dests regs).memories = x.s.memories := rfl

@[simp] theorem Iss.step_memories (x : Iss) (g : Group) : (Iss.step x g).memories = x.s.memories := rfl

@[simp] theorem Iss.later_memories (x : Iss) (cls la : Nat) (dests : List Reg) (cycles : Nat) (ws : List RegW) (fl : Flags) :
    (Iss.later x cls la dests cycles ws fl).memories = x.s.memories := rfl

@[simp] theorem State.modMember_memories (s : State) (team gidx : Nat) (f : Group → Group) : (s.modMember team gidx f).memories = s.memories := by
  unfold State.modMember
  split <;> simp

@[simp] theorem State.pendTeam_memories (s : State) (team gidx : Nat) (l : Late) :
    (s.pendTeam team gidx l).memories = s.memories := by simp [State.pendTeam]

@[simp] theorem State.shardNote_memories (s : State) (key : CtxKey) (d : DieKey) (kind peer sg page slice rnd : Nat) (sent : Bool) (new : Nat) :
    (s.shardNote key d kind peer sg page slice rnd sent new).memories = s.memories := rfl

@[simp] theorem State.waiterNote_memories (s : State) (k : CtxKey) (va : DWord) : (s.waiterNote k va).memories = s.memories := by
  unfold State.waiterNote
  split <;> rfl

@[simp] theorem State.newGather_memories (s : State) (key : CtxKey) (va : DWord) (pa e : Nat) (by_ : Issuer) :
    (s.newGather key va pa e by_).2.memories = s.memories := rfl

@[simp] theorem State.queueGather_memories (s : State) (key : CtxKey) (va : DWord) (by_ : Issuer) :
    (s.queueGather key va by_).memories = s.memories := by
  unfold State.queueGather
  repeat' split
  all_goals rfl

@[simp] theorem State.loadCountdowns_memories (s : State) (k : CtxKey) (n : Nat) : (s.loadCountdowns k n).memories = s.memories :=
  foldl_memories (fun s d => foldl_memories (fun s i => by simp) _ s) _ s

/-! #### Requests -/

@[simp] theorem State.sound_memories (s : State) (sp : Space) (a n : Nat) : (s.sound sp a n).memories = s.memories := rfl

@[simp] theorem State.newReqFor_memories (s : State) (src dst : Nat) (p : Payload) (who : Option ReqWho) :
    (s.newReqFor src dst p who).2.memories = s.memories := rfl

@[simp] theorem State.newReq_memories (s : State) (src dst : Nat) (p : Payload) : (s.newReq src dst p).2.memories = s.memories := rfl

@[simp] theorem State.setReq_memories (s : State) (i : Nat) (f : Req → Req) : (s.setReq i f).memories = s.memories := rfl

@[simp] theorem State.reply_memories (s : State) (i : Nat) (r : Reply) : (s.reply i r).memories = s.memories := rfl

@[simp] theorem State.noteReqFail_memories (s : State) (m : Nat) (key : CtxKey) (team : Nat) (addr pc : DWord) (target grp : Nat) :
    (s.noteReqFail m key team addr pc target grp).memories = s.memories := by simp [State.noteReqFail]

@[simp] theorem State.engTaken_memories (s : State) (r : Option Nat) : (s.engTaken r).memories = s.memories := by
  unfold State.engTaken
  split <;> rfl

@[simp] theorem State.dropAsks_memories (s : State) (n : EngNote) : (s.dropAsks n).memories = s.memories :=
  foldl_memories (fun s e => by simp) _ s

/-! #### What takes note of a write -/

@[simp] theorem State.makeRunnable_memories (s : State) (team : Nat) : (s.makeRunnable team).memories = s.memories := by
  unfold State.makeRunnable
  repeat' split
  all_goals simp

@[simp] theorem State.reevalFrag_memories (s : State) (k : GKey) (sl : Slot) : (s.reevalFrag k sl).memories = s.memories := by
  unfold State.reevalFrag
  repeat' split
  all_goals simp

@[simp] theorem State.reeval_memories (s : State) : s.reeval.memories = s.memories := by
  unfold State.reeval
  dsimp only
  rw [foldl_memories (fun s e => by split <;> simp), foldl_memories (fun s e => by simp)]

@[simp] theorem State.noteStop_memories (s : State) (k : CtxKey) (n : Nat) (q : Queue) : (s.noteStop k n q).memories = s.memories := by
  unfold State.noteStop
  split
  · split <;> simp
  · rfl

@[simp] theorem State.noteQueue_memories (s : State) (k : CtxKey) (n : Nat) (q : Queue) : (s.noteQueue k n q).memories = s.memories := by
  rw [State.noteQueue_eq]
  split
  · rw [foldl_memories (fun s e => by split <;> simp), State.noteStop_memories]
  · exact s.noteStop_memories k n q

@[simp] theorem State.noteQueues_memories (s : State) (l : Nat) : (s.noteQueues l).memories = s.memories :=
  foldl_memories (fun s c => foldl_memories (fun s q => by split <;> simp) _ s) _ s

@[simp] theorem State.noteEntries_memories (s : State) (l : Nat) : (s.noteEntries l).memories = s.memories := by
  unfold State.noteEntries
  dsimp only
  repeat' split
  all_goals simp

@[simp] theorem State.giveExcl_memories (s : State) (l w : Nat) : (s.giveExcl l w).memories = s.memories := rfl

@[simp] theorem State.pendWrite_memories (s : State) (l t : Nat) (wait : List Nat) (o : Origin) (w at_ : Nat) :
    (s.pendWrite l t wait o w at_).2.memories = s.memories := rfl

@[simp] theorem State.setEntry_memories (s : State) (k : GKey) (e : Nat) (st : SbSt) :
    (s.setEntry k e st).memories = s.memories := by simp [State.setEntry]

@[simp] theorem State.replyTo_memories (s : State) (p : Payload) (r : Reply) : (s.replyTo p r).memories = s.memories := by
  unfold State.replyTo
  split <;> rfl

@[simp] theorem State.raiseHz_memories (s : State) (e : EngInst) (t : Nat) : (s.raiseHz e t).memories = s.memories := by
  unfold State.raiseHz
  split <;> rfl

@[simp] theorem State.writeInPlace_memories (s : State) (team gidx : Nat) (kind id : Nat) (ps : List PendWrite) :
    (s.writeInPlace team gidx kind id ps).memories = s.memories := rfl

@[simp] theorem State.flagInPlace_memories (s : State) (i : Nat) (p : PendWrite) : (s.flagInPlace i p).memories = s.memories := by
  unfold State.flagInPlace
  split <;> simp

@[simp] theorem State.settlePend_memories (s : State) : s.settlePend.memories = s.memories := by
  obtain ⟨_, _, _, _, _, _, _, h⟩ := State.Settled.settlePend s
  rw [h]
  rfl

@[simp] theorem State.noteWriter_memories (s : State) (l : Nat) (o : Origin) : (s.noteWriter l o).memories = s.memories := by
  unfold State.noteWriter
  split <;> rfl

@[simp] theorem State.finishWrite_memories (s : State) (l t : Nat) (wait : List Nat) (o : Origin) (w at_ : Nat) :
    (s.finishWrite l t wait o w at_).2.memories = s.memories := by
  unfold State.finishWrite
  dsimp only
  repeat' split
  all_goals simp

@[simp] theorem State.countBytes_memories (s : State) (k : CtxKey) (p : Path) (n : Nat) :
    (s.countBytes k p n).memories = s.memories := by simp [State.countBytes]

@[simp] theorem State.countFadd_memories (s : State) (k : CtxKey) (op n : Nat) : (s.countFadd k op n).memories = s.memories := by
  unfold State.countFadd
  split <;> simp

@[simp] theorem State.countOp_memories (s : State) (k : CtxKey) (op : SbOp) : (s.countOp k op).memories = s.memories := by
  unfold State.countOp
  split <;> simp

@[simp] theorem State.entryDone_memories (s : State) (k : GKey) (e w : Nat) : (s.entryDone k e w).memories = s.memories := by
  unfold State.entryDone
  split <;> simp

@[simp] theorem State.dropCopy_memories (s : State) (d : DieKey) (l : Nat) : (s.dropCopy d l).memories = s.memories := by
  unfold State.dropCopy
  split <;> rfl

/-! #### Samples, locks and leaving groups -/

@[simp] theorem State.noteTouch_memories (s : State) (a : WatchAcc) (core : Nat) (hits : List Nat) (as : List (DWord × Nat)) :
    (s.noteTouch a core hits as).1.memories = s.memories := by
  obtain ⟨_, _, _, _, _, _, _, h, -⟩ := AccessNoted.noteTouch s a core hits as
  rw [h]
  rfl

@[simp] theorem State.sampleOne_memories (s : State) (k : GKey) (g : Group) (q : Sampled) (mark : Option (BitVec 12)) :
    (s.sampleOne k g q mark).memories = s.memories := by
  unfold State.sampleOne
  dsimp only
  repeat' split
  all_goals simp

@[simp] theorem State.sample_memories (s : State) (k : GKey) (g : Group) (mark : Option (BitVec 12)) (qs : List Sampled) :
    (s.sample k g mark qs).memories = s.memories := by
  unfold State.sample
  split
  · rfl
  · rw [foldl_memories (fun s q => by simp), State.sampleOne_memories]

@[simp] theorem Iss.noteAccess_memories (x : Iss) (s : State) (kind : Nat) (as : List (DWord × Nat)) :
    (Iss.noteAccess x s kind as).memories = s.memories := by simp [Iss.noteAccess]

@[simp] theorem State.forceRelease_memories (s : State) (key : CtxKey) (team grp : Nat) (h : HeldLock) :
    (s.forceRelease key team grp h).memories = s.memories := by simp [State.forceRelease]

@[simp] theorem State.closeInterval_memories (s : State) (key : CtxKey) (c : Nat) : (s.closeInterval key c).memories = s.memories := by
  unfold State.closeInterval
  repeat' split
  all_goals simp

@[simp] theorem State.dropLocks_memories (s : State) (key : CtxKey) (team : Nat) : (s.dropLocks key team).memories = s.memories := by
  refine foldl_memories (fun s e => ?_) _ s
  split
  · rw [State.modGroup_memories, foldl_memories (fun s h => by simp)]
  · rfl

@[simp] theorem State.tryEnd_memories (s : State) (team : Nat) : (s.tryEnd team).memories = s.memories := by
  unfold State.tryEnd
  dsimp only
  repeat' split
  all_goals simp

@[simp] theorem Iss.branch_memories (x : Iss) (pc : DWord) : (Iss.branch x pc).memories = x.s.memories := rfl

@[simp] theorem Iss.link_memories (x : Iss) (d : Nat) (pc : DWord) : (Iss.link x d pc).memories = x.s.memories := rfl

@[simp] theorem State.fuseTiles_memories (s : State) (k : GKey) (sl : Slot) : (s.fuseTiles k sl).memories = s.memories := by
  unfold State.fuseTiles
  repeat' split
  all_goals rfl

/-! #### Accesses and caches -/

@[simp] theorem State.noteParts_memories (s : State) (k : GKey) (key : CtxKey) (ps : List XPart) :
    (s.noteParts k key ps).memories = s.memories := by simp [State.noteParts]

@[simp] theorem Iss.noteStores_memories (x : Iss) (ok : List XPart) (kind : Nat) :
    (Iss.noteStores x ok kind).memories = x.s.memories := by simp [Iss.noteStores]

@[simp] theorem State.enterLease_memories (s : State) (m l t : Nat) : (s.enterLease m l t).memories = s.memories := by
  unfold State.enterLease
  repeat' split
  all_goals rfl

@[simp] theorem State.install_memories (s : State) (d : DieKey) (l lease : Nat) (src : List Byte × Word) :
    (s.install d l lease src).memories = s.memories := by simp [State.install]

@[simp] theorem State.askFill_memories (s : State) (k : GKey) (l : Nat) : (s.askFill k l).memories = s.memories := by
  unfold State.askFill
  split <;> rfl

@[simp] theorem State.prefetch_memories (s : State) (k : GKey) (lease : Nat) (l : Nat) : (s.prefetch k lease l).memories = s.memories := by
  unfold State.prefetch
  repeat' split
  all_goals simp

@[simp] theorem Iss.cacheControl_memories (x : Iss) (a : MAddr) (which : Nat) :
    (Iss.cacheControl x a which).memories = x.s.memories := by simp [Iss.cacheControl]

/-! #### Steps of the memory -/

@[simp] theorem State.takeGwct_memories (s : State) (k : GKey) (fl : Nat) (mask : LaneMask) : (s.takeGwct k fl mask).memories = s.memories := by
  unfold State.takeGwct
  dsimp only
  rw [State.modGroup_memories, foldl_memories (fun s p => by simp)]
  rfl

@[simp] theorem State.lateLost_memories (s : State) (k : GKey) (lanes : LaneMask) (va pc : DWord) :
    (s.lateLost k lanes va pc).memories = s.memories := by simp [State.lateLost]

@[simp] theorem State.loseLanes_memories (s : State) (k : GKey) (fl : Nat) (lanes : LaneMask) (va : DWord) :
    (s.loseLanes k fl lanes va).memories = s.memories := by simp [State.loseLanes]

@[simp] theorem State.dropEntry_memories (s : State) (k : GKey) (e : SbEntry) : (s.dropEntry k e).memories = s.memories := by
  unfold State.dropEntry
  split <;> simp

@[simp] theorem State.sampleDrain_memories (s : State) (k : GKey) (g : Group) (x : SbEntry) : (s.sampleDrain k g x).memories = s.memories := by
  unfold State.sampleDrain
  split <;> simp

@[simp] theorem State.mend_memories (s : State) (cov : List Nat) : (s.mend cov).memories = s.memories := rfl

@[simp] theorem State.refuseEntry_memories (s : State) (k : GKey) (e : SbEntry) : (s.refuseEntry k e).memories = s.memories := by
  unfold State.refuseEntry
  split <;> simp

@[simp] theorem State.notePhase_memories (s : State) (g : Group) (f : Flight) (ws : List RegW) : (s.notePhase g f ws).memories = s.memories := by
  unfold State.notePhase
  repeat' split
  all_goals simp

@[simp] theorem State.freeEyelet_memories (s : State) (k : CoreKey) (y : Eyelet) (struck : Bool) :
    (s.freeEyelet k y struck).memories = s.memories := by
  unfold State.freeEyelet
  split <;> simp

@[simp] theorem State.setEyelet_memories (s : State) (k : CoreKey) (y z : Eyelet) : (s.setEyelet k y z).memories = s.memories := rfl

/-! #### The fabric and locks -/

@[simp] theorem State.refuseFill_memories (s : State) (k : GKey) (l : Nat) : (s.refuseFill k l).memories = s.memories := by
  unfold State.refuseFill
  dsimp only
  split <;> simp

@[simp] theorem State.replyDone_memories (s : State) : s.replyDone.memories = s.memories := by
  refine foldl_memories (fun s w => ?_) _ s
  split
  · split <;> simp
  · rfl

@[simp] theorem State.forget_memories (s : State) (l m : Nat) : (s.forget l m).memories = s.memories := by
  unfold State.forget
  split <;> rfl

@[simp] theorem State.lockStatus_memories (s : State) (w : Waiter) (st : Nat) :
    (s.lockStatus w st).memories = s.memories := by simp [State.lockStatus]

@[simp] theorem State.lockInvalidate_memories (s : State) (l : Nat) : (s.lockInvalidate l).memories = s.memories := by
  unfold State.lockInvalidate
  dsimp only
  split <;> simp

@[simp] theorem State.enterLock_memories (s : State) (l : Nat) (w : Waiter) (vline pc : DWord) (t : Nat) :
    (s.enterLock l w vline pc t).memories = s.memories := by simp [State.enterLock]

@[simp] theorem State.lockArrive_memories (s : State) (k : GKey) (g : Group) (f : Flight) (l : Nat) (va : DWord) (timeout : Option Nat) :
    (s.lockArrive k g f l va timeout).memories = s.memories := by
  unfold State.lockArrive
  dsimp only
  repeat' split
  all_goals simp

@[simp] theorem State.failLock_memories (s : State) (k : GKey) (fl : Nat) : (s.failLock k fl).memories = s.memories := by simp [State.failLock]

@[simp] theorem State.freeLock_memories (s : State) (l : Nat) : (s.freeLock l).memories = s.memories := rfl

@[simp] theorem State.wakeNotice_memories (s : State) (ws : List Waiter) : (s.wakeNotice ws).memories = s.memories :=
  foldl_memories (fun s w => by simp) _ s

@[simp] theorem State.handoff_memories (s : State) (l : Nat) : (s.handoff l).memories = s.memories := by
  unfold State.handoff
  dsimp only
  split <;> simp

@[simp] theorem State.unlkDone_memories (s : State) (l : Nat) : (s.unlkDone l).memories = s.memories := by
  refine foldl_memories (fun s u => ?_) _ s
  dsimp only
  split <;> simp

@[simp] theorem State.deadlock_memories (s : State) (l : Nat) (w : Waiter) (hops : Nat) :
    (s.deadlock l w hops).memories = s.memories := by simp [State.deadlock]

/-! #### Copies and barriers -/

@[simp] theorem State.noteEngine_memories (s : State) (key : CtxKey) (core : Nat) (by_ : Issuer) (path : Path) (wr : Bool) (hits : List Nat) (va : DWord) (n : Nat) :
    (s.noteEngine key core by_ path wr hits va n).1.memories = s.memories := by simp [State.noteEngine]

@[simp] theorem State.modCopy_memories (s : State) (k : CoreKey) (id : Nat) (f : CopyOp → CopyOp) : (s.modCopy k id f).memories = s.memories := rfl

@[simp] theorem State.copyError_memories (s : State) (k : CoreKey) (id : Nat) (key : CtxKey) (team gidx : Nat) (pc addr : DWord) (moved : Nat) :
    (s.copyError k id key team gidx pc addr moved).memories = s.memories := by
  unfold State.copyError
  split <;> simp

@[simp] theorem State.copySettle_memories (s : State) (k : CoreKey) : (s.copySettle k).memories = s.memories := by
  unfold State.copySettle
  dsimp only
  split <;> simp

@[simp] theorem State.copyFail_memories (s : State) (k : CoreKey) (o : CopyOp) (addr : DWord) :
    (s.copyFail k o addr).memories = s.memories := by simp [State.copyFail]

@[simp] theorem State.copyWrote_memories (s : State) (k : CoreKey) (o : CopyOp) (i : Nat) (p : Piece) (note : EngNote) (w : Option Nat) :
    (s.copyWrote k o i p note w).memories = s.memories := by
  unfold State.copyWrote
  split <;> simp

@[simp] theorem Iss.request_memories (x : Iss) (s : State) (o : BRef) (op : BarOp) (fl : Option Nat) (ba : DWord) (ent : Nat) :
    (Iss.request x s o op fl ba ent).memories = s.memories := rfl

@[simp] theorem State.barRefused_memories (s : State) (q : BarReq) : (s.barRefused q).memories = s.memories := by
  unfold State.barRefused
  dsimp only
  repeat' split
  all_goals simp

@[simp] theorem State.logArrival_memories (s : State) (k : GKey) (e : ArrLog) : (s.logArrival k e).memories = s.memories := rfl

@[simp] theorem State.landed_memories (s : State) (c : Option CopyRef) : (s.landed c).memories = s.memories := by
  unfold State.landed
  repeat' split
  all_goals simp

@[simp] theorem State.barReply_memories (s : State) (q : BarReq) (v : Nat) (rep : DWord) (r : BarRes) :
    (s.barReply q v rep r).memories = s.memories := by
  unfold State.barReply
  repeat' split
  all_goals simp

/-! #### Tiles -/

@[simp] theorem Iss.fshort_memories (x : Iss) (i : Instr) (a : FAcc) : (Iss.fshort x i a).memories = x.s.memories := rfl

@[simp] theorem Iss.flong_memories (x : Iss) (i : Instr) (la : Nat) (a : FAcc) : (Iss.flong x i la a).memories = x.s.memories := rfl

@[simp] theorem State.countTile_memories (s : State) (key : CtxKey) (op : TileOp) : (s.countTile key op).memories = s.memories := by
  unfold State.countTile
  split <;> simp

@[simp] theorem State.loseTile_memories (s : State) (k : CoreKey) (tid : Nat) (key : CtxKey) (e : TileEnt) (st : Nat) :
    (s.loseTile k tid key e st).memories = s.memories := by simp [State.loseTile]

@[simp] theorem State.setTileHead_memories (s : State) (k : CoreKey) (e : TileEnt) : (s.setTileHead k e).memories = s.memories := rfl

@[simp] theorem State.repin_memories (s : State) (k : CoreKey) : (s.repin k).memories = s.memories := rfl

@[simp] theorem State.beginMacro_memories (s : State) (k : CoreKey) (e : TileEnt) : (s.beginMacro k e).memories = s.memories := by
  unfold State.beginMacro
  split <;> rfl

@[simp] theorem State.tileFault_memories (s : State) (k : CoreKey) (tid : Nat) (e : TileEnt) (addr : DWord) :
    (s.tileFault k tid e addr).memories = s.memories := by simp [State.tileFault]

/-! #### Flags, shuttles and collectives -/

@[simp] theorem Iss.sendFlag_memories (x : Iss) (s : State) (lane m : Nat) (ba : Option DWord) (va : DWord) (pa leaf : Nat) (bs : List Byte) :
    (Iss.sendFlag x s lane m ba va pa leaf bs).memories = s.memories := by
  unfold Iss.sendFlag
  dsimp only
  split <;> simp

@[simp] theorem State.setFlag_memories (s : State) (f : Flag) : (s.setFlag f).memories = s.memories := rfl

@[simp] theorem State.failFlag_memories (s : State) (i : Nat) : (s.failFlag i).memories = s.memories := by
  unfold State.failFlag
  repeat' split
  all_goals simp

@[simp] theorem State.refuseFlag_memories (s : State) (f : Flag) : (s.refuseFlag f).memories = s.memories := by
  unfold State.refuseFlag
  split <;> rfl

@[simp] theorem State.setShuttle_memories (s : State) (p : Shuttle) : (s.setShuttle p).memories = s.memories := rfl

@[simp] theorem State.staleShuttle_memories (s : State) (p : Shuttle) (m : Nat) : (s.staleShuttle p m).memories = s.memories := rfl

@[simp] theorem State.shtlResult_memories (s : State) (p : Shuttle) (v : DWord) (st ix : Nat) :
    (s.shtlResult p v st ix).memories = s.memories := by simp [State.shtlResult]

@[simp] theorem State.setColl_memories (s : State) (o : CollOp) : (s.setColl o).memories = s.memories := rfl

@[simp] theorem State.collFailing_memories (s : State) (id : Nat) (c : CollCause) : (s.collFailing id c).memories = s.memories := rfl

@[simp] theorem State.collQuantize_memories (s : State) (o : CollOp) (gather : Bool) (slice : Nat) (xs : List Word) (bs : List Byte) :
    (s.collQuantize o gather slice xs bs).1.memories = s.memories := by
  unfold State.collQuantize
  repeat' split
  all_goals simp

@[simp] theorem State.collSend_memories (s : State) (o : CollOp) (slice t : Nat) (gather : Bool) :
    (s.collSend o slice t gather).memories = s.memories := by
  unfold State.collSend
  dsimp only
  repeat' split
  all_goals simp

@[simp] theorem State.collReduce_memories (s : State) (o : CollOp) (j : Nat) (xs : List Word) : (s.collReduce o j xs).memories = s.memories := by
  unfold State.collReduce
  dsimp only
  repeat' split
  all_goals simp

@[simp] theorem State.collTake_memories (s : State) (o : CollOp) (x : Stream) : (s.collTake o x).memories = s.memories := by
  unfold State.collTake
  repeat' split
  all_goals simp

/-! #### Shards -/

@[simp] theorem State.wake_memories (s : State) (key : CtxKey) (p : Replay → Bool) (f : Replay → Replay) :
    (s.wake key p f).memories = s.memories := by
  unfold State.wake
  dsimp only
  rw [foldl_memories (fun s e => by split <;> simp)]
  split <;> rfl

@[simp] theorem State.wakePage_memories (s : State) (key : CtxKey) (page : Nat) :
    (s.wakePage key page).memories = s.memories := by simp [State.wakePage]

@[simp] theorem State.stateNote_memories (s : State) (key : CtxKey) (d sg page rnd new : Nat) :
    (s.stateNote key d sg page rnd new).memories = s.memories := rfl

@[simp] theorem State.setGather_memories (s : State) (g : Gather) : (s.setGather g).memories = s.memories := rfl

@[simp] theorem State.closeShard_memories (s : State) (op : Nat) : (s.closeShard op).memories = s.memories := rfl

@[simp] theorem State.endGather_memories (s : State) (g : Gather) : (s.endGather g).memories = s.memories := by simp [State.endGather]

@[simp] theorem State.gatherLost_memories (s : State) (g : Gather) (j reason : Nat) :
    (s.gatherLost g j reason).memories = s.memories := by simp [State.gatherLost]

@[simp] theorem State.failGather_memories (s : State) (g : Gather) : (s.failGather g).memories = s.memories := by
  unfold State.failGather
  split <;> simp

@[simp] theorem State.msgNote_memories (s : State) (d : DieKey) (kind peer : Nat) (x : ShardMsg) (sent : Bool) :
    (s.msgNote d kind peer x sent).memories = s.memories := by
  unfold State.msgNote
  split <;> rfl

@[simp] theorem State.noteReply_memories (s : State) (q : Req) : (s.noteReply q).memories = s.memories := by
  unfold State.noteReply
  split <;> simp

@[simp] theorem State.takeReply_memories (s : State) (r : Nat) : (s.takeReply r).memories = s.memories := by
  unfold State.takeReply
  split <;> simp

@[simp] theorem State.shardAnswer_memories (s : State) (q : Req) (x : ShardMsg) (rep : Reply) :
    (s.shardAnswer q x rep).memories = s.memories := by simp [State.shardAnswer]

@[simp] theorem State.setDrain_memories (s : State) (g : Drain) : (s.setDrain g).memories = s.memories := rfl

@[simp] theorem State.shevDone_memories (s : State) (x : Shev) (w : Option Nat) : (s.shevDone x w).memories = s.memories := by
  unfold State.shevDone
  split <;> rfl

@[simp] theorem State.endDrain_memories (s : State) (g : Drain) (w : Option Nat) : (s.endDrain g w).memories = s.memories := by
  unfold State.endDrain
  simp [foldl_memories]

@[simp] theorem State.noteDropped_memories (s : State) (g : Drain) (j : Nat) :
    (s.noteDropped g j).memories = s.memories := by simp [State.noteDropped]

/-! #### Requests that fail, and the system -/

@[simp] theorem State.fab_memories (s : State) (m : Nat) (f : FabCtr → FabCtr) : (s.fab m f).memories = s.memories := rfl

@[simp] theorem State.arrive_memories (s : State) (q : Req) : (s.arrive q).memories = s.memories := by
  unfold State.arrive
  dsimp only
  repeat' split
  all_goals simp

@[simp] theorem State.replied_memories (s : State) (q : Req) : (s.replied q).memories = s.memories := by
  unfold State.replied
  dsimp only
  repeat' split
  all_goals simp

@[simp] theorem State.failFill_memories (s : State) (k : GKey) (l : Nat) : (s.failFill k l).memories = s.memories := by
  unfold State.failFill
  split
  · rfl
  · dsimp only
    split
    · rw [foldl_memories (fun s f => by simp [apply_ite State.memories])]
    · rw [foldl_memories (fun s y => by simp), State.memories_mk, Memories.eta, foldl_memories (fun s f => by simp [apply_ite State.memories])]

@[simp] theorem State.failEntry_memories (s : State) (k : GKey) (x : SbEntry) : (s.failEntry k x).memories = s.memories := by
  unfold State.failEntry
  repeat' split
  all_goals simp

@[simp] theorem State.failUnlk_memories (s : State) (i : Nat) : (s.failUnlk i).memories = s.memories := by
  unfold State.failUnlk
  repeat' split
  all_goals simp

@[simp] theorem State.sendAdd_memories (s : State) (m : Nat) (a : EvAdd) : (s.sendAdd m a).memories = s.memories := rfl

@[simp] theorem State.regrant_memories (s : State) (gk : GKey) (g : Group) : (s.regrant gk g).memories = s.memories := by
  refine foldl_memories (fun s h => ?_) _ s
  split
  · rfl
  · split <;> simp

@[simp] theorem State.openInterval_memories (s : State) (k : CtxKey) (c : Nat) : (s.openInterval k c).memories = s.memories := by
  unfold State.openInterval
  split <;> simp

@[simp] theorem State.loseLock_memories (s : State) (l : Nat) : (s.loseLock l).memories = s.memories := by
  unfold State.loseLock
  split <;> simp

/-! #### Scheduling, debugging and the control plane -/

@[simp] theorem State.haltTeam_memories (s : State) (team : Nat) : (s.haltTeam team).memories = s.memories := rfl

@[simp] theorem State.coreCycle_memories (s : State) (k : CoreKey) : (s.coreCycle k).memories = s.memories := by
  unfold State.coreCycle
  dsimp only
  split <;> simp

@[simp] theorem State.contTeam_memories (s : State) (team : Nat) (step : Bool) : (s.contTeam team step).memories = s.memories := by
  unfold State.contTeam
  repeat' split
  all_goals simp

@[simp] theorem State.signalGrid_memories (s : State) (k : CtxKey) (ev : Nat) : (s.signalGrid k ev).memories = s.memories := by
  unfold State.signalGrid
  split <;> rfl

@[simp] theorem State.runGrid_memories (s : State) (k : CtxKey) (q : Nat) (p : Pkt) :
    (s.runGrid k q p).memories = s.memories := by simp [State.runGrid]

@[simp] theorem State.noteLaunch_memories (s : State) (k : CtxKey) : (s.noteLaunch k).memories = s.memories := by simp [State.noteLaunch]

@[simp] theorem State.eventStops_memories (s : State) (k : CtxKey) (q id : Nat) :
    (s.eventStops k q id).memories = s.memories := by simp [State.eventStops]

@[simp] theorem State.dropActive_memories (s : State) (m id : Nat) : (s.dropActive m id).memories = s.memories := by
  unfold State.dropActive
  dsimp only
  repeat' split
  all_goals simp [foldl_memories]

@[simp] theorem State.windowIgnored_memories (s : State) (k : CtxKey) (n : Nat) (q : Queue) :
    (s.windowIgnored k n q).memories = s.memories := by simp [State.windowIgnored]

@[simp] theorem State.fetchTrap_memories (s : State) (k : GKey) (sl : Slot) (g : Group) (f : Frag) (code : Nat) :
    (s.fetchTrap k sl g f code).memories = s.memories := by simp [State.fetchTrap]

/-! #### Losses and errors -/

@[simp] theorem State.loseWriters_memories (s : State) (l : Nat) : (s.loseWriters l).memories = s.memories := by
  unfold State.loseWriters
  simp [foldl_memories]

@[simp] theorem State.unawait_memories (s : State) (m : Nat) : (s.unawait m).memories = s.memories := by simp [State.unawait]

@[simp] theorem State.loseLockTable_memories (s : State) (l : Nat) : (s.loseLockTable l).memories = s.memories := by
  unfold State.loseLockTable
  dsimp only
  repeat' split
  all_goals simp [foldl_memories]

@[simp] theorem State.loseFlight_memories (s : State) (k : GKey) (gone : Nat → Bool) (f : Flight) :
    (s.loseFlight k gone f).memories = s.memories := by
  unfold State.loseFlight
  dsimp only
  repeat' split
  all_goals simp

@[simp] theorem State.loseAccesses_memories (s : State) (gone : Nat → Bool) (wait : Bool) : (s.loseAccesses gone wait).memories = s.memories := by
  unfold State.loseAccesses
  dsimp only
  rw [State.memories_mk, Memories.eta, foldl_memories (fun s f => by split <;> simp)]
  refine foldl_memories (fun s e => ?_) _ s
  rw [foldl_memories (fun s w => by simp), foldl_memories (fun s x => by split <;> simp), foldl_memories (fun s f => by simp)]

@[simp] theorem State.loseUnknown_memories (s : State) (l : Nat) : (s.loseUnknown l).memories = s.memories := by
  unfold State.loseUnknown
  dsimp only
  repeat' split
  all_goals simp [foldl_memories]

@[simp] theorem State.loseCaches_memories (s : State) (gone : Nat → Bool) : (s.loseCaches gone).memories = s.memories := by
  unfold State.loseCaches
  simp [foldl_memories]

@[simp] theorem State.stopGroups_memories (s : State) (p : CoreKey → Bool) : (s.stopGroups p).memories = s.memories := rfl

@[simp] theorem State.losePool_memories (s : State) (k : CtxKey) : (s.losePool k).memories = s.memories := by
  unfold State.losePool
  simp [foldl_memories]

@[simp] theorem State.countBad_memories (s : State) (m st : Nat) : (s.countBad m st).memories = s.memories := rfl

@[simp] theorem State.logBad_memories (s : State) (k : GKey) (addr : DWord) (st : Nat) : (s.logBad k addr st).memories = s.memories := by
  unfold State.logBad
  split <;> simp

@[simp] theorem State.loseLocal_memories (s : State) (k : GKey) (sp : Space) (a : Nat) : (s.loseLocal k sp a).memories = s.memories := by
  unfold State.loseLocal
  split
  · rfl
  · exact foldl_memories (fun s f => by split <;> simp) _ s

@[simp] theorem State.spoilWord_memories (s : State) (sp : Space) (a : Nat) : (s.spoilWord sp a).memories = s.memories := by
  unfold State.spoilWord
  split <;> rfl

@[simp] theorem State.spoil_memories (s : State) (k : GKey) (r : Reg) (lane : Nat) : (s.spoil k r lane).memories = s.memories := by simp [State.spoil]

@[simp] theorem State.meetLoss_memories (s : State) (k : GKey) (l : Nat) : (s.meetLoss k l).memories = s.memories := by
  unfold State.meetLoss
  split
  · rfl
  · dsimp only
    rw [foldl_memories (fun s w => by simp), foldl_memories (fun s x => by simp), foldl_memories (fun s f => by split <;> simp)]

end Sys2Proof.Machine

/-! ### What writes a memory keeps its canonical form: stores, the debug block, faults and performed writes -/
namespace Sys2Proof.Machine

namespace State.Canonical
variable {s : State}

/-! #### The debug block and the fault buffer -/

theorem setDbg (h : s.Canonical) (k : CtxKey) (off v : Nat) : (s.setDbg k off v).Canonical := h.of_wrote (.of_dbgStored (.setDbg ..))

theorem capture (h : s.Canonical) (k : CtxKey) (r : List DWord) : (s.capture k r).Canonical := h.of_wrote (.of_dbgStored (.capture ..))

theorem putSeq (h : s.Canonical) (k : CtxKey) (x : SeqSt) : (s.putSeq k x).Canonical := h.of_wrote (.of_dbgStored (.putSeq ..))

theorem storeReg (h : s.Canonical) (k : CtxKey) (off v : Nat) : (s.storeReg k off v).Canonical := h.of_wrote (.of_dbgStored (.storeReg ..))

theorem flushIssue (h : s.Canonical) (k : CtxKey) : (s.flushIssue k).Canonical := by
  unfold State.flushIssue
  split
  · exact h
  · exact h
  · next es _ _ => exact (h.capture k ((BitVec.ofNat 64 (2 + 256 * es.length) :: es ++ List.replicate 7 0#64).take 8)).same (State.modCtx_memories _ _ _)

theorem storeWhrd (h : s.Canonical) (k : CtxKey) (v : Nat) : (s.storeWhrd k v).Canonical := by
  unfold State.storeWhrd
  dsimp only
  split
  · exact h
  · exact h.setDbg ..

theorem dropStitches (h : s.Canonical) (p : Stitch → Bool) : (s.dropStitches p).Canonical := by
  unfold State.dropStitches
  dsimp only
  refine foldl ?_ (fun s y hs => hs.setDbg ..) _
  split
  · exact h
  · exact h.same rfl

theorem syncFb (h : s.Canonical) (m : Nat) : (s.syncFb m).Canonical :=
  h.withMem (mwriteN_wf _ _ _ (mwriteN_wf _ _ _ (mwriteN_wf _ _ _ h.mem))) rfl

theorem recordFault (h : s.Canonical) (k : CtxKey) (va : DWord) (core grp path acc cause sgid lvl : Nat) :
    (s.recordFault k va core grp path acc cause sgid lvl).Canonical := by
  unfold State.recordFault
  split
  · exact h
  · extract_lets key md fb sat w2 at_ u v
    have hu : u.Canonical := h.withMem (mwriteN_wf _ _ _ h.mem) rfl
    split
    · exact syncFb (h.same (State.setModule_memories ..)) _
    · split
      · exact syncFb (h.same (State.setModule_memories ..)) _
      · refine syncFb (hu.same ?_) _
        rw [State.setCtx_memories, State.setModule_memories]

theorem markReplay (h : s.Canonical) (k : GKey) (sl : Slot) (g : Group) (lanes : LaneMask) (f : Faulted) (acc : AccKind) :
    (s.markReplay k sl g lanes f acc).Canonical := by
  have hwalk : (s.noteWalk k.core f.2.2.2).Canonical := h.same (by simp)
  unfold State.markReplay
  dsimp only
  refine same ?_ (State.setGroup_memories _ _ _)
  split
  · exact hwalk.recordFault ..
  · exact hwalk.same (by simp)
  · exact hwalk.same (by simp)
  · exact hwalk.same (by simp)
  · exact hwalk.same (by simp)
  · exact hwalk

/-! #### Local memories and barrier objects -/

theorem setLocMem (h : s.Canonical) (sp : Space) {m : Memory} (hm : m.wf = true) : (s.setLocMem sp m).Canonical := by
  cases sp with
  | lane => exact h.withLpm hm rfl
  | scratch => exact h.withScratch hm rfl
  | die => exact h.withScratch hm rfl
  | pks => exact h.withPks hm rfl
  | global => exact h.withMem hm rfl

theorem locMem (h : s.Canonical) (sp : Space) : (s.locMem sp).wf = true := by
  cases sp with
  | lane => exact h.lpm
  | scratch => exact h.scratch
  | die => exact h.scratch
  | pks => exact h.pks
  | global => exact h.mem

theorem storeLoc (h : s.Canonical) (sp : Space) (bs : List (Nat × Byte)) : (s.storeLoc sp bs).Canonical := by
  unfold State.storeLoc
  extract_lets hit zeroed t
  have hzero : zeroed.wf = true := wf_foldl (fun m w hm => mwriteN_wf m _ _ hm) hit (h.locMem sp)
  have ht : t.Canonical := h.setLocMem sp (wf_foldl (fun m b hm => mwrite_wf m _ _ hm) bs hzero)
  split
  · exact ht
  · exact ht.same rfl

theorem objWrite (h : s.Canonical) (o : BRef) (v : Nat) : (s.objWrite o v).Canonical := by
  unfold State.objWrite
  dsimp only
  split
  · split
    · exact h
    · split
      · exact h.withScratch (mwriteN_wf _ _ _ h.scratch) rfl
      · exact h.same rfl
      · exact h
      · exact h
  · exact h.withScratch (mwriteN_wf _ _ _ h.scratch) rfl
  · exact h.withPks (mwriteN_wf _ _ _ h.pks) rfl

/-! #### Writes at an ordering point -/

theorem applyRed (h : s.Canonical) (l : Nat) : (s.applyRed l).Canonical := h.of_wrote (.applyRed ..)

theorem closeRed (h : s.Canonical) (l : Nat) : (s.closeRed l).Canonical := h.of_wrote (.closeRed ..)

theorem hwStore (h : s.Canonical) (pa : Nat) (bs : List Byte) : (s.hwStore pa bs).Canonical := h.of_wrote (.hwStore ..)

theorem redFirst (h : s.Canonical) (m l : Nat) : (s.redFirst m l).Canonical := by
  unfold State.redFirst
  split
  · exact h.applyRed l
  · exact h

theorem putWrite (h : s.Canonical) (m l : Nat) (cov : List Nat) {mem : Memory} (hm : mem.wf = true) (o : Origin) :
    (s.putWrite m l cov mem o).2.Canonical := by
  have hmend : (s.mend cov).Canonical := h.same (by simp)
  exact (hmend.of_wrote (.store _ l cov m fun _ => hm)).of_wrote (.finishWrite ..)

/-- A write whose function keeps the canonical form. -/
theorem tryWrite (h : s.Canonical) (m l : Nat) (self : List (GKey × Nat)) (cov : List Nat) {f : Memory → Memory}
    (hf : ∀ m, Memory.wf m = true → (f m).wf = true) (o : Origin) {r : Nat × State} (hr : s.tryWrite m l self cov f o = some r) :
    r.2.Canonical := by
  unfold State.tryWrite at hr
  split at hr
  · exact absurd hr (by simp)
  · dsimp only at hr
    split at hr
    · exact absurd hr (by simp)
    · obtain rfl := Option.some.inj hr
      have hclose := h.closeRed l
      exact hclose.putWrite m l cov (hf _ hclose.mem) o

theorem engWrite (h : s.Canonical) (m pa : Nat) (bs : List Byte) (o : Origin) {r : Nat × State} (hr : s.engWrite m pa bs o = some r) :
    r.2.Canonical := by
  unfold State.engWrite at hr
  dsimp only at hr
  split at hr
  · exact absurd hr (by simp)
  · exact h.tryWrite _ _ _ _ (fun m hm => mwriteN_wf m _ _ hm) _ hr

end State.Canonical

/-- The bytes that an entry writes keep the canonical form. -/
theorem SbOp.apply_wf (op : SbOp) (sector : Nat) {m : Memory} (hm : m.wf = true) : (op.apply sector m).wf = true := by
  cases op with
  | bytes bs => exact mwriteAt_wf _ _ _ hm
  | ack bs _ => exact mwriteAt_wf _ _ _ hm
  | red o z ws => exact wf_foldl (fun m w hm => mwriteN_wf m _ _ hm) ws hm

/-! #### What the shared operations with several outcomes leave -/

def Retry.Canonical : Retry → Prop
  | .go _ _ t => t.Canonical
  | .stop t => t.Canonical

def EngAt.Canonical : EngAt → Prop
  | .ok .. => True
  | .wait t _ => t.Canonical
  | .err t => t.Canonical

def EngAsk.Canonical : EngAsk → Prop
  | .go _ => True
  | .wait t _ => t.Canonical
  | .failed => True

def EngRes.Canonical : EngRes → Prop
  | .wait => True
  | .lost => True
  | .ok _ t => t.Canonical

namespace State.Canonical
variable {s : State}

theorem engXlat (h : s.Canonical) (key : CtxKey) (va : DWord) (acc : AccKind) (d : DieKey) (core path : Nat) (by_ : Issuer) (n : EngNote) :
    (s.engXlat key va acc d core path by_ n).Canonical := by
  have hwalk : (s.noteDieWalk d (s.walked key va)).Canonical := h.same (by simp)
  unfold State.engXlat
  dsimp only
  split
  · exact h
  · split
    · split
      · exact hwalk.recordFault ..
      · trivial
    · split
      · exact hwalk.same (by simp)
      · exact hwalk
    · exact hwalk
    · show State.Canonical (if _ then _ else if _ then _ else _)
      split
      · exact hwalk.recordFault ..
      · split
        · exact hwalk.same (by simp)
        · exact hwalk

theorem engAsk (h : s.Canonical) (m pa : Nat) (served : Bool) (who : ReqWho) (n : EngNote) : (s.engAsk m pa served who n).Canonical := by
  unfold State.engAsk
  dsimp only
  split
  · trivial
  · split
    · split
      · trivial
      · split
        · trivial
        · exact h
    · exact h.same (by simp)

theorem proxyMiss (h : s.Canonical) (m l : Nat) {t : State} (ht : s.proxyMiss m l = some t) : t.Canonical := by
  have hshare (p : Table (Nat × Nat) Proxy) : State.Canonical (State.modLine { s.applyRed l with proxies := p } l (fun x => x.share m)) :=
    (h.applyRed l).same rfl
  unfold State.proxyMiss at ht
  split at ht
  · cases ht
  · split at ht
    · cases ht
    all_goals
      split at ht
      · cases ht
      · dsimp only at ht
        split at ht
        · cases ht
        all_goals
          obtain rfl := Option.some.inj ht
          exact hshare _

theorem engRead (h : s.Canonical) (m pa n : Nat) : (s.engRead m pa n).Canonical := by
  have hred := h.redFirst m (lineOf pa)
  unfold State.engRead
  dsimp only
  split
  · trivial
  · split
    · trivial
    · split
      · exact hred
      · split
        · trivial
        · split
          · exact hred
          · split
            · trivial
            · next ht => exact hred.proxyMiss _ _ ht

theorem movedStale (h : s.Canonical) (k : GKey) (key : CtxKey) (id : Nat) (va : DWord) (acc : AccKind) :
    (s.movedStale k key id va acc).Canonical := (h.recordFault key va k.c k.g 0 (accCode acc) 3 0 0).same (State.modCtx_memories ..)

theorem retry (h : s.Canonical) (r : Resend) {gone lost : State} (hgone : gone.Canonical) (hlost : lost.Canonical) :
    (s.retry r gone lost).Canonical := by
  unfold State.retry
  dsimp only
  split
  · exact h
  · next g _ =>
    have hwalk : (s.noteWalk r.k.core (s.walked g.key r.va)).Canonical := h.same (by simp)
    split
    · split
      · exact hwalk.movedStale ..
      · exact hwalk
    · exact hwalk
    · split
      · split
        · exact h
        · split
          · exact hwalk.same (by simp)
          · exact h.markReplay ..
      · split
        · next lvl _ _ _ _ => exact (hwalk.recordFault g.key r.va r.k.c r.k.g 0 (accCode r.acc) 1 0 lvl).same (State.modCtx_memories ..)
        · exact hwalk.same (by simp)
        all_goals exact hwalk
    · split
      · split
        · exact hlost
        · split
          · exact h
          · exact hgone.same (by simp)
      · refine hlost.same ?_
        rw [State.noteWalk_memories]
        split <;> simp

end State.Canonical

end Sys2Proof.Machine

/-! ### Canonical form: accesses that are performed, copies, collectives and shards -/
namespace Sys2Proof.Machine

@[simp] theorem State.dropPend_memories (s : State) (w : Nat) : (s.dropPend w).memories = s.memories := rfl

@[simp] theorem State.modDrain_memories (s : State) (id : Nat) (f : Drain → Drain) : (s.modDrain id f).memories = s.memories := rfl

@[simp] theorem State.hostLease_memories (s : State) (m l : Nat) : (s.hostLease m l).memories = s.memories := by
  unfold State.hostLease
  split <;> simp

namespace State.Canonical
variable {s : State}

/-! #### Accesses of a group -/

theorem partialFault (h : s.Canonical) (x : Iss) (g : Group) (bad : LaneMask) (f : Faulted) (acc : AccKind) :
    (x.partialFault s g bad f acc).Canonical := h.markReplay ..

theorem finishX (h : s.Canonical) (x : Iss) (g : Group) (bad : LaneMask) (f : Option Faulted) (acc : AccKind) :
    (x.finishX s g bad f acc).Canonical := by
  cases f with
  | none => exact h.same (by simp [Iss.finishX])
  | some f => exact h.partialFault ..

theorem loadAgain (h : s.Canonical) (k : GKey) (g : Group) (fl : Flight) : (s.loadAgain k g fl).Canonical := by
  unfold State.loadAgain
  dsimp only
  split
  · exact h
  · split
    · next q _ =>
      have hretry := h.retry ⟨k, fl.id, fl.mask, maskOf ((fl.unread.filter (fun p => s.xlat g.key p.va .read == s.xlat g.key q.va .read)).map
        (·.lane)), fl.pc, q.va, .read, true⟩ (gone := s.setGroup k (g.dropFlight fl.id)) (lost := s.loseLanes k fl.id (maskOf
        ((fl.unread.filter (fun p => s.xlat g.key p.va .read == s.xlat g.key q.va .read)).map (·.lane))) q.va) (h.same rfl) (h.same (by simp))
      split
      · next he => exact (he ▸ hretry :)
      · next t he =>
        have ht : t.Canonical := (he ▸ hretry :)
        split
        · exact ht
        · exact ht.same (by simp)
    · refine h.same ?_
      rw [State.setGroup_memories, foldl_memories (fun s q => by simp)]

theorem readGlobal (h : s.Canonical) (k : GKey) (g : Group) (fl : Flight) (i : Nat) (p : Part) : (s.readGlobal k g fl i p).Canonical := by
  have hred := h.redFirst k.m (lineOf p.addr)
  unfold State.readGlobal
  dsimp only
  split
  · exact h
  · split
    · exact h.loadAgain ..
    · split
      · exact h.same rfl
      · split
        · exact h.same rfl
        · split
          · exact h
          · split
            · exact h.same (by simp)
            · split
              · exact hred.same rfl
              · split
                · exact hred
                · exact hred.same (by simp)

theorem joinRed (h : s.Canonical) (k : GKey) (e : SbEntry) (op : Nat) (z : ASize) : (s.joinRed k e op z).Canonical := by
  have hred := h.applyRed (e.sector / 4)
  unfold State.joinRed
  split
  · exact h
  · dsimp only
    split
    · exact h
    · split
      · exact h.same rfl
      · split
        · exact h.same rfl
        · split
          · split
            · exact hred.same rfl
            · exact hred
          · exact h

theorem performEntry (h : s.Canonical) (k : GKey) (e : SbEntry) : (s.performEntry k e).Canonical := by
  have hdirect : State.Canonical (match s.tryWrite k.m (e.sector / 4) [(k, e.id)] e.covers (e.op.apply e.sector) (.entry k e.id) with
      | some (w, s) => s.entryDone k e.id w
      | none => s) := by
    split
    · next w t hr => exact (h.tryWrite _ _ _ _ (fun m hm => e.op.apply_wf e.sector hm) _ hr).same (State.entryDone_memories t k e.id w)
    · exact h
  unfold State.performEntry
  dsimp only
  split
  · exact h
  · split
    · exact h.same (by simp)
    · split
      · exact h.same (by simp)
      · split
        · split
          · exact h.joinRed ..
          · exact hdirect
        · exact hdirect
        · exact hdirect

theorem laneWrite (h : s.Canonical) (k : GKey) (f : Flight) (op : Nat) (z : ASize) (i : Nat) (p : Part) :
    (s.laneWrite k f op z i p).Canonical := by
  unfold State.laneWrite
  dsimp only
  split
  · exact h.same (by simp)
  · split
    · next hr => exact (h.tryWrite _ _ _ _ (fun m hm => mwriteN_wf m _ _ hm) _ hr).same (by simp)
    · exact h

theorem performLane (h : s.Canonical) (k : GKey) (g : Group) (f : Flight) (op : Nat) (z : ASize) (i : Nat) (p : Part) :
    (s.performLane k g f op z i p).Canonical := by
  have hcopy : (s.dropCopy k.die (lineOf p.addr)).Canonical := h.same (by simp)
  unfold State.performLane
  dsimp only
  split
  · exact h
  · split
    · split
      · exact h
      · split
        · exact h.same (by simp)
        · exact h.laneWrite ..
    · split
      · exact h
      · split
        · have hretry := h.retry ⟨k, f.id, f.mask, maskOf [p.lane], f.pc, p.va, .write, true⟩ (gone := s.setGroup k (g.dropFlight f.id))
            (lost := s.loseLanes k f.id (maskOf [p.lane]) p.va) (h.same rfl) (h.same (by simp))
          split
          · next t he =>
            have ht : t.Canonical := (he ▸ hretry :)
            split
            · exact ht
            · exact ht.same (by simp)
          · next t he =>
            have ht : t.Canonical := (he ▸ hretry :)
            exact ht.same rfl
        · split
          · exact hcopy.laneWrite ..
          · split
            · exact hcopy.same (by simp)
            · exact h

theorem performLoc (h : s.Canonical) (k : GKey) (g : Group) (e : LocStore) : (s.performLoc k g e).Canonical := by
  unfold State.performLoc
  split
  · exact h
  · extract_lets u v
    have hu : u.Canonical := by
      simp only [u]
      split
      · exact (h.storeLoc e.space e.bytes).same (State.countBytes_memories ..)
      · exact h
    exact hu.same (by simp [v])

theorem pushPacket (h : s.Canonical) (k : CtxKey) (q : Nat) (bs : List Byte) : (s.pushPacket k q bs).2.Canonical := by
  unfold State.pushPacket
  split
  · exact h
  · dsimp only
    split
    · exact h
    · split
      · exact h
      · rw [State.Canonical, State.count_memories]
        exact (h.hwStore _ _).hwStore _ _

theorem readyLaunch (h : s.Canonical) (k : GKey) (fl : Nat) : (s.readyLaunch k fl).Canonical := by
  unfold State.readyLaunch
  split
  · exact h
  · split
    · exact h
    · split
      case h_8 d q _ =>
        split
        · exact h
        · split
          · exact h.same rfl
          · exact (h.pushPacket ..).same (State.modGroup_memories ..)
      all_goals exact h

theorem resendFlag (h : s.Canonical) (f : Flag) (k : GKey) : (s.resendFlag f k).Canonical := by
  unfold State.resendFlag
  split
  · exact h
  · have hretry := h.retry ⟨k, f.id, f.mask, maskOf [f.lane], f.pc, f.va, .write, false⟩
      (gone := { s with flags := s.flags.filter (fun x => x.id ≠ f.id) }) (lost := s.failFlag f.id) (h.same rfl) (h.same (by simp))
    split
    · next t he => exact (he ▸ hretry :)
    · next t he =>
      have ht : t.Canonical := (he ▸ hretry :)
      dsimp only
      split
      · exact ht.same (by simp)
      · exact ht.same (by simp)

/-! #### The host -/

theorem hostRead (h : s.Canonical) (m : Nat) (cuts : List (Nat × Nat)) {r : List Byte × State} (hr : s.hostRead m cuts = some r) : r.2.Canonical := by
  induction cuts generalizing s r with
  | nil =>
    obtain rfl := Option.some.inj hr
    exact h
  | cons c rest ih =>
    have hread := h.engRead m c.1 c.2
    unfold State.hostRead at hr
    split at hr
    · cases hr
    · obtain ⟨q, hq, rfl⟩ := Option.map_eq_some_iff.mp hr
      exact (ih (s := { s with freeCtr := s.freeCtr + c.2 }) (r := q) (h.same rfl) hq :)
    · next t he =>
      have ht : t.Canonical := (he ▸ hread :)
      obtain ⟨q, hq, rfl⟩ := Option.map_eq_some_iff.mp hr
      exact (ih (r := q) (ht.same (State.hostLease_memories ..)) hq :)

theorem hostWrite (h : s.Canonical) (m : Nat) (bs : List Byte) (base : Nat) (cuts : List (Nat × Nat)) {t : State}
    (ht : s.hostWrite m bs base cuts = some t) : t.Canonical := by
  induction cuts generalizing s with
  | nil =>
    obtain rfl := Option.some.inj ht
    exact h
  | cons c rest ih =>
    unfold State.hostWrite at ht
    split at ht
    · cases ht
    · next hw => exact ih ((h.engWrite _ _ _ _ hw).same (by simp)) ht

/-! #### The copy engine -/

theorem copyRead (h : s.Canonical) (k : CoreKey) (o : CopyOp) (i : Nat) (p : Piece) (got : List Byte) : (s.copyRead k o i p got).Canonical := by
  rcases hn : p.nextRead got.length with ⟨a, n⟩
  have hx := h.engXlat o.key a .read k.die k.c 1 o.issuer o.note
  have hwalk : (s.noteWalk k (s.walked o.key a)).Canonical := h.same (by simp)
  unfold State.copyRead
  rw [hn]
  dsimp only
  split
  · split
    · next t he =>
      have ht : t.Canonical := (he ▸ hx :)
      exact ht.same (by simp)
    · next t note he =>
      have ht : t.Canonical := (he ▸ hx :)
      exact ht.same (by simp)
    · next pa _ _ =>
      have hask := hwalk.engAsk o.key.m pa ((s.noteWalk k (s.walked o.key a)).servesRead o.key.m (lineOf pa)) (o.who a) o.note
      split
      · exact hwalk.same (by simp)
      · next t note he =>
        have ht : t.Canonical := (he ▸ hask :)
        exact ht.same (by simp)
      · have hread := hwalk.engRead o.key.m pa n
        split
        · exact hwalk
        · exact hwalk.same (by simp)
        · next t he =>
          have ht : t.Canonical := (he ▸ hread :)
          exact ht.same (by simp)
  all_goals
    split
    · exact h.same (by simp)
    · split
      · exact h.same (by simp)
      · exact h.same (by simp)
    · exact h.same (by simp)
    · exact h.same (by simp)

theorem copyWrite (h : s.Canonical) (k : CoreKey) (o : CopyOp) (i : Nat) (p : Piece) (bs : List Byte) : (s.copyWrite k o i p bs).Canonical := by
  have hx := h.engXlat o.key p.dst .write k.die k.c 1 o.issuer o.note
  have hwalk : (s.noteWalk k (s.walked o.key p.dst)).Canonical := h.same (by simp)
  unfold State.copyWrite
  dsimp only
  split
  · split
    · next t he =>
      have ht : t.Canonical := (he ▸ hx :)
      exact ht.same (by simp)
    · next t note he =>
      have ht : t.Canonical := (he ▸ hx :)
      exact ht.same (by simp)
    · next pa _ _ =>
      have hask := hwalk.engAsk o.key.m pa ((s.noteWalk k (s.walked o.key p.dst)).servesWrite o.key.m (lineOf pa)) (o.who p.dst) o.note
      split
      · exact hwalk.same (by simp)
      · next t note he =>
        have ht : t.Canonical := (he ▸ hask :)
        exact ht.same (by simp)
      · split
        · exact hwalk
        · next he => exact (hwalk.engWrite _ _ _ _ he).same (by simp)
  all_goals
    split
    · exact h.same (by simp)
    · rw [State.Canonical, State.reeval_memories, State.copyWrote_memories]
      exact h.storeLoc _ _
    · exact h.same (by simp)
    · exact h.same (by simp)

theorem engineCopy (h : s.Canonical) (k : CoreKey) (op piece : Nat) : (s.engineCopy k op piece).Canonical := by
  unfold State.engineCopy
  split
  · exact h
  · split
    · exact h
    · split
      · exact h
      · split
        · exact h.copyRead ..
        · split
          · exact h.copyRead ..
          · exact h.copyWrite ..
        · exact h

end State.Canonical

end Sys2Proof.Machine

/-! ### Canonical form: tiles, collectives and shards -/
namespace Sys2Proof.Machine

namespace State.Canonical
variable {s : State}

/-! #### Tiles -/

theorem mendTiles (h : s.Canonical) (rs : List (Nat × Nat)) : (s.mendTiles rs).Canonical := by
  unfold State.mendTiles
  split
  · exact h
  · exact h.withTiles (wf_foldl (fun m w hm => mwriteN_wf m _ _ hm) _ h.tiles) rfl

theorem mendScratch (h : s.Canonical) (rs : List (Nat × Nat)) : (s.mendScratch rs).Canonical := by
  unfold State.mendScratch
  split
  · exact h
  · exact h.withScratch (wf_foldl (fun m w hm => mwriteN_wf m _ _ hm) _ h.scratch) rfl

theorem engBytes (h : s.Canonical) (m line : Nat) (os : List Nat) : (s.engBytes m line os).Canonical := by
  induction os generalizing s with
  | nil => exact h
  | cons o os ih =>
    have hread := h.engRead m (line * 128 + o) 1
    unfold State.engBytes
    split
    · trivial
    · trivial
    · next t he =>
      have ht : t.Canonical := (he ▸ hread :)
      have hrest := ih ht
      split
      · trivial
      · trivial
      · next he' => exact (he' ▸ hrest :)

end State.Canonical

/-- A pass of an engine over ranges that it notes leaves the memories. -/
theorem foldl_noteEngine_memories {α : Type} (key : CtxKey) (c : Nat) (by_ : Issuer) (p : Path) (w : Bool) (va : α → DWord) (n : α → Nat) (rs : List α)
    (a : State × List Nat) :
    (rs.foldl (fun (a : State × List Nat) r => a.1.noteEngine key c by_ p w a.2 (va r) (n r)) a).1.memories = a.1.memories := by
  induction rs generalizing a with
  | nil => rfl
  | cons r rs ih => rw [List.foldl_cons, ih, State.noteEngine_memories]

namespace State.Canonical
variable {s : State}

theorem engineTile (h : s.Canonical) (k : CoreKey) (piece : Nat) : (s.engineTile k piece).Canonical := by
  unfold State.engineTile
  split
  · next tid t e _ _ _ =>
    split
    · exact h
    · next x _ =>
      split
      · exact h
      · dsimp only
        have hbegin : (s.beginMacro k e).Canonical := h.same (by simp)
        generalize s.beginMacro k e = u at hbegin ⊢
        split
        · exact hbegin
        · next vl offs _ =>
          split
          · exact hbegin
          · have hx := hbegin.engXlat t.key (BitVec.ofNat 64 (vl * 128)) .read k.die k.c 2 ⟨tid, e.grp, e.pc⟩ e.note
            have hwalk : (u.noteWalk k (u.walked t.key (BitVec.ofNat 64 (vl * 128)))).Canonical := hbegin.same (by simp)
            have hfail (v : State) (c : Prop) [Decidable c] (bad : DWord) (hv : v.Canonical) :
                (if c then v.tileFault k tid { e with begun := true } bad else v).Canonical := by
              split
              · exact hv.same (by simp)
              · exact hv
            split
            · next w he => exact hfail w _ _ (he ▸ hx :)
            · next w note he =>
              have hw : w.Canonical := (he ▸ hx :)
              exact hw.same (by simp)
            · next pa _ _ =>
              generalize u.noteWalk k (u.walked t.key (BitVec.ofNat 64 (vl * 128))) = v at hwalk ⊢
              have hask := hwalk.engAsk k.m (lineOf pa * 128 + offs.headD 0) (v.servesRead k.m (lineOf pa))
                ⟨t.key, tid, BitVec.ofNat 64 (vl * 128) + BitVec.ofNat 64 (offs.headD 0), e.pc, e.grp⟩ e.note
              split
              · exact hfail v _ _ hwalk
              · next w note he =>
                have hw : w.Canonical := (he ▸ hask :)
                exact hw.same (by simp)
              · have hread := hwalk.engBytes k.m (lineOf pa) offs
                split
                · exact hwalk
                · exact hfail _ _ _ (hwalk.same (by simp))
                · next bs w he =>
                  have hw : w.Canonical := (he ▸ hread :)
                  refine hw.same ?_
                  rw [State.repin_memories, State.setTileHead_memories, foldl_noteEngine_memories, State.count_memories, State.engTaken_memories]
  · exact h

/-! #### Collectives -/

theorem collRead (h : s.Canonical) (o : CollOp) (i : Nat) : (s.collRead o i).Canonical := by
  unfold State.collRead
  split
  · exact h
  · next off n _ =>
    dsimp only
    have hx := h.engXlat o.key (o.src + BitVec.ofNat 64 off) .read o.die (DieKey.core o.die) 3 o.issuer o.note
    have hwalk : (s.noteDieWalk o.die (s.walked o.key (o.src + BitVec.ofNat 64 off))).Canonical := h.same (by simp)
    split
    · next w he =>
      have hw : w.Canonical := (he ▸ hx :)
      exact hw.same (by simp)
    · next w note he =>
      have hw : w.Canonical := (he ▸ hx :)
      exact hw.same (by simp)
    · next pa _ _ =>
      generalize s.noteDieWalk o.die (s.walked o.key (o.src + BitVec.ofNat 64 off)) = v at hwalk ⊢
      have hask := hwalk.engAsk o.key.m pa (v.servesRead o.key.m (lineOf pa)) (o.who (o.src + BitVec.ofNat 64 off)) o.note
      split
      · exact hwalk.same (by simp)
      · next w note he =>
        have hw : w.Canonical := (he ▸ hask :)
        exact hw.same (by simp)
      · have hread := hwalk.engRead o.key.m pa n
        split
        · exact hwalk
        · exact hwalk.same (by simp)
        · next bs w he =>
          have hw : w.Canonical := (he ▸ hread :)
          exact hw.same (by simp)

theorem collWrite (h : s.Canonical) (o : CollOp) (place i : Nat) : (s.collWrite o place i).Canonical := by
  unfold State.collWrite
  split
  · next off n _ _ =>
    dsimp only
    have hx := h.engXlat o.key (o.place place + BitVec.ofNat 64 off) .write o.die (DieKey.core o.die) 3 o.issuer o.note
    have hwalk : (s.noteDieWalk o.die (s.walked o.key (o.place place + BitVec.ofNat 64 off))).Canonical := h.same (by simp)
    split
    · next w he =>
      have hw : w.Canonical := (he ▸ hx :)
      exact hw.same (by simp)
    · next w note he =>
      have hw : w.Canonical := (he ▸ hx :)
      exact hw.same (by simp)
    · next pa _ _ =>
      generalize s.noteDieWalk o.die (s.walked o.key (o.place place + BitVec.ofNat 64 off)) = v at hwalk ⊢
      have hask := hwalk.engAsk o.key.m pa (v.servesWrite o.key.m (lineOf pa)) (o.who (o.place place + BitVec.ofNat 64 off)) o.note
      split
      · exact hwalk.same (by simp)
      · next w note he =>
        have hw : w.Canonical := (he ▸ hask :)
        exact hw.same (by simp)
      · split
        · exact hwalk
        · next he => exact (hwalk.engWrite _ _ _ _ he).same (by simp)
  · exact h

theorem engineColl (h : s.Canonical) (op piece : Nat) : (s.engineColl op piece).Canonical := by
  unfold State.engineColl
  split
  · exact h
  · split
    · exact h
    · split
      · exact h
      · exact h.collRead ..
      · exact h.same (by simp)
      · exact h.collWrite ..

/-! #### Gathers and contributions -/

theorem shardRead (h : s.Canonical) (m pa n : Nat) : (s.shardRead m pa n).Canonical := by
  induction n generalizing s with
  | zero => exact h
  | succ n ih =>
    have hread := h.engRead m (pa + 128 * n) 128
    unfold State.shardRead
    split
    · trivial
    · trivial
    · next t he =>
      have ht : t.Canonical := (he ▸ hread :)
      have hrest := ih ht
      split
      · trivial
      · trivial
      · next he' => exact (he' ▸ hrest :)

theorem poolEmpty (h : s.Canonical) (key : CtxKey) (va : DWord) (die sg : Nat) : (s.poolEmpty key va die sg).Canonical := by
  unfold State.poolEmpty
  split
  · exact h
  · exact h.recordFault ..

theorem casEntry (h : s.Canonical) (key : CtxKey) (d pa old new : Nat) {r : Option Nat × State} (hr : s.casEntry key d pa old new = some r) :
    r.2.Canonical := by
  unfold State.casEntry at hr
  split at hr
  · obtain rfl := Option.some.inj hr
    exact h.same (by simp)
  · split at hr
    · cases hr
    · next he =>
      obtain rfl := Option.some.inj hr
      exact (h.engWrite _ _ _ _ he).same (by simp)

theorem takeFrame (h : s.Canonical) (g : Gather) : (s.takeFrame g).Canonical := by
  unfold State.takeFrame
  split
  · exact h.poolEmpty ..
  · refine h.same ?_
    dsimp only
    rw [foldl_memories (fun s e => by split <;> simp)]
    simp

theorem beginGather (h : s.Canonical) (g : Gather) : (s.beginGather g).Canonical := by
  unfold State.beginGather
  split
  · split
    · exact h.same (by simp)
    · split
      · exact h.same (by simp)
      · exact takeFrame (h.same (by simp)) _
  · exact h.same (by simp)

theorem finishGather (h : s.Canonical) (g : Gather) : (s.finishGather g).Canonical := by
  unfold State.finishGather
  split
  · exact h
  · next f _ =>
    split
    · exact h
    · dsimp only
      have hheld : (s.modCtx g.key (fun c => { c with frames := c.frames ++ [(f, g.entryPa, g.va, g.sg, g.seq)] })).Canonical := h.same (by simp)
      split
      · exact h
      · exact h.same (by simp)
      · next he => exact (hheld.casEntry _ _ _ _ _ he).same (by simp)

theorem engineGather (h : s.Canonical) (op piece : Nat) : (s.engineGather op piece).Canonical := by
  unfold State.engineGather
  split
  · exact h
  · split
    · exact h
    · next g _ _ _ _ =>
      split
      · exact h
      · split
        · exact h.finishGather ..
        · split
          · exact h
          · dsimp only
            split
            · have hread := h.engRead g.key.m (g.slbase + g.page * g.sliceBytes + 128 * piece) 128
              split
              · exact h
              · exact h.same (by simp)
              · next w he =>
                have hw : w.Canonical := (he ▸ hread :)
                exact hw.same (by simp)
            · split
              · exact h
              · next he =>
                refine finishGather ((h.engWrite _ _ _ _ he).same ?_) _
                simp

theorem countApplied (h : s.Canonical) (a : Applying) {t : State} (ht : s.countApplied a = some t) : t.Canonical := by
  obtain ⟨r, hr, rfl⟩ := Option.map_eq_some_iff.mp ht
  exact (h.engWrite _ _ _ _ hr).same (by simp)

end State.Canonical

end Sys2Proof.Machine

/-! ### Canonical form: contributions, queues, teams and the control plane -/
namespace Sys2Proof.Machine

namespace State.Canonical
variable {s : State}

/-! #### Contributions, drains and events of pages -/

theorem shardWrite (h : s.Canonical) (m d pa : Nat) (bs : List Byte) (n : Nat) {t : State} (ht : s.shardWrite m d pa bs n = some t) :
    t.Canonical := by
  induction n generalizing s with
  | zero =>
    obtain rfl := Option.some.inj ht
    exact h
  | succ n ih =>
    unfold State.shardWrite at ht
    split at ht
    · cases ht
    · next he => exact ih (h.engWrite _ _ _ _ he) ht

theorem applyShard (h : s.Canonical) (a : Applying) (cs : List (List Byte)) {t : State} (ht : s.applyShard a cs = some t) : t.Canonical := by
  have hread := h.shardRead a.key.m a.base a.lines
  unfold State.applyShard at ht
  split at ht
  · cases ht
  · cases ht
  · next u he =>
    have hu : u.Canonical := (he ▸ hread :)
    split at ht
    · cases ht
    · next v hv =>
      have hv' : v.Canonical := hu.shardWrite _ _ _ _ _ hv
      obtain ⟨w, hw, rfl⟩ := Option.map_eq_some_iff.mp ht
      have hw' : w.Canonical := by
        split at hw
        · obtain rfl := Option.some.inj hw
          exact hv'.same (by simp)
        · exact hv'.countApplied a hw
      exact hw'.same (by simp)

theorem endApplying (h : s.Canonical) (a : Applying) {t : State} (ht : s.endApplying a = some t) : t.Canonical := by
  unfold State.endApplying at ht
  split at ht
  · cases ht
  · obtain ⟨u, hu, rfl⟩ := Option.map_eq_some_iff.mp ht
    exact (h.countApplied a hu).same (by simp)

theorem endContrib (h : s.Canonical) (r : Nat) : (s.endContrib r).Canonical := by
  unfold State.endContrib
  split
  · exact h
  · split
    · exact h
    · next he =>
      have ht := h.endApplying _ he
      split
      · exact ht
      · split
        · exact ht.same (by simp)
        · exact ht.same (by simp)

theorem endRound (h : s.Canonical) (k : CtxKey) (sg page : Nat) : (s.endRound k sg page).Canonical := by
  unfold State.endRound
  split
  · exact h
  · next a _ =>
    cases he : s.endApplying a with
    | none => exact h
    | some t => exact h.endApplying a he

theorem startDrain (h : s.Canonical) (key : CtxKey) (va : DWord) (pa e : Nat) (d : Desc) (by_ : Issuer) {t : State}
    (ht : s.startDrain key va pa e d by_ = some t) : t.Canonical := by
  unfold State.startDrain at ht
  split at ht
  · cases ht
  · dsimp only at ht
    split at ht
    · cases ht
    · cases ht
    · next he =>
      have hcas := h.casEntry _ _ _ _ _ he
      split at ht
      · cases ht
      · next u hu =>
        have hu' : u.Canonical := by
          split at hu
          · obtain ⟨r, hr, rfl⟩ := Option.map_eq_some_iff.mp hu
            exact (hcas.engWrite _ _ _ _ hr).same (by simp)
          · obtain rfl := Option.some.inj hu
            exact hcas
        obtain rfl := Option.some.inj ht
        exact hu'.same (by simp)

theorem release (h : s.Canonical) (key : CtxKey) (va : DWord) (pa e : Nat) {r : Option Nat × State} (hr : s.release key va pa e = some r) :
    r.2.Canonical := by
  obtain ⟨q, hq, rfl⟩ := Option.map_eq_some_iff.mp hr
  have hcas := h.casEntry _ _ _ _ _ hq
  dsimp only
  split
  · exact hcas.same (by simp)
  · exact hcas

theorem engineShev (h : s.Canonical) (x : Shev) : (s.engineShev x).Canonical := by
  unfold State.engineShev
  split
  · exact h
  · split
    · exact h
    · split
      · exact h.same (by simp)
      · split
        · split
          · exact h
          · exact h.same (by simp)
        · split
          · exact h
          · exact h
          · next he => exact (h.release _ _ _ _ he).same (by simp)
        · exact h
        · split
          · exact h.same rfl
          · exact h.same (by simp)
        · exact h.same (by simp)

theorem finishDrain (h : s.Canonical) (g : Drain) : (s.finishDrain g).Canonical := by
  unfold State.finishDrain
  split
  · exact h
  · split
    · exact h
    · next he => exact (h.casEntry _ _ _ _ _ he).same (by simp)
    · next he => exact (h.casEntry _ _ _ _ _ he).same (by simp)

theorem contribDone (h : s.Canonical) (op j : Nat) : (s.contribDone op j).Canonical := by
  unfold State.contribDone
  split
  · exact h
  · exact finishDrain (h.same (by simp)) _

theorem dropContrib (h : s.Canonical) (op j : Nat) : (s.dropContrib op j).Canonical := by
  unfold State.dropContrib
  split
  · exact h
  · exact contribDone (h.same (by simp)) _ _

theorem engineDrain (h : s.Canonical) (op piece : Nat) : (s.engineDrain op piece).Canonical := by
  unfold State.engineDrain
  split
  · exact h.engineShev _
  · split
    · exact h
    · next g _ =>
      split
      · exact h
      · split
        · exact h.finishDrain _
        · split
          · exact h
          · dsimp only
            have hread := h.shardRead g.key.m (g.frame + piece * g.sliceBytes) (g.sliceBytes / 128)
            split
            · exact h
            · exact dropContrib (h.same (by simp)) _ _
            · next w he =>
              have hw : w.Canonical := (he ▸ hread :)
              exact hw.same (by simp)

theorem orphanOne (h : s.Canonical) (k : CtxKey) (c : Context) : (s.orphanOne k c).Canonical := by
  unfold State.orphanOne
  split
  · exact h
  · dsimp only
    split
    · exact h
    · exact h
    · next he => exact (h.casEntry _ _ _ _ _ he).same (by simp)

/-! #### Queues and events -/

theorem pop (h : s.Canonical) (k : CtxKey) (q : Nat) (nb : Bool) : (s.pop k q nb).2.Canonical := by
  unfold State.pop
  split
  · exact h
  · dsimp only
    split
    · exact h
    · split
      · rw [State.Canonical, State.count_memories]
        exact h.hwStore _ _
      · split
        · exact h
        · exact h

theorem completePacket (h : s.Canonical) (k : CtxKey) (q idx : Nat) : (s.completePacket k q idx).Canonical := h.of_wrote (.completePacket ..)

theorem addEvent (h : s.Canonical) (k : CtxKey) (id n : Nat) (pc : DWord) (team grp : Nat) : (s.addEvent k id n pc team grp).Canonical := by
  unfold State.addEvent
  dsimp only
  split
  · exact h.same (by simp)
  · exact foldl (h.same (State.setModule_memories ..)) (fun s w hs => hs.completePacket ..) _

theorem applyAdd (h : s.Canonical) (a : EvAdd) : (s.applyAdd a).Canonical := by
  have hadd := h.addEvent a.key a.id a.n a.pc a.team a.grp
  unfold State.applyAdd
  dsimp only
  split
  · exact hadd.completePacket ..
  · exact hadd
  · exact hadd

theorem eventTable (h : s.Canonical) (m : Nat) : (s.eventTable m).Canonical :=
  foldl (h.same (State.modModule_memories ..)) (fun _ a hs => hs.applyAdd a) _

theorem startPacket (h : s.Canonical) (k : CtxKey) (q : Nat) (p : Pkt) (typ evid value : Nat) : (s.startPacket k q p typ evid value).Canonical := by
  unfold State.startPacket
  split
  · exact h
  · exact hwStore (h.same (State.modQueue_memories ..)) _ _

theorem rejectPacket (h : s.Canonical) (k : CtxKey) (q : Nat) (p : Pkt) (typ st : Nat) : (s.rejectPacket k q p typ st).Canonical := by
  unfold State.rejectPacket
  split
  · exact h
  · exact completePacket (same ((h.startPacket ..).hwStore ..) (State.logErr_memories ..)) _ _ _

theorem markPacket (h : s.Canonical) (k : CtxKey) (q act : Nat) {f : State → Nat → State} (hf : ∀ s n, State.Canonical s → (f s n).Canonical) :
    (s.markPacket k q act f).Canonical := by
  unfold State.markPacket
  split
  · exact h
  · split
    · exact h
    · split
      · exact h.rejectPacket ..
      · exact completePacket (hf _ _ (h.startPacket ..)) _ _ _

theorem queuesResident (h : s.Canonical) (k : CtxKey) (on : Bool) : (s.queuesResident k on).Canonical := by
  unfold State.queuesResident
  split
  · exact h
  · refine foldl h (fun s q hs => ?_) _
    dsimp only
    split
    · exact hs
    · exact hwStore (hs.same (State.modQueue_memories ..)) _ _

/-! #### Teams -/

theorem place (h : s.Canonical) (id : Nat) (t : Team) (k : CoreKey) (r : Nat) : (s.place id t k r).Canonical := by
  unfold State.place
  extract_lets now cyc u imgs placed src s1 s2 s3 s4
  have hu : u.Canonical := h.same (by simp [u])
  have hsrc : src.Canonical := hu.same (State.sound_memories ..)
  have h1 : s1.Canonical := by
    refine mk hsrc.mem hsrc.dev (mpaste_wf _ _ _ (mclear_wf _ _ _ hu.scratch)) hsrc.pks hsrc.lpm ?_
    show Memory.wf (if t.tiles then _ else _) = true
    split
    · exact mpaste_wf _ _ _ (mclear_wf _ _ _ hu.tiles)
    · exact hu.tiles
  refine h1.same ?_
  rw [State.reeval_memories, foldl_memories (fun s e => by simp)]
  simp [s4, s3, s2]

theorem makeResident (h : s.Canonical) (k : CtxKey) (want : Nat → Team → Bool) : (s.makeResident k want).Canonical := by
  unfold State.makeResident
  repeat' split
  all_goals first | exact h | exact h.place ..

theorem fillArea (h : s.Canonical) (p : CtxParams) (ctr : Nat) : (s.fillArea p ctr).Canonical := by
  unfold State.fillArea
  split
  · exact h
  · exact h.withMem (mwriteN_wf _ _ _ h.mem) rfl

theorem saveTeam (h : s.Canonical) (id : Nat) : (s.saveTeam id).Canonical := by
  unfold State.saveTeam
  split
  · exact h
  · next t _ =>
    split
    · exact h
    · exact h
    · exact h
    · next c r _ _ =>
      extract_lets k gs run gone s1 s2 s3 core s4 s5 ctr params own lost s6 wr s7 s8 s9
      have h1 : s1.Canonical := h.dropStitches _
      have h2 : s2.Canonical := by
        simp only [s2]
        split
        · exact h1.same (foldl_memories (fun s e => by simp) _ _)
        · exact h1
      have h4 : s4.Canonical := h2.same (by
        simp only [s4]
        rw [foldl_memories (fun s e => foldl_memories (fun s x => by simp) _ s)]
        simp [s3])
      have h5 : s5.Canonical := h4.same rfl
      have hnext : State.Canonical { s5 with freeCtr := own + 1 + (if lost then t.s + tileSize else 0) } := h5.same rfl
      have h6 : s6.Canonical := foldl hnext (fun s p hs => foldl hs (fun s i hs => hs.fillArea ..) _) _
      refine h6.same ?_
      rw [State.closeInterval_memories]
      simp only [s9]
      split <;> simp [s8, s7]

/-! #### The debug steps -/

theorem keepRecord (h : s.Canonical) (k : CtxKey) (r : List DWord) : (s.keepRecord k r).Canonical := by
  unfold State.keepRecord
  split
  · exact h
  · dsimp only
    split
    · exact flushIssue (h.same (State.modCtx_memories ..)) _
    · exact h.same (State.modCtx_memories ..)
  · exact h.capture ..

theorem takeEvent (h : s.Canonical) (k : CtxKey) (e : TrigEv) : (s.takeEvent k e).Canonical := by
  unfold State.takeEvent
  exact putSeq (ite (h.keepRecord ..) h) _ _

theorem dumpRecord (h : s.Canonical) (team : Nat) (key : CtxKey) (die : DieKey) (e : ArrLog) (ent : Nat) :
    (s.dumpRecord team key die e ent).Canonical := by
  have hnext : State.Canonical { s with freeCtr := s.freeCtr + 16 } := h.same rfl
  exact hnext.capture _ _

end State.Canonical

end Sys2Proof.Machine

/-! ### Canonical form: the words -/
namespace Sys2Proof.Machine

theorem State.Canonical.wf {s : State} (h : s.Canonical) : s.memories.wf = true := h

/-- The state in which a word's execution leaves the machine, if it leaves one, has its memories in canonical form. -/
def Res.Canonical : Res → Prop
  | .wait => True
  | .hold t => t.Canonical
  | .trap _ => True
  | .ok t => t.Canonical

@[simp] theorem Res.canonical_wait : Res.Canonical .wait := trivial
@[simp] theorem Res.canonical_trap (t : TrapInfo) : (Res.trap t).Canonical := trivial
@[simp] theorem Res.canonical_ok (t : State) : (Res.ok t).Canonical ↔ t.memories.wf = true := Iff.rfl
@[simp] theorem Res.canonical_hold (t : State) : (Res.hold t).Canonical ↔ t.memories.wf = true := Iff.rfl

theorem Res.canonical_ite {c : Prop} [Decidable c] {r r' : Res} (h : r.Canonical) (h' : r'.Canonical) : (if c then r else r').Canonical := by
  split
  · exact h
  · exact h'

/-- So has that in which a step leaves it. -/
def Out.Canonical : Out → Prop
  | .next t => t.Canonical
  | .fault _ => True
  | .refused _ => True

/-- The memories are a view of the state that sees no core, die, context, team or group. -/
theorem blind_memories : Blind State.memories := fun _ _ _ _ _ _ => rfl

/-- A word keeps the canonical form when its body does. -/
theorem issue_canonical {s : State} {i : Instr} {body : Iss → Res} (h : s.Canonical) (hbody : ∀ x : Iss, x.s.Canonical → (body x).Canonical) :
    Out.Canonical (issue i s body) := by
  unfold issue
  split
  · trivial
  · exact h.same (blind_memories.takeLate ..)
  · exact h
  · exact h.same (blind_memories.wordTrap ..)
  · next x hx =>
    obtain ⟨-, -, -, -, -, -, -, -, hs, -⟩ := prelude_go hx
    have hb := hbody x (hs ▸ h)
    split
    · exact h
    · next he => exact (he ▸ hb :)
    · exact h.same (blind_memories.wordTrap ..)
    · next t he =>
      have ht : t.Canonical := (he ▸ hb :)
      exact ht.same (blind_memories.done ..)
  · next x hx =>
    have hs := prelude_first_s (.inl hx)
    have hb := hbody x (hs ▸ h)
    split
    · exact h
    · next he => exact (he ▸ hb :)
    · exact h.same ((blind_memories.late x).trans (by rw [hs]))
    · exact h.same ((blind_memories.late x).trans (by rw [hs]))
  · next x hx =>
    have hs := prelude_first_s (.inr hx)
    refine h.same ?_
    rw [blind_memories.done, Iss.step, blind_memories.setGroup, hs]

/-! #### The shared bodies -/

theorem Iss.withRelease_canonical (x : Iss) (rel : Bool) (sc : Scope) {body : Res} (hbody : body.Canonical) : (x.withRelease rel sc body).Canonical := by
  unfold Iss.withRelease
  split
  · exact hbody
  · split
    · trivial
    · trivial
    · exact hbody

theorem Iss.withObj_canonical (x : Iss) (f : BarF) {body : DWord → BRef → Res} (hbody : ∀ ba o, (body ba o).Canonical) : (x.withObj f body).Canonical := by
  unfold Iss.withObj
  split
  · trivial
  · exact hbody ..

theorem Iss.openLoad_canonical (x : Iss) {s : State} (hs : s.Canonical) (g : Group) (la : Nat) (fl : Flight) (bad : LaneMask) (f : Option Faulted)
    (acc : AccKind) : (x.openLoad s g la fl bad f acc).Canonical := by
  cases f with
  | none => exact hs.same (by simp [Iss.openLoad])
  | some f => exact hs.partialFault ..

section
variable {x : Iss} (h : x.s.Canonical)
include h

theorem Iss.ldLocal_canonical (i : Instr) (f : MemF) (sp : Space) : (x.ldLocal i f sp).Canonical := by
  unfold Iss.ldLocal
  dsimp only
  split
  · trivial
  · exact h.same (by simp)

theorem Iss.stLocal_canonical (f : MemF) (sp : Space) : (x.stLocal f sp).Canonical := by
  unfold Iss.stLocal
  dsimp only
  split
  · trivial
  · exact x.withRelease_canonical _ _ (h.same (by simp))

theorem Iss.waitWalk_canonical (ps : List XPart) : (x.waitWalk ps).Canonical := h.same (by simp)

theorem Iss.sresult_canonical (i : Instr) (d : SReg) (v : DWord) : (x.sresult i d v).Canonical := h.same (by simp)

theorem Iss.qresult_canonical (i : Instr) (q : QReg) (v : Bool) : (x.qresult i q v).Canonical := h.same (by simp)

theorem Iss.vresult_canonical (i : Instr) (wr : Regs → Nat → Regs) : (x.vresult i wr).Canonical := h.same (by simp)

theorem Iss.fshort_canonical (idx per : Nat) (i : Instr) (a : FAcc) : (Res.ok ((x.counted idx per).fshort i a)).Canonical :=
  h.same (by simp [Iss.counted])

theorem Iss.flong_canonical (idx per : Nat) (i : Instr) (la : Nat) (a : FAcc) : (Res.ok ((x.counted idx per).flong i la a)).Canonical :=
  h.same (by simp [Iss.counted])

theorem Iss.shuffle_canonical (i : Instr) (f : ShflF) (src : Nat → Option Nat) : (x.shuffle i f src).Canonical := h.same (by simp)

theorem Iss.vote_canonical (i : Instr) (f : VoteF) (all : Bool) : (x.vote i f all).Canonical := h.same (by simp)

theorem Iss.tile_canonical (op : TileOp) : (x.tile op x.s).Canonical := h.same (by simp)

theorem Iss.tileMove_canonical (base : DWord) (pitch rows len : Nat) (op : Nat → TileOp) : (x.tileMove base pitch rows len op).Canonical := by
  unfold Iss.tileMove
  split
  · trivial
  · split
    · trivial
    · exact Iss.tile_canonical h _

theorem Iss.fenceWait_canonical (fa : FenceAt) (ps : List Path) : (x.fenceWait fa ps).Canonical := h.same (by simp)

theorem Iss.ldGlobal_canonical (i : Instr) (f : MemF) (spec : Bool) : (x.ldGlobal i f spec).Canonical := by
  unfold Iss.ldGlobal
  dsimp only
  split
  · exact Iss.waitWalk_canonical h _
  · trivial
  · refine Res.canonical_ite trivial (Iss.openLoad_canonical _ (State.Canonical.same (s := x.s) h ?_) ..)
    simp [apply_ite State.memories]

theorem Iss.atom_canonical (i : Instr) (o : AtomOp) (la : Nat) : (x.atom i o la).Canonical := by
  unfold Iss.atom
  dsimp only
  split
  · trivial
  · split
    · exact Iss.waitWalk_canonical h _
    · trivial
    · refine x.withRelease_canonical _ _ ?_
      split
      · trivial
      · exact Iss.openLoad_canonical _ (State.Canonical.same (s := x.s) h (by simp)) ..

theorem Iss.red_canonical (o : AtomOp) : (x.red o).Canonical := by
  unfold Iss.red
  dsimp only
  split
  · trivial
  · split
    · exact Iss.waitWalk_canonical h _
    · trivial
    · refine x.withRelease_canonical _ _ ?_
      split
      · trivial
      · exact State.Canonical.finishX (h.same (by simp)) ..

/-- A wait for the line of a lock leaves the memories. -/
theorem Iss.lockLine_wait {base : SReg} {off : BitVec 12} {s : State} (hwait : x.lockLine base off = .wait s) : s.Canonical := by
  unfold Iss.lockLine at hwait
  split at hwait
  · cases hwait
  · dsimp only at hwait
    split at hwait
    · cases hwait
    · split at hwait
      · cases hwait
        exact h.same (by simp)
      · cases hwait
      · cases hwait
      · split at hwait
        · cases hwait
          exact h
        · cases hwait

theorem Iss.lck_canonical (i : Instr) (f : LckF) (timeout : Option Nat) : (x.lck i f timeout).Canonical := by
  unfold Iss.lck
  dsimp only
  split
  · exact h.same (by simp)
  · next hwait => exact Iss.lockLine_wait h hwait
  · trivial
  · exact h.partialFault ..
  · split
    · exact h.same (by simp)
    · exact h.same (by simp)

theorem Iss.copy_canonical (f : CpyF) (two : Bool) (c : CopyArgs) : (x.copy f two c).Canonical := by
  unfold Iss.copy
  dsimp only
  split
  · trivial
  · split
    · exact h.same (by simp)
    · split
      · trivial
      · exact h.same (by simp)

theorem Iss.fflStore_canonical (f : FflF) (z : MSize) : (x.fflStore f z).Canonical := by
  unfold Iss.fflStore
  dsimp only
  split
  · exact Iss.waitWalk_canonical h _
  · trivial
  · refine State.Canonical.finishX (h.same ?_) ..
    rw [foldl_memories (fun s p => by simp)]
    simp

theorem Iss.shuttle_canonical (i : Instr) (f : ShtlF) (trap : Bool) : (x.shuttle i f trap).Canonical := by
  unfold Iss.shuttle
  dsimp only
  split
  · trivial
  · refine State.Canonical.same (s := x.s) h ?_
    rw [State.setGroup_memories, foldl_memories (fun s e => by simp)]
    simp

theorem Iss.coll_canonical (i : Instr) (k : CollKind) (d p : SReg) : (x.coll i k d p).Canonical := by
  unfold Iss.coll
  dsimp only
  split
  · trivial
  · split
    · trivial
    · split
      · exact h.same (by simp)
      · split
        · exact h.same (by simp)
        · exact h.same (by simp)

theorem Iss.qpop_canonical (i : Instr) (la : Nat) (d a : SReg) (nb : Bool) : (x.qpop i la d a nb).Canonical := by
  have hpop := h.pop x.g.key ((x.g.regs.rdS a.val).toNat % 256) nb
  unfold Iss.qpop
  dsimp only
  split
  · trivial
  · split
    · next he =>
      rw [he] at hpop
      exact hpop.same rfl
    · next he =>
      rw [he] at hpop
      exact hpop.same rfl

end

end Sys2Proof.Machine

/-! ### Canonical form: the words with bodies of their own -/
namespace Sys2Proof.Machine

section
variable {s : State} (h : s.Canonical)
include h

/-! #### Control -/

theorem execRet_canonical (a : VReg) : Out.Canonical (execRet a s) := by
  refine issue_canonical h fun x hx => ?_
  split
  · exact hx.same (by simp)
  · trivial

theorem execBraDiv_canonical (gd : Guard) (t : BitVec 24) (r : BitVec 16) : Out.Canonical (execBraDiv gd t r s) := by
  refine issue_canonical h fun x hx => ?_
  dsimp only
  split
  · exact hx.same (by simp)
  · split
    · exact hx.same (by simp)
    · exact Res.canonical_ite trivial (Res.canonical_ite trivial (hx.same (by simp)))

theorem execTrap_canonical (code : BitVec 12) : Out.Canonical (execTrap code s) := issue_canonical h fun _ _ => trivial

/-! #### Accesses -/

theorem execStg_canonical (f : MemF) : Out.Canonical (execStg f s) := by
  refine issue_canonical h fun x hx => ?_
  dsimp only
  split
  · exact Iss.waitWalk_canonical hx _
  · trivial
  · refine x.withRelease_canonical _ _ ?_
    split
    · trivial
    · exact State.Canonical.finishX (hx.same (by simp)) ..

theorem execStAck_canonical (f : MemF) : Out.Canonical (execStAck f s) := by
  refine issue_canonical h fun x hx => ?_
  dsimp only
  split
  · trivial
  · split
    · exact Iss.waitWalk_canonical hx _
    · trivial
    · refine x.withRelease_canonical _ _ ?_
      split
      · trivial
      · exact State.Canonical.finishX (hx.same (by simp)) ..

theorem execCwb_canonical (f : LineF) : Out.Canonical (execCwb f s) := by
  refine issue_canonical h fun x hx => ?_
  dsimp only
  split
  · exact Iss.waitWalk_canonical hx _
  · trivial
  · exact Res.canonical_ite trivial (State.Canonical.finishX (hx.same (by simp)) ..)

theorem execPf_canonical (f : LineF) (l2 : Bool) : Out.Canonical (execPf f l2 s) := by
  refine issue_canonical h fun x hx => State.Canonical.same (s := x.s) hx ?_
  split
  · simp
  · rw [foldl_memories (fun s l => by simp)]
    simp

theorem execCinv_canonical (f : LineF) : Out.Canonical (execCinv f s) := by
  refine issue_canonical h fun x hx => State.Canonical.same (s := x.s) hx ?_
  rw [foldl_memories (fun s l => by simp)]
  simp

theorem execChk_canonical (t : BitVec 24) : Out.Canonical (execChk t s) :=
  issue_canonical h fun _ hx => Res.canonical_ite trivial (hx.same (by simp))

theorem execCpyWait_canonical (d : SReg) (n : Fin 16) : Out.Canonical (execCpyWait d n s) :=
  issue_canonical h fun _ hx => Res.canonical_ite trivial (hx.same (by simp))

theorem execLaunch_canonical (la : Fin 16) (d a b : SReg) : Out.Canonical (execLaunch la d a b s) := by
  refine issue_canonical h fun x hx => ?_
  dsimp only
  split
  · exact hx.same (by simp)
  · refine x.withRelease_canonical _ _ ?_
    split
    · trivial
    · trivial
    · split
      · exact hx.partialFault ..
      · exact hx.same (by simp)

theorem execUnlk_canonical (f : UnlkF) : Out.Canonical (execUnlk f s) := by
  refine issue_canonical h fun x hx => ?_
  split
  · exact hx.same (by simp)
  · next hwait => exact Iss.lockLine_wait hx hwait
  · trivial
  · exact hx.partialFault ..
  · refine Res.canonical_ite trivial (x.withRelease_canonical _ _ (hx.same ?_))
    dsimp only
    split <;> simp

/-! #### Barriers and fences -/

theorem execBarInit_canonical (f : BarF) : Out.Canonical (execBarInit f s) :=
  issue_canonical h fun x hx => x.withObj_canonical f fun _ _ => Res.canonical_ite trivial (hx.same (by simp))

theorem execBarArrive_canonical (f : BarF) : Out.Canonical (execBarArrive f s) :=
  issue_canonical h fun x hx => x.withObj_canonical f fun _ _ => x.withRelease_canonical _ _ (hx.same (by simp))

theorem execBarExpect_canonical (f : BarF) : Out.Canonical (execBarExpect f s) :=
  issue_canonical h fun x hx => x.withObj_canonical f fun _ _ => hx.same (by simp)

theorem execBarTest_canonical (f : BarF) : Out.Canonical (execBarTest f s) :=
  issue_canonical h fun x hx => x.withObj_canonical f fun _ _ => hx.same (by simp)

theorem execFenceAcq_canonical (sc : Scope) : Out.Canonical (execFenceAcq sc s) :=
  issue_canonical h fun _ hx => Res.canonical_ite (hx.same (by simp)) trivial

theorem execFenceRel_canonical (sc : Scope) : Out.Canonical (execFenceRel sc s) :=
  issue_canonical h fun x hx => x.withRelease_canonical _ _ (hx.same (by simp))

theorem execBarWait_canonical (f : BarF) : Out.Canonical (execBarWait f s) := by
  refine issue_canonical h fun x hx => x.withObj_canonical f fun ba o => ?_
  dsimp only
  split
  · trivial
  · split
    · trivial
    · split
      · exact hx.same (by simp)
      · exact Res.canonical_ite trivial (hx.same (by simp))

theorem execFenceFull_canonical (sc : Scope) : Out.Canonical (execFenceFull sc s) :=
  issue_canonical h fun x hx => x.withRelease_canonical _ _ (Res.canonical_ite trivial
    (Res.canonical_ite (hx.same (by simp)) (Iss.fenceWait_canonical hx ..)))

theorem execFenceX_canonical (src dst : Path) (sc : Scope) : Out.Canonical (execFenceX src dst sc s) :=
  issue_canonical h fun _ hx => Res.canonical_ite (Res.canonical_ite (hx.same (by simp)) (Iss.fenceWait_canonical hx ..))
    (Res.canonical_ite (hx.same (by simp)) (Iss.fenceWait_canonical hx ..))

/-! #### Tiles, flags and the rest -/

theorem execTld_canonical (f : TileMvF) : Out.Canonical (execTld f s) :=
  issue_canonical h fun _ hx => Res.canonical_ite (Iss.tileMove_canonical hx ..) (Iss.tileMove_canonical hx ..)

theorem execTst_canonical (f : TileMvF) : Out.Canonical (execTst f s) :=
  issue_canonical h fun _ hx => Res.canonical_ite (Iss.tileMove_canonical hx ..) (Iss.tileMove_canonical hx ..)

theorem execTzero_canonical (acc : Bool) (i : Fin 8) : Out.Canonical (execTzero acc i s) :=
  issue_canonical h fun _ hx => Res.canonical_ite trivial (Iss.tile_canonical hx ..)

theorem execMmac_canonical (f : MmacF) : Out.Canonical (execMmac f s) :=
  issue_canonical h fun _ hx => Res.canonical_ite trivial (Iss.tile_canonical hx ..)

theorem execTcvt_canonical (f : TcvtF) : Out.Canonical (execTcvt f s) :=
  issue_canonical h fun _ hx => Res.canonical_ite trivial (Iss.tile_canonical hx ..)

theorem execMmacg_canonical (f : MmacgF) : Out.Canonical (execMmacg f s) :=
  issue_canonical h fun _ hx => Res.canonical_ite trivial (Res.canonical_ite trivial (Iss.tile_canonical hx ..))

theorem execFflArr_canonical (f : FflF) : Out.Canonical (execFflArr f s) := by
  refine issue_canonical h fun x hx => ?_
  dsimp only
  split
  · trivial
  · trivial
  · refine State.Canonical.same (s := x.s) hx ?_
    rw [Iss.step_memories, foldl_memories (fun s e => by simp)]
    simp

theorem execEvsig_canonical (a : SReg) : Out.Canonical (execEvsig a s) :=
  issue_canonical h fun x hx => x.withRelease_canonical _ _ (hx.same (by simp))

theorem execShg_canonical (a : SReg) : Out.Canonical (execShg a s) := by
  refine issue_canonical h fun x hx => State.Canonical.same (s := x.s) hx ?_
  dsimp only
  split
  · split
    · simp
    · split <;> simp
  · simp

theorem execShev_canonical (a b : SReg) : Out.Canonical (execShev a b s) :=
  issue_canonical h fun _ hx => Res.canonical_ite trivial (hx.same (by simp))

theorem execBkpt_canonical (code : BitVec 12) : Out.Canonical (execBkpt code s) := by
  refine issue_canonical h fun x hx => State.Canonical.same (s := x.s) hx ?_
  split <;> simp

theorem execQblkQ_canonical (f : QQuantF) : Out.Canonical (execQblkQ f s) := issue_canonical h fun _ hx => hx.same (by simp [Iss.counted])

end

end Sys2Proof.Machine

/-! ### Canonical form: what the tile words write, and what the system takes away -/
namespace Sys2Proof.Machine

/-! #### The bytes of tiles -/

theorem matMul_wf {m : Memory} (hm : m.wf = true) (k : CoreKey) (d : Nat) (clr : Bool) (mrows ncols : DWord) (eb kt : Nat)
    (a sa b sb : Nat → Nat → Val) : (matMul m k d clr mrows ncols eb kt a sa b sb).wf = true :=
  wf_foldl (fun _ _ hm => wf_foldl (fun m _ hm => mwriteN_wf m _ _ hm) _ hm) _ hm

theorem zeroTile_wf {m : Memory} (hm : m.wf = true) (k : CoreKey) (acc : Bool) (i : Nat) : (zeroTile m k acc i).wf = true := by
  unfold zeroTile
  split
  · exact mclear_wf _ _ _ hm
  · exact mwriteN_wf _ _ _ (mclear_wf _ _ _ hm)

theorem MmacF.perform_wf {m : Memory} (hm : m.wf = true) (f : MmacF) (k : CoreKey) (r c : DWord) : (MmacF.perform f m k r c).wf = true :=
  matMul_wf hm ..

theorem Macro.perform_wf {m : Memory} (hm : m.wf = true) (x : Macro) (e : TileEnt) (k : CoreKey) (j : Nat) : (x.perform e m k j).wf = true :=
  matMul_wf hm ..

theorem TcvtF.perform_wf {m : Memory} (hm : m.wf = true) (f : TcvtF) (k : CoreKey) (rm : Nat) (sb r c : DWord) :
    (TcvtF.perform f m k rm sb r c).wf = true := by
  unfold TcvtF.perform
  dsimp only
  split
  · refine wf_foldl (fun m i hm => wf_foldl (fun m b hm => ?_) _ hm) _ hm
    split
    · exact hm
    · exact wf_foldl (fun m _ hm => mwriteN_wf m _ _ hm) _ (mwrite_wf _ _ _ hm)
  · exact wf_foldl (fun _ _ hm => wf_foldl (fun m _ hm => mwriteN_wf m _ _ hm) _ hm) _ hm

theorem moveRows_wf {dst : Memory} (hm : dst.wf = true) (src : Memory) (base place : Nat) (rows : List (Nat × Nat)) (load : Bool) :
    (moveRows src dst base place rows load).wf = true := by
  refine wf_foldl (fun m r hm => ?_) _ hm
  dsimp only
  split
  · exact mwriteN_wf _ _ _ hm
  · exact mwriteN_wf _ _ _ hm

/-! #### The memories of a module -/

/-- The cells of one module, moved to the addresses of another, stay in order: the place within the unit orders them. -/
theorem moveCells_wf {mem : Memory} (hm : mem.wf = true) (unit a b : Nat) : (moveCells mem unit a b).wf = true := by
  unfold moveCells Memory.wf
  have hf := nwf_filter 0#8 mem (fun c => ofModule unit a c.1) hm
  have hunit : ∀ c ∈ mem.filter (fun c => ofModule unit a c.1), c.1 = unit * a + c.1 % unit := fun c hc => by
    have hdiv : c.1 / unit = a := by simpa [ofModule] using (List.mem_filter.mp hc).2
    rw [← hdiv, Nat.div_add_mod]
  generalize mem.filter (fun c => ofModule unit a c.1) = l at hf hunit
  induction l with
  | nil => rfl
  | cons e l ih =>
    obtain ⟨x, v⟩ := e
    obtain ⟨hv, hlt, hl⟩ := (nwf_cons ..).mp hf
    refine (nwf_cons ..).mpr ⟨hv, fun c hc => ?_, ih hl fun c hc => hunit c (List.mem_cons_of_mem _ hc)⟩
    obtain ⟨c', hc', rfl⟩ := List.mem_map.mp hc
    have hx := hunit (x, v) List.mem_cons_self
    have hc := hunit c' (List.mem_cons_of_mem _ hc')
    have := hlt c' hc'
    dsimp only at hx ⊢
    omega

namespace State.Canonical
variable {s : State}

theorem storeSeq (h : s.Canonical) (k : CtxKey) (v : Nat) : (s.storeSeq k v).Canonical := h.putSeq ..

theorem storeWhbase (h : s.Canonical) (k : CtxKey) (v : Nat) : (s.storeWhbase k v).Canonical := ((h.setDbg ..).setDbg ..).setDbg ..

theorem storeCapbase (h : s.Canonical) (k : CtxKey) (v : Nat) : (s.storeCapbase k v).Canonical := (h.setDbg ..).setDbg ..

theorem dropTeams (h : s.Canonical) (k : CtxKey) : (s.dropTeams k).Canonical := by
  unfold State.dropTeams
  extract_lets u own gone held v
  have hu : u.Canonical := foldl h (fun s l hs => hs.applyRed l.1) _
  have hv : v.Canonical := hu.same (foldl_memories (fun s e => State.forceRelease_memories ..) _ _)
  exact hv.same rfl

theorem partition (h : s.Canonical) (m : Nat) (ps : List (Nat × List Nat)) : (s.partition m ps).Canonical := by
  refine foldl (h.same (State.modModule_memories ..)) (fun s k hs => queuesResident ?_ _ _) _
  refine State.Canonical.same (s := s) hs ?_
  rw [foldl_memories (fun s t => State.haltTeam_memories ..), State.modCtx_memories]

theorem wipe (h : s.Canonical) (m : Nat) : (s.wipe m).Canonical :=
  mk (mpaste_wf _ _ _ (filter_wf _ _ h.mem)) (filter_wf _ _ h.dev) (filter_wf _ _ h.scratch) (filter_wf _ _ h.pks) (filter_wf _ _ h.lpm)
    (filter_wf _ _ h.tiles)

/-- A line whose ordering point is lost takes free bytes. -/
theorem takeFree (h : s.Canonical) (l : Nat) (bs : List Byte) (ctr : Nat) (f : Line → Line) :
    State.Canonical (State.modLine { s with mem := mwriteN s.mem (l * 128) bs, freeCtr := ctr } l f) :=
  h.withMem (mwriteN_wf _ _ _ h.mem) (State.modLine_memories ..)

theorem reclaim (h : s.Canonical) (m : Nat) : (s.reclaim m).Canonical := by
  refine foldl h (fun s e hs => ?_) _
  split
  · exact hs
  · exact hs.same (State.modLine_memories ..)
  · split
    · exact hs
    · exact takeFree (hs.same (State.loseWriters_memories ..)) ..

theorem dropProxies (h : s.Canonical) (m d : Nat) : (s.dropProxies m d).Canonical := by
  refine foldl h (fun s p hs => ?_) _
  extract_lets l u v bs
  have hu : u.Canonical := hs.same rfl
  split
  · exact takeFree (hu.same (State.loseWriters_memories ..)) ..
  · exact hu.same (State.forget_memories ..)

theorem wipeModule (h : s.Canonical) (m : Nat) : (s.wipeModule m).Canonical := by
  have hreclaim := reclaim ((h.wipe m).same (State.setModule_memories _ m (s.module m).wiped)) m
  exact (hreclaim.same (State.unawait_memories ..)).syncFb m

theorem bootModule (h : s.Canonical) (m : Nat) (img : Option (List Byte)) : (s.bootModule m img).Canonical := by
  unfold State.bootModule
  split
  · exact h
  · exact (h.wipeModule m).same (State.modModule_memories ..)

theorem rekey (h : s.Canonical) (a b : Nat) (md : Module) : (s.rekey a b md).Canonical :=
  mk (moveCells_wf h.mem ..) (moveCells_wf h.dev ..) (moveCells_wf h.scratch ..) rfl rfl (moveCells_wf h.tiles ..)

theorem loseDirty (h : s.Canonical) (l : Nat) (reader : Option GKey) : (s.loseDirty l reader).Canonical := by
  unfold State.loseDirty
  extract_lets known u v w
  have hu : u.Canonical := by
    refine State.Canonical.same (s := s) h ?_
    rw [State.loseWriters_memories]
    split <;> simp
  have hv : v.Canonical := hu.withMem (mwriteN_wf _ _ _ hu.mem) rfl
  have hw : w.Canonical := hv.same (by simp [w])
  split
  · exact hw
  · refine State.Canonical.same (s := w) hw ?_
    rw [State.meetLoss_memories]
    split <;> simp

end State.Canonical

end Sys2Proof.Machine

/-! ### Canonical form: the steps that write no memory themselves -/
namespace Sys2Proof.Machine

section
variable {s : State} (h : s.Canonical)
include h

theorem execNop_canonical : Out.Canonical (execNop s) := issue_canonical h fun _ hx => hx.same (by simp)

theorem execJoin_canonical : Out.Canonical (execJoin s) := by
  refine issue_canonical h fun x hx => Res.canonical_ite trivial ?_
  split
  · exact hx.same (by simp)
  · exact Res.canonical_ite trivial (hx.same (by simp))

theorem execExit_canonical : Out.Canonical (execExit s) := issue_canonical h fun x hx => Res.canonical_ite trivial (hx.same (by simp))

theorem execAtomReply_canonical (k : GKey) (fl : Nat) : Out.Canonical (execAtomReply k fl s) := by
  unfold execAtomReply
  repeat' split
  all_goals exact h.same (by simp)

theorem execExpiredCopyDrop_canonical (d : DieKey) (line : Nat) : Out.Canonical (execExpiredCopyDrop d line s) := by
  unfold execExpiredCopyDrop
  repeat' split
  all_goals exact h.same (by simp)

theorem execDrain_canonical (k : GKey) (e : Nat) : Out.Canonical (execDrain k e s) := by
  unfold execDrain
  dsimp only
  repeat' split
  all_goals exact h.same (by simp)

theorem execStoreAck_canonical (k : GKey) (e : Nat) : Out.Canonical (execStoreAck k e s) := by
  unfold execStoreAck
  dsimp only
  repeat' split
  all_goals exact h.same (by simp)

theorem execMovedResend_canonical (k : GKey) (e : Nat) : Out.Canonical (execMovedResend k e s) := by
  unfold execMovedResend
  split
  · exact h
  · next g _ =>
    split
    · exact h
    · next x _ =>
      have hretry := h.retry ⟨k, e, x.mask, x.mask, x.pc, x.va, .write, false⟩
        (gone := s.setGroup k { g with sb := g.sb.filter (fun y => y.id ≠ e) }.fillSb) (lost := s.dropEntry k x) (h.same (by simp)) (h.same (by simp))
      split
      · exact h
      · split
        · next he => exact (he ▸ hretry :)
        · next t he =>
          have ht : t.Canonical := (he ▸ hretry :)
          exact ht.same (by simp)

theorem execLateTrapTake_canonical : Out.Canonical (execLateTrapTake s) := by
  unfold execLateTrapTake
  repeat' split
  all_goals exact h.same (by simp)

theorem execInvalidate_canonical (m line : Nat) : Out.Canonical (execInvalidate m line s) := by
  unfold execInvalidate
  repeat' split
  all_goals exact h.same (by simp)

theorem execRecall_canonical (m line : Nat) : Out.Canonical (execRecall m line s) := by
  unfold execRecall
  repeat' split
  all_goals exact h.same (by simp)

theorem execProxyEvict_canonical (m line : Nat) : Out.Canonical (execProxyEvict m line s) := by
  unfold execProxyEvict
  repeat' split
  all_goals exact h.same (by simp)

theorem execLockHandoff_canonical (line : Nat) : Out.Canonical (execLockHandoff line s) := by
  unfold execLockHandoff
  repeat' split
  all_goals exact h.same (by simp)

theorem execLockGrantWithdrawal_canonical (line : Nat) : Out.Canonical (execLockGrantWithdrawal line s) := by
  unfold execLockGrantWithdrawal
  repeat' split
  all_goals exact h.same (by simp)

theorem execResUpdate_canonical (line waiter : Nat) (res : Bool) : Out.Canonical (execResUpdate line waiter res s) := by
  unfold execResUpdate
  dsimp only
  repeat' split
  all_goals exact h.same (by simp)

theorem execLckTryTimeout_canonical (line waiter : Nat) : Out.Canonical (execLckTryTimeout line waiter s) := by
  unfold execLckTryTimeout
  repeat' split
  all_goals exact h.same (by simp)

theorem execDeadlockProbe_canonical (line waiter : Nat) : Out.Canonical (execDeadlockProbe line waiter s) := by
  unfold execDeadlockProbe
  split
  · exact h
  · split
    · exact h
    · dsimp only
      split
      · exact h.same (by simp)
      · refine State.Canonical.same (s := s) h ?_
        rw [foldl_memories (fun s o => by simp)]
        simp

theorem execLockTimeout_canonical (k : GKey) (line : Nat) : Out.Canonical (execLockTimeout k line s) := by
  unfold execLockTimeout
  dsimp only
  repeat' split
  all_goals exact h.same (by simp)

theorem execLand_canonical (i : Nat) : Out.Canonical (execLand i s) := by
  unfold execLand
  repeat' split
  all_goals exact h.same (by simp)

theorem execAckSend_canonical (i : Nat) : Out.Canonical (execAckSend i s) := by
  unfold execAckSend
  repeat' split
  all_goals exact h.same (by simp)

theorem execCollStreamReceive_canonical (i : Nat) : Out.Canonical (execCollStreamReceive i s) := by
  unfold execCollStreamReceive
  dsimp only
  repeat' split
  all_goals exact h.same (by simp)

theorem execCollFail_canonical (op : Nat) (cause : CollCause) : Out.Canonical (execCollFail op cause s) := by
  unfold execCollFail
  dsimp only
  repeat' split
  all_goals exact h.same (by simp)

theorem execSlNak_canonical (r : Nat) : Out.Canonical (execSlNak r s) := by
  unfold execSlNak
  dsimp only
  repeat' split
  all_goals exact h.same (by simp)

theorem execSlReq_canonical (r : Nat) : Out.Canonical (execSlReq r s) := by
  unfold execSlReq
  split
  · exact h
  · next q _ =>
    split
    · next x _ =>
      split
      · exact h
      · split
        · exact h.same (by simp)
        · next d base _ =>
          have hread := h.shardRead q.dst base (d.sliceBytes / 128)
          split
          · exact h
          · exact h.same (by simp)
          · next t he =>
            have ht : t.Canonical := (he ▸ hread :)
            exact ht.same (by simp)
    all_goals exact h

theorem execCnFull_canonical (r : Nat) : Out.Canonical (execCnFull r s) := by
  unfold execCnFull
  dsimp only
  repeat' split
  all_goals exact h.same (by simp)

theorem execContribResend_canonical (r : Nat) : Out.Canonical (execContribResend r s) := by
  unfold execContribResend
  repeat' split
  all_goals exact h.same (by simp)

theorem execFrameReturn_canonical (k : CtxKey) (frame : Nat) : Out.Canonical (execFrameReturn k frame s) := by
  unfold execFrameReturn
  dsimp only
  repeat' split
  all_goals exact h.same (by simp)

theorem execMovedEntryExpire_canonical (m frame : Nat) : Out.Canonical (execMovedEntryExpire m frame s) := h.same (by simp)

theorem execPageWalk_canonical (d : DieKey) (k : CtxKey) (va : DWord) (kind : AccKind) : Out.Canonical (execPageWalk d k va kind s) := by
  unfold execPageWalk
  repeat' split
  all_goals exact h.same (by simp)

theorem execDeliver_canonical (r : Nat) : Out.Canonical (execDeliver r s) := by
  unfold execDeliver
  dsimp only
  repeat' split
  all_goals exact h.same (by simp)

theorem execRequestResend_canonical (r : Nat) : Out.Canonical (execRequestResend r s) := by
  unfold execRequestResend
  repeat' split
  all_goals exact h.same (by simp)

theorem execLateReply_canonical (r : Nat) : Out.Canonical (execLateReply r s) := by
  unfold execLateReply
  repeat' split
  all_goals exact h.same (by simp)

theorem execResponseCacheEntryExpiry_canonical (r : Nat) : Out.Canonical (execResponseCacheEntryExpiry r s) := by
  unfold execResponseCacheEntryExpiry
  repeat' split
  all_goals exact h.same (by simp)

theorem execRfh_canonical : Out.Canonical (execRfh s) := by
  refine issue_canonical h fun x hx => ?_
  split
  · trivial
  · exact hx.same (by simp)

theorem execCarveChange_canonical (k : CoreKey) (grid : Nat) : Out.Canonical (execCarveChange k grid s) := by
  unfold execCarveChange
  split
  · exact h
  · split
    · exact h
    · dsimp only
      split
      · exact h
      · split
        · exact h
        · refine State.Canonical.same (s := s) h ?_
          rw [State.reeval_memories, State.modCore_memories]
          split
          · exact foldl_memories (fun s l => by simp) _ _
          · rfl

theorem execQuantumExpiry_canonical (team : Nat) : Out.Canonical (execQuantumExpiry team s) := by
  unfold execQuantumExpiry
  dsimp only
  repeat' split
  all_goals exact h.same (by simp)

theorem execRemoteLoadBlock_canonical (k : GKey) (fl : Nat) : Out.Canonical (execRemoteLoadBlock k fl s) := by
  unfold execRemoteLoadBlock
  dsimp only
  repeat' split
  all_goals exact h.same (by simp)

theorem execFaultReplay_canonical (k : GKey) : Out.Canonical (execFaultReplay k s) := by
  unfold execFaultReplay
  repeat' split
  all_goals exact h.same (by simp)

theorem execGtimerMatch_canonical (k : GKey) : Out.Canonical (execGtimerMatch k s) := by
  unfold execGtimerMatch
  repeat' split
  all_goals exact h.same (by simp)

theorem execDeadline_canonical (k : GKey) : Out.Canonical (execDeadline k s) := by
  unfold execDeadline
  repeat' split
  all_goals exact h.same (by simp)

theorem execTick_canonical : Out.Canonical (execTick s) := by
  unfold execTick
  split <;> exact h.same (by simp)

theorem execBreakpointHit_canonical : Out.Canonical (execBreakpointHit s) := by
  unfold execBreakpointHit
  repeat' split
  all_goals exact h.same (by simp)

theorem execDebugCont_canonical (t : ContTarget) : Out.Canonical (execDebugCont t s) := by
  unfold execDebugCont
  split
  · exact h.same (by simp)
  · split
    · exact h
    · split
      · exact h
      · refine State.Canonical.same (s := s) h ?_
        rw [foldl_memories (fun s e => by simp), State.setCtx_memories]

theorem execDebugStep_canonical (team : Nat) : Out.Canonical (execDebugStep team s) := by
  unfold execDebugStep
  repeat' split
  all_goals exact h.same (by simp)

theorem execEventActivate_canonical (k : CtxKey) (id : Nat) : Out.Canonical (execEventActivate k id s) := by
  unfold execEventActivate
  dsimp only
  repeat' split
  all_goals exact h.same (by simp)

theorem execEventDeactivate_canonical (m id : Nat) : Out.Canonical (execEventDeactivate m id s) := h.same (by simp)

theorem execHostAccess_canonical (a : HostAcc) : Out.Canonical (execHostAccess a s) := by
  unfold execHostAccess
  split
  · dsimp only
    split
    · exact h
    · split
      · exact h
      · next hr => exact (h.hostRead _ _ hr).same (by simp)
  · dsimp only
    split
    · exact h
    · split
      · exact h
      · next hw => exact h.hostWrite _ _ _ _ hw
  · split
    · exact h
    · exact h.same (by simp)
  · split
    · exact h
    · exact h.same (by simp)

theorem execIllegalInstruction_canonical : Out.Canonical (execIllegalInstruction s) := by
  unfold execIllegalInstruction
  dsimp only
  repeat' split
  all_goals exact h.same (by simp)

theorem execUsageRecordEmit_canonical (k : CtxKey) : Out.Canonical (execUsageRecordEmit k s) := by
  unfold execUsageRecordEmit
  repeat' split
  all_goals exact h.same (by simp)

theorem execInterimRecord_canonical (k : CtxKey) : Out.Canonical (execInterimRecord k s) := by
  unfold execInterimRecord
  repeat' split
  all_goals exact h.same (by simp)

theorem execRecordAck_canonical (m rseq : Nat) : Out.Canonical (execRecordAck m rseq s) := h.same (by simp)

theorem execGetMeasurements_canonical (m : Nat) : Out.Canonical (execGetMeasurements m s) := h.same (by simp)

theorem execOpticalReconfigure_canonical (groups : List (Nat × BitVec 16)) : Out.Canonical (execOpticalReconfigure groups s) := by
  unfold execOpticalReconfigure
  split <;> exact h.same (by simp)

theorem execIslandSet_canonical (m island : Nat) (v : IslandLevel) : Out.Canonical (execIslandSet m island v s) := by
  unfold execIslandSet
  dsimp only
  repeat' split
  all_goals exact h.same (by simp)

theorem execCorrectedError_canonical (m : Nat) (st : Fin 11) : Out.Canonical (execCorrectedError m st s) := by
  unfold execCorrectedError
  split <;> exact h.same (by simp)

end

end Sys2Proof.Machine

/-! ### Canonical form: the steps of the memories, the engines and the shards -/
namespace Sys2Proof.Machine

section
variable {s : State} (h : s.Canonical)
include h

/-! #### Loads, stores and copies of lines -/

theorem execRead_canonical (k : GKey) (fl part : Nat) : Out.Canonical (execRead k fl part s) := by
  unfold execRead
  split
  · exact h
  · split
    · exact h
    · split
      · exact h
      · extract_lets isLoad
        split
        · exact h
        · split
          · exact h.readGlobal ..
          all_goals
            repeat' split
            all_goals exact h.same (by simp)

theorem execFill_canonical (k : GKey) (line : Nat) : Out.Canonical (execFill k line s) := by
  unfold execFill
  split
  · exact h
  · next lease _ =>
    extract_lets got u
    have hgot (t : State) (ht : t.Canonical) : (got t).Canonical := State.Canonical.ite ht (ht.same (by simp))
    have hu : u.Canonical := h.redFirst k.m line
    split
    · exact hgot s h
    · split
      · exact h
      · split
        · exact hgot _ (hu.same (by simp))
        · exact hu

theorem execPerform_canonical (w : PerfRef) : Out.Canonical (execPerform w s) := by
  unfold execPerform
  split
  · split
    · exact h.performEntry ..
    · exact h
  · repeat' split
    · exact h
    · exact h
    · exact h.performLane ..
    · exact h
  · repeat' split
    · exact h
    · exact h.performLoc ..
    · exact h

theorem execRedEntryApply_canonical (line : Nat) : Out.Canonical (execRedEntryApply line s) := by
  unfold execRedEntryApply
  split
  · exact h.applyRed line
  · exact h

theorem execResultLand_canonical (k : GKey) (fl : Nat) : Out.Canonical (execResultLand k fl s) := by
  have hready := h.readyLaunch k fl
  unfold execResultLand
  dsimp only
  repeat' split
  all_goals exact hready.same (by simp)

theorem execResolve_canonical (k : CoreKey) (e : Nat) : Out.Canonical (execResolve k e s) := by
  unfold execResolve
  split
  · exact h
  · next y _ =>
    extract_lets d gk lease va u src
    have hu : u.Canonical := h.redFirst k.m y.pa
    split
    · exact h.same (by simp)
    · split
      · split
        · exact h
        · next g _ =>
          split
          · exact h
          · extract_lets log struck
            have hlog : (log s).Canonical := by
              dsimp only [log]
              split
              · exact h.same (by simp)
              · exact h
            have hstruck : struck.Canonical := hlog.same (by simp [struck])
            have hretry := h.retry ⟨gk, y.pa, y.lmask, y.lmask, 0, va, .read, false⟩ hstruck hstruck
            split
            · exact hstruck
            all_goals
              split
              · next t he =>
                have ht : t.Canonical := (he ▸ hretry :)
                exact ht.same (by simp)
              · next t he =>
                have ht : t.Canonical := (he ▸ hretry :)
                exact ht.same (by simp)
      · split
        · exact h
        · clear_value src
          split
          · exact State.Canonical.ite hu (hu.same (by simp))
          · refine State.Canonical.same (s := u) hu ?_
            rw [State.freeEyelet_memories]
            repeat' split
            all_goals simp

theorem execWritebackComplete_canonical (k : GKey) (i : Nat) : Out.Canonical (execWritebackComplete k i s) := by
  unfold execWritebackComplete
  split
  · exact h
  · split
    · exact h
    · next w _ =>
      extract_lets excl u v a b
      have hu : u.Canonical := h.closeRed w.line
      have hv : v.Canonical := hu.withDev (mwriteN_wf _ _ _ hu.dev) rfl
      split
      · exact h
      · exact hv.same (by simp [a, b])

/-! #### The fabric -/

theorem execProxyReadMiss_canonical (m line : Nat) : Out.Canonical (execProxyReadMiss m line s) := by
  unfold execProxyReadMiss
  split
  · exact h
  · split
    · next hm => exact (h.proxyMiss _ _ hm).same (by simp)
    · split
      · dsimp only
        split
        all_goals exact h.same (by simp)
      · exact h

theorem execInvalidateAck_canonical (m line : Nat) : Out.Canonical (execInvalidateAck m line s) := by
  unfold execInvalidateAck
  split
  · exact h
  · extract_lets ack
    have hack (s : State) (hs : s.Canonical) (e : Nat) : (ack s e).Canonical := by
      dsimp only [ack]
      rw [State.Canonical, State.modLine_memories, State.settlePend_memories, State.replyDone_memories,
        foldl_memories (fun s w => by split <;> simp)]
      refine State.Canonical.ite (State.Canonical.same hs ?_) (State.Canonical.closeRed (State.Canonical.same hs ?_) _)
      · rw [State.forget_memories]
        rfl
      · rw [State.forget_memories]
        rfl
    split
    · exact hack s h 0
    · split
      · exact hack s h 0
      · split
        · have herased : State.Canonical { s with proxies := terase s.proxies (m, line) } := h.same rfl
          exact hack _ herased _
        · exact h

theorem execLockRequest_canonical (k : GKey) (fl : Nat) : Out.Canonical (execLockRequest k fl s) := by
  unfold execLockRequest
  split
  · exact h
  · next g _ =>
    split
    · exact h
    · next f _ =>
      split
      · next d l va timeout _ =>
        have hclosed := h.closeRed l
        have hretry := h.retry ⟨k, fl, f.mask, f.act, f.pc, va, .write, false⟩ (gone := s.setGroup k (g.dropFlight fl)) (lost := s.failLock k fl)
          (h.same (by simp)) (h.same (by simp))
        split
        · exact h
        · split
          · exact h
          · extract_lets req close
            have hclose (t : State) (rp : Reply) : (close t rp).memories = t.memories := by
              clear_value req
              dsimp only [close]
              split <;> simp
            split
            · split
              · exact h
              · split
                · next he => exact (he ▸ hretry :)
                · next t he =>
                  have ht : t.Canonical := (he ▸ hretry :)
                  exact ht.same (by simp)
            · split
              · exact State.Canonical.ite (h.same (by simp)) h
              · split
                · exact h
                · split
                  · exact h.same (by simp [hclose])
                  · split
                    · exact h
                    · exact hclosed.same (by simp [hclose])
      all_goals exact h

theorem execLockGrant_canonical (line : Nat) : Out.Canonical (execLockGrant line s) := by
  have hclosed := h.closeRed line
  unfold execLockGrant
  split
  · exact h
  · split
    · dsimp only
      split
      · exact h
      · repeat' split
        all_goals exact hclosed.same (by simp)
    all_goals exact h

theorem execBarrier_canonical (i : Nat) : Out.Canonical (execBarrier i s) := by
  unfold execBarrier
  split
  · exact h
  · next q _ =>
    split
    · exact h
    · extract_lets u
      have hu : u.Canonical := h.same rfl
      split
      · split
        · exact hu.same (State.landed_memories ..)
        · exact hu
        · exact hu
      · split
        · exact hu.same (State.barRefused_memories ..)
        · show State.Canonical _
          rw [State.Canonical, State.reeval_memories, State.barReply_memories]
          exact hu.objWrite ..

/-! #### Tiles -/

theorem execTileOpExecute_canonical (k : CoreKey) : Out.Canonical (execTileOpExecute k s) := by
  unfold execTileOpExecute
  split
  · next tid t e rest _ _ =>
    extract_lets pop base u
    have hpop (s : State) : (pop s).memories = s.memories := by simp [pop]
    have hleave (s : State) (hs : s.Canonical) : State.Canonical ((pop s).tryEnd tid) := hs.same (by simp [hpop])
    have hu : u.Canonical := State.Canonical.ite (h.mendTiles _) h
    split
    · exact h.same (by simp)
    · split
      · exact hu
      · exact hleave _ (hu.withTiles (zeroTile_wf hu.tiles ..) rfl)
      · exact hleave _ (hu.withTiles (MmacF.perform_wf hu.tiles ..) rfl)
      · exact hleave _ (hu.withTiles (TcvtF.perform_wf hu.tiles ..) rfl)
      all_goals
        split
        · next rows gk _ _ =>
          split
          · exact hu
          · split
            · exact hu
            · split
              · have hmend := hu.mendScratch (rows.map (fun r => (base + r.1, r.2)))
                show State.Canonical _
                rw [State.Canonical, State.tryEnd_memories, State.reeval_memories, hpop]
                exact hmend.withScratch (moveRows_wf hmend.scratch ..) rfl
              · split
                · exact hu.same (by simp)
                · exact hleave _ (hu.withTiles (moveRows_wf hu.tiles ..) rfl)
        · exact hu
  · exact h

theorem execMmacgChunk_canonical (k : CoreKey) : Out.Canonical (execMmacgChunk k s) := by
  unfold execMmacgChunk
  split
  · next e _ _ _ =>
    split
    · exact h
    · next x _ =>
      extract_lets j u accs v w counted e' moved popped
      have hu : u.Canonical := h.same (by simp [u])
      have hv : v.Canonical := hu.mendTiles _
      have hw : w.Canonical := hv.withTiles (Macro.perform_wf hv.tiles ..) rfl
      split
      · exact h
      · split
        · exact hu.same (by simp)
        · exact hw.same (by simp [popped, moved, counted, apply_ite State.memories])
  · exact h

/-! #### Flags and shuttles -/

theorem execFlagApply_canonical (i : Nat) : Out.Canonical (execFlagApply i s) := by
  unfold execFlagApply
  split
  · exact h
  · next f _ =>
    extract_lets there acq
    split
    · split
      · exact h.resendFlag ..
      · exact h
    · split
      · exact h
      · split
        · refine State.Canonical.same (s := s) h ?_
          rw [State.memories_mk, Memories.eta, State.replyTo_memories]
          split <;> simp
        · split
          · exact h.same (by simp)
          · split
            · exact h
            · next hw =>
              have ht := h.tryWrite _ _ _ _ (fun m hm => mwriteN_wf m _ _ hm) _ hw
              exact ht.same (by simp)

theorem execShuttleStep_canonical (i : Nat) : Out.Canonical (execShuttleStep i s) := by
  unfold execShuttleStep
  split
  · exact h
  · next p _ =>
    extract_lets fl acq stop
    have hstop (st : Nat) : Out.Canonical (stop st) := h.same (by simp)
    split
    · exact h
    · split
      · exact hstop 5
      · split
        · exact hstop _
        · next pa _ =>
          extract_lets m hops l u w v r
          have hu : u.Canonical := h.redFirst m l
          split
          · exact hstop 6
          · split
            · exact h
            · split
              · exact h.same (by simp)
              · split
                · exact hstop 1
                · split
                  · exact hstop 4
                  · split
                    · exact h
                    · split
                      next t hits hn =>
                        have ht : t.memories = u.memories := (congrArg (fun p => p.1.memories) hn).symm.trans (by simp [v])
                        exact hu.same (by simp [ht])

theorem execShuttleReturn_canonical (k : GKey) (fl : Nat) : Out.Canonical (execShuttleReturn k fl s) := by
  unfold execShuttleReturn
  extract_lets mine late fail
  have hfail (p : Shuttle) : (fail p).Canonical := by
    dsimp only [fail]
    have hstale : State.Canonical (if p.res.isNone && 0 < p.i && p.i < p.nstep && p.at_ != k.m then s.staleShuttle p p.at_ else s) :=
      State.Canonical.ite (h.same (by simp)) h
    rw [State.Canonical, State.shtlResult_memories, State.noteReqFail_memories, State.setShuttle_memories]
    exact hstale.dropStitches _
  split
  · split
    · exact h
    · split
      · exact (hfail _).same rfl
      · exact h.same (by simp)
  · split
    · exact hfail _
    · exact h

end

end Sys2Proof.Machine

/-! ### Canonical form: the steps of the shard engines, the fault buffer and the fabric's failures -/
namespace Sys2Proof.Machine

section
variable {s : State} (h : s.Canonical)
include h

/-! #### Gathers -/

theorem execGatherStart_canonical (k : CtxKey) (va : DWord) : Out.Canonical (execGatherStart k va s) := by
  unfold execGatherStart
  split
  · refine State.Canonical.ite (State.Canonical.same (s := s) h ?_) h
    dsimp only
    split <;> simp
  · split
    · exact h
    · split
      · exact State.Canonical.ite (h.same (by simp)) (h.takeFrame _)
      · split
        · exact h.beginGather _
        · exact h

theorem execSlData_canonical (r : Nat) : Out.Canonical (execSlData r s) := by
  unfold execSlData
  split
  · split
    · exact h.same (by simp)
    · split
      · exact h.same (by simp)
      · split
        · exact h
        · next u hw =>
          have hu : u.Canonical := h.shardWrite _ _ _ _ _ hw
          extract_lets va
          split
          next t hits hn =>
            have ht : t.memories = u.memories := (congrArg (fun p => p.1.memories) hn).symm.trans (by simp)
            refine State.Canonical.finishGather ?_ _
            exact hu.same (by simp [ht])
  · exact h

/-! #### Contributions and rounds -/

theorem execContrib_canonical (r : Nat) : Out.Canonical (execContrib r s) := by
  unfold execContrib
  split
  · exact h.endContrib r
  · split
    · split
      · exact h.endContrib r
      · split
        · exact h.same (by simp)
        · split
          · dsimp only
            split
            · exact h.same (by simp)
            · exact h.same (by simp)
          · dsimp only
            split
            · exact h
            · next hs =>
              have ht := h.applyShard _ _ hs
              split
              · exact ht
              · exact ht.same (by simp)
    all_goals exact h.endContrib r

theorem execRoundCommit_canonical (k : CtxKey) (sg page slice : Nat) : Out.Canonical (execRoundCommit k sg page slice s) := by
  unfold execRoundCommit
  split
  · exact h.endRound ..
  · dsimp only
    split
    · exact h.endRound ..
    · split
      · exact h
      · split
        · exact h
        · next u hs =>
          have hu : u.Canonical := h.applyShard _ _ hs
          refine State.Canonical.same (s := u) hu ?_
          rw [State.shardNote_memories, State.memories_mk, Memories.eta, foldl_memories (fun s c => by simp)]

theorem execDrainStart_canonical (k : CtxKey) (va : DWord) : Out.Canonical (execDrainStart k va s) := by
  unfold execDrainStart
  dsimp only
  split
  · exact h
  · split
    · split
      · exact h
      · split
        · exact h
        · split
          · exact h
          · next u hs =>
            have hu : u.Canonical := h.startDrain _ _ _ _ _ _ hs
            exact hu.same (by simp)
    · exact h

theorem execCnAck_canonical (r : Nat) : Out.Canonical (execCnAck r s) := by
  unfold execCnAck
  split
  · exact State.Canonical.contribDone (h.same (by simp)) _ _
  · exact h

theorem execCnNak_canonical (r : Nat) : Out.Canonical (execCnNak r s) := by
  unfold execCnNak
  split
  · exact State.Canonical.dropContrib (h.same (by simp)) _ _
  · exact h

/-! #### The pool and the fault buffer -/

theorem execAbsentAllocate_canonical (k : CtxKey) (va : DWord) : Out.Canonical (execAbsentAllocate k va s) := by
  unfold execAbsentAllocate
  split
  · exact h
  · split
    · split
      · exact h.same (by simp)
      · dsimp only
        split
        · exact h.poolEmpty ..
        · split
          · exact h
          · next u hw =>
            have hu : u.Canonical := h.shardWrite _ _ _ _ _ hw
            split
            · exact h
            · exact h
            · next hr =>
              refine State.Canonical.same (State.Canonical.casEntry ?_ _ _ _ _ _ hr) (by simp)
              exact hu.same (by simp)
    · exact h.same (by simp)

theorem execPoolPressure_canonical (k : CtxKey) : Out.Canonical (execPoolPressure k s) := by
  unfold execPoolPressure
  split
  · exact h
  · split
    · exact h.orphanOne ..
    · split
      · exact h
      · split
        · exact h
        · dsimp only
          split
          · split
            · exact h
            · exact h
            · next hr => exact (h.release _ _ _ _ hr).same (by simp)
          · split
            · exact h
            · split
              · exact h
              · next hr => exact h.startDrain _ _ _ _ _ _ hr

theorem execFaultFlush_canonical (m : Nat) : Out.Canonical (execFaultFlush m s) := by
  unfold execFaultFlush
  extract_lets b md put get mem mem' fb u old
  have hmem : mem.wf = true := by
    refine wf_foldl (fun mem i hm => ?_) _ h.mem
    dsimp only
    split
    · exact mwrite_wf _ _ _ hm
    · exact hm
  have hu : u.Canonical := by
    refine State.Canonical.syncFb (State.Canonical.withMem h (m := mem') (mwriteN_wf _ _ _ (mwriteN_wf _ _ _ hmem)) ?_) m
    rw [State.setModule_memories]
    rfl
  split
  · exact h
  · refine State.Canonical.same (s := u) hu ?_
    rw [foldl_memories (fun s c => by split <;> simp)]
    rfl

/-! #### Engines and requests -/

theorem execEngine_canonical (e : EngRef) (piece : Nat) : Out.Canonical (execEngine e piece s) := by
  cases e with
  | copy k op => exact h.engineCopy ..
  | tile k => exact h.engineTile ..
  | coll op => exact h.engineColl ..
  | gather op => exact h.engineGather ..
  | drain op => exact h.engineDrain ..

theorem execRequestFail_canonical (r : Nat) : Out.Canonical (execRequestFail r s) := by
  unfold execRequestFail
  split
  · exact h
  · next q _ =>
    split
    · exact h
    · extract_lets noted counted closed u
      have hnoted : noted.memories = s.memories := by
        dsimp only [noted]
        split <;> simp
      have hcounted : counted.memories = noted.memories := by
        dsimp only [counted]
        split <;> simp
      have hu : u.Canonical := State.Canonical.dropStitches (h.same (by simp [closed, hcounted, hnoted])) _
      show State.Canonical _
      split
      · split
        · exact hu.same (by simp)
        · exact hu
      · split
        · exact hu.same (by simp)
        · exact hu
      · exact hu.same (by simp)
      · exact hu.same (by simp)
      · exact hu.same (by simp)
      · exact hu.same (by simp)
      · exact hu
      · exact hu
      · split
        · exact hu.same (by simp)
        · split
          · exact hu.same (by simp)
          · exact hu
      · split
        · exact hu.same (by simp)
        · exact hu
      · exact hu.dropContrib ..

end

end Sys2Proof.Machine

/-! ### Canonical form: the steps of the system -/
namespace Sys2Proof.Machine

section
variable {s : State} (h : s.Canonical)
include h

/-! #### Residence -/

theorem execQpopWake_canonical (k : GKey) (fl : Nat) : Out.Canonical (execQpopWake k fl s) := by
  unfold execQpopWake
  split
  · exact h
  · next g _ =>
    split
    · exact h
    · split
      · next q _ =>
        have hpop := h.pop g.key q false
        split
        · exact h
        · split
          · exact h
          · next t he =>
            have ht : t.Canonical := (he ▸ hpop :)
            exact ht.same (by simp)
      all_goals exact h

theorem execTeamMakeResident_canonical (k : CtxKey) : Out.Canonical (execTeamMakeResident k s) := h.makeResident ..

theorem execRestore_canonical (team : Nat) : Out.Canonical (execRestore team s) := by
  unfold execRestore
  split
  · exact h
  · exact h.makeResident ..

theorem execSave_canonical (team : Nat) : Out.Canonical (execSave team s) := State.Canonical.ite (h.saveTeam team) h

/-! #### Debug -/

theorem execSequencerEvent_canonical (k : CtxKey) : Out.Canonical (execSequencerEvent k s) := by
  unfold execSequencerEvent
  split
  · exact h
  · split
    · exact h
    · split
      · exact h
      · exact State.Canonical.takeEvent (h.same (by simp)) _ _

theorem execSeqWrite_canonical (k : CtxKey) (v : DWord) : Out.Canonical (execSeqWrite k v s) := h.storeSeq ..

theorem execWhrdWrite_canonical (k : CtxKey) (v : DWord) : Out.Canonical (execWhrdWrite k v s) := h.storeWhrd ..

theorem execWhbaseWrite_canonical (k : CtxKey) (v : DWord) : Out.Canonical (execWhbaseWrite k v s) := h.storeWhbase ..

theorem execCapbaseWrite_canonical (k : CtxKey) (v : DWord) : Out.Canonical (execCapbaseWrite k v s) := h.storeCapbase ..

theorem execRegisterWrite_canonical (k : CtxKey) (off : Nat) (v : DWord) : Out.Canonical (execRegisterWrite k off v s) := h.storeReg ..

theorem execLogBreakpoint_canonical : Out.Canonical (execLogBreakpoint s) := by
  unfold execLogBreakpoint
  split
  · exact h
  · next g _ =>
    split
    · exact h
    · extract_lets t n regs snap u v
      have hu : u.Canonical := h.same (by simp [u])
      have hv : v.Canonical := hu.capture ..
      have hbodies := State.Canonical.foldl hv (fun s b hs => hs.capture g.key (kindRecord 4 b)) (Config.snapshotBodies snap)
      exact hbodies.same (State.tryEnd_memories ..)

theorem execTeamStop_canonical (team : Nat) (cause : StopCause) : Out.Canonical (execTeamStop team cause s) := by
  unfold execTeamStop
  split
  · exact h
  · next t _ =>
    split
    · exact h
    · extract_lets here die log waits u v w x
      have hu : u.Canonical := State.Canonical.ite (h.saveTeam team) h
      have hv : v.Canonical := hu.same (by simp [v])
      have hx : x.Canonical := State.Canonical.foldl (hv.flushIssue t.key) (fun s e hs => hs.dumpRecord ..) _
      split
      · exact h
      · exact State.Canonical.foldl hx (fun s e hs => hs.dumpRecord ..) _

theorem execWatchHit_canonical (i : Nat) : Out.Canonical (execWatchHit i s) := by
  unfold execWatchHit
  split
  · exact h
  · next a _ =>
    extract_lets k t ended halted asks stops n d num r u v w
    have hu : u.Canonical := h.same rfl
    have hput : State.Canonical { u with mem := mwriteN u.mem (u.dbg k 0xC0 + 32 * (n % 256)) (toBytes 32 r) } :=
      hu.withMem (mwriteN_wf _ _ _ hu.mem) rfl
    have hv : v.Canonical := State.Canonical.ite (hu.setDbg ..) (hput.setDbg ..)
    have hw : w.memories = v.memories := by
      dsimp only [w]
      split
      · rfl
      · split
        · rw [foldl_memories (fun s e => by simp), State.modCtx_memories]
        · simp
    split
    · exact h
    · exact hv.same (by simp [hw])

theorem execStitchRecordReturn_canonical (i : Nat) : Out.Canonical (execStitchRecordReturn i s) := by
  unfold execStitchRecordReturn
  split
  · exact h
  · next y _ =>
    split
    · exact h
    · extract_lets total u w v
      have hu : u.Canonical := h.same rfl
      have hv : v.Canonical := State.Canonical.ite (hu.same (by simp)) (hu.setDbg ..)
      exact hv.same (by simp)

/-! #### Command queues -/

theorem execLaunchPacket_canonical (k : CtxKey) (q : Nat) : Out.Canonical (execLaunchPacket k q s) := by
  unfold execLaunchPacket
  split
  · exact h
  · next p _ =>
    extract_lets ty u
    have hu : u.Canonical := h.same (by simp [u])
    split
    · show State.Canonical _
      split
      · next st _ => exact (hu.rejectPacket k q p 1 st).same (by simp)
      · exact (hu.startPacket k q p 1 0 0).same (by simp)
    · split
      · exact h.rejectPacket ..
      · exact h

theorem execWaitEvent_canonical (k : CtxKey) (q : Nat) : Out.Canonical (execWaitEvent k q s) := by
  unfold execWaitEvent
  split
  · exact h
  · next p _ =>
    split
    · exact h
    · split
      · exact h.rejectPacket ..
      · extract_lets id v u md
        have hu : u.Canonical := h.startPacket ..
        split
        · exact hu.same (by simp)
        · split
          · exact hu.completePacket ..
          · exact hu.same (by simp)

theorem execSignalEvent_canonical (k : CtxKey) (q : Nat) : Out.Canonical (execSignalEvent k q s) := by
  unfold execSignalEvent
  split
  · exact h
  · next p _ =>
    split
    · exact h
    · split
      · exact h.rejectPacket ..
      · exact (h.startPacket k q p 3 (s.pk p 2 2) 0).same (by simp)

theorem execFencePacket_canonical (k : CtxKey) (q : Nat) : Out.Canonical (execFencePacket k q s) := by
  unfold execFencePacket
  split
  · exact h
  · split
    · exact h
    · split
      · exact h.rejectPacket ..
      · exact State.Canonical.completePacket (h.startPacket ..) _ _ _

theorem execMarkArm_canonical (k : CtxKey) (q : Nat) : Out.Canonical (execMarkArm k q s) := h.markPacket _ _ _ fun _ _ hs => hs.putSeq ..

theorem execMarkDisarm_canonical (k : CtxKey) (q : Nat) : Out.Canonical (execMarkDisarm k q s) := h.markPacket _ _ _ fun _ _ hs => hs.putSeq ..

theorem execMarkStart_canonical (k : CtxKey) (q : Nat) : Out.Canonical (execMarkStart k q s) := h.markPacket _ _ _ fun _ _ hs => hs.putSeq ..

theorem execMarkFreeze_canonical (k : CtxKey) (q : Nat) : Out.Canonical (execMarkFreeze k q s) := h.markPacket _ _ _ fun _ _ hs => hs.putSeq ..

theorem execMarkEvent_canonical (k : CtxKey) (q : Nat) : Out.Canonical (execMarkEvent k q s) := h.markPacket _ _ _ fun _ _ hs => hs.takeEvent ..

theorem execGridComplete_canonical (grid : Nat) : Out.Canonical (execGridComplete grid s) := by
  unfold execGridComplete
  split
  · exact h
  · dsimp only
    split
    · exact h
    · exact State.Canonical.completePacket (h.same (by simp)) _ _ _

/-! #### The control plane -/

theorem execQueueCreate_canonical (p : QueueParams) : Out.Canonical (execQueueCreate p s) := by
  unfold execQueueCreate
  split
  · exact h
  · split
    · exact h
    · exact State.Canonical.hwStore (h.same (by simp)) _ _

theorem execHostTailWrite_canonical (k : CtxKey) (q : Nat) (v : DWord) : Out.Canonical (execHostTailWrite k q v s) := by
  unfold execHostTailWrite
  split
  · exact h
  · next qu _ =>
    split
    · exact h.same (by simp)
    · extract_lets u w
      have hu : u.Canonical := h.hwStore ..
      split
      · exact hu
      · exact State.Canonical.foldl (hu.same (by simp [w])) (fun s p hs => hs.completePacket ..) _

theorem execContextCreate_canonical (p : CtxParams) : Out.Canonical (execContextCreate p s) := by
  unfold execContextCreate
  split
  · exact h
  · next md _ =>
    have hsound : (s.sound .pks (pksAt p.k 0) (2 ^ 48)).Canonical := h.same (by simp)
    dsimp only
    split
    · exact h
    · exact .mk (mclear_wf _ _ _ h.mem) hsound.dev hsound.scratch (mclear_wf _ _ _ h.pks) hsound.lpm hsound.tiles

theorem execContextTeardown_canonical (k : CtxKey) : Out.Canonical (execContextTeardown k s) := by
  unfold execContextTeardown
  split
  · exact h
  · split
    · exact h
    · extract_lets on tileOn u v w x y z
      have hu : u.Canonical := State.Canonical.eventTable (h.dropTeams k) _
      have hx : x.memories = u.memories := by
        rw [foldl_memories (fun s e => by split <;> simp), foldl_memories (fun s n => by simp), foldl_memories (fun s n => by simp)]
      have hy : y.Canonical := State.Canonical.queuesResident (hu.same hx) k false
      exact hy.same (by simp [z])

theorem execPartitionRecompute_canonical (m : Nat) : Out.Canonical (execPartitionRecompute m s) := by
  unfold execPartitionRecompute
  dsimp only
  split
  · exact h
  · split
    · exact State.Canonical.partition (h.same (State.setModule_memories ..)) _ _
    · exact State.Canonical.partition (h.same (State.setModule_memories ..)) _ _

theorem execInstructionFetch_canonical : Out.Canonical (execInstructionFetch s) := by
  unfold execInstructionFetch
  dsimp only
  split
  · exact h
  · split
    · exact h
    · split
      · exact h
      · split
        · split
          · exact h.same (by simp)
          · exact h.same (by simp)
        · exact h.same (by simp)
        · split
          · exact h.same (by simp)
          · exact h.markReplay ..
        · exact h

/-! #### Boots, jobs and losses -/

theorem execReset_canonical (m : Nat) : Out.Canonical (execReset m s) := h.bootModule ..

theorem execPowerOn_canonical (m : Nat) : Out.Canonical (execPowerOn m s) := by
  unfold execPowerOn
  split
  · exact h
  · exact (h.bootModule m none).same (by simp)

theorem execHostPushedRecoveryImage_canonical (m : Nat) (img : List Byte) : Out.Canonical (execHostPushedRecoveryImage m img s) := h.bootModule ..

theorem execLifecycleChange_canonical (m : Nat) (st : LifeCycle) : Out.Canonical (execLifecycleChange m st s) := by
  unfold execLifecycleChange
  split
  · exact h
  · split
    · exact h
    · exact (h.wipeModule m).same (State.modModule_memories ..)

theorem execJobFormation_canonical (p : JobParams) : Out.Canonical (execJobFormation p s) := by
  unfold execJobFormation
  split
  · next a md _ =>
    split
    · exact h
    · extract_lets free dev own others u v
      have hu : u.Canonical := h.rekey ..
      have hv : v.Canonical := hu.same rfl
      exact State.Canonical.foldl hv (fun s m hs => hs.syncFb m) _
  · exact h

theorem execJobEnd_canonical : Out.Canonical (execJobEnd s) := by
  unfold execJobEnd
  split
  · exact h
  · next a md _ =>
    split
    · exact h
    · extract_lets alone reset rest
      have hrekey := h.rekey a 0 (alone md)
      have hparked : State.Canonical { s.rekey a 0 (alone md) with parked := rest } := hrekey.same rfl
      exact hparked.syncFb 0

theorem execDieLost_canonical (m d : Nat) : Out.Canonical (execDieLost m d s) := by
  unfold execDieLost
  split
  · exact h
  · split
    · exact h
    · extract_lets gone u die v w x homed y z a b
      have hw : w.Canonical := h.same (by simp [w, v, u])
      have hx : x.Canonical := hw.dropProxies m d
      have hy : y.memories = x.memories := foldl_memories (fun s l => by simp) _ _
      refine State.Canonical.same hx ?_
      rw [foldl_memories (fun s c => by simp)]
      simp [b, a, z, hy]

theorem execModuleLost_canonical (m : Nat) : Out.Canonical (execModuleLost m s) := by
  unfold execModuleLost
  split
  · exact h
  · split
    · exact h
    · extract_lets gone u v
      have hu : u.Canonical := h.same (by simp [u])
      have hv : v.memories = u.memories := foldl_memories (fun s l => by simp) _ _
      refine State.Canonical.same (State.Canonical.reclaim ?_ m) (State.unawait_memories ..)
      exact hu.same (by simp [hv])

theorem execUncorrectableError_canonical (e : ErrSite) : Out.Canonical (execUncorrectableError e s) := by
  show State.Canonical _
  split
  · exact h.same (by simp)
  · exact State.Canonical.ite h (h.same (by simp))
  · split
    · exact h
    · exact State.Canonical.ite h (h.same (by simp))
  · exact h.same (by simp)
  · exact h.same (by simp)
  · exact h.same (by simp)
  · exact h.same (by simp)
  · next line reader => exact State.Canonical.ite ((h.loseDirty line reader).same (State.countBad_memories ..)) h
  · split
    · exact h.same (by simp)
    · exact h
  · dsimp only
    split
    · exact h.same (by simp)
    · exact h.same (by simp)
  · exact h.same (by simp)
  · exact h.same (by simp)
  · exact h.same (by simp)
  · exact h.same (by simp)
  · split
    · exact h
    · exact h.same (by simp)
  · refine State.Canonical.same (s := s) h ?_
    dsimp only
    rw [State.countBad_memories]
    split <;> rfl
  · exact h.same (by simp)
  · split
    · exact h
    · exact h.same (by simp)

end

end Sys2Proof.Machine

/-! ### Canonical form: every step of the machine, and O60 -/
namespace Sys2Proof.Machine

/-- A word whose body leaves the memories keeps the canonical form. -/
theorem issue_keeps {s : State} {i : Instr} {f : Iss → State} (h : s.Canonical) (hf : ∀ x, (f x).memories = x.s.memories) :
    Out.Canonical (issue i s fun x => .ok (f x)) :=
  issue_canonical h fun x hx => hx.same (hf x)

/-- Every instruction and every machine step keeps the canonical form. -/
theorem exec_canonical {s : State} (h : s.Canonical) (i : Instr) : Out.Canonical (exec i s) := by
  cases i
  case bra | brq | brx | call | callx | voteBal | redux | vtos | stov | qblkHist | qblkClip | shq | pgq | mfs | mts | trc | smark =>
    exact issue_keeps h fun x => by simp
  case sadd | ssub | smulLo | smulHi | smad | smin | smax | sabs | sand | sor | sxor | sandn | snot | sshl | sshr | ssar | srot | spopc | sclz
      | sctz | sbrev | sbfe | sbfi | ssel | smov | smovw | slea | ssext | szext | saddImm | sandImm | sorImm | sxorImm | sshlImm | sshrImm |
      ssarImm | smovImm =>
    exact issue_canonical h fun _ hx => Iss.sresult_canonical hx ..
  case scmp | scmpImm =>
    exact issue_canonical h fun _ hx => Iss.qresult_canonical hx ..
  case vadd | vsub | vmulLo | vmulHi | vmad | vmin | vmax | vabs | vand | vor | vxor | vandn | vnot | vshl | vshr | vsar | vrot | vpopc | vclz
      | vctz | vbrev | vbfe | vbfi | vmov | vsext | vzext | vaddImm | vandImm | vorImm | vxorImm | vshlImm | vshrImm | vsarImm | vcmp | vsel |
      vmovw | vlea | vcmpImm | vmovImm =>
    exact issue_canonical h fun _ hx => Iss.vresult_canonical hx ..
  case shflIdx | shflUp | shflDn | shflXor =>
    exact issue_canonical h fun _ hx => Iss.shuffle_canonical hx ..
  case voteAny | voteAll =>
    exact issue_canonical h fun _ hx => Iss.vote_canonical hx ..
  case fadd | fsub | fmul | fma | fmin | fmax | fcmp | fdot4 | cvt | cvtFi | cvtIf =>
    exact issue_canonical h fun _ hx => Iss.fshort_canonical hx ..
  case frcp | frsq | fsqrt | fex2 | flg2 | ftanh =>
    exact issue_canonical h fun _ hx => Iss.flong_canonical hx ..
  case ldl | lds | ldd | ldk =>
    exact issue_canonical h fun _ hx => Iss.ldLocal_canonical hx ..
  case stl | sts | std | stk =>
    exact issue_canonical h fun _ hx => Iss.stLocal_canonical hx ..
  case ldg | ldSpec =>
    exact issue_canonical h fun _ hx => Iss.ldGlobal_canonical hx ..
  case atomAdd | atomMin | atomMax | atomAnd | atomOr | atomXor | atomSwap | atomCas | atomFaddF32 | atomFaddBf16 =>
    exact issue_canonical h fun _ hx => Iss.atom_canonical hx ..
  case redAdd | redMin | redMax | redAnd | redOr | redXor | redFaddF32 | redFaddBf16 =>
    exact issue_canonical h fun _ hx => Iss.red_canonical hx ..
  case lck | lckTry =>
    exact issue_canonical h fun _ hx => Iss.lck_canonical hx ..
  case cpy | cpy2d =>
    exact issue_canonical h fun _ hx => Iss.copy_canonical hx ..
  case taccLd | taccSt =>
    exact issue_canonical h fun _ hx => Iss.tileMove_canonical hx ..
  case fflB32 | fflB64 =>
    exact issue_canonical h fun _ hx => Iss.fflStore_canonical hx ..
  case shtl | shtlT =>
    exact issue_canonical h fun _ hx => Iss.shuttle_canonical hx ..
  case collAg | collRs | collAr | collBc =>
    exact issue_canonical h fun _ hx => Iss.coll_canonical hx ..
  case qpop | qpopNb =>
    exact issue_canonical h fun _ hx => Iss.qpop_canonical hx ..
  case braDiv => exact execBraDiv_canonical h ..
  case ret => exact execRet_canonical h ..
  case join => exact execJoin_canonical h ..
  case exit => exact execExit_canonical h ..
  case nop => exact execNop_canonical h ..
  case qblkQ => exact execQblkQ_canonical h ..
  case stg => exact execStg_canonical h ..
  case chk => exact execChk_canonical h ..
  case pf => exact execPf_canonical h ..
  case cwb => exact execCwb_canonical h ..
  case cinv => exact execCinv_canonical h ..
  case unlk => exact execUnlk_canonical h ..
  case barInit => exact execBarInit_canonical h ..
  case barArrive => exact execBarArrive_canonical h ..
  case barExpect => exact execBarExpect_canonical h ..
  case barWait => exact execBarWait_canonical h ..
  case barTest => exact execBarTest_canonical h ..
  case fenceAcq => exact execFenceAcq_canonical h ..
  case fenceRel => exact execFenceRel_canonical h ..
  case fenceFull => exact execFenceFull_canonical h ..
  case fenceX => exact execFenceX_canonical h ..
  case cpyWait => exact execCpyWait_canonical h ..
  case tld => exact execTld_canonical h ..
  case tst => exact execTst_canonical h ..
  case tzero => exact execTzero_canonical h ..
  case mmac => exact execMmac_canonical h ..
  case mmacg => exact execMmacg_canonical h ..
  case tcvt => exact execTcvt_canonical h ..
  case tileOpExecute => exact execTileOpExecute_canonical h ..
  case mmacgChunk => exact execMmacgChunk_canonical h ..
  case stAck => exact execStAck_canonical h ..
  case fflArr => exact execFflArr_canonical h ..
  case shg => exact execShg_canonical h ..
  case shev => exact execShev_canonical h ..
  case trap => exact execTrap_canonical h ..
  case rfh => exact execRfh_canonical h ..
  case launch => exact execLaunch_canonical h ..
  case evsig => exact execEvsig_canonical h ..
  case bkpt => exact execBkpt_canonical h ..
  case instructionFetch => exact execInstructionFetch_canonical h ..
  case resultLand => exact execResultLand_canonical h ..
  case lateTrapTake => exact execLateTrapTake_canonical h ..
  case read => exact execRead_canonical h ..
  case fill => exact execFill_canonical h ..
  case drain => exact execDrain_canonical h ..
  case perform => exact execPerform_canonical h ..
  case storeAck => exact execStoreAck_canonical h ..
  case atomReply => exact execAtomReply_canonical h ..
  case redEntryApply => exact execRedEntryApply_canonical h ..
  case movedResend => exact execMovedResend_canonical h ..
  case engine => exact execEngine_canonical h ..
  case land => exact execLand_canonical h ..
  case barrier => exact execBarrier_canonical h ..
  case deliver => exact execDeliver_canonical h ..
  case resolve => exact execResolve_canonical h ..
  case tick => exact execTick_canonical h ..
  case expiredCopyDrop => exact execExpiredCopyDrop_canonical h ..
  case save => exact execSave_canonical h ..
  case restore => exact execRestore_canonical h ..
  case teamMakeResident => exact execTeamMakeResident_canonical h ..
  case quantumExpiry => exact execQuantumExpiry_canonical h ..
  case remoteLoadBlock => exact execRemoteLoadBlock_canonical h ..
  case faultReplay => exact execFaultReplay_canonical h ..
  case carveChange => exact execCarveChange_canonical h ..
  case lockRequest => exact execLockRequest_canonical h ..
  case lockGrant => exact execLockGrant_canonical h ..
  case lockHandoff => exact execLockHandoff_canonical h ..
  case resUpdate => exact execResUpdate_canonical h ..
  case lckTryTimeout => exact execLckTryTimeout_canonical h ..
  case deadlockProbe => exact execDeadlockProbe_canonical h ..
  case lockTimeout => exact execLockTimeout_canonical h ..
  case proxyReadMiss => exact execProxyReadMiss_canonical h ..
  case invalidate => exact execInvalidate_canonical h ..
  case invalidateAck => exact execInvalidateAck_canonical h ..
  case proxyEvict => exact execProxyEvict_canonical h ..
  case requestResend => exact execRequestResend_canonical h ..
  case requestFail => exact execRequestFail_canonical h ..
  case lateReply => exact execLateReply_canonical h ..
  case ackSend => exact execAckSend_canonical h ..
  case flagApply => exact execFlagApply_canonical h ..
  case shuttleStep => exact execShuttleStep_canonical h ..
  case shuttleReturn => exact execShuttleReturn_canonical h ..
  case collStreamReceive => exact execCollStreamReceive_canonical h ..
  case collFail => exact execCollFail_canonical h ..
  case gtimerMatch => exact execGtimerMatch_canonical h ..
  case deadline => exact execDeadline_canonical h ..
  case hostTailWrite => exact execHostTailWrite_canonical h ..
  case hostAccess => exact execHostAccess_canonical h ..
  case qpopWake => exact execQpopWake_canonical h ..
  case launchPacket => exact execLaunchPacket_canonical h ..
  case waitEvent => exact execWaitEvent_canonical h ..
  case signalEvent => exact execSignalEvent_canonical h ..
  case fencePacket => exact execFencePacket_canonical h ..
  case markArm => exact execMarkArm_canonical h ..
  case markDisarm => exact execMarkDisarm_canonical h ..
  case markStart => exact execMarkStart_canonical h ..
  case markFreeze => exact execMarkFreeze_canonical h ..
  case markEvent => exact execMarkEvent_canonical h ..
  case gridComplete => exact execGridComplete_canonical h ..
  case eventActivate => exact execEventActivate_canonical h ..
  case eventDeactivate => exact execEventDeactivate_canonical h ..
  case partitionRecompute => exact execPartitionRecompute_canonical h ..
  case contextCreate => exact execContextCreate_canonical h ..
  case contextTeardown => exact execContextTeardown_canonical h ..
  case queueCreate => exact execQueueCreate_canonical h ..
  case jobFormation => exact execJobFormation_canonical h ..
  case jobEnd => exact execJobEnd_canonical h ..
  case opticalReconfigure => exact execOpticalReconfigure_canonical h ..
  case islandSet => exact execIslandSet_canonical h ..
  case dieLost => exact execDieLost_canonical h ..
  case moduleLost => exact execModuleLost_canonical h ..
  case powerOn => exact execPowerOn_canonical h ..
  case reset => exact execReset_canonical h ..
  case lifecycleChange => exact execLifecycleChange_canonical h ..
  case getMeasurements => exact execGetMeasurements_canonical h ..
  case usageRecordEmit => exact execUsageRecordEmit_canonical h ..
  case interimRecord => exact execInterimRecord_canonical h ..
  case recordAck => exact execRecordAck_canonical h ..
  case pageWalk => exact execPageWalk_canonical h ..
  case absentAllocate => exact execAbsentAllocate_canonical h ..
  case gatherStart => exact execGatherStart_canonical h ..
  case slReq => exact execSlReq_canonical h ..
  case slData => exact execSlData_canonical h ..
  case slNak => exact execSlNak_canonical h ..
  case contrib => exact execContrib_canonical h ..
  case cnAck => exact execCnAck_canonical h ..
  case cnFull => exact execCnFull_canonical h ..
  case cnNak => exact execCnNak_canonical h ..
  case roundCommit => exact execRoundCommit_canonical h ..
  case drainStart => exact execDrainStart_canonical h ..
  case poolPressure => exact execPoolPressure_canonical h ..
  case frameReturn => exact execFrameReturn_canonical h ..
  case faultFlush => exact execFaultFlush_canonical h ..
  case movedEntryExpire => exact execMovedEntryExpire_canonical h ..
  case breakpointHit => exact execBreakpointHit_canonical h ..
  case logBreakpoint => exact execLogBreakpoint_canonical h ..
  case teamStop => exact execTeamStop_canonical h ..
  case debugCont => exact execDebugCont_canonical h ..
  case debugStep => exact execDebugStep_canonical h ..
  case watchHit => exact execWatchHit_canonical h ..
  case stitchRecordReturn => exact execStitchRecordReturn_canonical h ..
  case sequencerEvent => exact execSequencerEvent_canonical h ..
  case seqWrite => exact execSeqWrite_canonical h ..
  case whrdWrite => exact execWhrdWrite_canonical h ..
  case whbaseWrite => exact execWhbaseWrite_canonical h ..
  case capbaseWrite => exact execCapbaseWrite_canonical h ..
  case registerWrite => exact execRegisterWrite_canonical h ..
  case uncorrectableError => exact execUncorrectableError_canonical h ..
  case correctedError => exact execCorrectedError_canonical h ..
  case writebackComplete => exact execWritebackComplete_canonical h ..
  case illegalInstruction => exact execIllegalInstruction_canonical h ..
  case lockGrantWithdrawal => exact execLockGrantWithdrawal_canonical h ..
  case responseCacheEntryExpiry => exact execResponseCacheEntryExpiry_canonical h ..
  case contribResend => exact execContribResend_canonical h ..
  case hostPushedRecoveryImage => exact execHostPushedRecoveryImage_canonical h ..
  -- The case that is left is that of `recall`, a keyword of Mathlib that cannot name a case.
  next => exact execRecall_canonical h ..

/-! #### The turns -/

/-- What runs the instructions keeps the canonical form. -/
def Exec.Canonical (ex : Exec) : Prop := ∀ (i : Instr) (s : State), s.Canonical → Out.Canonical (ex i s)

section
variable {s : State} {ex : Exec} (hex : ex.Canonical) (h : s.Canonical)
include hex h

theorem State.logged_canonical (g : Group) (pc : DWord) {run : State → Out} (hrun : ∀ s, State.Canonical s → Out.Canonical (run s)) :
    Out.Canonical (s.logged ex g pc run) := by
  unfold State.logged
  extract_lets r
  split
  · exact hrun s h
  · have hlog := hrun (s.setGroup r.k { g with logAt := some (r.slot, pc) }) (h.same (by simp))
    split
    · next t he =>
      have ht : t.Canonical := (he ▸ hlog :)
      split
      · exact hex _ t ht
      · exact ht.same (by simp)
    · exact hlog

theorem State.issueWord_canonical (i : Option Instr) : Out.Canonical (s.issueWord ex i) := by
  unfold State.issueWord
  extract_lets r
  split
  · exact h
  · split
    · exact h
    · extract_lets ready
      split
      · exact hex _ s h
      · split
        · exact State.logged_canonical hex h _ _ (hex _)
        · exact hex _ s h

theorem State.tryIssue_canonical (r : FragRef) : Out.Canonical (s.tryIssue ex r) := by
  have hcur : State.Canonical { s with cur := r } := h.same rfl
  unfold State.tryIssue
  dsimp only
  split
  · exact h
  · exact h
  · exact hex _ _ hcur
  · exact State.issueWord_canonical hex hcur _
  · exact State.issueWord_canonical hex hcur _

theorem State.scan_canonical (rs : List FragRef) : Out.Canonical (State.scan ex s rs) := by
  induction rs generalizing s with
  | nil => exact h
  | cons r rs ih =>
    have hissue := State.tryIssue_canonical hex h r
    unfold State.scan
    split
    · next t he =>
      have ht : t.Canonical := (he ▸ hissue :)
      split
      · exact ht
      · exact ih (ht.same rfl)
    · exact hissue

theorem State.slotTurn_canonical (k : CoreKey) (i : Nat) : Out.Canonical (s.slotTurn ex k i) := by
  have hscan := State.scan_canonical hex h (s.positions k i)
  unfold State.slotTurn
  split
  · exact h
  · split
    · next t he =>
      have ht : t.Canonical := (he ▸ hscan :)
      exact ht.same (by simp)
    · exact hscan

theorem State.takeTurn_canonical (t : Turn) : Out.Canonical (State.takeTurn ex s t) := by
  cases t with
  | event i =>
    unfold State.takeTurn
    dsimp only
    split
    · exact hex i s h
    · exact h
  | fetch r => exact hex _ { s with cur := r } (h.same rfl)
  | slot k i => exact State.slotTurn_canonical hex h k i
  | cycle k => exact h.same (State.coreCycle_memories ..)
  | table m => exact h.eventTable m

theorem State.oneStep_canonical : Out.Canonical (State.oneStep ex s) := by
  have hctr : State.Canonical { s with freeCtr := s.freeCtr + 1 } := h.same rfl
  unfold State.oneStep
  split
  · next t ts _ =>
    have htail : State.Canonical { s with agenda := ts } := h.same rfl
    exact State.takeTurn_canonical hex htail t
  · dsimp only
    split
    · exact State.takeTurn_canonical hex hctr _
    · exact hctr

end

/-- Settles O60: what a step can do to the six memories, operation by operation, keeps them in their canonical form. -/
theorem memoriesStayCanonical : Obligations.MemoriesStayCanonical := by
  intro s t h ht
  have hstep : Out.Canonical (step s) := State.oneStep_canonical (fun i _ hs => exec_canonical hs i) h
  exact (ht ▸ hstep :)

end Sys2Proof.Machine
